-- ==== Sys2Proof/Word.lean ====
section
/-! DEFINITION. The word types of the device: packets, registers and table words are 64 bits (R45, R30), memory is bytes (R10). -/
namespace Sys2Proof

/-- A 64-bit packet, register or table word. -/
abbrev Word := BitVec 64

/-- A byte of memory. -/
abbrev Byte := BitVec 8

end Sys2Proof
end

