-- ==== Sys2Proof/Syntax.lean ====
section
/-! DEFINITION. The commands of the block: one constructor of `Instr` per row of spec/opcode_table.json, and the operand types.
An operand is what arrives from outside with the step: a packet's words, a register value, a frame's bytes, a reading, the
physical cause of a fault (log 10), the bytes of host memory that the step reads (log 4). -/
namespace Sys2Proof

/-- The two halves (R8: west = 0). -/
inductive Half where
  | west
  | east
  deriving DecidableEq, Repr

/-- Fault classes (R315). -/
inductive FaultClass where
  | arrayCheck
  | arrayNonfinite
  | escapeDensity
  | scaleInvalid
  | transformCheck
  | attendCheck
  | attendNonfinite
  | attendCapacity
  | compressFormat
  | compressCheck
  | storeUncorrectable
  | translationFault
  | damperCutoff
  | poolMisuse
  | paceSlip
  | paceFault
  | stepWatchdog
  | knotWaitTimeout
  | guaranteeBreach
  | dramUncorrectable
  | dramChannelLost
  | dramTemp
  | e2eFail
  | cameraSetup
  | sensorMismatch
  | intakeStall
  | sampleSkipped
  | decodeCtrl
  | pathDown
  | compareFail
  | keyMismatch
  | pilotMismatch
  | pilotOverrun
  | weightDigest
  | hearthRetired
  | lateSpeech
  | staleResult
  | lockstepMismatch
  | leaderDispute
  | mainOut
  | outputRingFull
  | agreementMismatch
  | checkerSelftest
  | halfReset
  | outputWriter
  | voltageFault
  | thermalLimit
  | linkEpochStale
  | peerAbsent
  | replicaDigest
  | linkRetry
  deriving DecidableEq, Repr

/-- What a SECDED read found (R178, R211): nothing, a corrected single-bit error, or an uncorrectable error. -/
inductive Ecc where
  | clean
  | corrected
  | uncorrectable
  deriving DecidableEq, Repr

/-- The single-bit errors that a unit's reads met and corrected while it worked: how many in its hearth's firebox and carry store
(R99, R178), and the memory channel of each one met in DRAM (R211). -/
structure Corrected where
  store : BitVec 16
  dram  : List (BitVec 5)
  deriving DecidableEq, Repr

/-- What the receiver found in a CSI-2 packet header (R222). -/
inductive Header where
  | good
  | corrected
  | uncorrectable
  deriving DecidableEq, Repr

/-- The setup registers of a ring page (R34). -/
inductive RingReg where
  | sqBase
  | sqSize
  | rrBase
  | rrSize
  deriving DecidableEq, Repr

/-- The output rings of R31. -/
inductive OutRing where
  | event
  | fault
  | result
  | fallback
  deriving DecidableEq, Repr

/-- The output setup registers of R31 and R32. -/
inductive OutReg where
  | statusBlock
  | base (r : OutRing)
  | size (r : OutRing)
  deriving DecidableEq, Repr

/-- The units that hold a translation cache (R185). -/
inductive CacheUnit where
  | hearth (p : BitVec 5)
  | port (n : BitVec 5)
  | copyEngine
  deriving DecidableEq, Repr

/-- The source of a request that reaches a damper (R265): a physical hearth, the sequencer for a hoop's job, a fireguard, a pilot
engine, the link layer for a hoop's COLLECTIVE, the intake with the decoders, the copy engine for a hoop's copy, the patrol
scrubber. Input number and owner tag follow from it. -/
inductive Requester where
  | hearth (p : BitVec 5)
  | sequencer (half : Half) (hoop : BitVec 4)
  | fireguard (half : Half)
  | pilot (half : Half)
  | linkLayer (half : Half) (hoop : BitVec 4)
  | intake
  | copyEngine (hoop : BitVec 4)
  | scrubber (half : Half)
  deriving DecidableEq, Repr

/-- How a supply failed (R370, R387): the last ten samples of its monitor in mV, or an AVSBus transaction that failed three times. -/
inductive SupplyTrip where
  | samples (mv : List (BitVec 16))
  | avsBus (mv : BitVec 16)
  deriving DecidableEq, Repr

/-- Whose transfer a damper cut off (R270). -/
inductive Victim where
  | step (hoop : BitVec 4) (step : BitVec 20) (pos : BitVec 3)
  | copy (ring : BitVec 5) (tag : BitVec 16)
  | intake (port : BitVec 5) (sel : BitVec 4)
  deriving DecidableEq, Repr

/-- A request that enters a memory controller (R204 to R206): its source port (16 times the half plus the input number of R265
there), the data block of the channel (R202), and for a
write the byte enables and the 64 bytes. -/
structure DramReq where
  source  : BitVec 8
  write   : Bool
  block   : BitVec 26
  enables : BitVec 64
  data    : List Byte
  deriving DecidableEq, Repr

/-- The key of a fault report (R316): the gathering half, UNIT_KIND, UNIT_INDEX and CLASS. -/
structure FaultKey where
  half  : Half
  kind  : BitVec 8
  index : BitVec 8
  cls   : FaultClass
  deriving DecidableEq, Repr

/-- The commands: one constructor per row of spec/opcode_table.json. -/
inductive Instr where
  -- Ring packets (R45, R48): the ring and the words fetched
  /-- NOP: R48; also a packet whose OPCODE the table of R48 does not list (R46 step 1). -/
  | nop (ring : BitVec 5) (pkt : List Word)
  /-- GET_STATUS: R48. -/
  | getStatus (ring : BitVec 5) (pkt : List Word)
  /-- READ_COUNTERS: R48. -/
  | readCounters (ring : BitVec 5) (pkt : List Word)
  /-- LOAD_IMAGE: R379: accepted in BANKED and queued. -/
  | loadImage (ring : BitVec 5) (pkt : List Word)
  /-- IMAGE_LOAD: R379: the oldest queued load runs on the bytes host memory holds at its SRC. -/
  | imageLoad (img : List Byte)
  /-- OPEN_OUTPUTS: R51. -/
  | openOutputs (ring : BitVec 5) (pkt : List Word)
  /-- CLOSE_OUTPUTS: R51. -/
  | closeOutputs (ring : BitVec 5) (pkt : List Word)
  /-- RESET_HALF: R385. -/
  | resetHalf (ring : BitVec 5) (pkt : List Word)
  /-- RESET_DEVICE: R51, R384. -/
  | resetDevice (ring : BitVec 5) (pkt : List Word) (mempop : BitVec 2)
  /-- SET_TIME: R50. -/
  | setTime (ring : BitVec 5) (pkt : List Word)
  /-- SET_RECORD_MODE: R358, R364; `sink`: what host memory holds at SINK, read when replay starts. -/
  | setRecordMode (ring : BitVec 5) (pkt : List Word) (sink : List Byte)
  /-- PROPOSE_PROTECTION: R276, R278; `bytes`: the proposal at SRC. -/
  | proposeProtection (ring : BitVec 5) (pkt : List Word) (bytes : List Byte)
  /-- WITHDRAW_PROPOSAL: R279. -/
  | withdrawProposal (ring : BitVec 5) (pkt : List Word)
  /-- SET_FRAME_RING: R233. -/
  | setFrameRing (ring : BitVec 5) (pkt : List Word)
  /-- COMMIT_ROUTES: R236. -/
  | commitRoutes (ring : BitVec 5) (pkt : List Word)
  /-- START_JOB: R411, R262. -/
  | startJob (ring : BitVec 5) (pkt : List Word)
  /-- CANCEL_JOB: R52, R61. -/
  | cancelJob (ring : BitVec 5) (pkt : List Word)
  /-- KNOT_SET: R65. -/
  | knotSet (ring : BitVec 5) (pkt : List Word)
  /-- KNOT_READ: R65. -/
  | knotRead (ring : BitVec 5) (pkt : List Word)
  /-- COPY_IN: R192. -/
  | copyIn (ring : BitVec 5) (pkt : List Word)
  /-- COPY_OUT: R192. -/
  | copyOut (ring : BitVec 5) (pkt : List Word)
  /-- COPY_DONE: R192: the copy that this ring and tag started ends; `data`: the host bytes of a COPY_IN; `stop`: an uncorrectable error after that many bytes; `fixed`: the channels of corrected errors. -/
  | copyDone (ring : BitVec 5) (tag : BitVec 16) (data : List Byte) (stop : Option Nat) (fixed : List (BitVec 5))
  /-- INVALIDATE_TRANSLATION: R186. -/
  | invalidateTranslation (ring : BitVec 5) (pkt : List Word)
  /-- INVALIDATION_COMPLETE: R186: the n-th invalidation in flight, oldest first, completes. -/
  | invalidationComplete (n : Nat)
  /-- BUFFER_ALLOC: R195. -/
  | bufferAlloc (ring : BitVec 5) (pkt : List Word)
  /-- BUFFER_FREE: R196. -/
  | bufferFree (ring : BitVec 5) (pkt : List Word)
  /-- COMMIT_TOPOLOGY: R335, R337; `record`: the topology record at SRC. -/
  | commitTopology (ring : BitVec 5) (pkt : List Word) (record : List Byte)
  -- BAR0 writes (R29 to R36)
  /-- HST_SQ_DOORBELL: R36. -/
  | hstSqDoorbell (ring : BitVec 5) (value : Word)
  /-- RING_ENABLE: R35: HST_RING_CTRL written with ENABLE 1; `w1c`: the OVERRUN bit of the write. -/
  | ringEnable (ring : BitVec 5) (w1c : Bool)
  /-- RING_DISABLE: R35: HST_RING_CTRL written with ENABLE 0. -/
  | ringDisable (ring : BitVec 5) (w1c : Bool)
  /-- OVERRUN_CLEAR: R36: HST_RING_CTRL written with OVERRUN 1; `enable`: the ENABLE bit of the write. -/
  | overrunClear (ring : BitVec 5) (enable : Bool)
  /-- RING_PAGE_SETUP_WRITE: R35. -/
  | ringPageSetupWrite (ring : BitVec 5) (reg : RingReg) (value : Word)
  /-- OUTPUT_RING_SETUP_WRITE: R32. -/
  | outputRingSetupWrite (reg : OutReg) (value : Word)
  /-- DBG_BASE_WRITE: R32. -/
  | dbgBaseWrite (value : Word)
  /-- FG_SPEED_CLEAR: R27: FG_SPEED written with CLEAR 1. -/
  | fgSpeedClear (half : Half)
  /-- REGISTER_WRITE: R30: a write of `size` bytes at any BAR0 offset. -/
  | registerWrite (off : BitVec 24) (size : BitVec 4) (value : Word)
  /-- STATUS_BLOCK_REFRESH: R43: the periodic copy of HST_STATUS. -/
  | statusBlockRefresh
  -- The sequencer and its units
  /-- PACE_TICK: R67: a pace tick, with the speed-monitor reading of each half (R27). -/
  | paceTick (west east : BitVec 16)
  /-- UNPACED_RELEASE: R70. -/
  | unpacedRelease (hoop : BitVec 4)
  /-- ARGUMENT_READ_DONE: R57. -/
  | argumentReadDone (hoop : BitVec 4) (ecc : Ecc)
  /-- PASS_GROUP_COMMIT: R92: the pass group of the step ends on the hearth at logical position `pos` of the half, with no upset. -/
  | passGroupCommit (hoop : BitVec 4) (step : BitVec 20) (pos : BitVec 3) (fixed : Corrected)
  /-- PASS_GROUP_ABANDON: R99: a pass group, transform or attend step stops on a fault found by its checks or its memory;
  `writeOut`: the duplicated write-out conversions of a pass group disagree. -/
  | passGroupAbandon (hoop : BitVec 4) (step : BitVec 20) (pos : BitVec 3) (cause : FaultClass) (pass : BitVec 8) (writeOut : Bool)
      (fixed : Corrected)
  /-- TRANSFORM_COMMIT: R141. -/
  | transformCommit (hoop : BitVec 4) (step : BitVec 20) (pos : BitVec 3) (fixed : Corrected)
  /-- ATTEND_COMMIT: R158. -/
  | attendCommit (hoop : BitVec 4) (step : BitVec 20) (pos : BitVec 3) (fixed : Corrected)
  /-- APPEND_DONE: R154: the APPEND phase ends; `stop`: stopped by this fault after that many whole tokens. -/
  | appendDone (hoop : BitVec 4) (step : BitVec 20) (pos : BitVec 3) (stop : Option (Nat × FaultClass)) (fixed : Corrected)
  /-- TRANSFER_DONE: R191: the engine at `pos` ends; `stop`: faulted after that many writes were acknowledged. -/
  | transferDone (hoop : BitVec 4) (step : BitVec 20) (pos : BitVec 3) (stop : Option (Nat × FaultClass)) (fixed : Corrected)
  /-- RESULT_HANDOVER: R289. -/
  | resultHandover (hoop : BitVec 4) (step : BitVec 20)
  /-- COLLECTIVE_DONE: R340; `stop`: faulted after that many elements were written. -/
  | collectiveDone (hoop : BitVec 4) (step : BitVec 20) (stop : Option (Nat × FaultClass)) (fixed : List (BitVec 5))
  /-- STEP_WATCHDOG: R73. -/
  | stepWatchdog (hoop : BitVec 4) (step : BitVec 20)
  /-- KNOT_WAIT_TIMEOUT: R74. -/
  | knotWaitTimeout (hoop : BitVec 4)
  -- Translation, dampers and DRAM
  /-- TRANSLATION_WALK: R183, R185: a cache miss of the unit walks the tables; `ecc`: what its read at `level` found (0 for level 1). -/
  | translationWalk (unit : CacheUnit) (ctx : BitVec 12) (va : BitVec 48) (write : Bool) (level : BitVec 2) (ecc : Ecc)
  /-- DAMPER_REQUEST: R267: at global damper g the held transfers of some sources have ended (R270), requests arrive, and the damper
  grants one of those pending. -/
  | damperRequest (g : BitVec 6) (ended arrivals : List Requester)
  /-- DAMPER_CUTOFF: R270. -/
  | damperCutoff (g : BitVec 6) (victim : Victim)
  /-- DAMPER_SHED: R273: the live capacity falls to this many 1/256 of C. -/
  | damperShed (g : BitVec 6) (capacity : BitVec 9)
  /-- DRAM_REQUEST: R206: requests enter the queue and the scheduler serves one; its ECC outcome and its latency. -/
  | dramRequest (ch : BitVec 5) (arrivals : List DramReq) (ecc : Ecc) (ns : BitVec 16)
  /-- DRAM_REFRESH: R212. -/
  | dramRefresh (ch : BitVec 5) (pair : BitVec 3)
  /-- MR4_READ: R212. -/
  | mr4Read (ch : BitVec 5) (report : BitVec 2)
  /-- SELF_REFRESH_ENTRY: R214; `winner`: a request that arrives before the entry command is issued. -/
  | selfRefreshEntry (ch : BitVec 5) (winner : Option DramReq)
  /-- SELF_REFRESH_EXIT: R215. -/
  | selfRefreshExit (ch : BitVec 5)
  /-- FREQUENCY_CHANGE: R217. -/
  | frequencyChange (half : Half)
  /-- DRIFT_CHECK: R218. -/
  | driftCheck (ch : BitVec 5)
  /-- ZQ_CALIBRATION: R218. -/
  | zqCalibration (ch : BitVec 5)
  /-- PATROL_SCRUB: R211. -/
  | patrolScrub (ch : BitVec 5) (ecc : Ecc)
  /-- PHY_LOCK_LOSS: R219. -/
  | phyLockLoss (ch : BitVec 5)
  -- Intake and decoders
  /-- APHY_PARTNER_DETECTED: R223. -/
  | aphyPartnerDetected (port : BitVec 5)
  /-- CAMERA_DISCOVERY_DONE: R223: the identity block read and how many script writes were acknowledged. -/
  | cameraDiscoveryDone (port : BitVec 5) (identity : List Byte) (acked : Nat)
  /-- APHY_LOCK_LOSS: R225. -/
  | aphyLockLoss (port : BitVec 5)
  /-- FRAME_START: R236. -/
  | frameStart (port : BitVec 5) (vc : BitVec 4) (header : Header)
  /-- CSI2_LONG_PACKET: R222, R235. -/
  | csi2LongPacket (port : BitVec 5) (vc : BitVec 4) (dt : BitVec 6) (payload : List Byte) (crcOk : Bool) (header : Header)
  /-- EMBEDDED_DATA: R240. -/
  | embeddedData (port : BitVec 5) (vc : BitVec 4) (payload : List Byte) (crcOk : Bool) (header : Header)
  /-- FRAME_END: R222. -/
  | frameEnd (port : BitVec 5) (vc : BitVec 4) (header : Header)
  /-- LIDAR_PACKET: R227: an Ethernet frame without its FCS. -/
  | lidarPacket (port : BitVec 5) (frame : List Byte)
  /-- FRAME_COMPLETE: R235. -/
  | frameComplete (port : BitVec 5) (sel : BitVec 4) (ecc : Ecc)
  /-- NETWORK_LINK_DOWN: R229. -/
  | networkLinkDown (port : BitVec 5)
  /-- LIDAR_SILENCE: R229. -/
  | lidarSilence (port : BitVec 5) (sel : BitVec 4)
  /-- INTAKE_STALL: R230. -/
  | intakeStall (port : BitVec 5) (sel : BitVec 4)
  /-- DECODER_EPOCH_START: R251. -/
  | decoderEpochStart (d : BitVec 2)
  /-- DECODED_PICTURE: R251, R253. -/
  | decodedPicture (d : BitVec 2)
  -- Pilots, keys and the output writer
  /-- PILOT_DONE: R288: `upset` is xored into the digest by a fault of that pilot; 0 without one. -/
  | pilotDone (half : Half) (upset : Word)
  /-- PILOT_OVERRUN: R288. -/
  | pilotOverrun (half : Half)
  /-- KEY_DECISION: R293: the fireguard answers the oldest handover of the stream that it has not answered; `upset` as in PILOT_DONE. -/
  | keyDecision (half : Half) (stream : BitVec 6) (upset : Word)
  /-- PILOT_MISSING: R293. -/
  | pilotMissing (half : Half) (stream : BitVec 6)
  /-- RECORD_COMPOSE: R295. -/
  | recordCompose (stream : BitVec 6)
  /-- KEY_ANSWER_TIMEOUT: R295. -/
  | keyAnswerTimeout (stream : BitVec 6)
  /-- HOLD_RECORD: R301. -/
  | holdRecord (stream : BitVec 6)
  /-- OUTPUT_WRITER: R300: the standby copy found a difference, or the writing copy fell silent. -/
  | outputWriter (silent : Bool)
  /-- HEARTBEAT_TOGGLE: R302. -/
  | heartbeatToggle (half : Half)
  /-- WEIGHT_DIGEST_CHECK: R305. -/
  | weightDigestCheck (half : Half)
  -- Half resets
  /-- HALF_RESET: R386. -/
  | halfReset (half : Half)
  /-- HALF_RESET_RELEASE: R386. -/
  | halfResetRelease (half : Half)
  /-- HALF_RESTART: R386: which channels retrained, whether every checker flagged its injection, and which physical hearths (8: the spare) passed their retest. -/
  | halfRestart (half : Half) (trained : BitVec 16) (injections : Bool) (pass : BitVec 9)
  /-- HALF_RESET_TIMEOUT: R385. -/
  | halfResetTimeout (half : Half)
  -- Fault records, retirement, leadership
  /-- FAULT_COALESCE_EXPIRY: R316. -/
  | faultCoalesceExpiry (key : FaultKey)
  /-- FAULT_REPEAT_EXPIRY: R316. -/
  | faultRepeatExpiry (key : FaultKey)
  /-- FAULT_RECORD_WRITE: R317. -/
  | faultRecordWrite
  /-- RETEST_DONE: R318. -/
  | retestDone (half : Half) (pos : BitVec 3) (pass : Bool)
  /-- FENCE_KNOT_SET: R319. -/
  | fenceKnotSet (half : Half) (pos : BitVec 3)
  /-- STALE_RESULT: R319. -/
  | staleResult (half : Half) (pos : BitVec 3) (generation : BitVec 16)
  /-- LATE_SPEECH: R320. -/
  | lateSpeech (p : BitVec 5)
  /-- CLAIM_EXCHANGE: R321, R322: an upset inverts what that fireguard's claim word says of its claim. -/
  | claimExchange (upsetWest upsetEast : Bool)
  /-- CLAIM_SILENCE: R322: the exchange from that half is silent for 8 µs. -/
  | claimSilence (half : Half)
  -- Tally port: the 32 bytes received
  /-- POLL: R282. -/
  | poll (frame : List Byte)
  /-- CONFIRM: R278. -/
  | confirm (frame : List Byte)
  /-- REFUSE: R278. -/
  | refuse (frame : List Byte)
  /-- NAME_LEADER: R323. -/
  | nameLeader (frame : List Byte)
  /-- TALLY_BAD_FRAME: R281. -/
  | tallyBadFrame (frame : List Byte)
  /-- AGREEMENT_TIMEOUT: R278. -/
  | agreementTimeout
  /-- PPS_IN_EDGE: R50, R408. -/
  | ppsInEdge
  /-- SET_TIME_NO_PPS: R50. -/
  | setTimeNoPps
  -- Kreong Link: the link and the 256 bytes of a flit
  /-- LINK_SIGNAL_DETECTED: R350. -/
  | linkSignalDetected (k : BitVec 3)
  /-- FEC_LOCK: R326. -/
  | fecLock (k : BitVec 3)
  /-- IDENTITY_SEND: R330. -/
  | identitySend (k : BitVec 3)
  /-- FLIT_DATA: R327, R339. -/
  | flitData (k : BitVec 3) (flit : List Byte)
  /-- FLIT_CONTROL: R327, R339. -/
  | flitControl (k : BitVec 3) (flit : List Byte)
  /-- FLIT_IDENTITY: R331. -/
  | flitIdentity (k : BitVec 3) (flit : List Byte)
  /-- FLIT_NAK: R328. -/
  | flitNak (k : BitVec 3) (flit : List Byte)
  /-- FLIT_IDLE: R327. -/
  | flitIdle (k : BitVec 3) (flit : List Byte)
  /-- FLIT_CORRUPT: R328; `fec`: a codeword could not be corrected (R326). -/
  | flitCorrupt (k : BitVec 3) (flit : List Byte) (fec : Bool)
  /-- LINK_TIMEOUT: R332. -/
  | linkTimeout (k : BitVec 3)
  /-- LANE_LOCK_LOSS: R332. -/
  | laneLockLoss (k : BitVec 3)
  /-- WAIT_EXCEEDED: R342. -/
  | waitExceeded (hoop : BitVec 4) (step : BitVec 20)
  /-- REPLICA_ROUND_START: R348. -/
  | replicaRoundStart (entry : BitVec 4)
  /-- REPLICA_ROUND_TIMEOUT: R349. -/
  | replicaRoundTimeout (entry : BitVec 4)
  /-- REPLAY_DELIVER: R365. -/
  | replayDeliver
  -- Supplies, throttles, reset and start-up
  /-- VOLTAGE_FAULT: R370, R387. -/
  | voltageFault (half : Half) (rail : BitVec 3) (trip : SupplyTrip)
  /-- CLOCK_FAULT: R401. -/
  | clockFault (half : Half) (refclk : Bool) (khz : BitVec 32)
  /-- POWER_LOOP: R388, R389: P in W, T in °C (two's complement), and whether the stretch has a further step. -/
  | powerLoop (power : BitVec 16) (temp : BitVec 8) (mayRise : Bool)
  /-- PORESET_ASSERT: R384. -/
  | poresetAssert
  /-- PORESET_RELEASE: R374, R403. -/
  | poresetRelease (mempop : BitVec 2)
  /-- BOOT_PACKAGE_READ: R373: what the flash answers for the slot. -/
  | bootPackageRead (slotB : Bool) (package : List Byte)
  /-- STORES_TESTED: R374. -/
  | storesTested (pass : Bool)
  /-- DRAM_TRAINING_DONE: R199, R218: each channel's density code (0: no answer) and which trained. -/
  | dramTrainingDone (density : List (BitVec 2)) (trained : BitVec 32)
  /-- CHECKER_INJECTIONS_DONE: R310: whether a checker of each half failed to flag. -/
  | checkerInjectionsDone (failedWest failedEast : Bool)
  /-- KINDLING_DONE: R374: which physical hearths passed their known-answer groups. -/
  | kindlingDone (pass : BitVec 18)
  /-- FLASH_IMAGE_AUTOLOAD: R380. -/
  | flashImageAutoload (img : List Byte)
  /-- LOCKSTEP_MISMATCH: R308. -/
  | lockstepMismatch (half : Half)
  /-- PATH_FAILED: R21. -/
  | pathFailed (half : Half)
  /-- APHY_LINK_TRAINED: R223. -/
  | aphyLinkTrained (port : BitVec 5) (gear : BitVec 3)
  /-- NETWORK_LINK_UP: R229. -/
  | networkLinkUp (port : BitVec 5)
  /-- REPLICA_DIGEST_COMPUTED: R348. -/
  | replicaDigestComputed (entry : BitVec 4) (ecc : Ecc)
  deriving DecidableEq, Repr

end Sys2Proof
end

