-- ==== Sys2Proof/Config.lean ====
section
/-! DEFINITION. What the manual leaves open: free values, opaque so that no proof can see one (log 5, log 6). -/
namespace Sys2Proof

/-- A decoded picture: the profile and level that its stream names (profile_idc, level in tenths), its luma size, its bit depth, and its
samples as NV12 or P010 bytes (R249). -/
structure Coded where
  profile : Nat
  level   : Nat
  width   : Nat
  height  : Nat
  depth   : Nat
  samples : List Byte
  deriving DecidableEq, Repr, Inhabited

end Sys2Proof

namespace Sys2Proof.Config

/-- A byte the manual calls unspecified: `salt` names the event that made it so, the second argument its address
(R92, R99, R189, R413; log 5). Host memory read through a host window is such a byte as well (log 4). -/
opaque freeByte : Nat → Nat → Byte

/-- Which entry a full translation cache gives up for a new leaf; the manual leaves it unspecified (R185; log 13). -/
opaque freePick : Nat → Nat

/-- Array rounds of an abandoned part beyond none: no rule states more than a bound (R99, R114). The descriptor's words, the class
of the fault, the pass (log 17). -/
opaque stopRounds (words : List Word) (cls pass : Nat) : Nat

/-- Array rounds of an ATTEND step beyond those of R159 with every fetch granted in full: the descriptor's words and the blocks
run. R354 fixes them by the step's inputs (log 20). -/
opaque attendWait (words : List Word) (blocks : Nat) : Nat

/-- E of R148 for an argument above 0, by FP32 codes: not stated (log 20). -/
opaque expAbove (t : Nat) : BitVec 32

/-- A quotient of R156 with a zero or non-finite operand, by FP32 codes: not stated (log 20). -/
opaque divOpen (a b : Nat) : BitVec 32

/-- Component `c` that pixel `x` of a line of RAW12 samples gives an RGB tensor: R244 and R245 state none (log 28). -/
opaque rawRgb (line : List Nat) (x c : Nat) : Rat

/-- Byte `i` that a line or picture shorter than its recipe's lacks: R242 flags it and states no byte (log 24). -/
opaque lineFill (line : List Byte) (i : Nat) : Byte

/-- A field of a frame record whose value has not arrived (R234, R235): the key, SEQ and the field (log 25). -/
opaque frameField (key : Nat) (seq : Word) (field : Nat) : Nat

/-- The record buffer takes an entry that the total of 4 MiB recorded so far does not settle: how fast the host link empties the
buffer is its own matter (R363): the entries before, when, the entry's bytes (log 44). -/
opaque recordFits (entries at_ bytes : Nat) : Bool

/-- The pictures of a coded byte string in output order, up to its first syntax error: ITU-T H.265, or H.264, defines them bit for bit
(R4, R249; log 11). -/
opaque decodeVideo (h264 : Bool) (bits : List Byte) : List Coded

/-- The SECDED check byte of a 64-bit word: R211 names no code (log 51). -/
opaque checkByte (word : Nat) : Byte

/-- The base refresh interval tREFI in PACECLK half-periods: the LPDDR5X device's own figure (R212; log 51). -/
opaque tREFI : Nat

/-- The two banks that one refresh of bank pair `p` closes, by index 0 and 1; the manual does not say which banks pair up
(R212; log 22). -/
opaque bankPair (p i : Nat) : Nat

/-! What a DATA or CONTROL flit's 240 payload bytes mean is the link layer's own matter: R339 to R348 say what messages carry, not
how their bytes lie or which links they take (log 34). -/

/-- The message that a run of DATA payloads received on a link ends: sender's rank, header as the words of its descriptor (R340),
and data; none while it is incomplete. -/
opaque messageOf (payloads : List (List Byte)) : Option (Nat × List Word × List Byte)

/-- The DATA payloads of a message from a rank, each with the link 0 to 3 of the half that it leaves on. -/
opaque messageFlits (rank : Nat) (head : List Word) (data : List Byte) : List (Nat × List Byte)

/-- The replica digest that a CONTROL payload carries: entry, round, rank and digest (R348). -/
opaque controlOf (payload : List Byte) : Option (Nat × Nat × Nat × List Byte)

/-- The CONTROL payloads of a replica digest, each with the link 0 to 3 of the half that it leaves on. -/
opaque controlFlits (entry k rank : Nat) (digest : List Byte) : List (Nat × List Byte)

/-- The payloads that an accepted payload makes a device send on, each with its link 0 to 3 of the half. -/
opaque relayFlits (link : Nat) (payload : List Byte) : List (Nat × List Byte)

end Sys2Proof.Config
end

