-- ==== Sys2Proof/Machine/Bits.lean ====
section
/-! DEFINITION. Bit fields, byte order, the two CRCs of R5, keyed tables and byte stores. -/
namespace Sys2Proof.Machine

/-! ### Fields (R10) -/

/-- Bits `[hi:lo]` of a word, as a number (R10: bit 0 is the least significant). -/
def fld (w : Word) (hi lo : Nat) : Nat := (w.toNat >>> lo) % 2 ^ (hi + 1 - lo)

/-- Bit `i` of a word. -/
def bitAt (w : Word) (i : Nat) : Bool := w.toNat.testBit i

/-- A `width`-bit field read as two's complement. -/
def signed (width n : Nat) : Int := if n < 2 ^ (width - 1) then (n : Int) else (n : Int) - 2 ^ width

/-- A number placed at bit `lo`, for composing register and record words. -/
def at_ (lo n : Nat) : Nat := n * 2 ^ lo

/-- A one-bit field at bit `lo`. -/
def bitTo (lo : Nat) (b : Bool) : Nat := if b then 2 ^ lo else 0

/-- Ceiling division; by zero it answers 0. -/
def ceilDiv (a b : Nat) : Nat := if b = 0 then 0 else (a + b - 1) / b

/-- A counter that saturates at `max`. -/
def satAdd (max n k : Nat) : Nat := min max (n + k)

/-! ### Byte order (R10: little-endian) -/

/-- `n` bytes of a number, lowest-addressed byte first. -/
def toLE : Nat → Nat → List Byte
  | 0, _ => []
  | n + 1, v => BitVec.ofNat 8 v :: toLE n (v / 256)

/-- The number that a little-endian byte string holds. -/
def ofLE : List Byte → Nat
  | [] => 0
  | b :: t => b.toNat + 256 * ofLE t

/-- The number that a big-endian byte string holds (R372 keys, network headers). -/
def ofBE (bs : List Byte) : Nat := bs.foldl (fun a b => a * 256 + b.toNat) 0

/-- Bytes `off` to `off + n - 1` of a string; bytes past its end read 0. -/
def slice (bs : List Byte) (off n : Nat) : List Byte :=
  let t := (bs.drop off).take n
  t ++ List.replicate (n - t.length) 0

/-- The 64-bit word at byte offset `off` of a string. -/
def wordAt (bs : List Byte) (off : Nat) : Word := BitVec.ofNat 64 (ofLE (slice bs off 8))

/-- The bytes of a list of words. -/
def wordsBytes (ws : List Word) : List Byte := ws.flatMap fun w => toLE 8 w.toNat

/-- A string padded with zeros to a multiple of `k` bytes. -/
def padTo (k : Nat) (bs : List Byte) : List Byte :=
  bs ++ List.replicate (ceilDiv bs.length k * k - bs.length) 0

/-! ### CRCs (R5) -/

/-- One bit of the reflected CRC-32C register. -/
def crc32cBit (c : BitVec 32) : BitVec 32 :=
  if c.getLsbD 0 then (c >>> 1) ^^^ 0x82F63B78#32 else c >>> 1

/-- One byte of CRC-32C. -/
def crc32cByte (c : BitVec 32) (b : Byte) : BitVec 32 :=
  (List.range 8).foldl (fun c _ => crc32cBit c) (c ^^^ b.zeroExtend 32)

/-- CRC-32C of a byte string: polynomial 0x1EDC_6F41 reflected, initial and final value all ones. -/
def crc32c (bs : List Byte) : BitVec 32 := (bs.foldl crc32cByte 0xFFFFFFFF#32) ^^^ 0xFFFFFFFF#32

/-- One byte of the tally port's CRC-16. -/
def crc16Byte (c : BitVec 16) (b : Byte) : BitVec 16 :=
  (List.range 8).foldl (fun c _ => if c.getLsbD 15 then (c <<< 1) ^^^ 0x1021#16 else c <<< 1)
    (c ^^^ (b.zeroExtend 16 <<< 8))

/-- CRC-16 of a byte string: polynomial 0x1021, not reflected, initial value all ones. -/
def crc16 (bs : List Byte) : BitVec 16 := bs.foldl crc16Byte 0xFFFF#16

/-! ### Keyed tables: what the device holds once per ring, knot, hearth, channel, key -/

/-- A sparse table in rising key order; an unlisted key holds the table's default. -/
abbrev Tab (α : Type) := List (Nat × α)

/-- What key `k` holds; `d` is the default. -/
def Tab.get {α : Type} (d : α) : Tab α → Nat → α
  | [], _ => d
  | (k', v) :: t, k => if k = k' then v else if k < k' then d else Tab.get d t k

/-- The table with key `k` set. -/
def Tab.set {α : Type} : Tab α → Nat → α → Tab α
  | [], k, v => [(k, v)]
  | (k', v') :: t, k, v =>
    if k < k' then (k, v) :: (k', v') :: t
    else if k = k' then (k, v) :: t
    else (k', v') :: Tab.set t k v

/-- The table with key `k` changed by `f`. -/
def Tab.upd {α : Type} (d : α) (t : Tab α) (k : Nat) (f : α → α) : Tab α := t.set k (f (t.get d k))

/-- The keys of a table are strictly rising. -/
def Tab.wf {α : Type} : Tab α → Bool
  | [] => true
  | [_] => true
  | (k, _) :: (k', v') :: t => decide (k < k') && Tab.wf ((k', v') :: t)

/-! ### Byte memories -/

/-- A byte memory as a list of cells, addresses strictly rising. -/
abbrev Memory := List Host.Cell

/-- The listed byte of an address, if any. -/
def Memory.find : Memory → Nat → Option Byte
  | [], _ => none
  | (a', b) :: t, a => if a = a' then some b else if a < a' then none else Memory.find t a

/-- The memory with one cell listed. -/
def Memory.put : Memory → Nat → Byte → Memory
  | [], a, b => [(a, b)]
  | (a', b') :: t, a, b =>
    if a < a' then (a, b) :: (a', b') :: t
    else if a = a' then (a, b) :: t
    else (a', b') :: Memory.put t a b

/-- The memory with one cell no longer listed. -/
def Memory.drop_ (m : Memory) (a : Nat) : Memory := m.filter fun c => c.1 != a

/-- The canonical form of a memory: addresses strictly rising. -/
def Memory.wf (m : Memory) : Bool := Tab.wf m

/-- A store of bytes. A page (4 KiB) with salt 0 was cleared: an unlisted byte reads 0. A page with another salt is
unspecified: an unlisted byte reads a free value that the salt names (log 5). `base` is the salt of a page not named. -/
structure Store where
  cells : Memory
  base  : Nat
  salts : Tab Nat
  deriving DecidableEq, Repr

/-- A store cleared to zero (R374, R384). -/
def Store.zero : Store := ⟨[], 0, []⟩

/-- A store whose every byte is unspecified (R413). -/
def Store.unspecified (salt : Nat) : Store := ⟨[], salt, []⟩

/-- The salt of the page that holds an address. -/
def Store.saltOf (m : Store) (a : Nat) : Nat := Tab.get m.base m.salts (a / 4096)

/-- What an unlisted address reads as. -/
def Store.unlisted (m : Store) (a : Nat) : Byte :=
  if m.saltOf a = 0 then 0 else Config.freeByte (m.saltOf a) a

/-- One byte of a store. -/
def Store.read (m : Store) (a : Nat) : Byte := (m.cells.find a).getD (m.unlisted a)

/-- A store with one byte written; a zero in a cleared page is not listed, so that equal contents are equal data. -/
def Store.write (m : Store) (a : Nat) (b : Byte) : Store :=
  if m.saltOf a = 0 ∧ b = 0 then { m with cells := m.cells.drop_ a }
  else { m with cells := m.cells.put a b }

/-- `n` bytes from address `a`, in address order. -/
def Store.readN (m : Store) (a n : Nat) : List Byte := (List.range n).map fun i => m.read (a + i)

/-- A byte string written from address `a` in increasing address order. -/
def Store.writeN (m : Store) : Nat → List Byte → Store
  | _, [] => m
  | a, b :: t => Store.writeN (m.write a b) (a + 1) t

/-- The little-endian number of `n` bytes at `a`. -/
def Store.num (m : Store) (a n : Nat) : Nat := ofLE (m.readN a n)

/-- The 64-bit word at `a`. -/
def Store.word (m : Store) (a : Nat) : Word := BitVec.ofNat 64 (m.num a 8)

/-- A store whose page `p` is cleared (salt 0) or made unspecified (another salt). -/
def Store.setPage (m : Store) (p salt : Nat) : Store :=
  { m with cells := m.cells.filter fun c => c.1 / 4096 != p,
           salts := if salt = m.base then m.salts.filter (fun e => e.1 != p) else m.salts.set p salt }

/-- The canonical form of a store: rising addresses and pages, no page listed with the base salt, and no zero listed in a
cleared page. -/
def Store.wf (m : Store) : Bool :=
  Memory.wf m.cells && Tab.wf m.salts && (m.salts.all fun e => e.2 != m.base)
    && m.cells.all fun c => !(m.saltOf c.1 == 0 && c.2 == 0)

end Sys2Proof.Machine
end

