-- ==== Sys2Proof/Machine/NumFmt.lean ====
section
/-! DEFINITION. Number formats: decoding, exact values, roundings, write-out and the stochastic generator (R103 to R121, R148). -/
namespace Sys2Proof.Machine

/-! ### Format codes (R103) -/

/-- Width in bits of a format code. -/
def fmtWidth : Nat → Nat
  | 0 | 1 | 6 | 8 => 4
  | 7 | 9 | 10 => 6
  | 2 | 3 | 11 | 12 => 8
  | 4 | 13 | 14 => 16
  | _ => 32

/-- Integer class. -/
def fmtInt (f : Nat) : Bool := decide (f ≤ 5)

/-- Grid class. -/
def fmtGrid (f : Nat) : Bool := f == 6 || f == 7

/-- Float class. -/
def fmtFloat (f : Nat) : Bool := decide (8 ≤ f)

/-- Raw range of an integer format. -/
def intRange : Nat → Int × Int
  | 0 => (-8, 7)
  | 1 => (0, 15)
  | 2 => (-128, 127)
  | 3 => (0, 255)
  | 4 => (-32768, 32767)
  | _ => (-2147483648, 2147483647)

/-- The raw value of an integer code. -/
def intRaw (f raw : Nat) : Int := if f = 1 ∨ f = 3 then (raw : Int) else signed (fmtWidth f) raw

/-- The code of a raw integer value. -/
def intCode (f : Nat) (v : Int) : Nat := (v % (2 ^ fmtWidth f : Int)).toNat

/-- Permitted zero points of an operand format (R105). -/
def zpRange : Nat → Int × Int
  | 0 => (-8, 7)
  | 1 => (0, 15)
  | 2 => (-128, 127)
  | 3 => (0, 255)
  | 4 => (-256, 255)
  | _ => (0, 0)

/-- Permitted output zero points (R115). -/
def zpOutRange (f : Nat) : Int × Int := if f = 5 then (0, 0) else zpRange f

/-- Whether a zero point lies in a range. -/
def inRange (r : Int × Int) (z : Int) : Bool := decide (r.1 ≤ z) && decide (z ≤ r.2)

/-! ### Packing (R104): a row is one little-endian bit string -/

/-- Bytes of a packed row of `n` elements of `w` bits. -/
def packedBytes (n w : Nat) : Nat := ceilDiv (n * w) 8

/-- A row of element codes, packed. -/
def packElems (w : Nat) (es : List Nat) : List Byte :=
  toLE (packedBytes es.length w) (es.foldr (fun e acc => e % 2 ^ w + acc * 2 ^ w) 0)

/-- The bytes that hold element `i` of a row: first byte offset, and how many. -/
def elemSpan (w i : Nat) : Nat × Nat := (i * w / 8, ceilDiv (i * w % 8 + w) 8)

/-- Element `i` of the row at `base`, through a byte reader. -/
def elemRead (rd : Nat → Byte) (base w i : Nat) : Nat :=
  let (o, n) := elemSpan w i
  (ofLE ((List.range n).map fun k => rd (base + o + k)) >>> (i * w % 8)) % 2 ^ w

/-! ### Exact values -/

/-- A float value: NaN, an infinity, or an exact finite value of any magnitude with its sign (R106). -/
inductive FVal where
  | nan
  | inf (neg : Bool)
  | fin (neg : Bool) (mag : Rat)
  deriving DecidableEq, Repr

/-- Positive zero. -/
def FVal.zero : FVal := .fin false 0

/-- The exact value of a rational. -/
def FVal.ofRat (q : Rat) : FVal := .fin (decide (q < 0)) (if q < 0 then -q else q)

/-- The rational of a finite value; 0 for the others. -/
def FVal.toRat : FVal → Rat
  | .fin n m => if n then -m else m
  | _ => 0

/-- Inf or NaN. -/
def FVal.nonfinite : FVal → Bool
  | .fin _ _ => false
  | _ => true

/-- The negated value. -/
def FVal.neg : FVal → FVal
  | .nan => .nan
  | .inf n => .inf (!n)
  | .fin n m => .fin (!n) m

/-- 2 to an integer power. -/
def pow2 (e : Int) : Rat := if 0 ≤ e then ((2 ^ e.toNat : Nat) : Rat) else 1 / ((2 ^ (-e).toNat : Nat) : Rat)

/-- The largest e with 2^e ≤ q, for a positive q. -/
def log2Floor (q : Rat) : Int :=
  let l : Int := (Nat.log2 q.num.toNat : Int) - (Nat.log2 q.den : Int)
  if pow2 l ≤ q then l else l - 1

/-- Round to the nearest integer, ties to even (RNE of R117). -/
def rne (q : Rat) : Int :=
  let f := q.floor
  let r := q - (f : Rat)
  if r < 1 / 2 then f else if 1 / 2 < r then f + 1 else if f % 2 = 0 then f else f + 1

/-! ### Float formats (R106) -/

/-- The shape of a float format: exponent and mantissa bits, bias, largest finite value, whether it has infinities, and its
canonical NaN. -/
structure FloatFmt where
  ebits : Nat
  mbits : Nat
  bias  : Nat
  big   : Rat
  infs  : Bool
  nan   : Option Nat
  deriving DecidableEq, Repr

/-- The table of R106. -/
def floatFmt : Nat → FloatFmt
  | 8 => ⟨2, 1, 1, 6, false, none⟩
  | 9 => ⟨3, 2, 3, 28, false, none⟩
  | 10 => ⟨2, 3, 1, 15 / 2, false, none⟩
  | 11 => ⟨4, 3, 7, 448, false, some 0x7F⟩
  | 12 => ⟨5, 2, 15, 57344, true, some 0x7E⟩
  | 13 => ⟨5, 10, 15, 65504, true, some 0x7E00⟩
  | 14 => ⟨8, 7, 127, (2 - pow2 (-7)) * pow2 127, true, some 0x7FC0⟩
  | _ => ⟨8, 23, 127, (2 - pow2 (-23)) * pow2 127, true, some 0x7FC00000⟩

/-- The value of a float code (R106). -/
def decodeFloat (f raw : Nat) : FVal :=
  let t := floatFmt f
  let s := (raw >>> (t.ebits + t.mbits)) % 2 = 1
  let e := (raw >>> t.mbits) % 2 ^ t.ebits
  let m := raw % 2 ^ t.mbits
  let top := 2 ^ t.ebits - 1
  let frac : Rat := (m : Rat) / ((2 ^ t.mbits : Nat) : Rat)
  if t.infs ∧ e = top then (if m = 0 then .inf s else .nan)
  else if f = 11 ∧ e = 15 ∧ m = 7 then .nan
  else if e = 0 then .fin s (pow2 (1 - (t.bias : Int)) * frac)
  else .fin s (pow2 ((e : Int) - (t.bias : Int)) * (1 + frac))

/-- The spacing exponent of a format at a magnitude: subnormal precision below the smallest normal (R118). -/
def ulpExp (t : FloatFmt) (m : Rat) : Int :=
  let emin : Int := 1 - (t.bias : Int)
  let e := if m = 0 then emin else log2Floor m
  (if e < emin then emin else e) - (t.mbits : Int)

/-- A magnitude rounded to nearest even at the format's precision, with no upper limit. -/
def roundMag (t : FloatFmt) (m : Rat) : Rat :=
  let u := pow2 (ulpExp t m)
  (rne (m / u) : Rat) * u

/-- The code of a representable magnitude with a sign. -/
def encodeMag (t : FloatFmt) (neg : Bool) (m : Rat) : Nat :=
  let emin : Int := 1 - (t.bias : Int)
  let s := if neg then 2 ^ (t.ebits + t.mbits) else 0
  if m = 0 then s
  else
    let e := log2Floor m
    if e < emin then s + (m / pow2 (emin - (t.mbits : Int))).floor.toNat
    else s + (e + (t.bias : Int)).toNat * 2 ^ t.mbits + ((m / pow2 e - 1) * pow2 (t.mbits : Int)).floor.toNat

/-- FP32's shape. -/
def fp32 : FloatFmt := floatFmt 15

/-- RNE32: an exact value rounded to FP32 under IEEE 754, overflow to infinity (R85, R148). -/
def rne32 : FVal → FVal
  | .fin n m =>
    let r := roundMag fp32 m
    if fp32.big < r then .inf n else .fin n r
  | v => v

/-- The exact sum of two values under IEEE 754; the sign of an exact zero is that of RNE. -/
def exactAdd : FVal → FVal → FVal
  | .nan, _ => .nan
  | _, .nan => .nan
  | .inf a, .inf b => if a = b then .inf a else .nan
  | .inf a, _ => .inf a
  | _, .inf b => .inf b
  | .fin a x, .fin b y =>
    let r := (FVal.fin a x).toRat + (FVal.fin b y).toRat
    if r = 0 then .fin (a && b) 0 else .ofRat r

/-- The exact product (R107). -/
def exactMul : FVal → FVal → FVal
  | .nan, _ => .nan
  | _, .nan => .nan
  | .inf a, .inf b => .inf (a != b)
  | .inf a, .fin b y => if y = 0 then .nan else .inf (a != b)
  | .fin a x, .inf b => if x = 0 then .nan else .inf (a != b)
  | .fin a x, .fin b y => .fin (a != b) (x * y)

/-- The FP32 sum with one rounding. -/
def add32 (a b : FVal) : FVal := rne32 (exactAdd a b)

/-- The FP32 difference with one rounding. -/
def sub32 (a b : FVal) : FVal := add32 a b.neg

/-- Numeric order of values; a NaN is below nothing. +0 equals -0 (R83). -/
def FVal.lt : FVal → FVal → Bool
  | .nan, _ => false
  | _, .nan => false
  | .inf a, .inf b => a && !b
  | .inf a, .fin _ _ => a
  | .fin _ _, .inf b => !b
  | .fin a x, .fin b y => decide ((FVal.fin a x).toRat < (FVal.fin b y).toRat)

/-- A code is a positive normal FP32 number (R114). -/
def posNormal32 (raw : Nat) : Bool := decide (0x00800000 ≤ raw) && decide (raw < 0x7F800000)

/-! ### Grid formats (R108, R109) -/

/-- Default levels of G4. -/
def g4Levels : List Int := [-117, -82, -62, -47, -34, -22, -11, 0, 11, 22, 34, 47, 62, 82, 117]

/-- Default levels of G6, codes 0 to 31. -/
def g6Low : List Int :=
  [-154, -127, -112, -102, -94, -87, -81, -76, -71, -66, -62, -58, -54, -51, -47, -44,
   -41, -38, -35, -32, -29, -26, -23, -21, -18, -15, -13, -10, -8, -5, -3, 0]

/-- Default levels of G6, codes 32 to 62. -/
def g6High : List Int :=
  [3, 5, 8, 10, 13, 15, 18, 21, 23, 26, 29, 32, 35, 38, 41, 44,
   47, 51, 54, 58, 62, 66, 71, 76, 81, 87, 94, 102, 112, 127, 154]

/-- The default level table of a grid format. -/
def gridLevels (f : Nat) : List Int := if f = 6 then g4Levels else g6Low ++ g6High

/-- The escape code of a grid format (R108). -/
def escapeCode (f : Nat) : Nat := if f = 6 then 15 else 63

/-- Whether a raw code of a format is an escape. -/
def isEscape (f raw : Nat) : Bool := fmtGrid f && raw == escapeCode f

/-! ### Write-out (R117, R118, R120) -/

/-- A value saturated into a range, and whether it was. -/
def saturate (r : Int × Int) (v : Int) : Int × Bool :=
  if v < r.1 then (r.1, true) else if r.2 < v then (r.2, true) else (v, false)

/-- A finite real written to a float format (R118); `u`: the 24 random bits of R120 when STOCH is 1. Answers the code and
whether it was limited. Whether the result exceeds the largest finite value is judged on y before rounding, so a y just above it
that rounds back to it counts as limited (DESIGN CHOICE, log 49). -/
def floatFinite (f : Nat) (u : Option Nat) (neg : Bool) (m : Rat) : Nat × Bool :=
  let t := floatFmt f
  if t.big < m then (encodeMag t neg t.big, true)
  else
    match u with
    | none => (encodeMag t neg (roundMag t m), false)
    | some u =>
      let s := pow2 (ulpExp t m)
      let lo := ((m / s).floor : Rat) * s
      if lo = m then (encodeMag t neg m, false)
      else
        let hi := lo + s
        let d := if neg then (hi - m) / s else (m - lo) / s
        let up := decide ((u : Int) < (d * pow2 24).floor)
        (encodeMag t neg (if up != neg then hi else lo), false)

/-- A value written to a float format (R118). -/
def writeFloat (f : Nat) (u : Option Nat) : FVal → Nat × Bool
  | .fin n m => floatFinite f u n m
  | .inf n =>
    let t := floatFmt f
    if t.infs then (encodeMag t n 0 + (2 ^ t.ebits - 1) * 2 ^ t.mbits, false) else (encodeMag t n t.big, true)
  | .nan =>
    match (floatFmt f).nan with
    | some c => (c, false)
    | none => (0, true)

/-- A value written to an integer format with a zero point (R117): RNE, plus ZP_O, saturated; NaN gives ZP_O. -/
def writeInt (f : Nat) (zp : Int) : FVal → Nat × Bool
  | .nan => (intCode f zp, true)
  | .inf n => (intCode f (if n then (intRange f).1 else (intRange f).2), true)
  | .fin n m =>
    let (v, s) := saturate (intRange f) (rne (FVal.fin n m).toRat + zp)
    (intCode f v, s)

/-- A real value converted into any output format (R117, R119). -/
def writeValue (f : Nat) (zp : Int) (u : Option Nat) (v : FVal) : Nat × Bool :=
  if fmtFloat f then writeFloat f u v else writeInt f zp v

/-! ### The generator of R121 -/

/-- The mixing function. -/
def mix (z : Word) : Word :=
  let z := (z ^^^ (z >>> 30)) * 0xBF58476D1CE4E5B9#64
  let z := (z ^^^ (z >>> 27)) * 0x94D049BB133111EB#64
  z ^^^ (z >>> 31)

/-- The random word of an output value (R121). -/
def srWord (seed : Word) (stream o n p pos half : Nat) : Word :=
  let key := mix (seed ^^^ (BitVec.ofNat 64 stream <<< 32))
  let c := BitVec.ofNat 64 (o + n * 2 ^ 24 + p * 2 ^ 33 + pos * 2 ^ 41 + half * 2 ^ 44)
  mix (key + c * 0x9E3779B97F4A7C15#64)

/-- The 24 bits of R120. -/
def srBits (r : Word) : Nat := fld r 63 40

/-! ### The exponential of R148 -/

/-- ln 2 in units of 2^-256. -/
def ln2Fix : Nat :=
  80260960185991308862233904206310070533990667611589946606122867505419956976171

/-- The Taylor sum of exp(-x) in units of 2^-256: `n` terms left, the next of index `k`, the last term `t`. -/
def expNegFix : Nat → Nat → Int → Nat → Int
  | 0, _, _, _ => 0
  | n + 1, k, t, x => t + expNegFix n (k + 1) (-(t * (x : Int) / ((2 : Int) ^ 256) / (k : Int))) x

/-- 2^-f for 0 ≤ f < 1, to about 240 bits (log 12). -/
def pow2NegFrac (f : Rat) : Rat :=
  let x := (f * (ln2Fix : Rat)).floor.toNat
  (expNegFix 64 1 ((2 : Int) ^ 256) x : Rat) / ((2 ^ 256 : Nat) : Rat)

/-- E(t) of R148: 2^t rounded once to FP32, for t ≤ 0. -/
def exp2 : FVal → FVal
  | .nan => .nan
  | .inf _ => .zero
  | .fin _ m =>
    if 200 < m then .zero
    else
      let n := m.floor
      let f := m - (n : Rat)
      rne32 (.fin false ((if f = 0 then 1 else pow2NegFrac f) * pow2 (-n)))

end Sys2Proof.Machine
end

