-- ==== Sys2Proof/Machine/Units.lean ====
section
/-! DEFINITION. What each unit of the device holds: one structure per unit, and the value it has after reset. Plain data. -/
namespace Sys2Proof

/-- 0 west, 1 east (R8). -/
def Half.idx : Half → Nat
  | .west => 0
  | .east => 1

/-- The other half. -/
def Half.other : Half → Half
  | .west => .east
  | .east => .west

/-- The half of a number: 0 west, any other east. -/
def Half.sel (n : Nat) : Half := if n = 0 then .west else .east

end Sys2Proof

namespace Sys2Proof.Machine

/-! ### Time, pins, part, boot -/

/-- The device states (R8). -/
inductive DevState where
  | cold
  | kindling
  | banked
  | drawing
  | damped
  | quenched
  deriving DecidableEq, Repr

/-- The encoding of R8. -/
def DevState.code : DevState → Nat
  | .cold => 0
  | .kindling => 1
  | .banked => 2
  | .drawing => 3
  | .damped => 4
  | .quenched => 5

/-- What is fused or marked into the part (R31, R372, R383). -/
structure Part where
  serial      : Word
  stepping    : BitVec 8
  keyHash     : Tab (List Byte)
  revoked     : BitVec 4
  minRollback : BitVec 6
  debugPerm   : BitVec 4
  deriving DecidableEq, Repr

/-- An accepted SET_TIME that waits for PPS_IN (R50). -/
structure SetTime where
  ring  : Nat
  tag   : Nat
  load  : Word
  slew  : Int
  since : Nat
  deriving DecidableEq, Repr

/-- The pace generator and the timestamp counter (R50, R67, R257). `hp` counts PACECLK half-periods since the last power-on
or device reset; `nextTick` is the half-period of the next pace tick. -/
structure Time where
  hp       : Nat
  ts       : Word
  slew     : Int
  slewAcc  : Int
  tickHp   : Nat
  nextTick : Nat
  schedule : Nat
  armed    : List SetTime
  deriving DecidableEq, Repr

/-- A voltage write on AVSBus (R387): the rail, the value requested in mV, and when. -/
structure AvsWrite where
  rail : Nat
  mv   : Nat
  at_  : Nat
  deriving DecidableEq, Repr

/-- Balls whose level the device drives or samples and that no other unit holds (R302, R369, R403, R404). `avs`: the writes of the last
change of a supply, oldest first; `coreAt` and `sramAt`: when the last request of each adaptive rail went out (R370, R387). -/
structure Pins where
  poresetN   : Bool
  mempop     : BitVec 2
  hbWest     : Bool
  hbEast     : Bool
  avs        : List AvsWrite
  coreAt     : Nat
  sramAt     : Nat
  deriving DecidableEq, Repr

/-- FG_BOOT, FG_BOOT_DETAIL and the progress of KINDLING (R371, R374, R390, R310). -/
structure Boot where
  stage       : Nat
  fail        : Nat
  slot        : Nat
  autoload    : Nat
  keySlot     : Nat
  rollback    : Nat
  fwVersion   : Nat
  detail      : Word
  slotATried  : Bool
  imageOff    : Nat
  imageBytes  : Nat
  flashDue    : Bool
  storesDone  : Bool
  dramDone    : Bool
  injectDone  : Bool
  selftest    : Bool
  deriving DecidableEq, Repr

/-- The device-wide part of HST_STATUS (R33); `fromBanked` remembers where QUENCHED returns to (R311), `loopAt` when the last loop of
R388 ran. -/
structure Dev where
  st           : DevState
  leader       : Half
  imageValid   : Bool
  outputsOpen  : Bool
  debugOpen    : Bool
  ignored      : Nat
  fromBanked   : Bool
  dispute      : Bool
  awaitMonitor : Bool
  loopAt       : Nat
  deriving DecidableEq, Repr

/-! ### Host interface -/

/-- One ring page (R34). `held`: fetch waits for a doorbell that passes the check of R36. -/
structure RingPage where
  sqBase      : Word
  sqSize      : Word
  doorbell    : BitVec 32
  rrBase      : Word
  rrSize      : Word
  rrHead      : BitVec 32
  enable      : Bool
  overrun     : Bool
  held        : Bool
  head        : BitVec 32
  tail        : BitVec 32
  fetched     : BitVec 32
  rejected    : Nat
  outstanding : Nat
  deriving DecidableEq, Repr

/-- A ring page after reset. -/
def RingPage.init : RingPage := ⟨0, 0, 0, 0, 0, 0, false, false, false, 0, 0, 0, 0, 0⟩

/-- An output ring of R31: registers and the device's tail. -/
structure OutPage where
  base : Word
  size : Word
  head : Word
  tail : BitVec 32
  deriving DecidableEq, Repr

/-- An output ring after reset. -/
def OutPage.init : OutPage := ⟨0, 0, 0, 0⟩

/-- The host interface (R31 to R43). `mem` is host memory as the device has written it (log 4). -/
structure HostIf where
  statusBlock : Word
  dbgBase     : Word
  event       : OutPage
  fault       : OutPage
  result      : OutPage
  fallback    : OutPage
  evrLost     : Nat
  rings       : Tab RingPage
  adminLast   : Bool
  lastRing    : Nat
  mem         : Store
  deriving DecidableEq, Repr

/-! ### Image, protection, copies -/

/-- A proposal that awaits the safety monitor (R278). -/
structure Proposal where
  number : Nat
  digest : Word
  bytes  : List Byte
  ring   : Nat
  tag    : Nat
  since  : Nat
  deriving DecidableEq, Repr

/-- A LOAD_IMAGE accepted and not yet run (R379); `awaits`: ring and tag of the earlier copies and invalidations that still owe their
final reply. -/
structure Load where
  ring   : Nat
  tag    : Nat
  src    : Word
  bytes  : Nat
  awaits : List (Nat × Nat)
  deriving DecidableEq, Repr

/-- A host copy under way (R192). -/
structure Copy where
  isIn  : Bool
  ring  : Nat
  tag   : Nat
  ctx   : Nat
  hoop  : Nat
  host  : Word
  dev   : Nat
  bytes : Nat
  pages : List (Nat × Nat)
  deriving DecidableEq, Repr

/-- Who asked for an invalidation (R186, R187). -/
inductive InvalBy where
  | packet (ring tag hoop : Nat) (knot : Option Nat)
  | step (hoop step : Nat)
  deriving DecidableEq, Repr

/-- An invalidation in flight; `awaits`: ring and tag of the copies under way that used an entry which it removed (R186). -/
structure Inval where
  ctx   : Nat
  base  : Nat
  pages : Nat
  by_   : InvalBy
  awaits : List (Nat × Nat)
  deriving DecidableEq, Repr

/-- The image in force and the protection setup (R261, R277, R376): table bodies as bytes under their identifiers; `counts` and
`sizes` hold the directory's COUNT and SIZE of a table; `completed`: a CONFIRM completed the last proposal (R279). -/
structure Image where
  tables    : Tab Store
  counts    : Tab Nat
  sizes     : Tab Nat
  d0        : Word
  digest    : Word
  agreed    : Nat
  confirmed : Bool
  proposal  : Option Proposal
  loads     : List Load
  copies    : List Copy
  invals    : List Inval
  heldHoops : Tab (List Word)
  completed : Bool
  deriving DecidableEq, Repr

/-- A buffer of a pool (R194): the owner, if OWNED, and the generation. -/
structure Buffer where
  owner : Option Nat
  gen   : Nat
  deriving DecidableEq, Repr

/-- A buffer after a device reset. -/
def Buffer.init : Buffer := ⟨none, 1⟩

/-- Buffer pools (R194): buffers under key pool * 65536 + index; a pool whose queue is not listed holds its buffers in
increasing index. -/
structure Pools where
  buffers : Tab Buffer
  queues  : Tab (List Nat)
  deriving DecidableEq, Repr

/-! ### Halves -/

/-- A fault record waiting in the pending queue or the coalescing table (R313, R316). -/
structure FaultRec where
  key       : FaultKey
  detectOnly : Bool
  rep       : Bool
  followers : Nat
  first     : Word
  last      : Word
  ctx       : Nat
  hoop      : Nat
  step      : Nat
  pass      : Nat
  logical   : Nat
  physical  : Nat
  d0        : Word
  d1        : Word
  st        : Nat
  gen       : Nat
  frame     : Nat
  deriving DecidableEq, Repr

/-- An entry of the coalescing table: open in its first 8 µs, or in a repeat interval with the reports gathered in it. -/
structure Coalesce where
  key    : FaultKey
  record : FaultRec
  opened : Nat
  repeats : Bool
  count  : Nat
  deriving DecidableEq, Repr

/-- The phases of a half reset (R386). -/
inductive ResetPhase where
  | none
  | asserted
  | released
  deriving DecidableEq, Repr

/-- `resetAsked`: a RESET_HALF whose reset has not begun; `looped`: the loop of R388 has run since the half's reset; `badChunks`: weight regions with a mismatch, and the matches since (R305); `hbAt`: the timestamp of the last heartbeat toggle.
What a half's fireguard, sequencer, speed monitor, memory-controller window and common-strip path hold. -/
structure HalfUnit where
  inService   : Bool
  claim       : Bool
  danger      : Bool
  supplyBad   : Bool
  latchClass  : Nat
  mainOut     : Bool
  compareFails : Nat
  autoResets  : List Word
  reset       : ResetPhase
  resetSince  : Nat
  resetAsked  : Bool
  autoDue     : Bool
  resetOwed   : List (Nat × Nat)
  claimCount  : Nat
  disputed    : Nat
  silent      : Bool
  lockstepOk  : Bool
  liveRate    : Nat
  minRate     : Nat
  slipCount   : Nat
  measured    : Bool
  ticks       : Nat
  seqCtr      : Tab Nat
  cmpCtr      : Tab Nat
  xlatCtr     : Tab Nat
  dampCtr     : Tab Nat
  fgCtr       : Tab Nat
  released    : Nat
  weightAt    : Nat
  badChunks   : Tab Nat
  hbAt        : Option Word
  pathOk      : Bool
  ctrlDropped : Nat
  population  : Nat
  rowHitFirst : Bool
  srIdle      : Nat
  dramFsp     : Nat
  vcoreMv     : Nat
  vsramMv     : Nat
  powerW      : Nat
  tj          : Nat
  stretch     : Nat
  atFloor     : Bool
  looped      : Bool
  thermalAt   : Option Nat
  hotAt       : Option Nat
  table       : List Coalesce
  bufs        : List FaultRec
  pendq       : List FaultRec
  lost        : Nat
  deriving DecidableEq, Repr

/-- A half after a reset that covers it (R13, R27, R76, R220, R324). -/
def HalfUnit.init : HalfUnit :=
  { inService := false, claim := false, danger := false, supplyBad := false, latchClass := 0, mainOut := false, compareFails := 0,
    autoResets := [], reset := .none, resetSince := 0, resetAsked := false, autoDue := false, resetOwed := [], claimCount := 0,
    disputed := 0, silent := false, lockstepOk := true, liveRate := 0, minRate := 0xFFFF, slipCount := 0,
    measured := false, ticks := 0, seqCtr := [], cmpCtr := [], xlatCtr := [], dampCtr := [],
    fgCtr := [], released := 0, weightAt := 0, badChunks := [], hbAt := none, pathOk := false, ctrlDropped := 0, population := 0,
    rowHitFirst := false, srIdle := 100, dramFsp := 0, vcoreMv := 0, vsramMv := 0, powerW := 0, tj := 0, stretch := 0,
    atFloor := false, looped := false, thermalAt := none, hotAt := none, table := [], bufs := [], pendq := [], lost := 0 }

/-! ### Hearths, positions, hoops -/

/-- A leaf in a translation cache (R185): context, virtual base, log2 of the page size, physical base, permissions. -/
structure Leaf where
  ctx   : Nat
  vbase : Nat
  bits  : Nat
  pbase : Nat
  read  : Bool
  write : Bool
  deriving DecidableEq, Repr

/-- A physical hearth (R98, R102, R161, R178, R185, R318, R320); `heldPos` and `heldGen`: the position that it held when it was
retired, and its generation there. -/
structure Hearth where
  frames     : Store
  pageMap    : Tab Nat
  started    : Nat
  ctr        : Tab Nat
  attCtr     : Tab Nat
  cache      : List Leaf
  closed     : Bool
  retiredBy  : Nat
  lastFault  : Option Nat
  heldPos    : Nat
  heldGen    : Nat
  deriving DecidableEq, Repr

/-- A hearth after a reset that covers it. -/
def Hearth.init : Hearth := ⟨.zero, [], 0, [], [], [], false, 0, none, 0, 0⟩

/-- A logical position (R319, R324); `retest` holds the class that started a running retest; `fence`: a placement ended and
its fence knot is not yet set. -/
structure Place where
  physical   : Nat
  vacant     : Bool
  retest     : Option Nat
  second     : Bool
  gen        : Nat
  transients : Nat
  fence      : Bool
  deriving DecidableEq, Repr

/-- A position after a device reset: generation 1 (R319). -/
def Place.init : Place := ⟨0, false, none, false, 1, 0, false⟩

/-- A job in a hoop's queue (R262). -/
structure QJob where
  ring     : Nat
  tag      : Nat
  ctx      : Nat
  pricking : Nat
  seed     : Word
  args     : Nat
  deriving DecidableEq, Repr

/-- A released step of a job (R59, R63, R75): when it was released, the positions whose part has not ended, whether a part faulted,
and the positions of an APPEND step whose pass group has committed (R153); for a COLLECTIVE step [0] once it has begun (R340). -/
structure Released where
  step    : Nat
  tick    : Nat
  since   : Nat
  open_   : List Nat
  faulted : Bool
  grouped : List Nat
  deriving DecidableEq, Repr

/-- The states of an admitted job: `reading` is the argument read before READY (R57, R60). -/
inductive JobSt where
  | reading
  | ready
  | running
  | ending
  | wedged
  deriving DecidableEq, Repr

/-- The job a hoop has admitted (R57 to R75). -/
structure Job where
  q        : QJob
  st       : JobSt
  args     : List Word
  admitted : Nat
  t0       : Nat
  lastTick : Nat
  next     : Nat
  steps    : List Released
  slips    : Nat
  late     : Bool
  charge   : Nat
  breached : Bool
  fault    : Option Nat
  deriving DecidableEq, Repr

/-- A hoop at run time (R262, R264, R274, R305, R348). -/
structure HoopUnit where
  job      : Option Job
  queue    : List QJob
  breached : Bool
  withheld : Bool
  steps    : Nat
  roundHold : List Nat
  deriving DecidableEq, Repr

/-- A hoop after reset. -/
def HoopUnit.init : HoopUnit := ⟨none, [], false, false, 0, []⟩

/-- Sequencer-wide state: knots (R62), hoops, virtual times (R262), positions, hearths. -/
structure Seq where
  knots   : Tab (BitVec 32)
  hoops   : Tab HoopUnit
  vtime   : Tab Word
  places  : Tab Place
  hearths : Tab Hearth
  deriving DecidableEq, Repr

/-! ### Stores, dampers, channels -/

/-- A request pending at a damper, oldest first: its source port, input number and owner tag (R265). -/
structure Pend where
  port  : Nat
  input : Nat
  owner : Nat
  deriving DecidableEq, Repr

/-- A grant that a damper holds (R270), and the tick of its handshake. -/
structure Grant where
  pend : Pend
  tick : Nat
  deriving DecidableEq, Repr

/-- A damper (R267, R270, R273, R284). -/
structure Damper where
  slotPtr  : Nat
  lastOf   : Tab Nat
  lastBg   : Nat
  table    : Option (List Nat)
  capacity : Nat
  cutoffs  : Nat
  flagged  : Nat
  waiting  : List Pend
  held     : List Grant
  deriving DecidableEq, Repr

/-- A damper after reset: SLOT_PTR 0, CAPACITY 256 (R284). -/
def Damper.init : Damper := ⟨0, [], 15, none, 256, 0, 0, [], []⟩

/-- A request in a controller queue: what arrived, when, and its place in the order of arrival (R204, R206). -/
structure Queued where
  req  : DramReq
  at_  : Nat
  no   : Nat
  deriving DecidableEq, Repr

/-- What a request gets back (R204, R211, R219): read data, an acknowledgement, or a fault. -/
inductive Answered where
  | data (bytes : List Byte)
  | ack
  | fault (cls : FaultClass)
  deriving DecidableEq, Repr

/-- A served request and its answer. -/
structure Served where
  source : BitVec 8
  write  : Bool
  no     : Nat
  answer : Answered
  deriving DecidableEq, Repr

/-- The states of a channel (R220). -/
inductive ChanSt where
  | off
  | training
  | active
  | selfRefresh
  | freqChange
  | lost
  deriving DecidableEq, Repr

/-- The encoding of R220. -/
def ChanSt.code : ChanSt → Nat
  | .off => 0
  | .training => 1
  | .active => 2
  | .selfRefresh => 3
  | .freqChange => 4
  | .lost => 5

/-- A memory channel and its controller (R204 to R221). `openRows` holds a bank's open row plus 1; `emptyAt`: when its queue last
became empty (R214); `stretched`: granted requests that wait for a free entry (R206); `done`: served requests whose answer waits
for an earlier one of its source (R204); `replies`: what the last row returned; `shadow`: the three timing sets that training
filled (R216, R218); `refreshAt`: the last refresh of each bank pair (R212); `rowEnds` names the training that last wrote the unused
ends of its rows (R200). -/
structure Channel where
  populated : Bool
  st        : ChanSt
  fsp       : Nat
  refRate   : Nat
  density   : Nat
  maxRdNs   : Nat
  ctr       : Tab Nat
  queue     : List Queued
  draining  : Bool
  openRows  : Tab Nat
  lastBank  : Nat
  badTimes  : List Nat
  tempAt    : Option Nat
  scrubAt   : Nat
  driftAt   : Nat
  zqAt      : Nat
  emptyAt   : Nat
  stretched : List DramReq
  arrived   : Nat
  done      : List Served
  replies   : List Served
  shadow    : List Nat
  mr4At     : Nat
  refreshAt : Tab Nat
  rowEnds   : Nat
  deriving DecidableEq, Repr

/-- A channel after reset. -/
def Channel.init : Channel :=
  ⟨false, .off, 0, 0, 0, 0, [], [], false, [], 15, [], none, 0, 0, 0, 0, [], 0, [], [], [], 0, [], 0⟩

/-- Stores outside the hearths: DRAM data keyed by channel * 2^32 + channel data offset (R202), its ECC check bytes keyed by
channel * 2^32 + word number (R200), the shared store keyed by its offset from 0xF0_0000_0000 (R177), the pilots' local stores (R287), dampers and channels. -/
structure Mem where
  dram     : Store
  check    : Store
  shared   : Store
  local0   : Store
  local1   : Store
  dampers  : Tab Damper
  channels : Tab Channel
  portCache : Tab (List Leaf)
  copyCache : List Leaf
  deriving DecidableEq, Repr

/-! ### Intake -/

/-- What an entry header of a recording holds of the moment of its event (R360), and the recording that then ran, if any. -/
structure Gate where
  time    : Word
  fetches : Nat
  ends    : Tab Nat
  session : Option Nat
  deriving DecidableEq, Repr

/-- A COMMIT_ROUTES that waits for its first frame (R236, R239); `fetch`: the packets fetched until then (R360, R367). -/
structure Commit where
  ring  : Nat
  tag   : Nat
  ctx   : Nat
  hoop  : Nat
  fetch : Nat
  deriving DecidableEq, Repr

/-- A frame being taken in, or closed and not yet COMPLETE (R234, R235, R240, R241). `route` and `recipe` are the settings in
force at its start; `held` is the first line of a quad row; `knot` is the value that its knot will take; `commit` and `change`
are what its record's completion answers (R239): the commit, and the DETAIL, context and hoop of ROUTE_IN_FORCE with the agreement's
number; `fed` is the
recorded frame record of a replayed frame (R365). -/
structure Frame where
  routed   : Bool
  route    : List Word
  recipe   : List Word
  ctx      : Nat
  buffer   : Nat
  seq      : Word
  ringGen  : Nat
  start    : Word
  gate     : Gate
  decoded  : Bool
  position : Nat
  resync   : Bool
  flags    : Nat
  counter  : Option Nat
  time     : Option Word
  crcRx    : Option Nat
  crcCalc  : Nat
  crcState : BitVec 32
  units    : Nat
  bytes    : Nat
  pilotBytes : Nat
  pilotW   : Bool
  pilotE   : Bool
  held     : Option (List Byte)
  embedded : Option (List Byte)
  payload  : List Byte
  lastTime : Word
  nextPkt  : Nat
  knot     : Option Nat
  commit   : Option Commit
  change   : Option (Nat × Nat × Nat × Nat)
  fed      : Option (List Byte)
  deriving DecidableEq, Repr

/-- A route key (R233 to R242). `heldRoute`: the route, recipe and classifier entry that an agreement replaced and the decoder that owned
the key, in force until the next frame start (R238). `since`: frames written since the ring took effect. `closed`: frames closed and not yet COMPLETE, oldest first. `lastStart`: when its last frame started, if any;
`lidar`: the serial of a discovered lidar sensor. -/
structure Key where
  ring      : List Nat
  ringCtx   : Nat
  pending   : Option (Nat × List Nat)
  commit    : Option (Commit × List Nat)
  seq       : Word
  ringGen   : Nat
  since     : Nat
  prevCtr   : Option Nat
  prevTime  : Option Word
  resync    : Bool
  frame     : Option Frame
  closed    : List Frame
  lastStart : Option Nat
  stalled   : Bool
  heldRoute : Option (List Word × List Word × List Word × Option Nat)
  lidar     : Option Word
  lidarAt   : Nat
  deriving DecidableEq, Repr

/-- A key after a device reset. -/
def Key.init : Key :=
  { ring := [], ringCtx := 0, pending := none, commit := none, seq := 0, ringGen := 0, since := 0, prevCtr := none,
    prevTime := none, resync := true, frame := none, closed := [], lastStart := none, stalled := false,
    heldRoute := none, lidar := none, lidarAt := 0 }

/-- A sensor port (R223, R254, R255); `script`: the writes that its last discovery sent down the back-channel, control address and
bytes (R224). -/
structure Port where
  link     : Nat
  gear     : Nat
  seen     : Nat
  mismatch : Bool
  identity : List Byte
  found    : List Nat
  ctr      : Tab Nat
  script   : List (Nat × List Byte)
  deriving DecidableEq, Repr

/-- A port after a device reset. -/
def Port.init : Port := ⟨0, 0, 0, false, [], [], [], []⟩

/-- A decoder (R251 to R255). `picture`: index of the next picture within the sample in progress, whose coded bytes are `bits`; `held`: the
entry of table 14 that an agreement replaced, in force until a frame start (R238). -/
structure Decoder where
  t         : Nat
  epoch     : Nat
  running   : Bool
  delivered : Word
  seed      : Word
  n         : Nat
  table     : Nat
  entry     : List Word
  picture   : Nat
  entryAt   : Nat
  ctrlBad   : Option (BitVec 32)
  ctr       : Tab Nat
  bits      : List Byte
  held      : Option (List Word)
  deriving DecidableEq, Repr

/-- A decoder after a device reset. -/
def Decoder.init : Decoder := ⟨0, 0, false, 0, 0, 0, 0, [], 0, 0, none, [], [], none⟩

/-- The intake. -/
structure Intake where
  ports    : Tab Port
  keys     : Tab Key
  decoders : Tab Decoder
  deriving DecidableEq, Repr

/-! ### Pilots, handovers, output -/

/-- A pilot run, waiting or under way (R288): program, key, SEQ and the frame record words it was started for. -/
structure PilotRun where
  prog   : Nat
  key    : Nat
  seq    : Word
  record : List Byte
  since  : Nat
  deriving DecidableEq, Repr

/-- What a pilot's result slot holds of a finished run: its program, the SEQ, the digest, the frame record, and whether the
pilots' digests agreed (R288). -/
structure PilotOut where
  prog   : Nat
  seq    : Word
  digest : Word
  record : List Byte
  agreed : Bool
  deriving DecidableEq, Repr

/-- A pilot engine. -/
structure Pilot where
  run     : Option PilotRun
  queue   : List PilotRun
  due     : List PilotRun
  outs    : List PilotOut
  deriving DecidableEq, Repr

/-- A pilot after reset. -/
def Pilot.init : Pilot := ⟨none, [], [], []⟩

/-- A fireguard's answer to a handover (R293): a key with digest and violation count, or a refusal with its cause. -/
inductive Answer where
  | key (digest : Word) (violations : Nat)
  | refusal (cause : Nat)
  deriving DecidableEq, Repr

/-- A handover in progress (R289, R293, R295): its stream and STREAM_SEQ, the step and job it came from, what the fireguards read,
and their answers. `answered`: when the first answer came; `ended`: the job has ended, and whether with ST_JOB_DONE; `late`: a
PACE_FAULT has occurred in it. -/
structure Handover where
  stream   : Nat
  seq      : Nat
  hoop     : Nat
  step     : Nat
  half     : Half
  ring     : Nat
  tag      : Nat
  ctx      : Nat
  payload  : List Byte
  records  : List (List Byte)
  since    : Nat
  west     : Option Answer
  east     : Option Answer
  answered : Option Nat
  ended    : Option Bool
  late     : Bool
  deriving DecidableEq, Repr

/-- An output stream (R290, R297, R298, R301). -/
structure Stream where
  mainSeq  : Nat
  fbSeq    : Nat
  lostMain : Nat
  lostFb   : Nat
  source   : List Word
  lastAt   : Nat
  deriving DecidableEq, Repr

/-- A stream after an image load. -/
def Stream.init : Stream := ⟨0, 0, 0, 0, [0, 0], 0⟩

/-- The output writer, the pilots and the fault record writer (R298, R300, R313, R317, R325). -/
structure Output where
  pilot0    : Pilot
  pilot1    : Pilot
  streams   : Tab Stream
  hands     : List Handover
  writer    : Option Half
  fullMain  : Bool
  fullFb    : Bool
  ctr       : Tab Nat
  faultSeq  : Nat
  deriving DecidableEq, Repr

/-! ### Tally, Kreong, replay -/

/-- The tally port (R281, R285): TYPE, SEQ and RESULT of the answer that the next MISO frame carries, and the last MISO frame. -/
structure Tally where
  answer : List Byte
  miso   : List Byte
  ctr    : Tab Nat
  deriving DecidableEq, Repr

/-- The states of a link (R331). -/
inductive LinkSt where
  | down
  | training
  | identified
  | member
  | fenced
  deriving DecidableEq, Repr

/-- The encoding of R331. -/
def LinkSt.code : LinkSt → Nat
  | .down => 0
  | .training => 1
  | .identified => 2
  | .member => 3
  | .fenced => 4

/-- A Kreong link (R327 to R332, R351). `found`: the serial in the identity record received since training; `waiting`: type and
payload of flits that wait for a place among the 64 unacknowledged; `partial_`: DATA payloads of a message not yet whole; `sent`:
every flit that has left on the link. -/
structure Link where
  st         : LinkSt
  lanesOk    : Bool
  fenceEpoch : Nat
  retries    : Nat
  peer       : List Byte
  found      : Option Nat
  txSeq      : Nat
  rxSeq      : Nat
  nakWait    : Bool
  unacked    : List (List Byte)
  waiting    : List (Nat × List Byte)
  partial_   : List (List Byte)
  replays    : Nat
  acceptedAt : Nat
  sent       : List (List Byte)
  ctr        : Tab Nat
  deriving DecidableEq, Repr

/-- A link after a reset of its half. -/
def Link.init : Link := ⟨.down, false, 0, 0, [], none, 0, 0, false, [], [], [], 0, 0, [], []⟩

/-- A contribution to a collective received on a link (R341): half, link, sender's rank, header words and data. -/
structure Contribution where
  half : Half
  link : Nat
  rank : Nat
  head : List Word
  data : List Byte
  deriving DecidableEq, Repr

/-- A replica round under way (R348). -/
structure Round where
  entry   : Nat
  k       : Nat
  since   : Nat
  digests : Tab (List Byte)
  deriving DecidableEq, Repr

/-- The link system (R335 to R337, R351). `record` is the committed topology record; `owed`: links of a half that was out of
service at the commit (R337); `broken`: an expulsion has raised the epoch since the last commit (R349); `early`: digests of rounds
not yet begun: entry, round, rank, digest. -/
structure Kreong where
  links    : Tab Link
  epoch    : Nat
  record   : List Word
  valid    : Bool
  digest   : Word
  owed     : List Nat
  broken   : Bool
  inbox    : List Contribution
  rounds   : List Round
  roundNo  : Tab Nat
  early    : List (Nat × Nat × Nat × List Byte)
  ctr      : Tab Nat
  deriving DecidableEq, Repr

/-- Record and replay modes (R358, R364). -/
inductive RecMode where
  | off
  | record
  | replay
  deriving DecidableEq, Repr

/-- The recorder and the replayer (R358 to R367). -/
structure Recorder where
  mode     : RecMode
  sink     : Word
  bytes    : Nat
  digests  : Bool
  written  : Nat
  entries  : Nat
  lost     : Nat
  full     : Bool
  ended    : Bool
  fetches  : Nat
  ends     : Tab Nat
  header   : List Word
  fed      : List (List Byte)
  effects  : List (List Byte)
  admits   : List (List Byte)
  session  : Nat
  deriving DecidableEq, Repr

end Sys2Proof.Machine
end

