-- ==== Sys2Proof/Machine/State.lean ====
section
/-! DEFINITION. The state of the device, its reset value, and the reasons a step can stop. -/
namespace Sys2Proof.Machine

/-- The machine's faults. The spec gives no command that stops the block: every failure has a status, a fault record or a reset
(R46, R75, R312, R315). -/
inductive Fault where
  /-- Raised by no meaning; it stands for a stop the device does not have. Safe: no claim can rest on it. -/
  | never
  deriving DecidableEq, Repr

/-- The machine's refusals. -/
inductive Refusal where
  /-- Raised by an arm of `exec` that has no meaning yet. Safe: nothing can be proved of such a command. -/
  | notModelled (mnemonic : String)
  /-- Raised by a packet row whose operand is not a packet of that row: no words, a LENGTH that differs from the number of
  words, or another row's OPCODE. Safe: no packet fetched from a ring looks so (R37, R45; log 2). -/
  | illFormed (mnemonic : String)
  deriving DecidableEq, Repr

/-- The state: the waiting commands, and what the spec gives each part of the device. -/
structure State where
  pending : List Instr
  freeCtr : Nat
  part    : Part
  time    : Time
  pins    : Pins
  boot    : Boot
  dev     : Dev
  host    : HostIf
  img     : Image
  pools   : Pools
  west    : HalfUnit
  east    : HalfUnit
  seq     : Seq
  mem     : Mem
  intake  : Intake
  out     : Output
  tally   : Tally
  link    : Kreong
  rec_    : Recorder
  deriving DecidableEq, Repr

/-- The time base after a power-on or device reset (R67, R384). -/
def Time.init : Time := ⟨0, 0, 0, 0, 100, 100, 0, []⟩

/-- FG_BOOT after a power-on or device reset (R390: SLOT 3). -/
def Boot.init : Boot := ⟨0, 0, 3, 0, 0, 0, 0, 0, false, 0, 0, false, false, false, false, false⟩

/-- HST_STATUS after a power-on or device reset (R33). -/
def Dev.init : Dev := ⟨.cold, .west, false, false, false, 0, true, false, false, 0⟩

/-- The host interface after a power-on or device reset; host memory lists nothing the device has written. -/
def HostIf.init : HostIf := ⟨0, 0, .init, .init, .init, .init, 0, [], false, 31, .zero⟩

/-- No image (R261: an absent table is all zero). -/
def Image.init : Image := ⟨[], [], [], 0, 0, 0, false, none, [], [], [], [], false⟩

/-- Sequencer state after a device reset: knots 0 (R62), positions at generation 1 (R319), fireboxes cleared (R374). -/
def Seq.init : Seq := ⟨[], [], [], [], []⟩

/-- Stores after a power-on or device reset: DRAM with its check bytes unspecified under `salt` (R413), the others cleared (R374). -/
def Mem.init (salt : Nat) : Mem :=
  ⟨.unspecified salt, .unspecified salt, .zero, .zero, .zero, [], [], [], []⟩

/-- The intake after a device reset (R254). -/
def Intake.init : Intake := ⟨[], [], []⟩

/-- The output writer and pilots after a device reset. -/
def Output.init : Output := ⟨.init, .init, [], [], none, false, false, [], 0⟩

/-- The tally port before its first transaction: the answer is an IDLE frame (R281). Its live fields are filled when it is sent. -/
def Tally.init : Tally := ⟨[0x80, 0, 0], [], []⟩

/-- The link system after a device reset: epoch 0, rank 0 of a 1 × 1 system (R337). -/
def Kreong.init : Kreong := ⟨[], 0, [], false, 0, [], false, [], [], [], [], []⟩

/-- No recording (R358). -/
def Recorder.init : Recorder := ⟨.off, 0, 0, false, 0, 0, 0, false, false, 0, [], [], [], [], [], 0⟩

/-- The device held in power-on reset: PORESET_n low, COLD, every register at its reset value (R13, R311, R384). The part's
serial, stepping and fuses are the model's choice (log 7). -/
def State.reset : State :=
  { pending := [], freeCtr := 1,
    part := ⟨0, 0, [], 0, 0, 0⟩, time := .init, pins := ⟨false, 0, false, false, [], 0, 0⟩, boot := .init, dev := .init,
    host := .init, img := .init, pools := ⟨[], []⟩, west := .init, east := .init, seq := .init, mem := .init 1,
    intake := .init, out := .init, tally := .init, link := .init, rec_ := .init }

end Sys2Proof.Machine
end

