-- ==== Sys2Proof/Machine/Operands.lean ====
section
/-! DEFINITION. The fields of packets (R45 to R49), of image tables (R256, R259 and their like), of prickings and of descriptors. -/
namespace Sys2Proof.Machine

/-- A table entry, step or descriptor as its words. -/
abbrev Entry := List Word

/-- Bits `[hi:lo]` of word `w` of an entry. -/
def Entry.f (e : Entry) (w hi lo : Nat) : Nat := fld (e.getD w 0) hi lo

/-- Bit `b` of word `w` of an entry. -/
def Entry.b (e : Entry) (w b : Nat) : Bool := bitAt (e.getD w 0) b

/-! ### Packets (R45) -/

/-- Word 0 of a packet. -/
structure Head where
  opcode : Nat
  fence  : Bool
  rsvd   : Nat
  length : Nat
  ctx    : Nat
  hoop   : Nat
  tag    : Nat
  deriving DecidableEq, Repr

/-- The fields of word 0; LENGTH 0 encodes 64. -/
def parseHead (w : Word) : Head :=
  { opcode := fld w 7 0, fence := bitAt w 8, rsvd := fld w 15 9 + fld w 47 38,
    length := if fld w 21 16 = 0 then 64 else fld w 21 16,
    ctx := fld w 33 22, hoop := fld w 37 34, tag := fld w 63 48 }

/-- A row of the opcode table R48: permitted words, ring 0 only, device-wide, states, and how many replies. -/
structure OpInfo where
  minWords : Nat
  maxWords : Nat
  admin    : Bool
  wide     : Bool
  inB      : Bool
  inD      : Bool
  inM      : Bool
  inQ      : Bool
  two      : Bool
  deriving DecidableEq, Repr

/-- Device-wide opcode for ring 0. -/
def adminOp (n : Nat) (b d m q two : Bool) : Option OpInfo := some ⟨n, n, true, true, b, d, m, q, two⟩

/-- Opcode of a context and a hoop. -/
def hoopOp (lo hi : Nat) (b q two : Bool) : Option OpInfo := some ⟨lo, hi, false, false, b, true, true, q, two⟩

/-- The table of R48. -/
def opInfo : Nat → Option OpInfo
  | 0x00 => some ⟨1, 64, false, true, true, true, true, true, false⟩
  | 0x01 => some ⟨1, 1, false, true, true, true, true, true, false⟩
  | 0x02 => adminOp 3 true true true true true
  | 0x10 => adminOp 3 true false false false true
  | 0x11 => adminOp 1 true false false false false
  | 0x12 => adminOp 1 false true true false false
  | 0x13 => adminOp 2 true true true true true
  | 0x14 => adminOp 1 true true true true false
  | 0x15 => adminOp 3 true true true false true
  | 0x16 => adminOp 4 true false false false false
  | 0x20 => adminOp 3 true true true false true
  | 0x21 => adminOp 1 true true true false false
  | 0x30 => hoopOp 3 18 true false false
  | 0x31 => hoopOp 2 2 false false true
  | 0x40 => hoopOp 4 4 false false true
  | 0x41 => hoopOp 2 2 false true false
  | 0x50 => hoopOp 3 3 true false false
  | 0x51 => hoopOp 2 2 true true false
  | 0x60 => hoopOp 4 4 true false true
  | 0x61 => hoopOp 4 4 true true true
  | 0x62 => hoopOp 3 3 true false true
  | 0x63 => hoopOp 2 2 true false false
  | 0x64 => hoopOp 2 2 true false false
  | 0x70 => adminOp 3 true true false false true
  | _ => none

/-- Whether the states column of R48 permits a device state. -/
def OpInfo.permits (o : OpInfo) : DevState → Bool
  | .banked => o.inB
  | .drawing => o.inD
  | .damped => o.inM
  | .quenched => o.inQ
  | _ => false

/-- The bits of parameter word `i` that R49 names for an opcode; the others are reserved. -/
def paramMask : Nat → Nat → Nat
  | 0x02, 1 => 2 ^ 8 - 1
  | 0x10, 2 => 2 ^ 32 - 1
  | 0x13, 1 => 1
  | 0x15, 2 => 2 ^ 32 - 1
  | 0x16, 2 => 2 ^ 40 - 1
  | 0x16, 3 => 3
  | 0x20, 2 => 2 ^ 32 - 1
  | 0x30, 1 => 2 ^ 21 - 1
  | 0x30, _ => 2 ^ 48 - 1
  | 0x31, 1 => 2 ^ 5 - 1
  | 0x40, 1 => 2 ^ 16 - 1
  | 0x40, 3 => 2 ^ 48 - 1
  | 0x41, 1 => 2 ^ 21 - 1
  | 0x50, 1 => 2 ^ 14 - 1
  | 0x50, 2 => 2 ^ 32 - 1
  | 0x51, 1 => 2 ^ 14 - 1
  | 0x60, 2 => 2 ^ 48 - 1
  | 0x60, 3 => 2 ^ 28 - 1
  | 0x61, 2 => 2 ^ 48 - 1
  | 0x61, 3 => 2 ^ 28 - 1
  | 0x62, 1 => 2 ^ 48 - 2 ^ 16
  | 0x62, 2 => 2 ^ 63 + (2 ^ 46 - 1)
  | 0x63, 1 => 2 ^ 8 - 1
  | 0x70, 2 => 2 ^ 32 - 1
  | _, _ => 2 ^ 64 - 1

/-- Some parameter word from `i` on has a reserved bit set. -/
def badParams (op : Nat) : Nat → List Word → Bool
  | _, [] => false
  | i, w :: t => (w.toNat &&& paramMask op i) != w.toNat || badParams op (i + 1) t

/-- A reserved field of the packet is non-zero (R46 step 3). A device-wide opcode's CONTEXT and HOOP are reserved, and the words
of a NOP after word 0 are not examined. -/
def badReserved (o : OpInfo) (h : Head) (pkt : List Word) : Bool :=
  h.rsvd != 0 || (o.wide && (h.ctx != 0 || h.hoop != 0)) || (h.opcode != 0 && badParams h.opcode 1 (pkt.drop 1))

/-! ### Status codes (R47) -/

def stOk : Nat := 0x0000
def stAccepted : Nat := 0x0001
def stJobDone : Nat := 0x0002
def stBadOpcode : Nat := 0x0010
def stBadLength : Nat := 0x0011
def stBadReserved : Nat := 0x0012
def stBadParam : Nat := 0x0013
def stBadContext : Nat := 0x0014
def stNotPermitted : Nat := 0x0015
def stBadState : Nat := 0x0016
def stPendingExists : Nat := 0x0017
def stTooLate : Nat := 0x0018
def stHalfDown : Nat := 0x0019
def stNoHearth : Nat := 0x001A
def stFaultAddress : Nat := 0x001B
def stNotOwner : Nat := 0x0020
def stAlreadyFree : Nat := 0x0021
def stNoBuffer : Nat := 0x0022
def stCancelled : Nat := 0x0030
def stJobFaulted : Nat := 0x0031
def stWatchdog : Nat := 0x0032
def stBreach : Nat := 0x0040
def stDigestMismatch : Nat := 0x0041
def stAgreeTimeout : Nat := 0x0042
def stAgreePending : Nat := 0x0043
def stWithdrawn : Nat := 0x0044
def stNoImage : Nat := 0x0045
def stSignatureFail : Nat := 0x0050
def stImageRejected : Nat := 0x0051
def stTopologyRejected : Nat := 0x0060
def stNoPps : Nat := 0x0061

/-! ### Image tables (R261, R376) -/

/-- Entries and bytes per entry of a fixed table. -/
def tableShape : Nat → Option (Nat × Nat)
  | 1 => some (18, 64)
  | 2 => some (256, 16)
  | 3 => some (16384, 1)
  | 4 => some (64, 1)
  | 5 => some (16384, 1)
  | 6 => some (4096, 16)
  | 7 => some (32, 8)
  | 8 => some (16, 16)
  | 9 => some (256, 32)
  | 10 => some (512, 32)
  | 11 => some (128, 32)
  | 12 => some (256, 64)
  | 13 => some (1024, 8)
  | 14 => some (4, 32)
  | 15 => some (1, 64)
  | 16 => some (32, 16)
  | 18 => some (16, 32)
  | 20 => some (64, 32)
  | 21 => some (1024, 32)
  | 22 => some (1024, 32)
  | 24 => some (1, 64)
  | 25 => some (16, 32)
  | 27 => some (1, 256)
  | _ => none

/-- Bytes per entry. -/
def entryBytes (id : Nat) : Nat := match tableShape id with
  | some (_, b) => b
  | none => 64

/-- The body of a table; an absent table is all zero. -/
def Image.tbl (i : Image) (id : Nat) : Store := Tab.get Store.zero i.tables id

/-- Entry `e` of a table of whole words. -/
def Image.entry (i : Image) (id e : Nat) : Entry :=
  let n := entryBytes id
  (List.range (n / 8)).map fun k => (i.tbl id).word (e * n + 8 * k)

/-- Entry `e` of a table of bytes. -/
def Image.byte (i : Image) (id e : Nat) : Nat := ((i.tbl id).read e).toNat

/-! Hoop table (R256) -/
def hoopValid (e : Entry) : Bool := e.b 0 0
def hoopCrit (e : Entry) : Nat := e.f 0 2 1
def hoopPaced (e : Entry) : Bool := e.b 0 3
def hoopHalf (e : Entry) : Half := Half.sel (e.f 0 4 4)
def hoopHearths (e : Entry) : Nat := e.f 0 12 5
def hoopChannels (e : Entry) : Nat := e.f 0 28 13
def hoopWays (e : Entry) : Nat := e.f 0 44 29
def hoopPeriod (e : Entry) : Nat := e.f 1 23 0
def hoopOffset (e : Entry) : Nat := e.f 1 47 24
def hoopLength (e : Entry) : Nat := e.f 2 23 0
def hoopHold (e : Entry) : Nat := e.f 2 39 24
def hoopGuarantee (e : Entry) : Nat := e.f 3 31 0

/-! Windows (R259) and host windows (R180) -/
def winRead (e : Entry) : Bool := e.b 0 0
def winWrite (e : Entry) : Bool := e.b 0 1
def winBase (e : Entry) : Nat := e.f 0 39 16 * 2 ^ 16
def winSize (e : Entry) : Nat := e.f 1 24 0 * 2 ^ 16
def hostWinBase (e : Entry) : Nat := e.f 0 63 16 * 2 ^ 16
def hostWinSize (e : Entry) : Nat := e.f 1 34 16 * 2 ^ 16

/-! Context table (R184) -/
def ctxValid (e : Entry) : Bool := e.b 0 0
def ctxHoop (e : Entry) : Nat := e.f 0 4 1
def ctxRoot (e : Entry) : Nat := e.f 0 39 12 * 2 ^ 12
def ctxShares (e : Entry) : Nat := e.f 1 31 0

/-! Pools (R193) -/
def poolValid (e : Entry) : Bool := e.b 0 0
def poolHoop (e : Entry) : Nat := e.f 0 4 1
def poolCount (e : Entry) : Nat := e.f 2 47 32 + 1

/-! Routes (R230) -/
def routeValid (e : Entry) : Bool := e.b 0 0
def routeCtx (e : Entry) : Nat := e.f 0 12 1
def routeRecipe (e : Entry) : Nat := e.f 0 20 13
def routeKnot (e : Entry) : Nat := e.f 0 34 21
def routePilot (e : Entry) : Bool := e.b 0 35
def routePilotOff (e : Entry) : Nat := e.f 1 21 0
def routeStall (e : Entry) : Nat := e.f 1 45 22
def routeSerial (e : Entry) : Word := e.getD 2 0
def routeScriptFirst (e : Entry) : Nat := e.f 3 9 0
def routeScriptCount (e : Entry) : Nat := e.f 3 16 10

/-! Recipes (R231) -/
def rcpInDt (e : Entry) : Nat := e.f 0 2 0
def rcpOutMode (e : Entry) : Nat := e.f 0 4 3
def rcpMatrix (e : Entry) : Nat := e.f 0 6 5
def rcpFull (e : Entry) : Bool := e.b 0 7
def rcpOutFmt (e : Entry) : Nat := e.f 0 11 8
def rcpLayout (e : Entry) : Nat := e.f 0 13 12
def rcpCfa (e : Entry) : Nat := e.f 0 15 14
def rcpOutZp (e : Entry) : Int := signed 9 (e.f 0 24 16)
def rcpPilotLog (e : Entry) : Nat := e.f 0 27 26
def rcpPilotEn (e : Entry) : Bool := e.b 0 28
def rcpWidth (e : Entry) : Nat := e.f 1 15 0
def rcpHeight (e : Entry) : Nat := e.f 1 31 16
def rcpRow (e : Entry) : Nat := e.f 2 31 0
def rcpPlane (e : Entry) : Nat := e.f 2 63 32
def rcpBytes (e : Entry) : Nat := e.f 3 31 0
def rcpMean (e : Entry) (c : Nat) : Nat := e.f (4 + c / 2) (32 * (c % 2) + 31) (32 * (c % 2))
def rcpNscale (e : Entry) (c : Nat) : Nat := e.f (6 + c / 2) (32 * (c % 2) + 31) (32 * (c % 2))

/-! Classifier (R226) -/
def clsValid (e : Entry) : Bool := e.b 0 0
def clsExpected (e : Entry) : Bool := e.b 0 1
def clsVlanEn (e : Entry) : Bool := e.b 0 2
def clsVlan (e : Entry) : Nat := e.f 0 14 3
def clsMac (e : Entry) : Nat := e.f 0 63 16
def clsIp (e : Entry) : Nat := e.f 1 31 0
def clsPort (e : Entry) : Nat := e.f 1 47 32

/-! Decoders (R250) -/
def decValid (e : Entry) : Bool := e.b 0 0
def decPort (e : Entry) : Nat := e.f 0 5 1
def decSel (e : Entry) : Nat := e.f 0 9 6
def decCtx (e : Entry) : Nat := e.f 0 21 10
def decCredit (e : Entry) : Nat := e.f 0 35 22
def decDone (e : Entry) : Nat := e.f 0 49 36
def decCtrl (e : Entry) : Nat := e.f 1 47 0

/-! Device table (R377) -/
def devTickHp (e : Entry) : Nat := e.f 0 10 0
def devSrIdle (e : Entry) : Nat := e.f 0 18 11
def devFsp (e : Entry) : Nat := e.f 0 20 19
def devAgreeMs (e : Entry) : Nat := e.f 0 34 21
def devVcore (e : Entry) : Nat := e.f 1 9 0
def devVsram (e : Entry) : Nat := e.f 1 19 10
def devPower (e : Entry) : Nat := e.f 1 28 20
def devTherm (e : Entry) : Nat := e.f 1 35 29

/-! Channel sets (R201) -/
def setValid (e : Entry) : Bool := e.b 0 0
def setFirst (e : Entry) : Nat := e.f 0 5 1
def setCount (e : Entry) : Nat := 2 ^ e.f 0 8 6
def setBase (e : Entry) : Nat := e.f 1 39 21 * 2 ^ 21

/-! Pilot programs (R287) -/
def progValid (e : Entry) : Bool := e.b 0 0
def progPort (e : Entry) : Nat := e.f 0 5 1
def progSel (e : Entry) : Nat := e.f 0 9 6
def progBudget (e : Entry) : Nat := e.f 0 63 32
def progOff (e : Entry) : Nat := e.f 1 21 0
def progGroups (e : Entry) : Nat := e.f 1 47 32
def progOut (e : Entry) : Nat := e.f 2 21 0
def progOutBytes (e : Entry) : Nat := e.f 2 51 32

/-! Output streams (R290) and the comparator table (R291) -/
def strValid (e : Entry) : Bool := e.b 0 0
def strHoop (e : Entry) : Nat := e.f 0 4 1
def strPilot (e : Entry) : Nat := e.f 0 8 5
def strCmpFirst (e : Entry) : Nat := e.f 0 18 9
def strCmpCount (e : Entry) : Nat := e.f 0 27 19
def strMaxBytes (e : Entry) : Nat := e.f 1 31 0
def strSlots (e : Entry) : Nat := e.f 1 47 32
def strPay (e : Entry) : Nat := e.f 2 39 0
def strFb (e : Entry) : Nat := e.f 3 39 0
def strHoldUs (e : Entry) : Nat := e.f 3 63 40
def cmpRule (e : Entry) : Nat := e.f 0 1 0
def cmpMfmt (e : Entry) : Nat := e.f 0 5 2
def cmpPfmt (e : Entry) : Nat := e.f 0 9 6
def cmpMzp (e : Entry) : Int := signed 9 (e.f 0 18 10)
def cmpPzp (e : Entry) : Int := signed 9 (e.f 0 27 19)
def cmpAllow (e : Entry) : Nat := e.f 0 63 32
def cmpMfirst (e : Entry) : Nat := e.f 1 31 0
def cmpCount (e : Entry) : Nat := e.f 1 63 32
def cmpPfirst (e : Entry) : Nat := e.f 2 31 0
def cmpTol (e : Entry) : Nat := e.f 2 63 32
def cmpMscale (e : Entry) : Nat := e.f 3 31 0
def cmpPscale (e : Entry) : Nat := e.f 3 63 32

/-! Weight regions (R305), safety table (R306), replica table (R347) -/
def wgtValid (e : Entry) : Bool := e.b 0 0
def wgtCtx (e : Entry) : Nat := e.f 0 12 1
def wgtBase (e : Entry) : Nat := e.f 1 47 0
def wgtChunks (e : Entry) : Nat := e.f 2 31 0
def wgtIndex (e : Entry) : Nat := e.f 2 63 32
def safHbUs (e : Entry) : Nat := e.f 0 15 0
def safCompareOut (e : Entry) : Nat := e.f 0 23 16
def safDetectOnly (e : Entry) (h : Nat) : Bool := e.b 0 (24 + h)
def safPilotWait (e : Entry) : Nat := e.f 1 31 0
def safRegions (e : Entry) : Nat := e.f 2 15 0
def safChunks (e : Entry) : Nat := e.f 2 31 16
def repValid (e : Entry) : Bool := e.b 0 0
def repHoop (e : Entry) : Nat := e.f 0 4 1
def repGroup (e : Entry) : Nat := e.f 0 6 5
def repEvery (e : Entry) : Nat := e.f 0 63 32
def repBase (e : Entry) : Nat := e.f 1 47 0
def repCtx (e : Entry) : Nat := e.f 1 59 48
def repBytes (e : Entry) : Nat := e.f 2 36 0
def repWait (e : Entry) : Nat := e.f 3 31 0

/-! ### Prickings (R53, R54, R410) -/

/-- The 64-byte unit at byte offset `off` of a body, as eight words. -/
def unitAt (st : Store) (off : Nat) : Entry := (List.range 8).map fun k => st.word (off + 8 * k)

def prkNumber (e : Entry) : Nat := e.f 0 15 0
def prkHoop (e : Entry) : Nat := e.f 0 19 16
def prkPaced (e : Entry) : Bool := e.b 0 20
def prkSteps (e : Entry) : Nat := e.f 0 43 24
def prkDescOff (e : Entry) : Nat := e.f 1 31 0
def prkDescCount (e : Entry) : Nat := e.f 1 63 32
def prkTotal (e : Entry) : Nat := e.f 2 23 0
def prkWdogNum (e : Entry) : Nat := e.f 2 27 24
def prkWdogAdd (e : Entry) : Nat := e.f 2 63 48
def prkWaitLimit (e : Entry) : Nat := e.f 3 23 0
def prkSlipLimit (e : Entry) : Nat := e.f 3 31 24
def prkSlipLate (e : Entry) : Nat := e.f 3 55 32
def prkArgWords (e : Entry) : Nat := e.f 4 5 0

/-- Bytes that a pricking occupies: header, steps and descriptor table, whichever ends later (R53). -/
def prkBytes (e : Entry) : Nat := max (64 + 64 * prkSteps e) (prkDescOff e + 64 * prkDescCount e)

/-- The offset of the pricking with a number, among `n` prickings from `off` on (R376). -/
def findPrick (st : Store) (number : Nat) : Nat → Nat → Option Nat
  | 0, _ => none
  | n + 1, off =>
    let h := unitAt st off
    if prkNumber h = number then some off else findPrick st number n (off + ceilDiv (prkBytes h) 64 * 64)

/-- Step kinds (R55). -/
def kWait : Nat := 0
def kPass : Nat := 1
def kAttend : Nat := 2
def kTransform : Nat := 3
def kTransfer : Nat := 4
def kInvalidate : Nat := 5
def kResult : Nat := 6
def kCollective : Nat := 7
def kEnd : Nat := 15

def stepKind (e : Entry) : Nat := e.f 0 3 0
def stepSerial (e : Entry) : Bool := e.b 0 4
def stepHearths (e : Entry) : Nat := e.f 0 15 8
def stepWcet (e : Entry) : Nat := e.f 0 39 16
def stepLatest (e : Entry) : Nat := e.f 0 63 40
def stepDesc (e : Entry) : Nat := e.f 5 31 0
def stepReloc (e : Entry) : Bool := e.b 6 0
def stepRelocIdx (e : Entry) : Nat := e.f 6 5 1

/-- Word 1 + i: wait i of a step (i = 0, 1). -/
def waitEn (e : Entry) (i : Nat) : Bool := e.b (1 + i) 14
def waitKnot (e : Entry) (i : Nat) : Nat := e.f (1 + i) 13 0
def waitArg (e : Entry) (i : Nat) : Bool := e.b (1 + i) 15
def waitIdx (e : Entry) (i : Nat) : Nat := e.f (1 + i) 20 16
def waitThresh (e : Entry) (i : Nat) : Nat := e.f (1 + i) 63 32

/-- Word 3 + i: post i of a step (i = 0, 1). -/
def postEn (e : Entry) (i : Nat) : Bool := e.b (3 + i) 14
def postKnot (e : Entry) (i : Nat) : Nat := e.f (3 + i) 13 0
def postArg (e : Entry) (i : Nat) : Bool := e.b (3 + i) 15
def postIdx (e : Entry) (i : Nat) : Nat := e.f (3 + i) 20 16
def postAdd (e : Entry) (i : Nat) : Bool := e.b (3 + i) 21
def postValue (e : Entry) (i : Nat) : Nat := e.f (3 + i) 63 32

/-- The value of a threshold or post with its argument word added, modulo 2^32 (R57). -/
def withArg (args : List Word) (useArg : Bool) (idx v : Nat) : Nat :=
  if useArg then (v + fld (args.getD idx 0) 31 0) % 2 ^ 32 else v

/-! ### Pass groups (R87, R88) -/

def grpPasses (e : Entry) : Nat := e.f 0 7 0
def grpForm (e : Entry) : Nat := e.f 0 9 8
def grpSfmt (e : Entry) : Nat := e.f 0 13 10
def grpTfmt (e : Entry) : Nat := e.f 0 17 14
def grpOfmt (e : Entry) : Nat := e.f 0 21 18
def grpOp (e : Entry) : Nat := e.f 0 24 22
def grpCombine (e : Entry) : Nat := e.f 0 26 25
def grpReduce (e : Entry) : Nat := e.f 0 28 27
def grpNonfiniteOk (e : Entry) : Bool := e.b 0 29
def grpStoch (e : Entry) : Bool := e.b 0 30
def grpK (e : Entry) : Nat := e.f 0 41 32
def grpN (e : Entry) : Nat := e.f 0 49 42
def grpT (e : Entry) : Nat := e.f 0 53 50 + 1
def grpD (e : Entry) : Nat := e.f 0 56 54 + 1
def grpDest (e : Entry) : Nat := e.f 1 10 0
def grpLand (e : Entry) : Nat := e.f 1 21 11
def grpPages (e : Entry) : Nat := e.f 1 32 22
def grpStride (e : Entry) : Nat := e.f 1 47 33 * 16
def grpSeg (e : Entry) : Nat := e.f 2 23 0
def grpScale (e : Entry) : Nat := e.f 3 16 0 * 64
def grpEscS (e : Entry) : Nat := e.f 3 33 17 * 64
def grpEscT (e : Entry) : Nat := e.f 3 50 34 * 64
def grpZpS (e : Entry) : Int := signed 9 (e.f 4 8 0)
def grpZpT (e : Entry) : Int := signed 9 (e.f 4 17 9)
def grpStream (e : Entry) : Nat := e.f 5 31 0

/-- A pass entry is four words. -/
def passRows (e : Entry) : Nat := e.f 0 23 0 + 1
def passChain (e : Entry) : Bool := e.b 0 24
def passKeep (e : Entry) : Bool := e.b 0 25
def passFeed (e : Entry) : Nat := e.f 1 31 0
def passTile (e : Entry) : Nat := e.f 2 16 0 * 64
def passOut (e : Entry) : Nat := e.f 2 36 17 * 64

/-- K and N of a form (R78). -/
def formKN : Nat → Nat × Nat
  | 0 => (128, 128)
  | 1 => (256, 64)
  | _ => (512, 32)

/-- Units of a pass group of P passes (R410). -/
def groupUnits (p : Nat) : Nat := ceilDiv (64 + 32 * p) 64

/-! ### Feeder layouts (R128) -/

def feedBase (e : Entry) : Nat := e.f 0 16 0 * 64
def feedLayout (e : Entry) : Nat := e.f 0 18 17
def feedCh (e : Entry) : Nat := e.f 0 28 19
def feedCh0 (e : Entry) : Nat := e.f 0 40 32
def feedA (e : Entry) : Nat := e.f 1 22 0
def feedRow (e : Entry) : Nat := e.f 1 45 23
def feedX0 (e : Entry) : Int := signed 16 (e.f 2 15 0)
def feedY0 (e : Entry) : Int := signed 16 (e.f 2 31 16)
def feedW (e : Entry) : Nat := e.f 2 47 32
def feedH (e : Entry) : Nat := e.f 2 63 48
def feedSx (e : Entry) : Nat := e.f 3 2 0 + 1
def feedSy (e : Entry) : Nat := e.f 3 5 3 + 1
def feedHalo (e : Entry) : Nat := e.f 3 7 6
def feedConst (e : Entry) : Nat := e.f 3 23 8
def feedRowLen (e : Entry) : Nat := e.f 3 39 24

/-! ### Transform descriptors (R136) -/

def trL (e : Entry) : Nat := 16 * 2 ^ e.f 0 1 0
def trKh (e : Entry) : Nat := e.f 0 6 2 + 1
def trKw (e : Entry) : Nat := e.f 0 11 7 + 1
def trCin (e : Entry) : Nat := e.f 0 21 12
def trNout (e : Entry) : Nat := e.f 0 28 22
def trXfmt (e : Entry) : Nat := e.f 0 35 32
def trWfmt (e : Entry) : Nat := e.f 0 39 36
def trOfmt (e : Entry) : Nat := e.f 0 43 40
def trFeed (e : Entry) : Nat := e.f 1 31 0
def trWgt (e : Entry) : Nat := e.f 2 16 0 * 64
def trScale (e : Entry) : Nat := e.f 2 33 17 * 64
def trEscX (e : Entry) : Nat := e.f 2 50 34 * 64
def trEscW (e : Entry) : Nat := e.f 3 16 0 * 64
def trZpX (e : Entry) : Int := signed 9 (e.f 3 25 17)
def trZpW (e : Entry) : Int := signed 9 (e.f 3 34 26)
def trDest (e : Entry) : Nat := e.f 4 10 0
def trLand (e : Entry) : Nat := e.f 4 21 11
def trPages (e : Entry) : Nat := e.f 4 32 22
def trStride (e : Entry) : Nat := e.f 4 47 33 * 16
def trW (e : Entry) : Nat := e.f 5 15 0
def trH (e : Entry) : Nat := e.f 5 31 16

/-! ### Attention descriptors (R143), scale records (R144), sequence entries (R145) -/

def atMode (e : Entry) : Nat := e.f 0 1 0
def atMask (e : Entry) : Nat := e.f 0 3 2
def atDh (e : Entry) : Nat := 32 * 2 ^ e.f 0 5 4
def atQk (e : Entry) : Nat := e.f 0 9 6
def atV (e : Entry) : Nat := e.f 0 13 10
def atP (e : Entry) : Nat := e.f 0 17 14
def atO (e : Entry) : Nat := e.f 0 21 18
def atQrows (e : Entry) : Nat := e.f 0 28 22 + 1
def atHq (e : Entry) : Nat := e.f 0 32 29 + 1
def atStats (e : Entry) : Bool := e.b 0 33
def atAccIn (e : Entry) : Bool := e.b 0 34
def atOrient (e : Entry) : Nat := e.f 0 35 35
def atKblocks (e : Entry) : Nat := e.f 1 12 0
def atSeq (e : Entry) : Nat := e.f 1 23 13
def atKvhead (e : Entry) : Nat := e.f 1 29 24
def atWindow (e : Entry) : Nat := e.f 1 45 30
def atQoff (e : Entry) : Nat := e.f 2 16 0 * 64
def atSeqOff (e : Entry) : Nat := e.f 2 33 17 * 64
def atScale (e : Entry) : Nat := e.f 2 50 34 * 64
def atSegQ (e : Entry) : Nat := e.f 3 16 0 * 64
def atDo (e : Entry) : Nat := e.f 3 33 17 * 64
def atStatIn (e : Entry) : Nat := e.f 3 50 34 * 64
def atOin (e : Entry) : Nat := e.f 4 16 0 * 64
def atOoff (e : Entry) : Nat := e.f 4 33 17 * 64
def atStat (e : Entry) : Nat := e.f 4 50 34 * 64
def atDq (e : Entry) : Nat := e.f 5 16 0 * 64
def atDk (e : Entry) : Nat := e.f 5 33 17 * 64
def atDv (e : Entry) : Nat := e.f 5 50 34 * 64
def atDest (e : Entry) : Nat := e.f 6 10 0
def atLand (e : Entry) : Nat := e.f 6 21 11
def atPages (e : Entry) : Nat := e.f 6 32 22
def atPass (e : Entry) : Nat := e.f 7 31 0
def atKfirst (e : Entry) : Nat := e.f 7 43 32
def atVfirst (e : Entry) : Nat := e.f 7 55 44
def atHk (e : Entry) : Nat := e.f 7 61 56 + 1

/-! ### Transfers (R188), invalidations (R187), results (R289), collectives (R340) -/

def tfSrcBox (e : Entry) : Bool := e.b 0 0
def tfDstBox (e : Entry) : Bool := e.b 0 1
def tfSrcLay (e : Entry) : Nat := e.f 0 3 2
def tfDstLay (e : Entry) : Nat := e.f 0 5 4
def tfFmt (e : Entry) : Nat := e.f 0 9 6
def tfCmode (e : Entry) : Nat := e.f 0 11 10
def tfFill (e : Entry) : Nat := e.f 0 20 12
def tfSrc (e : Entry) : Nat := e.f 1 47 0
def tfDst (e : Entry) : Nat := e.f 2 47 0
def tfSrcRow (e : Entry) : Nat := e.f 3 31 0
def tfSrcPlane (e : Entry) : Nat := e.f 3 63 32
def tfDstRow (e : Entry) : Nat := e.f 4 31 0
def tfDstPlane (e : Entry) : Nat := e.f 4 63 32
def tfW (e : Entry) : Nat := e.f 5 15 0
def tfH (e : Entry) : Nat := e.f 5 31 16
def tfCh (e : Entry) : Nat := e.f 5 41 32 + 1
def tfX (e : Entry) : Nat := e.f 6 15 0
def tfY (e : Entry) : Nat := e.f 6 31 16
def tfSplit (e : Entry) : Nat := e.f 6 47 32
def tfTw (e : Entry) : Nat := e.f 7 15 0
def tfTh (e : Entry) : Nat := e.f 7 31 16
def ivBase (e : Entry) : Nat := e.f 0 47 16 * 2 ^ 16
def ivPages (e : Entry) : Nat := e.f 1 31 0
def rsStream (e : Entry) : Nat := e.f 0 5 0
def rsFrames (e : Entry) : Nat := e.f 0 8 6
def rsSrc (e : Entry) : Nat := e.f 1 47 0
def rsBytes (e : Entry) : Nat := e.f 2 31 0
def rsFarg (e : Entry) (k : Nat) : Nat := e.f 3 (5 * k + 4) (5 * k)
def clOp (e : Entry) : Nat := e.f 0 2 0
def clRed (e : Entry) : Nat := e.f 0 4 3
def clFmt (e : Entry) : Nat := e.f 0 8 5
def clGroup (e : Entry) : Nat := e.f 0 10 9
def clPeer (e : Entry) : Nat := e.f 0 15 11
def clTagArg (e : Entry) : Bool := e.b 0 16
def clTagIdx (e : Entry) : Nat := e.f 0 21 17
def clSrc (e : Entry) : Nat := e.f 1 47 0
def clDst (e : Entry) : Nat := e.f 2 47 0
def clElems (e : Entry) : Nat := e.f 3 31 0
def clTag (e : Entry) : Nat := e.f 3 63 32
def clMgen (e : Entry) : Nat := e.f 4 15 0
def clFence (e : Entry) : Nat := e.f 4 29 16
def clFenceEn (e : Entry) : Bool := e.b 4 30

end Sys2Proof.Machine
end

