-- ==== Sys2Proof/Machine/Array.lean ====
section
/-! DEFINITION. What a pass group computes (R78 to R131): feeder, escapes, cells, accumulation, checks of floats, reducer, write-out.
Everything is read through a byte reader, so that hearths and pilots share it. -/
namespace Sys2Proof.Machine

/-! ### Operands -/

/-- A decoded element: an integer or grid count, or a float value. -/
inductive Num where
  | int (v : Int)
  | flt (v : FVal)
  deriving DecidableEq, Repr

/-- An element that reaches the array, and whether the escape lane supplies it. -/
structure Cell where
  val : Num
  esc : Bool
  deriving DecidableEq, Repr

/-- How an operand is decoded: format, zero point, level table of a grid format, side list offset. -/
structure Operand where
  fmt    : Nat
  zp     : Int
  levels : List Int
  side   : Nat
  deriving DecidableEq, Repr

/-- Entry `i` of a side list (R110, R111). -/
def sideEntry (rd : Nat → Byte) (start i : Nat) : Int :=
  let a := (start + 2 * i) % 2 ^ 23
  signed 16 ((rd a).toNat + 256 * (rd ((a + 1) % 2 ^ 23)).toNat)

/-- An element decoded (R105 to R110); `cnt` counts the side-list entries consumed. -/
def decodeElem (rd : Nat → Byte) (o : Operand) (raw cnt : Nat) : Cell × Nat :=
  if fmtInt o.fmt then (⟨.int (intRaw o.fmt raw - o.zp), false⟩, cnt)
  else if fmtGrid o.fmt then
    if isEscape o.fmt raw then (⟨.int (sideEntry rd o.side cnt), true⟩, cnt + 1)
    else (⟨.int (o.levels.getD raw 0), false⟩, cnt)
  else (⟨.flt (decodeFloat o.fmt raw), false⟩, cnt)

/-! ### Layouts (R124, R125, R128 to R130) -/

/-- Block size of a blocked layout. -/
def blockOf (layout : Nat) : Nat := if layout = 0 then 16 else 32

/-- Where element (y, x, c) of a tensor lies: base of its packed group, and its index in it (R124, R125). -/
def elemAt (layout base plane row w : Nat) (y x c : Nat) : Nat × Nat :=
  if layout = 2 then (base + y * row + x * plane, c)
  else
    let bs := blockOf layout
    (base + c / bs * plane + y * row + x * (bs * w / 8), c % bs)

/-- A coordinate clamped into [0, n). -/
def clampTo (n : Nat) (v : Int) : Nat := if v < 0 then 0 else if (n : Int) ≤ v then n - 1 else v.toNat

/-- The value delivered at a halo position under ZERO or CONST (R130). -/
def haloCell (d : Entry) (float : Bool) : Cell :=
  if feedHalo d = 1 then
    ⟨if float then .flt (decodeFloat 14 (feedConst d)) else .int (signed 9 (feedConst d % 512)), false⟩
  else ⟨if float then .flt .zero else .int 0, false⟩

/-- Streamed row `r`: the channels of one position, decoded (R129, R130). -/
def feedRowOf (rd : Nat → Byte) (d : Entry) (o : Operand) (r cnt : Nat) : List Cell × Nat :=
  let x : Int := feedX0 d + ((r % feedRowLen d * feedSx d : Nat) : Int)
  let y : Int := feedY0 d + ((r / feedRowLen d * feedSy d : Nat) : Int)
  let inside := decide (0 ≤ x) && decide (x < feedW d) && decide (0 ≤ y) && decide (y < feedH d)
  (List.range (feedCh d)).foldl (fun acc i =>
    if inside || feedHalo d == 2 then
      let (a, k) := elemAt (feedLayout d) (feedBase d) (feedA d) (feedRow d) (fmtWidth o.fmt)
        (clampTo (feedH d) y) (clampTo (feedW d) x) (feedCh0 d + i)
      let (c, n) := decodeElem rd o (elemRead rd a (fmtWidth o.fmt) k) acc.2
      (acc.1 ++ [c], n)
    else (acc.1 ++ [haloCell d (fmtFloat o.fmt)], acc.2)) ([], cnt)

/-- The first `n` streamed rows of a pass. -/
def feedRows (rd : Nat → Byte) (d : Entry) (o : Operand) (n cnt : Nat) : List (List Cell) × Nat :=
  (List.range n).foldl (fun acc r =>
    let (row, c) := feedRowOf rd d o r acc.2
    (acc.1 ++ [row], c)) ([], cnt)

/-- A stationary tile: N_USED columns of K_USED elements, each padded to 64 bytes (R88). -/
def tileCols (rd : Nat → Byte) (base : Nat) (o : Operand) (k n cnt : Nat) : List (List Cell) × Nat :=
  let w := fmtWidth o.fmt
  let pitch := ceilDiv (packedBytes k w) 64 * 64
  (List.range n).foldl (fun acc c =>
    let (col, m) := (List.range k).foldl (fun a i =>
      let (e, m) := decodeElem rd o (elemRead rd (base + c * pitch) w i) a.2
      (a.1 ++ [e], m)) (([] : List Cell), acc.2)
    (acc.1 ++ [col], m)) ([], cnt)

/-! ### The scale record (R113 to R116) -/

/-- What a group takes from its scale record. -/
structure ScaleRec where
  f    : Rat
  zpO  : Int
  lvS  : List Int
  lvT  : List Int
  deriving DecidableEq, Repr

/-- A custom level table at an offset: none when an entry is invalid (R113, R114). -/
def levelTable (rd : Nat → Byte) (a fmt : Nat) : Option (List Int) :=
  let n := 2 ^ fmtWidth fmt
  (List.range n).mapM fun i =>
    let e := (rd (a + 2 * i)).toNat + 256 * (rd (a + 2 * i + 1)).toNat
    if e / 512 ≠ 0 ∨ e = 256 ∨ (i = escapeCode fmt ∧ e ≠ 0) then none else some (signed 9 e)

/-- The value of a positive FP32 code. -/
def f32 (raw : Nat) : Rat := (decodeFloat 15 raw).toRat

/-- The factor SCALE_S × SCALE_T × 2^(-6g) ÷ SCALE_O rounded once to FP32 (R116). -/
def writeFactor (sS sT sO g : Nat) : FVal := rne32 (.ofRat (f32 sS * f32 sT * pow2 (-(6 * (g : Int))) / f32 sO))

/-- A finite positive normal FP32 value. -/
def isNormal32 : FVal → Bool
  | .fin false m => decide (pow2 (-126) ≤ m)
  | _ => false

/-- The record of a group read and checked; none is SCALE_INVALID (R114, R115). -/
def readScale (rd : Nat → Byte) (g : Entry) : Option ScaleRec := do
  let a := grpScale g
  let w (i : Nat) : Word := BitVec.ofNat 64 (ofLE ((List.range 8).map fun k => rd (a + 8 * i + k)))
  let w0 := w 0
  let w1 := w 1
  let ltS := bitAt w1 41
  let ltT := bitAt w1 42
  let gS := fmtGrid (grpSfmt g)
  let gT := fmtGrid (grpTfmt g)
  guard (fld w1 63 43 == 0 && (List.range 6).all fun i => (w (i + 2)) == 0)
  guard (posNormal32 (fld w0 31 0) && posNormal32 (fld w0 63 32) && posNormal32 (fld w1 31 0))
  guard ((!ltS || gS) && (!ltT || gT))
  let n := (if gS then 1 else 0) + (if gT then 1 else 0)
  let f := writeFactor (fld w0 31 0) (fld w0 63 32) (fld w1 31 0) n
  guard (isNormal32 f)
  let zp := signed 9 (fld w1 40 32)
  guard (if fmtFloat (grpOfmt g) then zp == 0 else inRange (zpOutRange (grpOfmt g)) zp)
  let lvS ← if ltS then levelTable rd (a + 64) (grpSfmt g) else some (gridLevels (grpSfmt g))
  let next := a + 64 + (if ltS then ceilDiv (2 * 2 ^ fmtWidth (grpSfmt g)) 64 * 64 else 0)
  let lvT ← if ltT then levelTable rd next (grpTfmt g) else some (gridLevels (grpTfmt g))
  some ⟨f.toRat, zp, lvS, lvT⟩

/-! ### Cells, COMBINE, REDUCE (R80 to R85) -/

/-- An accumulator: its value and, under MAX or MIN, the k of the extreme. -/
abbrev Acc := Num × Nat

/-- 36-bit two's complement (R84). -/
def wrap36 (v : Int) : Int :=
  let m := v % 2 ^ 36
  if m < 2 ^ 35 then m else m - 2 ^ 36

/-- The contribution of an integer pair; none when excluded (R81). -/
def intOp (op : Nat) (a s : Int) : Option Int :=
  match op with
  | 0 => some (a * s)
  | 1 => some (if a < s then s - a else a - s)
  | 2 => some ((a - s) * (a - s))
  | 3 => some (if s < a then 1 else 0)
  | _ => if s = 0 then none else some a

/-- A float value is numerically zero. -/
def isZero : FVal → Bool
  | .fin _ m => m == 0
  | _ => false

/-- The contribution of a float pair; `wide` when either operand is FP32 (R85, R107). -/
def fltOp (op : Nat) (wide : Bool) (a s : FVal) : Option FVal :=
  if op = 0 then some (if wide then rne32 (exactMul a s) else exactMul a s) else if isZero s then none else some a

/-- The contribution of a pair of elements. -/
def contribution (op : Nat) (wide : Bool) (a s : Num) : Option Num :=
  match a, s with
  | .int a, .int s => (intOp op a s).map .int
  | .flt a, .flt s => (fltOp op wide a s).map .flt
  | _, _ => none

/-- Whether `b` displaces `a` as the extreme: strictly beyond it, a NaN beyond every number and never displaced (R82). -/
def displaces (mx : Bool) (a b : Num) : Bool :=
  match a, b with
  | .int x, .int y => if mx then decide (x < y) else decide (y < x)
  | .flt .nan, _ => false
  | .flt _, .flt .nan => true
  | .flt x, .flt y => if mx then x.lt y else y.lt x
  | _, _ => false

/-- The identity of a COMBINE (R82, R85). -/
def identityOf (comb : Nat) (float : Bool) : Acc :=
  match comb with
  | 1 => (if float then .flt (.inf true) else .int (-(2 ^ 35)), 0xFFFF)
  | 2 => (if float then .flt (.inf false) else .int (2 ^ 35 - 1), 0xFFFF)
  | _ => (if float then .flt .zero else .int 0, 0)

/-- One contribution combined in at index k. -/
def combineIn (comb : Nat) (acc : Acc) (k : Nat) (v : Num) : Acc :=
  if comb = 0 then
    match acc.1, v with
    | .int x, .int y => (.int (wrap36 (x + y)), 0)
    | .flt x, .flt y => (.flt (add32 x y), 0)
    | _, _ => acc
  else if acc.2 = 0xFFFF ∨ displaces (comb == 1) acc.1 v then (v, k) else acc

/-- A window of streamed elements met with a stationary column, k counted from `k0` (R80). -/
def combineCol (op comb : Nat) (wide float : Bool) (k0 : Nat) (win col : List Cell) : Acc :=
  ((win.zip col).foldl (fun acc p =>
    (match contribution op wide p.1.val p.2.val with
     | some v => combineIn comb acc.1 acc.2 v
     | none => acc.1, acc.2 + 1)) (identityOf comb float, k0)).1

/-- A pass's own result joined to the carried one, carried first (R82, R85). -/
def joinAcc (comb : Nat) (c p : Acc) : Acc :=
  if comb = 0 then combineIn 0 c 0 p.1
  else if p.2 = 0xFFFF then c
  else if c.2 = 0xFFFF ∨ displaces (comb == 1) c.1 p.1 then p else c

/-- Output rows of a pass (R80). -/
def outRows (rows seg t d : Nat) : Nat :=
  if seg = 0 then rows - (t - 1) * d else rows / seg * (seg - (t - 1) * d)

/-- The window of output row `o`: the streamed rows that the taps meet, concatenated (R80). -/
def windowOf (a : List (List Cell)) (seg t d o : Nat) : List Cell :=
  let q := if seg = 0 then outRows a.length 0 t d else seg - (t - 1) * d
  let s := if seg = 0 then 0 else o / q
  let x := if seg = 0 then o else o % q
  (List.range t).flatMap fun i => a.getD (s * seg + x + i * d) []

/-- A group of 16 positions of a pairing holds more than one escape (R86). The positions of a pairing are those of the window of
an output row: with T above 1 a pairing in which no output row is formed is never counted (DESIGN CHOICE, log 49). -/
def tooDense (win col : List Cell) : Bool :=
  let marks := (win.zip col).map fun p => (if p.1.esc then 1 else 0) + (if p.2.esc then 1 else 0)
  (List.range (ceilDiv marks.length 16)).any fun i => decide (1 < ((marks.drop (16 * i)).take 16).foldl (· + ·) 0)

/-! ### The float checks (R96, R97) -/

/-- The float of an accumulator or element. -/
def Num.flt! : Num → FVal
  | .flt v => v
  | .int v => .ofRat v

/-- |v|. -/
def FVal.abs : FVal → FVal
  | .fin _ m => .fin false m
  | .inf _ => .inf false
  | .nan => .nan

/-- A non-negative value rounded toward +∞ to FP32. -/
def up32 : FVal → FVal
  | .fin n m =>
    let u := pow2 (ulpExp fp32 m)
    let r := ((m / u).ceil : Rat) * u
    if fp32.big < r then .inf n else .fin n r
  | v => v

/-- A sum of FP32 values in order from +0. -/
def sum32 (l : List FVal) : FVal := l.foldl add32 .zero

/-- A sum of magnitudes, each addition rounded up. -/
def sumUp (l : List FVal) : FVal := l.foldl (fun a b => up32 (exactAdd a b.abs)) .zero

/-- The sum over k of products of which one factor is a checksum, an FP32 value: each product is rounded (R96, R85). -/
def dot32 (a b : List FVal) : FVal := sum32 ((a.zip b).map fun p => rne32 (exactMul p.1 p.2))

/-- The sum of products of magnitudes, rounded up. -/
def dotUp (a b : List FVal) : FVal :=
  (a.zip b).foldl (fun acc p => up32 (exactAdd acc (up32 (exactMul p.1.abs p.2.abs)))) .zero

/-- The verdict of one check. -/
inductive Verdict where
  | ok
  | fails
  | nonfinite
  deriving DecidableEq, Repr

/-- |rs - cs| against the bound of R96. -/
def verdictOf (k l : Nat) (rs cs m : FVal) : Verdict :=
  if rs.nonfinite || cs.nonfinite || m.nonfinite then .nonfinite
  else
    let a := up32 (.fin false (((k + l + 4 : Nat) : Rat) * pow2 (-24) * m.toRat))
    let b := up32 (exactAdd a (.fin false ((l : Rat) * pow2 (-126))))
    let d := rs.toRat - cs.toRat
    match b with
    | .fin _ q => if q < (if d < 0 then -d else d) then .fails else .ok
    | _ => .ok

/-- The row check of one output row: window a, columns S, outputs, carried row if the pass is a later one of a chain. -/
def rowCheck (a : List FVal) (cols : List (List FVal)) (wc wm : List FVal) (out : List FVal)
    (carried : Option (List FVal)) : Verdict :=
  let cs := dot32 a wc
  let m := dotUp a wm
  let (cs, m) := match carried with
    | some c => (add32 (sum32 c) cs, up32 (exactAdd m (sumUp c)))
    | none => (cs, m)
  if wc.any FVal.nonfinite then .nonfinite else verdictOf a.length cols.length (sum32 out) cs m

/-- The column check of one column over a run of rows. -/
def colCheck (wins : List (List FVal)) (col out : List FVal) (carried : Option (List FVal)) : Verdict :=
  let k := col.length
  let ar := (List.range k).map fun i => sum32 (wins.map fun w => w.getD i .zero)
  let am := (List.range k).map fun i => sumUp (wins.map fun w => w.getD i .zero)
  let cs := dot32 ar col
  let m := dotUp am col
  let (cs, m) := match carried with
    | some c => (add32 (sum32 c) cs, up32 (exactAdd m (sumUp c)))
    | none => (cs, m)
  if ar.any FVal.nonfinite then .nonfinite else verdictOf k wins.length (sum32 out) cs m

/-- A column of a list of rows. -/
def colOf (rows : List (List FVal)) (n : Nat) : List FVal := rows.map fun r => r.getD n .zero

/-- A row holds Inf or NaN other than an excluded identity (R97). -/
def rowNonfinite (comb : Nat) (row : List Acc) : Bool :=
  row.any fun a => a.1.flt!.nonfinite && !(comb != 0 && a.2 == 0xFFFF)

/-- What the checks of one pass find: a failed check, a non-finite row, and which rows stay out of the checks. -/
structure Checked where
  fails     : Bool
  nonfinite : Bool
  left      : List Bool
  deriving DecidableEq, Repr

/-- One run of up to 4,096 output rows in the column check: windows, values and carried values of the rows that no other test
leaves out. L is the number of these rows (log 49). -/
def runCols (cols wins vals : List (List FVal)) (cvals : Option (List (List FVal))) (out : List Bool) (i : Nat) : List Verdict :=
  let keep (l : List (List FVal)) : List (List FVal) :=
    ((((l.drop (4096 * i)).take 4096).zip ((out.drop (4096 * i)).take 4096)).filter fun p => !p.2).map (·.1)
  (List.range cols.length).map fun n =>
    colCheck (keep wins) (cols.getD n []) (colOf (keep vals) n) (cvals.map fun c => colOf (keep c) n)

/-- The checks of a float pass (R96, R97). `sums`: MUL with SUM, where row and column checks exist. A row is non-finite by its own
values and checksums, or because a checksum of a column of its run is: that leaves out every row of the run that remains (log 49). -/
def checkPass (sums : Bool) (comb : Nat) (wins : List (List FVal)) (cols : List (List FVal)) (out : List (List Acc))
    (carried : Option (List (List Acc))) : Checked :=
  let k := (cols.getD 0 []).length
  let wc := (List.range k).map fun i => sum32 (colOf cols i)
  let wm := (List.range k).map fun i => sumUp (colOf cols i)
  let vals := out.map fun r => r.map fun a => a.1.flt!
  let cvals := carried.map fun rs => rs.map fun r => r.map fun a => a.1.flt!
  let rowV := (List.range out.length).map fun o =>
    if rowNonfinite comb (out.getD o []) then Verdict.nonfinite
    else if sums then rowCheck (wins.getD o []) cols wc wm (vals.getD o []) (cvals.map fun c => c.getD o [])
    else .ok
  let left0 := rowV.map (· == .nonfinite)
  let runs := if sums then (List.range (ceilDiv out.length 4096)).map (runCols cols wins vals cvals left0) else []
  let lost := runs.map fun l => l.any (· == .nonfinite)
  let left := (List.range out.length).map fun o => left0.getD o false || lost.getD (o / 4096) false
  ⟨(List.range out.length).any (fun o => rowV.getD o .ok == .fails && !left.getD o false)
      || runs.any (fun l => l.any (· == .fails) && !l.any (· == .nonfinite)),
    left.any id, left⟩

/-! ### The exact checks and the rotating recompute (R95, R98) -/

/-- The integer of an element or accumulator. -/
def Num.int! : Num → Int
  | .int v => v
  | .flt _ => 0

/-- The sum of an integer list in 36 bits. -/
def sum36 (l : List Int) : Int := l.foldl (fun a v => wrap36 (a + v)) 0

/-- The checksum of a window under MUL or SQDIFF (R95): the extra stationary column met with the window. -/
def rowSum95 (op : Nat) (win : List Int) (cols : List (List Int)) : Int :=
  sum36 ((List.range win.length).map fun k =>
    let a := win.getD k 0
    let wc := (cols.map fun c => c.getD k 0).foldl (· + ·) 0
    if op = 0 then a * wc
    else (cols.length : Int) * (a * a) - 2 * a * wc + (cols.map fun c => c.getD k 0 * c.getD k 0).foldl (· + ·) 0)

/-- The checksum of a column over the rows of a run (R95): the streamed sums met with the column. -/
def colSum95 (op : Nat) (wins : List (List Int)) (col : List Int) : Int :=
  sum36 ((List.range col.length).map fun k =>
    let s := col.getD k 0
    let ar := (wins.map fun w => w.getD k 0).foldl (· + ·) 0
    if op = 0 then ar * s
    else (wins.map fun w => w.getD k 0 * w.getD k 0).foldl (· + ·) 0 - 2 * s * ar + (wins.length : Int) * (s * s))

/-- The row and column checks of R95 on a pass's own contribution. -/
def checks95 (op : Nat) (wins cols : List (List Int)) (own : List (List Int)) : Bool :=
  ((List.range own.length).all fun o => sum36 (own.getD o []) == rowSum95 op (wins.getD o []) cols)
    && (List.range (ceilDiv own.length 4096)).all fun i => (List.range cols.length).all fun n =>
      let part (l : List (List Int)) := (l.drop (4096 * i)).take 4096
      sum36 ((part own).map fun r => r.getD n 0) == colSum95 op (part wins) (cols.getD n [])

/-- The column of row `o` that the recompute column forms again: `m` passes were started before this one (R98). -/
def recomputeCol (n m o : Nat) : Nat := (o + m) % n

/-- The rotating recompute of R98: `again o n` is column n of row o formed anew. -/
def recomputeOk (m : Nat) (own : List (List Acc)) (again : Nat → Nat → Acc) : Bool :=
  (List.range own.length).all fun o =>
    let n := recomputeCol (own.getD o []).length m o
    (own.getD o []).getD n (.int 0, 0) == again o n

/-! ### Write-out (R116 to R121) -/

/-- Who computes: seed, position and half of R121, and the passes that the hearth started before this group (R98). -/
structure Place3 where
  seed : Word
  pos  : Nat
  half : Nat
  started : Nat
  deriving DecidableEq, Repr

/-- One output value written in OFMT: its code and whether it saturated. -/
def writeOut (g : Entry) (sc : ScaleRec) (pl : Place3) (o n p : Nat) (v : Num) : Nat × Bool :=
  let u := if grpStoch g then some (srBits (srWord pl.seed (grpStream g) o n p pl.pos pl.half)) else none
  match v with
  | .int x =>
    if grpOfmt g = 5 then
      let (w, s) := saturate (intRange 5) x
      (intCode 5 w, s)
    else
      let y : Rat := (x : Rat) * sc.f
      writeValue (grpOfmt g) sc.zpO u (.ofRat y)
  | .flt x =>
    let y := match x with
      | .fin s m => FVal.fin s (m * sc.f)
      | v => v
    writeValue (grpOfmt g) sc.zpO u y

/-- The bytes of one output row: values, then 16-bit indices under MAX or MIN, then row indices under REDUCE (R88). -/
def rowBytes (g : Entry) (sc : ScaleRec) (pl : Place3) (o p : Nat) (row : List Acc) (ridx : Option (List Nat)) :
    List Byte × Nat :=
  let codes := (List.range row.length).map fun n => writeOut g sc pl o n p (row.getD n (.int 0, 0)).1
  let vals := packElems (fmtWidth (grpOfmt g)) (codes.map (·.1))
  let idx := if grpCombine g = 0 then [] else row.flatMap fun a => toLE 2 a.2
  let rows := match ridx with
    | some l => l.flatMap (toLE 4)
    | none => []
  (vals ++ idx ++ rows, (codes.filter (·.2)).length)

/-- The reduced row: for each column the extreme over the rows and the lowest row that reaches it (R83). -/
def reduceRows (mx : Bool) (rows : List (List Acc)) : List (Acc × Nat) :=
  (List.range (rows.getD 0 []).length).map fun n =>
    ((List.range rows.length).drop 1).foldl (fun best o =>
      let a := (rows.getD o []).getD n (.int 0, 0)
      if displaces mx best.1.1 a.1 then (a, o) else best) ((rows.getD 0 []).getD n (.int 0, 0), 0)

/-! ### The group -/

/-- What runs through the passes of a group. -/
structure GroupSt where
  tile    : List (List Cell)
  cntS    : Nat
  cntT    : Nat
  carry   : Option (List (List Acc))
  k0      : Nat
  left    : List Bool
  writes  : List (Nat × List Byte)
  sats    : Nat
  nonfin  : Nat
  checks  : List (FaultClass × Nat)
  deriving DecidableEq, Repr

/-- A group's outcome: a fault at a pass, with the counts of what ran before it, or its writes by offset in the destination
range, with its counts and the checks that failed and did not stop it, by pass (R304). -/
inductive GroupRes where
  | fault (cls : FaultClass) (pass : Nat) (sats escapes nonfin : Nat)
  | done (writes : List (Nat × List Byte)) (sats escapes nonfin : Nat) (checks : List (FaultClass × Nat))
  deriving DecidableEq, Repr

/-- The classes that a pass's checks raise, in the order in which they are judged: non-finite rows under NONFINITE_OK 0, then
failed checks. -/
def judge (g : Entry) (c : Checked) : List FaultClass :=
  (if c.nonfinite && !grpNonfiniteOk g then [.arrayNonfinite] else []) ++ (if c.fails then [.arrayCheck] else [])

/-- The rows of a chain's last pass written out (R83, R88, R117). -/
def writeRows (g pe : Entry) (sc : ScaleRec) (pl : Place3) (p : Nat) (rows : List (List Acc)) :
    List (Nat × List Byte) × Nat :=
  if grpReduce g = 0 then
    let l := (List.range rows.length).map fun o =>
      (passOut pe + o * grpStride g, rowBytes g sc pl o p (rows.getD o []) none)
    (l.map fun e => (e.1, e.2.1), (l.map fun e => e.2.2).foldl (· + ·) 0)
  else
    let r := reduceRows (grpReduce g == 1) rows
    let (bs, n) := rowBytes g sc pl 0 p (r.map (·.1)) (some (r.map (·.2)))
    ([(passOut pe, bs)], n)

/-- The checks of one pass (R95 to R98): of floats under R96 and R97; of integers the exact checksums, where OP and COMBINE have
them, else the rotating recompute. -/
def passChecks (g : Entry) (m k0 : Nat) (wins tile : List (List Cell)) (own rows : List (List Acc))
    (carry : Option (List (List Acc))) : Checked :=
  let float := fmtFloat (grpSfmt g)
  let wide := grpSfmt g == 15 || grpTfmt g == 15
  let flts (l : List (List Cell)) : List (List FVal) := l.map fun r => r.map fun c => c.val.flt!
  let ints (l : List (List Cell)) : List (List Int) := l.map fun r => r.map fun c => c.val.int!
  let c := if float then checkPass (grpOp g == 0 && grpCombine g == 0) (grpCombine g) (flts wins) (flts tile) rows carry
    else ⟨false, false, rows.map fun _ => false⟩
  let ok := if grpCombine g == 0 && (grpOp g == 0 || (!float && grpOp g == 2)) then
      float || checks95 (grpOp g) (ints wins) (ints tile) (own.map fun r => r.map fun a => a.1.int!)
    else recomputeOk m own fun o n =>
      combineCol (grpOp g) (grpCombine g) wide float k0 (wins.getD o []) (tile.getD n [])
  { c with fails := c.fails || !ok }

/-- A pass stopped by a fault: the state of the group with the escapes that it had read counted (log 49). -/
def stopAt (cls : FaultClass) (p : Nat) (st : GroupSt) (cntS cntT : Nat) : Except (FaultClass × Nat × GroupSt) GroupSt :=
  .error (cls, p, { st with cntS := cntS, cntT := cntT })

/-- Pass `p` of a group, on the state that the earlier passes left. -/
def runPass (rd : Nat → Byte) (unit : Nat → Entry) (g : Entry) (sc : ScaleRec) (pl : Place3) (checks detect : Bool)
    (p : Nat) (pe : Entry) (st : GroupSt) : Except (FaultClass × Nat × GroupSt) GroupSt :=
  let opS : Operand := ⟨grpSfmt g, grpZpS g, sc.lvS, grpEscS g⟩
  let opT : Operand := ⟨grpTfmt g, grpZpT g, sc.lvT, grpEscT g⟩
  let float := fmtFloat (grpSfmt g)
  let wide := grpSfmt g == 15 || grpTfmt g == 15
  let (tile, cntT) := if passKeep pe then (st.tile, st.cntT)
    else tileCols rd (passTile pe) opT (grpK g) (grpN g) st.cntT
  let (a, cntS) := feedRows rd (unit (passFeed pe)) opS (passRows pe) st.cntS
  let n := outRows a.length (grpSeg g) (grpT g) (grpD g)
  let wins := (List.range n).map fun o => windowOf a (grpSeg g) (grpT g) (grpD g) o
  if checks && wins.any fun w => tile.any fun c => tooDense w c then stopAt .escapeDensity p st cntS cntT
  else
    let own := wins.map fun w => tile.map fun c => combineCol (grpOp g) (grpCombine g) wide float st.k0 w c
    let rows := match st.carry with
      | some cs => (cs.zip own).map fun r => (r.1.zip r.2).map fun e => joinAcc (grpCombine g) e.1 e.2
      | none => own
    let chk := if checks then passChecks g (pl.started + p) st.k0 wins tile own rows st.carry
      else ⟨false, false, rows.map fun _ => false⟩
    let bad := judge g chk
    if !bad.isEmpty ∧ !detect then stopAt (bad.headD .arrayCheck) p st cntS cntT
    else
      let left := if st.carry.isSome then (st.left.zip chk.left).map fun e => e.1 || e.2 else chk.left
      let st := { st with tile := tile, cntS := cntS, cntT := cntT, checks := st.checks ++ bad.map fun c => (c, p) }
      if passChain pe then .ok { st with carry := some rows, k0 := st.k0 + grpK g, left := left }
      else
        let (ws, sats) := writeRows g pe sc pl p rows
        .ok { st with carry := none, k0 := 0, left := [], writes := st.writes ++ ws, sats := st.sats + sats,
                      nonfin := st.nonfin + (if grpNonfiniteOk g then (left.filter id).length else 0) }

/-- The passes of a group in order. -/
def runPasses (rd : Nat → Byte) (unit : Nat → Entry) (g : Entry) (sc : ScaleRec) (pl : Place3) (checks detect : Bool) :
    Nat → List Entry → GroupSt → Except (FaultClass × Nat × GroupSt) GroupSt
  | _, [], st => .ok st
  | p, pe :: t, st =>
    match runPass rd unit g sc pl checks detect p pe st with
    | .error e => .error e
    | .ok st => runPasses rd unit g sc pl checks detect (p + 1) t st

/-- A pass group run on a store (R80 to R121). `checks`: the hearth's checks and escape lane apply; `detect`: checks do not
stop the group (R304). -/
def runGroup (rd : Nat → Byte) (unit : Nat → Entry) (g : Entry) (passes : List Entry) (pl : Place3)
    (checks detect : Bool) : GroupRes :=
  match readScale rd g with
  | none => .fault .scaleInvalid 0 0 0 0
  | some sc =>
    match runPasses rd unit g sc pl checks detect 0 passes ⟨[], 0, 0, none, 0, [], [], 0, 0, []⟩ with
    | .error (c, p, st) => .fault c p st.sats (st.cntS + st.cntT) st.nonfin
    | .ok st => .done st.writes st.sats (st.cntS + st.cntT) st.nonfin st.checks

/-! ### Rounds (R79, R90, R91) -/

/-- Twice the row interval of a format. -/
def rho2 (f : Nat) : Nat := if fmtWidth f = 4 then 1 else if fmtWidth f ≤ 8 then 2 else if fmtWidth f = 16 then 8 else 32

/-- Load time of a stationary format. -/
def loadTime (f : Nat) : Nat :=
  if fmtWidth f = 4 then 64 else if fmtWidth f = 6 then 96 else if fmtWidth f = 8 then 128 else if fmtWidth f = 16 then 256
  else 512

/-- Rounds from the first row of each pass on, the last with its drain (R91). -/
def groupRounds (g : Entry) : List Entry → Nat
  | [] => 0
  | [p] =>
    let r := max (rho2 (grpSfmt g)) (rho2 (grpTfmt g))
    let (k, n) := formKN (grpForm g)
    ceilDiv (passRows p * r) 2 + ceilDiv ((k + n) * max 2 r) 2
  | p :: q :: t =>
    let r := max (rho2 (grpSfmt g)) (rho2 (grpTfmt g))
    max (ceilDiv (passRows p * r) 2) (if passKeep q then 0 else loadTime (grpTfmt g)) + groupRounds g (q :: t)

end Sys2Proof.Machine
end

