-- ==== Sys2Proof/Machine/Flags.lean ====
section
/-! DEFINITION. Status words and flag bits the device composes: HST_STATUS, the gates and safe pins, frame FLAGS, fault classes. -/
namespace Sys2Proof.Machine

/-! ### Which half a number lies in (R8, R14) -/

/-- Half of a logical position 0 to 15. -/
def halfOfPos (l : Nat) : Half := if l < 8 then .west else .east

/-- Half of a physical hearth 0 to 17. -/
def halfOfPhys (p : Nat) : Half := if p < 8 ∨ p = 16 then .west else .east

/-- Half of a knot. -/
def halfOfKnot (k : Nat) : Half := if k < 8192 then .west else .east

/-- Half of a channel. -/
def halfOfChan (c : Nat) : Half := if c < 16 then .west else .east

/-- Half of a link. -/
def halfOfLink (k : Nat) : Half := if k < 4 then .west else .east

/-- Half of a global damper number (32 × half + d). -/
def halfOfDamper (g : Nat) : Half := if g < 32 then .west else .east

/-- The logical position 0 to 15 of position `i` of a half. -/
def posOf (h : Half) (i : Nat) : Nat := 8 * h.idx + i

/-- The spare of a half (R8). -/
def spareOf (h : Half) : Nat := 16 + h.idx

/-- The physical hearths of a half, the spare last. -/
def hearthsOf (h : Half) : List Nat := (List.range 8).map (8 * h.idx + ·) ++ [spareOf h]

/-- The positions `i` (0 to 7) that a mask names. -/
def maskBits (n mask : Nat) : List Nat := (List.range n).filter mask.testBit

/-! ### Reads of State -/

/-- A half's units. -/
def State.half (s : State) : Half → HalfUnit
  | .west => s.west
  | .east => s.east

/-- Ring page `n`. -/
def State.ring (s : State) (n : Nat) : RingPage := Tab.get .init s.host.rings n

/-- Hearth at physical index `p`. -/
def State.hearth (s : State) (p : Nat) : Hearth := Tab.get .init s.seq.hearths p

/-- Logical position `l` (0 to 15); before KINDLING or a restart places it, the default names its identity hearth. -/
def State.place (s : State) (l : Nat) : Place := Tab.get { Place.init with physical := l } s.seq.places l

/-- Run-time state of a hoop. -/
def State.hoop (s : State) (h : Nat) : HoopUnit := Tab.get .init s.seq.hoops h

/-- A knot (R62). -/
def State.knot (s : State) (k : Nat) : BitVec 32 := Tab.get 0 s.seq.knots k

/-- A damper by global number. -/
def State.damper (s : State) (g : Nat) : Damper := Tab.get .init s.mem.dampers g

/-- A channel. -/
def State.chan (s : State) (c : Nat) : Channel := Tab.get .init s.mem.channels c

/-- A route key, 16 × port + selector. -/
def State.key (s : State) (k : Nat) : Key := Tab.get .init s.intake.keys k

/-- A port. -/
def State.port (s : State) (n : Nat) : Port := Tab.get .init s.intake.ports n

/-- A decoder. -/
def State.dec (s : State) (d : Nat) : Decoder := Tab.get .init s.intake.decoders d

/-- A link. -/
def State.klink (s : State) (k : Nat) : Link := Tab.get .init s.link.links k

/-- A pilot. -/
def State.pilot (s : State) : Half → Pilot
  | .west => s.out.pilot0
  | .east => s.out.pilot1

/-- An output stream. -/
def State.stream (s : State) (n : Nat) : Stream := Tab.get .init s.out.streams n

/-- The hoop table entry in force: the old one while a change waits for the next admission (R264). -/
def State.hoopEntry (s : State) (h : Nat) : Entry :=
  let held := Tab.get [] s.img.heldHoops h
  if held.isEmpty then s.img.entry 1 h else held

/-- The half of a hoop. -/
def State.hoopHome (s : State) (h : Nat) : Half := hoopHalf (s.hoopEntry h)

/-- The logical positions 0 to 15 of a hoop. -/
def State.hoopPositions (s : State) (h : Nat) : List Nat :=
  (maskBits 8 (hoopHearths (s.hoopEntry h))).map (posOf (s.hoopHome h))

/-- The hoop that owns a logical position, if any. -/
def State.hoopOfPos (s : State) (l : Nat) : Option Nat :=
  (List.range 16).find? fun h => hoopValid (s.hoopEntry h) && (s.hoopPositions h).contains l

/-- Timestamp now. -/
def State.now (s : State) : Word := s.time.ts

/-- Half-periods since power-on now. -/
def State.hp (s : State) : Nat := s.time.hp

/-- Microseconds in half-periods of PACECLK (10 ns each). -/
def usHp (us : Nat) : Nat := us * 100

/-! ### Gates, pins, status -/

/-- Under reset: a half reset has begun and the half is not yet back (R385). -/
def HalfUnit.underReset (u : HalfUnit) : Bool := u.reset != .none

/-- The device may hand out keys (R293): DRAWING or DAMPED. -/
def State.keysState (s : State) : Bool := s.dev.st == .drawing || s.dev.st == .damped

/-- The harmless output state (R301). -/
def State.harmless (s : State) : Bool := s.dev.st == .banked || s.dev.st == .quenched

/-- The half's output gate is open (R303, R324). -/
def State.gateOpen (s : State) (h : Half) : Bool :=
  let u := s.half h
  s.keysState && u.inService && !u.danger && !u.mainOut

/-- SAFE_N_WEST, SAFE_N_EAST (R303). -/
def State.safeN (s : State) (h : Half) : Bool := s.gateOpen h

/-- The conditions under which a heartbeat toggles (R302). -/
def State.hbActive (s : State) (h : Half) : Bool :=
  let u := s.half h
  s.keysState && u.inService && !u.danger && u.lockstepOk

/-- HST_STATUS (R33). -/
def State.hstStatus (s : State) : Word :=
  BitVec.ofNat 64 (s.dev.st.code + at_ 3 s.dev.leader.idx + bitTo 4 s.west.inService + bitTo 5 s.east.inService
    + bitTo 6 s.dev.imageValid + bitTo 7 s.dev.outputsOpen + bitTo 8 s.img.proposal.isSome + bitTo 9 s.dev.debugOpen
    + at_ 16 s.dev.ignored + at_ 32 s.link.epoch)

/-- DRAINED of a ring page (R34). -/
def RingPage.drained (r : RingPage) : Bool := !r.enable && r.outstanding == 0

/-- Words of a submission ring (R34). -/
def RingPage.words (r : RingPage) : Nat := 2 ^ (fld r.sqSize 3 0 + 8)

/-- Records of a reply ring (R34). -/
def RingPage.records (r : RingPage) : Nat := 2 ^ (fld r.rrSize 3 0 + 6)

/-- Records of an output ring (R31). -/
def OutPage.records (o : OutPage) : Nat := 2 ^ (fld o.size 3 0 + 6)

/-- Records of an output ring that the host has not consumed (R42). -/
def OutPage.used (o : OutPage) : Nat := (o.tail - o.head.setWidth 32).toNat

/-- The output ring has no free slot. -/
def OutPage.full (o : OutPage) : Bool := decide (o.records ≤ o.used)

/-- Records of a reply ring not consumed, final replies owed included (R39). -/
def RingPage.rrUsed (r : RingPage) : Nat := (r.tail - r.rrHead).toNat + r.outstanding

/-- The harmless, degraded or dangerous severity of a fault class (R315): 0 INFO, 1 DEGRADED, 2 DANGEROUS. -/
def severity : FaultClass → Nat
  | .poolMisuse | .paceSlip | .dramTemp | .cameraSetup | .sensorMismatch | .intakeStall | .sampleSkipped | .decodeCtrl
  | .hearthRetired | .lateSpeech | .staleResult | .outputRingFull | .agreementMismatch | .halfReset | .linkEpochStale
  | .peerAbsent | .linkRetry => 0
  | .stepWatchdog | .pilotOverrun | .lockstepMismatch | .checkerSelftest | .voltageFault => 2
  | .arrayCheck | .arrayNonfinite | .escapeDensity | .scaleInvalid | .transformCheck | .attendCheck | .attendNonfinite
  | .attendCapacity | .compressFormat | .compressCheck | .storeUncorrectable | .translationFault | .damperCutoff
  | .paceFault | .knotWaitTimeout | .guaranteeBreach | .dramUncorrectable | .dramChannelLost | .e2eFail | .pathDown
  | .compareFail | .keyMismatch | .pilotMismatch | .weightDigest | .leaderDispute | .mainOut | .outputWriter
  | .thermalLimit | .replicaDigest => 1

/-- CLASS codes (R315). -/
def classCode : FaultClass → Nat
  | .arrayCheck => 0x01
  | .arrayNonfinite => 0x02
  | .escapeDensity => 0x03
  | .scaleInvalid => 0x04
  | .transformCheck => 0x05
  | .attendCheck => 0x06
  | .attendNonfinite => 0x07
  | .attendCapacity => 0x08
  | .compressFormat => 0x09
  | .compressCheck => 0x0A
  | .storeUncorrectable => 0x0B
  | .translationFault => 0x0C
  | .damperCutoff => 0x0D
  | .poolMisuse => 0x0E
  | .paceSlip => 0x10
  | .paceFault => 0x11
  | .stepWatchdog => 0x12
  | .knotWaitTimeout => 0x13
  | .guaranteeBreach => 0x14
  | .dramUncorrectable => 0x18
  | .dramChannelLost => 0x19
  | .dramTemp => 0x1A
  | .e2eFail => 0x20
  | .cameraSetup => 0x21
  | .sensorMismatch => 0x22
  | .intakeStall => 0x23
  | .sampleSkipped => 0x24
  | .decodeCtrl => 0x25
  | .pathDown => 0x26
  | .compareFail => 0x30
  | .keyMismatch => 0x31
  | .pilotMismatch => 0x32
  | .pilotOverrun => 0x33
  | .weightDigest => 0x34
  | .hearthRetired => 0x35
  | .lateSpeech => 0x36
  | .staleResult => 0x37
  | .lockstepMismatch => 0x38
  | .leaderDispute => 0x39
  | .mainOut => 0x3A
  | .outputRingFull => 0x3B
  | .agreementMismatch => 0x3C
  | .checkerSelftest => 0x3D
  | .halfReset => 0x3E
  | .outputWriter => 0x3F
  | .voltageFault => 0x40
  | .thermalLimit => 0x41
  | .linkEpochStale => 0x48
  | .peerAbsent => 0x49
  | .replicaDigest => 0x4A
  | .linkRetry => 0x4B

/-! UNIT_KIND codes (R314) -/
def ukDevice : Nat := 0
def ukHearth : Nat := 1
def ukSequencer : Nat := 2
def ukFireguard : Nat := 3
def ukPilot : Nat := 4
def ukChannel : Nat := 5
def ukSlice : Nat := 6
def ukDamper : Nat := 7
def ukPort : Nat := 8
def ukDecoder : Nat := 9
def ukPath : Nat := 10
def ukLink : Nat := 11
def ukPool : Nat := 12
def ukWriter : Nat := 13
def ukTally : Nat := 14
def ukSupply : Nat := 15

end Sys2Proof.Machine
end

