-- ==== Sys2Proof/Machine/Ops.lean ====
section
/-! DEFINITION. Named operations that the meanings share: updates of one unit, time, host memory, records, fault reports, device
states and leadership. -/
namespace Sys2Proof.Machine

/-! ### Updates of one unit -/

/-- A half's units changed. -/
def updHalf (h : Half) (f : HalfUnit → HalfUnit) (s : State) : State :=
  match h with
  | .west => { s with west := f s.west }
  | .east => { s with east := f s.east }

/-- A ring page changed. -/
def updRing (n : Nat) (f : RingPage → RingPage) (s : State) : State :=
  { s with host := { s.host with rings := s.host.rings.upd .init n f } }

/-- A physical hearth changed. -/
def updHearth (p : Nat) (f : Hearth → Hearth) (s : State) : State :=
  { s with seq := { s.seq with hearths := s.seq.hearths.upd .init p f } }

/-- A logical position changed. -/
def updPlace (l : Nat) (f : Place → Place) (s : State) : State :=
  { s with seq := { s.seq with places := s.seq.places.set l (f (s.place l)) } }

/-- A hoop changed. -/
def updHoop (h : Nat) (f : HoopUnit → HoopUnit) (s : State) : State :=
  { s with seq := { s.seq with hoops := s.seq.hoops.upd .init h f } }

/-- A knot replaced. -/
def setKnot (k v : Nat) (s : State) : State :=
  { s with seq := { s.seq with knots := s.seq.knots.set k (BitVec.ofNat 32 v) } }

/-- A knot advanced modulo 2^32 (R62). -/
def addKnot (k v : Nat) (s : State) : State := setKnot k ((s.knot k).toNat + v) s

/-- A damper changed. -/
def updDamper (g : Nat) (f : Damper → Damper) (s : State) : State :=
  { s with mem := { s.mem with dampers := s.mem.dampers.upd .init g f } }

/-- A channel changed. -/
def updChan (c : Nat) (f : Channel → Channel) (s : State) : State :=
  { s with mem := { s.mem with channels := s.mem.channels.upd .init c f } }

/-- A route key changed. -/
def updKey (k : Nat) (f : Key → Key) (s : State) : State :=
  { s with intake := { s.intake with keys := s.intake.keys.upd .init k f } }

/-- A port changed. -/
def updPort (n : Nat) (f : Port → Port) (s : State) : State :=
  { s with intake := { s.intake with ports := s.intake.ports.upd .init n f } }

/-- A decoder changed. -/
def updDec (d : Nat) (f : Decoder → Decoder) (s : State) : State :=
  { s with intake := { s.intake with decoders := s.intake.decoders.upd .init d f } }

/-- A link changed. -/
def updLink (k : Nat) (f : Link → Link) (s : State) : State :=
  { s with link := { s.link with links := s.link.links.upd .init k f } }

/-- A pilot changed. -/
def updPilot (h : Half) (f : Pilot → Pilot) (s : State) : State :=
  match h with
  | .west => { s with out := { s.out with pilot0 := f s.out.pilot0 } }
  | .east => { s with out := { s.out with pilot1 := f s.out.pilot1 } }

/-- A stream changed. -/
def updStream (n : Nat) (f : Stream → Stream) (s : State) : State :=
  { s with out := { s.out with streams := s.out.streams.upd .init n f } }

/-- A 64-bit wrapping counter of a block advanced. -/
def bump (t : Tab Nat) (w k : Nat) : Tab Nat := t.upd 0 w fun n => (n + k) % 2 ^ 64

/-- Sequencer counters (R77). -/
def bumpSeq (h : Half) (w k : Nat) : State → State := updHalf h fun u => { u with seqCtr := bump u.seqCtr w k }

/-- Fireguard counters (R325). -/
def bumpFg (h : Half) (w k : Nat) : State → State := updHalf h fun u => { u with fgCtr := bump u.fgCtr w k }

/-- Damper counters (R285). -/
def bumpDamp (h : Half) (w k : Nat) : State → State := updHalf h fun u => { u with dampCtr := bump u.dampCtr w k }

/-- Translation and pool counters (R198). -/
def bumpXlat (h : Half) (w k : Nat) : State → State := updHalf h fun u => { u with xlatCtr := bump u.xlatCtr w k }

/-- Compression counters (R176). -/
def bumpCmp (h : Half) (w k : Nat) : State → State := updHalf h fun u => { u with cmpCtr := bump u.cmpCtr w k }

/-- Output writer counters (R325). -/
def bumpOut (w k : Nat) (s : State) : State := { s with out := { s.out with ctr := bump s.out.ctr w k } }

/-- Tally counters (R285). -/
def bumpTally (w k : Nat) (s : State) : State := { s with tally := { s.tally with ctr := bump s.tally.ctr w k } }

/-- Port counters (R255). -/
def bumpPort (n w k : Nat) : State → State := updPort n fun p => { p with ctr := bump p.ctr w k }

/-- Channel counters (R221). -/
def bumpChan (c w k : Nat) : State → State := updChan c fun x => { x with ctr := bump x.ctr w k }

/-- Counters of the link system (R352). -/
def bumpSys (w k : Nat) (s : State) : State := { s with link := { s.link with ctr := bump s.link.ctr w k } }

/-- Counters of a link (R352). -/
def bumpLink (n w k : Nat) : State → State := updLink n fun x => { x with ctr := bump x.ctr w k }

/-- A fold of state updates over a list. -/
def forEach {α : Type} (l : List α) (f : α → State → State) (s : State) : State := l.foldl (fun s a => f a s) s

/-! ### Free values (log 6) -/

/-- The next free value's salt, and the state that has drawn it. -/
def fresh (s : State) : Nat × State := (s.freeCtr, { s with freeCtr := s.freeCtr + 1 })

/-! ### Time (log 3) -/

/-- `n` PACECLK periods added to the timestamp under the slew in force (R50). -/
def Time.addPeriods (t : Time) (n : Nat) : Time :=
  let total : Int := t.slewAcc + (n : Int) * t.slew
  let extra : Int := total / 1000000000
  { t with ts := t.ts + BitVec.ofNat 64 n + BitVec.ofInt 64 extra, slewAcc := total % 1000000000 }

/-- Time moved forward to half-period `hp`, never back. A PACECLK period ends at every even half-period. -/
def advanceTo (hp : Nat) (s : State) : State :=
  if hp ≤ s.time.hp then s
  else
    let t := s.time.addPeriods (hp / 2 - s.time.hp / 2)
    { s with time := { t with hp := hp } }

/-- What an empty queue does: one half-period of PACECLK passes; in COLD the pace generator stands (R67; log 1). -/
def idle (s : State) : State := if s.dev.st = .cold then s else advanceTo (s.time.hp + 1) s

/-- The half-period at which the timestamp first reaches `d` counts more than now (R50). -/
def hpOfTs (t : Time) (d : Nat) : Nat :=
  let need : Int := (d : Int) * 1000000000 - t.slewAcc
  let n := if need ≤ 0 then 0 else ceilDiv need.toNat (1000000000 + t.slew).toNat
  (t.hp / 2 + n) * 2

/-! ### Host memory (R42; log 4) -/

/-- Bytes written into host memory. -/
def hostWrite (a : Nat) (bs : List Byte) (s : State) : State :=
  { s with host := { s.host with mem := s.host.mem.writeN a bs } }

/-- A 64-bit word of the status block (R43). -/
def statusWord (off v : Nat) (s : State) : State := hostWrite (s.host.statusBlock.toNat + off) (toLE 8 v) s

/-- The copy of HST_STATUS with its timestamp (R43). -/
def statusCopy (s : State) : State :=
  hostWrite s.host.statusBlock.toNat (wordsBytes [s.hstStatus, s.now]) s

/-- A register write ignored under R32, R35 or the access rule: IGNORED_WRITES saturates (R33). -/
def ignoreWrite (s : State) : State :=
  statusCopy { s with dev := { s.dev with ignored := satAdd 0xFFFF s.dev.ignored 1 } }

/-- A 32-byte reply or event record (R41). -/
def recordWords (tag status code kind ring : Nat) (phase : Bool) (ctx hoop : Nat) (eff time detail : Word) : List Word :=
  [BitVec.ofNat 64 (tag + at_ 16 status + at_ 32 code + at_ 40 kind + at_ 42 ring + bitTo 47 phase + at_ 48 ctx
      + at_ 60 hoop), eff, time, detail]

/-- The parts of a packet that its replies echo. -/
structure Tagged where
  ring : Nat
  tag  : Nat
  op   : Nat
  ctx  : Nat
  hoop : Nat
  deriving DecidableEq, Repr

/-- A reply record written, then its tail copy (R41 to R43). -/
def writeReply (t : Tagged) (kind status : Nat) (eff detail : Word) (s : State) : State :=
  let r := s.ring t.ring
  let i := r.tail.toNat % r.records
  let phase := (r.tail.toNat / r.records) % 2 == 0
  s |> hostWrite (r.rrBase.toNat + 32 * i)
        (wordsBytes (recordWords t.tag status t.op kind t.ring phase t.ctx t.hoop eff s.now detail))
    |> updRing t.ring (fun r => { r with tail := r.tail + 1 })
    |> statusWord (0x48 + 16 * t.ring) (r.tail + 1).toNat

/-- The single reply of a packet (KIND 1); a status of refusal or failure counts in REJECTED (R34). -/
def replyOne (t : Tagged) (status : Nat) (eff detail : Word) (s : State) : State :=
  s |> writeReply t 1 status eff detail
    |> updRing t.ring fun r => if 0x10 ≤ status then { r with rejected := satAdd 0xFFFF r.rejected 1 } else r

/-- The immediate reply ST_ACCEPTED; a final reply is owed (R34, R39). -/
def replyAccept (t : Tagged) (detail : Word) (s : State) : State :=
  s |> writeReply t 0 stAccepted 0 detail |> updRing t.ring fun r => { r with outstanding := r.outstanding + 1 }

/-- The final reply of an accepted packet. -/
def replyFinal (t : Tagged) (status : Nat) (eff detail : Word) (s : State) : State :=
  s |> writeReply t 1 status eff detail |> updRing t.ring fun r => { r with outstanding := r.outstanding - 1 }

/-- The SQ head copy, after the immediate reply (R40, R43). -/
def headCopy (ring : Nat) (s : State) : State := statusWord (0x40 + 16 * ring) (s.ring ring).head.toNat s

/-- An event record, or HST_EVR_LOST with a full event ring (R41, R42). -/
def postEvent (code ctx hoop : Nat) (eff detail : Word) (s : State) : State :=
  let e := s.host.event
  if e.full then { s with host := { s.host with evrLost := satAdd 0xFFFFFFFF s.host.evrLost 1 } }
  else
    let i := e.tail.toNat % e.records
    let phase := (e.tail.toNat / e.records) % 2 == 0
    let s := hostWrite (e.base.toNat + 32 * i) (wordsBytes (recordWords 0 0 code 2 0 phase ctx hoop eff s.now detail)) s
    let s := { s with host := { s.host with event := { e with tail := e.tail + 1 } } }
    statusWord 0x10 (e.tail + 1).toNat s

/-! ### Fault reports (R313 to R317) -/

/-- A report with no item: what the raising rule names is set beside it. -/
def faultOf (half : Half) (kind index : Nat) (cls : FaultClass) : FaultRec :=
  { key := ⟨half, BitVec.ofNat 8 kind, BitVec.ofNat 8 index, cls⟩, detectOnly := false, rep := false, followers := 0,
    first := 0, last := 0, ctx := 0, hoop := 0, step := 0, pass := 0, logical := 0, physical := 31, d0 := 0, d1 := 0,
    st := 0, gen := 0, frame := 0 }

/-- The 64 bytes of a fault record (R313). -/
def FaultRec.bytes (r : FaultRec) (seq : Nat) : List Byte :=
  let w0 := classCode r.key.cls + at_ 8 (severity r.key.cls) + at_ 10 r.key.half.idx + bitTo 11 r.detectOnly
    + bitTo 12 r.rep + at_ 16 r.key.kind.toNat + at_ 24 r.key.index.toNat + at_ 32 r.followers
  let w3 := r.ctx + at_ 12 r.hoop + at_ 16 r.step + at_ 36 r.pass + at_ 44 r.logical + at_ 48 r.physical
  let w6 := seq + at_ 32 r.st + at_ 48 r.gen
  let body := wordsBytes [BitVec.ofNat 64 w0, r.first, r.last, BitVec.ofNat 64 w3, r.d0, r.d1, BitVec.ofNat 64 w6]
    ++ toLE 4 r.frame
  body ++ toLE 4 (crc32c body).toNat

/-- A record ready for writing: it takes a free buffer of the writer while the ring has room, else a place of the 64-entry
queue, else it is lost and counted (R317). -/
def queueRecord (r : FaultRec) (s : State) : State :=
  let h := r.key.half
  let u := s.half h
  if u.bufs.length < 2 ∧ !s.host.fault.full ∧ u.pendq.isEmpty then updHalf h (fun u => { u with bufs := u.bufs ++ [r] }) s
  else if u.pendq.length < 64 then updHalf h (fun u => { u with pendq := u.pendq ++ [r] }) s
  else updHalf h (fun u => { u with lost := satAdd 0xFFFFFFFF u.lost 1 }) s

/-- A coalescing entry of a half replaced or removed. -/
def setEntry (key : FaultKey) (c : Option Coalesce) : State → State :=
  updHalf key.half fun u =>
    let rest := u.table.filter fun e => e.key != key
    { u with table := match c with
        | some c => rest ++ [c]
        | none => rest }

/-- The open entry of a key, if any. -/
def findEntry (key : FaultKey) (s : State) : Option Coalesce := (s.half key.half).table.find? fun e => e.key == key

/-- The end of the first 8 µs of a key: its record is queued and the entry stays open for 1 ms (R316). -/
def coalesceExpire (c : Coalesce) (s : State) : State :=
  s |> queueRecord { c.record with followers := min 0xFFFF c.count }
    |> setEntry c.key (some { c with opened := c.opened + usHp 8, repeats := true, count := 0 })

/-- The end of a repeat interval: a further record with REPEAT 1 and a new interval, or the entry closes (R316). -/
def repeatExpire (c : Coalesce) (s : State) : State :=
  if c.count = 0 then setEntry c.key none s
  else
    s |> queueRecord { c.record with rep := true, followers := min 0xFFFF (c.count - 1) }
      |> setEntry c.key (some { c with opened := c.opened + usHp 1000, count := 0 })

/-- The intervals of a key that have ended by now, ended. -/
def settleKey (key : FaultKey) : Nat → State → State
  | 0, s => s
  | n + 1, s =>
    match findEntry key s with
    | none => s
    | some c =>
      if c.repeats then (if c.opened + usHp 1000 ≤ s.hp then settleKey key n (repeatExpire c s) else s)
      else if c.opened + usHp 8 ≤ s.hp then settleKey key n (coalesceExpire c s) else s

/-- A report gathered by the fireguard of its half (R316): counted, and coalesced under its key. -/
def gather (r : FaultRec) (s : State) : State :=
  let s := settleKey r.key 3 s
  let r := { r with first := s.now, last := s.now, st := s.dev.st.code }
  let s := bumpFg r.key.half 0 1 s
  match findEntry r.key s with
  | some c =>
    let rec_ := if c.repeats ∧ c.count = 0 then r else { c.record with last := s.now }
    let s := if c.repeats ∧ c.count = 0 then s else bumpFg r.key.half 2 1 s
    setEntry r.key (some { c with record := rec_, count := c.count + 1 }) s
  | none =>
    if (s.half r.key.half).table.length < 256 then setEntry r.key (some ⟨r.key, r, s.hp, false, 0⟩) s
    else updHalf r.key.half (fun u => { u with lost := satAdd 0xFFFFFFFF u.lost 1 }) s

/-! ### Device states and leadership (R311, R321) -/

/-- A change of state: STATE_CHANGE, then the status copy (R311). -/
def setDevState (st : DevState) (s : State) : State :=
  let old := s.dev.st
  { s with dev := { s.dev with st := st, fromBanked := if st == .quenched then old == .banked else s.dev.fromBanked } }
    |> postEvent 0x06 0 0 0 (BitVec.ofNat 64 (st.code + at_ 3 old.code))
    |> statusCopy

/-- Both halves agree on the leader, and it is in service. -/
def State.leaderAgreed (s : State) : Bool :=
  let l := s.half s.dev.leader
  l.claim && l.inService && !(s.half s.dev.leader.other).claim

/-- The transition of R311 that is due, if any. -/
def nextDevState (s : State) : Option DevState :=
  let bothOut := !s.west.inService && !s.east.inService
  let bothUp := s.west.inService && s.east.inService
  let mainOut := s.west.mainOut || s.east.mainOut
  match s.dev.st with
  | .cold | .kindling => none
  | .banked => if s.dev.dispute || bothOut then some .quenched else none
  | .drawing => if s.dev.dispute || bothOut then some .quenched else if !bothUp || mainOut then some .damped else none
  | .damped =>
    if s.dev.dispute || bothOut then some .quenched
    else if bothUp && s.leaderAgreed && !mainOut then some .drawing else none
  | .quenched => if s.dev.dispute || bothOut then none else some (if s.dev.fromBanked then .banked else .damped)

/-- The transitions of R311 that are due, taken. -/
def settleState : Nat → State → State
  | 0, s => s
  | n + 1, s =>
    match nextDevState s with
    | some st => settleState n (setDevState st s)
    | none => s

/-- Leadership passes to a half, with LEADER_CHANGE (R321). -/
def leadBy (h : Half) (s : State) : State :=
  let changed := s.dev.leader != h
  let s := updHalf h (fun u => { u with claim := true, claimCount := u.claimCount + (if changed then 1 else 0) }) s
  let s := updHalf h.other (fun u => { u with claim := false, claimCount := u.claimCount + (if changed then 1 else 0) }) s
  let s := { s with dev := { s.dev with leader := h } }
  if changed then s |> postEvent 0x07 0 0 0 (BitVec.ofNat 64 h.idx) |> statusCopy else s

/-- A half leaves service; its gate shuts and its heartbeat stops with it (R302, R303, R311). -/
def leaveService (h : Half) (s : State) : State :=
  s |> updHalf h (fun u => { u with inService := false, claim := false }) |> statusCopy |> settleState 3

/-- 60 minutes of timestamp (R312; one count is one PACECLK period, R50). -/
def hourCounts : Nat := 180000000000

/-- The automatic resets of a half within the last 60 minutes. -/
def State.recentResets (s : State) (h : Half) : List Word :=
  (s.half h).autoResets.filter fun t => decide ((s.now - t).toNat < hourCounts)

/-- A half is owed an automatic reset, unless it has had three within 60 minutes: then it stays out (R312). -/
def oweReset (h : Half) (s : State) : State :=
  if (s.recentResets h).length < 3 then updHalf h (fun u => { u with autoDue := true }) s else s

/-- A DANGEROUS fault latches in a half (R312); the other fireguard then owes it a reset. -/
def latch (h : Half) (cls : FaultClass) (s : State) : State :=
  s |> updHalf h (fun u => { u with danger := true, latchClass := if u.danger then u.latchClass else classCode cls })
    |> oweReset h
    |> leaveService h

/-- A fault report, and the latch of a DANGEROUS one (R312, R316). -/
def report (r : FaultRec) (s : State) : State :=
  let s := gather r s
  if severity r.key.cls = 2 then latch r.key.half r.key.cls s else s

/-! ### Recording (R358 to R363) -/

/-- The words of the sink's header (R359). -/
def Recorder.headWords (r : Recorder) : List Word :=
  let w0 := 0x55545243 + at_ 32 1 + bitTo 48 r.digests + bitTo 49 r.full + bitTo 50 r.ended
  [BitVec.ofNat 64 w0, r.header.getD 0 0, r.header.getD 1 0, r.header.getD 2 0, BitVec.ofNat 64 r.written,
   BitVec.ofNat 64 r.entries, BitVec.ofNat 64 (r.lost + at_ 32 (r.header.getD 3 0).toNat), 0]

/-- The sink's header written to host memory. -/
def writeSinkHead (s : State) : State := hostWrite s.rec_.sink.toNat (wordsBytes s.rec_.headWords) s

/-- The gating fields now. -/
def State.gate (s : State) : Gate :=
  ⟨s.now, s.rec_.fetches, s.rec_.ends, if s.rec_.mode == .record then some s.rec_.session else none⟩

/-- ENDED words of an entry header (R360). -/
def endedWords (t : Tab Nat) : List Word :=
  (List.range 4).map fun w => BitVec.ofNat 64
    ((List.range 4).foldl (fun a k => a + at_ (16 * k) (Tab.get 0 t (4 * w + k) % 65536)) 0)

/-- An entry's bytes (R360). -/
def entryBytesOf (kind : Nat) (digest : Bool) (seq : Nat) (g : Gate) (body : List Byte) : List Byte :=
  let b := padTo 64 body
  wordsBytes ([BitVec.ofNat 64 (kind + bitTo 8 digest + at_ 32 b.length), BitVec.ofNat 64 seq, g.time,
    BitVec.ofNat 64 (g.fetches % 2 ^ 32)] ++ endedWords g.ends) ++ b

/-- An entry placed in the sink if it fits. -/
def placeEntry (bs : List Byte) (s : State) : State :=
  let r := s.rec_
  let s := hostWrite (r.sink.toNat + 64 + r.written) bs s
  { s with rec_ := { r with written := r.written + bs.length, entries := r.entries + 1 } }

/-- The 4 MiB record buffer has room for an entry (R363): certainly while all that was recorded fits it together; else as fast as the
host link has emptied it. -/
def State.bufferTakes (s : State) (n : Nat) : Bool :=
  decide (s.rec_.written + n ≤ 0x400000) || Config.recordFits s.rec_.entries s.hp n

/-- An entry is lost (R363). -/
def loseEntry (s : State) : State := { s with rec_ := { s.rec_ with lost := satAdd 0xFFFFFFFF s.rec_.lost 1 } }

/-- An entry recorded (R361, R363): one that the record buffer has no room for is lost; refused by a full sink it is lost, FULL is set
and an END entry is written if it fits. -/
def recordEntryAt (g : Gate) (kind : Nat) (digest : Bool) (body : List Byte) (s : State) : State :=
  let r := s.rec_
  if r.mode != .record then s
  else
    let bs := entryBytesOf kind digest (r.entries + 1) g body
    if !s.bufferTakes bs.length then writeSinkHead (loseEntry s)
    else if !r.full ∧ 64 + r.written + bs.length ≤ r.bytes then writeSinkHead (placeEntry bs s)
    else
      let s := loseEntry { s with rec_ := { r with full := true } }
      let e := entryBytesOf 0x0F false (r.entries + 1) s.gate []
      if !r.full ∧ 64 + r.written + e.length ≤ r.bytes then
        let s := placeEntry e s
        writeSinkHead { s with rec_ := { s.rec_ with ended := true } }
      else writeSinkHead s

/-- An entry recorded with the gating fields of now. -/
def recordEntry (kind : Nat) (digest : Bool) (body : List Byte) (s : State) : State :=
  recordEntryAt s.gate kind digest body s

/-- A payload part, or its 64-byte digest part (R362). -/
def payloadPart (digest : Bool) (bs : List Byte) : List Byte :=
  if digest then (sha384 bs).take 32 ++ List.replicate 32 0 else bs

/-- A number as 64-bit words. -/
def w64 (n : Nat) : Word := BitVec.ofNat 64 n

end Sys2Proof.Machine
end

