-- ==== Sys2Proof/WellFormed.lean ====
section
/-! DEFINITION. Well-formed commands: operands that can arrive at the device in the shape the row says. -/
namespace Sys2Proof

open Sys2Proof.Machine in
/-- The words are one packet of the row's opcode: at least word 0, and as many words as its LENGTH says (R37, R45). -/
def packetWf (op : Nat) (pkt : List Word) : Bool :=
  match pkt with
  | [] => false
  | w :: _ => (parseHead w).opcode == op && (parseHead w).length == pkt.length

open Sys2Proof.Machine in
/-- The words are one packet of NOP, or of an opcode that R48 does not list (R46 step 1). -/
def nopWf (pkt : List Word) : Bool :=
  match pkt with
  | [] => false
  | w :: _ =>
    ((parseHead w).opcode == 0 || (opInfo (parseHead w).opcode).isNone) && (parseHead w).length == pkt.length

/-- A write request of a memory controller brings 64 bytes (R206). -/
def DramReq.wf (r : DramReq) : Bool := !r.write || r.data.length == 64

/-- The checks of a command's operands. -/
def Instr.wf : Instr → Bool
  | .nop _ p => nopWf p
  | .getStatus _ p => packetWf 0x01 p
  | .readCounters _ p => packetWf 0x02 p
  | .loadImage _ p => packetWf 0x10 p
  | .openOutputs _ p => packetWf 0x11 p
  | .closeOutputs _ p => packetWf 0x12 p
  | .resetHalf _ p => packetWf 0x13 p
  | .resetDevice _ p _ => packetWf 0x14 p
  | .setTime _ p => packetWf 0x15 p
  | .setRecordMode _ p _ => packetWf 0x16 p
  | .proposeProtection _ p _ => packetWf 0x20 p
  | .withdrawProposal _ p => packetWf 0x21 p
  | .setFrameRing _ p => packetWf 0x30 p
  | .commitRoutes _ p => packetWf 0x31 p
  | .startJob _ p => packetWf 0x40 p
  | .cancelJob _ p => packetWf 0x41 p
  | .knotSet _ p => packetWf 0x50 p
  | .knotRead _ p => packetWf 0x51 p
  | .copyIn _ p => packetWf 0x60 p
  | .copyOut _ p => packetWf 0x61 p
  | .invalidateTranslation _ p => packetWf 0x62 p
  | .bufferAlloc _ p => packetWf 0x63 p
  | .bufferFree _ p => packetWf 0x64 p
  | .commitTopology _ p _ => packetWf 0x70 p
  | .dramRequest _ rs _ _ => rs.all DramReq.wf
  | .selfRefreshEntry _ r => r.all DramReq.wf
  | .poll f | .confirm f | .refuse f | .nameLeader f => f.length == 32
  | .flitData _ f | .flitControl _ f | .flitIdentity _ f | .flitNak _ f | .flitIdle _ f => f.length == 256
  | .dramTrainingDone d _ => d.length == 32
  | .imageLoad _ | .copyDone .. | .invalidationComplete _ | .hstSqDoorbell .. | .ringEnable .. | .ringDisable ..
  | .overrunClear .. | .ringPageSetupWrite .. | .outputRingSetupWrite .. | .dbgBaseWrite _ | .fgSpeedClear _
  | .registerWrite .. | .statusBlockRefresh | .paceTick .. | .unpacedRelease _ | .argumentReadDone .. | .passGroupCommit ..
  | .passGroupAbandon .. | .transformCommit .. | .attendCommit .. | .appendDone .. | .transferDone .. | .resultHandover ..
  | .collectiveDone .. | .stepWatchdog .. | .knotWaitTimeout _ | .translationWalk .. | .damperRequest .. | .damperCutoff ..
  | .damperShed .. | .dramRefresh .. | .mr4Read .. | .selfRefreshExit _ | .frequencyChange _
  | .driftCheck _ | .zqCalibration _ | .patrolScrub .. | .phyLockLoss _ | .aphyPartnerDetected _ | .cameraDiscoveryDone ..
  | .aphyLockLoss _ | .frameStart .. | .csi2LongPacket .. | .embeddedData .. | .frameEnd .. | .lidarPacket ..
  | .frameComplete .. | .networkLinkDown _ | .lidarSilence .. | .intakeStall .. | .decoderEpochStart _ | .decodedPicture ..
  | .pilotDone .. | .pilotOverrun _ | .keyDecision .. | .pilotMissing .. | .recordCompose _ | .keyAnswerTimeout _
  | .holdRecord _ | .outputWriter _ | .heartbeatToggle _ | .weightDigestCheck _ | .halfReset _ | .halfResetRelease _
  | .halfRestart .. | .halfResetTimeout _ | .faultCoalesceExpiry _ | .faultRepeatExpiry _ | .faultRecordWrite
  | .retestDone .. | .fenceKnotSet .. | .staleResult .. | .lateSpeech _ | .claimExchange .. | .claimSilence _
  | .tallyBadFrame _ | .agreementTimeout | .ppsInEdge | .setTimeNoPps | .linkSignalDetected _ | .fecLock _ | .identitySend _
  | .flitCorrupt .. | .linkTimeout _ | .laneLockLoss _ | .waitExceeded .. | .replicaRoundStart _ | .replicaRoundTimeout _
  | .replayDeliver | .voltageFault .. | .clockFault .. | .powerLoop .. | .poresetAssert | .poresetRelease _
  | .bootPackageRead .. | .storesTested _ | .checkerInjectionsDone .. | .kindlingDone _ | .flashImageAutoload _
  | .lockstepMismatch _ | .pathFailed _ | .aphyLinkTrained .. | .networkLinkUp _ | .replicaDigestComputed .. => true

end Sys2Proof
end

