-- ==== Sys2Proof/Machine/Packets.lean ====
section
/-! DEFINITION. Fetching, examining and answering a ring packet (R36 to R46). -/
namespace Sys2Proof.Machine

/-- What a packet's replies echo. -/
def Tagged.of (ring : Nat) (h : Head) : Tagged := ⟨ring, h.tag, h.opcode, h.ctx, h.hoop⟩

/-- The device states in which rings are served: none in COLD and KINDLING, none in an undecided dispute (R322), none while the
flash image loads (R380). -/
def State.serves (s : State) : Bool :=
  match s.dev.st with
  | .cold | .kindling => false
  | .banked => !s.boot.flashDue
  | .drawing | .damped => true
  | .quenched => !s.dev.dispute

/-- Replies an opcode produces (R39, R48). -/
def repliesOf (op : Nat) : Nat :=
  match opInfo op with
  | some o => if o.two then 2 else 1
  | none => 1

/-- The queue of the hoop that a START_JOB names is full (R262). -/
def queueFull (h : Head) (s : State) : Bool := h.opcode == 0x40 && decide (255 ≤ (s.hoop h.hoop).queue.length)

/-- The packet at the device's head may be examined, the hoop queue apart (R36, R37, R39, R45 FENCE). -/
def ringReady (ring : Nat) (h : Head) (s : State) : Bool :=
  let r := s.ring ring
  s.serves && r.enable && !r.overrun && !r.held && decide (h.length ≤ (r.doorbell - r.head).toNat)
    && decide (r.rrUsed + repliesOf h.opcode ≤ r.records) && (!h.fence || r.outstanding == 0)

/-- The next ring in turn among the ready ones (R38): ring 0 on every second turn, else the rotation over 1 to 31. -/
def nextTurn (ready : Nat → Bool) (s : State) : Option Nat :=
  let rot := ((List.range 31).map fun i => (s.host.lastRing + i) % 31 + 1).find? ready
  if s.host.adminLast then (match rot with
    | some n => some n
    | none => if ready 0 then some 0 else none)
  else if ready 0 then some 0 else rot

/-- The ring and the words of a packet row. -/
def packetRow : Instr → Option (Nat × List Word)
  | .nop r p | .getStatus r p | .readCounters r p | .loadImage r p | .openOutputs r p | .closeOutputs r p | .resetHalf r p
  | .resetDevice r p _ | .setTime r p | .setRecordMode r p _ | .proposeProtection r p _ | .withdrawProposal r p
  | .setFrameRing r p | .commitRoutes r p | .startJob r p | .cancelJob r p | .knotSet r p | .knotRead r p | .copyIn r p
  | .copyOut r p | .invalidateTranslation r p | .bufferAlloc r p | .bufferFree r p | .commitTopology r p _ => some (r.toNat, p)
  | _ => none

/-- A ring is ready (R38) with the packet that waits for it first in the queue, if any. -/
def waitingReady (s : State) (n : Nat) : Bool :=
  match (s.pending.filterMap packetRow).find? fun p => p.1 == n with
  | some p => ringReady n (parseHead (p.2.getD 0 0)) s && !queueFull (parseHead (p.2.getD 0 0)) s
  | none => false

/-- It is the turn of a ready ring: of the ready rings whose packets wait, the rule of R38 serves this one (log 48). -/
def inTurn (ring : Nat) (s : State) : Bool := nextTurn (fun n => n == ring || waitingReady s n) s == some ring

/-- The packet is taken: head past it, FETCHED, OUTSTANDING elsewhere, the turn of R38, and the COMMAND entry of R361. -/
def fetch (ring : Nat) (h : Head) (pkt : List Word) (s : State) : State :=
  let s := updRing ring (fun r => { r with head := r.head + BitVec.ofNat 32 h.length, fetched := r.fetched + 1 }) s
  let s := { s with host := { s.host with adminLast := ring == 0, lastRing := if ring = 0 then s.host.lastRing else ring } }
  let s := if s.rec_.mode == .off then s else { s with rec_ := { s.rec_ with fetches := s.rec_.fetches + 1 } }
  recordEntry 0x01 false (wordsBytes (BitVec.ofNat 64 ring :: pkt)) s

/-- The hoop lies in a half that is under reset or out of service (R46 step 7). -/
def halfDown (hoop : Nat) (s : State) : Bool :=
  let u := s.half (s.hoopHome hoop)
  u.underReset || !u.inService

/-- Steps 1 to 8 of R46: the status of the first failing check. With IMAGE_VALID 0 step 5 takes every mask as empty, while step 6
reads the context table as it stands, also the one kept after a refused or mismatched D0 (DESIGN CHOICE, log 48). -/
def examine (ring : Nat) (h : Head) (pkt : List Word) (s : State) : Option Nat :=
  match opInfo h.opcode with
  | none => some stBadOpcode
  | some o =>
    if pkt.length < o.minWords ∨ o.maxWords < pkt.length then some stBadLength
    else if badReserved o h pkt then some stBadReserved
    else if o.admin ∧ ring ≠ 0 then some stNotPermitted
    else if !o.wide ∧ ring ≠ 0 ∧ !(s.dev.imageValid && (Entry.f (s.img.entry 7 ring) 0 15 0).testBit h.hoop) then
      some stNotPermitted
    else if !o.wide ∧ !(ctxValid (s.img.entry 6 h.ctx) && ctxHoop (s.img.entry 6 h.ctx) == h.hoop) then some stBadContext
    else if !o.wide ∧ halfDown h.hoop s then some stHalfDown
    else if !o.permits s.dev.st then some stBadState
    else none

/-- A packet's step: not fetched, or out of its turn, the state stays (a START_JOB held by a full queue counts QUEUE_STALLS,
R285); fetched and rejected, it gets its single reply; else `body` acts and answers. The head copy follows (R43). -/
def packetStep (ring : Nat) (pkt : List Word) (body : Tagged → State → State) (s : State) : State :=
  let h := parseHead (pkt.getD 0 0)
  if !ringReady ring h s then s
  else if queueFull h s then bumpDamp (s.hoopHome h.hoop) 7 1 s
  else if !inTurn ring s then s
  else
    let s := fetch ring h pkt s
    match examine ring h pkt s with
    | some st => headCopy ring (replyOne (Tagged.of ring h) st 0 0 s)
    | none => body (Tagged.of ring h) s

/-- A packet row: words that are no packet of the row are refused by name (log 2). -/
def packet (mn : String) (wf : Bool) (ring : Nat) (pkt : List Word) (body : Tagged → State → State) (s : State) :
    Host.Outcome State Fault Refusal :=
  if wf then .next (packetStep ring pkt body s) else .refused (.illFormed mn)

/-- The single reply and the head copy. -/
def answer (t : Tagged) (status : Nat) (eff detail : Word) (s : State) : State :=
  headCopy t.ring (replyOne t status eff detail s)

/-- The immediate reply ST_ACCEPTED and the head copy. -/
def accept (t : Tagged) (detail : Word) (s : State) : State := headCopy t.ring (replyAccept t detail s)

end Sys2Proof.Machine
end

