-- ==== Sys2Proof/Machine/Stores.lean ====
section
/-! DEFINITION. The physical address map (R177 to R180, R201, R202), fireboxes, windows, translation and its caches (R181 to R186). -/
namespace Sys2Proof.Machine

/-! ### The physical map -/

/-- Data bytes of a channel of a density code: seven eighths of its raw bytes (R200). -/
def dataBytes (density : Nat) : Nat := if density = 0 then 0 else 7 * 2 ^ (30 + density - 1 - 3)

/-- Where a physical address lies (R177). -/
inductive Loc where
  | dram (channel offset : Nat)
  | shared (offset : Nat)
  | host (bus : Nat)
  | fire (hearth offset : Nat)
  deriving DecidableEq, Repr

/-- The valid channel set that covers a DRAM address (R201). -/
def State.setOf (s : State) (a : Nat) : Option Nat :=
  (List.range 32).find? fun i =>
    let e := s.img.entry 16 i
    setValid e && decide (setBase e ≤ a) && decide (a < setBase e + setCount e * dataBytes (s.chan (setFirst e)).density)

/-- Channels of a set. -/
def State.setChans (s : State) (i : Nat) : List Nat :=
  let e := s.img.entry 16 i
  (List.range (setCount e)).map (setFirst e + ·)

/-- The set a channel belongs to. -/
def State.setOfChan (s : State) (c : Nat) : Option Nat :=
  (List.range 32).find? fun i => setValid (s.img.entry 16 i) && (s.setChans i).contains c

/-- Channel and channel data offset of an address of a set (R202). -/
def dramMap (e : Entry) (a : Nat) : Nat × Nat :=
  let o := a - setBase e
  let g := o / 512
  (setFirst e + g % setCount e, g / setCount e * 512 + o % 512)

/-- Row index, slot, bank and row of a channel data offset (R202). -/
def dramRow (co : Nat) : Nat × Nat × Nat × Nat :=
  let bi := co / 64
  let r := bi / 28
  (r, bi % 28, r % 16, r / 16)

/-- The host bus address that a physical address reaches through a host window (R180). -/
def State.hostBus (s : State) (a : Nat) : Option Nat :=
  if a < 0x8000000000 ∨ 0xC000000000 ≤ a then none
  else
    let e := s.img.entry 8 ((a - 0x8000000000) / 2 ^ 34)
    let off := (a - 0x8000000000) % 2 ^ 34
    if off < hostWinSize e then some (hostWinBase e + off) else none

/-- The location of a physical address, or the fault of an access to it (R177, R202, R219). -/
def State.locate (s : State) (a : Nat) : Except FaultClass Loc :=
  if a < 0x2000000000 then
    match s.setOf a with
    | none => .error .translationFault
    | some i =>
      if (s.setChans i).any fun c => (s.chan c).st == .lost then .error .dramChannelLost
      else
        let (c, co) := dramMap (s.img.entry 16 i) a
        .ok (.dram c co)
  else if 0xE000000000 ≤ a ∧ a < 0xE000000000 + 18 * 0x800000 then
    .ok (.fire ((a - 0xE000000000) / 0x800000) ((a - 0xE000000000) % 0x800000))
  else if 0xF000000000 ≤ a ∧ a < 0xF004000000 then .ok (.shared (a - 0xF000000000))
  else
    match s.hostBus a with
    | some b => .ok (.host b)
    | none => .error .translationFault

/-- Key of a DRAM data byte: channel and channel data offset. -/
def dramKey (c co : Nat) : Nat := c * 2 ^ 32 + co

/-! ### Fireboxes (R178) -/

/-- The frame address of a firebox offset, through the page map. -/
def Hearth.frameAddr (x : Hearth) (off : Nat) : Nat :=
  Tab.get (off / 4096) x.pageMap (off / 4096) * 4096 + off % 4096

/-- One byte of a firebox. -/
def Hearth.byte (x : Hearth) (off : Nat) : Byte := x.frames.read (x.frameAddr off)

/-- Bytes of a firebox. -/
def Hearth.bytes (x : Hearth) (off n : Nat) : List Byte := (List.range n).map fun i => x.byte (off + i)

/-- Bytes written to a firebox. -/
def Hearth.write (x : Hearth) : Nat → List Byte → Hearth
  | _, [] => x
  | off, b :: t => Hearth.write { x with frames := x.frames.write (x.frameAddr off) b } (off + 1) t

/-- Pages `first` to `first + n - 1` of a firebox made unspecified under a salt. -/
def Hearth.scramble (x : Hearth) (first n salt : Nat) : Hearth :=
  (List.range n).foldl (fun x i =>
    { x with frames := x.frames.setPage (Tab.get (first + i) x.pageMap (first + i)) salt }) x

/-- Entries of two page ranges exchanged, entry by entry (R92). -/
def Hearth.swapPages (x : Hearth) (a b n : Nat) : Hearth :=
  (List.range n).foldl (fun x i =>
    let fa := Tab.get (a + i) x.pageMap (a + i)
    let fb := Tab.get (b + i) x.pageMap (b + i)
    { x with pageMap := (x.pageMap.set (a + i) fb).set (b + i) fa }) x

/-! ### Physical reads and writes -/

/-- One byte at a location; host memory answers a free value that `salt` names (log 4). -/
def State.locByte (s : State) (salt : Nat) : Loc → Byte
  | .dram c co => s.mem.dram.read (dramKey c co)
  | .shared o => s.mem.shared.read o
  | .host b => Config.freeByte salt b
  | .fire p o => (s.hearth p).byte o

/-- Bytes of a physical range in address order, or the first fault. -/
def State.physBytes (s : State) (salt a n : Nat) : Except FaultClass (List Byte) :=
  (List.range n).mapM fun i => (s.locate (a + i)).map (s.locByte salt)

/-- Number of the 64-bit word of a DRAM byte, under which its check byte lies (R200). -/
def checkKey (c co : Nat) : Nat := dramKey c (co / 8)

/-- The check byte of each word of a block written anew (R211). -/
def setChecks (c co n : Nat) (m : Mem) : Mem :=
  (List.range n).foldl (fun m i =>
    { m with check := m.check.write (checkKey c (co + 8 * i)) (Config.checkByte (ofLE (m.dram.readN (dramKey c ((co + 8 * i) / 8 * 8)) 8))) }) m

/-- Data bytes written in a channel, and the check bytes of the words that they touch. -/
def putDram (c co : Nat) (bs : List Byte) (s : State) : State :=
  { s with mem := setChecks c co (ceilDiv (co % 8 + bs.length) 8) { s.mem with dram := s.mem.dram.writeN (dramKey c co) bs } }

/-- Bytes 0 to 2,047 of a channel's row as R200 lays it out: data, check bytes, unused end. -/
def State.rowByte (s : State) (c r i : Nat) : Byte :=
  if i < 1792 then s.mem.dram.read (dramKey c (1792 * r + i))
  else if i < 2016 then s.mem.check.read (dramKey c (224 * r + (i - 1792)))
  else Config.freeByte (s.chan c).rowEnds (32 * r + (i - 2016))

/-- A byte written at a location; fireboxes are not writable this way (R178). -/
def putLoc (l : Loc) (b : Byte) (s : State) : State :=
  match l with
  | .dram c co => putDram c co [b] s
  | .shared o => { s with mem := { s.mem with shared := s.mem.shared.write o b } }
  | .host a => { s with host := { s.host with mem := s.host.mem.write a b } }
  | .fire _ _ => s

/-- A byte string written to a physical range in increasing address order, up to the first fault. -/
def physWrite : Nat → List Byte → State → Except FaultClass Unit × State
  | _, [], s => (.ok (), s)
  | a, b :: t, s =>
    match s.locate a with
    | .error c => (.error c, s)
    | .ok l => physWrite (a + 1) t (putLoc l b s)

/-! ### Accesses as the controllers count them (R207 to R209, R221) -/

/-- A row access of a data block: a hit, or an activate that leaves the row open (R209). -/
def touchBlock (c block : Nat) (s : State) : State :=
  let (_, _, b, row) := dramRow (64 * block)
  if Tab.get 0 (s.chan c).openRows b = row + 1 then bumpChan c 2 1 s
  else bumpChan c 3 1 (updChan c (fun x => { x with openRows := x.openRows.set b (row + 1) }) s)

/-- A block that a unit's own access reads or writes: it wakes a sleeping channel, and its idle time starts again (R214, R215). -/
def accessBlock (write : Bool) (e : Nat × Nat) (s : State) : State :=
  let s := updChan e.1 (fun x => { x with st := if x.st == .selfRefresh then .active else x.st,
                                          emptyAt := if x.queue.isEmpty then s.hp else x.emptyAt }) s
  bumpChan e.1 (if write then 1 else 0) 1 (touchBlock e.1 e.2 s)

/-- The data blocks of DRAM that a physical range touches: channel and block. -/
def State.blocksOf (s : State) (a n : Nat) : List (Nat × Nat) :=
  if n = 0 then []
  else (List.range ((a + n - 1) / 64 - a / 64 + 1)).filterMap fun i =>
    match s.locate ((a / 64 + i) * 64) with
    | .ok (.dram c co) => some (c, co / 64)
    | _ => none

/-- A unit's access to a physical range counted, one request for each block (log 22). -/
def countAccess (write : Bool) (a n : Nat) (s : State) : State := forEach (s.blocksOf a n) (accessBlock write) s

/-! ### Windows (R259) -/

/-- A physical address lies in a window of the hoop that grants the access. -/
def State.windowGrants (s : State) (hoop a : Nat) (write : Bool) : Bool :=
  (List.range 16).any fun w =>
    let e := s.img.entry 2 (16 * hoop + w)
    (if write then winWrite e else winRead e) && decide (winBase e ≤ a) && decide (a < winBase e + winSize e)

/-! ### The walk (R181 to R183) -/

/-- An entry's fields that a walk checks. -/
def pteAddr (e : Word) : Nat := fld e 39 8 * 2 ^ 8

/-- One entry read by the walker: 8 bytes inside a window of the hoop that grants reads. Through a host window it is what the host
holds there at this walk (log 4). -/
def State.walkRead (s : State) (hoop a : Nat) : Option Word :=
  if s.windowGrants hoop a false then
    match s.physBytes s.freeCtr a 8 with
    | .ok bs => some (BitVec.ofNat 64 (ofLE bs))
    | .error _ => none
  else none

/-- A leaf of a walk: log2 of the page size and the leaf's cache entry, or none. -/
def leafOf (ctx va bits : Nat) (e : Word) : Option Leaf :=
  if pteAddr e % 2 ^ bits ≠ 0 then none
  else some ⟨ctx, va / 2 ^ bits * 2 ^ bits, bits, pteAddr e, bitAt e 2, bitAt e 3⟩

/-- A table entry points to the next table: its alignment, and READ and WRITE reserved (R182). -/
def tableOf (align : Nat) (e : Word) : Option Nat :=
  if fld e 3 2 ≠ 0 ∨ pteAddr e % align ≠ 0 then none else some (pteAddr e)

/-- VALID 1 and reserved bits zero. -/
def pteOk (e : Word) : Bool := bitAt e 0 && fld e 7 4 == 0 && fld e 63 40 == 0

/-- The walk of a virtual address in a context: its leaf, or none for a translation fault (R183), and the addresses of the entries
that it read. -/
def State.walkPath (s : State) (ctx va : Nat) : Option Leaf × List Nat :=
  let c := s.img.entry 6 ctx
  let rd := s.walkRead (ctxHoop c)
  let a1 := ctxRoot c + 8 * (va / 2 ^ 39 % 512)
  if !ctxValid c then (none, [])
  else match (do let e ← rd a1; guard (pteOk e && !bitAt e 1); tableOf 4096 e) with
    | none => (none, [a1])
    | some t2 =>
      let a2 := t2 + 8 * (va / 2 ^ 30 % 512)
      match (do let e ← rd a2; guard (pteOk e && !bitAt e 1); tableOf 4096 e) with
      | none => (none, [a1, a2])
      | some t3 =>
        let a3 := t3 + 8 * (va / 2 ^ 21 % 512)
        match (do let e ← rd a3; guard (pteOk e); some e) with
        | none => (none, [a1, a2, a3])
        | some e3 =>
          if bitAt e3 1 then (leafOf ctx va 21 e3, [a1, a2, a3])
          else match tableOf 256 e3 with
            | none => (none, [a1, a2, a3])
            | some t4 =>
              let a4 := t4 + 8 * (va / 2 ^ 16 % 32)
              ((do let e ← rd a4; guard (pteOk e && bitAt e 1); leafOf ctx va 16 e), [a1, a2, a3, a4])

/-- The leaf of a walk (R183). -/
def State.walk (s : State) (ctx va : Nat) : Option Leaf := (s.walkPath ctx va).1

/-- The addresses of the table entries that a walk reads. -/
def State.walkReads (s : State) (ctx va : Nat) : List Nat := (s.walkPath ctx va).2

/-- The physical address of a virtual address under a leaf, if the leaf and a window grant the access. -/
def State.grant (s : State) (l : Leaf) (va : Nat) (write : Bool) : Option Nat :=
  let pa := l.pbase + va % 2 ^ l.bits
  if (if write then l.write else l.read) && s.windowGrants (ctxHoop (s.img.entry 6 l.ctx)) pa write then some pa else none

/-! ### Caches (R185) -/

/-- Who makes an access: a unit with a cache, or a unit of a half that walks each time. -/
inductive Reader where
  | unit (u : CacheUnit)
  | walker (h : Half)
  deriving DecidableEq, Repr

/-- The half whose counters an access moves (R198). -/
def State.readerHalf (s : State) : Reader → Half
  | .unit (.hearth p) => halfOfPhys p.toNat
  | .unit _ => s.dev.leader
  | .walker h => h

/-- A unit's cache. -/
def State.cache (s : State) : CacheUnit → List Leaf
  | .hearth p => (s.hearth p.toNat).cache
  | .port n => Tab.get [] s.mem.portCache n.toNat
  | .copyEngine => s.mem.copyCache

/-- Entries a cache holds (R185). -/
def cacheSize : CacheUnit → Nat
  | .hearth _ => 1024
  | _ => 256

/-- A unit's cache replaced. -/
def setCache (u : CacheUnit) (c : List Leaf) (s : State) : State :=
  match u with
  | .hearth p => updHearth p.toNat (fun x => { x with cache := c }) s
  | .port n => { s with mem := { s.mem with portCache := s.mem.portCache.set n.toNat c } }
  | .copyEngine => { s with mem := { s.mem with copyCache := c } }

/-- The entry of a cache for a virtual address. -/
def findLeaf (c : List Leaf) (ctx va : Nat) : Option Leaf :=
  c.find? fun l => l.ctx == ctx && decide (l.vbase ≤ va) && decide (va < l.vbase + 2 ^ l.bits)

/-- A leaf placed in a unit's cache; in a full cache it replaces an entry that a free value picks (log 13). -/
def cacheInsert (u : CacheUnit) (l : Leaf) (s : State) : State :=
  let c := s.cache u
  if c.length < cacheSize u then setCache u (c ++ [l]) s
  else
    let (k, s) := fresh s
    setCache u (c.set (Config.freePick k % cacheSize u) l) s

/-- The table reads of a walk counted where they lie, and the walk itself (R198, R221). -/
def countWalk (r : Reader) (ctx va : Nat) (s : State) : State :=
  forEach (s.walkReads ctx va) (fun a => countAccess false a 8) (bumpXlat (s.readerHalf r) 1 1 (fresh s).2)

/-- A walk ended: counted, and on success its leaf kept. -/
def walkFor (r : Reader) (ctx va : Nat) (write : Bool) (s : State) : Option Nat × State :=
  let h := s.readerHalf r
  let found := s.walk ctx va
  let s := countWalk r ctx va s
  match found with
  | none => (none, bumpXlat h 2 1 s)
  | some l =>
    match s.grant l va write with
    | none => (none, bumpXlat h 2 1 s)
    | some pa =>
      match r with
      | .unit u => (some pa, cacheInsert u l s)
      | .walker _ => (some pa, s)

/-- A virtual address translated for an access (R181 to R185); none is a translation fault. -/
def translate (r : Reader) (ctx va : Nat) (write : Bool) (s : State) : Option Nat × State :=
  match r with
  | .walker _ => walkFor r ctx va write s
  | .unit u =>
    match findLeaf (s.cache u) ctx va with
    | some l =>
      match s.grant l va write with
      | some pa => (some pa, s)
      | none => (none, bumpXlat (s.readerHalf r) 2 1 s)
    | none => walkFor r ctx va write (bumpXlat (s.readerHalf r) 0 1 s)

/-- The pieces of a virtual range inside single 64 KiB pages; an empty range has none. -/
def pieces (va n : Nat) : List (Nat × Nat) :=
  if n = 0 then []
  else (List.range ((n - 1 + va % 65536) / 65536 + 1)).map fun i =>
    let a := if i = 0 then va else (va / 65536 + i) * 65536
    let e := min (va + n) ((va / 65536 + i + 1) * 65536)
    (a % 2 ^ 48, e - a)

/-- An access that faults at its physical address under R177 counts as a translation fault (R198). -/
def noteUnmapped (r : Reader) (c : FaultClass) (s : State) : State :=
  if c = .translationFault then bumpXlat (s.readerHalf r) 2 1 s else s

/-- Bytes of a virtual range, or the first fault. -/
def readPieces (r : Reader) (ctx : Nat) : List (Nat × Nat) → State → Except FaultClass (List Byte) × State
  | [], s => (.ok [], s)
  | (va, n) :: t, s =>
    match translate r ctx va false s with
    | (none, s) => (.error .translationFault, s)
    | (some pa, s) =>
      let (k, s) := fresh s
      match s.physBytes k pa n with
      | .error c => (.error c, noteUnmapped r c s)
      | .ok bs =>
        match readPieces r ctx t (countAccess false pa n s) with
        | (.ok rest, s) => (.ok (bs ++ rest), s)
        | (.error c, s) => (.error c, s)

/-- A virtual range read by a unit in a context. -/
def vread (r : Reader) (ctx va n : Nat) (s : State) : Except FaultClass (List Byte) × State :=
  readPieces r ctx (pieces va n) s

/-- Bytes written piece by piece, up to the first fault. -/
def writePieces (r : Reader) (ctx : Nat) : List (Nat × Nat) → List Byte → State → Except FaultClass Unit × State
  | [], _, s => (.ok (), s)
  | (va, n) :: t, bs, s =>
    match translate r ctx va true s with
    | (none, s) => (.error .translationFault, s)
    | (some pa, s) =>
      match physWrite pa (bs.take n) (countAccess true pa n s) with
      | (.error c, s) => (.error c, noteUnmapped r c s)
      | (.ok (), s) => writePieces r ctx t (bs.drop n) s

/-- A byte string written by a unit in a context. -/
def vwrite (r : Reader) (ctx va : Nat) (bs : List Byte) (s : State) : Except FaultClass Unit × State :=
  writePieces r ctx (pieces va bs.length) bs s

/-- Every piece of a range translated before any byte moves (R192). -/
def vprobe (r : Reader) (ctx : Nat) (write : Bool) : List (Nat × Nat) → State → Bool × State
  | [], s => (true, s)
  | (va, _) :: t, s =>
    match translate r ctx va write s with
    | (none, s) => (false, s)
    | (some _, s) => vprobe r ctx write t s

/-- The physical pieces of a virtual range; none when one does not translate. -/
def transPieces (r : Reader) (ctx : Nat) (write : Bool) : List (Nat × Nat) → State → Option (List (Nat × Nat)) × State
  | [], s => (some [], s)
  | (va, n) :: t, s =>
    match translate r ctx va write s with
    | (none, s) => (none, s)
    | (some pa, s) =>
      match transPieces r ctx write t s with
      | (some q, s) => (some ((pa, n) :: q), s)
      | (none, s) => (none, s)

/-- The fault that an access to some physical piece would meet. -/
def State.pieceFault (s : State) (ps : List (Nat × Nat)) : Option FaultClass :=
  ps.findSome? fun p => (List.range p.2).findSome? fun i =>
    match s.locate (p.1 + i) with
    | .error c => some c
    | .ok _ => none

/-- A byte string written whole or not at all: every piece translates and stands before a byte moves (R170, R189). -/
def vwriteWhole (r : Reader) (ctx va : Nat) (bs : List Byte) (s : State) : Except FaultClass Unit × State :=
  match transPieces r ctx true (pieces va bs.length) s with
  | (none, s) => (.error .translationFault, s)
  | (some ps, s) =>
    match s.pieceFault ps with
    | some c => (.error c, noteUnmapped r c s)
    | none => vwrite r ctx va bs s

/-! ### Invalidation and emptying of caches (R186, R280, R379) -/

/-- Every cache filtered. -/
def filterCaches (hearths : List Nat) (keep : Leaf → Bool) (s : State) : State :=
  let s := forEach hearths (fun p => updHearth p fun x => { x with cache := x.cache.filter keep }) s
  { s with mem := { s.mem with portCache := s.mem.portCache.map (fun e => (e.1, e.2.filter keep)),
                               copyCache := s.mem.copyCache.filter keep } }

/-- The entries of a context that overlap a range leave the caches that an invalidation covers (R186). -/
def invalidate (h : Half) (ctx base pages : Nat) : State → State :=
  filterCaches (hearthsOf h) fun l =>
    !(l.ctx == ctx && decide (l.vbase < base + pages * 65536) && decide (base < l.vbase + 2 ^ l.bits))

/-- Ring and tag of the copies under way whose translated range an invalidation's overlaps: they used a removed entry (R186). -/
def State.copiesOver (s : State) (ctx base pages : Nat) : List (Nat × Nat) :=
  (s.img.copies.filter fun c => c.ctx == ctx && decide (c.dev < base + pages * 65536) && decide (base < c.dev + c.bytes)).map
    fun c => (c.ring, c.tag)

/-- An invalidation whose entries have left the caches is in flight. -/
def queueInval (ctx base pages : Nat) (by_ : InvalBy) (s : State) : State :=
  { s with img := { s.img with invals := s.img.invals ++ [⟨ctx, base, pages, by_, s.copiesOver ctx base pages⟩] } }

/-- Every translation cache emptied (R379). -/
def emptyCaches (s : State) : State := filterCaches (List.range 18) (fun _ => false) s

end Sys2Proof.Machine
end

