-- ==== Sys2Proof/Machine/Records.lean ====
section
/-! DEFINITION. The output writer: frame records read back, result, hold and fall-back records (R234, R295 to R300). -/
namespace Sys2Proof.Machine

/-! ### Frame records (R234, R242, R243) -/

/-- STATE of a frame record. -/
def frState (r : List Byte) : Nat := fld (wordAt r 0) 1 0

/-- FLAGS. -/
def frFlags (r : List Byte) : Nat := fld (wordAt r 0) 18 8

/-- COUNTER. -/
def frCounter (r : List Byte) : Nat := fld (wordAt r 0) 63 32

/-- SEQ. -/
def frSeq (r : List Byte) : Word := wordAt r 8

/-- SENSOR_TIME. -/
def frTime (r : List Byte) : Word := wordAt r 16

/-- RECORD_CRC is right. -/
def frCrcOk (r : List Byte) : Bool := fld (wordAt r 56) 63 32 == (crc32c (slice r 0 60)).toNat

/-- The RESYNC flag alone, or no flag (R243); `path` allows PATH_DOWN too (R295). -/
def frClean (path : Bool) (r : List Byte) : Bool :=
  frState r == 2 && frCrcOk r
    && (frFlags r &&& (0x7FF - 0x200 - (if path then 0x100 else 0))) == 0

/-- The source words of a record: SOURCE_COUNTER with SOURCE_SEQ, and SOURCE_TIME (R297). -/
def sourceOf (r : List Byte) : List Word :=
  [BitVec.ofNat 64 (frCounter r + at_ 32 (fld (frSeq r) 31 0)), frTime r]

/-! ### Causes (R296) -/

def caNone : Nat := 0
def caHarmless : Nat := 1
def caDetectOnly : Nat := 2
def caCorrupt : Nat := 3
def caJobFault : Nat := 4
def caMainOut : Nat := 5
def caPilotMissing : Nat := 6
def caPilotMismatch : Nat := 7
def caCompareFail : Nat := 8
def caOneKey : Nat := 9
def caKeyMismatch : Nat := 10
def caSinglePilot : Nat := 11

/-- The lowest cause that applies, of those listed in rising order. -/
def lowestCause (l : List (Bool × Nat)) : Nat := ((l.find? (·.1)).map (·.2)).getD caNone

/-! ### Composing and writing (R297, R298) -/

/-- A record to be written: validity, trust, keys, cause, stream and its number, source words, payload, digest, violations. -/
structure OutRec where
  validity : Nat
  trust    : Nat
  keys     : Nat
  cause    : Nat
  stream   : Nat
  seq      : Nat
  source   : List Word
  payload  : List Byte
  digest   : Word
  violations : Nat
  deriving DecidableEq, Repr

/-- The 64 bytes of a record (R297); `gap`: it ends an episode of a full ring (R298). -/
def OutRec.bytes (r : OutRec) (gap : Bool) (lost : Nat) (bus : Nat) (time : Word) : List Byte :=
  let w0 := r.validity + at_ 2 r.trust + bitTo 4 (gap || lost != 0) + at_ 8 r.stream + at_ 16 r.keys + at_ 24 r.cause
    + at_ 32 (r.seq % 2 ^ 32)
  let n := r.payload.length
  let w5 := n + at_ 32 (if n = 0 then 0 else (crc32c r.payload).toNat)
  let body := wordsBytes [BitVec.ofNat 64 w0, r.source.getD 0 0, r.source.getD 1 0, time,
    BitVec.ofNat 64 (if n = 0 then 0 else bus), BitVec.ofNat 64 w5, r.digest]
    ++ toLE 4 (r.violations + at_ 16 (min 255 lost))
  body ++ toLE 4 (crc32c body).toNat

/-- The half whose copy of the output writer writes (R300). -/
def State.writerHalf (s : State) : Half := s.out.writer.getD s.dev.leader

/-- The payload slot of a record: its host bus address (R290). -/
def State.slotBus (s : State) (main : Bool) (r : OutRec) : Nat :=
  let e := s.img.entry 20 r.stream
  let size := if main then strMaxBytes e else progOutBytes (s.img.entry 18 (strPilot e))
  let base := if main then strPay e else strFb e
  (s.hostBus (base + (if strSlots e = 0 then 0 else r.seq % strSlots e) * size)).getD 0

/-- A composed record counted in block 0x92 (R325). -/
def countRecord (r : OutRec) (s : State) : State :=
  let s := bumpOut (if r.validity = 0 then 0 else if r.validity = 1 then 1 else 2) 1 s
  if r.trust = 0 then bumpOut 3 1 s else s

/-- A record's ring, and its tail copy's place in the status block (R43). -/
def recRing (main : Bool) : OutRing × Nat := if main then (.result, 0x20) else (.fallback, 0x28)

/-- An output page. -/
def State.outPage (s : State) : OutRing → OutPage
  | .event => s.host.event
  | .fault => s.host.fault
  | .result => s.host.result
  | .fallback => s.host.fallback

/-- An output page replaced. -/
def setOutPage (r : OutRing) (o : OutPage) (s : State) : State :=
  match r with
  | .event => { s with host := { s.host with event := o } }
  | .fault => { s with host := { s.host with fault := o } }
  | .result => { s with host := { s.host with result := o } }
  | .fallback => { s with host := { s.host with fallback := o } }

/-- 64 bytes appended to an output ring, then its tail copy (R42, R43). -/
def pushRecord (ring : OutRing) (copyOff : Nat) (bs : List Byte) (s : State) : State :=
  let o := s.outPage ring
  let s := hostWrite (o.base.toNat + 64 * (o.tail.toNat % o.records)) bs s
  let s := setOutPage ring { o with tail := o.tail + 1 } s
  statusWord copyOff (o.tail + 1).toNat s

/-- A record finds its ring full: lost and counted, one OUTPUT_RING_FULL for each episode (R298). -/
def loseRecord (main : Bool) (r : OutRec) (s : State) : State :=
  let s := updStream r.stream (fun x => if main then { x with lostMain := x.lostMain + 1 }
    else { x with lostFb := x.lostFb + 1 }) s
  let s := bumpOut (if main then 6 else 7) 1 s
  let open_ := if main then s.out.fullMain else s.out.fullFb
  if open_ then s
  else
    let s := if main then { s with out := { s.out with fullMain := true } }
      else { s with out := { s.out with fullFb := true } }
    report { faultOf s.writerHalf ukWriter s.writerHalf.idx .outputRingFull with d0 := w64 r.stream } s

/-- A composed record written: payload, record, tail copy, RESULT entry; or lost in a full ring (R297, R298). The record that ends an
episode carries GAP 1, of whatever stream it is, and so does the next record of each stream that lost some. A VALID record renews the
stream's source fields. -/
def emitRecord (main : Bool) (r : OutRec) (s : State) : State :=
  let s := countRecord r s
  let s := updStream r.stream (fun x => { x with lastAt := s.hp, source := if r.validity = 0 then r.source else x.source }) s
  let (ring, off) := recRing main
  if (s.outPage ring).full then loseRecord main r s
  else
    let st := s.stream r.stream
    let lost := if main then st.lostMain else st.lostFb
    let bus := s.slotBus main r
    let bs := r.bytes (if main then s.out.fullMain else s.out.fullFb) lost bus s.now
    let s := if r.payload.isEmpty then s else hostWrite bus r.payload s
    let s := pushRecord ring off bs s
    let s := updStream r.stream (fun x => if main then { x with lostMain := 0 } else { x with lostFb := 0 }) s
    let s := if main then { s with out := { s.out with fullMain := false } }
      else { s with out := { s.out with fullFb := false } }
    recordEntry 0x0A false bs s

/-- The next STREAM_SEQ of a stream, taken (R297). -/
def takeSeq (main : Bool) (n : Nat) (s : State) : Nat × State :=
  let x := s.stream n
  if main then (x.mainSeq + 1, updStream n (fun x => { x with mainSeq := x.mainSeq + 1 }) s)
  else (x.fbSeq + 1, updStream n (fun x => { x with fbSeq := x.fbSeq + 1 }) s)

/-- A HOLD record of a stream on the result ring, the source fields those of its last VALID record (R297, R299, R301). -/
def holdRecord (n cause : Nat) (s : State) : State :=
  let (q, s) := takeSeq true n s
  emitRecord true ⟨1, 0, 0, cause, n, q, (s.stream n).source, [], 0, 0⟩ s

/-! ### Fall-back records (R288, R295 to R297) -/

/-- The streams judged against a pilot program. -/
def State.progStreams (s : State) (prog : Nat) : List Nat :=
  (List.range 64).filter fun n => s.dev.imageValid && strValid (s.img.entry 20 n) && strPilot (s.img.entry 20 n) == prog

/-- Causes that concern a fall-back record before its pilots are asked. -/
def State.fbCauses (s : State) (n : Nat) (frame : List Byte) : List (Bool × Nat) :=
  [(s.harmless, caHarmless), (safDetectOnly (s.img.entry 24 0) (strHoop (s.img.entry 20 n)), caDetectOnly),
   (!frClean true frame, caCorrupt)]

/-- The records of a replaced run: HOLD on the fall-back ring, cause PILOT_MISSING unless a lower one applies (R288). -/
def fallbackHolds (prog : Nat) (frame : List Byte) (s : State) : State :=
  forEach (s.progStreams prog) (fun n s =>
    let (q, s) := takeSeq false n s
    emitRecord false ⟨1, 0, 0, lowestCause (s.fbCauses n frame ++ [(true, caPilotMissing)]), n, q, (s.stream n).source, [], 0,
      0⟩ s) s

/-- The records of a finished run: `trust` is 2 agreed, 1 from one pilot, 0 otherwise; the payload is the pilot output (R295). -/
def fallbackRecords (prog : Nat) (frame : List Byte) (trust : Nat) (output : List Byte) (digest : Word) (s : State) : State :=
  forEach (s.progStreams prog) (fun n s =>
    let causes := s.fbCauses n frame
    let t := if causes.any (·.1) then 0 else trust
    let cause := if t = 2 then caNone else lowestCause (causes ++ [(true, caSinglePilot)])
    let (q, s) := takeSeq false n s
    emitRecord false ⟨2, t, 0, cause, n, q, sourceOf frame, output, digest, 0⟩ s) s

end Sys2Proof.Machine
end

