-- ==== Sys2Proof/Machine/Jobs.lean ====
section
/-! DEFINITION. Jobs: queues and admission (R262), release (R58, R59, R69 to R72), posts (R63), faults and ends (R60, R75, R299). -/
namespace Sys2Proof.Machine

/-! ### The pricking of a job -/

/-- Body offset of a pricking of the image in force. -/
def State.prickOff (s : State) (number : Nat) : Option Nat :=
  findPrick (s.img.tbl 17) number (Tab.get 0 s.img.counts 17) 0

/-- Header of a pricking; all zero when the image holds none of that number. -/
def State.prick (s : State) (number : Nat) : Entry :=
  match s.prickOff number with
  | some o => unitAt (s.img.tbl 17) o
  | none => []

/-- Step `n` of a pricking. -/
def State.stepAt (s : State) (number n : Nat) : Entry :=
  match s.prickOff number with
  | some o => unitAt (s.img.tbl 17) (o + 64 + 64 * n)
  | none => []

/-- Unit `i` of a pricking's descriptor table (R410). -/
def State.descUnit (s : State) (number i : Nat) : Entry :=
  match s.prickOff number with
  | some o => unitAt (s.img.tbl 17) (o + prkDescOff (unitAt (s.img.tbl 17) o) + 64 * i)
  | none => []

/-- The word at byte `off` of a pricking's descriptor table: pass entries are 32 bytes (R88). -/
def State.descWords (s : State) (number i byteOff n : Nat) : Entry :=
  match s.prickOff number with
  | some o =>
    let b := o + prkDescOff (unitAt (s.img.tbl 17) o) + 64 * i + byteOff
    (List.range n).map fun k => (s.img.tbl 17).word (b + 8 * k)
  | none => []

/-- W of a step: WCET in ticks, rounded up (R67). -/
def ticksOf (tickHp wcet : Nat) : Nat := ceilDiv wcet tickHp

/-- The positions (0 to 7) that a step names. -/
def stepPositions (e : Entry) : List Nat := maskBits 8 (stepHearths e)

/-- The parts of a step that end one by one: a position for each hearth, one part for the half's single units, none for WAIT
and END. -/
def stepParts (e : Entry) : List Nat :=
  let k := stepKind e
  if k = kPass ∨ k = kAttend ∨ k = kTransform ∨ k = kTransfer then stepPositions e
  else if k = kInvalidate ∨ k = kResult ∨ k = kCollective then [0] else []

/-- The units of R412 that parts of a step use: 2i the compute unit of position i, 2i + 1 its transfer engine, 16 the
invalidation unit, 17 the handover unit, 18 the link layer. -/
def unitsOf (kind : Nat) (parts : List Nat) : List Nat :=
  if kind = kPass ∨ kind = kTransform then parts.map (2 * ·)
  else if kind = kAttend then parts.map (2 * ·) ++ parts.map (2 * · + 1)
  else if kind = kTransfer then parts.map (2 * · + 1)
  else if kind = kInvalidate then [16]
  else if kind = kResult then [17]
  else if kind = kCollective then [18]
  else []

/-! ### Waits, slots, eligibility (R58, R62, R69) -/

/-- A wait with threshold `t` has reached it at value `v` (R62). -/
def reached (v t : BitVec 32) : Bool := decide ((v - t).toNat < 2 ^ 31)

/-- Every enabled wait of a step has reached its threshold. -/
def State.waitsReached (s : State) (e : Entry) (args : List Word) : Bool :=
  [0, 1].all fun i => !waitEn e i
    || reached (s.knot (waitKnot e i)) (BitVec.ofNat 32 (withArg args (waitArg e i) (waitIdx e i) (waitThresh e i)))

/-- Ticks that remain of a hoop's current slot at a schedule count; 0 outside a slot (R257). -/
def slotLeft (h : Entry) (count : Nat) : Nat :=
  if count < hoopOffset h ∨ hoopPeriod h = 0 then 0
  else
    let p := (count - hoopOffset h) % hoopPeriod h
    hoopLength h - p

/-- Units that a released step holds: each until its own part ends (R58); a TRANSFORM step's compute units until the whole step
completes (R140). -/
def heldUnits (e : Entry) (r : Released) : List Nat :=
  unitsOf (stepKind e) (if stepKind e = kTransform then stepParts e else r.open_)

/-- Units that a job's released steps still hold. -/
def State.busyUnits (s : State) (j : Job) : List Nat :=
  j.steps.flatMap fun r => heldUnits (s.stepAt j.q.pricking r.step) r

/-- The next step of a hoop's job is eligible (R58); `paced` adds the slot condition of R69. -/
def State.eligible (s : State) (hoop : Nat) (j : Job) (paced : Bool) : Bool :=
  let e := s.stepAt j.q.pricking j.next
  let busy := s.busyUnits j
  decide (j.next < prkSteps (s.prick j.q.pricking)) && s.waitsReached e j.args && (!stepSerial e || j.steps.isEmpty)
    && (unitsOf (stepKind e) (stepParts e)).all (fun u => !busy.contains u)
    && (!paced || stepWcet e == 0
        || decide (ticksOf s.time.tickHp (stepWcet e) ≤ slotLeft (s.hoopEntry hoop) s.time.schedule))

/-! ### Job updates -/

/-- A hoop's job changed. -/
def updJob (hoop : Nat) (f : Job → Job) : State → State := updHoop hoop fun u => { u with job := u.job.map f }

/-- The RESULT steps of a pricking from step `n` on. -/
def State.resultSteps (s : State) (number n : Nat) : List Nat :=
  ((List.range (prkSteps (s.prick number))).drop n).filter fun i => stepKind (s.stepAt number i) == kResult

/-- Frame records that a RESULT descriptor names, read without a cache (R289); an unreadable record answers []. -/
def readFrames (h : Half) (ctx : Nat) (d : Entry) (args : List Word) : List Nat → State → List (List Byte) × State
  | [], s => ([], s)
  | k :: t, s =>
    let r := vread (.walker h) ctx (fld (args.getD (rsFarg d k) 0) 47 0) 64 s
    let rest := readFrames h ctx d args t r.2
    (r.1.toOption.getD [] :: rest.1, rest.2)

/-- The HOLD record of one unreleased RESULT step (R299). -/
def holdForStep (hoop : Nat) (q : QJob) (args : Option (List Word)) (n : Nat) (s : State) : State :=
  let d := s.descUnit q.pricking (stepDesc (s.stepAt q.pricking n))
  let (frames, s) := match args with
    | some a => readFrames (s.hoopHome hoop) q.ctx d a (List.range (rsFrames d)) s
    | none => ([], s)
  let cause := lowestCause [(s.harmless, caHarmless), (safDetectOnly (s.img.entry 24 0) hoop, caDetectOnly),
    (frames.any fun f => !frClean false f, caCorrupt), (true, caJobFault)]
  holdRecord (rsStream d) cause s

/-- HOLD records of the RESULT steps that a job did not release (R299). -/
def jobHolds (hoop : Nat) (q : QJob) (args : Option (List Word)) (next : Nat) (s : State) : State :=
  forEach (s.resultSteps q.pricking next) (holdForStep hoop q args) s

/-- A status that R299 covers. -/
def holdsAfter (st : Nat) : Bool := st != stJobDone && st != stBreach && st != stCancelled

/-- The final reply of a START_JOB, with its charge; JOB_END entry, ENDED count, counters and virtual time (R77, R262, R263,
R285, R361). -/
def finalReply (hoop : Nat) (q : QJob) (status eff charge : Nat) (s : State) : State :=
  let h := s.hoopHome hoop
  let shares := ctxShares (s.img.entry 6 q.ctx)
  let v := (Tab.get 0 s.seq.vtime q.ctx).toNat + (if shares = 0 then 0 else charge * 2 ^ 20 / shares)
  let s := { s with seq := { s.seq with vtime := s.seq.vtime.set q.ctx (BitVec.ofNat 64 v) } }
  let s := if status = stJobDone then bumpSeq h 1 1 s else if status = stJobFaulted then bumpSeq h 2 1 s
    else if status = stCancelled then bumpSeq h 3 1 s else s
  let s := bumpDamp h 6 charge s
  let s := if s.rec_.mode == .off then s else { s with rec_ := { s.rec_ with ends := bump s.rec_.ends hoop 1 } }
  let s := recordEntry 0x09 false (wordsBytes [BitVec.ofNat 64 (hoop + at_ 4 q.ring + at_ 16 q.tag + at_ 48 status),
    BitVec.ofNat 64 eff, BitVec.ofNat 64 charge]) s
  replyFinal ⟨q.ring, q.tag, 0x40, q.ctx, hoop⟩ status (w64 eff) (w64 charge) s

/-- Handovers of a job that still await their record learn how it ended (R293). -/
def sealHands (hoop : Nat) (q : QJob) (status : Nat) (s : State) : State :=
  { s with out := { s.out with hands := s.out.hands.map fun x =>
      if x.hoop = hoop ∧ x.ring = q.ring ∧ x.tag = q.tag ∧ x.ended.isNone then { x with ended := some (status == stJobDone) }
      else x } }

/-- Handovers of a hoop's running job learn of its PACE_FAULT (R72, R293). -/
def lateHands (hoop : Nat) (s : State) : State :=
  { s with out := { s.out with hands := s.out.hands.map fun x =>
      if x.hoop = hoop ∧ x.ended.isNone then { x with late := true } else x } }

/-- A job ends before or after its release: its HOLD records, then its final reply (R299). -/
def closeJob (hoop : Nat) (q : QJob) (args : Option (List Word)) (next status eff charge : Nat) (s : State) : State :=
  let s := sealHands hoop q status (if holdsAfter status then jobHolds hoop q args next s else s)
  finalReply hoop q status eff charge s

/-- The arguments of a job, if it has read them. -/
def Job.argsRead (j : Job) : Option (List Word) := if j.st = .reading then none else some j.args

/-! ### Admission (R60, R262, R264, R318, R319, R348, R367) -/

/-- A hoop may take a job: its half serves, no position is retested or fenced, no replica round holds it. -/
def State.mayAdmit (s : State) (hoop : Nat) : Bool :=
  let u := s.hoop hoop
  u.job.isNone && !u.queue.isEmpty && u.roundHold.isEmpty && !halfDown hoop s
    && (s.hoopPositions hoop).all fun l => (s.place l).retest.isNone && !(s.place l).fence

/-- The least virtual time among contexts, the lower context on a tie. -/
def leastV (s : State) : List Nat → Option Nat
  | [] => none
  | c :: t =>
    match leastV s t with
    | none => some c
    | some d =>
      let vc := (Tab.get 0 s.seq.vtime c).toNat
      let vd := (Tab.get 0 s.seq.vtime d).toNat
      if vc < vd ∨ (vc = vd ∧ c ≤ d) then some c else some d

/-- The job that the rule of shares admits (R262). -/
def sharePick (s : State) (queue : List QJob) : Option QJob := do
  let c ← leastV s (queue.map (·.ctx))
  queue.find? fun q => q.ctx == c

/-- The next ADMIT entry of a hoop (R367). -/
def nextAdmit (s : State) (hoop : Nat) : Option (List Byte) := s.rec_.admits.find? fun b => fld (wordAt b 0) 3 0 == hoop

/-- The job admitted next: by shares, or in replay the one that the record names, once it is queued. -/
def pickJob (s : State) (hoop : Nat) : Option QJob :=
  let queue := (s.hoop hoop).queue
  if s.rec_.mode == .replay then do
    let b ← nextAdmit s hoop
    let w := wordAt b 0
    queue.find? fun q => q.ring == fld w 8 4 && q.tag == fld w 31 16 && q.ctx == fld w 43 32
  else sharePick s queue

/-- A job taken from its queue and admitted: the hoop's entry renewed (R264), ADMIT recorded or consumed, the vacancy check of
R60, then the argument read or READY. -/
def admitJob (hoop : Nat) (q : QJob) (s : State) : State :=
  let s := { s with img := { s.img with heldHoops := s.img.heldHoops.set hoop [] } }
  let h := s.hoopHome hoop
  let s := updHoop hoop (fun u => { u with queue := u.queue.erase q }) s
  let s := if s.rec_.mode == .replay then
      (match nextAdmit s hoop with
       | some b => { s with rec_ := { s.rec_ with admits := s.rec_.admits.erase b } }
       | none => s)
    else recordEntry 0x05 false (wordsBytes [BitVec.ofNat 64 (hoop + at_ 4 q.ring + at_ 16 q.tag + at_ 32 q.ctx)]) s
  let s := bumpDamp h 5 1 s
  if (s.hoopPositions hoop).any fun l => (s.place l).vacant then closeJob hoop q none 0 stNoHearth 0 0 s
  else
    let ticks := (s.half h).ticks
    let st := if prkArgWords (s.prick q.pricking) = 0 then JobSt.ready else .reading
    let j : Job := { q := q, st := st, args := [], admitted := ticks, t0 := 0, lastTick := 0, next := 0, steps := [],
                     slips := 0, late := false, charge := 0, breached := (s.hoop hoop).breached, fault := none }
    updHoop hoop (fun u => { u with job := some j }) s

/-- An idle hoop admits a job; one that finds a vacant position ends, and the next is taken. -/
def admitUpTo (hoop : Nat) : Nat → State → State
  | 0, s => s
  | n + 1, s =>
    if !s.mayAdmit hoop then s
    else match pickJob s hoop with
      | none => s
      | some q => admitUpTo hoop n (admitJob hoop q s)

/-- A hoop that has become IDLE, or whose hold has ended, admits. -/
def tryAdmit (hoop : Nat) (s : State) : State := admitUpTo hoop ((s.hoop hoop).queue.length + 1) s

/-- A job joins its hoop's queue (R262): a context whose queued count goes from 0 to 1 has its V raised. -/
def enqueue (hoop : Nat) (q : QJob) (s : State) : State :=
  let queue := (s.hoop hoop).queue
  let others := queue.map (·.ctx)
  let s := if others.contains q.ctx then s
    else match leastV s others with
      | none => s
      | some c =>
        let v := Tab.get 0 s.seq.vtime c
        if (Tab.get 0 s.seq.vtime q.ctx).toNat < v.toNat then
          { s with seq := { s.seq with vtime := s.seq.vtime.set q.ctx v } } else s
  tryAdmit hoop (updHoop hoop (fun u => { u with queue := u.queue ++ [q] }) s)

/-! ### Ends of steps and jobs (R63, R73, R75) -/

/-- A replica round of entry `i` is due: its hoop has released EVERY steps once more than rounds have begun (R348). -/
def State.roundDue (s : State) (i : Nat) : Bool :=
  let e := s.img.entry 25 i
  s.dev.imageValid && repValid e && repEvery e != 0
    && decide (Tab.get 0 s.link.roundNo i < (s.hoop (repHoop e)).steps / repEvery e)

/-- At the end of a job, the replica rounds that are due hold the hoop (R348). -/
def holdRounds (hoop : Nat) (s : State) : State :=
  let due := (List.range 16).filter fun i => repHoop (s.img.entry 25 i) == hoop && s.roundDue i
  updHoop hoop (fun u => { u with roundHold := u.roundHold ++ due.filter fun i => !u.roundHold.contains i }) s

/-- The admitted job of a hoop ends and the hoop admits the next. -/
def endJob (hoop status eff : Nat) (s : State) : State :=
  match (s.hoop hoop).job with
  | none => s
  | some j =>
    let s := closeJob hoop j.q j.argsRead j.next status eff j.charge s
    tryAdmit hoop (holdRounds hoop (updHoop hoop (fun u => { u with job := none }) s))

/-- A job whose released steps have all ended: done after END, or faulted while ENDING; ST_GUARANTEE_BREACH in place of
ST_JOB_DONE (R274). -/
def settleJob (hoop : Nat) (s : State) : State :=
  match (s.hoop hoop).job with
  | none => s
  | some j =>
    if !j.steps.isEmpty then s
    else match j.st with
      | .running =>
        if j.next = prkSteps (s.prick j.q.pricking) then
          endJob hoop (if j.breached then stBreach else stJobDone) (j.next - 1) s
        else s
      | .ending => endJob hoop stJobFaulted (j.fault.getD 0) s
      | .reading | .ready | .wedged => s

/-- One post of a step applied (R57, R62). -/
def applyPost (e : Entry) (args : List Word) (i : Nat) (s : State) : State :=
  if !postEn e i then s
  else
    let v := withArg args (postArg e i) (postIdx e i) (postValue e i)
    if postAdd e i then addKnot (postKnot e i) v s else setKnot (postKnot e i) v s

/-- A released step has ended whole: its posts apply unless it faulted, stands above a faulted step, or its job is WEDGED (R63,
R73, R75). -/
def stepEnd (hoop n : Nat) (faulted : Bool) (s : State) : State :=
  match (s.hoop hoop).job with
  | none => s
  | some j =>
    let e := s.stepAt j.q.pricking n
    let posts := !faulted && j.st != .wedged && (match j.fault with
      | some f => decide (n < f)
      | none => true)
    let s := updJob hoop (fun j => { j with steps := j.steps.filter fun r => r.step != n }) s
    let s := if posts then applyPost e j.args 1 (applyPost e j.args 0 s) else s
    settleJob hoop s

/-- The released step `n` of a hoop whose part at `pos` has not ended. -/
def State.openPart (s : State) (hoop n pos : Nat) : Option (Job × Released) := do
  let j ← (s.hoop hoop).job
  let r ← j.steps.find? fun r => r.step == n && r.open_.contains pos
  some (j, r)

/-- A released step changed. -/
def updStep (hoop n : Nat) (f : Released → Released) : State → State :=
  updJob hoop fun j => { j with steps := j.steps.map fun r => if r.step = n then f r else r }

/-- The part of a step at `pos` ends (R63); the last part ends the step. -/
def partEnd (hoop n pos : Nat) (s : State) : State :=
  let s := updStep hoop n (fun r => { r with open_ := r.open_.filter (· != pos) }) s
  match (s.hoop hoop).job.bind fun j => j.steps.find? fun r => r.step == n with
  | some r => if r.open_.isEmpty then stepEnd hoop n r.faulted s else s
  | none => s

/-- A step of a job faults: the job goes ENDING and keeps the lowest faulted step (R75). -/
def noteFault (hoop n : Nat) : State → State :=
  updJob hoop fun j =>
    { j with st := if j.st = .wedged then .wedged else .ending,
             fault := some (match j.fault with
               | some f => min f n
               | none => n) }

/-- The part of a step at `pos` ends in a fault (R75). -/
def partFault (hoop n pos : Nat) (s : State) : State :=
  partEnd hoop n pos (noteFault hoop n (updStep hoop n (fun r => { r with faulted := true }) s))

/-- Hearth-rounds added to a job's charge (R263). -/
def addCharge (hoop k : Nat) : State → State := updJob hoop fun j => { j with charge := j.charge + k }

/-! ### Release (R59, R67, R70 to R72) -/

/-- A slip of a paced release recorded, and a PACE_FAULT where it goes beyond a limit (R71, R72). With SLIP_LIMIT 0 the first slip
is a fault and a later one only beyond SLIP_LATE, as R72 counts them; R53's words could also make each one a fault
(DESIGN CHOICE, log 48). -/
def noteSlip (hoop : Nat) (j : Job) (n late : Nat) (s : State) : State :=
  let h := s.hoopHome hoop
  let p := s.prick j.q.pricking
  let base := faultOf h ukSequencer h.idx .paceSlip
  let s := updHalf h (fun u => { u with slipCount := satAdd 0xFFFF u.slipCount 1 }) s
  let s := bumpSeq h 6 1 s
  let s := report { base with ctx := j.q.ctx, hoop := hoop, step := n, d0 := w64 late } s
  let s := updJob hoop (fun j => { j with slips := j.slips + 1 }) s
  if j.slips = prkSlipLimit p ∨ prkSlipLate p < late then
    let f := faultOf h ukSequencer h.idx .paceFault
    lateHands hoop <| updJob hoop (fun j => { j with late := true }) (report { f with ctx := j.q.ctx, hoop := hoop, step := n } s)
  else s

/-- An INVALIDATE step removes its entries at release; completion is a command of its own (R187). -/
def beginInvalidate (hoop : Nat) (j : Job) (n : Nat) (s : State) : State :=
  let e := s.stepAt j.q.pricking n
  if stepKind e ≠ kInvalidate then s
  else
    let d := s.descUnit j.q.pricking (stepDesc e)
    queueInval j.q.ctx (ivBase d) (ivPages d) (.step hoop n) (invalidate (s.hoopHome hoop) j.q.ctx (ivBase d) (ivPages d) s)

/-- The next step of a hoop's job is released. -/
def releaseOne (hoop : Nat) (j : Job) (s : State) : State :=
  let h := s.hoopHome hoop
  let tick := (s.half h).ticks
  let n := j.next
  let e := s.stepAt j.q.pricking n
  let t0 := if n = 0 then tick else j.t0
  let r : Released := ⟨n, tick, s.hp, stepParts e, false, []⟩
  let s := updJob hoop (fun j => { j with st := .running, t0 := t0, lastTick := tick, next := n + 1,
                                          steps := j.steps ++ [r] }) s
  let s := if n = 0 then bumpSeq h 0 1 s else s
  let s := bumpSeq h 7 1 s
  let s := updHalf h (fun u => { u with released := u.released + 1 }) s
  let s := updHoop hoop (fun u => { u with steps := u.steps + 1 }) s
  let s := if hoopPaced (s.hoopEntry hoop) ∧ t0 + stepLatest e < tick then noteSlip hoop j n (tick - t0 - stepLatest e) s
    else s
  beginInvalidate hoop j n s

/-- Up to `n` eligible steps released in order (R59). -/
def releaseLoop (hoop : Nat) (paced : Bool) : Nat → State → State
  | 0, s => s
  | n + 1, s =>
    match (s.hoop hoop).job with
    | none => s
    | some j =>
      if (j.st = .ready ∨ j.st = .running) ∧ s.eligible hoop j paced then
        releaseLoop hoop paced n (releaseOne hoop j s)
      else s

/-- The steps just released that have no part to end, WAIT and END, complete (R55). -/
def endEmpty (hoop : Nat) (s : State) : State :=
  match (s.hoop hoop).job with
  | none => s
  | some j => forEach ((j.steps.filter fun r => r.open_.isEmpty).map (·.step)) (fun n => stepEnd hoop n false) s

/-- A step kind whose parts run on hearths. -/
def onHearths (kind : Nat) : Bool := kind == kPass || kind == kAttend || kind == kTransform || kind == kTransfer

/-- Open parts of a hoop's job on a position that a hearth has left, faulted (R99, R318; log 21). -/
def dropParts (hoop pos : Nat) (s : State) : State :=
  match (s.hoop hoop).job with
  | none => s
  | some j => forEach ((j.steps.filter fun r =>
      r.open_.contains pos && onHearths (stepKind (s.stepAt j.q.pricking r.step))).map (·.step))
      (fun n => partFault hoop n pos) s

/-- Parts released to a vacant position fault (R15; log 21). -/
def dropVacant (hoop : Nat) (s : State) : State :=
  forEach ((s.hoopPositions hoop).filter fun l => (s.place l).vacant) (fun l => dropParts hoop (l % 8)) s

/-- A hoop's releases at one tick, or in one handshake of an unpaced hoop. -/
def releaseHoop (hoop : Nat) (paced : Bool) (s : State) : State := dropVacant hoop (endEmpty hoop (releaseLoop hoop paced 8 s))

/-- Every job of a half ends with a status: running, READY and queued (R73, R386). -/
def endHalfJobs (h : Half) (status : Nat) (s : State) : State :=
  forEach ((List.range 16).filter fun i => hoopValid (s.hoopEntry i) && s.hoopHome i == h) (fun hoop s =>
    let u := s.hoop hoop
    let s := match u.job with
      | some j => if j.st = .wedged then s
          else updHoop hoop (fun u => { u with job := none })
            (closeJob hoop j.q j.argsRead j.next status 0 j.charge s)
      | none => s
    let s := forEach u.queue (fun q => closeJob hoop q none 0 status 0 0) s
    updHoop hoop (fun u => { u with queue := [] }) s) s

end Sys2Proof.Machine
end

