-- ==== Sys2Proof/Machine/Shed.lean ====
section
/-! DEFINITION. What a damper does when its live capacity falls (R273, R274). -/
namespace Sys2Proof.Machine

/-- A damper that exists: 24 in each half. -/
def damperExists (g : Nat) : Bool := decide (g < 64) && decide (g % 32 < 24)

/-- The admitted slot table of a damper (R266). -/
def Image.slots (i : Image) (g : Nat) : List Nat := (List.range 256).map fun s => i.byte 3 (256 * g + s) % 32

/-! ### Shedding (R273, R274) -/

/-- Owners in the order of R273: SYSTEM, hoops by the CRIT in force (R264) descending and lower first, INTAKE. -/
def State.shedOrder (s : State) : List Nat :=
  let hoops := [3, 2, 1, 0].flatMap fun c =>
    ((List.range 16).filter fun h => hoopCrit (s.hoopEntry h) == c).map (· + 1)
  18 :: hoops ++ [17]

/-- need(o); with C' = 0 a number that no table can meet stands for infinity. -/
def needOf (slots cap : Nat) : Nat := if slots = 0 then 0 else if cap = 0 then 2 ^ 32 - 1 else ceilDiv (slots * 256) cap

/-- need and n of each owner, in order. -/
def shedShares (table : List Nat) (cap : Nat) : List Nat → Nat → List (Nat × Nat × Nat)
  | [], _ => []
  | o :: t, left =>
    let need := needOf (table.filter (· == o)).length cap
    let n := min need left
    (o, need, n) :: shedShares table cap t (left - n)

/-- The smooth weighted rotation: 256 slots, ties to the lower OWNER. -/
def placeSlots (n : Nat → Nat) : Nat → List Int → List Nat
  | 0, _ => []
  | fuel + 1, credit =>
    let c := (List.range 19).map fun o => credit.getD o 0 + (n o : Int)
    let w := (List.range 19).foldl (fun best o => if c.getD best 0 < c.getD o 0 then o else best) 0
    w :: placeSlots n fuel (c.set w (c.getD w 0 - 256))

/-- The effective table of a live capacity, with every owner's need and n. -/
def shedTable (order table : List Nat) (cap : Nat) : List Nat × List (Nat × Nat × Nat) :=
  let shares := shedShares table cap order 256
  let used := shares.foldl (fun a x => a + x.2.2) 0
  let n (o : Nat) : Nat := if o = 0 then 256 - used else ((shares.find? fun x => x.1 == o).map (·.2.2)).getD 0
  (placeSlots n 256 (List.replicate 19 0), shares)

/-- A breach of an owner: recorded; the hoop's jobs, now and until the half's reset, end with ST_GUARANTEE_BREACH (R274). The
intake's flag stands under the number of its hoop table entry. -/
def breach (g : Nat) (x : Nat × Nat × Nat) (s : State) : State :=
  let (o, need, n) := x
  let h := halfOfDamper g
  let hoop := if o ≤ 16 then o - 1 else 16 + h.idx
  let s := bumpDamp h 4 1 s
  let s := updHoop hoop (fun u => { u with breached := true, job := u.job.map fun j => { j with breached := true } }) s
  report { faultOf h ukDamper g .guaranteeBreach with hoop := if o ≤ 16 then hoop else 0, d0 := w64 o,
                                                      d1 := w64 (need + at_ 32 n) } s

/-- A damper whose live capacity is reduced takes the effective table of the setup in force (R273). SYSTEM's breach concerns no
hoop and is recorded alone. -/
def reshed (g : Nat) (s : State) : State :=
  let x := s.damper g
  if 256 ≤ x.capacity then updDamper g (fun x => { x with table := none }) s
  else
    let (t, shares) := shedTable s.shedOrder (s.img.slots g) x.capacity
    let s := updDamper g (fun x => { x with table := some t }) s
    forEach (shares.filter fun x => decide (x.2.2 < x.2.1)) (fun x s =>
      if x.1 = 18 then
        report { faultOf (halfOfDamper g) ukDamper g .guaranteeBreach with d0 := 18, d1 := w64 (x.2.1 + at_ 32 x.2.2) }
          (bumpDamp (halfOfDamper g) 4 1 s)
      else breach g x s) s

/-- The live capacity of a damper falls: counted, and its effective table built (R273). -/
def lowerCapacity (g cap : Nat) (s : State) : State :=
  if !(damperExists g && decide (cap < (s.damper g).capacity)) then s
  else reshed g (bumpDamp (halfOfDamper g) 3 1 (updDamper g (fun x => { x with capacity := cap }) s))

/-- The global number of the damper of a channel (R265). -/
def damperOfChan (c : Nat) : Nat := 32 * (c / 16) + c % 16

end Sys2Proof.Machine
end

