-- ==== Sys2Proof/Machine/Copies.lean ====
section
/-! DEFINITION. Host copies, invalidations, translation walks and buffer pools (R183, R185 to R187, R192 to R197), and the ECC fault
of an access (R211, R219). -/
namespace Sys2Proof.Machine

/-! ### Uncorrectable errors and lost channels (R211, R219) -/

/-- The channels that a loss of channel `c` concerns: its set, or itself in no set. -/
def State.setMates (s : State) (c : Nat) : List Nat :=
  match s.setOfChan c with
  | some i => s.setChans i
  | none => [c]

/-- The answer of a request that meets a LOST channel (R219). -/
def lostAnswer (r : DramReq) (no : Nat) : Served := ⟨r.source, r.write, no, .fault .dramChannelLost⟩

/-- The requests that a channel holds fault with DRAM_CHANNEL_LOST, waiting handshakes too (R219). -/
def loseQueue (c : Nat) (s : State) : State :=
  updChan c (fun x => { x with queue := [], stretched := [], done := [], emptyAt := s.hp, replies := x.replies ++ x.done
      ++ (x.queue.map fun q => lostAnswer q.req q.no) ++ x.stretched.map fun r => lostAnswer r x.arrived }) s

/-- A channel becomes LOST: its set's requests fault, one record names the channel and its set, and the capacity of the set's
dampers falls to 0 (R219, R273). -/
def loseChannel (c : Nat) (s : State) : State :=
  if (s.chan c).st = .lost then s
  else
    let s := updChan c (fun x => { x with st := .lost }) s
    let s := forEach (s.setMates c) (fun d => loseQueue d) s
    let s := report { faultOf (halfOfChan c) ukChannel c .dramChannelLost with d0 := w64 ((s.setOfChan c).getD 31) } s
    forEach (s.setMates c) (fun d => lowerCapacity (damperOfChan d) 0) s

/-- An access faulted with DRAM_UNCORRECTABLE at a channel: counted, and the fourth within 1 ms loses the channel (R219). -/
def dramUncorrectable (c : Nat) (s : State) : State :=
  let s := bumpChan c 7 1 s
  let recent := ((s.chan c).badTimes.filter fun t => s.hp < t + usHp 1000) ++ [s.hp]
  let s := updChan c (fun x => { x with badTimes := recent }) s
  let s := report (faultOf (halfOfChan c) ukChannel c .dramUncorrectable) s
  if 4 ≤ recent.length then loseChannel c s else s

/-- The slice of a shared-store offset: 4 × half + slice (R314, R265). -/
def sliceOf (off : Nat) : Nat := off / 0x2000000 * 4 + off % 0x2000000 / 0x800000

/-- An uncorrectable error at a physical address, reported by the unit that holds it. -/
def eccFaultAt (a : Nat) (s : State) : State :=
  match s.locate a with
  | .ok (.dram c _) => dramUncorrectable c s
  | .ok (.shared o) =>
    report (faultOf (Half.sel (o / 0x2000000)) ukSlice (sliceOf o) .storeUncorrectable) s
  | _ => s

/-- A corrected error of a read at a physical address, counted where DRAM holds it (R211). -/
def eccFixedAt (a : Nat) (s : State) : State :=
  match s.locate a with
  | .ok (.dram c _) => bumpChan c 6 1 s
  | _ => s

/-- What an ECC error of a read at a virtual address leaves at the unit that holds the bytes (R211, R219). -/
def accessEcc (r : Reader) (ctx va : Nat) (ecc : Ecc) (s : State) : State :=
  match ecc, (translate r ctx va false s).1 with
  | .uncorrectable, some pa => eccFaultAt pa s
  | .corrected, some pa => eccFixedAt pa s
  | _, _ => s

/-! ### Copies (R192) -/

/-- Bytes in flight at a fault, unspecified (R189): as many as a free value says, after the acknowledged ones. -/
def inFlight (rest : Nat) (s : State) : List Byte × State :=
  let (k, s) := fresh s
  let m := Config.freePick k % (rest + 1)
  ((List.range m).map (Config.freeByte k), s)

/-- The physical pieces of a virtual range, translated by the copy engine. -/
def copyPieces (ctx : Nat) (write : Bool) (ps : List (Nat × Nat)) (s : State) : Option (List (Nat × Nat)) × State :=
  transPieces (.unit .copyEngine) ctx write ps s

/-- COPY_IN and COPY_OUT past R46 step 8: alignment and length, then the whole range translated before any byte moves. A HOST, DEV or
BYTES out of its alignment or range answers ST_BAD_PARAM, as R46 step 9 has it for any opcode, though R48's rows list no such
status for a copy (DESIGN CHOICE, log 48). -/
def startCopy (isIn : Bool) (pkt : List Word) (t : Tagged) (s : State) : State :=
  let host := pkt.getD 1 0
  let dev := fld (pkt.getD 2 0) 47 0
  let n := fld (pkt.getD 3 0) 27 0
  if host.toNat % 64 ≠ 0 ∨ dev % 64 ≠ 0 ∨ n % 64 ≠ 0 ∨ n = 0 then answer t stBadParam 0 0 s
  else
    let s := accept t 0 s
    match copyPieces t.ctx isIn (pieces dev n) s with
    | (none, s) => replyFinal t stFaultAddress 0 0 s
    | (some ps, s) =>
      { s with img := { s.img with copies := s.img.copies ++ [⟨isIn, t.ring, t.tag, t.ctx, t.hoop, host, dev, n, ps⟩] } }

/-- COPY_IN (R192). -/
def execCopyIn (ring : BitVec 5) (pkt : List Word) (s : State) : Host.Outcome State Fault Refusal :=
  packet "COPY_IN" (packetWf 0x60 pkt) ring.toNat pkt (startCopy true pkt) s

/-- COPY_OUT (R192). -/
def execCopyOut (ring : BitVec 5) (pkt : List Word) (s : State) : Host.Outcome State Fault Refusal :=
  packet "COPY_OUT" (packetWf 0x61 pkt) ring.toNat pkt (startCopy false pkt) s

/-- Bytes written over physical pieces in address order, up to the first fault. -/
def writePhysPieces : List (Nat × Nat) → List Byte → State → Option FaultClass × State
  | [], _, s => (none, s)
  | (pa, n) :: t, bs, s =>
    match physWrite pa (bs.take n) (countAccess true pa (min n bs.length) s) with
    | (.error c, s) => (some c, s)
    | (.ok (), s) => if bs.length ≤ n then (none, s) else writePhysPieces t (bs.drop n) s

/-- Bytes read over physical pieces, up to the first fault. -/
def readPhysPieces (s : State) (salt : Nat) : List (Nat × Nat) → Except FaultClass (List Byte)
  | [] => .ok []
  | (pa, n) :: t => do
    let a ← s.physBytes salt pa n
    let b ← readPhysPieces s salt t
    .ok (a ++ b)

/-- The physical address of byte `i` of a list of pieces. -/
def pieceAddr : List (Nat × Nat) → Nat → Nat
  | [], _ => 0
  | (pa, n) :: t, i => if i < n then pa + i else pieceAddr t (i - n)

/-- Bytes that a copy has moved in full when it ends. -/
def Copy.moved (c : Copy) (stop : Option Nat) : Nat :=
  match stop with
  | some k => min k c.bytes
  | none => c.bytes

/-- A copy or an invalidation has ended: nothing awaits its ring and tag any more (R186, R379). -/
def Image.unawait (k : Nat × Nat) (i : Image) : Image :=
  { i with invals := i.invals.map fun v => { v with awaits := v.awaits.erase k },
           loads := i.loads.map fun l => { l with awaits := l.awaits.erase k } }

/-- The copy is no longer under way, and nothing awaits it. -/
def dropCopy (c : Copy) (s : State) : State :=
  { s with img := { s.img with copies := s.img.copies.erase c }.unawait (c.ring, c.tag) }

/-- The reads of device memory that a copy makes, counted piece by piece (R221). -/
def countReads : List (Nat × Nat) → State → State
  | [], s => s
  | (pa, n) :: t, s => countReads t (countAccess false pa n s)

/-- Corrected errors counted at their channels (R211). -/
def countChannels (fixed : List (BitVec 5)) (s : State) : State := forEach fixed (fun c => bumpChan c.toNat 6 1) s

/-- What a stopped copy leaves of the writes in flight (R192). -/
def copyTail (c : Copy) (stop : Option Nat) (s : State) : List Byte × State :=
  if stop.isSome then inFlight (c.bytes - c.moved stop) s else ([], s)

/-- The copied bytes reach their destination. -/
def copyPut (c : Copy) (out : List Byte) (s : State) : Option FaultClass × State :=
  if c.isIn then writePhysPieces c.pages out s else (none, hostWrite c.host.toNat out s)

/-- An uncorrectable error of device memory that stopped a copy (R211). -/
def copyEcc (c : Copy) (stop : Option Nat) (s : State) : State :=
  if stop.isSome then eccFaultAt (pieceAddr c.pages (c.moved stop)) s else s

/-- The entry of a COPY_IN in a recording: its bytes (R361). -/
def copyRecord (c : Copy) (bs : List Byte) (s : State) : State :=
  if c.isIn then
    recordEntry 0x02 s.rec_.digests (wordsBytes [BitVec.ofNat 64 (c.ring + at_ 16 c.tag)] ++ payloadPart s.rec_.digests bs) s
  else s

/-- A copy whose source was read ends: its bytes move, its final reply, its entry in a recording. -/
def copyFinish (c : Copy) (t : Tagged) (stop : Option Nat) (bs : List Byte) (s : State) : State :=
  let p := copyTail c stop s
  let q := copyPut c (bs.take (c.moved stop) ++ p.1) p.2
  let st := if stop.isSome ∨ q.1.isSome then stFaultAddress else stOk
  copyRecord c (bs.take (c.moved stop)) (replyFinal t st 0 0 (copyEcc c stop q.2))

/-- The copy that a ring and tag started ends. -/
def copyDone (ring tag : Nat) (data : List Byte) (stop : Option Nat) (fixed : List (BitVec 5)) (s : State) : State :=
  match s.img.copies.find? fun c => c.ring == ring && c.tag == tag with
  | none => s
  | some c =>
    let t : Tagged := ⟨ring, tag, if c.isIn then 0x60 else 0x61, c.ctx, c.hoop⟩
    let p := fresh (countChannels fixed (dropCopy c s))
    match (if c.isIn then .ok (slice data 0 c.bytes) else readPhysPieces p.2 p.1 c.pages) with
    | .error _ => replyFinal t stFaultAddress 0 0 p.2
    | .ok bs => copyFinish c t stop bs (if c.isIn then p.2 else countReads c.pages p.2)

/-- COPY_DONE (R192). -/
def execCopyDone (ring : BitVec 5) (tag : BitVec 16) (data : List Byte) (stop : Option Nat) (fixed : List (BitVec 5))
    (s : State) : Host.Outcome State Fault Refusal := .next (copyDone ring.toNat tag.toNat data stop fixed s)

/-! ### Invalidations (R186, R187) and walks -/

/-- INVALIDATE_TRANSLATION past R46 step 8: the entries leave the caches at once, completion comes later. PAGES 0, for which R49 and
R186 give no range and R187 one for its step alone, answers ST_BAD_PARAM (DESIGN CHOICE, log 48). -/
def startInvalidate (pkt : List Word) (t : Tagged) (s : State) : State :=
  let base := fld (pkt.getD 1 0) 47 16 * 2 ^ 16
  let w := pkt.getD 2 0
  let pages := fld w 31 0
  let knot := fld w 45 32
  if pages = 0 ∨ (bitAt w 63 ∧ s.img.byte 5 knot ≠ t.hoop + 1) then answer t stBadParam 0 0 s
  else
    let s := invalidate (s.hoopHome t.hoop) t.ctx base pages (accept t 0 s)
    queueInval t.ctx base pages (.packet t.ring t.tag t.hoop (if bitAt w 63 then some knot else none)) s

/-- INVALIDATE_TRANSLATION (R186). -/
def execInvalidateTranslation (ring : BitVec 5) (pkt : List Word) (s : State) : Host.Outcome State Fault Refusal :=
  packet "INVALIDATE_TRANSLATION" (packetWf 0x62 pkt) ring.toNat pkt (startInvalidate pkt) s

/-- The n-th invalidation in flight completes, once every copy that used an entry which it removed has ended (R186): its knot, set to a
value the spec does not state (log 16), and its final reply; or its step. -/
def invalidationComplete (n : Nat) (s : State) : State :=
  match s.img.invals[n]? with
  | none => s
  | some v =>
    if !v.awaits.isEmpty then s else
    let s := { s with img := { s.img with invals := s.img.invals.eraseIdx n } }
    match v.by_ with
    | .packet ring tag hoop knot =>
      let s := bumpXlat (s.hoopHome hoop) 3 1 s
      let s := match knot with
        | some k =>
          let (f, s) := fresh s
          setKnot k (Config.freePick f) s
        | none => s
      replyFinal ⟨ring, tag, 0x62, v.ctx, hoop⟩ stOk 0 0 { s with img := s.img.unawait (ring, tag) }
    | .step hoop step => partEnd hoop step 0 (bumpXlat (s.hoopHome hoop) 3 1 s)

/-- INVALIDATION_COMPLETE (R186). -/
def execInvalidationComplete (n : Nat) (s : State) : Host.Outcome State Fault Refusal := .next (invalidationComplete n s)

/-- TRANSLATION_WALK: the unit's entry for the page, if any, leaves the cache (R185 lets it at any moment), and the miss walks. An
uncorrectable error of the read at a level, if the walk comes to it, faults the walk there; a corrected one is counted (R211). -/
def translationWalk (u : CacheUnit) (ctx va : Nat) (write : Bool) (level : Nat) (ecc : Ecc) (s : State) : State :=
  let s := setCache u ((s.cache u).filter fun l => !(findLeaf [l] ctx va).isSome) s
  let h := s.readerHalf (.unit u)
  let s := bumpXlat h 0 1 s
  match ecc, (s.walkReads ctx va)[level]? with
  | .uncorrectable, some a =>
    let s := forEach ((s.walkReads ctx va).take (level + 1)) (fun a => countAccess false a 8) s
    eccFaultAt a (bumpXlat h 2 1 (bumpXlat h 1 1 s))
  | .corrected, some a => (walkFor (.unit u) ctx va write (eccFixedAt a s)).2
  | _, _ => (walkFor (.unit u) ctx va write s).2

/-- A unit that can walk: a physical hearth 0 to 17 (R8) whose flue port is open (R17), a port, the copy engine. -/
def State.unitWalks (s : State) : CacheUnit → Bool
  | .hearth p => decide (p.toNat < 18) && !(s.hearth p.toNat).closed
  | _ => true

/-- TRANSLATION_WALK (R183, R185). -/
def execTranslationWalk (unit : CacheUnit) (ctx : BitVec 12) (va : BitVec 48) (write : Bool) (level : BitVec 2) (ecc : Ecc)
    (s : State) : Host.Outcome State Fault Refusal :=
  .next (if s.unitWalks unit then translationWalk unit ctx.toNat va.toNat write level.toNat ecc s else s)

/-! ### Buffer pools (R193 to R197) -/

/-- A pool's free queue: until it is listed, every buffer in increasing INDEX (R195). -/
def State.poolQueue (s : State) (pool : Nat) : List Nat :=
  Tab.get (List.range (poolCount (s.img.entry 9 pool))) s.pools.queues pool

/-- Key of a buffer. -/
def bufKey (pool index : Nat) : Nat := pool * 65536 + index

/-- A buffer. -/
def State.buffer (s : State) (pool index : Nat) : Buffer := Tab.get .init s.pools.buffers (bufKey pool index)

/-- A buffer and its pool's queue replaced. -/
def setBuffer (pool index : Nat) (b : Buffer) (queue : List Nat) (s : State) : State :=
  { s with pools := { buffers := s.pools.buffers.set (bufKey pool index) b, queues := s.pools.queues.set pool queue } }

/-- The generation after one more allocation: 24 bits, 0 skipped (R194). -/
def nextGen (g : Nat) : Nat := if (g + 1) % 2 ^ 24 = 0 then 1 else (g + 1) % 2 ^ 24

/-- A handle (R194). -/
def handleOf (pool index gen : Nat) : Nat := pool + at_ 8 index + at_ 24 gen

/-- BUFFER_ALLOC past R46 step 8 (R195). -/
def bufferAlloc (pkt : List Word) (t : Tagged) (s : State) : State :=
  let pool := fld (pkt.getD 1 0) 7 0
  let e := s.img.entry 9 pool
  if !poolValid e || poolHoop e != t.hoop then answer t stBadParam 0 0 s
  else match s.poolQueue pool with
    | [] => answer t stNoBuffer 0 0 s
    | i :: rest =>
      let g := nextGen (s.buffer pool i).gen
      let s := bumpXlat (s.hoopHome t.hoop) 5 1 (setBuffer pool i ⟨some t.ctx, g⟩ rest s)
      answer t stOk 0 (w64 (handleOf pool i g)) s

/-- BUFFER_ALLOC (R195). -/
def execBufferAlloc (ring : BitVec 5) (pkt : List Word) (s : State) : Host.Outcome State Fault Refusal :=
  packet "BUFFER_ALLOC" (packetWf 0x63 pkt) ring.toNat pkt (bufferAlloc pkt) s

/-- The outcome of a free: the checks of R196 in order. -/
def freeStatus (s : State) (hoop ctx : Nat) (handle : Word) : Nat :=
  let pool := fld handle 7 0
  let index := fld handle 23 8
  let gen := fld handle 47 24
  let e := s.img.entry 9 pool
  let b := s.buffer pool index
  if fld handle 63 48 ≠ 0 ∨ !poolValid e ∨ poolHoop e ≠ hoop ∨ poolCount e ≤ index ∨ gen = 0 then stNotOwner
  else if b.owner.isNone ∨ b.gen ≠ gen then stAlreadyFree
  else if b.owner ≠ some ctx then stNotOwner
  else stOk

/-- BUFFER_FREE past R46 step 8 (R196). -/
def bufferFree (pkt : List Word) (t : Tagged) (s : State) : State :=
  let handle := pkt.getD 1 0
  let pool := fld handle 7 0
  let index := fld handle 23 8
  let st := freeStatus s t.hoop t.ctx handle
  if st = stOk then
    let s := setBuffer pool index ⟨none, fld handle 47 24⟩ (s.poolQueue pool ++ [index]) s
    answer t stOk 0 0 (bumpXlat (s.hoopHome t.hoop) 6 1 s)
  else
    let e := s.img.entry 9 pool
    let s := bumpXlat (s.hoopHome (if poolValid e then poolHoop e else t.hoop)) 7 1 s
    let f := faultOf s.dev.leader ukPool pool .poolMisuse
    let s := report { f with ctx := t.ctx, hoop := t.hoop, d0 := w64 index, d1 := w64 st } s
    answer t st 0 0 s

/-- BUFFER_FREE (R196). -/
def execBufferFree (ring : BitVec 5) (pkt : List Word) (s : State) : Host.Outcome State Fault Refusal :=
  packet "BUFFER_FREE" (packetWf 0x64 pkt) ring.toNat pkt (bufferFree pkt) s

/-- Every buffer of a pool returned to FREE, the queue in increasing INDEX, generations kept (R197, R280). -/
def freePool (pool : Nat) (s : State) : State :=
  { s with pools := { buffers := s.pools.buffers.map (fun e =>
                        if e.1 / 65536 = pool then (e.1, { e.2 with owner := none }) else e),
                      queues := s.pools.queues.filter fun e => e.1 != pool } }

end Sys2Proof.Machine
end

