-- ==== Sys2Proof/Machine/Hearths.lean ====
section
/-! DEFINITION. Pass groups on hearths: commit and abandonment (R92, R98, R99, R102), retest, retirement, generations and fences
(R318 to R320). -/
namespace Sys2Proof.Machine

/-- Hearth counters (R102). -/
def bumpHearth (p w k : Nat) : State → State := updHearth p fun x => { x with ctr := bump x.ctr w k }

/-- Attention counters (R161). -/
def bumpAtt (p w k : Nat) : State → State := updHearth p fun x => { x with attCtr := bump x.attCtr w k }

/-- A part of a step on a hearth: hoop, step, position, job, and the physical hearth behind it. -/
structure Part4 where
  hoop : Nat
  step : Nat
  pos  : Nat
  half : Half
  log  : Nat
  phys : Nat
  job  : Job
  deriving DecidableEq, Repr

/-- The open part of a step of one of the given kinds at a position, on the hearth that stands there. -/
def State.part4 (s : State) (kinds : List Nat) (hoop step pos : Nat) : Option Part4 := do
  let (j, _) ← s.openPart hoop step pos
  guard (kinds.contains (stepKind (s.stepAt j.q.pricking step)))
  let h := s.hoopHome hoop
  let l := posOf h pos
  guard (!(s.place l).vacant)
  some ⟨hoop, step, pos, h, l, (s.place l).physical, j⟩

/-- The hoop runs in detect-only mode (R304). -/
def State.detectOnly (s : State) (hoop : Nat) : Bool := safDetectOnly (s.img.entry 24 0) hoop

/-- The knots that a pricking's steps wait on. -/
def State.waitKnots (s : State) (number : Nat) : List Nat :=
  (List.range (prkSteps (s.prick number))).flatMap fun n =>
    let e := s.stepAt number n
    ([0, 1].filter (waitEn e)).map (waitKnot e)

/-- The frame counters that a job concerns: of the last frame of each key whose frame knot its pricking waits on. -/
def State.framesOf (s : State) (j : Job) : List Nat :=
  let ks := s.waitKnots j.q.pricking
  (List.range 512).filterMap fun k =>
    if routeValid (s.img.entry 10 k) && ks.contains (routeKnot (s.img.entry 10 k)) then (s.key k).prevCtr else none

/-- FRAME of a job's record (R313): the counter that it concerns, or 0. Of several, no rule says which: a free choice among them
(log 18). -/
def State.frameOf (s : State) (j : Job) (salt : Nat) : Nat :=
  let l := s.framesOf j
  l.getD (Config.freePick salt % l.length) 0 % 2 ^ 32

/-- The report of a part: the logical position, the physical index, the step and the pass (R99), and the item a rule names. -/
def partReport (q : Part4) (cls : FaultClass) (pass : Nat) (detect : Bool) (item salt : Nat) (s : State) : FaultRec :=
  { faultOf q.half ukHearth q.phys cls with
    detectOnly := detect, ctx := q.job.q.ctx, hoop := q.hoop, step := q.step, pass := pass, logical := q.pos,
    physical := q.phys, d0 := w64 item, gen := (s.place q.log).gen, frame := s.frameOf q.job salt }

/-- The fault record of a part (R99). -/
def partRecordAt (q : Part4) (cls : FaultClass) (pass : Nat) (detect : Bool) (item : Nat) (s : State) : State :=
  let (k, s) := fresh s
  report (partReport q cls pass detect item k s) s

/-- The fault record of a part with no item. -/
def partRecord (q : Part4) (cls : FaultClass) (pass : Nat) (detect : Bool) (s : State) : State :=
  partRecordAt q cls pass detect 0 s

/-! ### Commit and abandonment -/

/-- Landing pages of a part's descriptor: landing page, destination page, pages. -/
structure Landing where
  land  : Nat
  dest  : Nat
  pages : Nat
  deriving DecidableEq, Repr

/-- The landing ranges of a group. -/
def landingOf (g : Entry) : Landing := ⟨grpLand g, grpDest g, grpPages g⟩

/-- The landing range of a transform descriptor. -/
def trLanding (e : Entry) : Landing := ⟨trLand e, trDest e, trPages e⟩

/-- Landing range of an attention descriptor. -/
def atLanding (e : Entry) : Landing := ⟨atLand e, atDest e, atPages e⟩

/-- The commit (R92): the landing range unspecified but for the writes, its page-map entries exchanged with the destination's. -/
def commitPages (p : Nat) (g : Landing) (writes : List (Nat × List Byte)) (s : State) : State :=
  let (k, s) := fresh s
  updHearth p (fun x =>
    let x := x.scramble g.land g.pages k
    let x := writes.foldl (fun x w => x.write (g.land * 4096 + w.1) w.2) x
    x.swapPages g.land g.dest g.pages) s

/-- Rounds of a part that a physical cause stopped, at most `bound`: the spec states no more (log 17). -/
def freeRounds (bound : Nat) (s : State) : Nat × State :=
  let (k, s) := fresh s
  (Config.freePick k % (bound + 1), s)

/-- Rounds of a part that its own values stopped: fixed by its descriptor, class and pass, for equal runs charge the same (R354);
at most `bound` (R114; log 17). -/
def stopRounds (words : List Word) (cls : FaultClass) (pass bound : Nat) : Nat :=
  Config.stopRounds words (classCode cls) pass % (bound + 1)

/-- A failed check of R102 CHECK_FAILS. -/
def isCheck (c : FaultClass) : Bool := c == .arrayCheck || c == .transformCheck || c == .attendCheck

/-- Values saturated, escapes consumed and rows left out of the checks, counted (R84, R97, R102, R117). -/
def countValues (p sats esc nonfin : Nat) (s : State) : State :=
  bumpHearth p 5 sats (bumpHearth p 6 esc (bumpHearth p 7 nonfin s))

/-- Single-bit errors that a unit's reads met, counted where they lay (R99, R211). -/
def countFixed (p : Nat) (c : Corrected) (s : State) : State :=
  forEach c.dram (fun ch => bumpChan ch.toNat 6 1) (bumpHearth p 4 c.store.toNat s)

/-- A part stops without a commit (R99): landing unspecified, counters and charge. -/
def discardPart (q : Part4) (g : Landing) (cls : FaultClass) (rounds : Nat) (s : State) : State :=
  let (k, s) := fresh s
  let s := updHearth q.phys (fun x => x.scramble g.land g.pages k) s
  let s := bumpHearth q.phys 1 1 (bumpHearth q.phys 2 rounds (addCharge q.hoop rounds s))
  if isCheck cls then bumpHearth q.phys 3 1 s else s

/-! ### Pass groups of a part -/

/-- Header and pass entries of a PASS step's group. -/
def State.groupOf (s : State) (number desc : Nat) : Entry × List Entry :=
  let g := s.descUnit number desc
  (g, (List.range (grpPasses g)).map fun i => s.descWords number desc (64 + 32 * i) 4)

/-- The descriptor of the pass group that a part runs: the step's own, or the one that an APPEND descriptor names (R153). -/
def groupDesc (q : Part4) (s : State) : Nat :=
  let e := s.stepAt q.job.q.pricking q.step
  if stepKind e = kAttend then atPass (s.descUnit q.job.q.pricking (stepDesc e)) else stepDesc e

/-- The part is an APPEND step's. -/
def isAppend (q : Part4) (s : State) : Bool :=
  let e := s.stepAt q.job.q.pricking q.step
  stepKind e == kAttend && atMode (s.descUnit q.job.q.pricking (stepDesc e)) == 1

/-- The pass group of an APPEND part has committed. -/
def groupedPart (q : Part4) (s : State) : Bool :=
  match s.openPart q.hoop q.step q.pos with
  | some (_, r) => r.grouped.contains q.pos
  | none => false

/-- The part has a pass group that has not ended. -/
def groupOpen (q : Part4) (s : State) : Bool :=
  stepKind (s.stepAt q.job.q.pricking q.step) == kPass || (isAppend q s && !groupedPart q s)

/-! ### Retirement (R318, R319) -/

/-- The next generation of a position: 16 bits, 0 skipped (R319). -/
def nextPlaceGen (g : Nat) : Nat := if (g + 1) % 65536 = 0 then 1 else (g + 1) % 65536

/-- A physical hearth with its firebox cleared and its cache emptied, as it takes a position. -/
def clearHearth (p : Nat) : State → State :=
  updHearth p fun x => { x with frames := .zero, pageMap := [], cache := [] }

/-- The half's spare stands in no position and is not retired. -/
def State.spareFree (s : State) (h : Half) : Bool :=
  !(s.hearth (spareOf h)).closed
    && (List.range 8).all fun i => (s.place (posOf h i)).vacant || (s.place (posOf h i)).physical != spareOf h

/-- A fault that calls for a retest (R318). -/
def retestClass (c : FaultClass) : Bool :=
  c == .arrayCheck || c == .transformCheck || c == .attendCheck || c == .storeUncorrectable

/-- The landing range of an open part. -/
def openLanding (q : Part4) (s : State) : Landing :=
  let e := s.stepAt q.job.q.pricking q.step
  let d := s.descUnit q.job.q.pricking (stepDesc e)
  if stepKind e = kTransform then trLanding d
  else if groupOpen q s then landingOf (s.groupOf q.job.q.pricking (groupDesc q s)).1 else atLanding d

/-- Parts that work in the array of a position, but for step `skip`, whose part has stopped already. -/
def computeParts (hoop pos : Nat) (skip : Option Nat) (s : State) : List Part4 :=
  match (s.hoop hoop).job with
  | none => []
  | some j => (j.steps.filter fun r => some r.step != skip).filterMap fun r => s.part4 [kPass, kTransform, kAttend] hoop r.step pos

/-- A closed port abandons what works in the hearth's array (R99): landing unspecified, counters and charge; an APPEND whose group
has committed only counts as abandoned. Rounds and pass are free values (log 17, log 21). -/
def stopRetired (q : Part4) (s : State) : State :=
  if isAppend q s && groupedPart q s then bumpHearth q.phys 1 1 s
  else
    let (r, s) := fresh s
    discardPart q (openLanding q s) .hearthRetired (Config.freePick r) s

/-- The record of a retirement (R318); where it abandons a part, it names that part's context, hoop, step and pass too (R99). -/
def retireReport (h : Half) (l p gen new : Nat) (q : Option Part4) (salt : Nat) (s : State) : FaultRec :=
  let f : FaultRec := { faultOf h ukHearth p .hearthRetired with logical := l % 8, physical := p, gen := gen, d0 := w64 new }
  match q with
  | none => f
  | some q =>
    let n := if groupOpen q s then grpPasses (s.groupOf q.job.q.pricking (groupDesc q s)).1 else 1
    { f with ctx := q.job.q.ctx, hoop := q.hoop, step := q.step, pass := Config.freePick salt % n, frame := s.frameOf q.job salt }

/-- The hearth in a position is retired (R318): what works in its array is abandoned, its port closed, the spare placed or the
position vacated, the generation advanced; record. `skip`: the step whose part there has stopped already. -/
def retire (l : Nat) (cls : FaultClass) (skip : Option Nat) (s : State) : State :=
  let h := halfOfPos l
  let pl := s.place l
  let p := pl.physical
  let spare := s.spareFree h
  let new := if spare then spareOf h else 31
  let qs := match s.hoopOfPos l with
    | some hoop => computeParts hoop (l % 8) skip s
    | none => []
  let (salt, s) := fresh s
  let rec_ := retireReport h l p pl.gen new qs.head? salt s
  let s := forEach qs stopRetired s
  let s := updHearth p (fun x => { x with closed := true, retiredBy := classCode cls, cache := [], heldPos := l % 8,
                                          heldGen := pl.gen }) s
  let s := if spare then clearHearth (spareOf h) s else s
  let s := updPlace l (fun x => { x with physical := new, vacant := !spare, retest := none, second := false,
                                         gen := nextPlaceGen pl.gen, fence := true }) s
  let s := bumpFg h 4 1 s
  let s := report rec_ s
  match s.hoopOfPos l with
  | some hoop => dropParts hoop (l % 8) s
  | none => s

/-- One second in half-periods. -/
def secondHp : Nat := usHp 1000000

/-- The consequence of a part's fault for its hearth (R318): a retest, a note in a running one, or retirement for a second
fault within 1 s. -/
def noteHearthFault (q : Part4) (cls : FaultClass) (s : State) : State :=
  if !retestClass cls || s.detectOnly q.hoop then s
  else
    let pl := s.place q.log
    if pl.retest.isSome then updPlace q.log (fun x => { x with second := true }) s
    else
      let again := match (s.hearth q.phys).lastFault with
        | some t => decide (s.hp < t + secondHp)
        | none => false
      let s := updHearth q.phys (fun x => { x with lastFault := some s.hp }) s
      if again then retire q.log cls (some q.step) s
      else bumpFg q.half 3 1 (updPlace q.log (fun x => { x with retest := some (classCode cls) }) s)

/-- The consequences of a part's fault for its hearth and its step (R75, R318), if the part is still open after them. -/
def faultPart (q : Part4) (cls : FaultClass) (s : State) : State :=
  let s := noteHearthFault q cls s
  match s.openPart q.hoop q.step q.pos with
  | some _ => partFault q.hoop q.step q.pos s
  | none => s

/-- A part abandons (R99, R75): landing unspecified, record, counters, charge, retest; the step faults. -/
def abandonPart (q : Part4) (g : Landing) (cls : FaultClass) (pass rounds : Nat) (s : State) : State :=
  faultPart q cls (partRecord q cls pass false (discardPart q g cls rounds s))

/-- A part has committed: its counters and charge, and the records of checks let through (R102, R304). -/
def commitPart (q : Part4) (rounds sats esc nonfin : Nat) (checks : List (FaultClass × Nat)) (s : State) : State :=
  let s := bumpHearth q.phys 0 1 (bumpHearth q.phys 2 rounds (addCharge q.hoop rounds s))
  forEach checks (fun e s => partRecord q e.1 e.2 true (if isCheck e.1 then bumpHearth q.phys 3 1 s else s))
    (countValues q.phys sats esc nonfin s)

/-- The checks that a commit lets through, with the failed one of a physical cause. -/
def withUpset (checks : List (FaultClass × Nat)) (upset : Option (FaultClass × Nat)) : List (FaultClass × Nat) :=
  checks ++ upset.toList

/-- What a commit writes: after an upset that a detect-only hoop let through the values are unspecified (R304; log 10). -/
def upsetWrites (ws : List (Nat × List Byte)) (upset : Option (FaultClass × Nat)) : List (Nat × List Byte) :=
  if upset.isSome then [] else ws

/-- The first `n` passes of a part's pass group on its hearth, from the values they read. -/
def passesResult (n : Nat) (q : Part4) (s : State) : GroupRes :=
  let (g, ps) := s.groupOf q.job.q.pricking (groupDesc q s)
  let x := s.hearth q.phys
  runGroup x.byte (s.descUnit q.job.q.pricking) g (ps.take n) ⟨q.job.q.seed, q.pos, q.half.idx, x.started⟩ true
    (s.detectOnly q.hoop)

/-- The outcome of a part's pass group on its hearth, from the values it reads. -/
def passResult (q : Part4) (s : State) : GroupRes :=
  passesResult (s.groupOf q.job.q.pricking (groupDesc q s)).2.length q s

/-- Passes started counted for the recompute column of R98. -/
def startPasses (p n : Nat) : State → State := updHearth p fun x => { x with started := x.started + n }

/-- A pass group has committed: its part ends, or the APPEND phase begins (R153). -/
def groupDone (q : Part4) (s : State) : State :=
  if isAppend q s then
    updStep q.hoop q.step (fun r => { r with grouped := r.grouped ++ [q.pos] }) s
  else partEnd q.hoop q.step q.pos s

/-- A pass group stops on what its own values break (R99): a scale record before the first pass, within 16 rounds (R114), or a pass.
What the passes before it wrote, consumed and left out stays counted (log 49). -/
def passFault (q : Part4) (cls : FaultClass) (p sats esc nonfin : Nat) (s : State) : State :=
  let (g, ps) := s.groupOf q.job.q.pricking (groupDesc q s)
  let s := if cls = .scaleInvalid then s else startPasses q.phys (p + 1) s
  abandonPart q (landingOf g) cls p (stopRounds g cls p (if cls = .scaleInvalid then 16 else groupRounds g ps))
    (countValues q.phys sats esc nonfin s)

/-- A pass group ends on its hearth and commits (R92), or is abandoned for what its own values break (R99). `upset`: a failed check
of a physical cause that a detect-only hoop lets through (R304). -/
def passCommit (q : Part4) (upset : Option (FaultClass × Nat)) (s : State) : State :=
  let (g, ps) := s.groupOf q.job.q.pricking (groupDesc q s)
  match passResult q s with
  | .fault c p sats esc nonfin => passFault q c p sats esc nonfin s
  | .done ws sats esc nonfin chk =>
    let s := startPasses q.phys ps.length s
    let s := commitPages q.phys (landingOf g) (upsetWrites ws upset) s
    groupDone q (commitPart q (groupRounds g ps) sats esc nonfin (withUpset chk upset) s)

/-- PASS_GROUP_COMMIT (R92). -/
def execPassGroupCommit (hoop : BitVec 4) (step : BitVec 20) (pos : BitVec 3) (fixed : Corrected) (s : State) :
    Host.Outcome State Fault Refusal :=
  .next (match s.part4 [kPass, kAttend] hoop.toNat step.toNat pos.toNat with
    | some q => if groupOpen q s then passCommit q none (countFixed q.phys ⟨fixed.store, []⟩ s) else s
    | none => s)

/-- A physical cause stops a pass group in a pass: abandoned, with what the passes before it counted; values that stop it in an
earlier pass come first (R99). -/
def stopGroup (q : Part4) (cls : FaultClass) (pass : Nat) (s : State) : State :=
  let (g, ps) := s.groupOf q.job.q.pricking (groupDesc q s)
  let p := min pass (ps.length - 1)
  match passesResult p q s with
  | .fault c p sats esc nonfin => passFault q c p sats esc nonfin s
  | .done _ sats esc nonfin _ =>
    let (r, s) := freeRounds (groupRounds g ps) (startPasses q.phys (p + 1) s)
    abandonPart q (landingOf g) cls p r (countValues q.phys sats esc nonfin s)

/-! ### Retests and fences -/

/-- The hoop of a position may take jobs again. -/
def admitAt (l : Nat) (s : State) : State :=
  match s.hoopOfPos l with
  | some hoop => tryAdmit hoop s
  | none => s

/-- RETEST_DONE (R318). -/
def retestDone (l : Nat) (pass : Bool) (s : State) : State :=
  let pl := s.place l
  match pl.retest with
  | none => s
  | some _ =>
    if pass && !pl.second then
      admitAt l (updPlace l (fun x => { x with retest := none, transients := satAdd 255 x.transients 1 }) s)
    else
      let cls := if pl.retest = some (classCode .transformCheck) then FaultClass.transformCheck
        else if pl.retest = some (classCode .attendCheck) then .attendCheck
        else if pl.retest = some (classCode .storeUncorrectable) then .storeUncorrectable else .arrayCheck
      admitAt l (retire l cls none s)

/-- RETEST_DONE (R318). -/
def execRetestDone (half : Half) (pos : BitVec 3) (pass : Bool) (s : State) : Host.Outcome State Fault Refusal :=
  .next (retestDone (posOf half pos.toNat) pass s)

/-- The fence knot of a position (R319). -/
def fenceKnot (l : Nat) : Nat := (if l < 8 then 8184 else 16376) + l % 8

/-- A transfer of the position's hoop still runs there. -/
def State.transferOpen (s : State) (l : Nat) : Bool :=
  match s.hoopOfPos l with
  | none => false
  | some hoop => match (s.hoop hoop).job with
    | none => false
    | some j => j.steps.any fun r => r.open_.contains (l % 8)
        && (unitsOf (stepKind (s.stepAt j.q.pricking r.step)) [l % 8]).contains (2 * (l % 8) + 1)

/-- FENCE_KNOT_SET: with no transfer of the old placement left, the fence knot takes the new generation (R319). -/
def fenceSet (l : Nat) (s : State) : State :=
  if !(s.place l).fence || s.transferOpen l then s
  else
    let s := setKnot (fenceKnot l) (s.place l).gen s
    admitAt l (updPlace l (fun x => { x with fence := false }) s)

/-- FENCE_KNOT_SET (R319). -/
def execFenceKnotSet (half : Half) (pos : BitVec 3) (s : State) : Host.Outcome State Fault Refusal :=
  .next (fenceSet (posOf half pos.toNat) s)

/-- A generation is older than a fence value, wrap-safe (R319). -/
def olderThan (g f : Nat) : Bool := decide (2 ^ 15 ≤ (g + 65536 - f % 65536) % 65536)

/-- The physical hearth that a transfer of generation `g` came from: the one retired from the position with it, else the one that
stands there (R9, R319). -/
def State.senderOf (s : State) (l g : Nat) : Nat :=
  let old := (List.range 18).find? fun p =>
    let x := s.hearth p
    halfOfPhys p == halfOfPos l && x.closed && x.heldPos == l % 8 && x.heldGen == g
  old.getD (s.place l).physical

/-- STALE_RESULT: a transfer older than the fence is dropped, counted and reported (R319). -/
def staleResult (h : Half) (pos g : Nat) (s : State) : State :=
  if !olderThan g (s.knot (fenceKnot (posOf h pos))).toNat then s
  else
    let f := faultOf h ukFireguard h.idx .staleResult
    report { f with logical := pos, physical := s.senderOf (posOf h pos) g, gen := g } (bumpFg h 6 1 s)

/-- STALE_RESULT (R319). -/
def execStaleResult (half : Half) (pos : BitVec 3) (generation : BitVec 16) (s : State) :
    Host.Outcome State Fault Refusal := .next (staleResult half pos.toNat generation.toNat s)

/-- LATE_SPEECH: a request at a closed port is dropped and recorded, under the position that the hearth held (R9, R320). -/
def lateSpeech (p : Nat) (s : State) : State :=
  if !(s.hearth p).closed then s
  else
    let f := faultOf (halfOfPhys p) ukHearth p .lateSpeech
    report { f with logical := (s.hearth p).heldPos, physical := p, gen := (s.hearth p).heldGen,
                    d0 := w64 (s.hearth p).retiredBy } (bumpFg (halfOfPhys p) 5 1 s)

/-- LATE_SPEECH (R320). -/
def execLateSpeech (p : BitVec 5) (s : State) : Host.Outcome State Fault Refusal := .next (lateSpeech p.toNat s)

end Sys2Proof.Machine
end

