-- ==== Sys2Proof/Machine/Transform.lean ====
section
/-! DEFINITION. Exact transform steps (R132 to R141). -/
namespace Sys2Proof.Machine

/-- The prime of R134. -/
def trPrime : Nat := 2 ^ 64 - 2 ^ 32 + 1

/-- A kept residue recovered as a signed integer and reduced to an accumulator value (R134). -/
def recover (r : Nat) : Int :=
  wrap36 (if r ≤ (trPrime - 1) / 2 then (r : Int) else (r : Int) - (trPrime : Int))

/-- A transform descriptor's formats, zero points, scale record, side lists, ranges and stride, laid out as the header of a pass
group, whose scale and write-out rules R134 takes over. -/
def trGroup (e : Entry) : Entry :=
  [w64 (at_ 10 (trXfmt e) + at_ 14 (trWfmt e) + at_ 18 (trOfmt e)),
   w64 (e.f 4 47 0), 0, w64 (e.f 2 33 17 + at_ 17 (e.f 2 50 34) + at_ 34 (e.f 3 16 0)),
   w64 (e.f 3 25 17 + at_ 9 (e.f 3 34 26)), 0, 0, 0]

/-- Elements read in one of the orders of R137: their values, side-list entries consumed, and the escape marks. -/
structure ElemRun where
  vals : List Int
  cnt  : Nat
  escs : List Bool
  deriving DecidableEq, Repr

/-- One element appended to a run. -/
def ElemRun.push (r : ElemRun) (c : Cell × Nat) : ElemRun := ⟨r.vals ++ [c.1.val.int!], c.2, r.escs ++ [c.1.esc]⟩

/-- One element that the feeder gives at a position and channel (R129, R130). -/
def feedElem (rd : Nat → Byte) (d : Entry) (o : Operand) (y x : Int) (c cnt : Nat) : Cell × Nat :=
  let inside := decide (0 ≤ x) && decide (x < feedW d) && decide (0 ≤ y) && decide (y < feedH d)
  if inside || feedHalo d == 2 then
    let (a, k) := elemAt (feedLayout d) (feedBase d) (feedA d) (feedRow d) (fmtWidth o.fmt)
      (clampTo (feedH d) y) (clampTo (feedW d) x) (feedCh0 d + c)
    decodeElem rd o (elemRead rd a (fmtWidth o.fmt) k) cnt
  else (haloCell d (fmtFloat o.fmt), cnt)

/-- The filter planes in order n, c, row, column (R136, R137). -/
def filterRun (rd : Nat → Byte) (e : Entry) (o : Operand) : ElemRun :=
  let w := fmtWidth o.fmt
  let n := trKh e * trKw e
  let pitch := ceilDiv (packedBytes n w) 64 * 64
  (List.range (trNout e * trCin e)).foldl (fun r p =>
    (List.range n).foldl (fun r i => r.push (decodeElem rd o (elemRead rd (trWgt e + p * pitch) w i) r.cnt)) r) ⟨[], 0, []⟩

/-- The elements of one tile: channel, tile row, tile column (R137). -/
def tileRun (rd : Nat → Byte) (e d : Entry) (o : Operand) (y0 x0 : Int) (cnt : Nat) : ElemRun :=
  let l := trL e
  (List.range (trCin e * l * l)).foldl (fun r i =>
    r.push (feedElem rd d o (y0 + ((i / l % l : Nat) : Int)) (x0 + ((i % l : Nat) : Int)) (i / (l * l)) r.cnt)) ⟨[], cnt, []⟩

/-- Some aligned group of 16 elements of an order holds more than one escape (R137; log 19). -/
def escapesDense (escs : List Bool) : Bool :=
  (List.range (ceilDiv escs.length 16)).any fun i => decide (1 < (((escs.drop (16 * i)).take 16).filter id).length)

/-- Tiles along an axis: ceil(out ÷ V) (R133). -/
def tilesOf (out l k : Nat) : Nat := ceilDiv out (l - k + 1)

/-- The accumulator value of one output: the correlation of a tile's planes with a filter, through its residue (R132 to R134). -/
def trValue (e : Entry) (x w : List Int) (n ly lx : Nat) : Int :=
  let l := trL e
  let k := trKh e * trKw e
  let v := (List.range (trCin e * k)).foldl (fun a i =>
    let c := i / k
    let j := i % k
    a + x.getD (c * l * l + (ly + j / trKw e) * l + lx + j % trKw e) 0 * w.getD (n * trCin e * k + i) 0) (0 : Int)
  recover (v % (trPrime : Int)).toNat

/-- What runs through the tiles of a step: writes, saturated values, side-list entries of the input. -/
structure TrSt where
  writes : List (Nat × List Byte)
  sats   : Nat
  cnt    : Nat
  deriving DecidableEq, Repr

/-- One tile; when its escapes stand too densely, the saturated values so far and the side-list entries read (log 49). -/
def runTile (rd : Nat → Byte) (e d : Entry) (sc : ScaleRec) (oX : Operand) (w : List Int) (ty tx : Nat) (st : TrSt) :
    Except (Nat × Nat) TrSt :=
  let l := trL e
  let vy := l - trKh e + 1
  let vx := l - trKw e + 1
  let x := tileRun rd e d oX (feedY0 d + ((ty * vy : Nat) : Int)) (feedX0 d + ((tx * vx : Nat) : Int)) st.cnt
  if escapesDense x.escs then .error (st.sats, x.cnt)
  else
    let ny := min vy (trH e - ty * vy)
    let nx := min vx (trW e - tx * vx)
    let outs := (List.range (ny * nx)).map fun i =>
      let y := ty * vy + i / nx
      let xx := tx * vx + i % nx
      let row : List Acc := (List.range (trNout e)).map fun n => (.int (trValue e x.vals w n (i / nx) (i % nx)), 0)
      ((y * trW e + xx) * trStride e, rowBytes (trGroup e) sc ⟨0, 0, 0, 0⟩ 0 0 row none)
    .ok ⟨st.writes ++ outs.map (fun o => (o.1, o.2.1)), st.sats + (outs.map fun o => o.2.2).foldl (· + ·) 0, x.cnt⟩

/-- A transform step on a store (R132 to R138): its outputs, or the fault that its values bring. -/
def runTransform (rd : Nat → Byte) (unit : Nat → Entry) (e : Entry) : GroupRes :=
  match readScale rd (trGroup e) with
  | none => .fault .scaleInvalid 0 0 0 0
  | some sc =>
    let d := unit (trFeed e)
    let oX : Operand := ⟨trXfmt e, trZpX e, sc.lvS, trEscX e⟩
    let oW : Operand := ⟨trWfmt e, trZpW e, sc.lvT, trEscW e⟩
    let w := filterRun rd e oW
    if escapesDense w.escs then .fault .escapeDensity 0 0 w.cnt 0
    else
      let ny := tilesOf (trH e) (trL e) (trKh e)
      let nx := tilesOf (trW e) (trL e) (trKw e)
      match (List.range (ny * nx)).foldlM (fun st i => runTile rd e d sc oX w.vals (i / nx) (i % nx) st) ⟨[], 0, 0⟩ with
      | .error (sats, cnt) => .fault .escapeDensity 0 sats (w.cnt + cnt) 0
      | .ok st => .done st.writes st.sats (w.cnt + st.cnt) 0 []

/-- D_tr of R140. -/
def transformRounds (e : Entry) : Nat :=
  let l := trL e
  let tau := l * l * Nat.log2 l / 64
  let ft := trCin e * tau
  let xt := trCin e * (trNout e + 1) * l * l / 256
  let it := (trNout e + 1) * tau
  let tiles := tilesOf (trH e) l (trKh e) * tilesOf (trW e) l (trKw e)
  ceilDiv (trCin e * (trNout e + 1)) 2 * tau + ft + xt + it + (tiles - 1) * max ft (max xt it) + 64

/-- The outcome of a transform part on its hearth, from the values it reads. -/
def transformResult (q : Part4) (s : State) : GroupRes :=
  runTransform (s.hearth q.phys).byte (s.descUnit q.job.q.pricking)
    (s.descUnit q.job.q.pricking (stepDesc (s.stepAt q.job.q.pricking q.step)))

/-- A transform part stops on what its own values break (R114, R137, R141). -/
def transformFault (q : Part4) (d : Entry) (cls : FaultClass) (sats esc : Nat) (s : State) : State :=
  abandonPart q (trLanding d) cls 0 (stopRounds d cls 0 (if cls = .scaleInvalid then 16 else transformRounds d))
    (countValues q.phys sats esc 0 s)

/-- A transform part ends: it commits, or its values abandon it (R141). `upset` as in a pass group. -/
def transformCommit (q : Part4) (upset : Option (FaultClass × Nat)) (s : State) : State :=
  let d := s.descUnit q.job.q.pricking (stepDesc (s.stepAt q.job.q.pricking q.step))
  match transformResult q s with
  | .fault c _ sats esc _ => transformFault q d c sats esc s
  | .done ws sats esc nonfin chk =>
    let s := commitPages q.phys (trLanding d) (upsetWrites ws upset) s
    let s := commitPart q (transformRounds d) sats esc nonfin (withUpset chk upset) s
    partEnd q.hoop q.step q.pos s

/-- A physical cause stops a transform part: how much of it had run is a free value (R99, R141; log 17). -/
def stopTransform (q : Part4) (cls : FaultClass) (s : State) : State :=
  let d := s.descUnit q.job.q.pricking (stepDesc (s.stepAt q.job.q.pricking q.step))
  match transformResult q s with
  | .fault c _ sats esc _ => transformFault q d c sats esc s
  | .done _ sats esc _ _ =>
    let (r, s) := freeRounds (transformRounds d) s
    let (a, s) := freeRounds sats s
    let (b, s) := freeRounds esc s
    abandonPart q (trLanding d) cls 0 r (countValues q.phys a b 0 s)

/-- TRANSFORM_COMMIT (R141). -/
def execTransformCommit (hoop : BitVec 4) (step : BitVec 20) (pos : BitVec 3) (fixed : Corrected) (s : State) :
    Host.Outcome State Fault Refusal :=
  .next (match s.part4 [kTransform] hoop.toNat step.toNat pos.toNat with
    | some q => transformCommit q none (countFixed q.phys ⟨fixed.store, []⟩ s)
    | none => s)

end Sys2Proof.Machine
end

