-- ==== Sys2Proof/Machine/Attend.lean ====
section
/-! DEFINITION. Attention steps: FORWARD, BACKWARD and the APPEND phase (R142 to R161); abandonment of any hearth part (R99). -/
namespace Sys2Proof.Machine

/-! ### Values -/

/-- A decoded attention operand: no zero point and no level table (R144). -/
def atVal (fmt raw : Nat) : FVal := if fmtInt fmt then .ofRat (intRaw fmt raw) else decodeFloat fmt raw

/-- `n` elements of a packed row. -/
def atRow (rd : Nat → Byte) (base fmt n : Nat) : List FVal :=
  (List.range n).map fun i => atVal fmt (elemRead rd base (fmtWidth fmt) i)

/-- Elements of a packed byte string. -/
def atBytes (bs : List Byte) (base fmt n : Nat) : List FVal := atRow (fun a => bs.getD a 0) base fmt n

/-- An FP32 value's code. -/
def code32 (v : FVal) : Nat := (writeFloat 15 none v).1

/-- Four bytes of an FP32 value. -/
def bytes32 (v : FVal) : List Byte := toLE 4 (code32 v)

/-- An exact sum of products rounded to FP32 after each addition, in order from +0 (R85, R107, R156). -/
def dotExact (a b : List FVal) : FVal := (a.zip b).foldl (fun acc p => add32 acc (exactMul p.1 p.2)) .zero

/-- An FP32 product with one rounding. -/
def mul32 (a b : FVal) : FVal := rne32 (exactMul a b)

/-- A number is above zero. -/
def FVal.pos (v : FVal) : Bool := FVal.lt .zero v

/-- E of R148 for t ≤ 0; above 0 it is not stated: a free function of t, for equal runs give equal bits (R354; log 20). -/
def expOf (t : FVal) : FVal := if t.pos then decodeFloat 15 (Config.expAbove (code32 t)).toNat else exp2 t

/-- A quotient that no rule states: a free function of its operands (log 20). -/
def divFree (a b : FVal) : FVal := decodeFloat 15 (Config.divOpen (code32 a) (code32 b)).toNat

/-- A quotient rounded once to FP32; a zero or infinite divisor, or a non-finite dividend, has no stated result (log 20). -/
def div32 (a b : FVal) : FVal :=
  match a, b with
  | .fin m x, .fin n y => if y = 0 then divFree a b else rne32 (.fin (m != n) (x / y))
  | _, _ => divFree a b

/-- The row and column checks of R96 on a product fail (R157). Rows that are not finite stay out of them (log 49). -/
def productFails (wins cols out : List (List FVal)) (carried : Option (List (List FVal))) : Bool :=
  let accs (l : List (List FVal)) : List (List Acc) := l.map fun r => r.map fun v => (.flt v, 0)
  (checkPass true 0 wins cols (accs out) (carried.map accs)).fails

/-! ### The scale record (R144, R148) -/

/-- F_S, F_O and the output zero point. -/
structure AtScale where
  fs  : FVal
  fo  : FVal
  zpO : Int
  deriving DecidableEq, Repr

/-- The record read and checked; none is SCALE_INVALID. -/
def readAtScale (rd : Nat → Byte) (e : Entry) : Option AtScale := do
  let a := atScale e
  let w (i : Nat) : Word := BitVec.ofNat 64 (ofLE ((List.range 8).map fun k => rd (a + 8 * i + k)))
  let q := fld (w 0) 31 0
  let k := fld (w 0) 63 32
  let v := fld (w 1) 31 0
  let o := fld (w 1) 63 32
  let m := fld (w 2) 31 0
  guard (fld (w 2) 63 41 == 0 && (List.range 5).all fun i => w (i + 3) == 0)
  guard ([q, k, v, o, m].all posNormal32)
  let fs := rne32 (.ofRat (f32 q * f32 k * f32 m))
  let fo := rne32 (.ofRat (f32 v / f32 o))
  guard (isNormal32 fs && isNormal32 fo)
  let zp := signed 9 (fld (w 2) 40 32)
  guard (if fmtFloat (atO e) then zp == 0 else inRange (zpOutRange (atO e)) zp)
  some ⟨fs, fo, zp⟩

/-! ### Sequences and the cache (R145, R146) -/

/-- A sequence entry: key, value and segment bases, position, segment. -/
structure SeqEntry where
  k   : Nat
  v   : Nat
  s   : Nat
  pos : Nat
  seg : Nat
  deriving DecidableEq, Repr

/-- Entry `i` of the sequence table. -/
def readSeq (rd : Nat → Byte) (e : Entry) (i : Nat) : SeqEntry :=
  let a := atSeqOff e + 32 * i
  let w (i : Nat) : Word := BitVec.ofNat 64 (ofLE ((List.range 8).map fun k => rd (a + 8 * i + k)))
  ⟨fld (w 0) 47 0, fld (w 1) 47 0, fld (w 3) 47 0, fld (w 2) 31 0, fld (w 2) 47 32⟩

/-- Address of key `j` of head `h`. -/
def keyAddr (e : Entry) (q : SeqEntry) (h j : Nat) : Nat :=
  q.k + (h * atKblocks e * 128 + j) * atDh e * fmtWidth (atQk e) / 8

/-- Bytes of a value block. -/
def valBlock (e : Entry) : Nat := 128 * atDh e * fmtWidth (atV e) / 8

/-- Address of value element `d` of key `j` of head `h`. -/
def valAddr (e : Entry) (q : SeqEntry) (h j d : Nat) : Nat :=
  q.v + (h * atKblocks e + j / 128) * valBlock e + (d * 128 + j % 128) * fmtWidth (atV e) / 8

/-- Query rows. -/
def atNq (e : Entry) : Nat := atHq e * atQrows e

/-- Positions alone allow key `j` for query row `r` (R150). -/
def posAllowed (e : Entry) (q : SeqEntry) (r j : Nat) : Bool :=
  let p := q.pos + r % atQrows e
  (!(atMask e == 1 || atMask e == 3) || decide (j ≤ p)) && (atWindow e == 0 || decide (p < j + atWindow e))

/-- Segment masking is on. -/
def segMask (e : Entry) : Bool := decide (2 ≤ atMask e)

/-- The segment number of a query row. -/
def querySeg (rd : Nat → Byte) (e : Entry) (r : Nat) : Nat :=
  (rd (atSegQ e + 2 * r)).toNat + 256 * (rd (atSegQ e + 2 * r + 1)).toNat

/-- What a part of an ATTEND step works on: its hearth, context, descriptor and sequence; `detect`: failed checks are let through
(R304). -/
structure AtJob where
  part : Part4
  e    : Entry
  sq   : SeqEntry
  rd   : Nat → Byte
  unit : Reader
  ctx  : Nat
  detect : Bool

/-- A block fetched: its number, keys by row, values by element, and which pairs are allowed. -/
structure Blk where
  no   : Nat
  keys : List (List FVal)
  vals : List (List FVal)
  ok   : List (List Bool)
  deriving DecidableEq, Repr

/-- Bytes read of a cache region, counted (R161). -/
def cacheRead (c : AtJob) (va n : Nat) (s : State) : Except FaultClass (List Byte) × State :=
  match vread c.unit c.ctx va n s with
  | (.ok bs, s) => (.ok bs, bumpAtt c.part.phys 3 n s)
  | (.error f, s) => (.error f, s)

/-- The pairs of a block that positions allow, by query row (R150). -/
def posRows (c : AtJob) (b : Nat) : List (List Bool) :=
  (List.range (atNq c.e)).map fun r => (List.range 128).map fun j => posAllowed c.e c.sq r (128 * b + j)

/-- Of those pairs the ones whose segment numbers match, from the block's segment bytes (R150). -/
def segRows (c : AtJob) (rows : List (List Bool)) (bs : List Byte) : List (List Bool) :=
  (List.range (atNq c.e)).map fun r => (List.range 128).map fun j =>
    (rows.getD r []).getD j false && ofLE (slice bs (2 * j) 2) == querySeg c.rd c.e r

/-- The pairs of a block that R150 allows, by query row. Under SEGMENT the block's segment numbers are read, unless positions
already skip it (R151). -/
def blockAllowed (c : AtJob) (b : Nat) (s : State) : Except FaultClass (List (List Bool)) × State :=
  if !segMask c.e || !((posRows c b).any fun r => r.any id) then (.ok (posRows c b), s)
  else
    match cacheRead c (c.sq.s + 256 * b) 256 s with
    | (.error f, s) => (.error f, s)
    | (.ok bs, s) => (.ok (segRows c (posRows c b) bs), s)

/-- A block from the bytes of its keys and values. -/
def blkOf (c : AtJob) (b : Nat) (rows : List (List Bool)) (ks vs : List Byte) : Blk :=
  let d := atDh c.e
  ⟨b, (List.range 128).map fun j => atBytes ks (j * d * fmtWidth (atQk c.e) / 8) (atQk c.e) d,
   (List.range d).map fun i => atBytes vs (i * 128 * fmtWidth (atV c.e) / 8) (atV c.e) 128, rows⟩

/-- The bytes of a block's keys. -/
def keyBlock (e : Entry) : Nat := 128 * atDh e * fmtWidth (atQk e) / 8

/-- Block `b`'s keys, then its values read. -/
def readBlock (c : AtJob) (b : Nat) (rows : List (List Bool)) (s : State) : Except FaultClass (Option Blk) × State :=
  match cacheRead c (keyAddr c.e c.sq (atKvhead c.e) (128 * b)) (keyBlock c.e) s with
  | (.error f, s) => (.error f, s)
  | (.ok ks, s) =>
    match cacheRead c (valAddr c.e c.sq (atKvhead c.e) (128 * b) 0) (valBlock c.e) s with
    | (.error f, s) => (.error f, s)
    | (.ok vs, s) => (.ok (some (blkOf c b rows ks vs)), s)

/-- Block `b` fetched; none when it is skipped (R151). -/
def fetchBlock (c : AtJob) (b : Nat) (s : State) : Except FaultClass (Option Blk) × State :=
  match blockAllowed c b s with
  | (.error f, s) => (.error f, s)
  | (.ok rows, s) =>
    if !(rows.any fun r => r.any id) then (.ok none, bumpAtt c.part.phys 1 1 s) else readBlock c b rows s

/-- The blocks in increasing number, each not skipped one folded in; the first fault ends the fold. -/
def foldBlocks {α : Type} (c : AtJob) (f : Blk → α → Except FaultClass α) (skip : Nat → α → α) :
    List Nat → α → State → Except FaultClass α × State
  | [], a, s => (.ok a, s)
  | b :: t, a, s =>
    match fetchBlock c b s with
    | (.error e, s) => (.error e, s)
    | (.ok none, s) => foldBlocks c f skip t (skip b a) s
    | (.ok (some blk), s) =>
      match f blk a with
      | .error e => (.error e, s)
      | .ok a => foldBlocks c f skip t a (bumpAtt c.part.phys 0 1 s)

/-! ### Scores (R148) -/

/-- The score product of a query row and a key row, before its factor. -/
def scoreValue (e : Entry) (q k : List FVal) : FVal :=
  if fmtInt (atQk e) then
    FVal.ofRat (wrap36 (((q.zip k).map fun p => (p.1.toRat * p.2.toRat).floor).foldl (· + ·) 0))
  else dotExact q k

/-- The score of a query row and a key row. -/
def scoreOf (e : Entry) (fs : FVal) (q k : List FVal) : FVal := mul32 (scoreValue e q k) fs

/-- The checks of the score product of a block fail, the query bank stationary (R157): R95 for integers, R96 for floats. -/
def scoreFails (e : Entry) (qs : List (List FVal)) (b : Blk) : Bool :=
  let out := b.keys.map fun k => qs.map fun q => scoreValue e q k
  if fmtInt (atQk e) then
    let ints (l : List (List FVal)) : List (List Int) := l.map fun r => r.map fun v => v.toRat.floor
    !checks95 0 (ints b.keys) (ints qs) (ints out)
  else productFails b.keys qs out none

/-- Scores of a row's allowed keys in a block, by key; none when one is not finite. -/
def rowScores (e : Entry) (fs : FVal) (q : List FVal) (b : Blk) (r : Nat) : Option (List (Option FVal)) :=
  (List.range 128).mapM fun j =>
    if !((b.ok.getD r []).getD j false) then some none
    else
      let s := scoreOf e fs q (b.keys.getD j [])
      if s.nonfinite then none else some (some s)

/-! ### FORWARD (R149, R152) -/

/-- What runs through the blocks for one query row: m, l and O. -/
structure RowSt where
  m : FVal
  l : FVal
  o : List FVal
  deriving DecidableEq, Repr

/-- The greater of two values; a tie keeps the first. -/
def maxF (a b : FVal) : FVal := if a.lt b then b else a

/-- What one block gives a query row with an allowed key: the new maximum, the rescaling, p and q by key (R149). -/
structure Weights where
  mn : FVal
  c  : FVal
  p  : List (Option FVal)
  q  : List (Option FVal)
  deriving DecidableEq, Repr

/-- The weights of a row in a block; none when the block has no allowed key for it. -/
def weightsOf (e : Entry) (sc : List (Option FVal)) (x : RowSt) : Option Weights :=
  let live := sc.filterMap id
  if live.isEmpty then none
  else
    let mn := live.foldl maxF x.m
    let p := sc.map fun s => s.map fun s => exp2 (sub32 s mn)
    some ⟨mn, exp2 (sub32 x.m mn), p, p.map fun v => v.map fun v => decodeFloat (atP e) (writeFloat (atP e) none v).1⟩

/-- P[d] of R149: the value product of a row's weights. -/
def valueSum (b : Blk) (w : Weights) (d : Nat) : FVal :=
  let pairs := (w.q.zip (b.vals.getD d [])).filterMap fun t => t.1.map fun v => (v, t.2)
  dotExact (pairs.map (·.1)) (pairs.map (·.2))

/-- One block folded into a query row (R149). -/
def forwardRow (e : Entry) (b : Blk) (w : Option Weights) (x : RowSt) : RowSt :=
  match w with
  | none => x
  | some w =>
    ⟨w.mn, add32 (mul32 x.l w.c) (sum32 (w.p.filterMap id)),
     (List.range (atDh e)).map fun d => add32 (mul32 (x.o.getD d .zero) w.c) (valueSum b w d)⟩

/-- The checks of the value product of a block fail, the weights stationary (R157). -/
def valueFails (e : Entry) (b : Blk) (ws : List Weights) : Bool :=
  productFails b.vals (ws.map fun w => w.q.map fun v => v.getD .zero)
    ((List.range (atDh e)).map fun d => ws.map fun w => valueSum b w d) none

/-- One block folded into every query row; beside the rows, whether a check failed and was let through (R304). -/
def forwardBlock (c : AtJob) (sc : AtScale) (qs : List (List FVal)) (b : Blk) (xs : List RowSt × Bool) :
    Except FaultClass (List RowSt × Bool) :=
  match (List.range xs.1.length).mapM fun r => rowScores c.e sc.fs (qs.getD r []) b r with
  | none => .error .attendNonfinite
  | some ss =>
    let ws := (ss.zip xs.1).map fun t => weightsOf c.e t.1 t.2
    let bad := scoreFails c.e qs b || valueFails c.e b (ws.filterMap id)
    if bad && !c.detect then .error .attendCheck
    else .ok ((ws.zip xs.1).map fun t => forwardRow c.e b t.1 t.2, xs.2 || bad)

/-- A row's output values and how many saturated; an empty row is +0, ZP_O in an integer format (R152). -/
def forwardOut (e : Entry) (sc : AtScale) (x : RowSt) : List Byte × Nat :=
  let cs := x.o.map fun o =>
    let y := match exactMul o sc.fo, x.l with
      | .fin n m, .fin _ l => if l = 0 then FVal.zero else FVal.fin n (m / l)
      | v, _ => v
    writeValue (atO e) sc.zpO none y
  (packElems (fmtWidth (atO e)) (cs.map (·.1)), (cs.filter (·.2)).length)

/-- A row that no key was allowed for. -/
def RowSt.empty (x : RowSt) : Bool := x.m == .inf true

/-- What an ATTEND step that ends well writes, the values it saturated, its empty rows, and whether a check was let through. -/
structure AtOut where
  writes  : List (Nat × List Byte)
  sats    : Nat
  empty   : Nat
  checked : Bool
  deriving DecidableEq, Repr

/-- An ATTEND step's outcome. -/
abbrev AtRes := Except FaultClass AtOut

/-- Query tile rows, padded to 64 bytes each (R143). -/
def queryRows (rd : Nat → Byte) (e : Entry) : List (List FVal) :=
  let pitch := ceilDiv (packedBytes (atDh e) (fmtWidth (atQk e))) 64 * 64
  (List.range (atNq e)).map fun r => atRow rd (atQoff e + r * pitch) (atQk e) (atDh e)

/-- Stride of an output row. -/
def outPitch (e : Entry) : Nat := ceilDiv (packedBytes (atDh e) (fmtWidth (atO e))) 16 * 16

/-- What FORWARD writes and counts from the final rows. Bytes between a row's end and its stride are no padding of R104 and stay
unspecified (DESIGN CHOICE, log 49). -/
def forwardRes (e : Entry) (sc : AtScale) (xs : List RowSt) (bad : Bool) : AtOut :=
  let outs := xs.map (forwardOut e sc)
  let rows := (List.range outs.length).map fun r => (atOoff e + r * outPitch e, (outs.getD r ([], 0)).1)
  let stats := if atStats e then
      (List.range xs.length).map fun r =>
        let x := xs.getD r ⟨.zero, .zero, []⟩
        (atStat e + 8 * r, bytes32 x.m ++ bytes32 x.l)
    else []
  ⟨rows ++ stats, (outs.map (·.2)).foldl (· + ·) 0, (xs.filter RowSt.empty).length, bad⟩

/-- The rows before the first block. -/
def forwardInit (e : Entry) : List RowSt := List.replicate (atNq e) ⟨.inf true, .zero, List.replicate (atDh e) .zero⟩

/-- FORWARD on one hearth over some of its blocks. -/
def forward (c : AtJob) (sc : AtScale) (blocks : List Nat) (s : State) : AtRes × State :=
  match foldBlocks c (forwardBlock c sc (queryRows c.rd c.e)) (fun _ a => a) blocks (forwardInit c.e, false) s with
  | (.error f, s) => (.error f, s)
  | (.ok xs, s) => (.ok (forwardRes c.e sc xs.1 xs.2), s)

/-! ### BACKWARD (R156) -/

/-- What runs through the blocks: dQ, the writes of dK and dV, and whether a check failed and was let through. -/
structure BackSt where
  dq     : List (List FVal)
  writes : List (Nat × List Byte)
  bad    : Bool
  deriving DecidableEq, Repr

/-- What BACKWARD reads of its firebox: Q, dO, D, m, l of each row, rows that have an allowed key, and start bytes. -/
structure BackIn where
  q     : List (List FVal)
  dO    : List (List FVal)
  dsum  : List FVal
  m     : List FVal
  l     : List FVal
  live  : List Bool
  start : Nat → List Byte

/-- A row of FP32 bytes. -/
def row32 (l : List FVal) : List Byte := l.flatMap bytes32

/-- FP32 values of a row of bytes. -/
def vals32 (bs : List Byte) (n : Nat) : List FVal := atBytes bs 0 15 n

/-- dK and dV rows of a block that is not computed: their start values. -/
def backSkip (e : Entry) (i : BackIn) (b : Nat) (x : BackSt) : BackSt :=
  let w := 4 * atDh e
  let row (off j : Nat) := (off + j * w, i.start (off + j * w))
  { x with writes := x.writes ++ (List.range 128).flatMap fun k => [row (atDk e) (128 * b + k), row (atDv e) (128 * b + k)] }

/-- The value row of key `j` of a block. -/
def Blk.val (b : Blk) (d j : Nat) : List FVal := (List.range d).map fun k => (b.vals.getD k []).getD j .zero

/-- P(r, j) and G(r, j) of a pair. -/
def pairPG (i : BackIn) (b : Blk) (d r j : Nat) (s : Option FVal) : FVal × FVal :=
  let p := match s with
    | some s => div32 (expOf (sub32 s (i.m.getD r .zero))) (i.l.getD r .zero)
    | none => .zero
  let dp := dotExact (i.dO.getD r []) (b.val d j)
  (p, mul32 p (sub32 dp (i.dsum.getD r .zero)))

/-- P and G of the rows that count, by row and key. -/
abbrev PairRows := List (Nat × List (FVal × FVal))

/-- The start values of row `j` of a block in dK or dV. -/
def startRow (c : AtJob) (i : BackIn) (b : Blk) (off j : Nat) : List FVal :=
  vals32 (i.start (off + (128 * b.no + j) * 4 * atDh c.e)) (atDh c.e)

/-- Row `j` of a gradient: its start values and the block's sum over the rows (R156). -/
def gradRow (c : AtJob) (i : BackIn) (b : Blk) (pg : PairRows) (off : Nat) (pick : FVal × FVal → FVal)
    (src : List (List FVal)) (j : Nat) : List FVal :=
  (List.range (atDh c.e)).map fun k =>
    add32 ((startRow c i b off j).getD k .zero)
      (dotExact (pg.map fun t => pick (t.2.getD j (.zero, .zero))) (pg.map fun t => (src.getD t.1 []).getD k .zero))

/-- dQ of row `r` after a block. -/
def dqRow (c : AtJob) (b : Blk) (pg : PairRows) (old : List FVal) (r : Nat) : List FVal :=
  match pg.find? fun t => t.1 == r with
  | none => old
  | some t => (List.range (atDh c.e)).map fun k =>
      add32 (old.getD k .zero) (dotExact (t.2.map (·.2)) (b.keys.map fun y => y.getD k .zero))

/-- A check of the products of a block fails (R157): the scores, dP, dV, dK and dQ. -/
def backFails (c : AtJob) (i : BackIn) (b : Blk) (pg : PairRows) (x : BackSt) : Bool :=
  let d := atDh c.e
  let keys := List.range 128
  let dO := pg.map fun t => i.dO.getD t.1 []
  let grad (off : Nat) (pick : FVal × FVal → FVal) (src : List (List FVal)) : Bool :=
    productFails (keys.map fun j => pg.map fun t => pick (t.2.getD j (.zero, .zero)))
      ((List.range d).map fun k => pg.map fun t => (src.getD t.1 []).getD k .zero)
      (keys.map (gradRow c i b pg off pick src)) (some (keys.map (startRow c i b off)))
  scoreFails c.e i.q b
    || productFails (keys.map (b.val d)) dO (keys.map fun j => dO.map fun o => dotExact o (b.val d j)) none
    || grad (atDv c.e) (·.1) i.dO || grad (atDk c.e) (·.2) i.q
    || productFails (pg.map fun t => t.2.map (·.2)) ((List.range d).map fun k => b.keys.map fun y => y.getD k .zero)
        (pg.map fun t => dqRow c b pg (x.dq.getD t.1 []) t.1) (some (pg.map fun t => x.dq.getD t.1 []))

/-- One block of BACKWARD. A row with no allowed key in the capacity contributes nothing. -/
def backBlock (c : AtJob) (sc : AtScale) (i : BackIn) (b : Blk) (x : BackSt) : Except FaultClass BackSt :=
  let e := c.e
  let d := atDh e
  match (List.range (atNq e)).mapM fun r => rowScores e sc.fs (i.q.getD r []) b r with
  | none => .error .attendNonfinite
  | some ss =>
    let rows := (List.range (atNq e)).filter fun r => i.live.getD r false
    let pg : PairRows := rows.map fun r => (r, (List.range 128).map fun j => pairPG i b d r j ((ss.getD r []).getD j none))
    let rowsOf (off : Nat) (pick : FVal × FVal → FVal) (src : List (List FVal)) := (List.range 128).map fun j =>
      (off + (128 * b.no + j) * 4 * d, row32 (gradRow c i b pg off pick src j))
    let bad := backFails c i b pg x
    if bad && !c.detect then .error .attendCheck
    else .ok ⟨(List.range (atNq e)).map fun r => dqRow c b pg (x.dq.getD r []) r,
      x.writes ++ rowsOf (atDv e) (·.1) i.dO ++ rowsOf (atDk e) (·.2) i.q, x.bad || bad⟩

/-- Query rows with an allowed key somewhere in the capacity: by positions, and by segments where they mask. -/
def liveRows (c : AtJob) (s : State) : Except FaultClass (List Bool) × State :=
  let none_ := List.replicate (atNq c.e) false
  (List.range (atKblocks c.e)).foldl (fun acc b =>
    match acc with
    | (.error f, s) => (.error f, s)
    | (.ok l, s) =>
      match blockAllowed c b s with
      | (.error f, s) => (.error f, s)
      | (.ok rows, _) => (.ok ((l.zip rows).map fun t => t.1 || t.2.any id), s)) (.ok none_, s)

/-- Start bytes of a range of `4 * d` bytes: what stands there under ACC_IN, else zeros. -/
def backStart (c : AtJob) (off : Nat) : List Byte :=
  if atAccIn c.e then (List.range (4 * atDh c.e)).map fun i => c.rd (atDest c.e * 4096 + off + i)
  else List.replicate (4 * atDh c.e) 0

/-- What BACKWARD reads of its firebox. -/
def backIn (c : AtJob) (live : List Bool) : BackIn :=
  let e := c.e
  let d := atDh e
  let n := atNq e
  let dO := (List.range n).map fun r => atRow c.rd (atDo e + r * outPitch e) (atO e) d
  let o := (List.range n).map fun r => atRow c.rd (atOin e + r * outPitch e) (atO e) d
  let stat (k r : Nat) : FVal := decodeFloat 15 (ofLE ((List.range 4).map fun i => c.rd (atStatIn e + 8 * r + 4 * k + i)))
  ⟨queryRows c.rd e, dO, (List.range n).map fun r => dotExact (dO.getD r []) (o.getD r []),
    (List.range n).map (stat 0), (List.range n).map (stat 1), live, backStart c⟩

/-- dQ before the first block. -/
def backInit (c : AtJob) : BackSt :=
  ⟨(List.range (atNq c.e)).map fun r => vals32 (backStart c (atDq c.e + r * 4 * atDh c.e)) (atDh c.e), [], false⟩

/-- What BACKWARD writes: dQ, then dK and dV. -/
def backRes (c : AtJob) (live : List Bool) (x : BackSt) : List (Nat × List Byte) :=
  ((List.range (atNq c.e)).map fun r => (atDq c.e + r * 4 * atDh c.e,
    if live.getD r false then row32 (x.dq.getD r []) else backStart c (atDq c.e + r * 4 * atDh c.e))) ++ x.writes

/-- BACKWARD's blocks folded. -/
def backBlocks (c : AtJob) (sc : AtScale) (live : List Bool) (i : BackIn) (blocks : List Nat) (s : State) : AtRes × State :=
  match foldBlocks c (backBlock c sc i) (backSkip c.e i) blocks (backInit c) s with
  | (.error f, s) => (.error f, s)
  | (.ok x, s) => (.ok ⟨backRes c live x, 0, 0, x.bad⟩, s)

/-- BACKWARD on one hearth over some of its blocks. -/
def backward (c : AtJob) (sc : AtScale) (blocks : List Nat) (s : State) : AtRes × State :=
  match liveRows c s with
  | (.error f, s) => (.error f, s)
  | (.ok live, t) => backBlocks c sc live (backIn c live) blocks t

/-! ### The step (R158, R159) -/

/-- The work of a part of an ATTEND step. -/
def atJobOf (q : Part4) (s : State) : AtJob :=
  let e := s.descUnit q.job.q.pricking (stepDesc (s.stepAt q.job.q.pricking q.step))
  let rd := (s.hearth q.phys).byte
  ⟨q, e, readSeq rd e (atSeq e), rd, .unit (.hearth (BitVec.ofNat 5 q.phys)), q.job.q.ctx, s.detectOnly q.hoop⟩

/-- FORWARD or BACKWARD from the values it reads, over the first `n` blocks. -/
def runBlocks (q : Part4) (n : Nat) (s : State) : AtRes × State :=
  let c := atJobOf q s
  match readAtScale c.rd c.e with
  | none => (.error .scaleInvalid, s)
  | some sc => if atMode c.e = 2 then backward c sc (List.range n) s else forward c sc (List.range n) s

/-- FORWARD or BACKWARD from the values it reads. -/
def runAttend (q : Part4) (s : State) : AtRes × State := runBlocks q (atKblocks (atJobOf q s).e) s

/-- Rounds that FORWARD or BACKWARD spends on `nb` blocks with every fetch granted in full (R159). -/
def attendRounds (e : Entry) (nb : Nat) : Nat :=
  let qk := ceilDiv (128 * rho2 (atQk e)) 2
  let beta := if atMode e = 2 then qk + 2112
    else qk + ceilDiv (atDh e * max (rho2 (atP e)) (rho2 (atV e))) 2 + 32
  let bb := 128 * atDh e * fmtWidth (atQk e) / 8 + valBlock e + (if segMask e then 256 else 0)
  loadTime (atQk e) + nb * max beta (ceilDiv bb 64) + 256

/-- The bound of an abandoned ATTEND step's rounds: none is stated (log 17). -/
def attendBound : Nat := 2 ^ 40

/-- FORWARD or BACKWARD stops on what its values, its checks or its memory break. -/
def attendFault (q : Part4) (e : Entry) (f : FaultClass) (s : State) : State :=
  abandonPart q (atLanding e) f 0 (stopRounds e f 0 (if f = .scaleInvalid then 16 else attendBound)) s

/-- FORWARD or BACKWARD ends on its hearth: it commits, or is abandoned for what its values or its memory break. Array rounds are
fixed by the descriptor and the blocks run: R159's, and for the waits on fetches a free function of both (R354, log 20). `upset` as
in a pass group. -/
def attendCommit (q : Part4) (upset : Option (FaultClass × Nat)) (s : State) : State :=
  let e := (atJobOf q s).e
  let run0 := Tab.get 0 (s.hearth q.phys).attCtr 0
  let (res, s) := runAttend q s
  match res with
  | .error f => attendFault q e f s
  | .ok o =>
    let nb := Tab.get 0 (s.hearth q.phys).attCtr 0 - run0
    let s := commitPages q.phys (atLanding e) (upsetWrites o.writes upset) s
    let chk := if o.checked then [(FaultClass.attendCheck, 0)] else []
    let s := commitPart q (attendRounds e nb + Config.attendWait e nb) o.sats 0 0 (withUpset chk upset) s
    let s := bumpAtt q.phys 2 o.empty s
    let s := if atMode e = 2 then bumpAtt q.phys 7 1 s else s
    partEnd q.hoop q.step q.pos s

/-- A physical cause or a cut-off stops FORWARD or BACKWARD after some of its blocks: how many is a free value (log 17). -/
def stopAttend (q : Part4) (cls : FaultClass) (s : State) : State :=
  let e := (atJobOf q s).e
  let (n, s) := freeRounds (atKblocks e) s
  match runBlocks q n s with
  | (.error f, s) => attendFault q e f s
  | (.ok _, s) =>
    let (r, s) := freeRounds attendBound s
    abandonPart q (atLanding e) cls 0 r s

/-- ATTEND_COMMIT (R158). -/
def execAttendCommit (hoop : BitVec 4) (step : BitVec 20) (pos : BitVec 3) (fixed : Corrected) (s : State) :
    Host.Outcome State Fault Refusal :=
  .next (match s.part4 [kAttend] hoop.toNat step.toNat pos.toNat with
    | some q => if isAppend q s then s else attendCommit q none (countFixed q.phys fixed s)
    | none => s)

/-! ### APPEND (R153, R154) -/

/-- The output rows of a group by their offsets in the destination range: the rows of its chains in pass order. -/
def groupRows (g : Entry) (ps : List Entry) : List Nat :=
  (ps.filter fun p => !passChain p).flatMap fun p =>
    let n := if grpReduce g = 0 then outRows (passRows p) (grpSeg g) (grpT g) (grpD g) else 1
    (List.range n).map fun o => passOut p + o * grpStride g

/-- The tokens of an APPEND: how many, and the sequence entry and position of each. -/
structure Tokens where
  count : Nat
  entry : Nat → SeqEntry
  pos   : Nat → Nat
  seg   : Nat → Nat

/-- Element codes of a token's row of a head: `first` selects keys or values. -/
def tokenElems (x : Hearth) (g : Entry) (e : Entry) (rows : List Nat) (first t h : Nat) : List Nat :=
  (List.range (atDh e)).map fun d =>
    let i := first + h * atDh e + d
    let (row, col) := if atOrient e = 0 then (t, i) else (i, t)
    elemRead x.byte (grpDest g * 4096 + rows.getD row 0) (fmtWidth (grpOfmt g)) col

/-- Tokens of an APPEND step on its hearth. -/
def tokensOf (c : AtJob) (g : Entry) (rows : List Nat) : Tokens :=
  if atOrient c.e = 0 then
    ⟨rows.length, fun _ => c.sq, fun t => c.sq.pos + t, fun t => querySeg c.rd c.e t⟩
  else
    let en (t : Nat) := readSeq c.rd c.e (atSeq c.e + t)
    ⟨grpN g, en, fun t => (en t).pos, fun t => (en t).seg⟩

/-- The writes of token `t`, in order: keys by head, values by head, the segment number (R154). -/
def tokenWrites (c : AtJob) (x : Hearth) (g : Entry) (rows : List Nat) (tk : Tokens) (t : Nat) :
    List (Nat × List Byte) :=
  let e := c.e
  let q := tk.entry t
  let p := tk.pos t
  let heads := List.range (atHk e)
  let keys := heads.map fun h => (keyAddr e q h p, packElems (fmtWidth (atQk e)) (tokenElems x g e rows (atKfirst e) t h))
  let vals := heads.flatMap fun h =>
    let es := tokenElems x g e rows (atVfirst e) t h
    (List.range (atDh e)).map fun d => (valAddr e q h p d, toLE (fmtWidth (atV e) / 8) (es.getD d 0))
  keys ++ vals ++ (if q.s = 0 then [] else [(q.s + 2 * p, toLE 2 (tk.seg t))])

/-- A list of writes, up to the first fault. -/
def writeAll (r : Reader) (ctx : Nat) : List (Nat × List Byte) → State → Except FaultClass Unit × State
  | [], s => (.ok (), s)
  | (va, bs) :: t, s =>
    match vwrite r ctx va bs s with
    | (.error f, s) => (.error f, s)
    | (.ok (), s) => writeAll r ctx t s

/-- Every destination of a list of writes translates with write permission. -/
def probeAll (r : Reader) (ctx : Nat) : List (Nat × List Byte) → State → Bool × State
  | [], s => (true, s)
  | (va, bs) :: t, s =>
    match vprobe r ctx true (pieces va bs.length) s with
    | (false, s) => (false, s)
    | (true, s) => probeAll r ctx t s

/-- The tokens `t` to `t + n - 1` written; the number written in full, and the fault that stopped them. -/
def writeTokens (c : AtJob) (ws : Nat → List (Nat × List Byte)) : Nat → Nat → State → Nat × Option FaultClass × State
  | 0, t, s => (t, none, s)
  | n + 1, t, s =>
    match writeAll c.unit c.ctx (ws t) s with
    | (.error f, s) => (t, some f, s)
    | (.ok (), s) => writeTokens c ws n (t + 1) s

/-- The bytes of a token made unspecified (R154 step 3). -/
def scrambleToken (c : AtJob) (ws : List (Nat × List Byte)) (s : State) : State :=
  let (k, s) := fresh s
  (writeAll c.unit c.ctx (ws.map fun w => (w.1, (List.range w.2.length).map fun i => Config.freeByte k (w.1 + i))) s).2

/-- An APPEND step faults after its group's commit: `pos` is the lowest position not written in full (R154, R158). -/
def appendFault (q : Part4) (cls : FaultClass) (pos : Nat) (s : State) : State :=
  let s := bumpHearth q.phys 1 1 s
  let s := if isCheck cls then bumpHearth q.phys 3 1 s else s
  let s := if cls = .attendCapacity then bumpAtt q.phys 6 1 s else s
  faultPart q cls (partRecordAt q cls 0 false pos s)

/-- The lowest position of the tokens from `done` on (R154). -/
def Tokens.lowest (tk : Tokens) (done : Nat) : Nat :=
  ((List.range tk.count).drop done).foldl (fun m t => min m (tk.pos t)) (tk.pos done)

/-- The APPEND phase runs: step 1 of R154, then tokens; `stop`: a cause from outside after that many whole tokens. Address generators
that disagree stop it before the token's first write, in a detect-only hoop too: R304 does not name their check. -/
def appendRun (q : Part4) (stop : Option (Nat × FaultClass)) (s : State) : State :=
  let c := atJobOf q s
  let (g, ps) := s.groupOf q.job.q.pricking (atPass c.e)
  let x := s.hearth q.phys
  let rows := groupRows g ps
  let tk := tokensOf c g rows
  let ws := tokenWrites c x g rows tk
  match (List.range tk.count).find? fun t => decide (atKblocks c.e * 128 ≤ tk.pos t) with
  | some t => appendFault q .attendCapacity (tk.pos t) s
  | none =>
    match probeAll c.unit c.ctx ((List.range tk.count).flatMap ws) s with
    | (false, s) => appendFault q .translationFault (tk.lowest 0) s
    | (true, s) =>
      let n := match stop with
        | some (k, _) => min k (tk.count - 1)
        | none => tk.count
      let (done, err, s) := writeTokens c ws n 0 s
      let s := bumpAtt q.phys 4 done s
      match err, stop with
      | some f, _ =>
        let s := scrambleToken c (ws done) (bumpAtt q.phys 5 1 s)
        appendFault q f (tk.lowest done) s
      | none, some (_, f) =>
        let s := if f = .attendCheck then s else scrambleToken c (ws done) (bumpAtt q.phys 5 1 s)
        appendFault q f (tk.lowest done) s
      | none, none => partEnd q.hoop q.step q.pos s

/-- Causes that can stop the APPEND phase (R154). -/
def appendCause (c : FaultClass) : Bool := c == .storeUncorrectable || c == .attendCheck

/-- APPEND_DONE (R154). -/
def execAppendDone (hoop : BitVec 4) (step : BitVec 20) (pos : BitVec 3) (stop : Option (Nat × FaultClass)) (fixed : Corrected)
    (s : State) : Host.Outcome State Fault Refusal :=
  .next (match s.part4 [kAttend] hoop.toNat step.toNat pos.toNat with
    | none => s
    | some q =>
      if !(isAppend q s && groupedPart q s) then s
      else match stop with
        | none => appendRun q none (countFixed q.phys fixed s)
        | some (_, f) => if appendCause f then appendRun q stop (countFixed q.phys fixed s) else s)

/-! ### Abandonment (R99) -/

/-- Causes that a fault of the hardware, not the part's values, can bring to a part of each kind (R99, R138, R157; log 10). -/
def physicalCause (kind : Nat) (group : Bool) (c : FaultClass) : Bool :=
  c == .storeUncorrectable
    || (group && c == .arrayCheck)
    || (kind == kTransform && c == .transformCheck)
    || (kind == kAttend && !group && (c == .attendCheck || c == .dramUncorrectable || c == .dramChannelLost))

/-- The values or the memory of a part stop it without any physical cause. -/
def valueFault (q : Part4) (s : State) : Bool :=
  let stops : GroupRes → Bool
    | .fault _ _ _ _ _ => true
    | .done _ _ _ _ _ => false
  if groupOpen q s then stops (passResult q s)
  else if stepKind (s.stepAt q.job.q.pricking q.step) = kTransform then stops (transformResult q s)
  else (runAttend q s).1.toOption.isNone

/-- A part runs to its end by its own values. -/
def partCommit (q : Part4) (upset : Option (FaultClass × Nat)) (s : State) : State :=
  if groupOpen q s then passCommit q upset s
  else if stepKind (s.stepAt q.job.q.pricking q.step) = kTransform then transformCommit q upset s
  else attendCommit q upset s

/-- A part of any kind stops by a physical cause. -/
def stopPart (q : Part4) (cls : FaultClass) (pass : Nat) (s : State) : State :=
  if groupOpen q s then stopGroup q cls pass s
  else if stepKind (s.stepAt q.job.q.pricking q.step) = kTransform then stopTransform q cls s
  else stopAttend q cls s

/-- A failed check that a detect-only hoop lets through: those of R95 to R98, R138 and R157, not the duplicated write-out of a pass
group (R99, R304). -/
def letThrough (q : Part4) (cls : FaultClass) (writeOut : Bool) (s : State) : Bool :=
  isCheck cls && s.detectOnly q.hoop && !(writeOut && groupOpen q s)

/-- The corrected errors that a part can have met: a pass group and a transform read no DRAM (R90, R140). -/
def partFixed (q : Part4) (fixed : Corrected) (s : State) : Corrected :=
  if groupOpen q s || stepKind (s.stepAt q.job.q.pricking q.step) == kTransform then ⟨fixed.store, []⟩ else fixed

/-- PASS_GROUP_ABANDON: the physical cause stops the part, or is let through; for any other cause, a part that its own values stop,
stops there. -/
def passAbandon (hoop step pos : Nat) (cause : FaultClass) (pass : Nat) (writeOut : Bool) (fixed : Corrected) (s : State) : State :=
  match s.part4 [kPass, kTransform, kAttend] hoop step pos with
  | none => s
  | some q =>
    if isAppend q s && groupedPart q s then s
    else if physicalCause (stepKind (s.stepAt q.job.q.pricking step)) (groupOpen q s) cause then
      let s := countFixed q.phys (partFixed q fixed s) s
      if letThrough q cause writeOut s then partCommit q (some (cause, pass)) s else stopPart q cause pass s
    else if valueFault q s then partCommit q none (countFixed q.phys (partFixed q fixed s) s) else s

/-- PASS_GROUP_ABANDON (R99). -/
def execPassGroupAbandon (hoop : BitVec 4) (step : BitVec 20) (pos : BitVec 3) (cause : FaultClass) (pass : BitVec 8)
    (writeOut : Bool) (fixed : Corrected) (s : State) : Host.Outcome State Fault Refusal :=
  .next (passAbandon hoop.toNat step.toNat pos.toNat cause pass.toNat writeOut fixed s)

end Sys2Proof.Machine
end

