-- ==== Sys2Proof/Machine/Transfer.lean ====
section
/-! DEFINITION. Feature map compression (R162 to R176) and TRANSFER steps (R188 to R191). -/
namespace Sys2Proof.Machine

/-! ### Blocks (R162 to R168) -/

/-- Residual bits of a mode. -/
def cmpBits (mode : Nat) : Nat := if mode = 1 then 5 else 3

/-- Largest shift of a mode. -/
def cmpMax (mode : Nat) : Nat := if mode = 1 then 4 else 6

/-- Bytes of a block. -/
def cmpBytes (mode : Nat) : Nat := if mode = 0 then 64 else if mode = 1 then 48 else 32

/-- Raw values of a format saturate here (R165). -/
def cmpSat (fmt : Nat) (v : Int) : Int := (saturate (intRange fmt) v).1

/-- Residual, decoded value and error of a value under a base and shift (R165). -/
def residual (fmt b s : Nat) (base v : Int) : Int × Int × Int :=
  let q := min (max (rne ((v - base : Int) / ((2 ^ s : Nat) : Rat))) 0) (2 ^ b - 1)
  let d := cmpSat fmt (base + q * 2 ^ s)
  (q, d, if d < v then v - d else d - v)

/-- The block accepts a base and shift: at most two values miss by more than half a step. -/
def accepts (fmt b s : Nat) (base : Int) (v : List Int) : Bool :=
  decide ((v.filter fun x => decide ((2 ^ s : Int) < 2 * (residual fmt b s base x).2.2)).length ≤ 2)

/-- The least value of a list. -/
def leastOf (l : List Int) : Int := l.foldl min (l.headD 0)

/-- u[0], u[1], u[2] of R165. -/
def lowThree (v : List Int) : List Int :=
  let a := leastOf v
  let v1 := v.erase a
  let b := leastOf v1
  [a, b, leastOf (v1.erase b)]

/-- The shift and base that the search of R165 chooses. -/
def chooseBase (fmt mode : Nat) (v : List Int) : Nat × Int :=
  let cands := (List.range (cmpMax mode + 1)).flatMap fun s => (lowThree v).map fun u => (s, u)
  (cands.find? fun c => accepts fmt (cmpBits mode) c.1 c.2 v).getD (cmpMax mode, leastOf v)

/-- The positions of the largest errors, at most two, in decreasing error and then increasing position (R165). -/
def patchSet (e : List Int) : List Nat :=
  let worst (skip : Option Nat) : Option Nat :=
    (List.range e.length).foldl (fun best k =>
      if e.getD k 0 ≤ 0 ∨ some k = skip then best
      else match best with
        | none => some k
        | some b => if e.getD b 0 < e.getD k 0 then some k else best) none
  match worst none with
  | none => []
  | some a => match worst (some a) with
    | none => [a]
    | some b => if a < b then [a, b] else [b, a]

/-- A block written (R162, R164, R165): its bytes, patches and shift. -/
structure Packed where
  bytes   : List Byte
  patches : Nat
  shift   : Nat
  deriving DecidableEq, Repr

/-- The encoder of R165; `raw` are the 64 raw codes. -/
def encodeBlock (fmt mode : Nat) (raw : List Nat) : Packed :=
  if mode = 0 then ⟨raw.map (BitVec.ofNat 8), 0, 0⟩
  else
    let b := cmpBits mode
    let v := raw.map (intRaw fmt)
    let (s, base) := chooseBase fmt mode v
    let r := v.map (residual fmt b s base)
    let ps := patchSet (r.map fun x => x.2.2)
    let q := (List.range 64).map fun k => if ps.contains k then 0 else (r.getD k (0, 0, 0)).1.toNat
    let patch (i : Nat) : Nat := match ps[i]? with
      | some k => k + at_ 6 (raw.getD k 0)
      | none => 0
    let w := intCode fmt base + at_ 8 s + at_ 11 ps.length
      + at_ 24 (q.foldr (fun x acc => x + acc * 2 ^ b) 0) + at_ (24 + 64 * b) (patch 0 + at_ 14 (patch 1))
    ⟨toLE (cmpBytes mode) w, ps.length, s⟩

/-- The decoder of R166; none breaks R168. -/
def decodeBlock (fmt mode : Nat) (bs : List Byte) : Option (List Nat) :=
  if mode = 0 then some (bs.map (·.toNat))
  else
    let b := cmpBits mode
    let w := ofLE bs
    let f (lo n : Nat) : Nat := (w >>> lo) % 2 ^ n
    let pa := 24 + 64 * b
    let s := f 8 3
    let n := f 11 2
    let base := intRaw fmt (f 0 8)
    if n = 3 ∨ cmpMax mode < s ∨ f 13 11 ≠ 0 ∨ f (pa + 28) 12 ≠ 0 ∨ (n < 2 ∧ f (pa + 14) 14 ≠ 0)
        ∨ (n = 0 ∧ f pa 14 ≠ 0) ∨ (n = 2 ∧ f (pa + 14) 6 ≤ f pa 6) then none
    else some ((List.range 64).map fun k =>
      if 1 ≤ n ∧ f pa 6 = k then f (pa + 6) 8
      else if n = 2 ∧ f (pa + 14) 6 = k then f (pa + 20) 8
      else intCode fmt (cmpSat fmt (base + (f (24 + b * k) b : Int) * 2 ^ s)))

/-! ### Ends of a transfer (R188) -/

/-- One end: firebox or virtual, layout, address, strides. -/
structure End where
  box   : Bool
  lay   : Nat
  addr  : Nat
  row   : Nat
  plane : Nat
  deriving DecidableEq, Repr

/-- A relocated address (R57). -/
def relocated (st : Entry) (args : List Word) (a : Nat) : Nat :=
  if stepReloc st then (a + fld (args.getD (stepRelocIdx st) 0) 47 0) % 2 ^ 48 else a

/-- The source of a transfer. -/
def srcEnd (st d : Entry) (args : List Word) : End :=
  ⟨tfSrcBox d, tfSrcLay d, if tfSrcBox d then tfSrc d else relocated st args (tfSrc d), tfSrcRow d, tfSrcPlane d⟩

/-- The destination of a transfer. -/
def dstEnd (st d : Entry) (args : List Word) : End :=
  ⟨tfDstBox d, tfDstLay d, if tfDstBox d then tfDst d else relocated st args (tfDst d), tfDstRow d, tfDstPlane d⟩

/-- The packed groups of a position: address and elements (R124, R125). -/
def groupsAt (x : End) (w ch y xx : Nat) : List (Nat × Nat) :=
  if x.lay = 2 then [(x.addr + y * x.row + xx * x.plane, ch)]
  else
    let bs := blockOf x.lay
    (List.range (ceilDiv ch bs)).map fun b => (x.addr + b * x.plane + y * x.row + xx * (bs * w / 8), bs)

/-- Address of a compressed block (R169). -/
def blockAddr (x : End) (mode c by_ bx : Nat) : Nat := x.addr + c * x.plane + by_ * x.row + bx * cmpBytes mode

/-- Bytes of an end: the part's firebox, or its context's memory. -/
def endRead (q : Part4) (x : End) (a n : Nat) (s : State) : Except FaultClass (List Byte) × State :=
  if x.box then (.ok ((s.hearth q.phys).bytes a n), s)
  else vread (.unit (.hearth (BitVec.ofNat 5 q.phys))) q.job.q.ctx (a % 2 ^ 48) n s

/-- Bytes written at an end. -/
def endWrite (q : Part4) (x : End) (a : Nat) (bs : List Byte) (s : State) : Except FaultClass Unit × State :=
  if x.box then (.ok (), updHearth q.phys (fun h => h.write a bs) s)
  else vwrite (.unit (.hearth (BitVec.ofNat 5 q.phys))) q.job.q.ctx (a % 2 ^ 48) bs s

/-- The raw codes of a list of groups. -/
def readGroups (q : Part4) (x : End) (w : Nat) : List (Nat × Nat) → State → Except FaultClass (List Nat) × State
  | [], s => (.ok [], s)
  | (a, n) :: t, s =>
    match endRead q x a (packedBytes n w) s with
    | (.error f, s) => (.error f, s)
    | (.ok bs, s) =>
      let es := (List.range n).map fun i => elemRead (fun k => bs.getD k 0) 0 w i
      match readGroups q x w t s with
      | (.ok r, s) => (.ok (es ++ r), s)
      | (.error f, s) => (.error f, s)

/-- The codes of the positions in row-major order, up to the first fault. -/
def readPositions (q : Part4) (x : End) (w ch : Nat) : List (Nat × Nat) → State →
    List (List Nat) × Option FaultClass × State
  | [], s => ([], none, s)
  | (y, xx) :: t, s =>
    match readGroups q x w (groupsAt x w ch y xx) s with
    | (.error f, s) => ([], some f, s)
    | (.ok es, s) =>
      let (r, f, s) := readPositions q x w ch t s
      (es.take ch :: r, f, s)

/-- Key of a decoded block. -/
def blkKey (c by_ bx : Nat) : Nat := (by_ * 8192 + bx) * 1024 + c

/-- Compressed blocks read and decoded in order (R166, R168, R170), up to the first fault. -/
def readBlocks (q : Part4) (x : End) (fmt mode : Nat) : List (Nat × Nat × Nat) → Tab (List Nat) → State →
    Tab (List Nat) × Option (FaultClass × Nat) × State
  | [], m, s => (m, none, s)
  | (by_, bx, c) :: t, m, s =>
    match endRead q x (blockAddr x mode c by_ bx) (cmpBytes mode) s with
    | (.error f, s) => (m, some (f, by_), s)
    | (.ok bs, s) =>
      let s := bumpCmp q.half 1 1 s
      match decodeBlock fmt mode bs with
      | none => (m, some (.compressFormat, by_), s)
      | some vs => readBlocks q x fmt mode t (m.set (blkKey c by_ bx) vs) s

/-- The rows of the rectangle that the engine at a position moves (R188): the i-th named hearth in increasing position. -/
def engineRows (st d : Entry) (pos : Nat) : List Nat :=
  if tfSplit d = 0 then List.range (tfH d)
  else
    let i := (stepPositions st).idxOf pos
    (List.range (tfH d)).filter fun y => decide (i * tfSplit d ≤ y) && decide (y < (i + 1) * tfSplit d)

/-- The codes of an engine's rectangle by position in row-major order, and the fault that cut them short. -/
def readRect (q : Part4) (d : Entry) (x : End) (rows : List Nat) (s : State) :
    List (List Nat) × Option FaultClass × State :=
  let w := fmtWidth (tfFmt d)
  let ps := rows.flatMap fun y => (List.range (tfW d)).map fun xx => (tfY d + y, tfX d + xx)
  if x.lay ≠ 3 then readPositions q x w (tfCh d) ps s
  else
    let bys := (rows.map fun y => (tfY d + y) / 8).eraseDups
    let bxs := ((List.range (tfW d)).map fun xx => (tfX d + xx) / 8).eraseDups
    let blocks := bys.flatMap fun b => bxs.flatMap fun bx => (List.range (tfCh d)).map fun c => (b, bx, c)
    let (m, f, s) := readBlocks q x (tfFmt d) (tfCmode d) blocks [] s
    let live := match f with
      | none => ps
      | some (_, b) => ps.filter fun p => decide (p.1 < 8 * b)
    (live.map fun p => (List.range (tfCh d)).map fun c =>
      (Tab.get [] m (blkKey c (p.1 / 8) (p.2 / 8))).getD (8 * (p.1 % 8) + p.2 % 8) 0, f.map (·.1), s)

/-- A unit of writing: its address and bytes, and for a compressed block its patches and shift. -/
structure Unit_ where
  addr  : Nat
  bytes : List Byte
  block : Option (Nat × Nat)
  deriving DecidableEq, Repr

/-- The raw code of a 9-bit FILL: in a 16-bit format its sign goes on, so that a negative zero point reads back (R105, R126). -/
def fillCode (fmt fill : Nat) : Nat := if fmtWidth fmt = 16 then (signed 9 fill % 2 ^ 16).toNat else fill

/-- The writes of an uncompressed destination for one position: padding channels hold FILL, or +0 (R126, R188). -/
def writeUnits (d : Entry) (x : End) (y xx : Nat) (es : List Nat) : List Unit_ :=
  let w := fmtWidth (tfFmt d)
  let fill := if fmtFloat (tfFmt d) then 0 else fillCode (tfFmt d) (tfFill d)
  let gs := groupsAt x w (tfCh d) y xx
  (List.range gs.length).map fun i =>
    let (a, n) := gs.getD i (0, 0)
    let part := (es.drop (i * n)).take n
    ⟨a, packElems w (part ++ List.replicate (n - part.length) fill), none⟩

/-- The writes of a compressed destination: whole blocks, edge positions filled from the nearest inside (R163, R170). -/
def blockUnits (d : Entry) (x : End) (rows : List Nat) (y0 : Nat) (codes : List (List Nat)) : List Unit_ :=
  let n := rows.length
  let wd := tfW d
  (List.range (tfCh d)).flatMap fun c => (List.range (ceilDiv n 8)).flatMap fun b => (List.range (ceilDiv wd 8)).map fun bx =>
    let vs := (List.range 64).map fun k =>
      let y := min (8 * b + k / 8) (n - 1)
      let xx := min (8 * bx + k % 8) (wd - 1)
      (codes.getD (y * wd + xx) []).getD c 0
    let p := encodeBlock (tfFmt d) (tfCmode d) vs
    ⟨blockAddr x (tfCmode d) c (y0 / 8 + b) bx, p.bytes, some (p.patches, p.shift)⟩

/-- The writes of an engine in order. In a firebox the rows of a split land from row 0 (R188). -/
def destUnits (d : Entry) (x : End) (rows : List Nat) (codes : List (List Nat)) : List Unit_ :=
  let y0 := if tfSplit d ≠ 0 ∧ !x.box then rows.headD 0 else 0
  if x.lay = 3 then (if codes.length = rows.length * tfW d then blockUnits d x rows y0 codes else [])
  else (List.range codes.length).flatMap fun i => writeUnits d x (y0 + i / tfW d) (i % tfW d) (codes.getD i [])

/-- Counters of a block written (R176). -/
def countBlock (h : Half) (mode : Nat) (b : Option (Nat × Nat)) (s : State) : State :=
  match b with
  | none => s
  | some (p, sh) =>
    let s := bumpCmp h 2 p (bumpCmp h 0 1 (bumpCmp h 7 (64 - cmpBytes mode) s))
    if mode = 0 then s
    else
      let s := if sh = 0 then bumpCmp h 3 1 s else s
      if sh = cmpMax mode then bumpCmp h 4 1 s else s

/-- One unit written; a compressed block whole or not at all (R170, R189). -/
def unitWrite (q : Part4) (x : End) (u : Unit_) (s : State) : Except FaultClass Unit × State :=
  if u.block.isSome && !x.box then
    vwriteWhole (.unit (.hearth (BitVec.ofNat 5 q.phys))) q.job.q.ctx (u.addr % 2 ^ 48) u.bytes s
  else endWrite q x u.addr u.bytes s

/-- Units written in order, up to the first fault; the number acknowledged. -/
def writeList (q : Part4) (x : End) (mode : Nat) : List Unit_ → Nat → State → Nat × Option FaultClass × State
  | [], n, s => (n, none, s)
  | u :: t, n, s =>
    match unitWrite q x u s with
    | (.error f, s) => (n, some f, s)
    | (.ok (), s) =>
      writeList q x mode t (n + 1) (countBlock q.half mode u.block (bumpXlat q.half 4 u.bytes.length s))

/-- Bytes of a unit that are unspecified. -/
def Unit_.garbled (u : Unit_) (k : Nat) : Unit_ :=
  { u with bytes := (List.range u.bytes.length).map fun i => Config.freeByte k (u.addr + i) }

/-- Writes in flight at a fault: of the units not acknowledged, as many as a free value says hold unspecified bytes (R189). -/
def flightUnits (q : Part4) (x : End) (rest : List Unit_) (s : State) : State :=
  let (k, s) := fresh s
  let n := Config.freePick k % (rest.length + 1)
  forEach (rest.take n) (fun u s => (unitWrite q x (u.garbled k) s).2) s

/-- A transfer's part faults (R75, R189) with its record. -/
def transferFault (q : Part4) (cls : FaultClass) (s : State) : State :=
  let s := if cls = .compressCheck then bumpCmp q.half 6 1 s else if cls = .compressFormat then bumpCmp q.half 5 1 s else s
  faultPart q cls (partRecord q cls 0 false s)

/-- The source address whose read the engine was at when `n` units had been acknowledged. -/
def sourceAt (d : Entry) (x : End) (rows : List Nat) (perPos n : Nat) : Nat :=
  let i := n / max perPos 1
  let y := tfY d + rows.getD (i / max (tfW d) 1) 0
  let xx := tfX d + i % max (tfW d) 1
  if x.lay = 3 then blockAddr x (tfCmode d) 0 (y / 8) (xx / 8)
  else ((groupsAt x (fmtWidth (tfFmt d)) (tfCh d) y xx).headD (x.addr, 0)).1

/-- An uncorrectable error stops a transfer: the class and the unit that reports it follow from where the source lies (R211,
R315); only a firebox error is the hearth's own (R318). -/
def transferEcc (q : Part4) (x : End) (a : Nat) (s : State) : State :=
  if x.box then transferFault q .storeUncorrectable s
  else
    match translate (.unit (.hearth (BitVec.ofNat 5 q.phys))) q.job.q.ctx (a % 2 ^ 48) false s with
    | (none, s) => transferFault q .translationFault s
    | (some pa, s) =>
      let s := eccFaultAt pa s
      match s.openPart q.hoop q.step q.pos with
      | some _ => partFault q.hoop q.step q.pos s
      | none => s

/-- The range of units that a failed comparison can concern when `n` have been acknowledged: the block itself where the transfer
compresses; where it decompresses, every unit of its block row, none of which has been written (R174). -/
def checkSpan (d : Entry) (x : End) (rows : List Nat) (perPos n total : Nat) : Nat × Nat :=
  if x.lay ≠ 3 then (n, n + 1)
  else
    let per := max 1 (perPos * tfW d)
    let by_ := (tfY d + rows.getD (n / per) 0) / 8
    let first := (rows.findIdx fun y => (tfY d + y) / 8 == by_) * per
    (first, min total (first + per * (rows.filter fun y => (tfY d + y) / 8 == by_).length))

/-- The transfer goes on from unit `done` to its end, or to the fault of its source or its writes. -/
def transferRest (q : Part4) (x : End) (mode : Nat) (us : List Unit_) (srcF : Option FaultClass) (s : State) : State :=
  match srcF with
  | some f =>
    let (k, s) := fresh s
    let n := Config.freePick k % (us.length + 1)
    let (done, _, s) := writeList q x mode (us.take n) 0 s
    transferFault q f (flightUnits q x (us.drop done) s)
  | none =>
    let (done, err, s) := writeList q x mode us 0 s
    match err with
    | some f => transferFault q f (flightUnits q x (us.drop done) s)
    | none => partEnd q.hoop q.step q.pos s

/-- A failed comparison of R174: nothing of the block has been written. It stops the transfer; in a detect-only hoop it is recorded,
the block's bytes or values are unspecified, and the transfer goes on, to its own fault if it has one (R168, R304). -/
def checkStop (q : Part4) (d : Entry) (y : End) (us : List Unit_) (srcF : Option FaultClass) (lo hi : Nat) (s : State) : State :=
  let (done, err, s) := writeList q y (tfCmode d) (us.take lo) 0 s
  match err with
  | some f => transferFault q f (flightUnits q y (us.drop done) s)
  | none =>
    if s.detectOnly q.hoop then
      let (k, s) := fresh s
      let bad := ((us.drop lo).take (hi - lo)).map fun u => u.garbled k
      transferRest q y (tfCmode d) (bad ++ us.drop hi) srcF (partRecord q .compressCheck 0 true s)
    else transferFault q .compressCheck s

/-- Causes outside the transfer's values that can stop it (R189): memory errors and, where it compresses, its checks. -/
def transferCause (x y : End) (c : FaultClass) : Bool :=
  c == .storeUncorrectable || c == .dramUncorrectable || (c == .compressCheck && (x.lay == 3 || y.lay == 3))

/-- What an engine of a step moves: its ends, its rows, its units of writing, the fault that cuts its source short. -/
structure Move where
  src  : End
  dst  : End
  rows : List Nat
  per  : Nat
  us   : List Unit_
  srcF : Option FaultClass
  deriving DecidableEq, Repr

/-- The source of an engine read and its units of writing formed (R188). -/
def moveOf (q : Part4) (s : State) : Move × State :=
  let st := s.stepAt q.job.q.pricking q.step
  let d := s.descUnit q.job.q.pricking (stepDesc st)
  let x := srcEnd st d q.job.args
  let y := dstEnd st d q.job.args
  let rows := engineRows st d q.pos
  let (codes, srcF, s) := readRect q d x rows s
  let us := destUnits d y rows codes
  (⟨x, y, rows, us.length / max codes.length 1, us, srcF⟩, s)

/-- A cause from outside stops the engine when `n` units had been acknowledged; a damper writes the record of its cut-off itself
(R270). -/
def stopMove (q : Part4) (d : Entry) (m : Move) (n : Nat) (cls : FaultClass) (s : State) : State :=
  let (done, err, s) := writeList q m.dst (tfCmode d) (m.us.take n) 0 s
  let s := flightUnits q m.dst (m.us.drop done) s
  match err with
  | some f => transferFault q f s
  | none => if cls = .damperCutoff then faultPart q cls s
    else transferEcc q m.src (sourceAt d m.src m.rows m.per done) s

/-- The transfer of an engine runs to its end, or to `stop`: a cause after that many units were acknowledged. -/
def transferRun (q : Part4) (stop : Option (Nat × FaultClass)) (s : State) : State :=
  let d := s.descUnit q.job.q.pricking (stepDesc (s.stepAt q.job.q.pricking q.step))
  let (m, s) := moveOf q s
  match stop with
  | none => transferRest q m.dst (tfCmode d) m.us m.srcF s
  | some (n, c) =>
    if c ≠ .compressCheck then stopMove q d m n c s
    else if m.us.isEmpty then transferRest q m.dst (tfCmode d) m.us m.srcF s
    else
      let r := checkSpan d m.src m.rows m.per (min n (m.us.length - 1)) m.us.length
      checkStop q d m.dst m.us m.srcF r.1 r.2 s

/-- TRANSFER_DONE on an open part of a TRANSFER step. -/
def transferDone (hoop step pos : Nat) (stop : Option (Nat × FaultClass)) (fixed : Corrected) (s : State) : State :=
  match s.part4 [kTransfer] hoop step pos with
  | none => s
  | some q =>
    match stop with
    | none => transferRun q none (countFixed q.phys fixed s)
    | some (_, c) =>
      let st := s.stepAt q.job.q.pricking step
      let d := s.descUnit q.job.q.pricking (stepDesc st)
      if transferCause (srcEnd st d []) (dstEnd st d []) c then transferRun q stop (countFixed q.phys fixed s) else s

/-- TRANSFER_DONE (R191). -/
def execTransferDone (hoop : BitVec 4) (step : BitVec 20) (pos : BitVec 3) (stop : Option (Nat × FaultClass)) (fixed : Corrected)
    (s : State) : Host.Outcome State Fault Refusal := .next (transferDone hoop.toNat step.toNat pos.toNat stop fixed s)

end Sys2Proof.Machine
end

