-- ==== Sys2Proof/Machine/Convert.lean ====
section
/-! DEFINITION. Conversion of pixels to output elements (R244 to R247). -/
namespace Sys2Proof.Machine

/-- Bytes of a line of `w` pixels of an input type (R242); 0 for the types that no line carries. -/
def lineBytes (dt w : Nat) : Nat :=
  match dt with
  | 0 => 2 * w
  | 1 => ceilDiv (5 * w) 2
  | 2 => 3 * w
  | 3 => ceilDiv (3 * w) 2
  | _ => 0

/-- The input type of a CSI-2 data type (R222, R231). -/
def csiType : Nat → Option Nat
  | 0x1E => some 0
  | 0x1F => some 1
  | 0x24 => some 2
  | 0x2C => some 3
  | _ => none

/-- The samples of pixel `x` of a line: luma, Cb, Cr; or red, green, blue; or the raw sample. Packing is CSI-2's (log 11). -/
def lineSamples (dt : Nat) (l : List Byte) (x : Nat) : List Nat :=
  let b (i : Nat) : Nat := (l.getD i 0).toNat
  match dt with
  | 0 =>
    let g := 4 * (x / 2)
    [b (g + 1 + 2 * (x % 2)), b g, b (g + 2)]
  | 1 =>
    let g := 5 * (x / 2)
    let s (i : Nat) : Nat := b (g + i) * 4 + b (g + 4) / 4 ^ i % 4
    [s (1 + 2 * (x % 2)), s 0, s 2]
  | 2 => [b (3 * x + 2), b (3 * x + 1), b (3 * x)]
  | _ =>
    let g := 3 * (x / 2)
    [b (g + x % 2) * 16 + (if x % 2 = 0 then b (g + 2) % 16 else b (g + 2) / 16)]

/-- The samples of pixel (y, x) of a decoded picture of `w` by `h`: NV12, or P010 with bits [15:6] of each sample (R244). -/
def pictureSamples (dt w h : Nat) (bs : List Byte) (y x : Nat) : List Nat :=
  let pitch := 2 * ceilDiv w 2
  let lu := y * w + x
  let cb := w * h + y / 2 * pitch + 2 * (x / 2)
  let at16 (i : Nat) : Nat := ((bs.getD (2 * i) 0).toNat + 256 * (bs.getD (2 * i + 1) 0).toNat) / 64
  let at8 (i : Nat) : Nat := (bs.getD i 0).toNat
  if dt = 5 then [at16 lu, at16 cb, at16 (cb + 1)] else [at8 lu, at8 cb, at8 (cb + 1)]

/-- Bytes of a decoded picture. -/
def pictureBytes (dt w h : Nat) : Nat :=
  (w * h + 2 * ceilDiv w 2 * ceilDiv h 2) * (if dt = 5 then 2 else 1)

/-- A rational quotient of integers. -/
def ratio (a b : Int) : Rat := (a : Rat) / (b : Rat)

/-- The real components of samples (R244). -/
def normOf (dt : Nat) (full : Bool) (s : List Nat) : List Rat :=
  if dt = 2 then s.map fun (x : Nat) => if full then ratio x 255 else ratio ((x : Int) - 16) 219
  else if dt = 3 then s.map fun (x : Nat) => if full then ratio x 4095 else ratio ((x : Int) - 256) 3504
  else
    let n := if dt = 1 ∨ dt = 5 then 10 else 8
    let k : Int := 2 ^ (n - 8)
    let top : Int := 2 ^ n - 1
    let v (i : Nat) : Int := (s.getD i 0 : Nat)
    if full then [ratio (v 0) top, ratio (v 1 - 2 ^ (n - 1)) top, ratio (v 2 - 2 ^ (n - 1)) top]
    else [ratio (v 0 - 16 * k) (219 * k), ratio (v 1 - 128 * k) (224 * k), ratio (v 2 - 128 * k) (224 * k)]

/-- The coefficients of R245. -/
def matrixOf (m : Nat) : List Nat :=
  if m = 0 then [22970, 5638, 11700, 29032] else if m = 1 then [25802, 3069, 7670, 30402] else [24160, 2696, 9361, 30825]

/-- Red, green and blue of a luma and chroma triple (R245). -/
def rgbOf (m : Nat) (v : List Rat) : List Rat :=
  let c (i : Nat) : Rat := ratio ((matrixOf m).getD i 0 : Nat) 16384
  let y := v.getD 0 0
  let cb := v.getD 1 0
  let cr := v.getD 2 0
  [y + c 0 * cr, y - c 1 * cb - c 2 * cr, y + c 3 * cb]

/-- Channels of an output mode. -/
def modeChans (mode : Nat) : Nat := if mode = 0 then 3 else if mode = 1 then 1 else 4

/-- Where red, green of the red row, green of the blue row and blue lie in a quad (R245): (row, column). -/
def cfaPlaces (cfa : Nat) : List (Nat × Nat) :=
  if cfa = 0 then [(0, 0), (0, 1), (1, 0), (1, 1)]
  else if cfa = 1 then [(0, 1), (0, 0), (1, 1), (1, 0)]
  else if cfa = 2 then [(1, 0), (1, 1), (0, 0), (0, 1)]
  else [(1, 1), (1, 0), (0, 1), (0, 0)]

/-- Components of an output position, from the samples of the pixels of its rows; where the spec states none, RGB from RAW12, they
are open values of the line (log 28). `px r x` are the samples of pixel x of the position's row r. -/
def componentsOf (rc : Entry) (px : Nat → Nat → List Nat) (x : Nat) : List Rat :=
  let dt := rcpInDt rc
  let nm := normOf dt (rcpFull rc)
  if rcpOutMode rc = 2 then
    (cfaPlaces (rcpCfa rc)).map fun p => (nm (px p.1 (2 * x + p.2))).getD 0 0
  else if rcpOutMode rc = 1 then [(nm (px 0 x)).getD 0 0]
  else if dt = 2 then nm (px 0 x)
  else if dt = 3 then (List.range 3).map (Config.rawRgb ((List.range (rcpWidth rc)).map fun i => (px 0 i).getD 0 0) x)
  else rgbOf (rcpMatrix rc) (nm (px 0 x))

/-- The output codes of a position (R246). -/
def codesOf (rc : Entry) (px : Nat → Nat → List Nat) (x : Nat) : List Nat :=
  let cs := componentsOf rc px x
  (List.range cs.length).map fun c =>
    let v := (cs.getD c 0 - (decodeFloat 15 (rcpMean rc c)).toRat) * f32 (rcpNscale rc c)
    (writeValue (rcpOutFmt rc) (rcpOutZp rc) none (.ofRat v)).1

/-- Rows and columns of the main tensor. -/
def tensorDims (rc : Entry) : Nat × Nat :=
  if rcpOutMode rc = 2 then (rcpHeight rc / 2, rcpWidth rc / 2) else (rcpHeight rc, rcpWidth rc)

/-- The writes of a position into its buffer: padding channels hold a decoded zero (R126). -/
def positionWrites (rc : Entry) (y x : Nat) (codes : List Nat) : List (Nat × List Byte) :=
  let fmt := rcpOutFmt rc
  let w := fmtWidth fmt
  let fill := if fmtFloat fmt then 0 else intCode fmt (rcpOutZp rc)
  (groupsAt ⟨false, rcpLayout rc, 0, rcpRow rc, rcpPlane rc⟩ w codes.length y x).map fun g =>
    (g.1, packElems w (codes ++ List.replicate (g.2 - codes.length) fill))

/-- Pilot subsample factor. -/
def pilotF (rc : Entry) : Nat := 2 ^ rcpPilotLog rc

/-- Size of a pilot slot, S of R247. -/
def pilotSlot (rc : Entry) : Nat :=
  if rcpOutMode rc = 3 then rcpBytes rc - 64
  else
    let (r, c) := tensorDims rc
    ceilDiv (r / pilotF rc * (c / pilotF rc) * modeChans (rcpOutMode rc)) 64 * 64

/-- The pilot copy of an output row: offset in the slot and bytes; none for a row that the copy leaves out (R247). -/
def pilotRow (rc : Entry) (y : Nat) (codes : List (List Nat)) : Option (Nat × List Byte) :=
  let f := pilotF rc
  let (r, c) := tensorDims rc
  if y % f ≠ 0 ∨ r / f ≤ y / f then none
  else
    let ch := modeChans (rcpOutMode rc)
    some (y / f * (c / f) * ch, (List.range (c / f)).flatMap fun x => (codes.getD (f * x) []).map (BitVec.ofNat 8))

end Sys2Proof.Machine
end

