-- ==== Sys2Proof/Machine/Frames.lean ====
section
/-! DEFINITION. Frames of a route key: settings in force, frame start, buffer writes, pilot copies, the checks at a frame's end
(R230, R234 to R243, R247). -/
namespace Sys2Proof.Machine

/-! FLAGS (R242) -/
def ffCrc : Nat := 1
def ffGap : Nat := 2
def ffBack : Nat := 4
def ffSize : Nat := 8
def ffLink : Nat := 16
def ffOrder : Nat := 32
def ffTrunc : Nat := 64
def ffWrite : Nat := 128
def ffPath : Nat := 256
def ffResync : Nat := 512
def ffNoEmbed : Nat := 1024

/-! ### Settings of a key -/

/-- Route key of a port and selector. -/
def keyOf (port sel : Nat) : Nat := 16 * port + sel

/-- The route in force for a key (R238). -/
def State.routeOf (s : State) (k : Nat) : Entry :=
  match (s.key k).heldRoute with
  | some (r, _) => r
  | none => s.img.entry 10 k

/-- The recipe in force for a key. -/
def State.recipeOf (s : State) (k : Nat) : Entry :=
  match (s.key k).heldRoute with
  | some (_, rc, _) => rc
  | none => s.img.entry 12 (routeRecipe (s.img.entry 10 k))

/-- A decoder entry feeds a key. -/
def decFeeds (e : Entry) (k : Nat) : Bool := decValid e && keyOf (decPort e) (decSel e) == k

/-- The decoder that the decoder table gives a key (R250). -/
def State.tableOwner (s : State) (k : Nat) : Option Nat :=
  (List.range 4).find? fun d => s.dev.imageValid && decFeeds (s.img.entry 14 d) k

/-- The decoder that owns a key: the one before an agreement until the key's next frame start (R238, R250). -/
def State.decOwner (s : State) (k : Nat) : Option Nat :=
  match (s.key k).heldRoute with
  | some (_, _, _, o) => o
  | none => s.tableOwner k

/-- The table entry in force for a decoder (R238). -/
def State.decEntry (s : State) (d : Nat) : Entry := (s.dec d).held.getD (s.img.entry 14 d)

/-- The sensor of a key and its serial: a camera port IDENTIFIED, or a discovered lidar sensor. -/
def State.sensor (s : State) (k : Nat) : Option Word :=
  if k / 16 < 24 then
    let p := s.port (k / 16)
    if p.link = 3 then some (wordAt p.identity 16) else none
  else (s.key k).lidar

/-- The key's sensor is present when a commit falls (R239): discovered on that selector, or a decoder. -/
def State.sourcePresent (s : State) (k : Nat) : Bool :=
  (s.decOwner k).isSome
    || (if k / 16 < 24 then (s.port (k / 16)).link == 3 && (s.port (k / 16)).found.contains (k % 16)
        else (s.key k).lidar.isSome)

/-- A serial satisfies a route's EXPECT_SERIAL. -/
def serialOk (r : Entry) (serial : Word) : Bool := routeSerial r == 0 || routeSerial r == serial

/-- A route of the port refuses a serial. -/
def State.mismatched (s : State) (port sel : Nat) (serial : Word) : Bool :=
  let r := s.routeOf (keyOf port sel)
  s.dev.imageValid && routeValid r && !serialOk r serial

/-- A present sensor of the port differs from an EXPECT_SERIAL (R254). -/
def State.portMismatch (s : State) (n : Nat) : Bool :=
  (List.range 16).any fun i => match s.sensor (keyOf n i) with
    | some v => s.mismatched n i v
    | none => false

/-! ### Control writes (R20) -/

/-- Control writes reach the common strip: the leading half's path stands. -/
def State.controlOk (s : State) : Bool := (s.half s.dev.leader).pathOk

/-- A control write of the leading fireguard: with its own half's path down it comes through the other path, is dropped and counted
there, and is repeated until the leading half's path takes it (R20; log 24). -/
def controlWrite (s : State) : State :=
  if s.controlOk then s
  else updHalf s.dev.leader.other (fun u => { u with ctrlDropped := satAdd 0xFFFF u.ctrlDropped 1 }) s

/-- Live frames of a key are not taken in: replay runs, or a decoder owns the key (R235, R250, R364). -/
def State.stray (s : State) (k : Nat) : Bool := s.rec_.mode == .replay || (s.decOwner k).isSome

/-- The half that owns a context. -/
def State.ctxHalf (s : State) (ctx : Nat) : Half := s.hoopHome (ctxHoop (s.img.entry 6 ctx))

/-! ### Frame updates -/

/-- The open frame of a key changed. -/
def updFrame (k : Nat) (f : Frame → Frame) : State → State := updKey k fun x => { x with frame := x.frame.map f }

/-- A flag of the open frame set. -/
def setFlag (k flag : Nat) : State → State := updFrame k fun f => { f with flags := f.flags ||| flag }

/-- The next frame of a key carries RESYNC, and no previous counter or time counts (R225, R242). -/
def setResync (k : Nat) : State → State :=
  updKey k fun x => { x with resync := true, prevCtr := none, prevTime := none }

/-- A live frame that is not taken in: counted (R235). -/
def strayStart (k : Nat) (s : State) : State := bumpPort (k / 16) 3 1 (bumpPort (k / 16) 0 1 s)

/-! ### Writes (R235, R247) -/

/-- Bytes written into a frame buffer through the port's cache: whether the write went through; BYTES_WRITTEN counts it. -/
def bufWrite (k ctx va : Nat) (bs : List Byte) (s : State) : Bool × State :=
  match vwrite (.unit (.port (BitVec.ofNat 5 (k / 16)))) ctx va bs s with
  | (.ok (), s) => (true, bumpPort (k / 16) 7 bs.length s)
  | (.error _, s) => (false, s)

/-- Bytes written at an offset of the open frame's buffer; a fault sets WRITE_FAULT (R242). -/
def bufFlag (k : Nat) (f : Frame) (off : Nat) (bs : List Byte) (s : State) : State :=
  let p := bufWrite k f.ctx (f.buffer + off) bs s
  if p.1 then p.2 else setFlag k ffWrite p.2

/-- Bytes of the main tensor written for the open frame; a path that is down leaves them unwritten with PATH_DOWN, a fault sets
WRITE_FAULT (R21, R242). -/
def mainWrite (k : Nat) (f : Frame) (writes : List (Nat × List Byte)) (s : State) : State :=
  if !(s.half (s.ctxHalf f.ctx)).pathOk then setFlag k ffPath s
  else forEach writes (fun w => bufFlag k f w.1 w.2) s

/-- Bytes written into a pilot's local store. -/
def localWrite (h : Half) (off : Nat) (bs : List Byte) (s : State) : State :=
  match h with
  | .west => { s with mem := { s.mem with local0 := s.mem.local0.writeN off bs } }
  | .east => { s with mem := { s.mem with local1 := s.mem.local1.writeN off bs } }

/-- A pilot can receive its copy: its half's path is up and the half is not under reset (R21). -/
def State.pilotPath (s : State) (h : Half) : Bool := (s.half h).pathOk && !(s.half h).underReset

/-- Bytes of a pilot copy written through both paths at an offset of the frame's slot (R247). -/
def pilotWrite (k : Nat) (f : Frame) (off : Nat) (bs : List Byte) (s : State) : State :=
  if !routePilot f.route then s
  else
    let base := routePilotOff f.route + f.seq.toNat % 2 * pilotSlot f.recipe + off
    let w := s.pilotPath .west
    let e := s.pilotPath .east
    let s := if w then localWrite .west base bs s else s
    let s := if e then localWrite .east base bs s else s
    updFrame k (fun f => { f with pilotW := f.pilotW && w, pilotE := f.pilotE && e }) s

/-- An output row of the main tensor written, and its pilot copy (R244 to R247). -/
def putRow (k : Nat) (f : Frame) (y : Nat) (px : Nat → Nat → List Nat) (s : State) : State :=
  let (_, cols) := tensorDims f.recipe
  let codes := (List.range cols).map (codesOf f.recipe px)
  let writes := (List.range cols).flatMap fun x => positionWrites f.recipe y x (codes.getD x [])
  let s := mainWrite k f writes s
  match pilotRow f.recipe y codes with
  | some (off, bs) => pilotWrite k f off bs s
  | none => s

/-- Bytes of COPY mode written consecutively; those beyond the buffer are dropped (R241, R246). `pilot`: this unit belongs to the
pilot copy. -/
def putCopy (k : Nat) (f : Frame) (bs : List Byte) (pilot : Bool) (s : State) : State :=
  let room := rcpBytes f.recipe - 64 - f.bytes
  let part := bs.take room
  let s := if part.isEmpty then s else mainWrite k f [(f.bytes, part)] s
  let copy := if pilot then bs.take (pilotSlot f.recipe - f.pilotBytes) else []
  let s := if copy.isEmpty then s else pilotWrite k f f.pilotBytes copy s
  updFrame k (fun f => { f with bytes := f.bytes + part.length, pilotBytes := f.pilotBytes + copy.length }) s

/-! ### The frame record (R234) -/

/-- A record's bytes from its words 0 to 6 and POSITION: RECORD_CRC last. -/
def recordBytes (words : List Word) (position : Nat) : List Byte :=
  let body := wordsBytes words ++ toLE 4 position
  body ++ toLE 4 (crc32c body).toNat

/-- The FILLING record: fields not known at the frame start are free values (log 25). -/
def Frame.filling (f : Frame) (k : Nat) : List Byte :=
  let free (i : Nat) : Nat := Config.frameField k f.seq i % 2 ^ 64
  recordBytes [w64 (1 + bitTo 2 f.decoded + at_ 8 (free 0 % 2 ^ 11) + at_ 32 (free 1 % 2 ^ 32)), f.seq, w64 (free 2), f.start,
    w64 (free 3), w64 (free 4), w64 (free 5 % 2 ^ 32 + at_ 32 (f.ringGen % 65536))] f.position

/-- A field that did not arrive takes a free value (log 25). -/
def Frame.resolve (f : Frame) (k : Nat) : Frame :=
  let free (i : Nat) : Nat := Config.frameField k f.seq (8 + i)
  { f with counter := some (f.counter.getD (free 0 % 2 ^ 32)), time := some (f.time.getD (w64 (free 1))),
           crcRx := some (f.crcRx.getD (free 2 % 2 ^ 32)), crcCalc := if f.decoded then free 3 % 2 ^ 32 else f.crcCalc }

/-- The COMPLETE record of a resolved frame; of a replayed one, the recorded words but START_TIME, END_TIME and RECORD_CRC
(R365). -/
def Frame.complete (f : Frame) (ended : Word) : List Byte :=
  match f.fed with
  | some r => recordBytes ([0, 1, 2].map (fun i => wordAt r (8 * i)) ++ [f.start, ended] ++ [5, 6].map fun i => wordAt r (8 * i))
      (ofLE (slice r 56 4))
  | none => recordBytes [w64 (2 + bitTo 2 f.decoded + at_ 8 f.flags + at_ 32 (f.counter.getD 0)), f.seq, f.time.getD 0, f.start, ended,
    w64 (f.crcRx.getD 0 + at_ 32 f.crcCalc), w64 (f.units % 2 ^ 32 + at_ 32 (f.ringGen % 65536))] f.position

/-! ### Ends of frames (R240 to R243) -/

/-- The continuity checks of a frame against the previous frame of its key (R240, R241). -/
def continuity (x : Key) (f : Frame) : Nat :=
  match f.counter, f.time, x.prevCtr, x.prevTime with
  | some c, some t, some p, some q =>
    if f.resync then 0
    else (if c = (p + 1) % 2 ^ 32 then 0 else ffGap) + (if q.toNat < t.toNat then 0 else ffBack)
  | _, _, _, _ => 0

/-- What a camera frame's end adds to its flags. -/
def cameraEnd (x : Key) (f : Frame) : Nat :=
  let embed := if f.counter.isNone then ffNoEmbed
    else if f.crcRx = some f.crcCalc then 0 else ffCrc
  let size := if f.routed ∧ rcpOutMode f.recipe ≠ 3 ∧ f.units ≠ rcpHeight f.recipe then ffSize else 0
  embed ||| size ||| continuity x f

/-- A replayed frame closed: its fields are the recorded ones, and a counter that arrived becomes the previous one (R365). -/
def closeFed (x : Key) (f : Frame) (r : List Byte) : Key × Frame :=
  let x := if (frFlags r).testBit 9 then { x with prevCtr := none, prevTime := none } else x
  let got := !(frFlags r).testBit 10
  let known := got || x.prevCtr.isSome
  (if got then { x with prevCtr := some (frCounter r), prevTime := some (frTime r) } else x,
   { f with flags := frFlags r, counter := some (frCounter r), time := some (frTime r), crcRx := some (fld (wordAt r 40) 31 0),
            knot := if known then some (frCounter r) else none })

/-- A live frame closed: its checks; a counter that never arrived follows the previous one (R235). -/
def closeLive (port : Nat) (x : Key) (f : Frame) (extra : Nat) : Key × Frame :=
  let f := if port < 24 then { f with crcCalc := (f.crcState ^^^ 0xFFFFFFFF#32).toNat } else f
  let found := (if port < 24 then cameraEnd x f else continuity x f) ||| extra ||| (if f.resync then ffResync else 0)
  let ctr := match f.counter with
    | some c => some c
    | none => x.prevCtr.map fun p => (p + 1) % 2 ^ 32
  let seen := f.routed && f.counter.isSome
  ({ x with prevCtr := if seen then f.counter else x.prevCtr, prevTime := if seen then f.time else x.prevTime },
   { f with flags := f.flags ||| found, counter := ctr, knot := ctr })

/-- The open frame of a key closed; it awaits its completion. -/
def closeFrame (k extra : Nat) (s : State) : State :=
  match (s.key k).frame with
  | none => s
  | some f =>
    let x := s.key k
    let (x, f) := match f.fed with
      | some r => closeFed x f r
      | none => if f.decoded then (x, { f with flags := f.flags ||| extra }) else closeLive (k / 16) x f extra
    updKey k (fun _ => { x with frame := none, closed := x.closed ++ [f] }) s

/-! ### Frame starts (R234 to R239) -/

/-- Where a frame comes from: a sensor, a decoder at an epoch position, or a recorded frame record with its FETCH_TOTAL (R252, R365). -/
inductive Origin where
  | live
  | decoder (t : Nat)
  | replay (record : List Byte) (fetched : Nat)
  deriving DecidableEq, Repr

/-- The FRAME's SEQ: the next, or the recorded one. -/
def originSeq (o : Origin) (x : Key) : Word :=
  match o with
  | .replay r _ => frSeq r
  | _ => x.seq + 1

/-- In replay a change takes effect at the frame whose SEQ its EFFECTIVE entry names (R367). -/
def State.effectNamed (s : State) (k : Nat) (seq : Word) (agreed : Bool) (rest : Word → Bool) : Bool :=
  s.rec_.effects.any fun b =>
    let w := wordAt b 0
    fld w 4 0 == k / 16 && fld w 8 5 == k % 16 && bitAt w 9 == agreed && wordAt b 8 == seq && rest w

/-- The final reply of a COMMIT_ROUTES (R239). -/
def commitReply (c : Commit) (eff : Word) (detail : Nat) : State → State :=
  replyFinal ⟨c.ring, c.tag, 0x31, c.ctx, c.hoop⟩ stOk eff (w64 detail)

/-- An agreed change of a key falls due at a frame start: its control write has arrived (R20), and in replay the record names this
frame for it (R367). -/
def State.changeDue (s : State) (k : Nat) (seq : Word) : Bool :=
  s.controlOk && (s.rec_.mode != .replay || s.effectNamed k seq true fun w => fld w 63 32 == s.img.agreed)

/-- The decoders that fed a key, or feed it now, take the table's entry (R238). -/
def takeDecoders (k : Nat) (s : State) : State :=
  forEach (List.range 4) (fun d s =>
    if decFeeds (s.decEntry d) k || decFeeds (s.img.entry 14 d) k then updDec d (fun x => { x with held := none }) s else s) s

/-- An agreed change of a key takes effect at its frame start: a change of context, or a removal, empties the ring (R238). It
answers the DETAIL, context and hoop of its event, and the agreement's number. -/
def takeChange (k : Nat) (seq : Word) (s : State) : Option (Nat × Nat × Nat × Nat) × State :=
  match (s.key k).heldRoute with
  | none => (none, s)
  | some (old, _) =>
    if !s.changeDue k seq then (none, s)
    else
      let new := s.img.entry 10 k
      let gone := !routeValid new
      let moved := routeValid old && (gone || routeCtx new != routeCtx old)
      let ctx := if gone then routeCtx old else routeCtx new
      let s := setResync k (updKey k (fun x =>
        { x with heldRoute := none, ring := if moved then [] else x.ring }) (takeDecoders k s))
      let s := updPort (k / 16) (fun p => { p with mismatch := s.portMismatch (k / 16) }) s
      (some (k / 16 + at_ 5 (k % 16) + bitTo 9 gone, ctx, ctxHoop (s.img.entry 6 ctx), s.img.agreed), s)

/-- A ring takes effect for a key: frames go to its buffers from buffer 0 (R234). -/
def takeRing (k ctx : Nat) (bufs : List Nat) : State → State :=
  updKey k fun x => { x with ring := bufs, ringCtx := ctx, ringGen := (x.ringGen + 1) % 65536, since := 0 }

/-- What a frame start does with a commit that waits (R236, R238, R239, R367). -/
inductive CommitFate where
  | waits
  | takes
  | discarded
  | absent
  deriving DecidableEq, Repr

/-- In replay, some EFFECTIVE entry names a commit. -/
def State.commitNamed (s : State) (k ring tag : Nat) : Bool :=
  s.rec_.mode == .replay && s.rec_.effects.any fun b =>
    let w := wordAt b 0
    fld w 4 0 == k / 16 && fld w 8 5 == k % 16 && !bitAt w 9 && fld w 14 10 == ring && fld w 31 16 == tag

/-- The fate of a commit at a frame start. In replay the record decides: a commit that it names takes effect at the frame named; one
that it does not name was discarded, or found its sensor absent, before the first frame that followed it (R367; log 44). -/
def State.commitFate (s : State) (k : Nat) (seq : Word) (o : Origin) (c : Commit) : CommitFate :=
  let other := routeCtx (s.routeOf k) ≠ c.ctx
  if !s.controlOk then .waits
  else if s.rec_.mode != .replay then (if other then .discarded else .takes)
  else if s.commitNamed k c.ring c.tag then
    if s.effectNamed k seq false (fun w => fld w 14 10 == c.ring && fld w 31 16 == c.tag) then .takes else .waits
  else match o with
    | .replay _ fetched => if fetched < c.fetch then .waits else if other then .discarded else .absent
    | _ => if other then .discarded else .waits

/-- A commit due at a frame start: the ring takes effect, or a commit of a context that the route no longer names is discarded
and answered (R236, R238). -/
def takeCommit (k : Nat) (seq : Word) (o : Origin) (s : State) : Option Commit × State :=
  match (s.key k).commit with
  | none => (none, s)
  | some (c, bufs) =>
    let gone := updKey k (fun x => { x with commit := none }) s
    match s.commitFate k seq o c with
    | .waits => (none, s)
    | .takes => (some c, takeRing k c.ctx bufs gone)
    | .discarded => (none, commitReply c 0 (k % 16 + 32) gone)
    | .absent => (none, commitReply c 0 (k % 16 + 64) (takeRing k c.ctx bufs gone))

/-- The key's frames are taken in (R235). -/
def State.takesIn (s : State) (k : Nat) (o : Origin) : Bool :=
  let r := s.routeOf k
  let x := s.key k
  s.dev.imageValid && routeValid r && !x.ring.isEmpty && x.ringCtx == routeCtx r
    && (o != .live || ((s.decOwner k).isNone && (match s.sensor k with
      | some n => serialOk r n
      | none => false)))

/-- The frame that opens on a key; the settings are those now in force. -/
def openedFrame (s : State) (k : Nat) (o : Origin) (seq : Word) (routed : Bool) (commit : Option Commit)
    (change : Option (Nat × Nat × Nat × Nat)) : Frame :=
  let x := s.key k
  { routed := routed, route := s.routeOf k, recipe := s.recipeOf k, ctx := x.ringCtx,
    buffer := if x.ring.isEmpty then 0 else x.ring.getD (x.since % x.ring.length) 0, seq := seq,
    ringGen := match o with
      | .replay r _ => fld (wordAt r 48) 47 32
      | _ => x.ringGen,
    start := s.now, gate := s.gate,
    decoded := match o with
      | .decoder _ => true
      | _ => false,
    position := match o with
      | .decoder t => t
      | _ => 0,
    resync := match o with
      | .live => x.resync
      | _ => false,
    flags := 0, counter := none, time := none, crcRx := none, crcCalc := 0, crcState := 0xFFFFFFFF#32, units := 0, bytes := 0,
    pilotBytes := 0, pilotW := true, pilotE := true, held := none, embedded := none, payload := [], lastTime := 0,
    nextPkt := 0, knot := none, commit := commit, change := change,
    fed := match o with
      | .replay r _ => some r
      | _ => none }

/-- The FILLING record written at the end of the frame's buffer (R235 step 1). -/
def writeFilling (k : Nat) (f : Frame) (s : State) : State :=
  bufFlag k f (rcpBytes f.recipe - 64) (f.filling k) s

/-- A frame start on a key (R234 to R238): an open frame closes TRUNCATED, due changes take effect, and a routed frame opens in
the next buffer with its FILLING record; another frame is counted in UNROUTED. -/
def beginFrame (k : Nat) (o : Origin) (s : State) : State :=
  let s := closeFrame k ffTrunc s
  let seq := originSeq o (s.key k)
  let s := updKey k (fun x => { x with seq := seq, lastStart := some s.hp, stalled := false }) s
  let s := bumpPort (k / 16) 0 1 (updPort (k / 16) (fun p => { p with seen := p.seen ||| 2 ^ (k % 16) }) s)
  let (change, s) := takeChange k seq s
  let (commit, s) := takeCommit k seq o s
  let routed := s.takesIn k o
  let f := openedFrame s k o seq routed commit change
  if routed then
    let s := updKey k (fun x => { x with frame := some f, since := x.since + 1,
                                         resync := if o = .live then false else x.resync }) s
    writeFilling k f s
  else bumpPort (k / 16) 3 1 (updKey k (fun x => { x with frame := some f }) s)

/-! ### Completion (R235 steps 4 and 5, R239, R243, R288, R361) -/

/-- The FRAME entry of a completed frame, with the gating fields of its start, if this recording ran then (R361, R362). -/
def recordFrame (k : Nat) (f : Frame) (rec_ : List Byte) (s : State) : State :=
  if s.rec_.mode == .record ∧ f.gate.session = some s.rec_.session then
    let dig := s.rec_.digests || f.decoded
    let head := wordsBytes [w64 (k / 16 + at_ 5 (k % 16) + at_ 9 f.ctx + bitTo 21 f.decoded), 0, 0, 0, 0, 0, 0, 0]
    recordEntryAt f.gate 0x03 dig (head ++ rec_ ++ payloadPart dig (f.payload ++ f.embedded.getD [])) s
  else s

/-- An EFFECTIVE entry of the first frame on new settings (R361). -/
def recordEffect (k : Nat) (f : Frame) (agreed : Bool) (ring tag number : Nat) : State → State :=
  recordEntry 0x04 false (wordsBytes [w64 (k / 16 + at_ 5 (k % 16) + bitTo 9 agreed + at_ 10 ring + at_ 16 tag + at_ 32 number),
    f.seq, w64 (f.counter.getD 0)])

/-- The pilot program of a key. -/
def State.keyProgram (s : State) (k : Nat) : Option Nat :=
  (List.range 16).find? fun i =>
    let e := s.img.entry 18 i
    progValid e && keyOf (progPort e) (progSel e) == k

/-- Runs of a key that a pilot has not started. -/
def Pilot.unstarted (p : Pilot) (k : Nat) : List PilotRun := (p.queue ++ p.due).filter fun r => r.key == k

/-- A pilot's unstarted runs of a key dropped. -/
def Pilot.dropKey (p : Pilot) (k : Nat) : Pilot :=
  { p with queue := p.queue.filter fun r => r.key != k, due := p.due.filter fun r => r.key != k }

/-- A newer frame of a key replaces the runs of older ones that have not started: one set of HOLD records for each (R288). -/
def replaceRuns (k : Nat) (s : State) : State :=
  let old := ((s.out.pilot0.unstarted k) ++ (s.out.pilot1.unstarted k)).map fun r => (r.prog, r.record)
  let s := updPilot .west (·.dropKey k) (updPilot .east (·.dropKey k) s)
  forEach old.eraseDups (fun r => fallbackHolds r.1 r.2) s

/-- A pilot in service is due to run the key's program at the next pace tick (R288). -/
def pilotDue (k prog : Nat) (f : Frame) (rec_ : List Byte) (h : Half) (s : State) : State :=
  if (s.half h).inService then
    updPilot h (fun p => { p with due := p.due ++ [⟨prog, k, f.seq, rec_, s.hp⟩] }) s
  else s

/-- The runs that a completed frame calls for in the pilots that received its copy. -/
def pilotRuns (k : Nat) (f : Frame) (rec_ : List Byte) (s : State) : State :=
  match s.keyProgram k with
  | none => s
  | some i =>
    if !routePilot f.route then s
    else
      let s := replaceRuns k s
      let s := if f.pilotW then pilotDue k i f rec_ .west s else s
      if f.pilotE then pilotDue k i f rec_ .east s else s

/-- A routed frame's record goes COMPLETE, its counters, its E2E_FAIL and its knot follow; the answer holds its final flags. -/
def finishFrame (k : Nat) (ecc : Ecc) (f : Frame) (s : State) : Frame × State :=
  let f := if ecc = .uncorrectable ∧ f.fed.isNone then { f with flags := f.flags ||| ffWrite } else f
  let rec_ := f.complete s.now
  let (ok, s) := bufWrite k f.ctx (f.buffer + (rcpBytes f.recipe - 64)) rec_ s
  let f := if ok ∨ f.fed.isSome then f else { f with flags := f.flags ||| ffWrite }
  let s := bumpPort (k / 16) 1 1 s
  let s := if f.flags &&& (2047 - ffResync) = 0 then s
    else report { faultOf s.dev.leader ukPort (k / 16) .e2eFail with
      ctx := f.ctx, d0 := w64 (k / 16 + at_ 5 (k % 16)), d1 := w64 f.flags, frame := f.counter.getD 0 } (bumpPort (k / 16) 2 1 s)
  let s := recordFrame k f rec_ s
  match f.knot with
  | none => (f, s)
  | some v =>
    (f, pilotRuns k f rec_ (setKnot (routeKnot f.route) v s))

/-- The answers that waited for a frame: the final reply of its commit and ROUTE_IN_FORCE (R239). -/
def frameNotices (k : Nat) (f : Frame) (s : State) : State :=
  let eff := w64 (f.counter.getD 0 + at_ 32 (f.seq.toNat % 2 ^ 32))
  let bad := f.flags &&& (2047 - ffResync) != 0
  let s := match f.commit with
    | some c => recordEffect k f false c.ring c.tag 0 (commitReply c eff (k % 16 + bitTo 7 bad) s)
    | none => s
  match f.change with
  | some (d, ctx, hoop, n) => recordEffect k f true 0 0 n (postEvent 0x03 ctx hoop eff (w64 (d + bitTo 10 bad)) s)
  | none => s

/-- The oldest closed frame of a key is complete: every write of it is acknowledged (R235 step 4). -/
def frameComplete (k : Nat) (ecc : Ecc) (s : State) : State :=
  match (s.key k).closed with
  | [] => s
  | f :: rest =>
    let s := updKey k (fun x => { x with closed := rest }) s
    let f := f.resolve k
    let (f, s) := if f.routed then finishFrame k ecc f s else (f, s)
    frameNotices k f s

/-- The copies that a half's pilot store holds for frames in progress are lost with the store (R287). -/
def loseCopies (h : Half) (s : State) : State :=
  let lose (f : Frame) : Frame := match h with
    | .west => { f with pilotW := false }
    | .east => { f with pilotE := false }
  forEach (s.intake.keys.map (·.1)) (fun k => updKey k fun x => { x with frame := x.frame.map lose, closed := x.closed.map lose }) s

/-- Every key loses its rings and frames with the image; commits that wait are answered (R230, R379; log 24). -/
def clearIntake (s : State) : State :=
  let s := forEach (List.range 4) (fun d => updDec d fun x => { x with held := none }) s
  forEach (s.intake.keys.map (·.1)) (fun k s =>
    let s := match (s.key k).commit with
      | some (c, _) => commitReply c 0 (k % 16 + 32) s
      | none => s
    let waits := (s.key k).closed.filterMap (·.commit) ++ (match (s.key k).frame with
      | some f => f.commit.toList
      | none => [])
    let s := forEach waits (fun c => commitReply c 0 (k % 16 + 32)) s
    setResync k (updKey k (fun x => { x with ring := [], pending := none, commit := none, frame := none, closed := [],
                                             heldRoute := none }) s)) s

end Sys2Proof.Machine
end

