-- ==== Sys2Proof/Machine/Faults.lean ====
section
/-! DEFINITION. Fault records: coalescing intervals and the record writer (R313, R316, R317); leadership: claim words, disputes and
their decision (R321 to R323). -/
namespace Sys2Proof.Machine

/-! ### Coalescing (R316) -/

/-- FAULT_COALESCE_EXPIRY: the first 8 µs of a key end. -/
def coalesceEnd (key : FaultKey) (s : State) : State :=
  match findEntry key s with
  | some c => if c.repeats then s else coalesceExpire c (advanceTo (c.opened + usHp 8) s)
  | none => s

/-- FAULT_COALESCE_EXPIRY (R316). -/
def execFaultCoalesceExpiry (key : FaultKey) (s : State) : Host.Outcome State Fault Refusal := .next (coalesceEnd key s)

/-- FAULT_REPEAT_EXPIRY: a repeat interval of 1 ms ends. -/
def repeatEnd (key : FaultKey) (s : State) : State :=
  match findEntry key s with
  | some c => if c.repeats then repeatExpire c (advanceTo (c.opened + usHp 1000) s) else s
  | none => s

/-- FAULT_REPEAT_EXPIRY (R316). -/
def execFaultRepeatExpiry (key : FaultKey) (s : State) : Host.Outcome State Fault Refusal := .next (repeatEnd key s)

/-! ### The record writer (R313, R317) -/

/-- Free buffers take the oldest pending records while the ring has room. -/
def refill (h : Half) (s : State) : State :=
  if s.host.fault.full then s
  else updHalf h (fun u =>
    let n := 2 - u.bufs.length
    { u with bufs := u.bufs ++ u.pendq.take n, pendq := u.pendq.drop n }) s

/-- A half's oldest buffered record written with the next SEQ; its buffer is free. -/
def writeFault (h : Half) (s : State) : State :=
  match (s.half h).bufs with
  | [] => s
  | r :: rest =>
    let n := s.out.faultSeq + 1
    let s := { s with out := { s.out with faultSeq := n } }
    let s := updHalf h (fun u => { u with bufs := rest }) s
    bumpFg h 1 1 (pushRecord .fault 0x18 (r.bytes (n % 2 ^ 32)) s)

/-- FAULT_RECORD_WRITE: the leading fireguard writes a ready record, its own half's first (log 31). -/
def faultWrite (s : State) : State :=
  let l := s.dev.leader
  let s := refill l.other (refill l s)
  if s.dev.st = .cold ∨ s.host.fault.full then s
  else
    let h := if (s.half l).bufs.isEmpty then l.other else l
    refill h (writeFault h s)

/-- FAULT_RECORD_WRITE (R317). -/
def execFaultRecordWrite (s : State) : Host.Outcome State Fault Refusal := .next (faultWrite s)

/-! ### Disputes (R322, R323) -/

/-- A half with a latched dangerous fault; stopped claim words count as one (R322). -/
def HalfUnit.latched (u : HalfUnit) : Bool := u.danger || u.silent

/-- A dispute decided: the winner leads, the other half leaves service and is due a reset (R323). -/
def decideDispute (w : Half) (s : State) : State :=
  let s := leadBy w s
  let s := oweReset w.other (updHalf w.other (fun u => { u with inService := false, claim := false }) s)
  let s := updHalf w (fun u => { u with disputed := 0 }) (updHalf w.other (fun u => { u with disputed := 0 }) s)
  let s := statusCopy { s with dev := { s.dev with dispute := false, awaitMonitor := false } }
  settleState 3 s

/-- The decision that needs no monitor: exactly one half is latched. -/
def settleDispute (s : State) : State :=
  if !s.dev.dispute then s
  else if s.west.latched && !s.east.latched then decideDispute .east s
  else if s.east.latched && !s.west.latched then decideDispute .west s
  else { s with dev := { s.dev with awaitMonitor := true } }

/-- A dispute: LEADER_DISPUTE, both gates shut, QUENCHED; then its decision, at once or by the monitor (R322, R323). -/
def enterDispute (s : State) : State :=
  if s.dev.dispute then s
  else
    let s := report (faultOf s.dev.leader ukFireguard s.dev.leader.idx .leaderDispute) s
    settleDispute (settleState 1 { s with dev := { s.dev with dispute := true } })

/-- The fireguards exchange claim words: out of COLD and KINDLING, with neither half under reset (R321). -/
def State.exchanges (s : State) : Bool := s.dev.st != .cold && s.dev.st != .kindling

/-- The leader has withdrawn its claim and the other half is in service: it leads (R321). -/
def handOver (s : State) : Option State :=
  let l := s.dev.leader
  let o := s.half l.other
  if !(s.half l).claim && !(s.half l).inService && o.inService then some (leadBy l.other s) else none

/-- CLAIM_EXCHANGE: the next exchange, 1 µs after the last. A fireguard that does not claim to lead names the other, so that two claims
and no claim alike are claims that differ (R322); with both halves out of service there is none to lead (log 31). -/
def claimExchange (uw ue : Bool) (s : State) : State :=
  if !s.exchanges then s
  else
    let s := advanceTo ((s.hp / 100 + 1) * 100) s
    if s.dev.dispute then settleDispute s
    else match handOver s with
      | some s => settleState 3 s
      | none =>
        if s.west.underReset || s.east.underReset then s
        else
          let cw := s.west.claim != uw
          let ce := s.east.claim != ue
          let bad := (cw && ce) || (!cw && !ce && (s.west.inService || s.east.inService))
          let n := if bad then s.west.disputed + 1 else 0
          let s := updHalf .west (fun u => { u with disputed := n }) (updHalf .east (fun u => { u with disputed := n }) s)
          if 4 ≤ n then enterDispute s else s

/-- CLAIM_EXCHANGE (R321, R322). -/
def execClaimExchange (upsetWest upsetEast : Bool) (s : State) : Host.Outcome State Fault Refusal :=
  .next (claimExchange upsetWest upsetEast s)

/-- CLAIM_SILENCE: the words of a half in service have stopped for 8 µs. -/
def claimSilence (h : Half) (s : State) : State :=
  if !s.exchanges || !(s.half h).inService || s.dev.dispute then s
  else
    let s := advanceTo (s.hp + usHp 8) s
    enterDispute (updHalf h (fun u => { u with silent := true }) s)

/-- CLAIM_SILENCE (R322). -/
def execClaimSilence (half : Half) (s : State) : Host.Outcome State Fault Refusal := .next (claimSilence half s)

end Sys2Proof.Machine
end

