-- ==== Sys2Proof/Machine/Kreong.lean ====
section
/-! DEFINITION. Kreong links: flits and retry, identity, absence, topologies, collectives and replica rounds (R326 to R352). -/
namespace Sys2Proof.Machine

/-! ### The topology in force (R333, R334, R337) -/

/-- The committed topology record as an entry; all zero before the first commit, which is rank 0 of a 1 × 1 system. -/
def State.topo (s : State) : Entry := s.link.record

def topoEpoch (r : Entry) : Nat := r.f 0 31 0
def topoX (r : Entry) : Nat := r.f 0 34 32 + 1
def topoY (r : Entry) : Nat := r.f 0 36 35 + 1
def topoRank (r : Entry) : Nat := r.f 0 41 37
def topoTimeout (r : Entry) : Nat := r.f 1 15 0
def topoWait (r : Entry) : Nat := r.f 1 39 20
def topoSerial (r : Entry) (k : Nat) : Word := r.getD (8 + k) 0

/-- Devices of a topology. -/
def topoSize (r : Entry) : Nat := topoX r * topoY r

/-- A link runs along the X axis: K0 and K1, and with Y = 1 every link (R334). -/
def alongX (r : Entry) (k : Nat) : Bool := k % 4 < 2 || topoY r == 1

/-- The rank at the other end of a link (R333, R334). -/
def partnerRank (r : Entry) (k : Nat) : Nat :=
  let x := topoRank r % topoX r
  let y := topoRank r / topoX r
  if alongX r k then y * topoX r + (if k % 2 = 0 then x + 1 else x + topoX r - 1) % topoX r
  else (if k % 2 = 0 then y + 1 else y + topoY r - 1) % topoY r * topoX r + x

/-- The link at the other end (R334). -/
def partnerLink (k : Nat) : Nat := if k % 2 = 0 then k + 1 else k - 1

/-- The links that a topology uses: all eight of a system of two or more (R334). -/
def usedLinks (r : Entry) : List Nat := if topoSize r ≤ 1 then [] else List.range 8

/-- The links of a half. -/
def linksOf (h : Half) : List Nat := (List.range 4).map (4 * h.idx + ·)

/-- The ranks of a group, ascending (R340). -/
def groupRanks (r : Entry) (g : Nat) : List Nat :=
  (List.range (topoSize r)).filter fun k =>
    g == 0 || (if g = 1 then k / topoX r == topoRank r / topoX r else k % topoX r == topoRank r % topoX r)

/-! ### Flits (R327) -/

def flSeq (f : List Byte) : Nat := fld (wordAt f 0) 11 0
def flAck (f : List Byte) : Nat := fld (wordAt f 0) 23 12
def flType (f : List Byte) : Nat := fld (wordAt f 0) 26 24
def flEpoch (f : List Byte) : Nat := fld (wordAt f 0) 63 32
def flPayload (f : List Byte) : List Byte := slice f 8 240
def flCrcOk (f : List Byte) : Bool := f.length == 256 && (crc32c (f.take 252)).toNat == ofLE (f.drop 252)

def ftIdle : Nat := 0
def ftData : Nat := 1
def ftControl : Nat := 2
def ftIdentity : Nat := 3
def ftNak : Nat := 4

/-- A flit takes a sequence number: IDLE and NAK flits carry the next one unused. -/
def takesSeq (ty : Nat) : Bool := ty == ftData || ty == ftControl || ty == ftIdentity

/-- The 256 bytes of a flit. -/
def flitBytes (ty seq ack epoch : Nat) (payload : List Byte) : List Byte :=
  let body := toLE 8 (seq % 4096 + at_ 12 (ack % 4096) + at_ 24 ty + at_ 32 epoch) ++ slice payload 0 240 ++ [0, 0, 0, 0]
  body ++ toLE 4 (crc32c body).toNat

/-! ### Sending and retry (R328) -/

/-- Flits leave on a link. -/
def transmit (k : Nat) (fs : List (List Byte)) : State → State :=
  updLink k fun x => { x with sent := x.sent ++ fs, ctr := bump x.ctr 0 fs.length }

/-- A flit that takes a sequence number leaves and is held until acknowledged. -/
def pushFlit (k ty : Nat) (payload : List Byte) (s : State) : State :=
  let x := s.klink k
  let f := flitBytes ty x.txSeq x.rxSeq s.link.epoch payload
  transmit k [f] (updLink k (fun x => { x with txSeq := (x.txSeq + 1) % 4096, unacked := x.unacked ++ [f] }) s)

/-- A flit to be sent: it waits while 64 are unacknowledged. -/
def sendFlit (k ty : Nat) (payload : List Byte) (s : State) : State :=
  let x := s.klink k
  if x.unacked.length < 64 ∧ x.waiting.isEmpty then pushFlit k ty payload s
  else updLink k (fun x => { x with waiting := x.waiting ++ [(ty, payload)] }) s

/-- Waiting flits leave while there is room. -/
def flushFlits (k : Nat) : Nat → State → State
  | 0, s => s
  | n + 1, s =>
    let x := s.klink k
    match x.waiting with
    | [] => s
    | (ty, p) :: rest =>
      if x.unacked.length < 64 then flushFlits k n (pushFlit k ty p (updLink k (fun x => { x with waiting := rest }) s)) else s

/-- A cumulative acknowledgement: flits before `ack` are no longer held, and a new first one has not been replayed. -/
def ackFlits (k ack : Nat) (s : State) : State :=
  let x := s.klink k
  match x.unacked with
  | [] => s
  | f :: _ =>
    let n := (ack + 4096 - flSeq f) % 4096
    if n = 0 ∨ x.unacked.length < n then s
    else flushFlits k x.waiting.length (updLink k (fun x => { x with unacked := x.unacked.drop n, replays := 0 }) s)

/-- NAK: its ACK names the SEQ expected. -/
def sendNak (k : Nat) (s : State) : State :=
  let x := s.klink k
  transmit k [flitBytes ftNak x.txSeq x.rxSeq s.link.epoch []] s

/-- The link's next turn to send: with nothing else sent since `n` flits and none waiting, an IDLE flit leaves (R327). -/
def sendIdle (k n : Nat) (s : State) : State :=
  let x := s.klink k
  if x.lanesOk && x.sent.length == n && x.waiting.isEmpty then transmit k [flitBytes ftIdle x.txSeq x.rxSeq s.link.epoch []] s else s

/-! ### Collective steps in flight -/

/-- A released COLLECTIVE step whose operation has not ended: hoop, step, job, step entry and descriptor. -/
structure Coll where
  hoop : Nat
  step : Nat
  job  : Job
  st   : Entry
  desc : Entry
  deriving DecidableEq, Repr

/-- The open COLLECTIVE step `n` of a hoop. -/
def State.coll (s : State) (hoop n : Nat) : Option Coll := do
  let (j, _) ← s.openPart hoop n 0
  let e := s.stepAt j.q.pricking n
  guard (stepKind e == kCollective)
  some ⟨hoop, n, j, e, s.descUnit j.q.pricking (stepDesc e)⟩

/-- The open COLLECTIVE steps of a half. -/
def State.colls (s : State) (h : Half) : List Coll :=
  ((List.range 16).filter fun i => s.hoopHome i == h).flatMap fun i =>
    match (s.hoop i).job with
    | none => []
    | some j => j.steps.filterMap fun r => s.coll i r.step

/-! Causes of R342 -/
def cuTimeout : Nat := 0
def cuRetries : Nat := 1
def cuLock : Nat := 2
def cuWait : Nat := 3
def cuMismatch : Nat := 4
def cuEpoch : Nat := 5
def cuExpelled : Nat := 6
def cuGroup : Nat := 7

/-- A COLLECTIVE step faults: its record, its count, and the end of its part (R75, R342). -/
def collStop (c : Coll) (cls : FaultClass) (link cause : Nat) (s : State) : State :=
  let s := report { faultOf (s.hoopHome c.hoop) ukLink link cls with
    ctx := c.job.q.ctx, hoop := c.hoop, step := c.step, d0 := w64 cause } s
  let s := bumpSys 1 1 s
  match s.openPart c.hoop c.step 0 with
  | some _ => partFault c.hoop c.step 0 s
  | none => s

/-- The half's lowest link. -/
def lowLink (h : Half) : Nat := 4 * h.idx

/-- Every COLLECTIVE step in flight in a half faults with a cause seen on no link. -/
def stopAll (h : Half) (cause : Nat) (s : State) : State :=
  forEach (s.colls h) (fun c => collStop c .peerAbsent (lowLink h) cause) s

/-- The links of its half that a collective uses: those of its axis, or those that join it to its peer. -/
def collLinks (r : Entry) (h : Half) (d : Entry) : List Nat :=
  (linksOf h).filter fun k =>
    if 4 ≤ clOp d then partnerRank r k == clPeer d
    else clGroup d == 0 || (if clGroup d = 1 then alongX r k else !alongX r k)

/-! ### Absence (R332, R349) -/

/-- A link fenced under an epoch, with its event. -/
def fenceLink (k epoch : Nat) (s : State) : State :=
  s |> updLink k (fun x => { x with st := .fenced, fenceEpoch := epoch }) |> postEvent 0x05 0 0 0 (w64 k)

/-- The PEER_ABSENT record of a link: its cause and the low half of the partner's serial (R332, R342). -/
def reportAbsent (k cause : Nat) (s : State) : State :=
  report { faultOf (halfOfLink k) ukLink k .peerAbsent with
    d0 := w64 cause, d1 := w64 (fld (wordAt (s.klink k).peer 8) 31 0) } s

/-- A link fenced by an expulsion (R349): a commit's check still owed to it is gone. -/
def expelLink (k epoch : Nat) (s : State) : State :=
  let s := { s with link := { s.link with owed := s.link.owed.filter (· != k) } }
  reportAbsent k cuExpelled (fenceLink k epoch s)

/-- A MEMBER link declared absent: fenced, recorded, and in training again; the COLLECTIVE steps that use it fault. -/
def declareAbsent (k cause : Nat) (s : State) : State :=
  let x := s.klink k
  if x.st ≠ .member then s
  else
    let h := halfOfLink k
    let s := bumpLink k 7 1 (fenceLink k s.link.epoch s)
    let s := updLink k (fun x => { x with lanesOk := false, found := none }) s
    let s := reportAbsent k cause s
    forEach ((s.colls h).filter fun c => (collLinks s.topo h c.desc).contains k) (fun c => collStop c .peerAbsent k cause) s

/-- A NAK replays every held flit from the SEQ it names; eight replays in a row of one flit exhaust the retries (R328). -/
def replayFlits (k : Nat) (s : State) : State :=
  let x := s.klink k
  if x.unacked.isEmpty then s
  else
    let s := transmit k x.unacked (updLink k (fun x => { x with replays := x.replays + 1, retries := satAdd 0xFFFF x.retries 1 }) s)
    let s := report (faultOf (halfOfLink k) ukLink k .linkRetry) (bumpLink k 4 1 s)
    if 8 ≤ x.replays + 1 then declareAbsent k cuRetries s else s

/-! ### Receiving (R328, R339) -/

/-- A link can train: its half is not under reset, the device has left KINDLING, and replay does not hold it DOWN (R364). -/
def State.linkLive (s : State) (k : Nat) : Bool :=
  s.exchanges && !(s.half (halfOfLink k)).underReset && s.rec_.mode != .replay

/-- A link receives flits. -/
def State.receives (s : State) (k : Nat) : Bool := s.linkLive k && (s.klink k).lanesOk

/-- A flit of a type with a right CRC and the expected SEQ is accepted; another is none of this command (log 2). In the time that a
flit takes to arrive one leaves: an IDLE flit where nothing else does (log 35). -/
def acceptFlit (k ty : Nat) (f : List Byte) (body : State → State) (s : State) : State :=
  let x := s.klink k
  if !(s.receives k && flCrcOk f && flType f == ty && flSeq f == x.rxSeq) then s
  else
    let s := updLink k (fun x => { x with
      rxSeq := if takesSeq ty then (x.rxSeq + 1) % 4096 else x.rxSeq, nakWait := false, acceptedAt := s.hp,
      ctr := bump x.ctr 1 1 }) s
    sendIdle k x.sent.length (body (ackFlits k (flAck f) s))

/-- FLIT_CORRUPT: a flit with a bad CRC or an invalid TYPE draws a NAK; one out of order draws one NAK and is then discarded with
all that follow until the expected SEQ arrives. -/
def flitCorrupt (k : Nat) (f : List Byte) (fec : Bool) (s : State) : State :=
  if !s.receives k then s
  else
    let x := s.klink k
    let s := if fec then bumpLink k 2 1 s else s
    let nak (s : State) : State := sendNak k (updLink k (fun x => { x with nakWait := true }) s)
    if !flCrcOk f || decide (ftNak < flType f) then nak s
    else if flSeq f = x.rxSeq ∨ x.nakWait then sendIdle k x.sent.length s
    else nak s

/-- FLIT_CORRUPT (R328). -/
def execFlitCorrupt (k : BitVec 3) (flit : List Byte) (fec : Bool) (s : State) : Host.Outcome State Fault Refusal :=
  .next (flitCorrupt k.toNat flit fec s)

/-- FLIT_IDLE (R327): acknowledgements only. -/
def execFlitIdle (k : BitVec 3) (flit : List Byte) (s : State) : Host.Outcome State Fault Refusal :=
  .next (acceptFlit k.toNat ftIdle flit id s)

/-- FLIT_NAK (R328). -/
def execFlitNak (k : BitVec 3) (flit : List Byte) (s : State) : Host.Outcome State Fault Refusal :=
  .next (acceptFlit k.toNat ftNak flit (replayFlits k.toNat) s)

/-! ### Identity (R330, R331) -/

/-- The identity record that a link sends. -/
def State.identity (s : State) (k : Nat) : List Byte :=
  let h := s.half (halfOfLink k)
  let health := bitTo 0 s.west.inService + bitTo 1 s.east.inService + bitTo 2 h.danger + bitTo 3 s.link.valid
  let r := s.topo
  let body := toLE 4 0x4B4C4944 ++ toLE 2 1 ++ toLE 1 k ++ toLE 1 health ++ toLE 8 s.part.serial.toNat ++ toLE 4 s.link.epoch
    ++ toLE 1 (topoRank r + bitTo 7 (!s.link.valid)) ++ toLE 1 (topoX r - 1 + at_ 3 (topoY r - 1)) ++ [0, 0]
    ++ toLE 8 s.link.digest.toNat ++ List.replicate 28 0
  body ++ toLE 4 (crc32c body).toNat

/-- MAGIC, VERSION and CRC of an identity record are right. -/
def peerIdOk (b : List Byte) : Bool :=
  ofLE (slice b 0 4) == 0x4B4C4944 && ofLE (slice b 4 2) == 1 && (crc32c (slice b 0 60)).toNat == ofLE (slice b 60 4)

/-- The partner's record names the serial and the partner link that a topology requires (R336). -/
def partnerFits (r : Entry) (k : Nat) (peer : List Byte) : Bool :=
  peerIdOk peer && wordAt peer 8 == topoSerial r (partnerRank r k) && (peer.getD 6 0).toNat % 8 == partnerLink k

/-- The state of a link once a partner's record is valid: the first one since it trained settles a check that a commit left owed,
whatever the link's state; else a link in training becomes IDENTIFIED (R331, R337). -/
def identifiedAs (s : State) (k : Nat) (x : Link) (peer : List Byte) : LinkSt :=
  if s.link.owed.contains k && x.found.isNone then (if partnerFits s.topo k peer then .member else .identified)
  else if x.st = .training then .identified else x.st

/-- A valid identity record on a link: shown, recorded, and PEER_FOUND when it is the first since training or its SERIAL changed. -/
def takeIdentity (k : Nat) (b : List Byte) (s : State) : State :=
  let s := recordEntry 0x07 false (wordsBytes [w64 k] ++ slice b 0 64) s
  let x := s.klink k
  let serial := (wordAt b 8).toNat
  let new := x.found != some serial
  let st := identifiedAs s k x (slice b 0 64)
  let s := if x.found.isNone then { s with link := { s.link with owed := s.link.owed.filter (· != k) } } else s
  let s := updLink k (fun x => { x with peer := slice b 0 64, found := some serial, st := st }) s
  if new then postEvent 0x04 0 0 0 (w64 (k + at_ 32 (serial % 2 ^ 32))) s else s

/-- An IDENTITY payload: a wrong record is dropped and counted (R330). -/
def identityPayload (k : Nat) (p : List Byte) (s : State) : State :=
  if peerIdOk p then takeIdentity k p s else bumpLink k 3 1 s

/-- FLIT_IDENTITY (R331). -/
def execFlitIdentity (k : BitVec 3) (flit : List Byte) (s : State) : Host.Outcome State Fault Refusal :=
  .next (acceptFlit k.toNat ftIdentity flit (identityPayload k.toNat (flPayload flit)) s)

/-- An IDENTITY flit sent. -/
def sendIdentity (k : Nat) (s : State) : State := sendFlit k ftIdentity (s.identity k) s

/-- IDENTITY_SEND (R330). -/
def execIdentitySend (k : BitVec 3) (s : State) : Host.Outcome State Fault Refusal :=
  .next (if s.receives k.toNat then sendIdentity k.toNat s else s)

/-- LINK_SIGNAL_DETECTED (R350): a link that is DOWN begins training. -/
def execLinkSignalDetected (k : BitVec 3) (s : State) : Host.Outcome State Fault Refusal :=
  .next (if s.linkLive k.toNat && (s.klink k.toNat).st == .down then updLink k.toNat (fun x => { x with st := .training }) s else s)

/-- FEC_LOCK: a link in training, or one of another state that trains again, is locked; numbering starts at 0 with nothing held
(log 35), and the first identity flit leaves. -/
def fecLock (k : Nat) (s : State) : State :=
  let x := s.klink k
  if !s.linkLive k || x.st == .down || x.lanesOk then s
  else
    let s := updLink k (fun x => { x with lanesOk := true, found := none, txSeq := 0, rxSeq := 0, nakWait := false, unacked := [],
                                          waiting := [], partial_ := [], replays := 0, acceptedAt := s.hp }) s
    sendIdentity k s

/-- FEC_LOCK (R326, R350). -/
def execFecLock (k : BitVec 3) (s : State) : Host.Outcome State Fault Refusal := .next (fecLock k.toNat s)

/-- LINK_TIMEOUT: a MEMBER link has accepted no flit for TIMEOUT_US. -/
def linkTimeout (k : Nat) (s : State) : State :=
  let x := s.klink k
  if !s.linkLive k || x.st != .member then s
  else declareAbsent k cuTimeout (advanceTo (x.acceptedAt + usHp (topoTimeout s.topo)) s)

/-- LINK_TIMEOUT (R332). -/
def execLinkTimeout (k : BitVec 3) (s : State) : Host.Outcome State Fault Refusal := .next (linkTimeout k.toNat s)

/-- LANE_LOCK_LOSS: the link trains again; a MEMBER link is declared absent first. -/
def laneLoss (k : Nat) (s : State) : State :=
  if !s.receives k then s else updLink k (fun x => { x with lanesOk := false, found := none }) (declareAbsent k cuLock s)

/-- LANE_LOCK_LOSS (R332). -/
def execLaneLockLoss (k : BitVec 3) (s : State) : Host.Outcome State Fault Refusal := .next (laneLoss k.toNat s)

/-! ### Topology commits (R335 to R337) -/

/-- Reserved fields of a topology record, serials of ranks that the system does not have among them. -/
def topoReserved (r : Entry) : Bool :=
  r.f 0 63 42 == 0 && r.f 1 63 40 == 0 && (List.range 6).all (fun i => r.getD (2 + i) 0 == 0)
    && (List.range 32).all fun k => decide (k < topoSize r) || topoSerial r k == 0

/-- Check 2: shape, timeout and wait. -/
def topoRanges (r : Entry) : Bool :=
  decide (topoY r ≤ topoX r) && decide (topoSize r ≤ 32) && decide (10 ≤ topoTimeout r) && decide (topoTimeout r ≤ 10000)
    && decide (1 ≤ topoWait r) && decide (topoWait r ≤ 1000000)

/-- Check 3: the serials. -/
def topoSerials (serial : Word) (r : Entry) : Bool :=
  let l := (List.range (topoSize r)).map (topoSerial r)
  decide (topoRank r < topoSize r) && topoSerial r (topoRank r) == serial && l.all (· != 0) && decide l.Nodup

/-- Check 4 at one link: its state and its partner. In replay a recorded identity stands for the live link (R365). -/
def State.linkFits (s : State) (r : Entry) (k : Nat) : Bool :=
  let x := s.klink k
  !(s.half (halfOfLink k)).inService
    || ((s.rec_.mode == .replay || x.st == .identified || x.st == .member || x.st == .fenced) && partnerFits r k x.peer)

/-- The DETAIL of the first failing check (R336). -/
def topoFault (bytes : Nat) (r : Entry) (s : State) : Option Nat :=
  if bytes ≠ 320 ∨ !topoReserved r then some 5
  else if topoEpoch r ≤ s.link.epoch then some 1
  else if !topoRanges r then some 2
  else if !topoSerials s.part.serial r then some 3
  else match (usedLinks r).find? fun k => !s.linkFits r k with
    | some k => some (4 + at_ 8 k)
    | none => none

/-- State of a link after a commit (R337). -/
def linkAfter (s : State) (r : Entry) (k : Nat) (x : Link) : LinkSt :=
  if s.rec_.mode = .replay then x.st
  else if (usedLinks r).contains k then (if (s.half (halfOfLink k)).inService then .member else x.st)
  else if x.found.isSome then .identified else .down

/-- An accepted commit takes effect in one handshake. -/
def commitRecord (r : Entry) (s : State) : State :=
  let owed := (usedLinks r).filter fun k => !(s.half (halfOfLink k)).inService
  let old := s
  let s := { s with link := { s.link with epoch := topoEpoch r, record := r, valid := true,
                                          digest := digest8 (wordsBytes r), owed := owed, broken := false, inbox := [] } }
  let s := forEach (List.range 8) (fun k => updLink k fun x =>
    { x with st := linkAfter old r k x, acceptedAt := s.hp, partial_ := [] }) s
  statusCopy (stopAll .east cuEpoch (stopAll .west cuEpoch s))

/-- COMMIT_TOPOLOGY past R46 step 8. -/
def commitTopology (pkt : List Word) (record : List Byte) (t : Tagged) (s : State) : State :=
  let bytes := fld (pkt.getD 2 0) 31 0
  let r : Entry := (List.range 40).map fun i => wordAt record (8 * i)
  let s := accept t 0 s
  match topoFault bytes r s with
  | some d => replyFinal t stTopologyRejected 0 (w64 d) s
  | none => replyFinal t stOk (w64 (topoEpoch r)) 0 (commitRecord r s)

/-- COMMIT_TOPOLOGY (R335, R337). -/
def execCommitTopology (ring : BitVec 5) (pkt : List Word) (record : List Byte) (s : State) :
    Host.Outcome State Fault Refusal :=
  packet "COMMIT_TOPOLOGY" (packetWf 0x70 pkt) ring.toNat pkt (commitTopology pkt record) s

/-! ### Collectives (R340 to R345) -/

/-- The header of a step's messages: its descriptor with the argument added to TAG and MGEN (R340). -/
def collHead (d : Entry) (args : List Word) : Entry :=
  let a := if clTagArg d then args.getD (clTagIdx d) 0 else 0
  [d.getD 0 0, 0, 0, w64 (clElems d + at_ 32 ((clTag d + fld a 31 0) % 2 ^ 32)), w64 ((clMgen d + fld a 47 32) % 2 ^ 16)]

/-- A contribution belongs to a step: half, group and TAG; for a RECV, the SEND of its peer with its TAG (R341). -/
def Coll.takes (c : Coll) (r : Entry) (h : Half) (x : Contribution) : Bool :=
  let m := collHead c.desc c.job.args
  x.half == h && clTag x.head == clTag m
    && (if clOp m = 5 then clOp x.head == 4 && x.rank == clPeer m
        else clOp x.head != 4 && clGroup x.head == clGroup m && (groupRanks r (clGroup m)).contains x.rank)

/-- The header differs from the step's own (R341). -/
def Coll.differs (c : Coll) (x : Contribution) : Bool :=
  let d := c.desc
  clFmt x.head != clFmt d || clElems x.head != clElems d
    || (clOp d != 5 && (clOp x.head != clOp d || (clOp d ≤ 1 && clRed x.head != clRed d) || (clOp d == 3 && clPeer x.head != clPeer d)))

/-- A stale message of a RECV with FENCE_EN (R345). -/
def Coll.stale (c : Coll) (s : State) (x : Contribution) : Bool :=
  clFenceEn c.desc
    && decide (2 ^ 15 ≤ (clMgen x.head + 2 ^ 16 - fld ((s.knot (clFence c.desc)).setWidth 64) 15 0) % 2 ^ 16)

/-- The stale messages at the head of a RECV's queue, dropped, counted and reported. -/
def dropStale (c : Coll) (h : Half) : Nat → State → State
  | 0, s => s
  | n + 1, s =>
    match s.link.inbox.find? (c.takes s.topo h) with
    | none => s
    | some x =>
      if c.stale s x then
        let s := bumpSys 7 1 { s with link := { s.link with inbox := s.link.inbox.erase x } }
        dropStale c h n (report { faultOf h ukLink (lowLink h) .staleResult with
          ctx := c.job.q.ctx, hoop := c.hoop, step := c.step } s)
      else s

/-- A step that has received a differing header faults; the stale messages of a RECV have gone first (R341, R345). -/
def checkHeaders (h : Half) (s : State) : State :=
  forEach (s.colls h) (fun c s =>
    let s := if clOp c.desc = 5 then dropStale c h s.link.inbox.length s else s
    match s.link.inbox.find? fun x => c.takes s.topo h x && c.differs x with
    | none => s
    | some x =>
      collStop c .peerAbsent x.link cuMismatch { s with link := { s.link with inbox := s.link.inbox.erase x } }) s

/-- A collective of a group of one completes locally: ALL_REDUCE and BROADCAST copy SRC to DST (R341). -/
def collLocal (r : Entry) (d : Entry) : Bool := clOp d ≤ 3 && (groupRanks r (clGroup d)).length ≤ 1

/-- The step reads a contribution: every operation but RECV, and a BROADCAST at its root or in a group of one. -/
def collSends (r : Entry) (d : Entry) : Bool :=
  clOp d != 5 && (clOp d != 3 || clPeer d == topoRank r || collLocal r d)

/-- Payloads leave on the MEMBER links of a half; in replay they are discarded (R367). -/
def sendPayloads (h : Half) (ty : Nat) (ps : List (Nat × List Byte)) (s : State) : State :=
  if s.rec_.mode = .replay then s
  else forEach ps (fun p s =>
    let k := 4 * h.idx + p.1 % 4
    if (s.klink k).st = .member then sendFlit k ty p.2 s else s) s

/-- Bytes of a member's contribution. -/
def collBytes (d : Entry) : Nat := packedBytes (clElems d) (fmtWidth (clFmt d))

/-- A released COLLECTIVE step begins: under a raised epoch it faults, a REDUCE_SCATTER that does not divide faults before
anything is sent, and its contribution is read and sent, unless it is the whole group (R340, R341, R342, R349). -/
def beginCollective (c : Coll) (s : State) : State :=
  let h := s.hoopHome c.hoop
  let r := s.topo
  let n := (groupRanks r (clGroup c.desc)).length
  let s := updStep c.hoop c.step (fun x => { x with grouped := [0] }) s
  if s.link.broken then collStop c .peerAbsent (lowLink h) cuEpoch s
  else if clOp c.desc = 1 ∧ clElems c.desc % n ≠ 0 then collStop c .peerAbsent (lowLink h) cuGroup s
  else if collLocal r c.desc then s
  else if !collSends r c.desc then checkHeaders h s
  else
    let (x, s) := vread (.walker h) c.job.q.ctx (relocated c.st c.job.args (clSrc c.desc)) (collBytes c.desc) s
    match x with
    | .error f => collStop c f (lowLink h) 0 s
    | .ok bs => checkHeaders h (sendPayloads h ftData (Config.messageFlits (topoRank r) (collHead c.desc c.job.args) bs) s)

/-- The COLLECTIVE steps of a hoop that have been released and not yet begun, begun. -/
def startCollectives (hoop : Nat) (s : State) : State :=
  match (s.hoop hoop).job with
  | none => s
  | some j => forEach ((j.steps.filter fun r => r.grouped.isEmpty).filterMap fun r => s.coll hoop r.step) beginCollective s

/-- MAX or MIN of codes: the earliest NaN wins and is written canonical, else the earliest extreme value (R343). -/
def extremeOf (fmt : Nat) (least : Bool) (codes : List Nat) : Nat :=
  let v (c : Nat) : FVal := if fmtInt fmt then .ofRat (intRaw fmt c : Rat) else decodeFloat fmt c
  if codes.any fun c => v c == .nan then ((floatFmt fmt).nan).getD 0
  else codes.foldl (fun a c => if (if least then (v c).lt (v a) else (v a).lt (v c)) then c else a) (codes.headD 0)

/-- The sum of codes in rank order, and whether the written value was limited (R343). -/
def sumOf (fmt : Nat) (codes : List Nat) : Nat × Bool :=
  if fmtInt fmt then
    let (v, sat) := saturate (intRange fmt) ((codes.map (intRaw fmt)).foldl (· + ·) 0)
    (intCode fmt v, sat)
  else match codes with
    | [] => (0, false)
    | c :: t => writeFloat fmt none (t.foldl (fun a c => add32 a (decodeFloat fmt c)) (decodeFloat fmt c))

/-- The reduction of one element over its contributions in rank order. -/
def reduceOne (red fmt : Nat) (codes : List Nat) : Nat × Bool :=
  if red = 0 then sumOf fmt codes else (extremeOf fmt (red == 2) codes, false)

/-- Element codes of a contribution. -/
def collCodes (d : Entry) (bs : List Byte) : List Nat :=
  (List.range (clElems d)).map fun i => elemRead (fun k => bs.getD k 0) 0 (fmtWidth (clFmt d)) i

/-- The codes that a member writes from the contributions in rank order, and how many were saturated (R340, R343). A group of one
copies. -/
def collResult (d : Entry) (g n : Nat) (parts : List (List Nat)) : List Nat × Nat :=
  if n ≤ 1 ∨ clOp d = 3 ∨ clOp d = 5 then (parts.headD [], 0)
  else if clOp d = 2 then (parts.flatten, 0)
  else
    let e := if clOp d = 1 then clElems d / n else clElems d
    let lo := if clOp d = 1 then g * e else 0
    let rs := (List.range e).map fun i => reduceOne (clRed d) (clFmt d) (parts.map fun p => p.getD (lo + i) 0)
    (rs.map (·.1), (rs.filter (·.2)).length)

/-- The contributions of others that a step waits for: ranks, in order. -/
def collNeeds (r : Entry) (d : Entry) : List Nat :=
  if clOp d = 4 ∨ collLocal r d then []
  else if clOp d = 5 then [clPeer d]
  else if clOp d = 3 then (if clPeer d = topoRank r then [] else [clPeer d])
  else (groupRanks r (clGroup d)).filter (· != topoRank r)

/-- The first contribution of each needed rank; none while one is missing. -/
def State.gathered (s : State) (c : Coll) (h : Half) : Option (List Contribution) :=
  (collNeeds s.topo c.desc).mapM fun k => s.link.inbox.find? fun x => c.takes s.topo h x && x.rank == k

/-- The contributions in rank order, the member's own among them where it has one. -/
def inOrder (r : Entry) (d : Entry) (own : List Byte) (xs : List Contribution) : List (List Nat) :=
  let all := (if collSends r d ∧ clOp d ≠ 4 then [(topoRank r, own)] else []) ++ xs.map fun x => (x.rank, x.data)
  ((List.range 32).flatMap fun k => all.filter fun p => p.1 == k).map fun p => collCodes d p.2

/-- Pieces of a destination written in order; those not acknowledged when one faults, the faulting one first. -/
def writePages (h : Half) (ctx : Nat) : List (Nat × Nat) → List Byte → State → List (Nat × Nat) × Option FaultClass × State
  | [], _, s => ([], none, s)
  | p :: t, bs, s =>
    match vwrite (.walker h) ctx p.1 (bs.take p.2) s with
    | (.error f, s) => (p :: t, some f, s)
    | (.ok (), s) => writePages h ctx t (bs.drop p.2) s

/-- Of the pieces not acknowledged at a fault, as many as a free value says were in flight hold unspecified bytes (R189). -/
def flightPages (h : Half) (ctx : Nat) (rest : List (Nat × Nat)) (s : State) : State :=
  let (k, s) := fresh s
  forEach (rest.take (Config.freePick k % (rest.length + 1)))
    (fun p s => (vwrite (.walker h) ctx p.1 ((List.range p.2).map fun i => Config.freeByte k (p.1 + i)) s).2) s

/-- A result written, up to `stop` elements where a fault stops it: bytes in flight are unspecified (R189). -/
def writeResult (c : Coll) (h : Half) (bs : List Byte) (stop : Option Nat) (s : State) : Except FaultClass Unit × State :=
  let ctx := c.job.q.ctx
  let dst := relocated c.st c.job.args (clDst c.desc)
  let done := match stop with
    | none => bs.length
    | some n => min bs.length (n * fmtWidth (clFmt c.desc) / 8)
  match writePages h ctx (pieces dst done) (bs.take done) s with
  | (rest, some f, s) => (.error f, flightPages h ctx rest s)
  | (_, none, s) =>
    if stop.isNone then (.ok (), s)
    else
      let (fly, s) := inFlight (bs.length - done) s
      (.ok (), (vwrite (.walker h) ctx ((dst + done) % 2 ^ 48) fly s).2)

/-- The operation of a step runs on the contributions gathered, to its end or to `stop`: a cause after that many elements. -/
def runCollective (c : Coll) (xs : List Contribution) (stop : Option (Nat × FaultClass)) (quiet : Bool) (s : State) : State :=
  let h := s.hoopHome c.hoop
  let r := s.topo
  let ranks := groupRanks r (clGroup c.desc)
  let read := collSends r c.desc && clOp c.desc != 4
  let (own, s) := if read then
      vread (.walker h) c.job.q.ctx (relocated c.st c.job.args (clSrc c.desc)) (collBytes c.desc) s
    else (.ok [], s)
  match own with
  | .error f => collStop c f (lowLink h) 0 s
  | .ok own =>
    let n := if clOp c.desc = 5 then 2 else ranks.length
    let (codes, sats) := collResult c.desc (ranks.idxOf (topoRank r)) n (inOrder r c.desc own xs)
    let bs := if clOp c.desc = 4 then [] else packElems (fmtWidth (clFmt c.desc)) codes
    let (w, s) := writeResult c h bs (stop.map (·.1)) s
    let s := { s with link := { s.link with inbox := xs.foldl (fun l x => l.erase x) s.link.inbox } }
    match w, stop with
    | .error f, _ => collStop c f (lowLink h) 0 s
    | .ok (), some (_, cls) =>
      if quiet then
        match s.openPart c.hoop c.step 0 with
        | some _ => partFault c.hoop c.step 0 (bumpSys 1 1 s)
        | none => s
      else collStop c cls (lowLink h) 0 s
    | .ok (), none => partEnd c.hoop c.step 0 (bumpSys 2 sats (bumpSys 0 1 s))

/-- Classes that can stop a collective from outside its values (R342, R343). -/
def collCause (cls : FaultClass) : Bool := cls == .arrayCheck || cls == .dramUncorrectable || cls == .storeUncorrectable

/-- A SEND or RECV is joined to its peer by a MEMBER link of the half (R340); in replay nothing is sent. -/
def State.collJoined (s : State) (c : Coll) : Bool :=
  clOp c.desc < 4 || s.rec_.mode == .replay
    || (collLinks s.topo (s.hoopHome c.hoop) c.desc).any fun k => (s.klink k).st == .member

/-- COLLECTIVE_DONE: the step has every contribution it needs; stale messages of a RECV go first. `fixed`: the channels of
corrected errors that its accesses met. -/
def collectiveDone (hoop step : Nat) (stop : Option (Nat × FaultClass)) (fixed : List (BitVec 5)) (s : State) : State :=
  match s.coll hoop step with
  | none => s
  | some c =>
    let h := s.hoopHome hoop
    let s := if clOp c.desc = 5 then dropStale c h s.link.inbox.length s else s
    match s.gathered c h with
    | none => s
    | some xs => if s.collJoined c && (stop.all fun x => collCause x.2) then runCollective c xs stop false (countChannels fixed s) else s

/-- COLLECTIVE_DONE (R340). -/
def execCollectiveDone (hoop : BitVec 4) (step : BitVec 20) (stop : Option (Nat × FaultClass)) (fixed : List (BitVec 5)) (s : State) :
    Host.Outcome State Fault Refusal := .next (collectiveDone hoop.toNat step.toNat stop fixed s)

/-- A damper has cut off a step that stands on no hearth: a COLLECTIVE step's destination is left as R189 has it (R270, R342). -/
def cutCollective (hoop step : Nat) (s : State) : State :=
  match s.coll hoop step with
  | some c =>
    match s.gathered c (s.hoopHome hoop) with
    | some xs =>
      let (k, s) := fresh s
      runCollective c xs (some (Config.freePick k, .damperCutoff)) true s
    | none => partFault hoop step 0 (bumpSys 1 1 s)
  | none =>
    match s.openPart hoop step 0 with
    | some _ => partFault hoop step 0 s
    | none => s

/-- WAIT_EXCEEDED: COLL_WAIT_US have passed since the step's release and a contribution is missing; a stale message is none. -/
def waitExceeded (hoop step : Nat) (s : State) : State :=
  match s.coll hoop step, s.openPart hoop step 0 with
  | some c, some (_, r) =>
    let h := s.hoopHome hoop
    let s := if clOp c.desc = 5 then dropStale c h s.link.inbox.length s else s
    let c' := s.gathered c h
    if !s.link.valid || s.rec_.mode == .replay || (c'.isSome && s.collJoined c) then s
    else collStop c .peerAbsent (lowLink h) cuWait (advanceTo (r.since + usHp (topoWait s.topo)) s)
  | _, _ => s

/-- WAIT_EXCEEDED (R342). -/
def execWaitExceeded (hoop : BitVec 4) (step : BitVec 20) (s : State) : Host.Outcome State Fault Refusal :=
  .next (waitExceeded hoop.toNat step.toNat s)

/-! ### Replica rounds (R347 to R349) -/

/-- The round of an entry that is under way. -/
def State.round (s : State) (i : Nat) : Option Round := s.link.rounds.find? fun x => x.entry == i

/-- The half of a replica entry. -/
def State.repHalf (s : State) (i : Nat) : Half := s.hoopHome (repHoop (s.img.entry 25 i))

/-- A round ends: the next due round of the entry holds the hoop on, or the hoop admits again. -/
def endRound (i : Nat) (s : State) : State :=
  let hoop := repHoop (s.img.entry 25 i)
  let s := { s with link := { s.link with rounds := s.link.rounds.filter fun x => x.entry != i } }
  if s.roundDue i then s
  else tryAdmit hoop (updHoop hoop (fun u => { u with roundHold := u.roundHold.filter (· != i) }) s)

/-- REPLICA_DIGEST of a round (R349). -/
def reportReplica (i k : Nat) (rank : Option Nat) (s : State) : State :=
  let h := s.repHalf i
  report { faultOf h ukFireguard h.idx .replicaDigest with
    hoop := repHoop (s.img.entry 25 i), ctx := repCtx (s.img.entry 25 i), d0 := w64 k, d1 := w64 (rank.getD 0) } (bumpSys 4 1 s)

/-- The rank whose digest alone differs from n − 1 equal ones. -/
def oddRank (ds : List (Nat × List Byte)) : Option Nat :=
  (ds.find? fun d =>
    let rest := ds.filter fun e => e.1 != d.1
    rest.all (fun e => e.2 == (rest.headD d).2) && rest.any fun e => e.2 != d.2).map (·.1)

/-- A rank is expelled: this device fences itself off, or raises its epoch and fences every link to that rank; each fenced link has
its PEER_ABSENT of cause EXPELLED. -/
def expel (i k rank : Nat) (s : State) : State :=
  let s := bumpSys 6 1 (reportReplica i k (some rank) s)
  let r := s.topo
  let old := s.link.epoch
  if rank = topoRank r then
    let s := forEach ((List.range 8).filter fun l => (s.klink l).st == .member) (fun l => expelLink l old) s
    stopAll .east cuExpelled (stopAll .west cuExpelled s)
  else
    let s := { s with link := { s.link with epoch := (old + 1) % 2 ^ 32, broken := true, inbox := [] } }
    let s := forEach ((usedLinks r).filter fun l => partnerRank r l == rank) (fun l => expelLink l old) s
    statusCopy (stopAll .east cuEpoch (stopAll .west cuEpoch s))

/-- A round with all its digests judged, and ended. -/
def judgeRound (x : Round) (s : State) : State :=
  let ds := x.digests
  let all (d : List Byte) : Bool := ds.all fun e => e.2 == d
  let s := if ds.all (fun e => all e.2) then bumpSys 3 1 s
    else match (if 3 ≤ ds.length then oddRank ds else none) with
      | some rank => expel x.entry x.k rank s
      | none => reportReplica x.entry x.k none s
  endRound x.entry s

/-- Digests arrive for a round; with those of every member of the group it is judged. -/
def addDigest (i rank : Nat) (d : List Byte) (s : State) : State :=
  match s.round i with
  | none => s
  | some x =>
    let group := groupRanks s.topo (repGroup (s.img.entry 25 i))
    if !group.contains rank then s
    else
      let y := { x with digests := x.digests.set rank d }
      let s := { s with link := { s.link with rounds := s.link.rounds.map fun z => if z.entry = i then y else z } }
      if group.all fun k => y.digests.any fun e => e.1 == k then judgeRound y s else s

/-- REPLICA_ROUND_START: the hoop that the round holds has ended its job; digests that came early are taken. -/
def roundStart (i : Nat) (s : State) : State :=
  let hoop := repHoop (s.img.entry 25 i)
  let u := s.hoop hoop
  if !s.roundDue i || !u.roundHold.contains i || u.job.isSome || (s.round i).isSome || (s.half (s.repHalf i)).underReset then s
  else
    let k := Tab.get 0 s.link.roundNo i + 1
    let mine := s.link.early.filter fun e => e.1 == i && e.2.1 == k
    let s := { s with link := { s.link with
      roundNo := s.link.roundNo.set i k, rounds := s.link.rounds ++ [⟨i, k, s.hp, []⟩],
      early := s.link.early.filter fun e => !(e.1 == i && e.2.1 ≤ k) } }
    forEach mine (fun e => addDigest i e.2.2.1 e.2.2.2) s

/-- REPLICA_ROUND_START (R348). -/
def execReplicaRoundStart (entry : BitVec 4) (s : State) : Host.Outcome State Fault Refusal := .next (roundStart entry.toNat s)

/-- REPLICA_DIGEST_COMPUTED: the region has been read; its digest is sent to every member and held. A region that cannot be read
leaves the round without a digest. -/
def digestComputed (i : Nat) (ecc : Ecc) (s : State) : State :=
  match s.round i with
  | none => s
  | some x =>
    let e := s.img.entry 25 i
    let h := s.repHalf i
    let me := topoRank s.topo
    if x.digests.any fun d => d.1 == me then s
    else
      let (b, s) := vread (.walker h) (repCtx e) (repBase e) (repBytes e) s
      match b with
      | .error c => report { faultOf h ukFireguard h.idx c with ctx := repCtx e, hoop := repHoop e } s
      | .ok bs =>
        let s := accessEcc (.walker h) (repCtx e) (repBase e) ecc s
        if ecc = .uncorrectable then s
        else
          let d := (sha384 bs).take 32
          addDigest i me d (sendPayloads h ftControl (Config.controlFlits i x.k me d) s)

/-- REPLICA_DIGEST_COMPUTED (R348). -/
def execReplicaDigestComputed (entry : BitVec 4) (ecc : Ecc) (s : State) : Host.Outcome State Fault Refusal :=
  .next (digestComputed entry.toNat ecc s)

/-- REPLICA_ROUND_TIMEOUT: WAIT_US have passed and digests are missing: the round is abandoned. -/
def roundTimeout (i : Nat) (s : State) : State :=
  match s.round i with
  | none => s
  | some x => endRound i (bumpSys 5 1 (advanceTo (x.since + usHp (repWait (s.img.entry 25 i))) s))

/-- REPLICA_ROUND_TIMEOUT (R349). -/
def execReplicaRoundTimeout (entry : BitVec 4) (s : State) : Host.Outcome State Fault Refusal := .next (roundTimeout entry.toNat s)

/-! ### DATA and CONTROL flits (R339) -/

/-- A payload accepted on a link: recorded, sent on where the link layer does, and taken (R341, R348, R361). -/
def takePayload (k ty epoch : Nat) (p : List Byte) (s : State) : State :=
  let h := halfOfLink k
  let dg := s.rec_.digests
  let s := recordEntry 0x06 dg (wordsBytes [w64 (k + at_ 3 ty + at_ 32 epoch)] ++ payloadPart dg p) s
  let s := sendPayloads h ty (Config.relayFlits k p) s
  if ty = ftData then
    let run := (s.klink k).partial_ ++ [p]
    match Config.messageOf run with
    | none => updLink k (fun x => { x with partial_ := run }) s
    | some (rank, head, data) =>
      let s := updLink k (fun x => { x with partial_ := [] }) s
      checkHeaders h { s with link := { s.link with inbox := s.link.inbox ++ [⟨h, k, rank, head, data⟩] } }
  else
    match Config.controlOf p with
    | none => s
    | some (i, n, rank, d) =>
      let current := match s.round i with
        | some x => x.k == n
        | none => false
      if current then addDigest i rank d s
      else if Tab.get 0 s.link.roundNo i < n then { s with link := { s.link with early := s.link.early ++ [(i, n, rank, d)] } }
      else s

/-- A DATA or CONTROL flit in order: accepted under the epoch of a MEMBER link, else dropped and counted (R339). -/
def payloadFlit (k ty : Nat) (f : List Byte) (s : State) : State :=
  let x := s.klink k
  let e := flEpoch f
  if x.st = .member ∧ e = s.link.epoch then takePayload k ty e (flPayload f) s
  else if x.st ≠ .fenced ∧ s.link.epoch < e then bumpLink k 6 1 s
  else report (faultOf (halfOfLink k) ukLink k .linkEpochStale) (bumpLink k 5 1 s)

/-- FLIT_DATA (R339). -/
def execFlitData (k : BitVec 3) (flit : List Byte) (s : State) : Host.Outcome State Fault Refusal :=
  .next (acceptFlit k.toNat ftData flit (payloadFlit k.toNat ftData flit) s)

/-- FLIT_CONTROL (R339). -/
def execFlitControl (k : BitVec 3) (flit : List Byte) (s : State) : Host.Outcome State Fault Refusal :=
  .next (acceptFlit k.toNat ftControl flit (payloadFlit k.toNat ftControl flit) s)

end Sys2Proof.Machine
end

