-- ==== Sys2Proof/Machine/Dampers.lean ====
section
/-! DEFINITION. Dampers: arbitration, the hold limit, shedding and breaches (R265 to R274). -/
namespace Sys2Proof.Machine

/-! ### Grants (R266, R267) -/

/-- OWNER of slot `n`: the effective table where the damper has shed (R273). -/
def State.slotOwner (s : State) (g n : Nat) : Nat :=
  match (s.damper g).table with
  | some t => t.getD n 0
  | none => s.img.byte 3 (256 * g + n) % 32

/-- FIXED of a damper. -/
def State.fixedMode (s : State) (g : Nat) : Bool := (s.img.byte 4 g).testBit 0

/-- Inputs in rotating order after `last`. -/
def rotation (last : Nat) : List Nat := (List.range 16).map fun i => (last + 1 + i) % 16

/-- The half that a requester stands in; the common-strip path of the damper's own half brings the intake and the copy engine. -/
def requesterHalf (g : Nat) : Requester → Half
  | .hearth p => halfOfPhys p.toNat
  | .sequencer h _ | .fireguard h | .pilot h | .linkLayer h _ | .scrubber h => h
  | .intake | .copyEngine _ => halfOfDamper g

/-- The flue port of a requester by its input number in its own half (R265). -/
def requesterPort : Requester → Nat
  | .hearth p => if p.toNat < 16 then p.toNat % 8 else 8
  | .sequencer _ _ | .fireguard _ => 9
  | .pilot _ => 10
  | .linkLayer _ _ => 11
  | .intake | .copyEngine _ => 12
  | .scrubber _ => 14

/-- The hoop whose job works on a physical hearth: that of the position it stands in. -/
def State.hoopOfPhys (s : State) (p : Nat) : Option Nat := do
  let l ← (List.range 16).find? fun l => halfOfPos l == halfOfPhys p && !(s.place l).vacant && (s.place l).physical == p
  s.hoopOfPos l

/-- The owner tag of a requester (R265); none where nothing of it can be under way. The pilot engine's own reads carry SYSTEM
(DESIGN CHOICE, log 52). -/
def State.ownerOf (s : State) (r : Requester) : Option Nat :=
  let home (h : Half) (hoop : BitVec 4) : Option Nat :=
    if hoopValid (s.hoopEntry hoop.toNat) && s.hoopHome hoop.toNat == h then some (hoop.toNat + 1) else none
  match r with
  | .hearth p => if decide (18 ≤ p.toNat) || (s.hearth p.toNat).closed then none else (s.hoopOfPhys p.toNat).map (· + 1)
  | .sequencer h hoop | .linkLayer h hoop => home h hoop
  | .copyEngine hoop => if s.img.copies.any fun c => c.hoop == hoop.toNat then some (hoop.toNat + 1) else none
  | .intake => some 17
  | .fireguard _ | .pilot _ | .scrubber _ => some 18

/-- A request as a damper sees it (R265): one of the other half comes in over the bridge, input 13, and keeps its source port. -/
def State.pendOf (s : State) (g : Nat) (r : Requester) : Option Pend :=
  (s.ownerOf r).map fun o =>
    let h := requesterHalf g r
    ⟨16 * h.idx + requesterPort r, if h = halfOfDamper g then requesterPort r else 13, o⟩

/-- The requests that a decision weighs: the oldest of each source port, for the flue keeps the order of one source (R18). -/
def heads : List Pend → List Pend
  | [] => []
  | r :: t => r :: (heads t).filter fun x => x.port != r.port

/-- The decision of R267: the request granted, and whether its slot owned it. -/
def Damper.choose (x : Damper) (owner : Nat) (fixed : Bool) : Option (Pend × Bool) :=
  let l := heads x.waiting
  let own := l.filter fun r => r.owner == owner
  let first (order : List Nat) (l : List Pend) : Option Pend := order.findSome? fun i => l.find? fun r => r.input == i
  if !own.isEmpty then (first (rotation (Tab.get 15 x.lastOf owner)) own).map fun r => (r, true)
  else
    let order := if fixed then (List.range 16).reverse else rotation x.lastBg
    (first order l).map fun r => (r, false)

/-- A grant made: the pointer advances, and the grant is held from now (R270). -/
def grantOne (g : Nat) (s : State) : State :=
  let h := halfOfDamper g
  let x := s.damper g
  match x.choose (s.slotOwner g x.slotPtr) (s.fixedMode g) with
  | none => s
  | some (r, slot) =>
    let s := updDamper g (fun x =>
      { x with slotPtr := (x.slotPtr + 1) % 256, lastOf := x.lastOf.set r.owner r.input,
               lastBg := if slot then x.lastBg else r.input, waiting := x.waiting.erase r,
               held := x.held ++ [⟨r, (s.half h).ticks⟩] }) s
    bumpDamp h (if slot then 0 else 1) 1 s

/-- The held grants of a source whose transfers have ended leave (R270). -/
def endHeld (l : List Pend) (x : Damper) : Damper := { x with held := x.held.filter fun h => !l.contains h.pend }

/-- DAMPER_REQUEST: held transfers end, the arrivals wait, and one of the pending requests is granted. -/
def damperRequest (g : Nat) (ended arrivals : List Requester) (s : State) : State :=
  if !damperExists g || (s.half (halfOfDamper g)).underReset then s
  else
    let done := ended.filterMap (s.pendOf g)
    let new := arrivals.filterMap (s.pendOf g)
    grantOne g (updDamper g (fun x => { endHeld done x with waiting := x.waiting ++ new }) s)

/-- DAMPER_REQUEST (R267). -/
def execDamperRequest (g : BitVec 6) (ended arrivals : List Requester) (s : State) : Host.Outcome State Fault Refusal :=
  .next (damperRequest g.toNat ended arrivals s)

/-! ### The hold limit (R270) -/

/-- Who holds the grant of a transfer that is cut off: the hearth behind a step's position, or the half's link layer for a
COLLECTIVE; the copy engine for a copy; the intake. None where no such work is open. -/
def State.victimSource (s : State) : Victim → Option Requester
  | .step hoop step pos =>
    match s.part4 [kAttend, kTransfer] hoop.toNat step.toNat pos.toNat with
    | some q => if groupOpen q s then none else some (.hearth (BitVec.ofNat 5 q.phys))
    | none => match s.openPart hoop.toNat step.toNat 0 with
      | some (j, _) => if stepKind (s.stepAt j.q.pricking step.toNat) == kCollective then
          some (.linkLayer (s.hoopHome hoop.toNat) hoop) else none
      | none => none
  | .copy ring tag =>
    (s.img.copies.find? fun c => c.ring == ring.toNat && c.tag == tag.toNat).map fun c => .copyEngine (BitVec.ofNat 4 c.hoop)
  | .intake _ _ => some .intake

/-- The tick before which a grant cannot be of the victim's transfers: its step's release. -/
def State.victimSince (s : State) : Victim → Nat
  | .step hoop step pos => match s.openPart hoop.toNat step.toNat pos.toNat with
    | some (_, r) => r.tick
    | none => 0
  | _ => 0

/-- HOLD_LIMIT of an owner; SYSTEM grants have none. -/
def State.holdLimit (s : State) (h : Half) (owner : Nat) : Option Nat :=
  if 1 ≤ owner ∧ owner ≤ 16 then some (hoopHold (s.hoopEntry (owner - 1)))
  else if owner = 17 then some (hoopHold (s.img.entry 1 (16 + h.idx)))
  else none

/-- A copy cut off ends with ST_FAULT_ADDRESS; the bytes of a write in flight are unspecified (R189). -/
def abortCopy (c : Copy) (s : State) : State :=
  let (k, s) := fresh (dropCopy c s)
  let n := Config.freePick k % (c.bytes + 1)
  let bs := (List.range n).map fun i => Config.freeByte k i
  let s := if c.isIn then (writePhysPieces c.pages bs s).2 else hostWrite c.host.toNat bs s
  replyFinal ⟨c.ring, c.tag, if c.isIn then 0x60 else 0x61, c.ctx, c.hoop⟩ stFaultAddress 0 0 s

/-- The requester's transfer aborted: a step faults, a copy ends, an intake write faults. A damper reaches no pass and no transform,
which use no flue transfer (R90, R101, R140). -/
def abortVictim (v : Victim) (s : State) : State :=
  match v with
  | .copy ring tag =>
    match s.img.copies.find? fun c => c.ring == ring.toNat && c.tag == tag.toNat with
    | none => s
    | some c => abortCopy c s
  | .intake port sel => setFlag (keyOf port.toNat sel.toNat) ffWrite s
  | .step hoop step pos =>
    match s.part4 [kAttend, kTransfer] hoop.toNat step.toNat pos.toNat with
    | none => cutCollective hoop.toNat step.toNat s
    | some q =>
      let (k, s) := fresh s
      let n := Config.freePick k
      if stepKind (s.stepAt q.job.q.pricking q.step) = kTransfer then transferRun q (some (n, .damperCutoff)) s
      else if isAppend q s && groupedPart q s then appendRun q (some (n, .damperCutoff)) s
      else if groupOpen q s then s
      else stopAttend q .damperCutoff s

/-- An unserved request of a source leaves a channel's queue (R270). -/
def unqueue (c port : Nat) : State → State :=
  updChan c fun x => match x.queue.find? fun q => q.req.source.toNat == port with
    | some q => { x with queue := x.queue.erase q }
    | none => x

/-- The grant that a cut-off takes, and the ticks that it has been held. -/
def State.cutGrant (s : State) (g : Nat) (v : Victim) : Option (Grant × Nat) := do
  let p ← (s.victimSource v).bind (s.pendOf g)
  let gr ← (s.damper g).held.find? fun x => x.pend == p && decide (s.victimSince v ≤ x.tick)
  let lim ← s.holdLimit (halfOfDamper g) p.owner
  let held := (s.half (halfOfDamper g)).ticks - gr.tick
  guard (damperExists g && decide (lim < held))
  some (gr, held)

/-- The damper cuts a grant off once the ticks of its hold exceed the owner's HOLD_LIMIT. -/
def damperCutoff (g : Nat) (v : Victim) (s : State) : State :=
  let h := halfOfDamper g
  match s.cutGrant g v with
  | none => s
  | some (gr, held) =>
    let s := updDamper g (fun x => { x with held := x.held.erase gr, flagged := x.flagged ||| 2 ^ gr.pend.input,
                                            cutoffs := satAdd 0xFFFF x.cutoffs 1 }) s
    let s := bumpDamp h 2 1 s
    let s := if g % 32 < 16 then unqueue (16 * h.idx + g % 32) gr.pend.port s else s
    let f := faultOf h ukDamper g .damperCutoff
    let s := report { f with hoop := if gr.pend.owner ≤ 16 then gr.pend.owner - 1 else 0, d0 := w64 gr.pend.input,
                             d1 := w64 (gr.pend.owner + at_ 32 held) } s
    abortVictim v s

/-- DAMPER_CUTOFF (R270). -/
def execDamperCutoff (g : BitVec 6) (victim : Victim) (s : State) : Host.Outcome State Fault Refusal :=
  .next (damperCutoff g.toNat victim s)

/-! ### Shedding (R273) -/

/-- A live capacity that a damper can fall to from outside: a bridge that has lost a link halves, a controller measures less than its
rate-2 G; no rule lowers another damper, and a LOST channel lowers its set's without a row (R273). -/
def shedCause (g cap : Nat) : Bool := (g % 32 == 20 && cap == 128) || decide (g % 32 < 16)

/-- DAMPER_SHED: the live capacity falls. -/
def damperShed (g cap : Nat) (s : State) : State := if shedCause g cap then lowerCapacity g cap s else s

/-- DAMPER_SHED (R273). -/
def execDamperShed (g : BitVec 6) (capacity : BitVec 9) (s : State) : Host.Outcome State Fault Refusal :=
  .next (damperShed g.toNat capacity.toNat s)

end Sys2Proof.Machine
end

