-- ==== Sys2Proof/Machine/Layouts.lean ====
section
/-! DEFINITION. Layouts of image tables, steps and descriptors as lists of fields, for the RESERVED and RANGE checks of R381. -/
namespace Sys2Proof.Machine

/-- A field of an entry: first bit, width, and the values permitted (none listed: every value). -/
structure Field where
  lo     : Nat
  width  : Nat
  ranges : List (Nat × Nat)
  deriving DecidableEq, Repr

/-- Bits `[hi:lo]` of word `w`. -/
def fd (w hi lo : Nat) : Field := ⟨64 * w + lo, hi + 1 - lo, []⟩

/-- Bits `[hi:lo]` of word `w`, from `a` to `b`. -/
def fr (w hi lo a b : Nat) : Field := ⟨64 * w + lo, hi + 1 - lo, [(a, b)]⟩

/-- Bits `[hi:lo]` of word `w`, in one of several ranges. -/
def fs (w hi lo : Nat) (r : List (Nat × Nat)) : Field := ⟨64 * w + lo, hi + 1 - lo, r⟩

/-- The value of a field in an entry read as one little-endian number. -/
def Field.val (f : Field) (n : Nat) : Nat := (n >>> f.lo) % 2 ^ f.width

/-- The field holds a permitted value. -/
def Field.ok (f : Field) (n : Nat) : Bool :=
  f.ranges.isEmpty || f.ranges.any fun r => decide (r.1 ≤ f.val n) && decide (f.val n ≤ r.2)

/-- The bits that a layout's fields cover. -/
def usedMask (l : List Field) : Nat := l.foldl (fun m f => m ||| ((2 ^ f.width - 1) <<< f.lo)) 0

/-- The lowest set bit of a non-zero number. -/
def lowBit (n : Nat) : Nat := Nat.log2 (n ^^^ (n &&& (n - 1)))

/-- The start of the reserved field that holds bit `b`: down to the last covered bit below it, within its word. -/
def runStart (mask : Nat) : Nat → Nat
  | 0 => 0
  | b + 1 => if (b + 1) % 64 = 0 ∨ mask.testBit b then b + 1 else runStart mask b

/-- The position of the first non-zero reserved field (R11, R381). -/
def badReservedBit (l : List Field) (n : Nat) : Option Nat :=
  let m := usedMask l
  let x := n - (n &&& m)
  if x = 0 then none else some (runStart m (lowBit x))

/-- The position of the first field out of range. -/
def badRangeBit (l : List Field) (n : Nat) : Option Nat := (l.find? fun f => !f.ok n).map (·.lo)

/-- An entry's words. -/
def entryWords (words n : Nat) : Entry := (List.range words).map fun k => BitVec.ofNat 64 (n >>> (64 * k))

/-! ### Failures (R381, R382) -/

/-- A failed check: table, code, entry and bit as DETAIL names them. -/
structure Fail where
  table : Nat
  code  : Nat
  entry : Nat
  bit   : Nat
  deriving DecidableEq, Repr

/-- No single field. -/
def noBit : Nat := 0xFFFF

/-- DETAIL (R381). -/
def Fail.detail (f : Fail) : Word := BitVec.ofNat 64 (f.table + at_ 8 f.code + at_ 16 (f.entry % 2 ^ 32) + at_ 48 f.bit)

/-- The order within a code: table, entry, bit. -/
def Fail.before (a b : Fail) : Bool :=
  decide (a.table < b.table)
    || (a.table == b.table && (decide (a.entry < b.entry) || (a.entry == b.entry && decide (a.bit < b.bit))))

/-- The first failure of a list in that order. -/
def firstFail : List Fail → Option Fail
  | [] => none
  | f :: t =>
    match firstFail t with
    | none => some f
    | some g => if g.before f then some g else some f

/-- A failure if a condition holds. -/
def failIf (c : Bool) (f : Fail) : List Fail := if c then [f] else []

/-! Check codes (R382) -/
def ckHeader : Nat := 0x01
def ckDirectory : Nat := 0x02
def ckCrc : Nat := 0x03
def ckSize : Nat := 0x04
def ckReserved : Nat := 0x05
def ckRange : Nat := 0x06
def ckReference : Nat := 0x07
def ckOwnership : Nat := 0x08
def ckChannel : Nat := 0x09
def ckPricking : Nat := 0x0A
def ckDescriptor : Nat := 0x0B
def ckFormat : Nat := 0x0C
def ckLayout : Nat := 0x0D
def ckAdmission : Nat := 0x0E
def ckEscape : Nat := 0x0F
def ckTransform : Nat := 0x10
def ckSelftest : Nat := 0x11
def ckFirmware : Nat := 0x12
def ckDebug : Nat := 0x13

/-! ### Image header, directory, proposal (R276, R375) -/

/-- Image header. -/
def layImage : List Field :=
  [fs 0 31 0 [(0x55544349, 0x55544349)], fr 0 47 32 1 1, fr 0 55 48 1 40, fd 1 31 0, fd 1 47 32, fd 2 63 0]

/-- Directory entry. -/
def layDirectory : List Field := [fd 0 7 0, fd 0 63 32, fd 1 31 0, fd 1 63 32, fd 2 31 0, fd 2 63 32]

/-- Proposal header. -/
def layProposal : List Field := [fd 0 31 0, fr 0 39 32 1 64]

/-- Section header of a proposal. -/
def laySection : List Field := [fr 0 7 0 1 14, fd 0 63 32, fr 1 31 0 1 0xFFFFFFFF]

/-! ### Tables -/

/-- Hoop table (R256): entries 16 and 17 use VALID, HOLD_LIMIT and GUARANTEE only. -/
def layHoop (i : Nat) : List Field :=
  if i < 16 then
    [fd 0 0 0, fd 0 2 1, fd 0 3 3, fd 0 4 4, fd 0 12 5, fd 0 28 13, fd 0 44 29, fd 1 23 0, fd 1 47 24, fd 2 23 0,
     fr 2 39 24 1 65535, fd 3 31 0]
  else [fd 0 0 0, fr 2 39 24 1 65535, fd 3 31 0]

/-- Channels that OUT_MODE produces (R231). -/
def outChans (mode : Nat) : Nat := if mode = 0 then 3 else if mode = 1 then 1 else if mode = 2 then 4 else 0

/-- Recipe (R231): what the mode does not use is reserved. -/
def layRecipe (n : Nat) : List Field :=
  let mode := (n >>> 3) % 4
  let used := List.range (outChans mode)
  [fr 0 2 0 0 6, fd 0 4 3, fr 0 6 5 0 2, fd 0 7 7]
    ++ (if mode = 3 then [] else [fd 0 11 8, fr 0 13 12 0 2]) ++ [fd 0 15 14]
    ++ (if mode = 3 then [] else [fd 0 24 16]) ++ [fd 0 27 26, fd 0 28 28]
    ++ (if mode = 3 then [] else [fd 1 15 0, fd 1 31 16, fd 2 31 0, fd 2 63 32]) ++ [fd 3 31 0]
    ++ (used.map fun c => fd (4 + c / 2) (32 * (c % 2) + 31) (32 * (c % 2)))
    ++ (used.map fun c => fd (6 + c / 2) (32 * (c % 2) + 31) (32 * (c % 2)))

/-- The layout of entry `i` of a fixed table, `n` its contents. -/
def layTable (id i n : Nat) : List Field :=
  match id with
  | 1 => layHoop i
  | 2 => [fd 0 0 0, fd 0 1 1, fd 0 39 16, fd 1 24 0]
  | 3 => if i / 256 % 32 < 24 then [fr 0 4 0 0 18] else []
  | 4 => if i % 32 < 24 then [fd 0 0 0] else []
  | 5 => [fr 0 4 0 0 17]
  | 6 => [fd 0 0 0, fd 0 4 1, fd 0 39 12, fr 1 31 0 1 0xFFFFFFFF]
  | 7 => if i = 0 then [] else [fd 0 15 0]
  | 8 => [fd 0 63 16, fr 1 34 16 0 0x40000]
  | 9 => [fd 0 0 0, fd 0 4 1, fd 1 47 0, fd 2 31 0, fd 2 47 32]
  | 10 => [fd 0 0 0, fd 0 12 1, fd 0 20 13, fd 0 34 21, fd 0 35 35, fd 1 21 0, fd 1 45 22, fd 2 63 0, fd 3 9 0,
           fr 3 16 10 0 64]
  | 11 => [fd 0 0 0, fd 0 1 1, fd 0 2 2, fd 0 14 3, fd 0 63 16, fd 1 31 0, fd 1 47 32]
  | 12 => layRecipe n
  | 13 => [fd 0 15 0, fd 0 17 16, fd 0 63 32]
  | 14 => [fd 0 0 0, fd 0 5 1, fd 0 9 6, fd 0 21 10, fd 0 35 22, fd 0 49 36, fd 1 47 0]
  | 15 => [fd 0 10 0, fd 0 18 11, fr 0 20 19 0 2, fr 0 34 21 1 10000, fr 1 9 0 720 900, fr 1 19 10 750 900,
           fr 1 28 20 100 300, fr 1 35 29 80 108]
  | 16 => [fd 0 0 0, fd 0 5 1, fr 0 8 6 0 4, fd 1 39 21]
  | 18 => [fd 0 0 0, fd 0 5 1, fd 0 9 6, fr 0 63 32 1 5400000, fd 1 21 0, fr 1 47 32 1 65535, fd 2 21 0,
           fr 2 51 32 64 1048512]
  | 20 => [fd 0 0 0, fd 0 4 1, fd 0 8 5, fd 0 18 9, fr 0 27 19 1 256, fr 1 31 0 64 16777216, fr 1 47 32 1 65535, fd 2 39 0,
           fd 3 39 0, fd 3 63 40]
  | 21 => [fr 0 1 0 0 2, fs 0 5 2 [(0, 5), (8, 15)], fs 0 9 6 [(2, 3), (5, 5)], fd 0 18 10, fd 0 27 19, fd 0 63 32, fd 1 31 0,
           fr 1 63 32 1 16777216, fd 2 31 0, fd 2 63 32, fd 3 31 0, fd 3 63 32]
  | 22 => [fd 0 0 0, fd 0 12 1, fd 1 47 0, fd 2 31 0, fd 2 63 32]
  | 24 => [fr 0 15 0 10 1000, fr 0 23 16 1 255, fd 0 39 24, fr 1 31 0 1 100000, fr 2 15 0 0 1024, fr 2 31 16 1 256]
  | 25 => [fd 0 0 0, fd 0 4 1, fr 0 6 5 0 2, fr 0 63 32 1 0xFFFFFFFF, fd 1 47 0, fd 1 59 48, fd 2 36 0, fr 3 31 0 1 10000000]
  | 27 => [fd 0 63 0, fd 1 63 0] ++ (List.range 30).map fun k => fd (2 + k) 63 0
  | _ => []

/-- Tables whose entries carry a VALID field at bit 0. -/
def hasValid (id : Nat) : Bool := [1, 6, 9, 10, 11, 14, 16, 18, 20, 22, 25].contains id

/-! ### Prickings, steps, descriptors -/

/-- Pricking header (R53). -/
def layPricking : List Field :=
  [fd 0 15 0, fd 0 19 16, fd 0 20 20, fr 0 43 24 2 1048575, fd 1 31 0, fd 1 63 32, fd 2 23 0, fr 2 27 24 2 15, fd 2 63 48,
   fd 3 23 0, fd 3 31 24, fd 3 55 32, fr 4 5 0 0 32]

/-- Step (R54, R55): DESC is reserved in WAIT and END steps. -/
def layStep (kind : Nat) : List Field :=
  [fs 0 3 0 [(0, 7), (15, 15)], fd 0 4 4, fd 0 15 8, fd 0 39 16, fd 0 63 40]
    ++ ([1, 2].flatMap fun w => [fd w 13 0, fd w 14 14, fd w 15 15, fd w 20 16, fd w 63 32])
    ++ ([3, 4].flatMap fun w => [fd w 13 0, fd w 14 14, fd w 15 15, fd w 20 16, fd w 21 21, fd w 63 32])
    ++ (if kind = kWait ∨ kind = kEnd then [] else [fd 5 31 0]) ++ [fd 6 0 0, fd 6 5 1]

/-- Pass group header (R87). -/
def layGroup : List Field :=
  [fr 0 7 0 1 255, fr 0 9 8 0 2, fd 0 13 10, fd 0 17 14, fd 0 21 18, fr 0 24 22 0 4, fr 0 26 25 0 2, fr 0 28 27 0 2, fd 0 29 29,
   fd 0 30 30, fr 0 41 32 1 512, fr 0 49 42 1 128, fr 0 53 50 0 7, fd 0 56 54, fd 1 10 0, fd 1 21 11, fr 1 32 22 1 1024,
   fd 1 47 33, fd 2 23 0, fd 3 16 0, fd 3 33 17, fd 3 50 34, fd 4 8 0, fd 4 17 9, fd 5 31 0]

/-- Pass entry (R88). -/
def layPass : List Field := [fd 0 23 0, fd 0 24 24, fd 0 25 25, fd 1 31 0, fd 2 16 0, fd 2 36 17]

/-- Feeder layout descriptor (R128). -/
def layFeed : List Field :=
  [fd 0 16 0, fr 0 18 17 0 2, fr 0 28 19 1 512, fr 0 40 32 0 511, fd 1 22 0, fd 1 45 23, fd 2 15 0, fd 2 31 16,
   fr 2 47 32 1 32767, fr 2 63 48 1 32767, fd 3 2 0, fd 3 5 3, fr 3 7 6 0 2, fd 3 23 8, fr 3 39 24 1 65535]

/-- TRANSFORM descriptor (R136). -/
def layTransform : List Field :=
  [fd 0 1 0, fd 0 6 2, fd 0 11 7, fr 0 21 12 1 512, fr 0 28 22 1 64, fd 0 35 32, fd 0 39 36, fd 0 43 40, fd 1 31 0, fd 2 16 0,
   fd 2 33 17, fd 2 50 34, fd 3 16 0, fd 3 25 17, fd 3 34 26, fd 4 10 0, fd 4 21 11, fr 4 32 22 1 1024, fd 4 47 33,
   fr 5 15 0 1 32767, fr 5 31 16 1 32767]

/-- Attention descriptor (R143): the fields of each mode; the others must be zero. -/
def layAttend (mode : Nat) : List Field :=
  let common := [fr 0 1 0 0 2, fr 0 5 4 0 2, fd 0 9 6, fd 0 13 10, fr 1 12 0 1 8191, fd 1 23 13, fd 2 33 17, fd 3 16 0]
  let both := [fd 0 3 2, fd 0 17 14, fd 0 21 18, fd 0 28 22, fd 0 32 29, fd 1 29 24, fd 1 45 30, fd 2 16 0, fd 2 50 34,
    fd 6 10 0, fd 6 21 11, fr 6 32 22 1 1024]
  if mode = 0 then common ++ both ++ [fd 0 33 33, fd 4 33 17, fd 4 50 34]
  else if mode = 1 then common ++ [fd 0 35 35, fd 7 31 0, fd 7 43 32, fd 7 55 44, fd 7 61 56]
  else common ++ both ++ [fd 0 34 34, fd 3 33 17, fd 3 50 34, fd 4 16 0, fd 5 16 0, fd 5 33 17, fd 5 50 34]

/-- TRANSFER descriptor (R188): what its formats and layouts do not use is reserved. -/
def layTransfer (n : Nat) : List Field :=
  let cmp := (n >>> 2) % 4 = 3 ∨ (n >>> 4) % 4 = 3
  [fd 0 0 0, fd 0 1 1, fd 0 3 2, fd 0 5 4, fd 0 9 6] ++ (if cmp then [fr 0 11 10 0 2] else [])
    ++ (if fmtFloat ((n >>> 6) % 16) ∨ 2 ≤ (n >>> 4) % 4 then [] else [fd 0 20 12])
    ++ [fd 1 47 0, fd 2 47 0, fd 3 31 0, fd 3 63 32, fd 4 31 0, fd 4 63 32, fr 5 15 0 1 32767, fr 5 31 16 1 32767, fd 5 41 32,
        fd 6 15 0, fd 6 31 16, fd 6 47 32] ++ (if cmp then [fd 7 15 0, fd 7 31 16] else [])

/-- INVALIDATE descriptor (R187). -/
def layInvalidate : List Field := [fd 0 47 16, fr 1 31 0 1 0xFFFFFFFF]

/-- RESULT descriptor (R289). -/
def layResult : List Field :=
  [fd 0 5 0, fr 0 8 6 1 4, fd 1 47 0, fr 2 31 0 1 0xFFFFFFFF, fd 3 4 0, fd 3 9 5, fd 3 14 10, fd 3 19 15]

/-- COLLECTIVE descriptor `n` (R340, R346): what the operation, TAG_ARG 0 or FENCE_EN 0 leaves unused is reserved. -/
def layCollective (op n : Nat) : List Field :=
  [fr 0 2 0 0 5] ++ (if op ≤ 1 then [fr 0 4 3 0 2] else []) ++ [fd 0 8 5] ++ (if op ≤ 3 then [fr 0 10 9 0 2] else [])
    ++ (if 3 ≤ op then [fd 0 15 11] else []) ++ [fd 0 16 16]
    ++ (if n.testBit 16 then [fd 0 21 17] else []) ++ (if op = 5 then [] else [fd 1 47 0])
    ++ (if op = 4 then [] else [fd 2 47 0]) ++ [fr 3 31 0 1 0xFFFFFFFF, fd 3 63 32]
    ++ (if op = 4 then [fd 4 15 0] else []) ++ (if op = 5 then [fd 4 30 30] else [])
    ++ (if op = 5 ∧ n.testBit 286 then [fd 4 29 16] else [])

/-! ### Preloads (R378) and scale records (R113, R144) -/

/-- Header of a preload section. -/
def layPreload (kind : Nat) : List Field :=
  [fd 0 39 0, fr 0 43 40 0 3, fd 1 31 0] ++ (if kind = 3 then [fr 1 35 32 6 7, fd 1 59 36] else [])

/-- A positive normal FP32 number. -/
def fp32Range : Nat × Nat := (0x00800000, 0x7F7FFFFF)

/-- Scale record. -/
def layScale : List Field :=
  [fs 0 31 0 [fp32Range], fs 0 63 32 [fp32Range], fs 1 31 0 [fp32Range], fd 1 40 32, fd 1 41 41, fd 1 42 42]

/-- Attention scale record. -/
def layAtScale : List Field :=
  [fs 0 31 0 [fp32Range], fs 0 63 32 [fp32Range], fs 1 31 0 [fp32Range], fs 1 63 32 [fp32Range], fs 2 31 0 [fp32Range],
   fd 2 40 32]

end Sys2Proof.Machine
end

