-- ==== Sys2Proof/Machine/Check.lean ====
section
/-! DEFINITION. Validation of the tables of an image or proposal: steps 4 and 5 of R381, but for prickings and descriptors. The
state that a check reads holds the candidate image; `old` is the image in force under a proposal. -/
namespace Sys2Proof.Machine

/-! ### Bodies -/

/-- `n` bytes from address `a` on; unlisted ones are 0. The cells below `a` are gone. -/
def listed : Memory → Nat → Nat → List Byte
  | _, _, 0 => []
  | [], a, n + 1 => 0 :: listed [] (a + 1) n
  | (b, v) :: t, a, n + 1 => if b = a then v :: listed t (a + 1) n else 0 :: listed ((b, v) :: t) (a + 1) n

/-- The first `n` bytes of a table body. -/
def Image.body (i : Image) (id n : Nat) : List Byte := listed (i.tbl id).cells 0 n

/-- Bytes cut into numbers of `k` bytes each. -/
def chunks (k : Nat) : Nat → List Byte → List Nat
  | 0, _ => []
  | n + 1, bs => ofLE (bs.take k) :: chunks k n (bs.drop k)

/-- The entries of a fixed table, each as one number. -/
def Image.nums (i : Image) (id : Nat) : List Nat :=
  match tableShape id with
  | some (n, b) => chunks b n (i.body id (n * b))
  | none => []

/-- The 64-byte units of a body. -/
def Image.units (i : Image) (id bytes : Nat) : Array Nat :=
  (chunks 64 (ceilDiv bytes 64) (i.body id (ceilDiv bytes 64 * 64))).toArray

/-- Bytes of a table body. -/
def Image.size (i : Image) (id : Nat) : Nat := Tab.get 0 i.sizes id

/-- COUNT of a table. -/
def Image.count (i : Image) (id : Nat) : Nat := Tab.get 0 i.counts id

/-! ### Step 4: SIZE, RESERVED, RANGE -/

/-- Recipes that the checks concern: named by a valid route, or not all zero. -/
def recipeLive (i : Image) (k n : Nat) : Bool :=
  n != 0 || (List.range 512).any fun r => routeValid (i.entry 10 r) && routeRecipe (i.entry 10 r) == k

/-- Comparator entries that the checks concern: named by a valid stream, or not all zero. -/
def cmpLive (i : Image) (k n : Nat) : Bool :=
  n != 0 || (List.range 64).any fun r =>
    let e := i.entry 20 r
    strValid e && decide (strCmpFirst e ≤ k) && decide (k < strCmpFirst e + strCmpCount e)

/-- The data bytes of a channel of the reference density (R199). -/
def State.capacity (s : State) : Nat :=
  match (List.range 32).find? fun c => (s.chan c).populated && (s.chan c).density != 0 with
  | some c => dataBytes (s.chan c).density
  | none => 0

/-- A finite FP32 code. -/
def finite32 (raw : Nat) : Bool := fld (BitVec.ofNat 64 raw) 30 23 != 255

/-- Rules of R232 on a recipe's own fields. -/
def recipeRanges (e : Entry) : List Nat :=
  let mode := rcpOutMode e
  let dt := rcpInDt e
  let suits := if mode = 1 then dt ≤ 1 ∨ dt = 4 ∨ dt = 5 else if mode = 2 then dt = 3 else if mode = 3 then dt = 3 ∨ dt = 6
    else dt ≠ 6
  let fmt := rcpOutFmt e
  let chans := List.range (outChans mode)
  (if suits then [] else [3]) ++ (if rcpBytes e % 64 ≠ 0 then [192] else [])
    ++ (if mode = 3 then [] else
      (if fmtGrid fmt then [8] else [])
        ++ (if fmtFloat fmt then (if rcpOutZp e = 0 then [] else [16])
            else if inRange (zpOutRange fmt) (rcpOutZp e) then [] else [16])
        ++ (chans.filter fun c => !finite32 (rcpMean e c)).map (256 + 32 * ·)
        ++ (chans.filter fun c => !posNormal32 (rcpNscale e c)).map (384 + 32 * ·)
        ++ (if mode = 2 then (if rcpWidth e % 2 ≠ 0 then [64] else []) ++ (if rcpHeight e % 2 ≠ 0 then [80] else []) else []))

/-- Fields of a hoop out of range (R256, R257, R258). -/
def hoopRanges (old : Option Image) (i : Nat) (e : Entry) : List Nat :=
  if 16 ≤ i then []
  else
    let p := hoopPeriod e
    let slot := if hoopPaced e then
        (if p = 0 then [64] else []) ++ (if max p 1 ≤ hoopOffset e then [88] else [])
          ++ (if hoopLength e = 0 ∨ p < hoopLength e then [128] else [])
      else (if p ≠ 0 then [64] else []) ++ (if hoopOffset e ≠ 0 then [88] else []) ++ (if hoopLength e ≠ 0 then [128] else [])
    let was := match old with
      | some o =>
        let x := o.entry 1 i
        if hoopValid x then (if hoopPaced x != hoopPaced e then [3] else []) ++ (if hoopHalf x != hoopHalf e then [4] else [])
        else []
      | none => []
    slot ++ (if hoopHearths e = 0 then [5] else []) ++ was

/-- FP32, finite and not negative (R291). -/
def tolOk (raw : Nat) : Bool := finite32 raw && (decide (raw < 2 ^ 31) || raw == 2 ^ 31)

/-- Fields out of range by rules beyond a layout's ranges; positions of the fields. -/
def extraRanges (s : State) (old : Option Image) (id i : Nat) (e : Entry) : List Nat :=
  match id with
  | 1 => hoopRanges old i e
  | 9 => (if e.f 1 47 0 % 65536 ≠ 0 then [64] else []) ++ (if e.f 2 31 0 % 65536 ≠ 0 then [128] else [])
  | 10 =>
    let n := e.f 3 16 10
    (if e.f 1 21 0 % 64 ≠ 0 then [64] else [])
      ++ (if 1024 < routeScriptFirst e + n ∨ (384 ≤ i ∧ n ≠ 0) then [202] else [])
  | 12 => recipeRanges e
  | 14 => if decCtrl e % 64 ≠ 0 then [64] else []
  | 15 =>
    let t := devTickHp e
    (if t = 25 ∨ (26 ≤ t ∧ t ≤ 1600 ∧ t % 2 = 0) then [] else [0]) ++ (if devVsram e < devVcore e + 50 then [74] else [])
  | 16 =>
    (if setFirst e % setCount e ≠ 0 then [1] else [])
      ++ (if 0x2000000000 < setBase e + setCount e * s.capacity then [85] else [])
  | 18 => (if progOff e % 64 ≠ 0 then [64] else []) ++ (if progOut e % 64 ≠ 0 then [128] else [])
      ++ (if progOutBytes e % 64 ≠ 0 then [160] else [])
  | 20 => if strMaxBytes e % 64 ≠ 0 then [64] else []
  | 21 =>
    let zp (fmt : Nat) (z : Int) : Bool := if fmtFloat fmt then z == 0 else inRange (zpOutRange fmt) z
    (if zp (cmpMfmt e) (cmpMzp e) then [] else [10]) ++ (if zp (cmpPfmt e) (cmpPzp e) then [] else [19])
      ++ (if tolOk (cmpTol e) then [] else [160]) ++ (if posNormal32 (cmpMscale e) then [] else [192])
      ++ (if posNormal32 (cmpPscale e) then [] else [224])
  | 22 => if wgtBase e % 65536 ≠ 0 then [64] else []
  | 25 => (if repBase e % 65536 ≠ 0 then [64] else [])
      ++ (if repBytes e % 65536 ≠ 0 ∨ 2 ^ 36 < repBytes e then [128] else [])
  | _ => []

/-- The lowest of some positions, RESERVED before RANGE at one position. -/
def leastBit : List (Nat × Nat) → Option (Nat × Nat)
  | [] => none
  | x :: t =>
    match leastBit t with
    | none => some x
    | some y => if y.1 < x.1 ∨ (y.1 = x.1 ∧ y.2 < x.2) then some y else some x

/-- The first failing field of an entry: position and code. -/
def entryFault (s : State) (old : Option Image) (id i n : Nat) : Option (Nat × Nat) :=
  let lay := layTable id i n
  let live := if id = 12 then recipeLive s.img i n else if id = 21 then cmpLive s.img i n
    else !hasValid id || n % 2 == 1
  if !live ∧ n = 0 then none
  else
    let reserved := (badReservedBit lay n).toList
    if !live then
      leastBit ((reserved ++ (lay.filter fun f => f.lo != 0 && f.val n != 0).map (·.lo)).map fun b => (b, ckReserved))
    else
      let e := entryWords (ceilDiv (entryBytes id) 8) n
      leastBit (reserved.map (fun b => (b, ckReserved))
        ++ ((badRangeBit lay n).toList ++ extraRanges s old id i e).map fun b => (b, ckRange))

/-- The first failing entry of a fixed table, from entry `i` on. -/
def entriesFault (s : State) (old : Option Image) (id : Nat) : Nat → List Nat → Option Fail
  | _, [] => none
  | i, n :: t =>
    match entryFault s old id i n with
    | some (b, c) => some ⟨id, c, i, b⟩
    | none => entriesFault s old id (i + 1) t

/-- SIZE agrees with COUNT (R381, R382); a table that the image does not carry has both 0. -/
def sizeFault (i : Image) (id : Nat) : Option Fail :=
  let bad := match tableShape id with
    | some (_, b) => i.size id != i.count id * b
    | none => if id = 23 then i.size id != 4 * i.count id else id == 19 && decide (0x400000 < i.size id)
  if bad then some ⟨id, ckSize, 0, noBit⟩ else none

/-! ### Step 5: shared facts -/

/-- Valid hoops of the candidate. -/
def Image.hoopOk (i : Image) (h : Nat) : Bool := decide (h < 16) && hoopValid (i.entry 1 h)

/-- Channels of a hoop. -/
def hoopChans (e : Entry) : List Nat := (maskBits 16 (hoopChannels e)).map (16 * (hoopHalf e).idx + ·)

/-- The hoop that owns a channel. -/
def Image.chanOwner (i : Image) (c : Nat) : Option Nat :=
  (List.range 16).find? fun h => i.hoopOk h && (hoopChans (i.entry 1 h)).contains c

/-- Valid channel sets: number, base, first channel, count. -/
def Image.sets (i : Image) : List (Nat × Nat × Nat × Nat) :=
  ((List.range 32).filter fun k => setValid (i.entry 16 k)).map fun k =>
    let e := i.entry 16 k
    (k, setBase e, setFirst e, setCount e)

/-- A channel that is populated and not LOST. -/
def State.chanServes (s : State) (c : Nat) : Bool := (s.chan c).populated && (s.chan c).st != .lost

/-- Address ranges of a hoop's shared-store ways. -/
def wayRanges (e : Entry) : List (Nat × Nat) :=
  (maskBits 16 (hoopWays e)).map fun w =>
    let a := 0xF000000000 + 0x2000000 * (hoopHalf e).idx + 0x200000 * w
    (a, a + 0x200000)

/-- Address ranges of the host windows in use. -/
def Image.hostRanges (i : Image) : List (Nat × Nat) :=
  ((List.range 16).filter fun n => hostWinSize (i.entry 8 n) != 0).map fun n =>
    let a := 0x8000000000 + n * 2 ^ 34
    (a, a + hostWinSize (i.entry 8 n))

/-- Ranges cover [lo, hi): the covered part grows range by range. -/
def covers (ranges : List (Nat × Nat)) (hi : Nat) : Nat → Nat → Bool
  | 0, lo => decide (hi ≤ lo)
  | n + 1, lo =>
    if hi ≤ lo then true
    else match ranges.find? fun r => decide (r.1 ≤ lo) && decide (lo < r.2) with
      | some r => covers ranges hi n r.2
      | none => false

/-- A range lies in the union of ranges. -/
def covered (ranges : List (Nat × Nat)) (lo hi : Nat) : Bool := covers ranges hi (ranges.length + 1) lo

/-- Pairs of a list, the earlier first. -/
def pairs {α : Type} : List α → List (α × α)
  | [] => []
  | a :: t => t.map (fun b => (a, b)) ++ pairs t

/-- Two ranges share an address. -/
def overlap (a b : Nat × Nat) : Bool := decide (a.1 < b.2) && decide (b.1 < a.2)

/-! ### REFERENCE (0x07) -/

/-- A context is valid. -/
def Image.ctxOk (i : Image) (c : Nat) : Bool := ctxValid (i.entry 6 c)

/-- Owner number of a knot (R260). -/
def Image.knotOwner (i : Image) (k : Nat) : Nat := i.byte 5 k % 32

/-- The decoder of a key in the candidate. -/
def Image.decoderOf (i : Image) (k : Nat) : Option Nat :=
  (List.range 4).find? fun d => decValid (i.entry 14 d) && 16 * decPort (i.entry 14 d) + decSel (i.entry 14 d) == k

/-- References of a route (R232). -/
def routeRefs (i : Image) (k : Nat) : List Fail :=
  let e := i.entry 10 k
  let rc := i.entry 12 (routeRecipe e)
  let dt := rcpInDt rc
  let net := decide (384 ≤ k)
  let suits := if (i.decoderOf k).isSome then dt == 4 || dt == 5 else if net then dt == 6 else decide (dt ≤ 3)
  if !routeValid e then []
  else
    failIf (net && !clsValid (i.entry 11 (k - 384))) ⟨10, ckReference, k, 0⟩
      ++ failIf (!i.ctxOk (routeCtx e)) ⟨10, ckReference, k, 1⟩
      ++ failIf (!suits || (routePilot e && rcpOutMode rc != 3 && rcpOutFmt rc != 2 && rcpOutFmt rc != 3))
          ⟨10, ckReference, k, 13⟩
      ++ failIf (i.knotOwner (routeKnot e) != 17) ⟨10, ckReference, k, 21⟩
      ++ failIf (routePilot e != rcpPilotEn rc) ⟨10, ckReference, k, 35⟩

/-- References of a decoder (R250). -/
def decoderRefs (i : Image) (d : Nat) : List Fail :=
  let e := i.entry 14 d
  let k := 16 * decPort e + decSel e
  let r := i.entry 10 k
  if !decValid e then []
  else
    failIf (!routeValid r || i.decoderOf k != some d) ⟨14, ckReference, d, 1⟩
      ++ failIf (!i.ctxOk (decCtx e) || routeCtx r != decCtx e) ⟨14, ckReference, d, 10⟩
      ++ failIf (i.knotOwner (decCredit e) != ctxHoop (i.entry 6 (decCtx e)) + 1) ⟨14, ckReference, d, 22⟩
      ++ failIf (i.knotOwner (decDone e) != 17) ⟨14, ckReference, d, 36⟩

/-- References of an output stream (R290, R307). -/
def streamRefs (i : Image) (n : Nat) : List Fail :=
  let e := i.entry 20 n
  if !strValid e then []
  else
    failIf (!i.hoopOk (strHoop e)) ⟨20, ckReference, n, 1⟩ ++ failIf (!progValid (i.entry 18 (strPilot e))) ⟨20, ckReference, n, 5⟩
      ++ failIf (decide (1024 < strCmpFirst e + strCmpCount e)) ⟨20, ckReference, n, 19⟩

/-- References of a replica entry (R347). -/
def replicaRefs (i : Image) (n : Nat) : List Fail :=
  let e := i.entry 25 n
  if !repValid e then []
  else
    failIf (!i.hoopOk (repHoop e)) ⟨25, ckReference, n, 1⟩
      ++ failIf (!i.ctxOk (repCtx e) || ctxHoop (i.entry 6 (repCtx e)) != repHoop e) ⟨25, ckReference, n, 112⟩

/-- A hoop number plus one, or 0: it names no hoop that is not valid. -/
def Image.ownerOk (i : Image) (o : Nat) : Bool := o == 0 || decide (16 < o) || i.hoopOk (o - 1)

/-- Entries of a table of bytes whose owner number names an invalid hoop. -/
def ownerRefs (i : Image) (id : Nat) : Nat → List Nat → List Fail
  | _, [] => []
  | k, n :: t => failIf (!i.ownerOk (n % 32)) ⟨id, ckReference, k, 0⟩ ++ ownerRefs i id (k + 1) t

/-- References between tables. -/
def tableRefs (s : State) (old : Option Image) (named : List Nat) : List Fail :=
  let i := s.img
  let gone := match old with
    | some o => (List.range 16).flatMap fun h =>
        failIf (hoopValid (o.entry 1 h) && !i.hoopOk h && named.contains h) ⟨1, ckReference, h, 0⟩
    | none => []
  gone
    ++ ((List.range 256).flatMap fun w => failIf (winSize (i.entry 2 w) != 0 && !i.hoopOk (w / 16)) ⟨2, ckReference, w, 64⟩)
    ++ ownerRefs i 3 0 (i.nums 3) ++ ownerRefs i 5 0 (i.nums 5)
    ++ ((List.range 4096).flatMap fun c => failIf (i.ctxOk c && !i.hoopOk (ctxHoop (i.entry 6 c))) ⟨6, ckReference, c, 1⟩)
    ++ ((List.range 32).flatMap fun r =>
        failIf ((maskBits 16 ((i.entry 7 r).f 0 15 0)).any fun h => !i.hoopOk h) ⟨7, ckReference, r, 0⟩)
    ++ ((List.range 256).flatMap fun p =>
        failIf (poolValid (i.entry 9 p) && !i.hoopOk (poolHoop (i.entry 9 p))) ⟨9, ckReference, p, 1⟩)
    ++ ((List.range 512).flatMap (routeRefs i)) ++ ((List.range 4).flatMap (decoderRefs i))
    ++ ((List.range 64).flatMap (streamRefs i))
    ++ ((List.range 1024).flatMap fun w =>
        failIf (wgtValid (i.entry 22 w) && !i.ctxOk (wgtCtx (i.entry 22 w))) ⟨22, ckReference, w, 1⟩)
    ++ ((List.range 16).flatMap (replicaRefs i))

/-! ### OWNERSHIP (0x08) and CHANNEL (0x09) -/

/-- Hoop `h` shares a position, a channel or a way with a lower valid hoop (R258). -/
def sharing (i : Image) (h : Nat) : List Fail :=
  let e := i.entry 1 h
  let others := ((List.range h).filter fun g => i.hoopOk g && hoopHalf (i.entry 1 g) == hoopHalf e).map (i.entry 1)
  if !i.hoopOk h then []
  else
    failIf (others.any fun x => hoopHearths x &&& hoopHearths e != 0) ⟨1, ckOwnership, h, 5⟩
      ++ failIf (others.any fun x => hoopChannels x &&& hoopChannels e != 0) ⟨1, ckOwnership, h, 13⟩
      ++ failIf (others.any fun x => hoopWays x &&& hoopWays e != 0) ⟨1, ckOwnership, h, 29⟩

/-- A window lies in what its hoop may reach (R259). -/
def windowOk (s : State) (w : Nat) : Bool :=
  let i := s.img
  let e := i.entry 2 w
  let h := w / 16
  let setRange (x : Nat × Nat × Nat × Nat) : Nat × Nat := (x.2.1, x.2.1 + x.2.2.2 * s.capacity)
  let own := (i.sets.filter fun x => i.chanOwner x.2.2.1 == some h).map setRange
  let shared := (i.sets.filter fun x => (i.chanOwner x.2.2.1).isSome).map setRange
  let rw := i.hostRanges ++ wayRanges (i.entry 1 h) ++ own
  winSize e == 0 || !i.hoopOk h || covered (if winWrite e then rw else rw ++ shared) (winBase e) (winBase e + winSize e)

/-- Slots of a damper at an owner that may not hold them, and slots of unpopulated channels (R266). -/
def slotFails (s : State) : Nat → List Nat → List Fail
  | _, [] => []
  | k, n :: t =>
    let i := s.img
    let half := Half.sel (k / 256 / 32)
    let d := k / 256 % 32
    let c := 16 * half.idx + d
    let o := n % 32
    (if n = 0 then []
     else if d < 16 ∧ !(s.chan c).populated then [⟨3, ckChannel, k, 0⟩]
     else failIf ((decide (1 ≤ o) && decide (o ≤ 16) && i.hoopOk (o - 1) && hoopHalf (i.entry 1 (o - 1)) != half)
        || (decide (d < 16) && decide (1 ≤ o) && decide (o ≤ 17) && (i.chanOwner c).isNone)) ⟨3, ckOwnership, k, 0⟩)
      ++ slotFails s (k + 1) t

/-- Channel sets against the hoop table, the population and each other (R203). -/
def setFails (s : State) : List Fail :=
  let i := s.img
  let chans (x : Nat × Nat × Nat × Nat) : List Nat := (List.range x.2.2.2).map (x.2.2.1 + ·)
  (i.sets.flatMap fun x =>
    if (chans x).any fun c => !s.chanServes c then [⟨16, ckChannel, x.1, 1⟩]
    else failIf ((chans x).any fun c => i.chanOwner c != i.chanOwner x.2.2.1) ⟨16, ckOwnership, x.1, 1⟩)
  ++ (pairs i.sets).flatMap fun (x, y) =>
    failIf ((chans x).any fun c => (chans y).contains c) ⟨16, ckOwnership, y.1, 1⟩
      ++ failIf (overlap (x.2.1, x.2.1 + x.2.2.2 * s.capacity) (y.2.1, y.2.1 + y.2.2.2 * s.capacity)) ⟨16, ckOwnership, y.1, 85⟩

/-- Fence knots of R319. -/
def isFence (k : Nat) : Bool := (decide (8184 ≤ k) && decide (k < 8192)) || decide (16376 ≤ k)

/-- Sharing, straddling and absent channels. -/
def ownershipFails (s : State) : List Fail :=
  let i := s.img
  ((List.range 16).flatMap (sharing i))
    ++ ((List.range 16).flatMap fun h =>
        failIf (i.hoopOk h && (hoopChans (i.entry 1 h)).any fun c => !s.chanServes c) ⟨1, ckChannel, h, 13⟩)
    ++ ((List.range 256).flatMap fun w => failIf (!windowOk s w) ⟨2, ckOwnership, w, 16⟩)
    ++ slotFails s 0 (i.nums 3)
    ++ ((List.range 64).flatMap fun g =>
        failIf (i.byte 4 g != 0 && decide (g % 32 < 16) && !(s.chan (16 * (g / 32) + g % 32)).populated) ⟨4, ckChannel, g, 0⟩)
    ++ ((List.range 16384).filter isFence).flatMap (fun k => failIf (i.byte 5 k != 0) ⟨5, ckOwnership, k, 0⟩)
    ++ setFails s

/-! ### DESCRIPTOR (0x0B) and LAYOUT (0x0D) of tables -/

/-- Comparator entries of a stream within its payload and its pilot output (R307). -/
def comparatorFails (i : Image) (n : Nat) : List Fail :=
  let st := i.entry 20 n
  let out := progOutBytes (i.entry 18 (strPilot st))
  if !strValid st then []
  else ((List.range 1024).filter fun k => decide (strCmpFirst st ≤ k) && decide (k < strCmpFirst st + strCmpCount st)).flatMap fun k =>
    let e := i.entry 21 k
    let pn := cmpCount e * (if cmpRule e = 2 then 2 else 1)
    failIf (decide (strMaxBytes st < packedBytes (cmpMfirst e + cmpCount e) (fmtWidth (cmpMfmt e)))) ⟨21, ckDescriptor, k, 64⟩
      ++ failIf (decide (out < packedBytes (cmpPfirst e + pn) (fmtWidth (cmpPfmt e)))) ⟨21, ckDescriptor, k, 128⟩

/-- A chunk of a weight region lies in its context's windows. Windows are ranges of physical addresses and the region one of virtual
addresses, so a chunk that the context's tables map must land in a window that grants reads; one that no table maps yet lies nowhere
(log 53). -/
def State.chunkInWindows (s : State) (ctx va : Nat) : Bool :=
  match s.walk ctx va with
  | none => true
  | some l => s.windowGrants (ctxHoop (s.img.entry 6 ctx)) (l.pbase + va % 2 ^ l.bits) false

/-- A weight region within the address space and its context's windows, and its entries in the chunk check list (R305, R307). -/
def weightFails (s : State) (w : Nat) : List Fail :=
  let i := s.img
  let e := i.entry 22 w
  let h := ctxHoop (i.entry 6 (wgtCtx e))
  let window := (List.range 16).any fun k => winRead (i.entry 2 (16 * h + k)) && winSize (i.entry 2 (16 * h + k)) != 0
  if !wgtValid e then []
  else
    failIf (!window || decide (2 ^ 48 < wgtBase e + 65536 * wgtChunks e)
        || (List.range (wgtChunks e)).any fun k => !s.chunkInWindows (wgtCtx e) (wgtBase e + 65536 * k)) ⟨22, ckDescriptor, w, 64⟩
      ++ failIf (decide (i.count 23 < wgtIndex e + wgtChunks e)) ⟨22, ckDescriptor, w, 160⟩

/-- Two valid pilot programs name one key: the later one fails (R307). -/
def keyClashes (i : Image) : List Fail :=
  let key (p : Nat) : Nat := 16 * progPort (i.entry 18 p) + progSel (i.entry 18 p)
  (pairs ((List.range 16).filter fun p => progValid (i.entry 18 p))).flatMap fun (a, b) =>
    failIf (key a == key b) ⟨18, ckDescriptor, b, 1⟩

/-- A hoop of CRIT above 0 in detect-only mode (R304, R307). -/
def detectFails (i : Image) : List Fail :=
  failIf ((List.range 16).any fun h => safDetectOnly (i.entry 24 0) h && hoopCrit (i.entry 1 h) != 0) ⟨24, ckDescriptor, 0, 24⟩

/-- Strides of a recipe's output tensor (R124, R125, R232) and its extent in bytes. -/
def recipeExtent (e : Entry) : Bool × Nat :=
  let (rows, cols) := tensorDims e
  let ch := outChans (rcpOutMode e)
  let w := fmtWidth (rcpOutFmt e)
  let row := rcpRow e
  let plane := rcpPlane e
  if rcpLayout e = 2 then
    let pos := packedBytes ch w
    (decide (pos ≤ plane) && decide (cols * plane ≤ row), (rows - 1) * row + (cols - 1) * plane + pos)
  else
    let bs := blockOf (rcpLayout e)
    let pb := bs * w / 8
    (decide (cols * pb ≤ row) && decide (rows * row ≤ plane) && row % 64 == 0 && plane % 64 == 0,
     (ceilDiv ch bs - 1) * plane + (rows - 1) * row + cols * pb)

/-- Layout of a recipe's buffers: strides, and BUFFER_BYTES of at least the output's extent plus 64. COPY forms no tensor, so only
the record's 64 bytes bound it. -/
def recipeLayout (i : Image) (k n : Nat) : List Fail :=
  let e := i.entry 12 k
  let (ok, ext) := recipeExtent e
  if !recipeLive i k n then []
  else if rcpOutMode e = 3 then failIf (decide (rcpBytes e < 64)) ⟨12, ckLayout, k, 192⟩
  else if !ok then [⟨12, ckLayout, k, 128⟩]
  else failIf (decide (rcpBytes e < ext + 64)) ⟨12, ckLayout, k, 192⟩

/-- Layouts of the recipes, from recipe `k` on. -/
def recipeLayouts (i : Image) : Nat → List Nat → List Fail
  | _, [] => []
  | k, n :: t => recipeLayout i k n ++ recipeLayouts i (k + 1) t

/-- The units of a pilot program: the end of its last group, and the highest unit that a FEED names, as byte offsets from
PROG_OFF (R287). -/
def progExtent (u : Array Nat) (base : Nat) : Nat → Nat → Nat → Nat × Nat
  | 0, off, top => (off, top)
  | n + 1, off, top =>
    let p := grpPasses (entryWords 8 (u.getD (base + off / 64) 0))
    let feeds := (List.range p).map fun j =>
      ((u.getD (base + off / 64 + 1 + j / 2) 0) >>> (256 * (j % 2) + 64)) % 2 ^ 32
    progExtent u base n (off + 64 * groupUnits p) (feeds.foldl (fun m f => max m (64 * (f + 1))) top)

/-- What lies in a pilot's local store, with the entry that places it and the field reported when it leaves the store. -/
def localItems (i : Image) : List ((Nat × Nat) × Nat × Nat × Nat) :=
  let u := i.units 19 (i.size 19)
  let copies := ((List.range 512).filter fun k => routeValid (i.entry 10 k) && routePilot (i.entry 10 k)).map fun k =>
    let e := i.entry 10 k
    ((routePilotOff e, routePilotOff e + 2 * pilotSlot (i.entry 12 (routeRecipe e))), 10, k, 64)
  let progs := ((List.range 16).filter fun p => progValid (i.entry 18 p)).flatMap fun p =>
    let e := i.entry 18 p
    let (last, top) := progExtent u (progOff e / 64) (progGroups e) 0 0
    let out (k : Nat) : Nat × Nat := (progOut e + k * (progOutBytes e + 64), progOut e + (k + 1) * (progOutBytes e + 64))
    [((progOff e, progOff e + max last top), 18, p, noBit), (out 0, 18, p, noBit), (out 1, 18, p, noBit)]
  copies ++ progs

/-- Local-store ranges beyond 4 MiB or overlapping (R232, R307): of an overlapping pair the later entry fails. -/
def localFails (i : Image) : List Fail :=
  let items := localItems i
  (items.flatMap fun x => failIf (decide (0x400000 < x.1.2)) ⟨x.2.1, ckLayout, x.2.2.1, x.2.2.2⟩)
    ++ (pairs items).flatMap fun (x, y) => failIf (overlap x.1 y.1) ⟨y.2.1, ckLayout, y.2.2.1, noBit⟩

/-- Payload slots within one host window (R307). -/
def payloadFails (i : Image) (n : Nat) : List Fail :=
  let e := i.entry 20 n
  let inWin (a bytes : Nat) : Bool := i.hostRanges.any fun r => decide (r.1 ≤ a) && decide (a + bytes ≤ r.2)
  if !strValid e then []
  else
    failIf (!inWin (strPay e) (strSlots e * strMaxBytes e)) ⟨20, ckLayout, n, 128⟩
      ++ failIf (!inWin (strFb e) (strSlots e * progOutBytes (i.entry 18 (strPilot e)))) ⟨20, ckLayout, n, 192⟩

/-- The payload ranges of a valid stream: main and fall-back slots, each with the bit of its address field. -/
def payloadRanges (i : Image) (n : Nat) : List ((Nat × Nat) × Nat × Nat) :=
  let e := i.entry 20 n
  if !strValid e then []
  else [((strPay e, strPay e + strSlots e * strMaxBytes e), n, 128),
        ((strFb e, strFb e + strSlots e * progOutBytes (i.entry 18 (strPilot e))), n, 192)]

/-- Payload ranges that overlap: the later one fails (R382). -/
def payloadClashes (i : Image) : List Fail :=
  (pairs ((List.range 64).flatMap (payloadRanges i))).flatMap fun p =>
    failIf (overlap p.1.1 p.2.1) ⟨20, ckLayout, p.2.2.1, p.2.2.2⟩

/-! ### ADMISSION (0x0E; R272) -/

/-- C(c): G at rate 2 in MB/s (R213). -/
def gRate2 (fsp : Nat) : Nat := if fsp = 0 then 9010 else if fsp = 1 then 6760 else 3380

/-- The sum of rate_o(S) over the sets of a half, times 256. -/
def rateOf (i : Image) (half : Half) (owner : Nat) : Nat :=
  (i.sets.filter fun x => halfOfChan x.2.2.1 == half).foldl (fun a x =>
    let slots := (List.range x.2.2.2).map fun k =>
      ((i.slots (32 * half.idx + (x.2.2.1 + k) % 16)).filter (· == owner)).length
    a + x.2.2.2 * slots.foldl min 256 * gRate2 (devFsp (i.entry 15 0))) 0

/-- The first check: owners whose GUARANTEE exceeds their rate; a hoop without channels guarantees nothing (R258). -/
def admissionOwners (i : Image) : List Fail :=
  (List.range 18).flatMap fun o =>
    let e := i.entry 1 o
    let half := if o < 16 then hoopHalf e else Half.sel (o - 16)
    failIf (hoopValid e && (decide (rateOf i half (if o < 16 then o + 1 else 17) / 256 < hoopGuarantee e)
      || (decide (o < 16) && hoopChannels e == 0 && hoopGuarantee e != 0))) ⟨1, ckAdmission, o, 192⟩

/-- The owner that first brings the running sum of GUARANTEE above a limit. -/
def overSum (i : Image) (limit : Nat) : Nat → List Nat → List Fail
  | _, [] => []
  | run, o :: t =>
    let e := i.entry 1 o
    let run := run + (if hoopValid e then hoopGuarantee e else 0)
    if limit < run then [⟨1, ckAdmission, o, 192⟩] else overSum i limit run t

/-- The second check, of a half. -/
def admissionHalf (s : State) (half : Half) : List Fail :=
  let i := s.img
  let chans := ((List.range 16).map (16 * half.idx + ·)).filter s.chanServes
  overSum i (chans.length * gRate2 (devFsp (i.entry 15 0))) 0
    (((List.range 16).filter fun h => i.hoopOk h && hoopHalf (i.entry 1 h) == half) ++ [16 + half.idx])

/-! ### DEBUG_CERT (0x13; R383) -/

/-- A signature block of a message: key slot, key, r, s; the reserved bytes zero; the key's hash fused and not revoked (R372). -/
def signatureOk (p : Part) (msg block : List Byte) (keyAt : Nat) : Bool :=
  let slot := ofLE (block.take 4)
  let key := slice block keyAt 96
  let used (k : Nat) : Bool := decide (k < 4) || (decide (keyAt ≤ k) && decide (k < keyAt + 192))
  decide (slot < 4) && (List.range block.length).all (fun k => used k || block.getD k 0 == 0)
    && Tab.get [] p.keyHash slot == sha384 key && !p.revoked.getLsbD slot
    && ecdsaVerify (sha384 msg) (ofBE (key.take 48)) (ofBE (key.drop 48)) (ofBE (slice block (keyAt + 96) 48))
        (ofBE (slice block (keyAt + 144) 48))

/-- The debug certificate of an image: present, for this device, signed under a slot with the debug permission. -/
def debugOk (p : Part) (cert : List Byte) : Bool :=
  let block := slice cert 16 240
  wordAt cert 0 == p.serial && ofLE (slice cert 8 4) == 0x55544442 && ofLE (slice cert 12 4) == 0
    && signatureOk p (cert.take 16) block 8 && p.debugPerm.getLsbD (ofLE (block.take 4))

end Sys2Proof.Machine
end

