-- ==== Sys2Proof/Machine/CheckSteps.lean ====
section
/-! DEFINITION. Validation of prickings, descriptors, pilot programs and preload sections: R381 steps 4 and 5 for tables 17, 19
and 26. -/
namespace Sys2Proof.Machine

/-! ### A body of 64-byte units -/

/-- What a descriptor is checked against: its table, the units, the unit of descriptor 0 and how many descriptors there are, the
bytes of the store that its offsets address, a reader of that store where the image carries it, and whether a pilot runs it. -/
structure Src where
  table : Nat
  units : Array Nat
  base  : Nat
  count : Nat
  limit : Nat
  rd    : Nat → Byte
  pilot : Bool

/-- Unit `u` as words. -/
def Src.entry (x : Src) (u : Nat) : Entry := entryWords 8 (x.units.getD u 0)

/-- A failure at a bit of unit `u`; bits past 511 lie in the units that follow (R381). -/
def Src.fail (x : Src) (code u bit : Nat) : Fail :=
  if bit = noBit then ⟨x.table, code, u, noBit⟩ else ⟨x.table, code, u + bit / 512, bit % 512⟩

/-- Failures of several conditions: code, bit, condition. -/
def Src.fails (x : Src) (u : Nat) (l : List (Nat × Nat × Bool)) : List Fail :=
  (l.filter fun c => c.2.2).map fun c => x.fail c.1 u c.2.1

/-- Reserved and out-of-range fields of a structure `n` at bit `off` of unit `u`. -/
def Src.fields (x : Src) (cRes cRan u off n : Nat) (lay : List Field) : List Fail :=
  ((badReservedBit lay n).toList.map fun b => x.fail cRes u (off + b))
    ++ (badRangeBit lay n).toList.map fun b => x.fail cRan u (off + b)

/-- The landing and destination ranges (R89, R139, R160, R382): `w` is the word that holds both pages. -/
def Src.ranges (x : Src) (u w dest land pages : Nat) : List Fail :=
  x.fails u [(ckLayout, 64 * w, decide (x.limit < 4096 * (dest + pages))),
    (ckLayout, 64 * w + 11, decide (x.limit < 4096 * (land + pages)) || overlap (dest, dest + pages) (land, land + pages))]

/-! ### Feeder layouts (R128 to R131) -/

/-- Strides of a tensor that reaches `rows`, `cols`, `ch` (R124, R125); `al`: the alignment of the store. -/
def stridesOk (lay w al row plane rows cols ch : Nat) : Bool :=
  if lay = 2 then decide (packedBytes ch w ≤ plane) && decide (cols * plane ≤ row)
  else decide (cols * (blockOf lay * w / 8) ≤ row) && decide (rows * row ≤ plane) && row % al == 0 && plane % al == 0

/-- The last coordinate inside [0, n) among `o`, `o + st`, … (`k` of them), if any. -/
def lastInside (o : Int) (st k n : Nat) : Option Nat :=
  if k = 0 ∨ (n : Int) ≤ o then none
  else
    let j := min (k - 1) (((n : Int) - 1 - o).toNat / max st 1)
    let v := o + ((j * st : Nat) : Int)
    if v < 0 then none else some v.toNat

/-- The end of the bytes that a grid of positions reads of a feeder's tensor; 0 when all are halo. -/
def gridEnd (d : Entry) (w : Nat) (x0 : Int) (sx kx : Nat) (y0 : Int) (sy ky : Nat) : Nat :=
  match lastInside x0 sx kx (feedW d), lastInside y0 sy ky (feedH d) with
  | some x, some y =>
    let (a, k) := elemAt (feedLayout d) (feedBase d) (feedA d) (feedRow d) w y x (feedCh0 d + feedCh d - 1)
    a + packedBytes (k + 1) w
  | _, _ => 0

/-- HALO_CONST suits the class of the operand (R131). -/
def haloOk (fmt c : Nat) : Bool :=
  if fmtFloat fmt then !(c / 128 % 256 == 255 && c % 128 != 0) else decide (c / 512 = 0)

/-- A feeder layout at unit `u` for an operand in `fmt`; `reach` is the end of what is read, `ch` the channels asked for. -/
def Src.feed (x : Src) (u fmt ch : Nat) (reach : Entry → Nat) : List Fail :=
  let d := x.entry u
  x.fields ckReserved ckRange u 0 (x.units.getD u 0) layFeed
    ++ x.fails u [(ckRange, 32, feedCh0 d % 4 != 0), (ckDescriptor, 19, feedCh d != ch),
      (ckRange, 200, !fmtFloat fmt && feedConst d % 512 == 256), (ckDescriptor, 200, !haloOk fmt (feedConst d)),
      (ckDescriptor, 87, !stridesOk (feedLayout d) (fmtWidth fmt) 16 (feedRow d) (feedA d) (feedH d) (feedW d)
        (feedCh0 d + feedCh d)),
      (ckLayout, 0, decide (x.limit < reach d))]

/-! ### Pass groups (R89, R112, R131, R286) -/

/-- The values of a group's pass entries, each with its bit from the group's first unit. -/
def Src.passes (x : Src) (u p : Nat) : List (Nat × Nat) :=
  (List.range p).map fun j => ((x.units.getD (u + 1 + j / 2) 0 >>> (256 * (j % 2))) % 2 ^ 256, 512 + 256 * j)

/-- An operand format serves an OP (R79, R81). -/
def opSuits (op fmt : Nat) : Bool := op == 0 || op == 4 || !fmtFloat fmt

/-- Rules on the header of a group alone. -/
def groupHead (x : Src) (u : Nat) (g : Entry) : List Fail :=
  let (k, n) := formKN (grpForm g)
  let sf := grpSfmt g
  let tf := grpTfmt g
  let mixed := (fmtFloat sf && !fmtFloat tf) || (!fmtFloat sf && fmtFloat tf)
  let small (f : Nat) : Bool := f == 2 || f == 3
  x.fields ckReserved ckRange u 0 (x.units.getD u 0) layGroup
    ++ x.fails u [(ckRange, 32, decide (k < grpK g)), (ckRange, 42, decide (n < grpN g)),
      (ckDescriptor, 50, grpForm g != 0 && grpT g != 1), (ckDescriptor, 54, grpForm g != 0 && grpD g != 1),
      (ckDescriptor, 32, grpK g % grpT g != 0), (ckDescriptor, 10, sf == 5), (ckDescriptor, 14, tf == 5),
      (ckDescriptor, 22, !opSuits (grpOp g) sf || !opSuits (grpOp g) tf), (ckFormat, 14, mixed),
      (ckFormat, 18, fmtGrid (grpOfmt g)), (ckFormat, 30, grpStoch g && fmtInt (grpOfmt g)),
      (ckFormat, 256, !inRange (zpRange sf) (grpZpS g)), (ckFormat, 265, !inRange (zpRange tf) (grpZpT g)),
      (ckLayout, 192, decide (x.limit < grpScale g + 64)),
      (ckDescriptor, 64 * 2, grpSeg g != 0 && decide (grpSeg g < (grpT g - 1) * grpD g + 1))]
    ++ x.ranges u 1 (grpDest g) (grpLand g) (grpPages g)
    ++ (if !x.pilot then [] else
      x.fails u [(ckDescriptor, 8, grpForm g != 0), (ckDescriptor, 10, !small sf), (ckDescriptor, 14, !small tf),
        (ckDescriptor, 18, !small (grpOfmt g) && grpOfmt g != 5), (ckDescriptor, 22, grpOp g != 0 && grpOp g != 4),
        (ckDescriptor, 25, grpCombine g == 2), (ckDescriptor, 27, grpReduce g != 0), (ckDescriptor, 29, grpNonfiniteOk g),
        (ckDescriptor, 30, grpStoch g), (ckFormat, 192, (readScale x.rd g).isNone)])

/-- Bytes of an output row (R88). -/
def outRowBytes (g : Entry) : Nat :=
  packedBytes (grpN g) (fmtWidth (grpOfmt g)) + (if grpCombine g = 0 then 0 else 2 * grpN g)
    + (if grpReduce g = 0 then 0 else 4 * grpN g)

/-- The end of what a pass reads of its feeder's tensor. -/
def passReach (g p d : Entry) : Nat :=
  let w := fmtWidth (grpSfmt g)
  let rl := feedRowLen d
  let full := passRows p / max rl 1
  max (gridEnd d w (feedX0 d) (feedSx d) rl (feedY0 d) (feedSy d) full)
    (gridEnd d w (feedX0 d) (feedSx d) (passRows p % max rl 1) (feedY0 d + ((full * feedSy d : Nat) : Int)) (feedSy d) 1)

/-- Rules on one pass: its fields, its feeder and its tile. -/
def passHead (x : Src) (u : Nat) (g : Entry) (n bit : Nat) : List Fail :=
  let p := entryWords 4 n
  let f := passFeed p
  let pitch := ceilDiv (packedBytes (grpK g) (fmtWidth (grpTfmt g))) 64 * 64
  x.fields ckReserved ckRange u bit n layPass
    ++ x.fails u [(ckReference, bit + 64, decide (x.count ≤ f)),
      (ckDescriptor, bit, grpSeg g != 0 && passRows p % grpSeg g != 0),
      (ckDescriptor, bit, grpSeg g == 0 && decide (passRows p < (grpT g - 1) * grpD g + 1)),
      (ckLayout, bit + 128, !passKeep p && decide (x.limit < passTile p + grpN g * pitch))]
    ++ (if x.count ≤ f then [] else
      x.feed (x.base + f) (grpSfmt g) (grpK g / grpT g) (passReach g p)
        ++ x.fails (x.base + f) [(ckDescriptor, 216, grpSeg g != 0 && feedRowLen (x.entry (x.base + f)) != grpSeg g)])

/-- The chains of a group: each a list of its passes, the last without CHAIN. -/
def chainsOf : List (Entry × Nat) → List (Entry × Nat) → List (List (Entry × Nat))
  | acc, [] => if acc.isEmpty then [] else [acc.reverse]
  | acc, p :: t => if passChain p.1 then chainsOf (p :: acc) t else (p :: acc).reverse :: chainsOf [] t

/-- Rules on a chain: equal output rows, the carry store, the k positions of MAX and MIN, and where the output lies. -/
def chainFails (x : Src) (u : Nat) (g : Entry) (c : List (Entry × Nat)) : List Fail :=
  let rows (p : Entry × Nat) : Nat := outRows (passRows p.1) (grpSeg g) (grpT g) (grpD g)
  let last := c.getLastD ([], 0)
  let n := rows last
  let written := if grpReduce g = 0 then n else min n 1
  x.fails u [(ckDescriptor, last.2 + 24, passChain last.1),
    (ckDescriptor, last.2, c.any fun p => rows p != n),
    (ckDescriptor, last.2, decide (2 ≤ c.length) && decide (65536 < n * grpN g)),
    (ckDescriptor, last.2 + 24, grpCombine g != 0 && (decide (128 < c.length) || decide (65535 < c.length * grpK g))),
    (ckDescriptor, last.2 + 145, !passChain last.1 && written != 0
      && decide (grpPages g * 4096 < passOut last.1 + (written - 1) * grpStride g + outRowBytes g))]

/-- A pass group at unit `u`. -/
def Src.group (x : Src) (u : Nat) : List Fail :=
  let g := x.entry u
  let ps := x.passes u (grpPasses g)
  let first := (ps.take 1).filter fun p => passKeep (entryWords 4 p.1)
  let pad := x.units.getD (u + grpPasses g / 2 + 1) 0 / 2 ^ 256
  groupHead x u g ++ (ps.flatMap fun p => passHead x u g p.1 p.2)
    ++ (first.map fun p => x.fail ckDescriptor u (p.2 + 25))
    ++ ((chainsOf [] (ps.map fun p => (entryWords 4 p.1, p.2))).flatMap (chainFails x u g))
    ++ failIf (grpPasses g % 2 == 1 && pad != 0) (x.fail ckReserved u (512 * (grpPasses g / 2 + 1) + 256))

/-! ### Transforms (R135, R139) -/

/-- The bound of a decoded magnitude (R135). -/
def magnitude (fmt : Nat) : Nat :=
  if fmt ≤ 1 then 15 else if fmt ≤ 3 then 255 else if fmt = 4 then 33023 else 32768

/-- A transform descriptor at unit `u`. -/
def Src.transform (x : Src) (u : Nat) : List Fail :=
  let e := x.entry u
  let l := trL e
  let f := trFeed e
  let fd_ := x.entry (x.base + f)
  let ok (fmt : Nat) : Bool := [0, 1, 2, 3, 4, 6, 7].contains fmt
  let tap (k : Nat) : Bool := decide (7 ≤ k) && decide (k ≤ 32) && decide (k ≤ l / 2)
  let pitch := ceilDiv (packedBytes (trKh e * trKw e) (fmtWidth (trWfmt e))) 64 * 64
  let out := (trW e * trH e - 1) * trStride e + packedBytes (trNout e) (fmtWidth (trOfmt e))
  let reach (d : Entry) : Nat := gridEnd d (fmtWidth (trXfmt e)) (feedX0 d) 1
      ((tilesOf (trW e) l (trKw e) - 1) * (l - trKw e + 1) + l) (feedY0 d) 1
      ((tilesOf (trH e) l (trKh e) - 1) * (l - trKh e + 1) + l)
  x.fields ckReserved ckRange u 0 (x.units.getD u 0) layTransform
    ++ x.fails u [(ckReference, 64, decide (x.count ≤ f)), (ckDescriptor, 2, !tap (trKh e)), (ckDescriptor, 7, !tap (trKw e)),
      (ckDescriptor, 32, !ok (trXfmt e)), (ckDescriptor, 36, !ok (trWfmt e)), (ckFormat, 40, fmtGrid (trOfmt e)),
      (ckFormat, 209, !inRange (zpRange (trXfmt e)) (trZpX e)), (ckFormat, 218, !inRange (zpRange (trWfmt e)) (trZpW e)),
      (ckDescriptor, noBit, decide (524288 < trCin e * (trNout e + 1) * l * l)),
      (ckDescriptor, noBit, decide (trPages e * 4096 < out)),
      (ckLayout, 128, decide (x.limit < trWgt e + trNout e * trCin e * pitch)),
      (ckLayout, 145, decide (x.limit < trScale e + 64)),
      (ckTransform, noBit,
        decide ((trPrime - 1) / 2 ≤ trCin e * trKh e * trKw e * magnitude (trXfmt e) * magnitude (trWfmt e)))]
    ++ x.ranges u 4 (trDest e) (trLand e) (trPages e)
    ++ (if x.count ≤ f then [] else
      x.feed (x.base + f) (trXfmt e) (trCin e) reach
        ++ x.fails (x.base + f) [(ckDescriptor, 192, feedSx fd_ != 1), (ckDescriptor, 195, feedSy fd_ != 1)])

/-! ### Attention (R160) -/

/-- What an APPEND takes from its group. -/
def appendFails (x : Src) (u : Nat) (e : Entry) : List Fail :=
  let g := x.entry (x.base + atPass e)
  let ps := (x.passes (x.base + atPass e) (grpPasses g)).map fun p => entryWords 4 p.1
  let rows := groupRows g ps
  let span := atHk e * atDh e
  let most := if atOrient e = 0 then grpN g else rows.length
  let tokens := if atOrient e = 0 then rows.length else grpN g
  let last := if atOrient e = 0 then atSeq e + 1 else atSeq e + tokens
  if x.count < atPass e + groupUnits (grpPasses g) then [x.fail ckReference u 448]
  else
    x.group (x.base + atPass e)
      ++ x.fails u [(ckDescriptor, 6, grpOfmt g != atQk e), (ckDescriptor, 10, atQk e != atV e),
        (ckDescriptor, 480, decide (most < atKfirst e + span)), (ckDescriptor, 492, decide (most < atVfirst e + span)),
        (ckDescriptor, 448, atOrient e == 0 && decide (65536 < tokens)),
        (ckLayout, 145, decide (x.limit < atSeqOff e + 32 * last)),
        (ckLayout, 192, atOrient e == 0 && decide (x.limit < atSegQ e + 2 * tokens))]

/-- What FORWARD and BACKWARD read and write. -/
def queryFails (x : Src) (u : Nat) (e : Entry) : List Fail :=
  let nq := atNq e
  let back := atMode e == 2
  let pages := atPages e * 4096
  let rows := (nq - 1) * outPitch e + packedBytes (atDh e) (fmtWidth (atO e))
  let grads := atKblocks e * 128 * 4 * atDh e
  let qPitch := ceilDiv (packedBytes (atDh e) (fmtWidth (atQk e))) 64 * 64
  x.fails u [(ckDescriptor, 22, decide (128 < nq)), (ckDescriptor, 14, ! [11, 13, 14].contains (atP e)),
      (ckDescriptor, 18, if back then ! [13, 14, 15].contains (atO e) else [5, 6, 7].contains (atO e)),
      (ckLayout, 128, decide (x.limit < atQoff e + nq * qPitch)), (ckLayout, 145, decide (x.limit < atSeqOff e + 32 * (atSeq e + 1))),
      (ckLayout, 162, decide (x.limit < atScale e + 64)), (ckLayout, 192, segMask e && decide (x.limit < atSegQ e + 2 * nq))]
    ++ x.ranges u 6 (atDest e) (atLand e) (atPages e)
    ++ (if back then x.fails u [(ckLayout, 209, decide (x.limit < atDo e + rows)),
          (ckLayout, 226, decide (x.limit < atStatIn e + 8 * nq)), (ckLayout, 256, decide (x.limit < atOin e + rows)),
          (ckDescriptor, 320, decide (pages < atDq e + nq * 4 * atDh e)), (ckDescriptor, 337, decide (pages < atDk e + grads)),
          (ckDescriptor, 354, decide (pages < atDv e + grads))]
        else x.fails u [(ckDescriptor, 273, decide (pages < atOoff e + rows)),
          (ckDescriptor, 290, atStats e && decide (pages < atStat e + 8 * nq))])

/-- An attention descriptor at unit `u`. -/
def Src.attend (x : Src) (u : Nat) : List Fail :=
  let e := x.entry u
  x.fields ckReserved ckRange u 0 (x.units.getD u 0) (layAttend (atMode e))
    ++ x.fails u [(ckDescriptor, 6, ! [0, 2, 11, 12, 13, 14].contains (atQk e)),
      (ckDescriptor, 10, ! [11, 12, 13, 14].contains (atV e))]
    ++ (if atMode e = 1 then appendFails x u e else if atMode e = 3 then [] else queryFails x u e)

/-! ### Transfers (R124, R125, R169, R173, R190) -/

/-- One end of a transfer: its reach from the tensor's origin in rows and columns, and the rows that a firebox holds. -/
def endFails (x : Src) (u : Nat) (d : Entry) (e : End) (rows cols held bAddr bRow bBox : Nat) : List Fail :=
  let w := fmtWidth (tfFmt d)
  let ch := tfCh d
  let bb := cmpBytes (tfCmode d)
  if e.lay = 3 then
    let th := tfTh d
    let tw := tfTw d
    x.fails u [(ckDescriptor, bAddr, e.addr % 64 != 0), (ckDescriptor, bBox, e.box),
      (ckDescriptor, bRow, decide (e.row < ceilDiv tw 8 * bb) || e.row % 64 != 0),
      (ckDescriptor, bRow + 32, decide (e.plane < ceilDiv th 8 * e.row) || e.plane % 64 != 0),
      (ckDescriptor, 448, decide (tw < cols)), (ckDescriptor, 464, decide (th < rows))]
  else
    let al := if e.box then 16 else 64
    let (a, k) := elemAt e.lay e.addr e.plane e.row w (held - 1) (cols - 1) (ch - 1)
    let end_ := if e.lay = 2 then a + packedBytes (k + 1) w else a + blockOf e.lay * w / 8
    x.fails u [(ckDescriptor, bRow, !stridesOk e.lay w al e.row e.plane rows cols ch),
      (ckLayout, bAddr, e.box && decide (x.limit < end_))]

/-- A compressed destination is written in whole blocks by every engine of a split: each piece begins at a row that is a multiple
of 8 of the tensor and ends at one or at its last row (R170, R173). -/
def splitOk (d : Entry) (engines : Nat) : Bool :=
  tfSplit d == 0 || (List.range engines).all fun i =>
    let lo := i * tfSplit d
    let hi := min ((i + 1) * tfSplit d) (tfH d)
    decide (hi ≤ lo) || ((tfY d + lo) % 8 == 0 && ((tfY d + hi) % 8 == 0 || tfY d + hi == tfTh d))

/-- A TRANSFER descriptor at unit `u`, of the step `st`. -/
def Src.transfer (x : Src) (u : Nat) (st : Entry) : List Fail :=
  let d := x.entry u
  let src := srcEnd st d []
  let dst := dstEnd st d []
  let src := { src with addr := tfSrc d }
  let dst := { dst with addr := tfDst d }
  let cmp := src.lay == 3 || dst.lay == 3
  let edge (o n t : Nat) : Bool := o % 8 == 0 && ((o + n) % 8 == 0 || o + n == t)
  let held := if dst.box && tfSplit d != 0 then min (tfSplit d) (tfH d) else tfH d
  let many := decide (1 < (stepPositions st).length)
  x.fields ckReserved ckRange u 0 (x.units.getD u 0) (layTransfer (x.units.getD u 0))
    ++ x.fails u [(ckDescriptor, 6, cmp && !(tfFmt d == 2 || tfFmt d == 3)),
      (ckDescriptor, 384, dst.lay == 3 && !edge (tfX d) (tfW d) (tfTw d)),
      (ckDescriptor, 400, dst.lay == 3 && !edge (tfY d) (tfH d) (tfTh d)),
      (ckDescriptor, 416, (!dst.box && many && tfSplit d == 0) || (dst.lay == 3 && !splitOk d (stepPositions st).length))]
    ++ endFails x u d src (tfY d + tfH d) (tfX d + tfW d) (tfY d + tfH d) 64 192 0
    ++ endFails x u d dst (tfH d) (tfW d) held 128 256 1

/-! ### Prickings (R53 to R56, R67) -/

/-- The prickings of a body: unit of the header and the header. -/
def prickUnits (u : Array Nat) : Nat → Nat → List (Nat × Entry)
  | 0, _ => []
  | n + 1, k =>
    let h := entryWords 8 (u.getD k 0)
    (k, h) :: prickUnits u n (k + ceilDiv (prkBytes h) 64)

/-- Items of a body that overrun it: the unit where the first begins (R382 SIZE). -/
def overrun (size : Nat) (items : List (Nat × Nat)) : Option Nat :=
  (items.find? fun i => decide (size < 64 * i.1 + i.2)).map (·.1)

/-- The least failing field of one unit, RESERVED before RANGE. -/
def unitFault (table u n : Nat) (lay : List Field) (extra : List Nat) : Option Fail :=
  (leastBit ((badReservedBit lay n).toList.map (fun b => (b, ckReserved))
    ++ ((badRangeBit lay n).toList ++ extra).map fun b => (b, ckRange))).map fun r => ⟨table, r.2, u, r.1⟩

/-- Fields of a step out of range beyond its layout: WCET of WAIT and END, LATEST of an unpaced pricking (R54, R55). -/
def stepRanges (paced : Bool) (e : Entry) : List Nat :=
  let k := stepKind e
  (if (k = kWait ∨ k = kEnd) ∧ stepWcet e ≠ 0 then [16] else []) ++ (if !paced && stepLatest e != 0xFFFFFF then [40] else [])

/-- The first failing field of a pricking's header and steps: `prev` is the NUMBER before it. -/
def prickFault (u : Array Nat) (prev : Option Nat) (k : Nat) (h : Entry) : Option Fail :=
  let low := match prev with
    | some p => decide (prkNumber h ≤ p)
    | none => false
  let extra := (if low then [0] else []) ++ (if prkDescOff h % 64 ≠ 0 then [64] else [])
  match unitFault 17 k (u.getD k 0) layPricking extra with
  | some f => some f
  | none => (List.range (prkSteps h)).findSome? fun n =>
      let e := entryWords 8 (u.getD (k + 1 + n) 0)
      unitFault 17 (k + 1 + n) (u.getD (k + 1 + n) 0) (layStep (stepKind e)) (stepRanges (prkPaced h) e)

/-- The knots that step `p` posts and step `n` waits on. -/
def sharedKnots (p n : Entry) : List Nat :=
  [0, 1].flatMap fun i => if waitEn n i && [0, 1].any fun j => postEn p j && postKnot p j == waitKnot n i then [waitKnot n i] else []

/-- `p` is a predecessor of `n` (R67). -/
def precedes (p n : Entry) : Bool :=
  stepSerial n || !(sharedKnots p n).isEmpty
    || (unitsOf (stepKind p) (stepParts p)).any fun x => (unitsOf (stepKind n) (stepParts n)).contains x

/-- LATEST of every step, computed as R67 lays down; `done`: the earlier steps with theirs, the last first. -/
def latests (tick : Nat) (half : Half) : List (Entry × Nat) → List Entry → List Nat
  | _, [] => []
  | done, n :: t =>
    let b := match done with
      | [] => 0
      | (_, l) :: _ => done.foldl (fun b p =>
          if precedes p.1 n then
            max b (p.2 + ticksOf tick (stepWcet p.1) + 1
              + (if (sharedKnots p.1 n).any fun k => halfOfKnot k != half then ceilDiv 500 (10 * tick) else 0))
          else b) l
    b :: latests tick half ((n, b) :: done) t

/-- Argument indexes of a step, with their bits (R56). DESIGN CHOICE (log 48): a wait or post whose EN is 0 uses no index, and its
index is not checked; a step with RELOC 1 has its index checked whatever its kind. -/
def stepArgs (e : Entry) : List (Nat × Nat) :=
  ([0, 1].flatMap fun i => if waitEn e i && waitArg e i then [(64 * (1 + i) + 16, waitIdx e i)] else [])
    ++ ([0, 1].flatMap fun i => if postEn e i && postArg e i then [(64 * (3 + i) + 16, postIdx e i)] else [])
    ++ (if stepReloc e then [(385, stepRelocIdx e)] else [])

/-- An INVALIDATE, RESULT or COLLECTIVE descriptor at unit `d`, of the step at unit `u`. -/
def plainDesc (i : Image) (x : Src) (hoop args u d : Nat) (st : Entry) : List Fail :=
  let e := x.entry d
  let n := x.units.getD d 0
  let k := stepKind st
  let stream := i.entry 20 (rsStream e)
  let argFails (l : List (Nat × Nat)) : List Fail := x.fails d (l.map fun a => (ckPricking, a.1, decide (args ≤ a.2)))
  if k = kInvalidate then x.fields ckReserved ckRange d 0 n layInvalidate
  else if k = kResult then
    x.fields ckReserved ckRange d 0 n layResult
      ++ x.fails d [(ckReference, 0, !strValid stream || strHoop stream != hoop), (ckRange, 64, rsSrc e % 64 != 0),
        (ckDescriptor, 128, decide (strMaxBytes stream < rsBytes e))]
      ++ argFails ((List.range (rsFrames e)).map fun f => (192 + 5 * f, rsFarg e f))
  else
    x.fields ckReserved ckRange d 0 n (layCollective (clOp e) n)
      ++ x.fails d [(ckRange, 64, clSrc e % 64 != 0), (ckRange, 128, clDst e % 64 != 0),
        (ckDescriptor, 5, decide (clOp e ≤ 1) && ! [5, 13, 14, 15].contains (clFmt e)),
        (ckReference, 272, clOp e == 5 && clFenceEn e && i.knotOwner (clFence e) != hoop + 1)]
      ++ x.fails u [(ckDescriptor, 8, stepHearths st != 0)]
      ++ (if clTagArg e then argFails [(17, clTagIdx e)] else [])

/-- The descriptor that a step names (R410): every unit of it lies in the table. -/
def stepDescFails (i : Image) (x : Src) (hoop args u : Nat) (st : Entry) : List Fail :=
  let k := stepKind st
  let d := stepDesc st
  let at_ := x.base + d
  let len := if k = kPass then groupUnits (grpPasses (x.entry at_)) else 1
  if k = kWait ∨ k = kEnd then []
  else if x.count < d + (if x.count ≤ d then 1 else len) then [x.fail ckReference u 320]
  else
    failIf (stepReloc st && (k == kPass || k == kAttend || k == kTransform)) (x.fail ckDescriptor u 384)
      ++ (if k = kPass then x.group at_ else if k = kAttend then x.attend at_ else if k = kTransform then x.transform at_
          else if k = kTransfer then x.transfer at_ st else plainDesc i x hoop args u at_ st)

/-- Rules of R56 on one step at unit `u`. -/
def stepFails (i : Image) (x : Src) (h : Entry) (u latest : Nat) (st : Entry) : List Fail :=
  let hoop := prkHoop h
  let mine := hoopHearths (i.entry 1 hoop)
  x.fails u ([(ckPricking, 8, (maskBits 8 (stepHearths st)).any fun p => !mine.testBit p),
      (ckPricking, noBit, decide (stepLatest st < latest))]
      ++ ([0, 1].map fun j => (ckPricking, 64 * (3 + j), postEn st j && i.knotOwner (postKnot st j) != hoop + 1))
      ++ (stepArgs st).map fun a => (ckPricking, a.1, decide (prkArgWords h ≤ a.2)))
    ++ stepDescFails i x hoop (prkArgWords h) u st

/-- Cross-table rules of a pricking whose header is unit `k`. -/
def prickingFails (i : Image) (u : Array Nat) (k : Nat) (h : Entry) : List Fail :=
  let hoop := prkHoop h
  let e := i.entry 1 hoop
  let x : Src := ⟨17, u, k + prkDescOff h / 64, prkDescCount h, 0x800000, fun _ => 0, false⟩
  let steps := (List.range (prkSteps h)).map fun n => entryWords 8 (u.getD (k + 1 + n) 0)
  let tick := devTickHp (i.entry 15 0)
  let ls := latests tick (hoopHalf e) [] steps
  let last := steps.length - 1
  let total := ls.getD last 0 + ticksOf tick (stepWcet (steps.getD last []))
  let ends := (List.range steps.length).filter fun n => stepKind (steps.getD n []) == kEnd
  failIf (!i.hoopOk hoop) (x.fail ckReference k 16)
    ++ x.fails k [(ckPricking, 20, prkPaced h != hoopPaced e),
      (ckPricking, 128, decide (prkTotal h < total) || (prkPaced h && decide (hoopLength e < prkTotal h)))]
    ++ failIf (ends != [last]) (x.fail ckPricking (k + 1 + ends.headD last) 0)
    ++ (List.range steps.length).flatMap fun n =>
        stepFails i x h (k + 1 + n) (if prkPaced h then ls.getD n 0 else 0) (steps.getD n [])

/-- Cross-table rules of table 17. -/
def pricksFails (i : Image) : List Fail :=
  let u := i.units 17 (i.size 17)
  (prickUnits u (i.count 17) 0).flatMap fun p => prickingFails i u p.1 p.2

/-- Failures of single fields: RESERVED and RANGE, the codes of R381's step 4. -/
def fieldFails (l : List Fail) : List Fail := l.filter fun f => f.code == ckReserved || f.code == ckRange

/-- The first failing field of the pricking table: headers, steps, and the descriptors and pass groups that steps name. -/
def prickFaults (i : Image) (u : Array Nat) : Option Nat → List (Nat × Entry) → Option Fail
  | _, [] => none
  | prev, (k, h) :: t =>
    match firstFail ((prickFault u prev k h).toList ++ fieldFails (prickingFails i u k h)) with
    | some f => some f
    | none => prickFaults i u (some (prkNumber h)) t

/-- Step 4 of table 17. -/
def pricksFault (i : Image) : Option Fail :=
  let u := i.units 17 (i.size 17)
  let ps := prickUnits u (i.count 17) 0
  match overrun (i.size 17) (ps.map fun p => (p.1, prkBytes p.2)) with
  | some k => some ⟨17, ckSize, k, noBit⟩
  | none => prickFaults i u none ps

/-- Hoops that prickings name. -/
def namedHoops (i : Image) : List Nat :=
  (prickUnits (i.units 17 (i.size 17)) (i.count 17) 0).map fun p => prkHoop p.2

/-! ### Pilot programs (R286, R287) -/

/-- The groups of a program, back to back from unit `k`. -/
def progGroupsFails (x : Src) : Nat → Nat → List Fail
  | 0, _ => []
  | n + 1, k => x.group k ++ progGroupsFails x n (k + groupUnits (grpPasses (x.entry k)))

/-- Cross-table rules of the pilot store image. -/
def pilotFails (i : Image) : List Fail :=
  let u := i.units 19 (i.size 19)
  let st := i.tbl 19
  ((List.range 16).filter fun p => progValid (i.entry 18 p)).flatMap fun p =>
    let e := i.entry 18 p
    let x : Src := ⟨19, u, progOff e / 64, 2 ^ 33, 0x400000, st.read, true⟩
    progGroupsFails x (progGroups e) (progOff e / 64)

/-! ### Preload sections (R378) -/

/-- Unit, KIND, PADDR, BYTES, FMT and ROW_ELEMENTS of the sections of a body. -/
structure Section where
  unit  : Nat
  head  : Nat
  kind  : Nat
  paddr : Nat
  bytes : Nat
  fmt   : Nat
  elems : Nat
  deriving DecidableEq, Repr

/-- The sections, each followed by the next 64-byte boundary. -/
def sectionsOf (u : Array Nat) : Nat → Nat → List Section
  | 0, _ => []
  | n + 1, k =>
    let h := u.getD k 0 % 2 ^ 128
    let e := entryWords 2 h
    let s : Section := ⟨k, h, e.f 0 43 40, e.f 0 39 0, e.f 1 31 0, e.f 1 35 32, e.f 1 59 36⟩
    s :: sectionsOf u n (k + ceilDiv (64 + s.bytes) 64)

/-- Two preload ranges share an address: the later section fails (R382). -/
def preloadClashes (l : List Section) : List Fail :=
  (pairs l).flatMap fun p =>
    failIf (overlap (p.1.paddr, p.1.paddr + p.1.bytes) (p.2.paddr, p.2.paddr + p.2.bytes)) ⟨26, ckLayout, p.2.unit, 0⟩

/-- The sections of an image. -/
def Image.sections (i : Image) : List Section := sectionsOf (i.units 26 (i.size 26)) (i.count 26) 0

/-- RB: bytes of a row of a grid tensor. -/
def Section.rowBytes (s : Section) : Nat := ceilDiv (packedBytes s.elems (fmtWidth s.fmt)) 64 * 64

/-- The data of a section. -/
def Section.data (i : Image) (s : Section) : List Byte := (i.tbl 26).readN (64 * s.unit + 16) s.bytes

/-- The first failing field of a section (R381 step 4). -/
def sectionFault (u : Array Nat) (s : Section) : Option Fail :=
  let rb := s.rowBytes
  let extra := (if s.paddr % 64 ≠ 0 then [0] else [])
    ++ (if s.bytes % 64 ≠ 0 ∨ ((s.kind = 1 ∨ s.kind = 2) ∧ s.bytes < 64) ∨ (s.kind = 3 ∧ (rb = 0 ∨ s.bytes % rb ≠ 0)) then [64]
        else [])
  match unitFault 26 s.unit s.head (layPreload s.kind) extra with
  | some f => some f
  | none =>
    let last := s.unit + s.bytes / 64
    if u.getD last 0 / 2 ^ 128 = 0 then none else some ⟨26, ckReserved, last, 128⟩

/-- Step 4 of table 26. -/
def preloadFault (i : Image) : Option Fail :=
  let u := i.units 26 (i.size 26)
  match overrun (i.size 26) (i.sections.map fun s => (s.unit, 64 + s.bytes)) with
  | some k => some ⟨26, ckSize, k, noBit⟩
  | none => i.sections.findSome? (sectionFault u)

/-- A preload range lies in DRAM of valid channel sets or in assigned ways. -/
def sectionPlaced (s : State) (x : Section) : Bool :=
  let i := s.img
  let sets := i.sets.map fun y => (y.2.1, y.2.1 + y.2.2.2 * s.capacity)
  let ways := ((List.range 16).filter i.hoopOk).flatMap fun h => wayRanges (i.entry 1 h)
  covered (sets ++ ways) x.paddr (x.paddr + x.bytes)

/-- A level entry of a preloaded record fails (R378). -/
def badLevel (b : List Byte) : Bool := let v := ofLE b; v / 512 != 0 || v == 256

/-- A scale record of a section, with its level tables. -/
def recordFails (x : Src) (s : Section) (data : List Byte) : List Fail :=
  let n := ofLE (data.take 64)
  let lay := if s.kind = 1 then layScale else layAtScale
  let e := entryWords 8 n
  let levels := ((List.range ((s.bytes - 64) / 2)).find? fun k => badLevel (slice data (64 + 2 * k) 2)).map fun k => 512 + 16 * k
  let product := isNormal32 (rne32 (.ofRat (f32 (e.f 0 31 0) * f32 (e.f 0 63 32) * f32 (e.f 2 31 0))))
    && isNormal32 (rne32 (.ofRat (f32 (e.f 1 31 0) / f32 (e.f 1 63 32))))
  x.fields ckFormat ckFormat s.unit 128 n lay
    ++ (if s.kind = 1 then levels.toList.map fun b => x.fail ckFormat s.unit (128 + b)
        else failIf (!product) (x.fail ckFormat s.unit noBit))

/-- A row of a grid tensor holds two escapes in an aligned group of 16 (R86). -/
def rowDense (fmt : Nat) (row : List Byte) (elems : Nat) : Bool :=
  escapesDense ((List.range elems).map fun k =>
    isEscape fmt (elemRead (fun a => row.getD a 0) 0 (fmtWidth fmt) k))

/-- Cross-table rules of the preload table. -/
def preloadFails (s : State) : List Fail :=
  let i := s.img
  let x : Src := ⟨26, i.units 26 (i.size 26), 0, 0, 0, fun _ => 0, false⟩
  preloadClashes i.sections ++ i.sections.flatMap fun p =>
    let data := p.data i
    failIf (!sectionPlaced s p) (x.fail ckLayout p.unit 0)
      ++ (if p.kind = 1 ∨ p.kind = 2 then recordFails x p data
          else if p.kind = 3 then
            ((List.range (p.bytes / max p.rowBytes 1)).find? fun r =>
              rowDense p.fmt (slice data (r * p.rowBytes) p.rowBytes) p.elems).toList.map fun r =>
                x.fail ckEscape (p.unit + (16 + r * p.rowBytes) / 64) noBit
          else [])

/-! ### The order of the checks (R381) -/

/-- Step 4 for table `id`. -/
def tableFault (s : State) (old : Option Image) (id : Nat) : Option Fail :=
  match sizeFault s.img id with
  | some f => some f
  | none =>
    if id = 17 then pricksFault s.img
    else if id = 19 then firstFail (fieldFails (pilotFails s.img))
    else if id = 26 then preloadFault s.img
    else entriesFault s old id 0 (s.img.nums id)

/-- CHECKER_SELFTEST is latched: by KINDLING's injections, or by those of a half's restart (R310). -/
def State.selftestFailed (s : State) : Bool :=
  s.boot.selftest || [s.west, s.east].any fun h => h.danger && h.latchClass == classCode .checkerSelftest

/-- Every failure of step 5, but DEBUG_CERT. -/
def crossFails (s : State) (old : Option Image) : List Fail :=
  let i := s.img
  tableRefs s old (namedHoops i) ++ ownershipFails s ++ pricksFails i
    ++ ((List.range 64).flatMap (comparatorFails i)) ++ ((List.range 1024).flatMap (weightFails s)) ++ keyClashes i
    ++ detectFails i ++ pilotFails i ++ recipeLayouts i 0 (i.nums 12) ++ localFails i
    ++ ((List.range 64).flatMap (payloadFails i)) ++ payloadClashes i ++ preloadFails s
    ++ failIf s.selftestFailed ⟨0, ckSelftest, 0, noBit⟩

/-- The first of the ADMISSION failures: at one entry the first check of R272 comes before the second. -/
def admissionFault (s : State) : Option Fail :=
  firstFail (admissionOwners s.img ++ admissionHalf s .west ++ admissionHalf s .east)

/-- Step 5: the codes in increasing order. -/
def crossFault (s : State) (old : Option Image) : Option Fail :=
  let fs := crossFails s old
  let cert := s.img.body 27 256
  [ckReference, ckOwnership, ckChannel, ckPricking, ckDescriptor, ckFormat, ckLayout, ckAdmission, ckEscape, ckTransform,
   ckSelftest, ckDebug].findSome? fun c =>
    if c = ckAdmission then admissionFault s
    else if c = ckDebug then
      (if s.img.size 27 != 0 && !debugOk s.part cert then some ⟨27, ckDebug, 0, noBit⟩ else none)
    else firstFail (fs.filter fun f => f.code == c)

/-- Steps 4 and 5 of R381 on the candidate that `s.img` holds. -/
def validate (s : State) (old : Option Image) : Option Fail :=
  match (List.range 28).findSome? (tableFault s old) with
  | some f => some f
  | none => crossFault s old

end Sys2Proof.Machine
end

