-- ==== Sys2Proof/Machine/Intake.lean ====
section
/-! DEFINITION. The intake's commands: frame rings and commits, cameras, lidar packets, stalls and paths (R21, R222 to R243). -/
namespace Sys2Proof.Machine

/-- The intake runs: out of COLD and KINDLING (R374). -/
def State.intakeUp (s : State) : Bool := s.dev.st != .cold && s.dev.st != .kindling

/-- A command of the intake: nothing happens in a device that does not run it (log 2). -/
def intake (f : State → State) (s : State) : Host.Outcome State Fault Refusal := .next (if s.intakeUp then f s else s)

/-! ### Rings and commits (R233, R236, R239) -/

/-- Every buffer of a ring translates with write permission through the port's cache. -/
def probeBuffers (port ctx bytes : Nat) : List Nat → State → Bool × State
  | [], s => (true, s)
  | b :: t, s =>
    match vprobe (.unit (.port (BitVec.ofNat 5 port))) ctx true (pieces b bytes) s with
    | (true, s) => probeBuffers port ctx bytes t s
    | (false, s) => (false, s)

/-- Another key of the port holds a pending ring of the context. -/
def State.pendingElsewhere (s : State) (port sel ctx : Nat) : Bool :=
  (List.range 16).any fun i => i != sel && ((s.key (keyOf port i)).pending.map (·.1)) == some ctx

/-- A commit of the key still owes its final reply (R233 step 3). -/
def Key.commitOwed (x : Key) : Bool :=
  x.commit.isSome || (x.closed.any fun f => f.commit.isSome) || (match x.frame with
    | some f => f.commit.isSome
    | none => false)

/-- SET_FRAME_RING past R46 step 8: the checks of R233 in order. The route checked is the agreed one (log 24). -/
def setFrameRing (pkt : List Word) (t : Tagged) (s : State) : State :=
  let w := pkt.getD 1 0
  let port := fld w 4 0
  let sel := fld w 15 5
  let k := keyOf port (sel % 16)
  let route := s.img.entry 10 k
  let bufs := (pkt.drop 2).map (·.toNat)
  if 15 < sel ∨ fld w 20 16 ≠ pkt.length - 2 ∨ !(s.dev.imageValid && routeValid route) ∨ routeCtx route ≠ t.ctx then
    answer t stBadParam 0 0 s
  else if bufs.any fun b => b % 64 != 0 then answer t stBadParam 0 0 s
  else if s.pendingElsewhere port sel t.ctx || (s.key k).commitOwed then answer t stBadParam 0 0 s
  else
    match probeBuffers port t.ctx (rcpBytes (s.img.entry 12 (routeRecipe route))) bufs s with
    | (false, s) => answer t stFaultAddress 0 0 s
    | (true, s) => answer t stOk 0 0 (updKey k (fun x => { x with pending := some (t.ctx, bufs) }) s)

/-- SET_FRAME_RING (R233). -/
def execSetFrameRing (ring : BitVec 5) (pkt : List Word) (s : State) : Host.Outcome State Fault Refusal :=
  packet "SET_FRAME_RING" (packetWf 0x30 pkt) ring.toNat pkt (setFrameRing pkt) s

/-- Some FRAME entry of a key has yet to be fed (R365). -/
def State.framesToFeed (s : State) (k : Nat) : Bool :=
  s.rec_.mode == .replay && s.rec_.fed.any fun e =>
    fld (wordAt e 0) 7 0 == 3 && keyOf (fld (wordAt e 64) 4 0) (fld (wordAt e 64) 8 5) == k

/-- The commit waits for a frame start: its sensor is present, its control write has yet to arrive, or the record still has a frame of
the key (R20, R236, R367). -/
def State.commitWaits (s : State) (k : Nat) (t : Tagged) : Bool :=
  if s.rec_.mode == .replay then s.commitNamed k t.ring t.tag || s.framesToFeed k || (s.decOwner k).isSome || !s.controlOk
  else s.sourcePresent k || !s.controlOk

/-- COMMIT_ROUTES past R46 step 8: the pending ring waits for the key's next frame start; with nothing pending, or with the sensor
absent, the final reply follows at once (R236, R239). -/
def commitRoutes (pkt : List Word) (t : Tagged) (s : State) : State :=
  let port := fld (pkt.getD 1 0) 4 0
  let s := accept t 0 s
  match (List.range 16).findSome? fun i => (s.key (keyOf port i)).pending.bind fun p =>
      if p.1 = t.ctx then some (keyOf port i, p.2) else none with
  | none => replyFinal t stOk 0 (w64 16) s
  | some (k, bufs) =>
    let s := controlWrite (updKey k (fun x => { x with pending := none }) s)
    if s.commitWaits k t then
      updKey k (fun x => { x with commit := some (⟨t.ring, t.tag, t.ctx, t.hoop, s.rec_.fetches⟩, bufs) }) s
    else replyFinal t stOk 0 (w64 (k % 16 + 64)) (takeRing k t.ctx bufs s)

/-- COMMIT_ROUTES (R236). -/
def execCommitRoutes (ring : BitVec 5) (pkt : List Word) (s : State) : Host.Outcome State Fault Refusal :=
  packet "COMMIT_ROUTES" (packetWf 0x31 pkt) ring.toNat pkt (commitRoutes pkt) s

/-! ### Cameras coming and going (R223 to R225) -/

/-- APHY_PARTNER_DETECTED: a camera port that is down begins training. -/
def partnerDetected (n : Nat) (s : State) : State :=
  if n < 24 ∧ (s.port n).link = 0 then updPort n (fun p => { p with link := 1, gear := 0 }) s else s

/-- APHY_PARTNER_DETECTED (R223). -/
def execAphyPartnerDetected (port : BitVec 5) (s : State) : Host.Outcome State Fault Refusal :=
  intake (partnerDetected port.toNat) s

/-- APHY_LINK_TRAINED: the link is up at a gear of G1 to G5. -/
def linkTrained (n gear : Nat) (s : State) : State :=
  if n < 24 ∧ (s.port n).link = 1 ∧ 1 ≤ gear ∧ gear ≤ 5 then updPort n (fun p => { p with link := 2, gear := gear }) s else s

/-- APHY_LINK_TRAINED (R223). -/
def execAphyLinkTrained (port : BitVec 5) (gear : BitVec 3) (s : State) : Host.Outcome State Fault Refusal :=
  intake (linkTrained port.toNat gear.toNat) s

/-- The identity block passes the checks of R223 step 3; SERIAL 0 is not permitted (R224). -/
def identityOk (b : List Byte) : Bool :=
  let w0 := wordAt b 0
  fld w0 31 0 == 0x55554944 && fld w0 47 32 == 1 && fld w0 63 48 == 256 && wordAt b 16 != 0
    && ofLE (slice b 252 4) == (crc32c (slice b 0 252)).toNat

/-- Mode `i` of an identity block as a number. -/
def identityMode (b : List Byte) (i : Nat) : Nat := ofLE (slice b (32 + 16 * i) 16)

/-- The distinct virtual channels of the mode list (R224): an all-zero entry ends it. -/
def identityChannels (b : List Byte) : List Nat :=
  let modes := ((List.range 8).map (identityMode b)).takeWhile (· != 0)
  (modes.map fun m => m / 2 ^ 40 % 16).eraseDups

/-- DETAIL of SENSOR_FOUND and SENSOR_LOST (R41). -/
def sensorDetail (port sel : Nat) (serial : Word) : Word := w64 (port + at_ 5 sel + at_ 32 (serial.toNat % 2 ^ 32))

/-- The write of an entry of the camera write table: control address and bytes (R224). -/
def scriptWrite (e : Word) : Nat × List Byte := (fld e 15 0, toLE (fld e 17 16 + 1) (fld e 63 32))

/-- Entry `i` of the camera write table. -/
def Image.camWrite (i : Image) (n : Nat) : Word := BitVec.ofNat 64 ((i.tbl 13).num (8 * n) 8)

/-- The camera writes of the port's routes, in increasing selector order and within a route in entry order (R223, R224). -/
def State.portScript (s : State) (n : Nat) : List (Nat × List Byte) :=
  (List.range 16).flatMap fun i =>
    let r := s.routeOf (keyOf n i)
    if s.dev.imageValid && routeValid r then
      (List.range (routeScriptCount r)).map fun j => scriptWrite (s.img.camWrite (routeScriptFirst r + j))
    else []

/-- CAMERA_DISCOVERY_DONE: the identity block read; the port's scripts run, each write after the acknowledgement of the one before,
of which `acked` arrive; the block is kept and the found channels announced. A failed check or an unacknowledged write leaves the port
untrained with CAMERA_SETUP (R223, R224). -/
def discoveryDone (n : Nat) (identity : List Byte) (acked : Nat) (s : State) : State :=
  if !(decide (n < 24) && (s.port n).link == 2) then s
  else
    let b := slice identity 0 256
    let script := if identityOk b then s.portScript n else []
    let s := updPort n (fun p => { p with script := script.take (acked + 1) }) s
    if !identityOk b || decide (acked < script.length) then
      report (faultOf s.dev.leader ukPort n .cameraSetup) (updPort n (fun p => { p with link := 0, gear := 0 }) s)
    else
      let serial := wordAt b 16
      let found := identityChannels b
      let bad := (List.range 16).any fun i => s.mismatched n i serial
      let s := updPort n (fun p => { p with link := 3, identity := b, found := found, seen := 0, mismatch := bad }) s
      let s := forEach (List.range 16) (fun i => setResync (keyOf n i)) s
      let s := if bad then report { faultOf s.dev.leader ukPort n .sensorMismatch with d0 := serial } s else s
      forEach found (fun vc => postEvent 0x01 0 0 0 (sensorDetail n vc serial)) s

/-- CAMERA_DISCOVERY_DONE (R223). -/
def execCameraDiscoveryDone (port : BitVec 5) (identity : List Byte) (acked : Nat) (s : State) :
    Host.Outcome State Fault Refusal := intake (discoveryDone port.toNat identity acked) s

/-- APHY_LOCK_LOSS: frames in flight close TRUNCATED, the found channels are lost, and training begins again (R225). -/
def lockLoss (n : Nat) (s : State) : State :=
  if !(decide (n < 24) && (s.port n).link != 0) then s
  else
    let p := s.port n
    let s := forEach (List.range 16) (fun i => closeFrame (keyOf n i) ffTrunc) s
    let s := updPort n (fun p => { p with link := 1, gear := 0, found := [], mismatch := false }) s
    forEach p.found (fun vc => postEvent 0x02 0 0 0 (sensorDetail n vc (wordAt p.identity 16))) s

/-- APHY_LOCK_LOSS (R225). -/
def execAphyLockLoss (port : BitVec 5) (s : State) : Host.Outcome State Fault Refusal := intake (lockLoss port.toNat) s

/-! ### Camera frames (R222, R235, R240) -/

/-- A camera port receives packets: its link is trained. -/
def State.camReceives (s : State) (n : Nat) : Bool := decide (n < 24) && decide (2 ≤ (s.port n).link)

/-- What the receiver does with a packet's header and a long packet's CRC-16 (R222): whether the packet goes on. -/
def receivePacket (k : Nat) (crcOk : Bool) (header : Header) (s : State) : Bool × State :=
  let n := k / 16
  match header with
  | .uncorrectable => (false, setFlag k ffLink (bumpPort n 4 1 s))
  | h =>
    let s := if h = .corrected then bumpPort n 4 1 s else s
    (true, if crcOk then s else setFlag k ffLink (bumpPort n 4 1 s))

/-- The owner of a key goes with the change that waits for this frame start (R238). -/
def State.ownerLeaves (s : State) (k : Nat) : Bool :=
  s.rec_.mode != .replay && (s.key k).heldRoute.isSome && (s.tableOwner k).isNone && s.controlOk

/-- A live frame start: a stray one only counts (R235, R364). -/
def liveStart (k : Nat) (s : State) : State :=
  if s.stray k && !s.ownerLeaves k then strayStart k s else beginFrame k .live s

/-- FRAME_START. -/
def camFrameStart (n vc : Nat) (header : Header) (s : State) : State :=
  if !s.camReceives n then s
  else
    let k := keyOf n vc
    match receivePacket k true header s with
    | (false, s) => s
    | (true, s) => liveStart k s

/-- FRAME_START (R236). -/
def execFrameStart (port : BitVec 5) (vc : BitVec 4) (header : Header) (s : State) : Host.Outcome State Fault Refusal :=
  intake (camFrameStart port.toNat vc.toNat header) s

/-- A string cut or filled to a length: what a short line lacks is not stated (log 24). -/
def fitLine (n : Nat) (bs : List Byte) : List Byte :=
  bs.take n ++ (List.range (n - bs.length)).map fun i => Config.lineFill bs (bs.length + i)

/-- A payload line of a routed frame: excess lines are dropped, a wrong length sets SIZE, and rows are converted and written as
they are whole (R242, R244 to R246). -/
def putLine (k : Nat) (f : Frame) (dt : Nat) (line : List Byte) (s : State) : State :=
  let rc := f.recipe
  let y := f.units
  if rcpOutMode rc = 3 then putCopy k f line (y % pilotF rc == 0) s
  else if rcpHeight rc ≤ y then s
  else
    let s := if line.length = lineBytes dt (rcpWidth rc) then s else setFlag k ffSize s
    let l := fitLine (lineBytes (rcpInDt rc) (rcpWidth rc)) line
    if rcpOutMode rc = 2 then
      match f.held with
      | none => updFrame k (fun f => { f with held := some l }) s
      | some l0 =>
        let s := putRow k f (y / 2) (fun r x => lineSamples (rcpInDt rc) (if r = 0 then l0 else l) x) s
        updFrame k (fun f => { f with held := none }) s
    else putRow k f y (fun _ x => lineSamples (rcpInDt rc) l x) s

/-- An image line that arrived in the open frame of a key. -/
def imageLine (k : Nat) (dt : Nat) (line : List Byte) (s : State) : State :=
  match (s.key k).frame with
  | none => s
  | some f =>
    let s := if f.routed then putLine k f dt line s else s
    updFrame k (fun f => { f with units := f.units + 1, crcState := line.foldl crc32cByte f.crcState,
                                  payload := if f.routed then f.payload ++ line else f.payload }) s

/-- CSI2_LONG_PACKET: a data type outside R222 is counted in UNMATCHED; embedded data has its own row. -/
def longPacket (n vc dt : Nat) (payload : List Byte) (crcOk : Bool) (header : Header) (s : State) : State :=
  if !s.camReceives n ∨ dt = 0x12 then s
  else
    let k := keyOf n vc
    match receivePacket k crcOk header s with
    | (false, s) => s
    | (true, s) =>
      match csiType dt with
      | none => bumpPort n 5 1 s
      | some t => imageLine k t payload s

/-- CSI2_LONG_PACKET (R222, R235). -/
def execCsi2LongPacket (port : BitVec 5) (vc : BitVec 4) (dt : BitVec 6) (payload : List Byte) (crcOk : Bool) (header : Header)
    (s : State) : Host.Outcome State Fault Refusal :=
  intake (longPacket port.toNat vc.toNat dt.toNat payload crcOk header) s

/-- The embedded-data line of the open frame: the identity block says whether it leads or trails the image and where its fields
lie; a line too short for them does not count (R224, R240). -/
def embeddedLine (k : Nat) (line : List Byte) (s : State) : State :=
  match (s.key k).frame with
  | none => s
  | some f =>
    let id := (s.port (k / 16)).identity
    let w := wordAt id 24
    let ctr := fld w 15 0
    let time := fld w 31 16
    let crc := fld w 47 32
    let placed := if bitAt w 48 then f.units == 0 && f.embedded.isNone else f.units != 0
    if !placed || line.length < ctr + 4 || line.length < time + 8 || line.length < crc + 4 then s
    else updFrame k (fun f => { f with embedded := some line, counter := some (ofLE (slice line ctr 4)),
                                       time := some (wordAt line time), crcRx := some (ofLE (slice line crc 4)) }) s

/-- EMBEDDED_DATA: without an identity block there is nothing to read the line by. -/
def embeddedData (n vc : Nat) (payload : List Byte) (crcOk : Bool) (header : Header) (s : State) : State :=
  if !s.camReceives n then s
  else
    let k := keyOf n vc
    match receivePacket k crcOk header s with
    | (false, s) => s
    | (true, s) => if (s.port n).link = 3 then embeddedLine k payload s else s

/-- EMBEDDED_DATA (R240). -/
def execEmbeddedData (port : BitVec 5) (vc : BitVec 4) (payload : List Byte) (crcOk : Bool) (header : Header) (s : State) :
    Host.Outcome State Fault Refusal := intake (embeddedData port.toNat vc.toNat payload crcOk header) s

/-- FRAME_END: the open frame of the key closes. -/
def camFrameEnd (n vc : Nat) (header : Header) (s : State) : State :=
  if !s.camReceives n then s
  else
    let k := keyOf n vc
    match receivePacket k true header s with
    | (false, s) => s
    | (true, s) => closeFrame k 0 s

/-- FRAME_END (R222). -/
def execFrameEnd (port : BitVec 5) (vc : BitVec 4) (header : Header) (s : State) : Host.Outcome State Fault Refusal :=
  intake (camFrameEnd port.toNat vc.toNat header) s

/-- FRAME_COMPLETE (R235). -/
def execFrameComplete (port : BitVec 5) (sel : BitVec 4) (ecc : Ecc) (s : State) : Host.Outcome State Fault Refusal :=
  intake (frameComplete (keyOf port.toNat sel.toNat) ecc) s

/-! ### Lidar packets (R226 to R229, R241) -/

/-- A packet as the classifier sees it. -/
structure NetPacket where
  tag     : Option Nat
  mac     : Nat
  ip      : Nat
  port    : Nat
  payload : List Byte
  deriving DecidableEq, Repr

/-- What parsing a packet finds (R227). -/
inductive Parsed where
  | unmatched
  | badChecksum
  | packet (p : NetPacket)
  deriving DecidableEq, Repr

/-- The ones' complement sum of the 16-bit big-endian words of a string, an odd byte padded with zero. -/
def onesSum : List Byte → Nat
  | [] => 0
  | [a] => a.toNat * 256
  | a :: b :: t => let v := a.toNat * 256 + b.toNat + onesSum t
    if v < 65536 then v else v - 65535

/-- A UDP datagram inside its IPv4 packet: its checksum is zero or correct over the pseudo header. -/
def udpOk (ip udp : List Byte) : Bool :=
  ofBE (slice udp 6 2) == 0
    || onesSum (slice ip 12 8 ++ [0, 17] ++ slice udp 4 2 ++ udp) == 0xFFFF

/-- The IPv4 part of a frame (R227). -/
def parseIp (tag : Option Nat) (mac : Nat) (ip : List Byte) : Parsed :=
  let b0 := (ip.getD 0 0).toNat
  let ihl := b0 % 16 * 4
  if b0 / 16 ≠ 4 ∨ ihl < 20 ∨ ip.length < ihl then .unmatched
  else if onesSum (ip.take ihl) ≠ 0xFFFF then .badChecksum
  else
    let total := ofBE (slice ip 2 2)
    let udp := (ip.take total).drop ihl
    let len := ofBE (slice udp 4 2)
    if ofBE (slice ip 6 2) % 16384 ≠ 0 ∨ ip.getD 9 0 ≠ 17 ∨ ip.length < total ∨ len < 8 ∨ udp.length < len then .unmatched
    else
      let udp := udp.take len
      if !udpOk ip udp then .badChecksum
      else if len < 48 then .unmatched
      else .packet ⟨tag, mac, ofLE (slice ip 12 4), ofBE (slice udp 2 2), udp.drop 8⟩

/-- An Ethernet II frame with at most one 802.1Q tag (R222). -/
def parseEther (f : List Byte) : Parsed :=
  let mac := ofLE (slice f 6 6)
  let et := ofBE (slice f 12 2)
  if et = 0x8100 then
    if ofBE (slice f 16 2) = 0x0800 then parseIp (some (ofBE (slice f 14 2) % 4096)) mac (f.drop 18) else .unmatched
  else if et = 0x0800 then parseIp none mac (f.drop 14)
  else .unmatched

/-- A classifier entry matches a packet on every field (R226). -/
def clsMatch (e : Entry) (p : NetPacket) : Bool :=
  clsValid e && (if clsVlanEn e then p.tag == some (clsVlan e) else p.tag.isNone) && clsMac e == p.mac
    && (clsIp e == 0 || clsIp e == p.ip) && clsPort e == p.port

/-- The classifier entry in force for a key: a frame in flight keeps the entry that an agreement replaced (R238). -/
def State.clsOf (s : State) (k : Nat) (first : Bool) : Entry :=
  match (s.key k).heldRoute with
  | some (_, _, c, _) => if first then s.img.entry 11 (k - 384) else c
  | none => s.img.entry 11 (k - 384)

/-! Header fields of a lidar packet (R228). -/
def ldFirst (p : List Byte) : Bool := (p.getD 1 0).getLsbD 0
def ldLast (p : List Byte) : Bool := (p.getD 1 0).getLsbD 1
def ldBytes (p : List Byte) : Nat := ofLE (slice p 2 2)
def ldFrame (p : List Byte) : Nat := ofLE (slice p 4 4)
def ldPacket (p : List Byte) : Nat := ofLE (slice p 8 4)
def ldTime (p : List Byte) : Word := wordAt p 16
def ldSerial (p : List Byte) : Word := wordAt p 24
def ldCrc (p : List Byte) : Nat := ofLE (slice p 32 4)
def ldPoints (p : List Byte) : List Byte := slice p 40 (ldBytes p)

/-- A payload is a packet of R228: VERSION 1, a serial that is not 0, and all its point data. -/
def ldOk (p : List Byte) : Bool := p.getD 0 0 == 1 && ldSerial p != 0 && decide (40 + ldBytes p ≤ p.length)

/-- The first accepted packet under an entry discovers its sensor (R229). -/
def lidarFound (k : Nat) (serial : Word) (s : State) : State :=
  let n := k / 16
  let s := updKey k (fun x => { x with lidarAt := s.hp }) s
  if (s.key k).lidar.isSome then s
  else
    let bad := s.mismatched n (k % 16) serial
    let s := setResync k (updKey k (fun x => { x with lidar := some serial }) s)
    let s := updPort n (fun p => { p with mismatch := p.mismatch || bad, seen := p.seen &&& (65535 - 2 ^ (k % 16)) }) s
    let s := if bad then report { faultOf s.dev.leader ukPort n .sensorMismatch with d0 := serial } s else s
    postEvent 0x01 0 0 0 (sensorDetail n (k % 16) serial) s

/-- A packet's checks within its frame, and its point data written in packet order (R241). The check values kept are those of the
first failing packet, or of the last (R234). -/
def lidarData (k : Nat) (p : List Byte) (s : State) : State :=
  match (s.key k).frame with
  | none => s
  | some f =>
    let cv := (crc32c (p.take 32 ++ ldPoints p)).toNat
    let bad := cv != ldCrc p
    let f1 := { f with
      flags := f.flags ||| (if bad then ffCrc else 0) ||| (if ldPacket p = f.nextPkt then 0 else ffOrder)
        ||| (if (ldTime p).toNat < f.lastTime.toNat then ffBack else 0)
        ||| (if f.routed ∧ rcpBytes f.recipe - 64 < f.bytes + ldBytes p then ffSize else 0),
      crcRx := if f.flags &&& ffCrc = 0 then some (ldCrc p) else f.crcRx,
      crcCalc := if f.flags &&& ffCrc = 0 then cv else f.crcCalc,
      units := f.units + 1, nextPkt := ldPacket p + 1, lastTime := ldTime p,
      payload := if f.routed then f.payload ++ p else f.payload }
    let s := updKey k (fun x => { x with frame := some f1 }) s
    if f.routed then putCopy k f1 (ldPoints p) (ldPacket p % pilotF f.recipe == 0) s else s

/-- A packet that goes to the open frame of its key, with every check of R241; one of another FRAME, or of another sensor, sets ORDER as
well (log 24). -/
def lidarBody (k : Nat) (p : List Byte) (s : State) : State :=
  match (s.key k).frame with
  | none => bumpPort (k / 16) 4 1 s
  | some f =>
    let s := if f.counter ≠ some (ldFrame p) ∨ !serialOk f.route (ldSerial p) then setFlag k ffOrder s else s
    let s := lidarData k p s
    if ldLast p then closeFrame k 0 s else s

/-- An accepted packet (R229, R235, R241). A sensor of another serial than EXPECT_SERIAL opens no written frame. -/
def lidarAccept (k : Nat) (p : List Byte) (s : State) : State :=
  let s := lidarFound k (ldSerial p) s
  if s.stray k && !(ldFirst p && s.ownerLeaves k) then (if ldFirst p then strayStart k s else s)
  else if ldFirst p then
    let s := updKey k (fun x => { x with lidar := some (ldSerial p) }) s
    let s := liveStart k s
    let s := updFrame k (fun f => { f with counter := some (ldFrame p), time := some (ldTime p), lastTime := ldTime p }) s
    let s := lidarData k p s
    if ldLast p then closeFrame k 0 s else s
  else lidarBody k p s

/-- LIDAR_PACKET: a checksum failure falls in every open frame of the port (R227, R242; log 24). -/
def lidarPacket (n : Nat) (frame : List Byte) (s : State) : State :=
  if !(decide (24 ≤ n) && (s.port n).link == 2) then s
  else match parseEther frame with
    | .unmatched => bumpPort n 5 1 s
    | .badChecksum => forEach (List.range 16) (fun i => setFlag (keyOf n i) ffLink) (bumpPort n 4 1 s)
    | .packet p =>
      let first := ldFirst p.payload
      match (List.range 16).find? fun i => s.dev.imageValid && clsMatch (s.clsOf (keyOf n i) first) p with
      | none => bumpPort n 5 1 s
      | some i =>
        if !clsExpected (s.clsOf (keyOf n i) first) then bumpPort n 6 1 s
        else if !ldOk p.payload then bumpPort n 5 1 s
        else lidarAccept (keyOf n i) p.payload s

/-- LIDAR_PACKET (R227). -/
def execLidarPacket (port : BitVec 5) (frame : List Byte) (s : State) : Host.Outcome State Fault Refusal :=
  intake (lidarPacket port.toNat frame) s

/-- A lidar sensor is declared lost (R229). -/
def lidarLost (k : Nat) (s : State) : State :=
  match (s.key k).lidar with
  | none => s
  | some serial =>
    let n := k / 16
    let s := closeFrame k ffTrunc s
    let s := updKey k (fun x => { x with lidar := none }) s
    postEvent 0x02 0 0 0 (sensorDetail n (k % 16) serial) (updPort n (fun p => { p with mismatch := s.portMismatch n }) s)

/-- NETWORK_LINK_UP: a network port accepts packets. -/
def networkUp (n : Nat) (s : State) : State := if 24 ≤ n then updPort n (fun p => { p with link := 2 }) s else s

/-- NETWORK_LINK_UP (R229). -/
def execNetworkLinkUp (port : BitVec 5) (s : State) : Host.Outcome State Fault Refusal := intake (networkUp port.toNat) s

/-- NETWORK_LINK_DOWN: the port's sensors are lost. -/
def networkDown (n : Nat) (s : State) : State :=
  if n < 24 then s
  else forEach (List.range 16) (fun i => lidarLost (keyOf n i)) (updPort n (fun p => { p with link := 0 }) s)

/-- NETWORK_LINK_DOWN (R229). -/
def execNetworkLinkDown (port : BitVec 5) (s : State) : Host.Outcome State Fault Refusal := intake (networkDown port.toNat) s

/-- LIDAR_SILENCE: 100 ms have passed since the last accepted packet. -/
def lidarSilence (n sel : Nat) (s : State) : State :=
  let k := keyOf n sel
  if 24 ≤ n ∧ (s.key k).lidar.isSome then lidarLost k (advanceTo ((s.key k).lidarAt + usHp 100000) s) else s

/-- LIDAR_SILENCE (R229). -/
def execLidarSilence (port : BitVec 5) (sel : BitVec 4) (s : State) : Host.Outcome State Fault Refusal :=
  intake (lidarSilence port.toNat sel.toNat) s

/-! ### Stalls and paths (R21, R230) -/

/-- The first pace tick at or after a half-period, on the grid in force (R67). -/
def Time.tickFrom (t : Time) (hp : Nat) : Nat :=
  if hp ≤ t.nextTick then t.nextTick - (t.nextTick - hp) / t.tickHp * t.tickHp
  else t.nextTick + ceilDiv (hp - t.nextTick) t.tickHp * t.tickHp

/-- INTAKE_STALL: the first pace tick at which STALL ticks have passed since the key's last frame start (R248); one record until the
next start. -/
def intakeStall (n sel : Nat) (s : State) : State :=
  let k := keyOf n sel
  let r := s.routeOf k
  match (s.key k).lastStart with
  | none => s
  | some t =>
    if !s.dev.imageValid ∨ !routeValid r ∨ routeStall r = 0 ∨ (s.key k).stalled then s
    else
      let s := advanceTo (s.time.tickFrom (t + routeStall r * s.time.tickHp)) s
      let s := updKey k (fun x => { x with stalled := true }) s
      report { faultOf s.dev.leader ukPort n .intakeStall with ctx := routeCtx r, d0 := w64 (n + at_ 5 sel) } s

/-- INTAKE_STALL (R230). -/
def execIntakeStall (port : BitVec 5) (sel : BitVec 4) (s : State) : Host.Outcome State Fault Refusal :=
  intake (intakeStall port.toNat sel.toNat) s

/-- PATH_FAILED: a half's path into the common strip fails (R21). -/
def pathFailed (h : Half) (s : State) : State :=
  if !(s.half h).pathOk then s
  else report (faultOf h ukPath h.idx .pathDown) (updHalf h (fun u => { u with pathOk := false }) s)

/-- PATH_FAILED (R21). -/
def execPathFailed (half : Half) (s : State) : Host.Outcome State Fault Refusal := intake (pathFailed half) s

end Sys2Proof.Machine
end

