-- ==== Sys2Proof/Machine/Decoders.lean ====
section
/-! DEFINITION. The video decoders: epochs, the order of samples, delivery and skipping (R249 to R253). -/
namespace Sys2Proof.Machine

/-! ### The order of samples (R252) -/

/-- Half of the least even width, at least 2, with 2^w ≥ N. -/
def halfWidth (n : Nat) : Nat := ((List.range 17).find? fun h => decide (1 ≤ h) && decide (n ≤ 2 ^ (2 * h))).getD 16

/-- The key of an epoch. -/
def orderKey (seed : Word) (epoch : Nat) : Word := mix (seed ^^^ (BitVec.ofNat 64 epoch * 0xD1B54A32D192ED03))

/-- E(x): six rounds. -/
def orderE (key : Word) (h x : Nat) : Nat :=
  let m := 2 ^ h
  let r := (List.range 6).foldl (fun (p : Nat × Nat) i =>
    let f := (mix (key + BitVec.ofNat 64 (i * 2 ^ 32) + BitVec.ofNat 64 p.2)).toNat % m
    (p.2, p.1 ^^^ f)) (x / m, x % m)
  r.1 * m + r.2

/-- The walk out of the excess range: the index, and the extra applications of E. -/
def orderWalk (key : Word) (h n : Nat) : Nat → Nat → Nat → Nat × Nat
  | 0, x, k => (x, k)
  | fuel + 1, x, k => if x < n then (x, k) else orderWalk key h n fuel (orderE key h x) (k + 1)

/-- P(t) and its WALK_STEPS. The walk ends within 2^w applications, as E permutes [0, 2^w). -/
def orderP (seed : Word) (epoch n t : Nat) : Nat × Nat :=
  let h := halfWidth n
  let key := orderKey seed epoch
  orderWalk key h n (2 ^ (2 * h)) (orderE key h t) 0

/-! ### Reads -/

/-- Decoder counters (R255). -/
def bumpDec (d w k : Nat) : State → State := updDec d fun x => { x with ctr := bump x.ctr w k }

/-- Bytes a decoder reads in its context, through its port's cache. -/
def decRead (d va n : Nat) (s : State) : Option (List Byte) × State :=
  let e := s.decEntry d
  match vread (.unit (.port (BitVec.ofNat 5 (decPort e)))) (decCtx e) va n s with
  | (.ok bs, s) => (some bs, bumpDec d 7 n s)
  | (.error _, s) => (none, s)

/-- The decoder has credit for its next picture (R251, R62). -/
def State.decCredit (s : State) (d : Nat) : Bool :=
  reached (s.knot (Machine.decCredit (s.decEntry d))) (((s.dec d).delivered + 1).setWidth 32)

/-- The decoder is in use. -/
def State.decUsed (s : State) (d : Nat) : Bool := s.dev.imageValid && decValid (s.decEntry d)

/-! ### Epochs (R251) -/

/-- A control block is usable: N at least 1, reserved bits zero. -/
def ctrlOk (b : List Byte) : Bool :=
  fld (wordAt b 8) 63 32 != 0 && fld (wordAt b 16) 63 48 == 0 && (slice b 24 40).all (· == 0)

/-- DECODER_EPOCH_START: a block that cannot be read leaves the decoder idle until its credit knot changes (R253). -/
def epochStart (d : Nat) (s : State) : State :=
  let x := s.dec d
  let e := s.decEntry d
  let credit := s.knot (decCredit e)
  if !s.decUsed d || x.running || !s.decCredit d || x.ctrlBad == some credit then s
  else
    let (r, s) := decRead d (decCtrl e) 64 s
    match r.filter ctrlOk with
    | none => report { faultOf s.dev.leader ukDecoder d .decodeCtrl with ctx := decCtx e }
        (updDec d (fun x => { x with ctrlBad := some credit }) s)
    | some b =>
      let w1 := wordAt b 8
      bumpDec d 0 1 (updDec d (fun x =>
        { x with t := 0, epoch := fld w1 31 0, running := true, seed := wordAt b 0, n := fld w1 63 32,
                 table := fld (wordAt b 16) 47 0, picture := 0, ctrlBad := none }) s)

/-- DECODER_EPOCH_START (R251). -/
def execDecoderEpochStart (d : BitVec 2) (s : State) : Host.Outcome State Fault Refusal := intake (epochStart d.toNat) s

/-! ### Samples (R251, R253) -/

/-- The sample at t is behind the decoder: t + 1, and DONE_KNOT at the end of the epoch. -/
def nextSample (d : Nat) (s : State) : State :=
  let x := s.dec d
  let t := x.t + 1
  let s := updDec d (fun x => { x with t := t, picture := 0, entry := [] }) s
  if t < x.n then s
  else setKnot (decDone (s.decEntry d)) x.epoch (updDec d (fun x => { x with running := false }) s)

/-- A sample skipped, or what is left of it. -/
def skipSample (d : Nat) (s : State) : State :=
  let x := s.dec d
  let s := bumpDec d 2 1 s
  let s := report { faultOf s.dev.leader ukDecoder d .sampleSkipped with
    ctx := decCtx (s.decEntry d), d0 := w64 x.t, d1 := w64 x.entryAt } s
  nextSample d s

/-- The bitstream of a sample table entry read and checked, and kept by the decoder (R251): none where the sample is skipped. -/
def readBits (d : Nat) (e : Entry) (s : State) : Option Entry × State :=
  if e.f 1 31 0 = 0 then (none, s)
  else
    let r := decRead d (e.f 0 47 0) (e.f 1 31 0) s
    match r.1 with
    | none => (none, r.2)
    | some bs =>
      if (crc32c bs).toNat = e.f 1 63 32 then (some e, updDec d (fun x => { x with bits := bs }) r.2) else (none, bumpDec d 4 1 r.2)

/-- The address of entry `k` of the sample table at `table`. -/
def sampleVa (table k : Nat) : Nat := (table + 32 * k) % 2 ^ 48

/-- The four words of a sample table entry. -/
def sampleWords (b : List Byte) : List Word := [0, 8, 16, 24].map (wordAt b)

/-- A sample table entry and its bitstream read (R251). -/
def openSample (d : Nat) (s : State) : Option Entry × State :=
  let x := s.dec d
  let o := orderP x.seed x.epoch x.n x.t
  let s := bumpDec d 6 o.2 (updDec d (fun x => { x with entryAt := o.1 }) s)
  let r := decRead d (sampleVa x.table o.1) 32 s
  match r.1 with
  | none => (none, r.2)
  | some b => readBits d (sampleWords b) r.2

/-- The rows of a decoded picture written as a frame's main tensor and pilot copies; a picture of another size sets SIZE. -/
def putPicture (k : Nat) (f : Frame) (bs : List Byte) (s : State) : State :=
  let rc := f.recipe
  let dt := rcpInDt rc
  let n := pictureBytes dt (rcpWidth rc) (rcpHeight rc)
  let s := if bs.length = n then s else setFlag k ffSize s
  let pic := fitLine n bs
  forEach (List.range (tensorDims rc).1) (fun y s =>
    putRow k f y (fun _ x => pictureSamples dt (rcpWidth rc) (rcpHeight rc) pic y x) s) s

/-- A picture that the decoders decode (R249): H.265 Main (profile 1) or Main10 (2) up to Level 5.1, or H.264 High (100) up to Level 5.2,
of at most 4,096 × 2,304 luma samples; 8-bit but for Main10. -/
def Coded.inLimits (h264 : Bool) (c : Coded) : Bool :=
  decide (c.width ≤ 4096) && decide (c.height ≤ 2304)
    && (if h264 then c.profile == 100 && decide (c.level ≤ 52) && c.depth == 8
        else decide (c.level ≤ 51) && ((c.profile == 1 && c.depth == 8) || (c.profile == 2 && decide (c.depth ≤ 10))))

/-- Picture `j` of a sample's bitstream in output order; none at a syntax or conformance error before it (R249, R253). -/
def pictureAt (e : Entry) (bits : List Byte) (j : Nat) : Option (List Byte) :=
  let h264 := e.f 0 48 48 == 1
  let l := (Config.decodeVideo h264 bits).take (j + 1)
  if l.length = j + 1 ∧ l.all (Coded.inLimits h264) then (l[j]?).map (·.samples) else none

/-- A change of the decoder's entry takes effect with the frame that a picture would start (R238). -/
def takeDecoder (d : Nat) (s : State) : State :=
  let te := s.decEntry d
  let k := keyOf (decPort te) (decSel te)
  if s.changeDue k ((s.key k).seq + 1) then updDec d (fun x => { x with held := none }) s else s

/-- A picture of the sample of an entry delivered as one frame of the decoder's key. -/
def deliver (d : Nat) (e : Entry) (bs : List Byte) (s : State) : State :=
  let te := s.decEntry d
  let k := keyOf (decPort te) (decSel te)
  let x := s.dec d
  let delivered := x.delivered + 1
  let s := beginFrame k (.decoder x.t) s
  let s := updFrame k (fun f => { f with
    counter := some ((e.f 2 31 0 + x.picture) % 2 ^ 32), time := some (e.getD 3 0 + w64 (x.picture * e.f 2 63 32)),
    units := rcpHeight f.recipe, payload := bs, knot := some (delivered.toNat % 2 ^ 32) }) s
  let s := match (s.key k).frame with
    | some f => if f.routed then putPicture k f bs s else s
    | none => s
  let s := closeFrame k 0 s
  let s := bumpDec d 3 1 (updDec d (fun y => { y with delivered := delivered, picture := y.picture + 1, entry := e }) s)
  if x.picture < e.f 0 54 49 then s else nextSample d (bumpDec d 1 1 s)

/-- A picture that decoded is delivered under the entry then in force; a decoder that an agreement took out of use stops (R238). -/
def deliverNext (d : Nat) (e : Entry) (bs : List Byte) (s : State) : State :=
  let s := takeDecoder d s
  if s.decUsed d then deliver d e bs s else updDec d (fun x => { x with running := false }) s

/-- DECODED_PICTURE: the decoder waits for credit; at a sample's start it reads the sample, and a bad one is skipped. -/
def decodedPicture (d : Nat) (s : State) : State :=
  let x := s.dec d
  if !s.decUsed d || !x.running || !s.decCredit d then s
  else
    let (e, s) := if x.picture = 0 then openSample d s else (some x.entry, s)
    match e with
    | none => skipSample d s
    | some e => match pictureAt e (s.dec d).bits x.picture with
      | none => skipSample d (bumpDec d 5 1 s)
      | some bs => deliverNext d e bs s

/-- DECODED_PICTURE (R251, R253). -/
def execDecodedPicture (d : BitVec 2) (s : State) : Host.Outcome State Fault Refusal := intake (decodedPicture d.toNat) s

end Sys2Proof.Machine
end

