-- ==== Sys2Proof/Machine/Dram.lean ====
section
/-! DEFINITION. Memory controllers: requests and scheduling, ECC, refresh, self-refresh, frequency change, tracking, scrubbing
(R204 to R219). -/
namespace Sys2Proof.Machine

/-! ### Queue and scheduling (R206 to R209) -/

/-- Bank and row of a request. -/
def reqBankRow (r : DramReq) : Nat × Nat :=
  let (_, _, b, row) := dramRow (64 * r.block.toNat)
  (b, row)

/-- A request hits an open row. -/
def Channel.hits (x : Channel) (r : DramReq) : Bool :=
  let (b, row) := reqBankRow r
  Tab.get 0 x.openRows b == row + 1

/-- Waiting requests of one kind. -/
def Channel.kind (x : Channel) (write : Bool) : List Queued := x.queue.filter fun q => q.req.write == write

/-- A request must not be served before another: both of one source and one block, and one of them writes (R204). -/
def Queued.after (q p : Queued) : Bool :=
  decide (p.no < q.no) && p.req.source == q.req.source && p.req.block == q.req.block && (p.req.write || q.req.write)

/-- Waiting requests of one kind that the order of their source lets go (R204). -/
def Channel.ready (x : Channel) (write : Bool) : List Queued :=
  (x.kind write).filter fun q => !(x.queue.any fun p => q.after p)

/-- The request addresses the channel's data. -/
def Channel.holds (x : Channel) (r : DramReq) : Bool := decide (64 * r.block.toNat < dataBytes x.density)

/-- A granted request enters if its kind has a free entry and no earlier one of its source still waits for one; else its handshake
stretches (R206). -/
def enterQueue (hp : Nat) (x : Channel) (r : DramReq) : Channel :=
  if !x.holds r then x
  else if (x.kind r.write).length < (if r.write then 32 else 64) ∧ !(x.stretched.any fun p => p.source == r.source) then
    { x with queue := x.queue ++ [⟨r, hp, x.arrived⟩], arrived := x.arrived + 1 }
  else { x with stretched := x.stretched ++ [r] }

/-- The stretched handshakes try for the entries that have come free (R206). -/
def Channel.reenter (hp : Nat) (x : Channel) : Channel := x.stretched.foldl (enterQueue hp) { x with stretched := [] }

/-- The oldest read has waited 250 ns. -/
def Channel.readOld (x : Channel) (hp : Nat) : Bool :=
  match x.ready false with
  | [] => false
  | q :: _ => decide (q.at_ + 25 ≤ hp)

/-- Whether writes are being drained (R206): a drain goes on above 8, and one starts at 24 or with no read ready, so that the
last 8 leave too while no read comes. -/
def Channel.drains (x : Channel) (hp : Nat) : Bool :=
  let w := (x.kind true).length
  ((x.draining && decide (8 < w)) || decide (24 ≤ w) || (x.ready false).isEmpty) && decide (0 < w) && !x.readOld hp

/-- The request served next among a kind (R207, R208). -/
def pickRequest (rowHitFirst : Bool) (hp : Nat) (x : Channel) (l : List Queued) : Option Queued :=
  if rowHitFirst then
    match l.find? fun q => decide (q.at_ + 100 ≤ hp) with
    | some q => some q
    | none => match l.find? fun q => x.hits q.req with
      | some q => some q
      | none => l.head?
  else
    let banks := (List.range 16).map fun i => (x.lastBank + 1 + i) % 16
    banks.findSome? fun b => l.find? fun q => (reqBankRow q.req).1 == b

/-- The bytes of a block after a write with byte enables (R205). -/
def mergeBytes (enables : BitVec 64) (old new : List Byte) : List Byte :=
  (List.range 64).map fun i => if enables.getLsbD i then new.getD i 0 else old.getD i 0

/-- The ECC outcome of a read of the array (R211). -/
def readEcc (c : Nat) (e : Ecc) (s : State) : State :=
  match e with
  | .clean => s
  | .corrected => bumpChan c 6 1 s
  | .uncorrectable => dramUncorrectable c s

/-- The bytes a write request puts in the array, and their check bytes (R205). -/
def putRequest (c : Nat) (r : DramReq) (s : State) : State :=
  let co := 64 * r.block.toNat
  putDram c co (mergeBytes r.enables (s.mem.dram.readN (dramKey c co) 64) r.data) s

/-- The request enables every byte of its block. -/
def reqFull (r : DramReq) : Bool := r.enables == BitVec.allOnes 64

/-- Served requests in order of arrival. -/
def insertServed (d : Served) : List Served → List Served
  | [] => [d]
  | e :: t => if d.no < e.no then d :: e :: t else e :: insertServed d t

/-- No request of its source and kind still waits before a served one (R204). -/
def Channel.inOrder (x : Channel) (d : Served) : Bool :=
  !(x.queue.any fun q => q.req.source == d.source && q.req.write == d.write && decide (q.no < d.no))

/-- Read data and acknowledgements leave in the order of the requests of their source (R204). -/
def sendReplies (x : Channel) : Channel :=
  { x with replies := x.replies ++ x.done.filter x.inOrder, done := x.done.filter fun d => !x.inOrder d }

/-- What a request gets back: an error of its read that ECC does not correct is its fault (R205, R211). -/
def State.answerOf (s : State) (c : Nat) (r : DramReq) (e : Ecc) : Answered :=
  if e = .uncorrectable ∧ !(r.write && reqFull r) then .fault .dramUncorrectable
  else if r.write then .ack
  else .data (s.mem.dram.readN (dramKey c (64 * r.block.toNat)) 64)

/-- A write served; a partial one is a read-modify-write that an uncorrectable read stops (R205, R211). -/
def serveWrite (c : Nat) (r : DramReq) (e : Ecc) (s : State) : State :=
  let s := bumpChan c 1 1 s
  if reqFull r then putRequest c r s
  else
    let s := readEcc c e s
    if e = Ecc.uncorrectable then s else putRequest c r s

/-- A read served, with the longest latency seen (R211). -/
def serveRead (c : Nat) (e : Ecc) (ns : Nat) (s : State) : State :=
  readEcc c e (updChan c (fun x => { x with maxRdNs := max x.maxRdNs (min 0xFFFF ns) }) (bumpChan c 0 1 s))

/-- A request served: its answer, a row access, then the write or the read. -/
def serveRequest (c : Nat) (q : Queued) (e : Ecc) (ns : Nat) (s : State) : State :=
  let d : Served := ⟨q.req.source, q.req.write, q.no, s.answerOf c q.req e⟩
  let s := updChan c (fun x => sendReplies { x with done := insertServed d x.done, lastBank := (reqBankRow q.req).1 })
    (touchBlock c q.req.block.toNat s)
  if q.req.write then serveWrite c q.req e s else serveRead c e ns s

/-- The scheduler serves one request of an active channel. -/
def serveOne (c : Nat) (e : Ecc) (ns : Nat) (s : State) : State :=
  let x := s.chan c
  let drain := x.drains s.hp
  match pickRequest (s.half (halfOfChan c)).rowHitFirst s.hp x (x.ready drain) with
  | none => updChan c (fun x => { x with draining := drain }) s
  | some q =>
    let s := updChan c (fun x => Channel.reenter s.hp { x with draining := drain, queue := x.queue.erase q }) s
    let s := if (s.chan c).queue.isEmpty then updChan c (fun x => { x with emptyAt := s.hp }) s else s
    serveRequest c q e ns s

/-- A channel of the set is LOST (R219). -/
def State.setLost (s : State) (c : Nat) : Bool := (s.setMates c).any fun d => (s.chan d).st == .lost

/-- DRAM_REQUEST: requests to a set with a LOST channel fault (R219); a channel that sleeps holds them until it wakes (R214). The
replies are those of this row. -/
def dramRequest (c : Nat) (arrivals : List DramReq) (e : Ecc) (ns : Nat) (s : State) : State :=
  let s := updChan c (fun x => { x with replies := [] }) s
  let x := s.chan c
  if s.setLost c then updChan c (fun x => { x with replies := arrivals.map fun r => lostAnswer r x.arrived }) s
  else if x.st = .off ∨ x.st = .training then s
  else
    let s := updChan c (fun x => arrivals.foldl (enterQueue s.hp) x) s
    if x.st = .active then serveOne c e ns s else s

/-- DRAM_REQUEST (R206). -/
def execDramRequest (ch : BitVec 5) (arrivals : List DramReq) (ecc : Ecc) (ns : BitVec 16) (s : State) :
    Host.Outcome State Fault Refusal := .next (dramRequest ch.toNat arrivals ecc ns.toNat s)

/-! ### Refresh and temperature (R212) -/

/-- A channel that runs: active, asleep or between set points. -/
def State.chanUp (s : State) (c : Nat) : Bool :=
  let x := (s.chan c).st
  x == .active || x == .selfRefresh || x == .freqChange

/-- The refresh interval of a rate in force: tREFI, half of it, or a quarter (R212). -/
def refreshEvery (rate : Nat) : Nat := if rate = 0 then Config.tREFI else if rate = 1 then Config.tREFI / 2 else Config.tREFI / 4

/-- DRAM_REFRESH: a bank pair is refreshed once the interval of the rate in force has passed since its last refresh, which closes
the rows of the pair (R209, R212). -/
def dramRefresh (c p : Nat) (s : State) : State :=
  if (s.chan c).st ≠ .active then s
  else
    let s := advanceTo (Tab.get 0 (s.chan c).refreshAt p + refreshEvery (s.chan c).refRate) s
    updChan c (fun x =>
      { x with openRows := (x.openRows.set (Config.bankPair p 0 % 16) 0).set (Config.bankPair p 1 % 16) 0,
               refreshAt := x.refreshAt.set p s.hp }) s

/-- DRAM_REFRESH (R212). -/
def execDramRefresh (ch : BitVec 5) (pair : BitVec 3) (s : State) : Host.Outcome State Fault Refusal :=
  .next (dramRefresh ch.toNat pair.toNat s)

/-- MR4_READ: every 1 ms; the rate in force follows the report; above the highest band, DRAM_TEMP at most once per 100 ms. -/
def mr4Read (c rate : Nat) (s : State) : State :=
  if !s.chanUp c then s
  else
    let s := advanceTo ((s.chan c).mr4At + usHp 1000) s
    let s := updChan c (fun x => { x with refRate := rate, mr4At := s.hp }) s
    let due := match (s.chan c).tempAt with
      | none => true
      | some t => decide (t + usHp 100000 ≤ s.hp)
    if rate == 3 && due then
      report (faultOf (halfOfChan c) ukChannel c .dramTemp) (updChan c (fun x => { x with tempAt := some s.hp }) s)
    else s

/-- MR4_READ (R212). -/
def execMr4Read (ch : BitVec 5) (rate : BitVec 2) (s : State) : Host.Outcome State Fault Refusal :=
  .next (mr4Read ch.toNat rate.toNat s)

/-! ### Self-refresh (R214, R215) -/

/-- SELF_REFRESH_ENTRY: the idle time has passed with an empty queue: rows are precharged, then the entry command is issued, or a
request wins, the entry is abandoned and the request waits for service. -/
def selfRefreshEntry (c : Nat) (winner : Option DramReq) (s : State) : State :=
  let x := s.chan c
  let idleUs := (s.half (halfOfChan c)).srIdle
  if x.st ≠ .active ∨ !x.queue.isEmpty ∨ idleUs = 0 then s
  else
    let s := updChan c (fun x => { x with openRows := [] }) (advanceTo (x.emptyAt + usHp idleUs) s)
    match winner.filter x.holds with
    | some r => bumpChan c 5 1 (updChan c (fun x => enterQueue s.hp x r) s)
    | none => bumpChan c 4 1 (updChan c (fun x => { x with st := .selfRefresh }) s)

/-- SELF_REFRESH_ENTRY (R214). -/
def execSelfRefreshEntry (ch : BitVec 5) (winner : Option DramReq) (s : State) : Host.Outcome State Fault Refusal :=
  .next (selfRefreshEntry ch.toNat winner s)

/-- SELF_REFRESH_EXIT (R215). -/
def execSelfRefreshExit (ch : BitVec 5) (s : State) : Host.Outcome State Fault Refusal :=
  .next (if (s.chan ch.toNat).st = .selfRefresh then
    updChan ch.toNat (fun x => { x with st := .active, emptyAt := s.hp }) s else s)

/-! ### Frequency change (R216, R217) -/

/-- Waiting requests, at most 96, served before a change of frequency. -/
def drainQueue (c : Nat) : Nat → State → State
  | 0, s => s
  | n + 1, s => if (s.chan c).queue.isEmpty then s else drainQueue c n (serveOne c .clean 0 s)

/-- The half's channels move to a set point: each drained, then through self-refresh (R217). -/
def frequencyChange (h : Half) (fsp : Nat) (s : State) : State :=
  forEach ((List.range 16).map fun i => 16 * h.idx + i) (fun c s =>
    if (s.chan c).fsp = fsp ∨ !s.chanUp c then s
    else
      let s := drainQueue c 96 s
      let s := if (s.chan c).st = .selfRefresh then s else bumpChan c 4 1 s
      updChan c (fun x => { x with fsp := fsp, st := .active, openRows := [], emptyAt := s.hp }) s) s

/-- The cases in which a half's frequency may change (R216): KINDLING, BANKED, and the half's own reset. -/
def State.mayChange (s : State) (h : Half) : Bool := s.dev.st == .kindling || (s.dev.st == .banked && s.dev.imageValid) || (s.half h).underReset

/-- FREQUENCY_CHANGE: the channels go to the set point that their half is to run at (R216). -/
def execFrequencyChange (half : Half) (s : State) : Host.Outcome State Fault Refusal :=
  .next (if s.mayChange half then frequencyChange half (s.half half).dramFsp s else s)

/-! ### Training, tracking, scrubbing, loss (R211, R218, R219) -/

/-- What training leaves in a channel: three timing sets and the unused end of each row, which no rule gives a value (R200, R216, R218;
log 51). -/
def trainChannel (c : Nat) (s : State) : State :=
  let (k0, s) := fresh s
  let (k1, s) := fresh s
  let (k2, s) := fresh s
  updChan c (fun x => { x with shadow := [k0, k1, k2].map Config.freePick, rowEnds := k0 }) s

/-- A trained channel runs at a set point, its row ends and timing sets written. -/
def runChannel (c fsp : Nat) (s : State) : State :=
  updChan c (fun x => { x with st := .active, fsp := fsp, openRows := [], emptyAt := s.hp, driftAt := s.hp, zqAt := s.hp, mr4At := s.hp })
    (trainChannel c s)

/-- DRIFT_CHECK: every 256 µs (R218). -/
def execDriftCheck (ch : BitVec 5) (s : State) : Host.Outcome State Fault Refusal :=
  .next (if s.chanUp ch.toNat then
    let s := advanceTo ((s.chan ch.toNat).driftAt + usHp 256) s
    updChan ch.toNat (fun x => { x with driftAt := s.hp }) s else s)

/-- ZQ_CALIBRATION: every 32 ms (R218). -/
def execZqCalibration (ch : BitVec 5) (s : State) : Host.Outcome State Fault Refusal :=
  .next (if s.chanUp ch.toNat then
    let s := advanceTo ((s.chan ch.toNat).zqAt + usHp 32000) s
    updChan ch.toNat (fun x => { x with zqAt := s.hp }) s else s)

/-- PATROL_SCRUB: the scrubber reads its next block; a corrected word is written back, an uncorrectable block stays as it is and
is neither reported nor counted toward R219. -/
def patrolScrub (c : Nat) (e : Ecc) (s : State) : State :=
  let x := s.chan c
  if x.st ≠ .active then s
  else
    let s := bumpChan c 0 1 (touchBlock c x.scrubAt s)
    let s := updChan c (fun x => { x with scrubAt := (x.scrubAt + 1) % max 1 (dataBytes x.density / 64) }) s
    if e = .corrected then bumpChan c 6 1 (bumpChan c 1 1 s) else s

/-- PATROL_SCRUB (R211). -/
def execPatrolScrub (ch : BitVec 5) (ecc : Ecc) (s : State) : Host.Outcome State Fault Refusal :=
  .next (patrolScrub ch.toNat ecc s)

/-- PHY_LOCK_LOSS: outside a frequency change the channel is LOST (R219). -/
def execPhyLockLoss (ch : BitVec 5) (s : State) : Host.Outcome State Fault Refusal :=
  .next (if (s.chan ch.toNat).st = .active ∨ (s.chan ch.toNat).st = .selfRefresh then loseChannel ch.toNat s else s)

end Sys2Proof.Machine
end

