-- ==== Sys2Proof/Machine/Pilots.lean ====
section
/-! DEFINITION. Pilot engines: programs, runs, agreement and the fall-back records of their runs (R286 to R288, R295). -/
namespace Sys2Proof.Machine

/-- A pilot's local store. -/
def State.local (s : State) : Half → Store
  | .west => s.mem.local0
  | .east => s.mem.local1

/-! ### Runs -/

/-- Offset of a run in the slot of its SEQ: what a program names in input slot 0 or result slot 0 lies in slot SEQ mod 2
(R287, R288; log 29). -/
def slotShift (pe route recipe : Entry) (odd : Bool) (off : Nat) : Nat :=
  let size := pilotSlot recipe
  let out := progOutBytes pe + 64
  if odd && decide (routePilotOff route ≤ off) && decide (off < routePilotOff route + size) then off + size
  else if odd && decide (progOut pe ≤ off) && decide (off < progOut pe + out) then off + out
  else off

/-- Unit `i` of a pilot program (R287). -/
def progUnit (m : Store) (pe : Entry) (i : Nat) : Entry := unitAt m (progOff pe + 64 * i)

/-- Pass entries of the group at unit `i`. -/
def progPasses (m : Store) (pe : Entry) (i : Nat) : List Entry :=
  let g := progUnit m pe i
  (List.range (grpPasses g)).map fun p =>
    (List.range 4).map fun w => m.word (progOff pe + 64 * i + 64 + 32 * p + 8 * w)

/-- A program's groups run in order on the local store; a pilot has no page map, so a group's writes go to its destination range
(R286; log 29). A group that faults leaves no result. -/
def runGroups (pe : Entry) (shift : Nat → Nat) : Nat → Nat → Store → Option Store
  | 0, _, m => some m
  | n + 1, i, m =>
    let g := progUnit m pe i
    match runGroup (fun a => m.read (shift a)) (progUnit m pe) g (progPasses m pe i) ⟨0, 0, 0, 0⟩ false false with
    | .fault .. => none
    | .done ws _ _ _ _ =>
      let m := ws.foldl (fun m w => (List.range w.2.length).foldl (fun m j =>
        m.write (shift (grpDest g * 4096 + w.1 + j)) (w.2.getD j 0)) m) m
      runGroups pe shift n (i + groupUnits (grpPasses g)) m

/-- Offset of the result slot of a SEQ. -/
def resultSlot (pe : Entry) (seq : Word) : Nat := progOut pe + seq.toNat % 2 * (progOutBytes pe + 64)

/-- The output digest of a run (R288). -/
def outDigest (pe : Entry) (r : PilotRun) (upset : Word) (m : Store) : Word :=
  digest8 (m.readN (resultSlot pe r.seq + 64) (progOutBytes pe)) ^^^ upset

/-- The result slot of a run with its header (R287). -/
def stampResult (pe : Entry) (r : PilotRun) (d : Word) (m : Store) : Store :=
  m.writeN (resultSlot pe r.seq)
    (wordsBytes [r.seq, w64 (frCounter r.record), frTime r.record, w64 (frFlags r.record), d, 0, 0, 0])

/-- The store a run leaves, with the header of its result slot, and the output digest (R287, R288). -/
def runPilot (pe route recipe : Entry) (r : PilotRun) (upset : Word) (m : Store) : Option (Store × Word) :=
  (runGroups pe (slotShift pe route recipe (r.seq.toNat % 2 == 1)) (progGroups pe) 0 m).map fun m =>
    (stampResult pe r (outDigest pe r upset m) m, outDigest pe r upset m)

/-- A pilot's local store replaced. -/
def setLocal (h : Half) (m : Store) (s : State) : State :=
  match h with
  | .west => { s with mem := { s.mem with local0 := m } }
  | .east => { s with mem := { s.mem with local1 := m } }

/-- An idle pilot in service starts its oldest waiting run. -/
def startPilot (h : Half) (s : State) : State :=
  let p := s.pilot h
  match p.run, p.queue with
  | none, r :: rest =>
    if (s.half h).inService then updPilot h (fun p => { p with run := some { r with since := s.hp }, queue := rest }) s else s
  | _, _ => s

/-- The first pace tick after a frame knot was set: due runs join the pilot's order (R288). -/
def pilotTick (h : Half) (s : State) : State :=
  startPilot h (updPilot h (fun p => { p with queue := p.queue ++ p.due, due := [] }) s)

/-! ### Agreement (R288, R295) -/

/-- A pilot still has a run of a program and SEQ ahead of it or under way. -/
def Pilot.expects (p : Pilot) (prog : Nat) (seq : Word) : Bool :=
  (p.queue ++ p.due ++ p.run.toList).any fun r => r.prog == prog && r.seq == seq

/-- What a result slot of a program holds. -/
def Pilot.result (p : Pilot) (prog : Nat) (seq : Word) : Option PilotOut :=
  p.outs.find? fun o => o.prog == prog && o.seq == seq

/-- A finished run takes its result slot, SEQ mod 2. -/
def Pilot.place (p : Pilot) (o : PilotOut) : Pilot :=
  { p with run := none, outs := p.outs.filter (fun x => !(x.prog == o.prog && x.seq.toNat % 2 == o.seq.toNat % 2)) ++ [o] }

/-- A result marked agreed. -/
def Pilot.agree (p : Pilot) (prog : Nat) (seq : Word) : Pilot :=
  { p with outs := p.outs.map fun o => if o.prog = prog ∧ o.seq = seq then { o with agreed := true } else o }

/-- The output bytes in a half's result slot. -/
def State.pilotOutput (s : State) (h : Half) (prog : Nat) (seq : Word) : List Byte :=
  let pe := s.img.entry 18 prog
  (s.local h).readN (resultSlot pe seq + 64) (progOutBytes pe)

/-- Pilots in service. -/
def State.pilotsUp (s : State) : Nat := (if s.west.inService then 1 else 0) + (if s.east.inService then 1 else 0)

/-- The trust of a record from the one pilot that ran (R295): 1 where the other pilot is out of service, or where its path has failed, so
that it had no copy to run on (R21); else both pilots are in service, the other lost its copy, and this is any other case. -/
def State.singleTrust (s : State) (h : Half) : Nat := if !(s.half h.other).inService || !(s.half h.other).pathOk then 1 else 0

/-- The outcome of a run that ended in half `h` (R288, R295): with the other pilot's result, agreed or PILOT_MISMATCH; while the
other pilot still expects the run, nothing yet; where the other pilot has none, the record of a single pilot. -/
def settleRun (h : Half) (o : PilotOut) (s : State) : State :=
  let other := s.pilot h.other
  let bytes := s.pilotOutput h o.prog o.seq
  match other.result o.prog o.seq with
  | some x =>
    if x.digest = o.digest then
      let s := updPilot .west (·.agree o.prog o.seq) (updPilot .east (·.agree o.prog o.seq) s)
      fallbackRecords o.prog o.record (if s.pilotsUp = 2 then 2 else 1) bytes o.digest s
    else report { faultOf s.dev.leader ukPilot s.dev.leader.idx .pilotMismatch with frame := frCounter o.record } s
  | none =>
    if other.expects o.prog o.seq then s else fallbackRecords o.prog o.record (s.singleTrust h) bytes 0 s

/-- A pilot's run of a program and SEQ ended without a result: the other pilot's, if it has one that awaits it, stands alone. -/
def settleOther (h : Half) (prog : Nat) (seq : Word) (s : State) : State :=
  match (s.pilot h.other).result prog seq with
  | some o => if o.agreed then s else settleRun h.other o s
  | none => s

/-- PILOT_DONE: the run in progress ends, and the next waiting one starts. -/
def pilotDone (h : Half) (upset : Word) (s : State) : State :=
  match (s.pilot h).run with
  | none => s
  | some r =>
    let pe := s.img.entry 18 r.prog
    let route := s.routeOf r.key
    match runPilot pe route (s.recipeOf r.key) r upset (s.local h) with
    | none => startPilot h (settleOther h r.prog r.seq (updPilot h (fun p => { p with run := none }) s))
    | some (m, d) =>
      let o : PilotOut := ⟨r.prog, r.seq, d, r.record, false⟩
      let s := updPilot h (·.place o) (setLocal h m s)
      startPilot h (settleRun h o s)

/-- PILOT_DONE (R288). -/
def execPilotDone (half : Half) (upset : Word) (s : State) : Host.Outcome State Fault Refusal :=
  .next (pilotDone half upset s)

/-- A pilot loses the runs ahead of it and under way; the other pilot's results that awaited them stand alone (R287, R295). -/
def dropRuns (h : Half) (s : State) : State :=
  let p := s.pilot h
  let gone := p.queue ++ p.due ++ p.run.toList
  let s := updPilot h (fun p => { p with run := none, queue := [], due := [] }) s
  forEach gone (fun r => settleOther h r.prog r.seq) s

/-- Pilot cycles (1.2 GHz) in half-periods of 10 ns. -/
def cyclesHp (n : Nat) : Nat := ceilDiv n 12

/-- PILOT_OVERRUN: BUDGET has passed since the run's start; the run ends without a result and its half latches. -/
def pilotOverrun (h : Half) (s : State) : State :=
  match (s.pilot h).run with
  | none => s
  | some r =>
    let s := advanceTo (r.since + cyclesHp (progBudget (s.img.entry 18 r.prog))) s
    let s := updPilot h (fun p => { p with run := none }) s
    let s := report { faultOf h ukPilot h.idx .pilotOverrun with frame := frCounter r.record } s
    startPilot h (settleOther h r.prog r.seq s)

/-- PILOT_OVERRUN (R288). -/
def execPilotOverrun (half : Half) (s : State) : Host.Outcome State Fault Refusal := .next (pilotOverrun half s)

end Sys2Proof.Machine
end

