-- ==== Sys2Proof/Machine/Image.lean ====
section
/-! DEFINITION. Configuration images: reading, checking, discarding and installing (R375 to R382), LOAD_IMAGE, IMAGE_LOAD and
FLASH_IMAGE_AUTOLOAD. -/
namespace Sys2Proof.Machine

/-! ### The file of an image (R375, R376, R381 steps 1 to 3) -/

/-- A directory entry. -/
structure DirEntry where
  id     : Nat
  first  : Nat
  offset : Nat
  size   : Nat
  count  : Nat
  crc    : Nat
  raw    : Nat
  deriving DecidableEq, Repr

/-- TABLES of an image. -/
def imgTables (bs : List Byte) : Nat := (bs.getD 6 0).toNat

/-- The directory. -/
def imgDir (bs : List Byte) : List DirEntry :=
  (List.range (imgTables bs)).map fun k =>
    let n := ofLE (slice bs (64 + 32 * k) 32)
    let e := entryWords 4 n
    ⟨e.f 0 7 0, e.f 0 63 32, e.f 1 31 0, e.f 1 63 32, e.f 2 31 0, e.f 2 63 32, n⟩

/-- Whether a table is variable. -/
def isVariable (id : Nat) : Bool := [17, 19, 23, 26].contains id

/-- The first failing field of the header; an image too short for its directory and signature block fails at BYTES. -/
def headerFault (bs : List Byte) (expected firmware : Nat) : Option Fail :=
  let n := ofLE (bs.take 64)
  let e := entryWords 8 n
  let bytes := if e.f 1 31 0 ≠ expected ∨ bs.length < 64 + 32 * imgTables bs + 256 then [64] else []
  match leastBit (((badReservedBit layImage n).toList ++ (badRangeBit layImage n).toList ++ bytes).map fun b => (b, ckHeader)) with
  | some (b, c) => some ⟨0, c, 0xFFFFFFFF, b⟩
  | none => if firmware < e.f 1 47 32 then some ⟨0, ckFirmware, 0xFFFFFFFF, 96⟩ else none

/-- The first failing field of directory entry `k`; `before`: the entries before it, `lo` and `hi` where bodies may lie. -/
def dirFault (lo hi k : Nat) (before : List DirEntry) (d : DirEntry) : Option Fail :=
  let known := 1 ≤ d.id ∧ d.id ≤ 27
  let limit := match tableShape d.id with
    | some (n, _) => n
    | none => 2 ^ 32
  let placed := d.offset % 64 = 0 ∧ lo ≤ d.offset ∧ d.offset + d.size ≤ hi
  let clash := before.any fun b => overlap (b.offset, b.offset + b.size) (d.offset, d.offset + d.size)
  let fields := (badReservedBit layDirectory d.raw).toList.map (fun b => (b, ckDirectory))
    ++ (if !known ∨ before.any (·.id == d.id) then [(0, ckDirectory)] else [])
    ++ (if isVariable d.id ∧ d.first ≠ 0 then [(32, ckDirectory)] else [])
    ++ (if !placed ∨ clash then [(64, ckHeader)] else [])
    ++ (if !isVariable d.id ∧ known ∧ limit < d.first + d.count then [(noBit, ckDirectory)] else [])
  (leastBit fields).map fun r => ⟨0, r.2, k, r.1⟩

/-- The first failing directory entry from `k` on. -/
def dirFaults (lo hi : Nat) : Nat → List DirEntry → List DirEntry → Option Fail
  | _, _, [] => none
  | k, before, d :: t =>
    match dirFault lo hi k before d with
    | some f => some f
    | none => dirFaults lo hi (k + 1) (d :: before) t

/-- A required table that the directory does not name. -/
def missingTable (ds : List DirEntry) : Option Fail :=
  ([6, 15, 16, 24].find? fun id => !ds.any (·.id == id)).map fun id => ⟨id, ckDirectory, 0, noBit⟩

/-- The body that a directory entry names. -/
def DirEntry.body (d : DirEntry) (bs : List Byte) : List Byte := slice bs d.offset d.size

/-- What became of an image's file. -/
inductive Parsed1 where
  | fails (f : Fail)
  | badSignature
  | read (ds : List DirEntry)
  deriving DecidableEq, Repr

/-- Steps 1 to 3 of R381. -/
def parseImage (p : Part) (firmware expected : Nat) (bs : List Byte) : Parsed1 :=
  match headerFault bs expected firmware with
  | some f => .fails f
  | none =>
    let ds := imgDir bs
    match dirFaults (64 + 32 * ds.length) (bs.length - 256) 0 [] ds with
    | some f => .fails f
    | none =>
      match missingTable ds with
      | some f => .fails f
      | none =>
        if !signatureOk p (bs.take (bs.length - 256)) (bs.drop (bs.length - 256)) 8 then .badSignature
        else match ds.find? fun d => (crc32c (d.body bs)).toNat != d.crc with
          | some d => .fails ⟨d.id, ckCrc, 0, noBit⟩
          | none => .read ds

/-- Bytes at an offset of a cleared store, zeros not listed. -/
def cellsAt : Nat → List Byte → Memory
  | _, [] => []
  | a, b :: t => if b = 0 then cellsAt (a + 1) t else (a, b) :: cellsAt (a + 1) t

/-- A table's body in place: fixed entries from FIRST on. -/
def DirEntry.store (d : DirEntry) (bs : List Byte) : Store :=
  ⟨cellsAt (if isVariable d.id then 0 else d.first * entryBytes d.id) (d.body bs), 0, []⟩

/-- The tables of an image, with nothing confirmed. -/
def imageOf (bs : List Byte) (ds : List DirEntry) : Image :=
  let tables := ds.foldl (fun t d => Tab.set t d.id (d.store bs)) []
  let counts := ds.foldl (fun t d => Tab.set t d.id d.count) []
  let sizes := ds.foldl (fun t d => Tab.set t d.id d.size) []
  { Image.init with tables := tables, counts := counts, sizes := sizes }

/-- The digest of an image (R277): tables 1 to 14 at their full size. -/
def imageDigest (i : Image) : Word :=
  digest8 ((List.range 14).flatMap fun k =>
    match tableShape (k + 1) with
    | some (n, b) => i.body (k + 1) (n * b)
    | none => [])

/-! ### Discarding (R379 step 2) -/

/-- When the last request of an adaptive rail went out. -/
def Pins.requestAt (p : Pins) (rail : Nat) : Nat := if rail = 0 then p.coreAt else p.sramAt

/-- The value last requested of an adaptive rail. -/
def HalfUnit.railMv (u : HalfUnit) (rail : Nat) : Nat := if rail = 0 then u.vcoreMv else u.vsramMv

/-- A request of an adaptive rail, in both halves' FG_POWER. -/
def setRail (rail mv : Nat) : State → State :=
  let f (u : HalfUnit) : HalfUnit := if rail = 0 then { u with vcoreMv := mv } else { u with vsramMv := mv }
  fun s => updHalf .west f (updHalf .east f s)

/-- A change of the supplies begins. -/
def avsStart (s : State) : State := { s with pins := { s.pins with avs := [] } }

/-- One AVSBus voltage write, at most once per 100 µs and rail (R387). -/
def avsWrite (rail mv : Nat) (s : State) : State :=
  let s := setRail rail mv (advanceTo (s.pins.requestAt rail + usHp 100) s)
  let p := s.pins
  { s with pins := { p with avs := p.avs ++ [⟨rail, mv, s.hp⟩], coreAt := if rail = 0 then s.hp else p.coreAt,
                            sramAt := if rail = 0 then p.sramAt else s.hp } }

/-- A rail raised to a value in steps of at most 10 mV (R387). -/
def raiseRail (rail mv : Nat) : Nat → State → State
  | 0, s => s
  | n + 1, s =>
    let v := s.west.railMv rail
    if v < mv then raiseRail rail mv n (avsWrite rail (min mv (v + 10)) s) else s

/-- A rail lowered to a value in steps of at most 10 mV (R387). -/
def lowerRail (rail mv : Nat) : Nat → State → State
  | 0, s => s
  | n + 1, s =>
    let v := s.west.railMv rail
    if mv < v then lowerRail rail mv n (avsWrite rail (max mv (v - 10)) s) else s

/-- Both supplies moved: VDD_SRAM is raised before VDD_CORE and lowered after it (R379, R387); FG_POWER of both halves shows the
values requested last. The step bounds suffice for any distance. -/
def requestVolts (core sram : Nat) (s : State) : State :=
  let c := s.west.vcoreMv
  let m := s.west.vsramMv
  setRail 1 sram (setRail 0 core
    (lowerRail 1 sram m (lowerRail 0 core c (raiseRail 0 core core (raiseRail 1 sram sram (avsStart s))))))

/-- A pending proposal ends with a status. -/
def endProposal (status : Nat) (eff detail : Word) (s : State) : State :=
  match s.img.proposal with
  | none => s
  | some p =>
    let s := { s with img := { s.img with proposal := none } }
    statusCopy (replyFinal ⟨p.ring, p.tag, 0x20, 0, 0⟩ status eff detail s)

/-- Pilots and streams hold nothing of the old image. -/
def clearOutput (s : State) : State :=
  { s with out := { s.out with pilot0 := .init, pilot1 := .init, streams := [], hands := [], fullMain := false, fullFb := false } }

/-- The image in force is discarded: jobs, frames and rings that it governed end, every translation cache is emptied, SR_IDLE is 100
again (R214) and the supplies fall to their values without an image (log 32). -/
def discardImage (s : State) : State :=
  let s := endHalfJobs .east stBadContext (endHalfJobs .west stBadContext s)
  let s := if s.img.proposal.isSome then bumpTally 6 1 (endProposal stWithdrawn 0 0 s) else s
  let s := emptyCaches (clearOutput (clearIntake s))
  let keep (v : Inval) : Bool := match v.by_ with
    | .packet .. => true
    | .step .. => false
  let img := { Image.init with loads := s.img.loads, copies := s.img.copies, invals := s.img.invals.filter keep }
  let s := { s with img := img, dev := { s.dev with imageValid := false } }
  let f (u : HalfUnit) : HalfUnit := { u with srIdle := 100 }
  let s := updHalf .west f (updHalf .east f s)
  requestVolts 600 750 s

/-! ### Installing (R379 steps 4 to 7) -/

/-- A new tick length applies from the last tick on (R67); the next tick is the first of the new grid after now. -/
def Time.retick (t : Time) (tick : Nat) : Time :=
  if t.tickHp = tick ∨ tick = 0 then t
  else
    let last := t.nextTick - t.tickHp
    { t with tickHp := tick, nextTick := last + ((t.hp - last) / tick + 1) * tick }

/-- The kept table 19 in a half's local store (R287). -/
def loadPilotStore (h : Half) (s : State) : State :=
  setLocal h ((s.local h).writeN 0 (s.img.body 19 (s.img.size 19))) s

/-- Preload sections written (R378). -/
def writePreloads (s : State) : State := forEach s.img.sections (fun x s => (physWrite x.paddr (x.data s.img) s).2) s

/-- A validated image takes force: set point, supplies, preloads, pilot stores, tables, IMAGE_VALID and D0. Pools that it brings
start FREE with the generations kept; the schedule count starts at the next tick (R257). -/
def installImage (i : Image) (s : State) : State :=
  let dev := i.entry 15 0
  let fsp := devFsp dev
  let f (u : HalfUnit) : HalfUnit := { u with dramFsp := fsp, srIdle := devSrIdle dev, badChunks := [], weightAt := 0 }
  let s := updHalf .west f (updHalf .east f s)
  let s := frequencyChange .east fsp (frequencyChange .west fsp s)
  let s := requestVolts (devVcore dev) (devVsram dev) s
  let digest := imageDigest i
  let img := { i with d0 := digest, digest := digest, agreed := 0, confirmed := false, proposal := none, loads := s.img.loads,
                      copies := s.img.copies, invals := s.img.invals, heldHoops := [], completed := false }
  let unlock := s.dev.debugOpen || (i.size 27 != 0 && debugOk s.part (i.body 27 256))
  let s := { s with img := img }
  let s := loadPilotStore .east (loadPilotStore .west (writePreloads s))
  let s := forEach (List.range 256) freePool s
  let s := forEach (s.seq.hoops.map (·.1)) (fun h => updHoop h fun u => { u with withheld := false, steps := 0, roundHold := [] }) s
  let s := { s with link := { s.link with rounds := [], roundNo := [], early := [] } }
  let s := { s with time := { s.time.retick (devTickHp dev) with schedule := 0 },
                    dev := { s.dev with imageValid := true, debugOpen := unlock } }
  let s := forEach (List.range 64) (fun g s => if (s.damper g).capacity < 256 then reshed g s else s) s
  statusCopy s

/-- Outcome of a load: D0, a signature failure, or a failing item. -/
inductive LoadRes where
  | ok
  | signature
  | rejected (f : Fail)
  deriving DecidableEq, Repr

/-- R379 steps 2 to 7 on the bytes read. -/
def runLoad (expected : Nat) (bs : List Byte) (s : State) : LoadRes × State :=
  let s := discardImage s
  match parseImage s.part s.boot.fwVersion expected bs with
  | .fails f => (.rejected f, statusCopy s)
  | .badSignature => (.signature, statusCopy s)
  | .read ds =>
    let i := imageOf bs ds
    match validate { s with img := i } none with
    | some f => (.rejected f, statusCopy s)
    | none => (.ok, installImage i s)

/-! ### Commands -/

/-- Ring and tag of the copies and invalidations that owe their final reply (R379 step 1). -/
def State.owedMoves (s : State) : List (Nat × Nat) :=
  (s.img.copies.map fun c => (c.ring, c.tag)) ++ s.img.invals.filterMap fun v => match v.by_ with
    | .packet ring tag _ _ => some (ring, tag)
    | .step .. => none

/-- LOAD_IMAGE past R46 step 8: SRC and BYTES as R49 has them, then queued (R379). -/
def loadImage (pkt : List Word) (t : Tagged) (s : State) : State :=
  let src := pkt.getD 1 0
  let n := fld (pkt.getD 2 0) 31 0
  if fld src 5 0 ≠ 0 ∨ n < 64 ∨ 2 ^ 30 < n then answer t stBadParam 0 0 s
  else
    let s := accept t 0 s
    { s with img := { s.img with loads := s.img.loads ++ [⟨t.ring, t.tag, src, n, s.owedMoves⟩] } }

/-- LOAD_IMAGE (R379). -/
def execLoadImage (ring : BitVec 5) (pkt : List Word) (s : State) : Host.Outcome State Fault Refusal :=
  packet "LOAD_IMAGE" (packetWf 0x10 pkt) ring.toNat pkt (loadImage pkt) s

/-- The oldest load may run: the earlier copies and invalidations have ended (R379 step 1), and the device is BANKED, for no frequency
changes in another state (R216): a load that outputs overtook waits for CLOSE_OUTPUTS (DESIGN CHOICE, log 32). -/
def State.loadFree (s : State) (l : Load) : Bool := l.awaits.isEmpty && s.dev.st == .banked

/-- The oldest queued load runs on the bytes at its SRC. -/
def imageLoad (bytes : List Byte) (s : State) : State :=
  match s.img.loads with
  | [] => s
  | l :: rest =>
    if !s.loadFree l then s
    else
      let s := { s with img := { s.img with loads := rest } }
      let (r, s) := runLoad l.bytes (slice bytes 0 l.bytes) s
      let t : Tagged := ⟨l.ring, l.tag, 0x10, 0, 0⟩
      match r with
      | .ok => replyFinal t stOk 0 s.img.d0 s
      | .signature => replyFinal t stSignatureFail 0 0 s
      | .rejected f => replyFinal t stImageRejected 0 f.detail s

/-- IMAGE_LOAD (R379). -/
def execImageLoad (img : List Byte) (s : State) : Host.Outcome State Fault Refusal := .next (imageLoad img s)

/-- The flash image, at BANKED and before any packet (R380): its outcome shows in FG_BOOT and FG_BOOT_DETAIL. -/
def flashLoad (bytes : List Byte) (s : State) : State :=
  if !(s.boot.flashDue && s.dev.st == .banked) then s
  else
    let (r, s) := runLoad s.boot.imageBytes (slice bytes 0 s.boot.imageBytes) s
    let (code, detail) := match r with
      | .ok => (1, (0 : Word))
      | .signature => (2, 0)
      | .rejected f => (3, f.detail)
    { s with boot := { s.boot with flashDue := false, autoload := code, detail := detail } }

/-- FLASH_IMAGE_AUTOLOAD (R380). -/
def execFlashImageAutoload (img : List Byte) (s : State) : Host.Outcome State Fault Refusal := .next (flashLoad img s)

end Sys2Proof.Machine
end

