-- ==== Sys2Proof/Machine/Agree.lean ====
section
/-! DEFINITION. Protection changes: proposals, agreements and the tally port (R275 to R285). -/
namespace Sys2Proof.Machine

/-! ### The structure of a proposal (R276) -/

/-- A section of a proposal: its header, and where its entries lie. -/
structure PropSection where
  table : Nat
  first : Nat
  count : Nat
  raw   : Nat
  off   : Nat
  deriving DecidableEq, Repr

/-- Bytes of a section's entries. -/
def PropSection.bytes (x : PropSection) : Nat := x.count * entryBytes x.table

/-- Up to `n` sections from byte `off` on: reading stops past the end of the proposal. -/
def propSections (bs : List Byte) : Nat → Nat → List PropSection
  | 0, _ => []
  | n + 1, off =>
    let raw := ofLE (slice bs off 16)
    let e := entryWords 2 raw
    let x : PropSection := ⟨e.f 0 7 0, e.f 0 63 32, e.f 1 31 0, raw, off + 16⟩
    let next := off + 16 + ceilDiv x.bytes 16 * 16
    x :: (if next < bs.length then propSections bs n next else [])

/-- Sections that the header names. -/
def propCount (bs : List Byte) : Nat := (bs.getD 4 0).toNat

/-- The sections of a proposal. -/
def propList (bs : List Byte) : List PropSection := propSections bs (propCount bs) 16

/-- The first failing field of the proposal header; `expected` is the number of the next agreement. -/
def propHeaderFault (size expected : Nat) (bs : List Byte) : Option Fail :=
  if size < 64 ∨ 32768 < size then some ⟨0, ckHeader, 0xFFFFFFFF, noBit⟩
  else
    let n := ofLE (slice bs 0 16)
    let number := if n % 2 ^ 32 = expected then [] else [0]
    (leastBit (((badReservedBit layProposal n).toList ++ (badRangeBit layProposal n).toList ++ number).map fun b =>
      (b, ckHeader))).map fun r => ⟨0, r.2, 0xFFFFFFFF, r.1⟩

/-- The first failing field of section `k`; `before`: the sections before it, the last one first. -/
def propSectionFault (size k : Nat) (before : List PropSection) (x : PropSection) : Option Fail :=
  let order := match before with
    | [] => []
    | b :: _ => if x.table < b.table then [0] else []
  let limit := match tableShape x.table with
    | some (n, _) => n
    | none => 0
  let clash := before.any fun b => b.table == x.table && overlap (b.first, b.first + b.count) (x.first, x.first + x.count)
  let whole := if clash ∨ limit < x.first + x.count ∨ size < x.off + ceilDiv x.bytes 16 * 16 then [noBit] else []
  (leastBit (((badReservedBit laySection x.raw).toList ++ (badRangeBit laySection x.raw).toList ++ order ++ whole).map fun b =>
    (b, ckDirectory))).map fun r => ⟨0, r.2, k, r.1⟩

/-- The first failing section from `k` on; a section whose header lies beyond the proposal fails as a whole. -/
def propSectionFaults (size total : Nat) : Nat → List PropSection → List PropSection → Option Fail
  | k, _, [] => if k < total then some ⟨0, ckDirectory, k, noBit⟩ else none
  | k, before, x :: t =>
    match propSectionFault size k before x with
    | some f => some f
    | none => propSectionFaults size total (k + 1) (x :: before) t

/-- The image that would result: each section replaces its entries. -/
def applyProposal (i : Image) (bs : List Byte) : Image :=
  (propList bs).foldl (fun i x =>
    { i with tables := i.tables.set x.table ((i.tbl x.table).writeN (x.first * entryBytes x.table) (slice bs x.off x.bytes)) }) i

/-- What is wrong with a proposal: its structure, then the setup that would result. -/
def proposalFault (size : Nat) (bs : List Byte) (s : State) : Option Fail :=
  match propHeaderFault size (s.img.agreed + 1) bs with
  | some f => some f
  | none =>
    match propSectionFaults size (propCount bs) 0 [] (propList bs) with
    | some f => some f
    | none => validate { s with img := applyProposal s.img bs } (some s.img)

/-- The digest of agreement n (R277). -/
def agreementDigest (before : Word) (n : Nat) (bs : List Byte) : Word := digest8 (toLE 8 before.toNat ++ toLE 4 n ++ bs)

/-! ### PROPOSE_PROTECTION and WITHDRAW_PROPOSAL -/

/-- PROPOSE_PROTECTION past R46 step 8 (R275, R276, R278). -/
def propose (pkt : List Word) (bytes : List Byte) (t : Tagged) (s : State) : State :=
  if s.img.proposal.isSome then answer t stPendingExists 0 0 s
  else
    let size := fld (pkt.getD 2 0) 31 0
    let bs := slice bytes 0 (min size 32768)
    let n := s.img.agreed + 1
    let d := agreementDigest s.img.digest n bs
    let s := accept t d s
    match proposalFault size bs s with
    | some f => replyFinal t stImageRejected 0 f.detail s
    | none => statusCopy { s with img := { s.img with proposal := some ⟨n, d, bs, t.ring, t.tag, s.hp⟩, completed := false } }

/-- PROPOSE_PROTECTION (R276). -/
def execProposeProtection (ring : BitVec 5) (pkt : List Word) (bytes : List Byte) (s : State) :
    Host.Outcome State Fault Refusal :=
  packet "PROPOSE_PROTECTION" (packetWf 0x20 pkt) ring.toNat pkt (propose pkt bytes) s

/-- WITHDRAW_PROPOSAL past R46 step 8 (R279): too late for a proposal that a CONFIRM has completed; with none before it, ST_BAD_PARAM
(log 40). -/
def withdraw (t : Tagged) (s : State) : State :=
  if s.img.proposal.isNone then answer t (if s.img.completed then stTooLate else stBadParam) 0 0 s
  else bumpTally 6 1 (endProposal stWithdrawn 0 0 (answer t stOk 0 0 s))

/-- WITHDRAW_PROPOSAL (R279). -/
def execWithdrawProposal (ring : BitVec 5) (pkt : List Word) (s : State) : Host.Outcome State Fault Refusal :=
  packet "WITHDRAW_PROPOSAL" (packetWf 0x21 pkt) ring.toNat pkt withdraw s

/-- When the pending proposal times out (R278). -/
def State.agreeDue (s : State) (p : Proposal) : Nat := p.since + usHp (1000 * devAgreeMs (s.img.entry 15 0))

/-- AGREEMENT_TIMEOUT: AGREE_MS have passed without a confirmation. -/
def agreementTimeout (s : State) : State :=
  match s.img.proposal with
  | none => s
  | some p => bumpTally 5 1 (endProposal stAgreeTimeout 0 0 (advanceTo (s.agreeDue p) s))

/-- AGREEMENT_TIMEOUT (R278). -/
def execAgreementTimeout (s : State) : Host.Outcome State Fault Refusal := .next (agreementTimeout s)

/-! ### Completion (R264, R271, R280) -/

/-- A hoop entry with the resources of `old` and the other fields of `new` (R264). -/
def heldEntry (old new : Entry) : Entry :=
  let mix (m : Nat) (w : Nat) : Word := BitVec.ofNat 64 (((old.getD w 0).toNat &&& m) ||| ((new.getD w 0).toNat &&& (2 ^ 64 - 1 - m)))
  [mix (2 ^ 45 - 2 ^ 5 + 6) 0, mix (2 ^ 48 - 1) 1, mix (2 ^ 24 - 1) 2, mix (2 ^ 32 - 1) 3] ++ new.drop 4

/-- Hoop entries that wait for the next admission: those of hoops with an admitted job whose resources change. -/
def holdHoops (old : State) (s : State) : State :=
  forEach ((List.range 16).filter fun h => (old.hoop h).job.isSome) (fun h s =>
    let new := s.img.entry 1 h
    let held := heldEntry (old.hoopEntry h) new
    { s with img := { s.img with heldHoops := s.img.heldHoops.set h (if held = new then [] else held) } }) s

/-- Queued jobs of contexts that moved to another hoop end with ST_BAD_CONTEXT. -/
def endMoved (old : State) (s : State) : State :=
  forEach (List.range 16) (fun h s =>
    let gone (q : QJob) : Bool :=
      !(ctxValid (s.img.entry 6 q.ctx) && ctxHoop (s.img.entry 6 q.ctx) == ctxHoop (old.img.entry 6 q.ctx))
    forEach ((s.hoop h).queue.filter gone) (fun q s =>
      closeJob h q none 0 stBadContext 0 0 (updHoop h (fun u => { u with queue := u.queue.erase q }) s)) s) s

/-- A context's window table entries or context table entry changed (R280). -/
def ctxChanged (a b : Image) (c : Nat) : Bool :=
  let win (h : Nat) : Bool := (List.range 16).any fun w => a.entry 2 (16 * h + w) != b.entry 2 (16 * h + w)
  a.entry 6 c != b.entry 6 c || (ctxValid (b.entry 6 c) && win (ctxHoop (b.entry 6 c)))

/-- The script of a route. -/
def Image.script (i : Image) (r : Entry) : List Entry :=
  (List.range (routeScriptCount r)).map fun j => i.entry 13 (routeScriptFirst r + j)

/-- The decoder entries in force stay so until a frame start, where they were in use and change (R238, R280). -/
def holdDecoders (old : State) (s : State) : State :=
  forEach (List.range 4) (fun d s =>
    if decValid (old.decEntry d) && old.img.entry 14 d != s.img.entry 14 d && (old.dec d).held.isNone then
      updDec d (fun x => { x with held := some (old.img.entry 14 d) }) s
    else s) s

/-- A key's route, recipe, classifier, camera writes or decoder changed (R238, R280). -/
def keyChanged (a b : Image) (k : Nat) : Bool :=
  let ra := a.entry 10 k
  let rb := b.entry 10 k
  let dec := (List.range 4).any fun d =>
    let ea := a.entry 14 d
    let eb := b.entry 14 d
    ea != eb && ((decValid ea && keyOf (decPort ea) (decSel ea) == k) || (decValid eb && keyOf (decPort eb) (decSel eb) == k))
  ra != rb || dec || (384 ≤ k && a.entry 11 (k - 384) != b.entry 11 (k - 384))
    || (routeValid ra && (a.entry 12 (routeRecipe ra) != b.entry 12 (routeRecipe ra) || a.script ra != b.script rb))

/-- The settings that a change replaces stay in force for a key until its next frame start (R238). -/
def holdRoutes (old : State) (s : State) : State :=
  forEach ((List.range 512).filter fun k => keyChanged old.img s.img k && (old.key k).heldRoute.isNone) (fun k s =>
    updKey k (fun x => { x with heldRoute := some (old.routeOf k, old.recipeOf k, old.img.entry 11 (k - 384), old.decOwner k) }) s) s

/-- An agreement completes: every table switches in one handshake, then what follows from it, then the final reply. -/
def completeAgreement (p : Proposal) (s : State) : State :=
  let old := s
  let i := applyProposal s.img p.bytes
  let s := { s with img := { i with agreed := p.number, digest := p.digest, completed := true } }
  let s := holdDecoders old (holdRoutes old (holdHoops old s))
  let s := controlWrite s
  let s := filterCaches (List.range 18) (fun l => !ctxChanged old.img i l.ctx) s
  let s := forEach ((List.range 256).filter fun n => old.img.entry 9 n != i.entry 9 n) freePool s
  let s := forEach (List.range 64) (fun g s => if (s.damper g).capacity < 256 then reshed g s else s) s
  let s := endMoved old s
  bumpTally 7 1 (endProposal stOk (w64 p.number) p.digest s)

/-! ### Tally frames (R281 to R283) -/

/-- TYPE of a MOSI frame. -/
inductive TallyType where
  | poll
  | confirm
  | refuse
  | nameLeader
  deriving DecidableEq, Repr

/-- What a MOSI frame is: a CRC error, a fault of form, or a frame of a type. -/
inductive TallyFrame where
  | crc
  | form
  | good (t : TallyType)
  deriving DecidableEq, Repr

def tfSeq (f : List Byte) : Byte := f.getD 1 0
def tfDigest (f : List Byte) : Word := wordAt f 4
def tfNumber (f : List Byte) : Nat := ofLE (slice f 12 4)
def tfHalf (f : List Byte) : Half := Half.sel ((f.getD 16 0).toNat % 2)

/-- Every reserved byte of a frame of a type is zero. -/
def tallyReserved (t : TallyType) (f : List Byte) : Bool :=
  let zero (a n : Nat) : Bool := ofLE (slice f a n) == 0
  zero 2 2 && zero 17 13 && (match t with
    | .confirm | .refuse => zero 16 1
    | .nameLeader => zero 4 12 && (f.getD 16 0).toNat < 2
    | .poll => zero 4 13)

/-- The type that byte 0 codes. -/
def tallyType (f : List Byte) : Option TallyType :=
  match (f.getD 0 0).toNat with
  | 1 => some .poll
  | 2 => some .confirm
  | 3 => some .refuse
  | 4 => some .nameLeader
  | _ => none

/-- A MOSI frame examined. -/
def parseTally (f : List Byte) : TallyFrame :=
  if f.length ≠ 32 then .form
  else if (crc16 (f.take 30)).toNat ≠ ofLE (f.drop 30) then .crc
  else match tallyType f with
    | some t => if tallyReserved t f then .good t else .form
    | none => .form

/-- What awaits the monitor: the proposal, or the D0 of a valid image, with number and digest. -/
def State.pendingDigest (s : State) : Option (Nat × Word) :=
  match s.img.proposal with
  | some p => some (p.number, p.digest)
  | none => if s.dev.imageValid && !s.img.confirmed then some (0, s.img.d0) else none

/-- The MISO frame composed now (R283). -/
def State.misoFrame (s : State) : List Byte :=
  let pend := s.pendingDigest
  let flags := s.dev.st.code + at_ 3 s.dev.leader.idx + bitTo 4 s.west.inService + bitTo 5 s.east.inService
    + bitTo 6 pend.isSome + bitTo 7 s.dev.imageValid
  let remain := match s.img.proposal with
    | some p => (s.agreeDue p - s.hp) / 100
    | none => 0xFFFFFFFF
  let (n, d) := pend.getD (s.img.agreed, s.img.digest)
  let body := s.tally.answer ++ toLE 1 flags ++ toLE 8 d.toNat ++ toLE 4 n ++ toLE 8 s.now.toNat ++ toLE 4 remain ++ [0, 0]
  body ++ toLE 2 (crc16 body).toNat

/-- A D0 mismatched or refused: IMAGE_VALID clears, AGREEMENT_MISMATCH is recorded, and the device stays BANKED (R278). -/
def refuseImage (s : State) : State :=
  let s := bumpTally 4 1 { s with dev := { s.dev with imageValid := false } }
  statusCopy (report (faultOf s.dev.leader ukTally 0 .agreementMismatch) s)

/-- A CONFIRM or REFUSE acted on: its RESULT (R278, R279, R283). D0 is pending under number 0. -/
def tallyVerdict (confirm : Bool) (f : List Byte) (s : State) : Nat × State :=
  let n := tfNumber f
  let d0 := s.dev.imageValid && !s.img.confirmed
  let rec_ := recordEntry 0x08 false f
  match s.img.proposal with
  | some p =>
    if n = p.number then
      if !confirm then (0, bumpTally 4 1 (endProposal stDigestMismatch 0 1 (rec_ s)))
      else if tfDigest f ≠ p.digest then (3, bumpTally 4 1 (endProposal stDigestMismatch 0 0 (rec_ s)))
      else (0, completeAgreement p (rec_ s))
    else if d0 && n == 0 then judgeD0 rec_ else (5, s)
  | none => if !d0 then (4, s) else if n = 0 then judgeD0 rec_ else (5, s)
where
  /-- The frame decides D0. -/
  judgeD0 (rec_ : State → State) : Nat × State :=
    if !confirm then (0, refuseImage (rec_ s))
    else if tfDigest f ≠ s.img.d0 then (3, refuseImage (rec_ s))
    else
      let s := rec_ s
      (0, statusCopy { s with img := { s.img with confirmed := true } })

/-- NAME_LEADER acted on while a dispute waits for the monitor (R323). -/
def tallyLeader (f : List Byte) (s : State) : Nat × State :=
  if s.dev.dispute && s.dev.awaitMonitor then (0, decideDispute (tfHalf f) (recordEntry 0x08 false f s)) else (4, s)

/-- A frame of a type acted on, as if the port had received it; `live` frames find replay running (R364, R365). -/
def tallyAct (live : Bool) (t : TallyType) (f : List Byte) (s : State) : Nat × State :=
  let held := live && s.rec_.mode == .replay
  match t with
  | .poll => (0, s)
  | .confirm => if held then (4, bumpTally 3 1 s) else tallyVerdict true f (bumpTally 3 1 s)
  | .refuse => if held then (4, s) else tallyVerdict false f s
  | .nameLeader => tallyLeader f s

/-- TYPE of the answer to a frame. -/
def answerType : TallyType → Byte
  | .poll | .nameLeader => 0x81
  | .confirm => 0x82
  | .refuse => 0x83

/-- A transaction: the frame that answers the one before goes out, and the answer to this one is prepared (R281). -/
def tallyTransaction (f : List Byte) (s : State) : State :=
  if s.dev.st = .cold then s
  else
    let s := bumpTally 0 1 { s with tally := { s.tally with miso := s.misoFrame } }
    let put (ty : Byte) (r : Nat) (s : State) : State :=
      { s with tally := { s.tally with answer := [ty, tfSeq f, BitVec.ofNat 8 r] } }
    match parseTally f with
    | .crc => put 0x8F 1 (bumpTally 1 1 s)
    | .form => put 0x8F 2 (bumpTally 2 1 s)
    | .good t =>
      let (r, s) := tallyAct true t f s
      put (answerType t) r s

/-- A transaction of a command's own kind; another frame is none of this command (log 2). -/
def tallyOf (k : TallyFrame) (f : List Byte) (s : State) : State := if parseTally f = k then tallyTransaction f s else s

/-- POLL (R282). -/
def execPoll (frame : List Byte) (s : State) : Host.Outcome State Fault Refusal := .next (tallyOf (.good .poll) frame s)

/-- CONFIRM (R278). -/
def execConfirm (frame : List Byte) (s : State) : Host.Outcome State Fault Refusal := .next (tallyOf (.good .confirm) frame s)

/-- REFUSE (R278). -/
def execRefuse (frame : List Byte) (s : State) : Host.Outcome State Fault Refusal := .next (tallyOf (.good .refuse) frame s)

/-- NAME_LEADER (R323). -/
def execNameLeader (frame : List Byte) (s : State) : Host.Outcome State Fault Refusal :=
  .next (tallyOf (.good .nameLeader) frame s)

/-- TALLY_BAD_FRAME (R281, R283): a CRC error or a fault of form. -/
def execTallyBadFrame (frame : List Byte) (s : State) : Host.Outcome State Fault Refusal :=
  .next (tallyOf .form frame (tallyOf .crc frame s))

end Sys2Proof.Machine
end

