-- ==== Sys2Proof/Machine/Resets.lean ====
section
/-! DEFINITION. Half resets (R312, R385, R386), lockstep faults (R308), supply and clock faults (R370, R401) and the power loop (R388,
R389). -/
namespace Sys2Proof.Machine

/-! ### Why a half is reset -/

/-- The class that an automatic reset names: the latched one, or the dispute that the half lost (R312, R323). -/
def HalfUnit.autoCause (u : HalfUnit) : Nat := if u.latchClass = 0 then classCode .leaderDispute else u.latchClass

/-- A supply or clock fault has latched both halves, whatever latched them first: no automatic reset follows (R370, R401; log 41). -/
def State.supplyDown (s : State) : Bool := s.west.supplyBad && s.east.supplyBad

/-- The reset of a half that is due: its cause, and whether it counts toward the limit of R312. -/
def State.resetDue (s : State) (h : Half) : Option (Nat × Bool) :=
  let u := s.half h
  if u.underReset || !s.exchanges then none
  else if u.resetAsked then some (0, false)
  else if u.autoDue && !s.supplyDown then some (u.autoCause, true)
  else none

/-! ### Assertion (R386) -/

/-- The final records of a half's open coalescing entries, queued; the entries close (R316; log 41). -/
def closeEntries (h : Half) (s : State) : State :=
  let s := forEach (s.half h).table (fun c s =>
    if !c.repeats then queueRecord { c.record with followers := min 0xFFFF c.count } s
    else if c.count = 0 then s
    else queueRecord { c.record with rep := true, followers := min 0xFFFF (c.count - 1) } s) s
  updHalf h (fun u => { u with table := [] }) s

/-- A half's ready records written while the fault ring has room. -/
def writeReady (h : Half) : Nat → State → State
  | 0, s => s
  | n + 1, s => if s.host.fault.full then s else writeReady h n (refill h (writeFault h s))

/-- What the half still holds goes to the other half's pending queue; what finds no place there is counted in its LOST. -/
def handRecords (h : Half) (s : State) : State :=
  let u := s.half h
  forEach (u.bufs ++ u.pendq) (fun r s =>
    let o := s.half h.other
    if o.pendq.length < 64 then updHalf h.other (fun o => { o with pendq := o.pendq ++ [r] }) s
    else updHalf h.other (fun o => { o with lost := satAdd 0xFFFFFFFF o.lost 1 }) s) s

/-- The fault records of a half that is about to be reset leave it. -/
def drainRecords (h : Half) (s : State) : State := handRecords h (writeReady h 67 (refill h (closeEntries h s)))

/-- The channels of a half. -/
def chansOf (h : Half) : List Nat := (List.range 16).map (16 * h.idx + ·)

/-- A channel in use enters self-refresh with the requests that it holds given up (R384). -/
def sleepChannel (c : Nat) : State → State :=
  updChan c fun x =>
    { x with st := if x.st = .off ∨ x.st = .lost then x.st else .selfRefresh, queue := [], stretched := [], done := [] }

/-- The buffer pools of a half's hoops are all FREE again (R197). -/
def freePools (h : Half) (s : State) : State :=
  forEach ((List.range 256).filter fun p => poolValid (s.img.entry 9 p) && s.hoopHome (poolHoop (s.img.entry 9 p)) == h) freePool s

/-- What a half keeps through its own reset: the reset's progress, the count of R312, its part in the leadership count, and the
supplies and throttle, which are the device's, and what the intake window shows of its path (R254, R384, R385, R388). -/
def HalfUnit.reset_ (u : HalfUnit) (hp : Nat) (autos : List Word) : HalfUnit :=
  { HalfUnit.init with
    reset := .asserted, resetSince := hp, resetOwed := u.resetOwed, autoResets := autos, claimCount := u.claimCount,
    vcoreMv := u.vcoreMv, vsramMv := u.vsramMv, stretch := u.stretch, pathOk := u.pathOk,
    ctrlDropped := u.ctrlDropped, thermalAt := u.thermalAt, hotAt := u.hotAt }

/-- Leadership leaves a half that is reset, if the other is in service (R321, R385). -/
def passLead (h : Half) (s : State) : State :=
  if s.dev.leader == h && (s.half h.other).inService then leadBy h.other s else s

/-- The jobs of a half end with ST_HALF_DOWN; a WEDGED job has had its reply and goes with the reset (R73, R386). -/
def dropJobs (h : Half) (s : State) : State :=
  let s := endHalfJobs h stHalfDown s
  forEach ((List.range 16).filter fun i => s.hoopHome i == h) (fun i => updHoop i fun u => { u with job := none }) s

/-- A half's links at their reset values, with what was received on them (R350; log 35). -/
def clearLinks (h : Half) (s : State) : State :=
  let l := s.link
  let mine (i : Nat) : Bool := s.repHalf i == h
  { s with link := { l with links := l.links.filter fun e => halfOfLink e.1 != h,
                            inbox := l.inbox.filter fun x => x.half != h,
                            rounds := l.rounds.filter fun x => !mine x.entry,
                            roundNo := l.roundNo.filter fun e => !mine e.1,
                            early := l.early.filter fun e => !mine e.1 } }

/-- A half's dampers at their reset values (R284). -/
def clearDampers (h : Half) (s : State) : State :=
  { s with mem := { s.mem with dampers := s.mem.dampers.filter fun e => halfOfDamper e.1 != h } }

/-- HALF_RESET: gate shut, leadership passed, jobs answered, channels asleep, reset asserted: from then on the registers of the half's
dampers and links show their reset values (R13, R386). -/
def assertReset (h : Half) (cause : Nat) (counted : Bool) (s : State) : State :=
  let autos := if counted then s.recentResets h ++ [s.now] else (s.half h).autoResets
  let s := report { faultOf h.other ukFireguard h.idx .halfReset with d0 := w64 cause } s
  let s := leaveService h (passLead h s)
  let s := dropRuns h (dropJobs h s)
  let s := drainRecords h s
  let s := forEach (chansOf h) sleepChannel (freePools h s)
  statusCopy (clearDampers h (clearLinks h (updHalf h (fun u => u.reset_ s.hp autos) s)))

/-- HALF_RESET (R312, R323, R385, R386). -/
def halfReset (h : Half) (s : State) : State :=
  match s.resetDue h with
  | some (cause, counted) => assertReset h cause counted s
  | none => s

/-- HALF_RESET (R386). -/
def execHalfReset (half : Half) (s : State) : Host.Outcome State Fault Refusal := .next (halfReset half s)

/-- RESET_HALF past R46 step 8 (R385): refused while the other half cannot serve; it joins a reset under way, else asks for one;
either way it clears the count of R312. -/
def resetHalf (pkt : List Word) (t : Tagged) (s : State) : State :=
  let h := Half.sel (fld (pkt.getD 1 0) 0 0)
  let o := s.half h.other
  let s := accept t 0 s
  if o.underReset || !o.inService then replyFinal t stHalfDown 0 0 s
  else if (s.half h).underReset then
    updHalf h (fun u => { u with resetOwed := u.resetOwed ++ [(t.ring, t.tag)], autoResets := [] }) s
  else updHalf h (fun u => { u with resetOwed := u.resetOwed ++ [(t.ring, t.tag)], resetAsked := true, resetSince := s.hp,
                                    autoResets := [] }) s

/-- RESET_HALF (R385). -/
def execResetHalf (ring : BitVec 5) (pkt : List Word) (s : State) : Host.Outcome State Fault Refusal :=
  packet "RESET_HALF" (packetWf 0x13 pkt) ring.toNat pkt (resetHalf pkt) s

/-- The final replies of the RESET_HALF packets that wait for a half. -/
def answerResets (h : Half) (status : Nat) (s : State) : State :=
  let owed := (s.half h).resetOwed
  let s := updHalf h (fun u => { u with resetOwed := [] }) s
  forEach owed (fun p => replyFinal ⟨p.1, p.2, 0x13, 0, 0⟩ status 0 0) s

/-! ### Release (R386) -/

/-- A half's part of the shared store, cleared (R384). -/
def clearShared (h : Half) (m : Store) : Store :=
  { m with cells := m.cells.filter fun c => c.1 / 0x2000000 != h.idx, salts := m.salts.filter fun e => e.1 / 0x2000 != h.idx }

/-- A half's pricking sequencer, knots and fireboxes at their reset values (R14, R62, R384). -/
def clearSeq (h : Half) (s : State) : State :=
  let hoops := (List.range 16).filter (fun i => s.hoopHome i == h) ++ [16 + h.idx]
  let q := s.seq
  { s with seq := { q with knots := q.knots.filter fun e => halfOfKnot e.1 != h,
                           hoops := q.hoops.filter fun e => !hoops.contains e.1,
                           hearths := q.hearths.filter fun e => !(hearthsOf h).contains e.1 } }

/-- A half's stores and channels at their reset values; DRAM keeps its contents (R384). -/
def clearMem (h : Half) (s : State) : State :=
  let s := setLocal h .zero { s with mem := { s.mem with shared := clearShared h s.mem.shared } }
  forEach (chansOf h) (fun c => updChan c fun x =>
    if x.populated then { Channel.init with populated := true, st := .training, density := x.density } else x) s

/-- Invalidations of steps of a half's hoops end with its jobs. -/
def clearInvals (h : Half) (s : State) : State :=
  { s with img := { s.img with invals := s.img.invals.filter fun v => match v.by_ with
      | .packet .. => true
      | .step hoop _ => s.hoopHome hoop != h } }

/-- HALF_RESET_RELEASE: the reset is released; stores are cleared and channels train (R386). -/
def releaseReset (h : Half) (s : State) : State :=
  if (s.half h).reset ≠ .asserted then s
  else
    let s := clearSeq h (clearInvals h (clearLinks h (clearDampers h (clearMem h (loseCopies h s)))))
    updPilot h (fun _ => .init) (updHalf h (fun u => { u with reset := .released }) s)

/-- HALF_RESET_RELEASE (R386). -/
def execHalfResetRelease (half : Half) (s : State) : Host.Outcome State Fault Refusal := .next (releaseReset half s)

/-! ### Placement (R318) -/

/-- The spare's position: the lowest whose own hearth failed, if the spare passed. -/
def sparePos (pass : Nat → Bool) : Option Nat := if pass 8 then (List.range 8).find? fun i => !pass i else none

/-- The physical hearth of position `i`, if any. -/
def placedAt (h : Half) (pass : Nat → Bool) (i : Nat) : Option Nat :=
  if pass i then some (posOf h i) else if sparePos pass = some i then some (spareOf h) else none

/-- The positions of a half placed on the hearths that passed (`pass` by position, 8 the spare), with new generations. -/
def placeHalf (h : Half) (pass : Nat → Bool) (gen : Nat → Nat) (fence : Bool) (s : State) : State :=
  let s := forEach (List.range 9) (fun i => updHearth ((hearthsOf h).getD i 0) fun x => { x with closed := !pass i }) s
  forEach (List.range 8) (fun i => updPlace (posOf h i) fun x =>
    ⟨(placedAt h pass i).getD 31, (placedAt h pass i).isNone, none, false, gen x.gen, 0, fence⟩) s

/-! ### Restart (R386) -/

/-- The channels of a half come up at the set point in force, or are LOST (R218, R219). -/
def startChannels (h : Half) (trained : Nat → Bool) (s : State) : State :=
  forEach (chansOf h) (fun c s =>
    if !(s.chan c).populated then s
    else if trained (c % 16) && (s.chan c).density != 0 then
      runChannel c (s.half h).dramFsp s
    else loseChannel c s) s

/-- What a half takes from MEMPOP (R206 to R208, R220). -/
def readStrap (mempop : BitVec 2) (u : HalfUnit) : HalfUnit :=
  { u with population := mempop.toNat, rowHitFirst := mempop == 2 }

/-- The half's settings that outlive its reset take their value in force (R13). -/
def restoreSettings (h : Half) (s : State) : State :=
  let dev := s.img.entry 15 0
  let s := updHalf h (readStrap s.pins.mempop) s
  if s.dev.imageValid then
    loadPilotStore h (updHalf h (fun u => { u with dramFsp := devFsp dev, srIdle := devSrIdle dev }) s)
  else s

/-- A half enters service: the waiting RESET_HALF packets are answered; it leads if the other half is out (R321, R385, R386). -/
def enterService (h : Half) (s : State) : State :=
  let s := updHalf h (fun u => { u with reset := .none, inService := true }) s
  let s := if (s.half h.other).inService || s.dev.dispute then s else leadBy h s
  settleState 3 (statusCopy (answerResets h stOk s))

/-- HALF_RESTART: channels trained, injections made, hearths placed; a checker that did not flag leaves the half out (R310). -/
def halfRestart (h : Half) (trained : Nat → Bool) (injections : Bool) (pass : Nat → Bool) (s : State) : State :=
  if (s.half h).reset ≠ .released then s
  else
    let s := restoreSettings h s
    let s := startChannels h trained s
    let s := placeHalf h pass nextPlaceGen true s
    if injections then enterService h s
    else report (faultOf h ukFireguard h.idx .checkerSelftest) (updHalf h (fun u => { u with reset := .none }) s)

/-- HALF_RESTART (R310, R318, R386). -/
def execHalfRestart (half : Half) (trained : BitVec 16) (injections : Bool) (pass : BitVec 9) (s : State) :
    Host.Outcome State Fault Refusal :=
  .next (halfRestart half trained.getLsbD injections pass.getLsbD s)

/-- HALF_RESET_TIMEOUT: the half has not returned within 90 ms (R385). -/
def resetTimeout (h : Half) (s : State) : State :=
  let u := s.half h
  if u.resetOwed.isEmpty then s else answerResets h stHalfDown (advanceTo (u.resetSince + usHp 90000) s)

/-- HALF_RESET_TIMEOUT (R385). -/
def execHalfResetTimeout (half : Half) (s : State) : Host.Outcome State Fault Refusal := .next (resetTimeout half s)

/-! ### Lockstep, supplies and clocks (R308, R370, R401) -/

/-- A half whose fireguard runs: out of COLD and not under reset. -/
def State.guards (s : State) (h : Half) : Bool := s.dev.st != .cold && !(s.half h).underReset

/-- LOCKSTEP_MISMATCH: the control cores of a half diverge. -/
def lockstepFault (h : Half) (s : State) : State :=
  if !s.guards h then s
  else report (faultOf h ukFireguard h.idx .lockstepMismatch) (updHalf h (fun u => { u with lockstepOk := false }) s)

/-- LOCKSTEP_MISMATCH (R308). -/
def execLockstepMismatch (half : Half) (s : State) : Host.Outcome State Fault Refusal := .next (lockstepFault half s)

/-- Nominal mV of a fixed rail (R368); none for the two adaptive ones. -/
def railNominal (rail : Nat) : Option Nat := ([none, none, some 800, some 750, some 850, some 1200, some 500, some 1800] : List _).getD rail none

/-- A rail's reading is out of its window: ±5 % of nominal, or ±30 mV of the value last requested for an adaptive rail (R370). -/
def State.railOut (s : State) (h : Half) (rail mv : Nat) : Bool :=
  let near (v : Nat) : Bool := decide (mv + 30 < v) || decide (v + 30 < mv)
  match railNominal rail with
  | some n => decide (100 * mv < 95 * n) || decide (105 * n < 100 * mv)
  | none => near (if rail = 0 then (s.half h).vcoreMv else (s.half h).vsramMv)

/-- The last `n` pace ticks all lie outside the 200 µs that follow a rail's last request; a fixed rail has none (R370). -/
def State.railWatched (s : State) (rail n : Nat) : Bool :=
  match railNominal rail with
  | some _ => true
  | none => decide (s.pins.requestAt rail + usHp 200 + (n - 1) * s.time.tickHp ≤ s.hp)

/-- A supply that fails (R370, R387): ten consecutive samples out of the window, or an AVSBus transaction of its rail that failed three
times; with the value measured last. -/
def State.supplyTrip (s : State) (h : Half) (rail : Nat) : SupplyTrip → Option Nat
  | .samples mv =>
    if mv.length = 10 ∧ s.railWatched rail 10 ∧ (mv.all fun v => s.railOut h rail v.toNat) then (mv.getLast?).map (·.toNat) else none
  | .avsBus mv => if (railNominal rail).isNone then some mv.toNat else none

/-- A VOLTAGE_FAULT reported; in KINDLING FG_BOOT shows the supply as the cause (R374, R390). -/
def supplyFault (h : Half) (index d0 d1 : Nat) (s : State) : State :=
  let s := report { faultOf h ukSupply index .voltageFault with d0 := w64 d0, d1 := w64 d1 } (updHalf h (fun u => { u with supplyBad := true }) s)
  if s.dev.st = .kindling then { s with boot := { s.boot with fail := 1 } } else s

/-- VOLTAGE_FAULT: a fireguard that runs finds a supply failing. -/
def voltageFault (h : Half) (rail : Nat) (trip : SupplyTrip) (s : State) : State :=
  match (if s.guards h then s.supplyTrip h rail trip else none) with
  | some mv => supplyFault h rail rail mv s
  | none => s

/-- VOLTAGE_FAULT (R370, R387). -/
def execVoltageFault (half : Half) (rail : BitVec 3) (trip : SupplyTrip) (s : State) : Host.Outcome State Fault Refusal :=
  .next (voltageFault half rail.toNat trip s)

/-- A clock absent, or more than 1,000 ppm off its frequency (R401): PACECLK 50 MHz, REFCLK 100 MHz (R400). -/
def clockOut (refclk : Bool) (khz : Nat) : Bool :=
  let n := if refclk then 100000 else 50000
  decide (1000 * khz < 999 * n) || decide (1001 * n < 1000 * khz)

/-- CLOCK_FAULT (R401). -/
def execClockFault (half : Half) (refclk : Bool) (khz : BitVec 32) (s : State) : Host.Outcome State Fault Refusal :=
  .next (if s.guards half && clockOut refclk khz.toNat then supplyFault half (if refclk then 9 else 8) 0 khz.toNat s else s)

/-! ### The power loop (R388, R389) -/

/-- The throttle's new VDD_CORE request and stretch, and whether a limit stands beyond it (R388). `under` is exclusive of `above`. The
request never goes below 720 mV (R398) nor above VCORE_MV, where a step of 10 mV would overshoot it (log 37). -/
def throttle (core stretch vcore : Nat) (above under canRise : Bool) : Nat × Nat × Bool :=
  if above then
    if 720 < core then (max 720 (core - 10), stretch, false)
    else if canRise && decide (stretch < 15) then (core, stretch + 1, false)
    else (core, stretch, true)
  else if under then
    if 0 < stretch then (core, stretch - 1, false) else if core < vcore then (min vcore (core + 10), stretch, false) else (core, stretch, false)
  else (core, stretch, false)

/-- A higher stretch leaves a half's LIVE_RATE at 1,700 or above only if it is above that now (R388). -/
def HalfUnit.rateSpare (u : HalfUnit) : Bool := u.underReset || !u.measured || decide (1700 < u.liveRate)

/-- A THERMAL_LIMIT record, at most once per 100 ms of its kind. -/
def thermalLimit (d0 : Nat) (d1 : Int) (s : State) : State :=
  report { faultOf s.dev.leader ukDevice 0 .thermalLimit with d0 := w64 d0, d1 := BitVec.ofInt 64 d1 } s

/-- 100 ms have passed since the last record of a kind. -/
def State.limitDue (s : State) (last : Option Nat) : Bool :=
  match last with
  | none => true
  | some t => decide (t + usHp 100000 ≤ s.hp)

/-- One loop of the throttle with the readings `p` in W and `t` in °C. -/
def powerStep (p : Nat) (t : Int) (mayRise : Bool) (s : State) : State :=
  let canRise := mayRise && s.west.rateSpare && s.east.rateSpare
  let dev := s.img.entry 15 0
  let limit := devPower dev
  let therm : Int := devTherm dev
  let above := decide (limit < p) || decide (therm < t)
  let under := decide (100 * p < 95 * limit) && decide (t < therm - 3)
  let u := s.half s.dev.leader
  let (core, stretch, beyond) := throttle u.vcoreMv u.stretch (devVcore dev) above under canRise
  let floor := decide (core ≤ 720) && (!canRise || stretch == 15)
  let g (u : HalfUnit) : HalfUnit :=
    if u.underReset then { u with stretch := stretch }
    else { u with stretch := stretch, powerW := min 511 p, tj := (t % 256).toNat, atFloor := floor, looped := true }
  let s := if core = u.vcoreMv then s else avsWrite 0 core (avsStart s)
  let s := updHalf .west g (updHalf .east g s)
  if beyond && s.limitDue (s.half s.dev.leader).thermalAt then
    let s := updHalf .west (fun u => { u with thermalAt := some s.hp }) (updHalf .east (fun u => { u with thermalAt := some s.hp }) s)
    if limit < p then thermalLimit 1 p s else thermalLimit 2 t s
  else s

/-- A junction above 110 °C (R389). -/
def hotStep (t : Int) (s : State) : State :=
  if 110 < t && s.limitDue (s.half s.dev.leader).hotAt then
    let s := updHalf .west (fun u => { u with hotAt := some s.hp }) (updHalf .east (fun u => { u with hotAt := some s.hp }) s)
    thermalLimit 3 t s
  else s

/-- POWER_LOOP (R388, R389): once per millisecond; the leading fireguard runs the throttle while an image is valid. `mayRise`: the
stretch has a further step that keeps LIVE_RATE. -/
def powerLoop (p : Nat) (t : Int) (mayRise : Bool) (s : State) : State :=
  if s.dev.st = .cold then s
  else
    let s := advanceTo (s.dev.loopAt + usHp 1000) s
    let s := { s with dev := { s.dev with loopAt := s.hp } }
    hotStep t (if s.dev.imageValid then powerStep p t mayRise s else s)

/-- POWER_LOOP (R388). -/
def execPowerLoop (power : BitVec 16) (temp : BitVec 8) (mayRise : Bool) (s : State) : Host.Outcome State Fault Refusal :=
  .next (powerLoop power.toNat temp.toInt mayRise s)

end Sys2Proof.Machine
end

