-- ==== Sys2Proof/Machine/Admin.lean ====
section
/-! DEFINITION. NOP, GET_STATUS, READ_COUNTERS, OPEN_OUTPUTS, CLOSE_OUTPUTS, SET_TIME and PPS_IN (R48, R50, R51, R408). -/
namespace Sys2Proof.Machine

/-- NOP (R48); a packet of an opcode that R48 does not list fails step 1 of R46. -/
def execNop (ring : BitVec 5) (pkt : List Word) (s : State) : Host.Outcome State Fault Refusal :=
  packet "NOP" (nopWf pkt) ring.toNat pkt (fun t s => answer t stOk 0 0 s) s

/-- GET_STATUS (R48): DETAIL is HST_STATUS. -/
def execGetStatus (ring : BitVec 5) (pkt : List Word) (s : State) : Host.Outcome State Fault Refusal :=
  packet "GET_STATUS" (packetWf 0x01 pkt) ring.toNat pkt (fun t s => answer t stOk 0 s.hstStatus s) s

/-! ### READ_COUNTERS -/

/-- A counter block by its number, where a chapter gives it one (R77, R102, R161, R176, R198, R221, R255, R285, R325, R352). -/
def State.counterBlock (s : State) (n : Nat) : Option (Tab Nat) :=
  let both (b : Nat) (f : HalfUnit → Tab Nat) : Option (Tab Nat) := some (f (s.half (Half.sel (n - b))))
  if n < 0x10 then none
  else if n < 0x12 then both 0x10 HalfUnit.seqCtr
  else if n < 0x20 then none
  else if n < 0x32 then some (s.hearth (n - 0x20)).ctr
  else if n < 0x44 then some (s.hearth (n - 0x32)).attCtr
  else if n < 0x46 then both 0x44 HalfUnit.cmpCtr
  else if n < 0x48 then both 0x46 HalfUnit.xlatCtr
  else if n < 0x68 then some (if (s.chan (n - 0x48)).populated then (s.chan (n - 0x48)).ctr else [])
  else if n < 0x88 then some (s.port (n - 0x68)).ctr
  else if n < 0x8C then some (s.dec (n - 0x88)).ctr
  else if n < 0x8E then both 0x8C HalfUnit.dampCtr
  else if n = 0x8E then some s.tally.ctr
  else if n < 0x90 then none
  else if n < 0x92 then both 0x90 HalfUnit.fgCtr
  else if n = 0x92 then some s.out.ctr
  else if n < 0x9B then some (s.klink (n - 0x93)).ctr
  else if n = 0x9B then some s.link.ctr
  else none

/-- The 64 bytes of a counter block. -/
def blockBytes (t : Tab Nat) : List Byte := wordsBytes ((List.range 8).map fun i => w64 (Tab.get 0 t i))

/-- READ_COUNTERS past R46 step 8: a block that no chapter numbers, or a DEST off its alignment, fails the parameter check. -/
def readCounters (pkt : List Word) (t : Tagged) (s : State) : State :=
  let dest := pkt.getD 2 0
  match s.counterBlock (fld (pkt.getD 1 0) 7 0) with
  | none => answer t stBadParam 0 0 s
  | some b =>
    if fld dest 5 0 ≠ 0 then answer t stBadParam 0 0 s
    else replyFinal t stOk 0 0 (hostWrite dest.toNat (blockBytes b) (accept t 0 s))

/-- READ_COUNTERS (R48, R49). -/
def execReadCounters (ring : BitVec 5) (pkt : List Word) (s : State) : Host.Outcome State Fault Refusal :=
  packet "READ_COUNTERS" (packetWf 0x02 pkt) ring.toNat pkt (readCounters pkt) s

/-! ### Outputs (R51, R311) -/

/-- The state that OPEN_OUTPUTS leads to: DAMPED if a half is out or MAIN_OUT is set. -/
def State.openState (s : State) : DevState :=
  if s.west.inService && s.east.inService && !s.west.mainOut && !s.east.mainOut then .drawing else .damped

/-- OPEN_OUTPUTS past R46 step 8: refused without a valid image and without a confirmed D0. -/
def openOutputs (t : Tagged) (s : State) : State :=
  if !s.dev.imageValid then answer t stNoImage 0 0 s
  else if !s.img.confirmed then answer t stAgreePending 0 0 s
  else answer t stOk 0 0 (setDevState s.openState { s with dev := { s.dev with outputsOpen := true } })

/-- OPEN_OUTPUTS (R51). -/
def execOpenOutputs (ring : BitVec 5) (pkt : List Word) (s : State) : Host.Outcome State Fault Refusal :=
  packet "OPEN_OUTPUTS" (packetWf 0x11 pkt) ring.toNat pkt openOutputs s

/-- CLOSE_OUTPUTS past R46 step 8: back to BANKED and the harmless output state. -/
def closeOutputs (t : Tagged) (s : State) : State :=
  answer t stOk 0 0 (setDevState .banked { s with dev := { s.dev with outputsOpen := false } })

/-- CLOSE_OUTPUTS (R51). -/
def execCloseOutputs (ring : BitVec 5) (pkt : List Word) (s : State) : Host.Outcome State Fault Refusal :=
  packet "CLOSE_OUTPUTS" (packetWf 0x12 pkt) ring.toNat pkt closeOutputs s

/-! ### The timestamp (R50, R408) -/

/-- SET_TIME past R46 step 8: a SLEW out of range fails at fetch; else it waits for PPS_IN. -/
def setTime (pkt : List Word) (t : Tagged) (s : State) : State :=
  let slew := signed 32 (fld (pkt.getD 2 0) 31 0)
  if slew < -2000 ∨ 2000 < slew then answer t stBadParam 0 0 s
  else
    let s := accept t 0 s
    { s with time := { s.time with armed := s.time.armed ++ [⟨t.ring, t.tag, pkt.getD 1 0, slew, s.hp⟩] } }

/-- SET_TIME (R50). -/
def execSetTime (ring : BitVec 5) (pkt : List Word) (s : State) : Host.Outcome State Fault Refusal :=
  packet "SET_TIME" (packetWf 0x15 pkt) ring.toNat pkt (setTime pkt) s

/-- The final reply of a SET_TIME; EFFECTIVE is the timestamp at the edge, the count that LOAD would replace (log 43). -/
def timeReply (a : SetTime) (status : Nat) (eff : Word) : State → State := replyFinal ⟨a.ring, a.tag, 0x15, 0, 0⟩ status eff 0

/-- One waiting SET_TIME at its edge: a LOAD below the count changes nothing; else LOAD, unless all ones, and SLEW take effect. -/
def applySetTime (a : SetTime) (s : State) : State :=
  let at_ := s.now
  if a.load.toNat < at_.toNat then timeReply a stBadParam at_ s
  else
    let ts := if a.load = BitVec.allOnes 64 then at_ else a.load
    timeReply a stOk at_ { s with time := { s.time with ts := ts, slew := a.slew, slewAcc := 0 } }

/-- PPS_IN_EDGE: the waiting SET_TIME packets act at the first PACECLK rising edge after it (R50, R408). -/
def ppsEdge (s : State) : State :=
  match s.time.armed with
  | [] => s
  | l =>
    let s := advanceTo ((s.hp / 2 + 1) * 2) s
    forEach l applySetTime { s with time := { s.time with armed := [] } }

/-- PPS_IN_EDGE (R50, R408). -/
def execPpsInEdge (s : State) : Host.Outcome State Fault Refusal := .next (ppsEdge s)

/-- SET_TIME_NO_PPS: no edge has arrived within 2 s of the oldest waiting SET_TIME (R50). -/
def noPps (s : State) : State :=
  match s.time.armed with
  | [] => s
  | a :: rest =>
    let s := advanceTo (a.since + usHp 2000000) s
    timeReply a stNoPps 0 { s with time := { s.time with armed := rest } }

/-- SET_TIME_NO_PPS (R50). -/
def execSetTimeNoPps (s : State) : Host.Outcome State Fault Refusal := .next (noPps s)

end Sys2Proof.Machine
end

