-- ==== Sys2Proof/Machine/Boot.lean ====
section
/-! DEFINITION. Power-on and device resets and KINDLING up to BANKED (R311, R368 to R374, R384, R390, R403). -/
namespace Sys2Proof.Machine

/-! ### Resets of the whole device (R384) -/

/-- Everything at its reset value, in COLD; the queue, the part, host memory and the salt of free values are no state that a reset
covers, and DRAM is unspecified anew (R413). -/
def resetAll (s : State) : State :=
  let s := if s.dev.st = .cold then s else setDevState .cold s
  { State.reset with
    pending := s.pending, freeCtr := s.freeCtr + 1, part := s.part, pins := { State.reset.pins with poresetN := s.pins.poresetN },
    host := { HostIf.init with mem := s.host.mem }, mem := .init s.freeCtr }

/-- KINDLING begins with the straps sampled; the boot ROM runs (R374, R403). -/
def kindle (mempop : BitVec 2) (s : State) : State := setDevState .kindling { s with pins := { s.pins with mempop := mempop } }

/-- The regulators hold their power-up values by themselves, before any request (R368, R407). -/
def railsUp (s : State) : State := setRail 1 850 (setRail 0 800 s)

/-- PORESET_ASSERT (R311, R384). -/
def execPoresetAssert (s : State) : Host.Outcome State Fault Refusal :=
  .next (resetAll { s with pins := { s.pins with poresetN := false } })

/-- PORESET_RELEASE: MEMPOP is sampled and KINDLING begins (R374, R403). -/
def poresetRelease (mempop : BitVec 2) (s : State) : State :=
  if s.pins.poresetN then s else railsUp (kindle mempop { s with pins := { s.pins with poresetN := true } })

/-- PORESET_RELEASE (R374, R403). -/
def execPoresetRelease (mempop : BitVec 2) (s : State) : Host.Outcome State Fault Refusal := .next (poresetRelease mempop s)

/-- RESET_DEVICE past R46 step 8: the immediate reply, then the reset and KINDLING, with the straps as they stand now (R51, R403). The
supplies go from the values last requested to those of KINDLING (R374, R387). -/
def resetDevice (mempop : BitVec 2) (t : Tagged) (s : State) : State :=
  let core := s.west.vcoreMv
  let sram := s.west.vsramMv
  requestVolts 800 850 (setRail 1 sram (setRail 0 core (kindle mempop (resetAll (headCopy t.ring (writeReply t 0 stAccepted 0 0 s))))))

/-- RESET_DEVICE (R51, R384). -/
def execResetDevice (ring : BitVec 5) (pkt : List Word) (mempop : BitVec 2) (s : State) : Host.Outcome State Fault Refusal :=
  packet "RESET_DEVICE" (packetWf 0x14 pkt) ring.toNat pkt (resetDevice mempop) s

/-! ### XSPI_RESET_N (R404) -/

/-- XSPI_RESET_N: low for the first 10 µs of each power-on or device reset, then high. -/
def State.xspiResetN (s : State) : Bool := s.pins.poresetN && decide (usHp 10 ≤ s.hp)

/-! ### The firmware package (R371 to R373) -/

/-- A package's fate: the FAIL code and the STAGE at which it fell, or its header words. -/
inductive PackageRes where
  | fails (cause stage : Nat)
  | ok (words : Entry)
  deriving DecidableEq, Repr

/-- Bytes of a flash slot. -/
def slotBytes : Nat := 0x1000000

/-- The header of a package is right and its BYTES fit the slot (R371, R373). -/
def packageOk (e : Entry) : Bool :=
  e.f 0 31 0 == 0x55544657 && e.f 0 63 56 == 0 && decide (e.f 0 55 48 < 64) && e.f 1 63 32 == 0
    && decide (64 + 256 ≤ e.f 1 31 0) && decide (e.f 1 31 0 ≤ slotBytes)
    && [3, 4, 5, 6, 7].all fun i => e.getD i 0 == 0

/-- The checks of R373 on what a slot of the flash answers. -/
def packageRes (p : Part) (bs : List Byte) : PackageRes :=
  let e : Entry := (List.range 8).map fun i => wordAt bs (8 * i)
  let n := e.f 1 31 0
  if bs.isEmpty then .fails 2 1
  else if !packageOk e || decide (bs.length < n) then .fails 3 1
  else if !signatureOk p (bs.take (n - 256)) (slice bs (n - 256) 256) 8 then .fails 4 2
  else if e.f 0 55 48 < p.minRollback.toNat then .fails 5 2
  else .ok e

/-- KINDLING waits for the package of a slot: A first, B after A. -/
def State.bootReads (s : State) (slotB : Bool) : Bool :=
  s.dev.st == .kindling && s.boot.slot == 3 && s.boot.fail == 0 && s.boot.slotATried == slotB

/-- A slot's package is not accepted: B is tried after A, and with B the boot ends (R373). -/
def packageFails (slotB : Bool) (cause stage : Nat) (b : Boot) : Boot :=
  if slotB then { b with fail := cause, stage := stage } else { b with slotATried := true, stage := 1 }

/-- A slot's package is accepted: its firmware runs, and FG_BOOT shows what R390 lists of it. -/
def packageRuns (slotB : Bool) (e : Entry) (keySlot : Nat) (b : Boot) : Boot :=
  { b with slot := if slotB then 1 else 0, keySlot := keySlot, rollback := e.f 0 55 48, fwVersion := e.f 0 47 32,
           imageOff := e.f 2 31 0, imageBytes := e.f 2 63 32, stage := 3 }

/-- BOOT_PACKAGE_READ: once the flash is out of reset (R404), the ROM reads and judges a slot (R373). -/
def bootPackage (slotB : Bool) (bs : List Byte) (s : State) : State :=
  if !s.bootReads slotB then s
  else
    let s := advanceTo (usHp 10) s
    match packageRes s.part bs with
    | .fails cause stage => { s with boot := packageFails slotB cause stage s.boot }
    | .ok e =>
      let block := slice bs (e.f 1 31 0 - 256) 256
      { s with boot := packageRuns slotB e (ofLE (block.take 4)) s.boot }

/-- BOOT_PACKAGE_READ (R373). -/
def execBootPackageRead (slotB : Bool) (package : List Byte) (s : State) : Host.Outcome State Fault Refusal :=
  .next (bootPackage slotB package s)

/-! ### Stores and DRAM (R199, R218, R374) -/

/-- The firmware runs and the boot has not failed. -/
def State.bootRuns (s : State) : Bool := s.dev.st == .kindling && s.boot.slot != 3 && s.boot.fail == 0

/-- STAGE while stores and DRAM are tested in parallel. -/
def Boot.parallel (b : Boot) : Boot := { b with stage := if !b.storesDone then 3 else if !b.dramDone then 4 else 5 }

/-- STORES_TESTED: every on-chip store is tested and cleared to zero (R374). -/
def storesTested (pass : Bool) (s : State) : State :=
  if !s.bootRuns || s.boot.storesDone then s
  else if !pass then { s with boot := { s.boot with fail := 7 } }
  else
    let s := { s with seq := { s.seq with
      hearths := s.seq.hearths.map fun (e : Nat × Hearth) => (e.1, { e.2 with frames := .zero, pageMap := [] }) } }
    let s := { s with mem := { s.mem with shared := .zero, local0 := .zero, local1 := .zero } }
    { s with boot := { s.boot with storesDone := true }.parallel }

/-- STORES_TESTED (R374). -/
def execStoresTested (pass : Bool) (s : State) : Host.Outcome State Fault Refusal := .next (storesTested pass s)

/-- Channels of a half that MEMPOP declares (R199). -/
def declaredCount (mempop : Nat) : Nat := if mempop = 0 then 4 else if mempop = 1 then 8 else 16

/-- The channels that MEMPOP declares. -/
def declaredChans (mempop : Nat) : List Nat := (List.range 32).filter fun c => decide (c % 16 < declaredCount mempop)

/-- The reference density: that of the lowest declared channel that answers, 0 with none (R199). -/
def refDensity (density : List (BitVec 2)) (cs : List Nat) : Nat :=
  ((cs.map fun c => (density.getD c 0).toNat).find? (· != 0)).getD 0

/-- A declared channel probed and trained: ACTIVE at FSP0, with the error that it corrected in its ECC injection counted (log 51), or
LOST (R199, R211, R218). -/
def bringUp (ref : Nat) (density : List (BitVec 2)) (trained : Nat → Bool) (c : Nat) (s : State) : State :=
  let d := (density.getD c 0).toNat
  let s := updChan c (fun x => { x with populated := true, density := d, st := .training }) s
  if d != 0 && d == ref && trained c then
    bumpChan c 6 1 (runChannel c 0 s)
  else loseChannel c s

/-- DRAM_TRAINING_DONE: the strap read, the declared channels probed and trained; MEMPOP 0b11 ends in COLD (R199, R311). -/
def dramTrained (density : List (BitVec 2)) (trained : Nat → Bool) (s : State) : State :=
  if !s.bootRuns || s.boot.dramDone then s
  else
    let m := s.pins.mempop.toNat
    if m = 3 then setDevState .cold { s with boot := { s.boot with fail := 6 } }
    else
      let cs := declaredChans m
      let s := forEach cs (bringUp (refDensity density cs) density trained) s
      let s := updHalf .west (readStrap s.pins.mempop) (updHalf .east (readStrap s.pins.mempop) s)
      { s with boot := { s.boot with dramDone := true }.parallel }

/-- DRAM_TRAINING_DONE (R199, R218). -/
def execDramTrainingDone (density : List (BitVec 2)) (trained : BitVec 32) (s : State) : Host.Outcome State Fault Refusal :=
  .next (dramTrained density trained.getLsbD s)

/-! ### Injections and the end of KINDLING (R310, R374) -/

/-- A checker of a half that did not flag its injection raises CHECKER_SELFTEST (R310). -/
def failSelftest (h : Half) (s : State) : State :=
  report (faultOf h ukFireguard h.idx .checkerSelftest) { s with boot := { s.boot with selftest := true } }

/-- CHECKER_INJECTIONS_DONE: each half's checkers did or did not flag, and the device goes on (R310, R374). -/
def injectionsDone (failedWest failedEast : Bool) (s : State) : State :=
  if !s.bootRuns || !s.boot.storesDone || !s.boot.dramDone || s.boot.injectDone then s
  else
    let s := { s with boot := { s.boot with injectDone := true, stage := 6 } }
    let s := if failedWest then failSelftest .west s else s
    if failedEast then failSelftest .east s else s

/-- CHECKER_INJECTIONS_DONE (R310). -/
def execCheckerInjectionsDone (failedWest failedEast : Bool) (s : State) : Host.Outcome State Fault Refusal :=
  .next (injectionsDone failedWest failedEast s)

/-- A half enters service at the end of KINDLING unless a dangerous fault has latched in it. -/
def serveHalf (h : Half) : State → State :=
  updHalf h fun u => { u with inService := !u.danger, pathOk := true, lockstepOk := true }

/-- The first leader: west, unless it is out of service (R321). -/
def firstLeader (s : State) : State :=
  if s.west.inService then leadBy .west s else if s.east.inService then leadBy .east s else s

/-- KINDLING_DONE: hearths retested and placed, then BANKED; a failed injection stands in FG_BOOT (R310, R318, R374). -/
def kindlingDone (pass : BitVec 18) (s : State) : State :=
  if !s.bootRuns || !s.boot.injectDone then s
  else
    let p (h : Half) (i : Nat) : Bool := pass.getLsbD ((hearthsOf h).getD i 0)
    let s := placeHalf .east (p .east) id false (placeHalf .west (p .west) id false s)
    let s := firstLeader (serveHalf .east (serveHalf .west s))
    let s := { s with boot := { s.boot with stage := 7, fail := if s.boot.selftest then 7 else 0,
                                            flashDue := s.boot.imageOff != 0 } }
    settleState 2 (setDevState .banked (requestVolts 600 750 s))

/-- KINDLING_DONE (R374). -/
def execKindlingDone (pass : BitVec 18) (s : State) : Host.Outcome State Fault Refusal := .next (kindlingDone pass s)

end Sys2Proof.Machine
end

