-- ==== Sys2Proof/Machine/Output.lean ====
section
/-! DEFINITION. Result handover, the comparator, keys, result records, HOLD records, the output writer, heartbeats and weight checks
(R289 to R306). -/
namespace Sys2Proof.Machine

/-! ### The comparator (R292) -/

/-- An element as the comparator takes it: (raw - zero point) × scale or decoded × scale, rounded once to FP32 under R118, which limits
it to the largest finite value. -/
def cmpValue (fmt : Nat) (zp : Int) (scale raw : Nat) : FVal :=
  decodeFloat 15 (writeFloat 15 none (if fmtInt fmt then .ofRat ((intRaw fmt raw - zp : Int) * f32 scale)
    else exactMul (decodeFloat fmt raw) (decodeFloat 15 scale))).1

/-- NaN. -/
def FVal.isNaN (v : FVal) : Bool := v == .nan

/-- Equal as real numbers: +0 equals -0. -/
def FVal.same (a b : FVal) : Bool := !a.isNaN && !b.isNaN && !a.lt b && !b.lt a

/-- Element `i` of an entry is a violation; `rd` reads the payload, `po` the pilot output. -/
def violates (e : Entry) (rd po : Nat → Byte) (i : Nat) : Bool :=
  let m := cmpValue (cmpMfmt e) (cmpMzp e) (cmpMscale e) (elemRead rd 0 (fmtWidth (cmpMfmt e)) (cmpMfirst e + i))
  let p (j : Nat) : FVal := cmpValue (cmpPfmt e) (cmpPzp e) (cmpPscale e) (elemRead po 0 (fmtWidth (cmpPfmt e)) (cmpPfirst e + j))
  let tol := decodeFloat 15 (cmpTol e)
  m.isNaN || (match cmpRule e with
    | 0 => !m.same (p i)
    | 1 => tol.lt (sub32 m (p i)).abs
    | _ => m.lt (sub32 (p (2 * i)) tol) || (add32 (p (2 * i + 1)) tol).lt m)

/-- Violations of an entry. -/
def violations (e : Entry) (rd po : Nat → Byte) : Nat := ((List.range (cmpCount e)).filter (violates e rd po)).length

/-- A comparison of a stream: it passes, and its violation count. -/
def compareStream (s : State) (stream : Nat) (rd po : Nat → Byte) : Bool × Nat :=
  let st := s.img.entry 20 stream
  let es := (List.range (strCmpCount st)).map fun i => s.img.entry 21 (strCmpFirst st + i)
  let vs := es.map fun e => (violations e rd po, cmpAllow e)
  (vs.all fun v => decide (v.1 ≤ v.2), min 0xFFFF ((vs.map (·.1)).foldl (· + ·) 0))

/-! ### Handover (R289, R301) -/

/-- The device hands nothing out: each handover yields a HOLD record with its own number (R301). -/
def harmlessRecord (stream seq : Nat) (s : State) : State :=
  emitRecord true ⟨1, 0, 0, caHarmless, stream, seq, (s.stream stream).source, [], 0, 0⟩ s

/-- The step faults: what the fireguards were to read does not answer (R75, R177, R183). -/
def handoverFault (hoop step : Nat) (j : Job) (cls : FaultClass) (s : State) : State :=
  let h := s.hoopHome hoop
  let s := report { faultOf h ukFireguard h.idx cls with ctx := j.q.ctx, hoop := hoop, step := step } s
  match s.openPart hoop step 0 with
  | some _ => partFault hoop step 0 s
  | none => s

/-- RESULT_HANDOVER: the payload and every frame record are read, STREAM_SEQ is taken, and the step completes. -/
def resultHandover (hoop step : Nat) (s : State) : State :=
  match s.openPart hoop step 0 with
  | none => s
  | some (j, _) =>
    let e := s.stepAt j.q.pricking step
    if stepKind e ≠ kResult then s
    else
      let d := s.descUnit j.q.pricking (stepDesc e)
      let h := s.hoopHome hoop
      let (r, s) := vread (.walker h) j.q.ctx (relocated e j.args (rsSrc d)) (rsBytes d) s
      match r with
      | .error c => handoverFault hoop step j c s
      | .ok payload =>
        let (frames, s) := readFrames h j.q.ctx d j.args (List.range (rsFrames d)) s
        if frames.any List.isEmpty then handoverFault hoop step j .translationFault s
        else
          let stream := rsStream d
          let (q, s) := takeSeq true stream s
          let s := if s.harmless then harmlessRecord stream q s
            else { s with out := { s.out with hands := s.out.hands ++ [
              { stream := stream, seq := q, hoop := hoop, step := step, half := h, ring := j.q.ring, tag := j.q.tag,
                ctx := j.q.ctx, payload := payload, records := frames, since := s.hp, west := none, east := none,
                answered := none, ended := none, late := j.late }] } }
          partEnd hoop step 0 s

/-- RESULT_HANDOVER (R289). -/
def execResultHandover (hoop : BitVec 4) (step : BitVec 20) (s : State) : Host.Outcome State Fault Refusal :=
  .next (resultHandover hoop.toNat step.toNat s)

/-! ### Keys (R293, R294) -/

/-- Frame record 0 of a handover. -/
def Handover.frame (x : Handover) : List Byte := x.records.headD []

/-- A fireguard's answer. -/
def Handover.answer (x : Handover) : Half → Option Answer
  | .west => x.west
  | .east => x.east

/-- A fireguard's answer set; the first answer starts the writer's wait. -/
def Handover.put (x : Handover) (h : Half) (a : Answer) (hp : Nat) : Handover :=
  let x := { x with answered := some (x.answered.getD hp) }
  match h with
  | .west => { x with west := some a }
  | .east => { x with east := some a }

/-- The oldest handover of a stream that meets a condition. -/
def State.hand (s : State) (stream : Nat) (p : Handover → Bool) : Option Handover :=
  s.out.hands.find? fun x => x.stream == stream && p x

/-- A handover replaced. -/
def setHand (x y : Handover) (s : State) : State :=
  { s with out := { s.out with hands := s.out.hands.map fun z => if z = x then y else z } }

/-- A handover gone. -/
def dropHand (x : Handover) (s : State) : State := { s with out := { s.out with hands := s.out.hands.erase x } }

/-- The record digest (R294). -/
def recordDigest (x : Handover) : Word :=
  let f := x.frame
  digest8 (toLE 1 x.stream ++ toLE 4 x.seq ++ toLE 4 (frCounter f) ++ toLE 4 (frSeq f).toNat ++ toLE 8 (frTime f).toNat
    ++ x.payload)

/-- The job of a handover is faulted, late, breached or withheld (R293): a job that ended with ST_JOB_DONE while the handover
waited still counts as RUNNING (log 30). -/
def State.jobFaulty (s : State) (x : Handover) : Bool :=
  x.late || (s.hoop x.hoop).withheld || (match x.ended with
    | some ok => !ok
    | none => match (s.hoop x.hoop).job with
      | some j => j.st != .running || j.breached
      | none => false)

/-- Causes of a refusal that do not concern the pilots (R293, R296). -/
def State.keyCauses (s : State) (x : Handover) : List (Bool × Nat) :=
  [(!s.keysState, caHarmless), (s.detectOnly x.hoop, caDetectOnly), (x.records.any fun r => !frClean false r, caCorrupt),
   (s.jobFaulty x, caJobFault), ((s.half x.half).mainOut, caMainOut)]

/-- What a fireguard answers now; none while it waits for its pilot. A comparison failure reports COMPARE_FAIL. -/
def decideKey (h : Half) (x : Handover) (upset : Word) (s : State) : Option Answer × State :=
  let causes := s.keyCauses x
  let prog := strPilot (s.img.entry 20 x.stream)
  let seq := frSeq x.frame
  let u := s.half h
  let own := (s.pilot h).result prog seq
  let other := (s.pilot h.other).result prog seq
  if causes.any (·.1) then (some (.refusal (lowestCause causes)), s)
  else if !u.inService || u.danger then (some (.refusal caOneKey), s)
  else match own with
    | none => (none, s)
    | some o =>
      if o.agreed then
        let (k, s) := fresh s
        let out := s.pilotOutput h prog seq
        let rd (i : Nat) : Byte := if i < x.payload.length then x.payload.getD i 0 else Config.freeByte k i
        let (ok, v) := compareStream s x.stream rd fun i => out.getD i 0
        if ok then (some (.key (recordDigest x ^^^ upset) v), s)
        else
          (some (.refusal caCompareFail), report { faultOf h ukFireguard h.idx .compareFail with
            ctx := x.ctx, hoop := x.hoop, step := x.step, frame := frCounter x.frame } s)
      else match other with
        | some _ => (some (.refusal caPilotMismatch), s)
        | none => if (s.pilot h.other).expects prog seq then (none, s) else (some (.refusal caOneKey), s)

/-- KEY_DECISION: the oldest handover of the stream that the fireguard has not answered. -/
def keyDecision (h : Half) (stream : Nat) (upset : Word) (s : State) : State :=
  match s.hand stream fun x => (x.answer h).isNone with
  | none => s
  | some x =>
    if (s.half h).underReset then s
    else match decideKey h x upset s with
      | (none, s) => s
      | (some a, s) => setHand x (x.put h a s.hp) s

/-- KEY_DECISION (R293). -/
def execKeyDecision (half : Half) (stream : BitVec 6) (upset : Word) (s : State) : Host.Outcome State Fault Refusal :=
  .next (keyDecision half stream.toNat upset s)

/-- PILOT_MISSING: PILOT_WAIT_US has passed since the handover and the fireguard still waits for its pilot. -/
def pilotMissing (h : Half) (stream : Nat) (s : State) : State :=
  match s.hand stream fun x => (x.answer h).isNone with
  | none => s
  | some x =>
    if (s.half h).underReset || (decideKey h x 0 s).1.isSome then s
    else
      let s := advanceTo (x.since + usHp (safPilotWait (s.img.entry 24 0))) s
      setHand x (x.put h (.refusal caPilotMissing) s.hp) s

/-- PILOT_MISSING (R293). -/
def execPilotMissing (half : Half) (stream : BitVec 6) (s : State) : Host.Outcome State Fault Refusal :=
  .next (pilotMissing half stream.toNat s)

/-! ### Result records (R295, R296, R306) -/

/-- The cause of an answer: a missing one counts as a refusal (R295). -/
def answerCause : Option Answer → Option Nat
  | some (.key _ _) => none
  | some (.refusal c) => some c
  | none => some caOneKey

/-- Digest and violations of a key. -/
def keyOfAnswer : Option Answer → Option (Word × Nat)
  | some (.key d v) => some (d, v)
  | _ => none

/-- A run of COMPARE_OUT handovers of a half that end in COMPARE_FAIL sets MAIN_OUT (R306, R311). -/
def countCompare (h : Half) (cause : Nat) (s : State) : State :=
  let s := updHalf h (fun u => { u with compareFails := if cause = caCompareFail then u.compareFails + 1 else 0 }) s
  let u := s.half h
  if !u.mainOut && decide (safCompareOut (s.img.entry 24 0) ≤ u.compareFails) && u.compareFails != 0 then
    settleState 3 (report (faultOf h ukFireguard h.idx .mainOut) (updHalf h (fun u => { u with mainOut := true }) s))
  else s

/-- The record of a handover composed and written (R295 to R297); in the harmless state a HOLD record (R301). -/
def composeRecord (x : Handover) (s : State) : State :=
  let s := dropHand x s
  if s.harmless then harmlessRecord x.stream x.seq s
  else
    let kw := keyOfAnswer x.west
    let ke := keyOfAnswer x.east
    let causes := [answerCause x.west, answerCause x.east].filterMap id
    let v := max ((kw.map (·.2)).getD 0) ((ke.map (·.2)).getD 0)
    let same : Option Word := match kw, ke with
      | some (a, _), some (b, _) => if a = b then some a else none
      | _, _ => none
    let differ := kw.isSome && ke.isSome && same.isNone
    let cause := if same.isSome then caNone else if differ then caKeyMismatch else causes.foldl min caOneKey
    let s := if differ then
        report { faultOf s.writerHalf ukWriter s.writerHalf.idx .keyMismatch with
          ctx := x.ctx, hoop := x.hoop, frame := frCounter x.frame } (bumpOut 4 1 s)
      else s
    let s := if causes.contains caCompareFail then bumpOut 5 1 s else s
    let s := countCompare x.half cause s
    let trust := if same.isNone then 0 else if v = 0 then 3 else 2
    emitRecord true ⟨0, trust, (if kw.isSome then 1 else 0) + (if ke.isSome then 1 else 0), cause, x.stream, x.seq,
      sourceOf x.frame, x.payload, same.getD 0, v⟩ s

/-- RECORD_COMPOSE: both fireguards have answered the oldest such handover, or the device hands nothing out. -/
def recordCompose (stream : Nat) (s : State) : State :=
  match s.hand stream fun x => s.harmless || (x.west.isSome && x.east.isSome) with
  | none => s
  | some x => composeRecord x s

/-- RECORD_COMPOSE (R295). -/
def execRecordCompose (stream : BitVec 6) (s : State) : Host.Outcome State Fault Refusal :=
  .next (recordCompose stream.toNat s)

/-- KEY_ANSWER_TIMEOUT: 40 µs after the first answer the other fireguard has not answered. -/
def keyTimeout (stream : Nat) (s : State) : State :=
  match s.hand stream fun x => x.west.isSome != x.east.isSome with
  | none => s
  | some x => composeRecord x (advanceTo (x.answered.getD s.hp + usHp 40) s)

/-- KEY_ANSWER_TIMEOUT (R295). -/
def execKeyAnswerTimeout (stream : BitVec 6) (s : State) : Host.Outcome State Fault Refusal := .next (keyTimeout stream.toNat s)

/-- HOLD_RECORD: in the harmless state a stream has had no record for HOLD_US (R301). -/
def holdDue (stream : Nat) (s : State) : State :=
  let e := s.img.entry 20 stream
  if s.harmless && s.dev.imageValid && strValid e && strHoldUs e != 0 then
    holdRecord stream caHarmless (advanceTo ((s.stream stream).lastAt + usHp (strHoldUs e)) s)
  else s

/-- HOLD_RECORD (R301). -/
def execHoldRecord (stream : BitVec 6) (s : State) : Host.Outcome State Fault Refusal := .next (holdDue stream.toNat s)

/-- OUTPUT_WRITER: the standby copy writes from now on (R300). -/
def writerSwitch (s : State) : State :=
  if s.dev.st = .cold ∨ s.dev.st = .kindling ∨ s.out.writer.isSome then s
  else
    let l := s.dev.leader
    report (faultOf l ukWriter l.idx .outputWriter) { s with out := { s.out with writer := some l.other } }

/-- OUTPUT_WRITER (R300): the standby copy found a difference, or the writing copy fell silent. -/
def execOutputWriter (_silent : Bool) (s : State) : Host.Outcome State Fault Refusal := .next (writerSwitch s)

/-! ### Heartbeats (R302) -/

/-- HEARTBEAT_TOGGLE: the next multiple of 50 × HB_US that this pin has not met comes, and the pin toggles if every condition
holds. -/
def heartbeat (h : Half) (s : State) : State :=
  let period := 50 * safHbUs (s.img.entry 24 0)
  if period = 0 ∨ !s.hbActive h then s
  else
    let past := s.now.toNat % period
    let d := if past = 0 ∧ (s.half h).hbAt ≠ some s.now then 0 else period - past
    let s := advanceTo (hpOfTs s.time d) s
    let s := updHalf h (fun u => { u with hbAt := some s.now }) s
    match h with
    | .west => { s with pins := { s.pins with hbWest := !s.pins.hbWest } }
    | .east => { s with pins := { s.pins with hbEast := !s.pins.hbEast } }

/-- HEARTBEAT_TOGGLE (R302). -/
def execHeartbeatToggle (half : Half) (s : State) : Host.Outcome State Fault Refusal := .next (heartbeat half s)

/-! ### Resident weights (R305) -/

/-- The chunks of a half's weight regions in order: region and chunk. -/
def State.weightChunks (s : State) (h : Half) : List (Nat × Nat) :=
  (List.range 1024).flatMap fun i =>
    let e := s.img.entry 22 i
    if wgtValid e && s.ctxHalf (wgtCtx e) == h then (List.range (wgtChunks e)).map fun c => (i, c) else []

/-- A hoop's keys are withheld while one of its regions has a mismatch outstanding. -/
def setWithheld (h : Half) (s : State) : State :=
  let bad := (s.half h).badChunks.map fun b => ctxHoop (s.img.entry 6 (wgtCtx (s.img.entry 22 b.1)))
  forEach ((List.range 16).filter fun i => s.hoopHome i == h)
    (fun i => updHoop i fun u => { u with withheld := bad.contains i }) s

/-- A table without a key. -/
def Tab.remove {α : Type} (t : Tab α) (k : Nat) : Tab α := t.filter fun e => e.1 != k

/-- The bytes of a chunk of a weight region read by a half's fireguard (R305). -/
def readChunk (h : Half) (e : Entry) (chunk : Nat) (s : State) : Except FaultClass (List Byte) × State :=
  vread (.walker h) (wgtCtx e) ((wgtBase e + 65536 * chunk) % 2 ^ 48) 65536 s

/-- What a chunk's read answered has the CRC of the image's table. -/
def chunkGood (i : Image) (e : Entry) (chunk : Nat) (r : Except FaultClass (List Byte)) : Bool :=
  match r with
  | .ok bs => (crc32c bs).toNat == (i.tbl 23).num (4 * (wgtIndex e + chunk)) 4
  | .error _ => false

/-- A matching chunk counts towards the full rotation that ends a region's withholding. -/
def HalfUnit.chunkOk (region chunks : Nat) (u : HalfUnit) : HalfUnit :=
  match u.badChunks.find? fun b => b.1 == region with
  | none => u
  | some b => { u with badChunks := if chunks ≤ b.2 + 1 then u.badChunks.remove region else u.badChunks.set region (b.2 + 1) }

/-- A chunk checked: a mismatch raises WEIGHT_DIGEST; a match counts towards the region's full rotation. -/
def checkChunk (h : Half) (region chunk : Nat) (s : State) : State :=
  let e := s.img.entry 22 region
  let r := readChunk h e chunk s
  let s := bumpFg h 7 1 r.2
  if chunkGood s.img e chunk r.1 then updHalf h (.chunkOk region (wgtChunks e)) s
  else
    let s := updHalf h (fun u => { u with badChunks := u.badChunks.set region 0 }) s
    report { faultOf h ukFireguard h.idx .weightDigest with
      ctx := wgtCtx e, hoop := ctxHoop (s.img.entry 6 (wgtCtx e)) } s

/-- WEIGHT_DIGEST_CHECK: after every 64 steps released in the half, the next CHUNKS_PER_CHECK chunks in rotation. -/
def weightCheck (h : Half) (s : State) : State :=
  let u := s.half h
  let l := s.weightChunks h
  if u.released < 64 ∨ !u.inService then s
  else
    let s := updHalf h (fun u => { u with released := u.released - 64 }) s
    let n := if l.isEmpty then 0 else safChunks (s.img.entry 24 0)
    let s := forEach ((List.range n).map fun i => l.getD ((u.weightAt + i) % l.length) (0, 0)) (fun c => checkChunk h c.1 c.2) s
    let s := updHalf h (fun u => { u with weightAt := if l.isEmpty then 0 else (u.weightAt + n) % l.length }) s
    setWithheld h s

/-- WEIGHT_DIGEST_CHECK (R305). -/
def execWeightDigestCheck (half : Half) (s : State) : Host.Outcome State Fault Refusal := .next (weightCheck half s)

end Sys2Proof.Machine
end

