-- ==== Sys2Proof/Machine/Registers.lean ====
section
/-! DEFINITION. Writes of BAR0 registers (R29 to R36, R27) and the periodic status copy (R43). -/
namespace Sys2Proof.Machine

/-- The low 32 bits of a register value; the others are ignored (R11). -/
def low32 (v : Word) : BitVec 32 := v.setWidth 32

/-- HST_SQ_DOORBELL written (R35, R36). -/
def writeDoorbell (n : Nat) (v : Word) (s : State) : State :=
  updRing n (fun r =>
    let r' := { r with doorbell := low32 v }
    if !r.enable || r.overrun then r'
    else if r.words < (low32 v - r.head).toNat then { r' with overrun := true }
    else { r' with held := false }) s

/-- HST_RING_CTRL written (R34 to R36): OVERRUN is write-one-to-clear, and ENABLE going to 1 starts the ring empty. -/
def writeRingCtrl (n : Nat) (enable w1c : Bool) (s : State) : State :=
  updRing n (fun r =>
    let r := if w1c && r.overrun then { r with overrun := false, held := true } else r
    if enable && !r.enable then { r with enable := true, head := r.doorbell, tail := r.rrHead, held := false }
    else { r with enable := enable }) s

/-- A ring's setup register accepts a value (R35). -/
def ringRegOk (reg : RingReg) (v : Word) : Bool :=
  match reg with
  | .sqBase | .rrBase => fld v 5 0 == 0
  | .sqSize => decide (v.toNat ≤ 12)
  | .rrSize => decide (v.toNat ≤ 9)

/-- A setup register of a ring page written (R35): refused and counted unless the ring is off, drained and the value fits. -/
def writeRingReg (n : Nat) (reg : RingReg) (v : Word) (s : State) : State :=
  if !(s.ring n).drained || !ringRegOk reg v then ignoreWrite s
  else updRing n (fun r => match reg with
    | .sqBase => { r with sqBase := v }
    | .sqSize => { r with sqSize := v }
    | .rrBase => { r with rrBase := v }
    | .rrSize => { r with rrSize := v }) s

/-- An output ring changed. -/
def updOut (r : OutRing) (f : OutPage → OutPage) (s : State) : State :=
  match r with
  | .event => { s with host := { s.host with event := f s.host.event } }
  | .fault => { s with host := { s.host with fault := f s.host.fault } }
  | .result => { s with host := { s.host with result := f s.host.result } }
  | .fallback => { s with host := { s.host with fallback := f s.host.fallback } }

/-- An output setup register accepts a value (R32). -/
def outRegOk (reg : OutReg) (v : Word) : Bool :=
  match reg with
  | .statusBlock | .base _ => fld v 5 0 == 0
  | .size _ => decide (v.toNat ≤ 9)

/-- An output setup register written (R32): refused and counted outside BANKED or with a value that does not fit. -/
def writeOutReg (reg : OutReg) (v : Word) (s : State) : State :=
  if s.dev.st != .banked || !outRegOk reg v then ignoreWrite s
  else match reg with
    | .statusBlock => { s with host := { s.host with statusBlock := v } }
    | .base r => updOut r (fun o => { o with base := v }) s
    | .size r => updOut r (fun o => { o with size := v }) s

/-- DBG_BASE written (R32). -/
def writeDbgBase (v : Word) (s : State) : State :=
  if fld v 22 0 != 0 || fld v 63 40 != 0 then ignoreWrite s else { s with host := { s.host with dbgBase := v } }

/-- A HEAD register of an output ring written (R31). -/
def writeOutHead (r : OutRing) (v : Word) : State → State :=
  updOut r fun o => { o with head := BitVec.ofNat 64 (low32 v).toNat }

/-- FG_SPEED written: CLEAR sets MIN_RATE to 0xFFFF and SLIP_COUNT to 0 (R27). -/
def writeSpeed (h : Half) (clear : Bool) (s : State) : State :=
  if clear then updHalf h (fun u => { u with minRate := 0xFFFF, slipCount := 0 }) s else s

/-- An aligned 64-bit write to a global register (R31); read-only and unlisted offsets ignore it. -/
def writeGlobal (off : Nat) (v : Word) (s : State) : State :=
  match off with
  | 0x010 => writeOutReg .statusBlock v s
  | 0x018 => writeOutReg (.base .event) v s
  | 0x020 => writeOutReg (.size .event) v s
  | 0x028 => writeOutHead .event v s
  | 0x038 => writeOutReg (.base .fault) v s
  | 0x040 => writeOutReg (.size .fault) v s
  | 0x048 => writeOutHead .fault v s
  | 0x050 => writeOutReg (.base .result) v s
  | 0x058 => writeOutReg (.size .result) v s
  | 0x060 => writeOutHead .result v s
  | 0x068 => writeOutReg (.base .fallback) v s
  | 0x070 => writeOutReg (.size .fallback) v s
  | 0x078 => writeOutHead .fallback v s
  | 0x080 => writeDbgBase v s
  | _ => s

/-- An aligned 64-bit write to a register of ring page `n` (R34). -/
def writeRingPage (n off : Nat) (v : Word) (s : State) : State :=
  match off with
  | 0x000 => writeRingReg n .sqBase v s
  | 0x008 => writeRingReg n .sqSize v s
  | 0x010 => writeDoorbell n v s
  | 0x018 => writeRingReg n .rrBase v s
  | 0x020 => writeRingReg n .rrSize v s
  | 0x028 => updRing n (fun r => { r with rrHead := low32 v }) s
  | 0x030 => writeRingCtrl n (bitAt v 0) (bitAt v 2) s
  | _ => s

/-- A write of `size` bytes at a BAR0 offset (R29, R30): narrower or misaligned accesses are ignored and counted. -/
def writeBar0 (off size : Nat) (v : Word) (s : State) : State :=
  if size ≠ 8 ∨ off % 8 ≠ 0 then ignoreWrite s
  else if off < 0x1000 then writeGlobal off v s
  else if 0x10000 ≤ off ∧ off < 0x30000 then writeRingPage ((off - 0x10000) / 0x1000) (off % 0x1000) v s
  else if off = 0x100000 then writeSpeed .west (bitAt v 48) s
  else if off = 0x110000 then writeSpeed .east (bitAt v 48) s
  else s

/-- HST_SQ_DOORBELL (R36). -/
def execHstSqDoorbell (ring : BitVec 5) (value : Word) (s : State) : Host.Outcome State Fault Refusal :=
  .next (writeDoorbell ring.toNat value s)

/-- RING_ENABLE (R35). -/
def execRingEnable (ring : BitVec 5) (w1c : Bool) (s : State) : Host.Outcome State Fault Refusal :=
  .next (writeRingCtrl ring.toNat true w1c s)

/-- RING_DISABLE (R35). -/
def execRingDisable (ring : BitVec 5) (w1c : Bool) (s : State) : Host.Outcome State Fault Refusal :=
  .next (writeRingCtrl ring.toNat false w1c s)

/-- OVERRUN_CLEAR (R36). -/
def execOverrunClear (ring : BitVec 5) (enable : Bool) (s : State) : Host.Outcome State Fault Refusal :=
  .next (writeRingCtrl ring.toNat enable true s)

/-- RING_PAGE_SETUP_WRITE (R35). -/
def execRingPageSetupWrite (ring : BitVec 5) (reg : RingReg) (value : Word) (s : State) :
    Host.Outcome State Fault Refusal := .next (writeRingReg ring.toNat reg value s)

/-- OUTPUT_RING_SETUP_WRITE (R32). -/
def execOutputRingSetupWrite (reg : OutReg) (value : Word) (s : State) : Host.Outcome State Fault Refusal :=
  .next (writeOutReg reg value s)

/-- DBG_BASE_WRITE (R32). -/
def execDbgBaseWrite (value : Word) (s : State) : Host.Outcome State Fault Refusal := .next (writeDbgBase value s)

/-- FG_SPEED_CLEAR (R27). -/
def execFgSpeedClear (half : Half) (s : State) : Host.Outcome State Fault Refusal := .next (writeSpeed half true s)

/-- REGISTER_WRITE (R30). -/
def execRegisterWrite (off : BitVec 24) (size : BitVec 4) (value : Word) (s : State) :
    Host.Outcome State Fault Refusal := .next (writeBar0 off.toNat size.toNat value s)

/-- STATUS_BLOCK_REFRESH (R43). -/
def execStatusBlockRefresh (s : State) : Host.Outcome State Fault Refusal := .next (statusCopy s)

end Sys2Proof.Machine
end

