-- ==== Sys2Proof/Machine/Replay.lean ====
section
/-! DEFINITION. SET_RECORD_MODE and replay from a recorded sink (R358 to R367). -/
namespace Sys2Proof.Machine

/-! ### Recording (R358, R359) -/

/-- The conditions of R358 on the packet and the image. -/
def recordOk (sink : Word) (bytes : Nat) (s : State) : Bool :=
  fld sink 5 0 == 0 && decide (4096 ≤ bytes) && bytes % 64 == 0 && s.dev.imageValid && s.img.confirmed

/-- The recorder as a mode starts in it (R359, R360). -/
def freshRecorder (mode : RecMode) (sink : Word) (bytes : Nat) (digests : Bool) (s : State) : Recorder :=
  { Recorder.init with session := s.rec_.session + 1, mode := mode, sink := sink, bytes := bytes, digests := digests,
                       header := [s.part.serial, s.img.d0, s.now, w64 s.img.agreed] }

/-- Recording or replay stops; a recording gets its END entry if the sink has not refused one, and ENDED; an END
that does not fit is lost (R358, R363). -/
def stopRecording (s : State) : State :=
  let r := s.rec_
  let s := if r.mode != .record then s
    else
      let e := entryBytesOf 0x0F false (r.entries + 1) s.gate []
      if !r.full ∧ 64 + r.written + e.length ≤ r.bytes then
        let s := placeEntry e s
        writeSinkHead { s with rec_ := { s.rec_ with ended := true } }
      else if r.full then s
      else writeSinkHead (loseEntry { s with rec_ := { r with full := true } })
  { s with rec_ := { s.rec_ with mode := .off, fed := [], effects := [], admits := [] } }

/-! ### The recorded sink (R359 to R361, R364) -/

/-- KIND of an entry. -/
def enKind (e : List Byte) : Nat := fld (wordAt e 0) 7 0

/-- Body bytes of an entry, by its LENGTH. -/
def enLength (e : List Byte) : Nat := fld (wordAt e 0) 63 32

/-- The entries of a run of bytes up to the END entry, whole ones only; `n` bounds their number. -/
def entriesOf : Nat → List Byte → List (List Byte)
  | 0, _ => []
  | n + 1, bs =>
    let size := 64 + enLength bs
    if bs.length < 64 ∨ bs.length < size ∨ enKind bs = 0x0F then [] else bs.take size :: entriesOf n (bs.drop size)

/-- Body of an entry. -/
def enBody (e : List Byte) : List Byte := e.drop 64

/-- An entry that replay feeds (R361): FRAME unless DECODED, LINK, IDENTITY, TALLY. -/
def enFed (e : List Byte) : Bool :=
  (enKind e == 0x03 && !bitAt (wordAt e 64) 21) || enKind e == 0x06 || enKind e == 0x07 || enKind e == 0x08

/-- The sink's header fits replay on the image in force (R364). -/
def sinkOk (sink : List Byte) (s : State) : Bool :=
  let w0 := wordAt sink 0
  fld w0 31 0 == 0x55545243 && fld w0 47 32 == 1 && !bitAt w0 48 && wordAt sink 16 == s.img.d0
    && fld (wordAt sink 48) 63 32 == s.img.agreed

/-- The recorder as replay of a sink starts: what is fed, and what is enforced. -/
def replayer (sink : Word) (bytes : Nat) (held : List Byte) (s : State) : Recorder :=
  let written := (wordAt held 32).toNat
  let es := entriesOf (written / 64) ((held.drop 64).take written)
  { freshRecorder .replay sink bytes false s with
    fed := es.filter enFed, effects := (es.filter fun e => enKind e == 0x04).map enBody,
    admits := (es.filter fun e => enKind e == 0x05).map enBody }

/-- A link held DOWN in replay (R364). -/
def holdDown (k : Nat) : State → State :=
  updLink k fun x => { x with st := .down, lanesOk := false, unacked := [], waiting := [], partial_ := [], found := none }

/-- SET_RECORD_MODE past R46 step 8 (R358, R364). A mode under way ends before another starts (log 44). -/
def setRecordMode (pkt : List Word) (held : List Byte) (t : Tagged) (s : State) : State :=
  let sink := pkt.getD 1 0
  let bytes := fld (pkt.getD 2 0) 39 0
  let w := pkt.getD 3 0
  if bitAt w 0 then
    if !recordOk sink bytes s then answer t stBadParam 0 0 s
    else
      let s := stopRecording s
      let s := { s with rec_ := freshRecorder .record sink bytes (bitAt w 1) s }
      answer t stOk 0 0 (writeSinkHead s)
  else if sink = 0 then answer t stOk 0 0 (stopRecording s)
  else
    let held := slice held 0 bytes
    if !recordOk sink bytes s || !sinkOk held s then answer t stBadParam 0 0 s
    else
      let s := stopRecording s
      let s := { s with rec_ := replayer sink bytes held s }
      answer t stOk 0 0 (forEach (List.range 8) holdDown s)

/-- SET_RECORD_MODE (R358, R364). -/
def execSetRecordMode (ring : BitVec 5) (pkt : List Word) (sink : List Byte) (s : State) : Host.Outcome State Fault Refusal :=
  packet "SET_RECORD_MODE" (packetWf 0x16 pkt) ring.toNat pkt (setRecordMode pkt sink) s

/-! ### Delivery (R365) -/

/-- The gates of an entry are passed: packets fetched, and final replies of every hoop. -/
def enDue (e : List Byte) (r : Recorder) : Bool :=
  decide (fld (wordAt e 24) 31 0 ≤ r.fetches) && (List.range 16).all fun h =>
    let need := fld (wordAt e (32 + 8 * (h / 4))) (16 * (h % 4) + 15) (16 * (h % 4))
    decide ((Tab.get 0 r.ends h % 65536 + 65536 - need) % 65536 < 32768)

/-- The bytes of a payload in pieces of `n`, at most `m` of them. -/
def piecesOf (n : Nat) : Nat → List Byte → List (List Byte)
  | 0, _ => []
  | m + 1, bs => if bs.isEmpty ∨ n = 0 then [] else bs.take n :: piecesOf n m (bs.drop n)

/-- The longest prefix of a byte string that has a CRC-32C, counted from byte `n` with the state so far; else the default. -/
def crcPrefix (crc : BitVec 32) : Nat → BitVec 32 → Nat → List Byte → Nat
  | n, st, best, bs =>
    let best := if st ^^^ 0xFFFFFFFF#32 = crc then n else best
    match bs with
    | [] => best
    | b :: t => crcPrefix crc (n + 1) (crc32cByte st b) best t

/-- How much of a recorded camera payload is image: without an embedded line all of it; else what CRC_CALC covers (R234, R240, R242). -/
def imageBytes (r payload : List Byte) : Nat :=
  if (frFlags r).testBit 10 then payload.length
  else crcPrefix (BitVec.ofNat 32 (fld (wordAt r 40) 63 32)) 0 0xFFFFFFFF#32 payload.length payload

/-- The lines of a recorded camera payload: UNITS lines of the recipe's length; in COPY mode, where the entry states no line length,
equal parts of its image bytes, the last with the rest (log 44). -/
def cameraLines (rc : Entry) (units : Nat) (r payload : List Byte) : List (List Byte) :=
  if rcpOutMode rc = 3 then
    let image := payload.take (imageBytes r payload)
    let n := image.length / max 1 units
    let first := (List.range (units - 1)).map fun i => slice image (n * i) n
    if units = 0 then [] else first ++ [image.drop (n * (units - 1))]
  else piecesOf (lineBytes (rcpInDt rc) (rcpWidth rc)) units payload

/-- The packets of a recorded lidar payload: each is its header and its point data. -/
def lidarPackets : Nat → List Byte → List (List Byte)
  | 0, _ => []
  | m + 1, bs => if bs.length < 40 then [] else bs.take (40 + ldBytes bs) :: lidarPackets m (bs.drop (40 + ldBytes bs))

/-- A FRAME entry with its FETCH_TOTAL: a frame start on its key, its payload written under R235, and its end. -/
def feedFrame (fetched : Nat) (b : List Byte) (s : State) : State :=
  let w := wordAt b 0
  let k := keyOf (fld w 4 0) (fld w 8 5)
  let r := slice b 64 64
  let payload := b.drop 128
  let units := fld (wordAt r 48) 31 0
  let s := beginFrame k (.replay r fetched) s
  if k / 16 < 24 then
    let rc := s.recipeOf k
    closeFrame k 0 (forEach (cameraLines rc units r payload) (fun l => imageLine k (rcpInDt rc) l) s)
  else closeFrame k 0 (forEach (lidarPackets units payload) (lidarData k) s)

/-- A fed entry delivered. -/
def feedEntry (e : List Byte) (s : State) : State :=
  let b := enBody e
  let w := wordAt b 0
  match enKind e with
  | 0x03 => feedFrame (fld (wordAt e 24) 31 0) b s
  | 0x06 => takePayload (fld w 2 0) (fld w 5 3) (fld w 63 32) (slice b 8 240) s
  | 0x07 => takeIdentity (fld w 2 0) (slice b 8 64) s
  | 0x08 => match parseTally (b.take 32) with
    | .good t => (tallyAct false t (b.take 32) s).2
    | _ => s
  | _ => s

/-- REPLAY_DELIVER: the next fed entry, once its gates are passed. -/
def replayDeliver (s : State) : State :=
  if s.rec_.mode != .replay then s
  else match s.rec_.fed with
    | [] => s
    | e :: rest => if enDue e s.rec_ then feedEntry e { s with rec_ := { s.rec_ with fed := rest } } else s

/-- REPLAY_DELIVER (R365). -/
def execReplayDeliver (s : State) : Host.Outcome State Fault Refusal := .next (replayDeliver s)

end Sys2Proof.Machine
end

