-- ==== Sys2Proof/Machine/Sequencer.lean ====
section
/-! DEFINITION. Commands of jobs and knots: START_JOB, CANCEL_JOB, KNOT_SET, KNOT_READ, unpaced release, the argument read, the
watchdog and the wait limit (R52, R57, R61, R65, R70, R73, R74, R411). -/
namespace Sys2Proof.Machine

/-- START_JOB past R46 step 8: the parameter check of R411, then the queue (R262). -/
def startJob (pkt : List Word) (t : Tagged) (s : State) : State :=
  let number := fld (pkt.getD 1 0) 15 0
  match s.prickOff number with
  | none => answer t stBadParam 0 0 s
  | some _ =>
    if prkHoop (s.prick number) ≠ t.hoop then answer t stBadParam 0 0 s
    else enqueue t.hoop ⟨t.ring, t.tag, t.ctx, number, pkt.getD 2 0, fld (pkt.getD 3 0) 47 0⟩ (accept t 0 s)

/-- START_JOB (R411, R262). -/
def execStartJob (ring : BitVec 5) (pkt : List Word) (s : State) : Host.Outcome State Fault Refusal :=
  packet "START_JOB" (packetWf 0x40 pkt) ring.toNat pkt (startJob pkt) s

/-- CANCEL_JOB past R46 step 8 (R52, R61): it wins over a job not yet released. -/
def cancelJob (pkt : List Word) (t : Tagged) (s : State) : State :=
  let tag := fld (pkt.getD 1 0) 15 0
  let ring := fld (pkt.getD 1 0) 20 16
  let u := s.hoop t.hoop
  let names (q : QJob) : Bool := q.ring == ring && q.tag == tag && q.ctx == t.ctx
  match u.queue.find? names with
  | some q =>
    let s := updHoop t.hoop (fun u => { u with queue := u.queue.erase q }) s
    answer t stOk 0 0 (closeJob t.hoop q none 0 stCancelled 0 0 s)
  | none =>
    match u.job with
    | none => answer t stBadParam 0 0 s
    | some j =>
      if !names j.q then answer t stBadParam 0 0 s
      else match j.st with
        | .reading | .ready => answer t stOk 0 0 (endJob t.hoop stCancelled 0 s)
        | .running | .ending => answer t stTooLate 0 0 s
        | .wedged => answer t stBadParam 0 0 s

/-- CANCEL_JOB (R52). -/
def execCancelJob (ring : BitVec 5) (pkt : List Word) (s : State) : Host.Outcome State Fault Refusal :=
  packet "CANCEL_JOB" (packetWf 0x41 pkt) ring.toNat pkt (cancelJob pkt) s

/-- KNOT_SET past R46 step 8: only a knot of the packet's hoop (R65). -/
def knotSet (pkt : List Word) (t : Tagged) (s : State) : State :=
  let k := fld (pkt.getD 1 0) 13 0
  if s.img.byte 5 k ≠ t.hoop + 1 then answer t stBadParam 0 0 s
  else answer t stOk 0 0 (setKnot k (fld (pkt.getD 2 0) 31 0) s)

/-- KNOT_SET (R65). -/
def execKnotSet (ring : BitVec 5) (pkt : List Word) (s : State) : Host.Outcome State Fault Refusal :=
  packet "KNOT_SET" (packetWf 0x50 pkt) ring.toNat pkt (knotSet pkt) s

/-- KNOT_READ past R46 step 8: a knot of the packet's hoop or of the intake (R65). -/
def knotRead (pkt : List Word) (t : Tagged) (s : State) : State :=
  let k := fld (pkt.getD 1 0) 13 0
  if s.img.byte 5 k ≠ t.hoop + 1 ∧ s.img.byte 5 k ≠ 17 then answer t stBadParam 0 0 s
  else answer t stOk 0 ((s.knot k).setWidth 64) s

/-- KNOT_READ (R65). -/
def execKnotRead (ring : BitVec 5) (pkt : List Word) (s : State) : Host.Outcome State Fault Refusal :=
  packet "KNOT_READ" (packetWf 0x51 pkt) ring.toNat pkt (knotRead pkt) s

/-- UNPACED_RELEASE: the eligible steps of an unpaced hoop's job are released (R70). -/
def execUnpacedRelease (hoop : BitVec 4) (s : State) : Host.Outcome State Fault Refusal :=
  .next (if hoopPaced (s.hoopEntry hoop.toNat) then s else startCollectives hoop.toNat (releaseHoop hoop.toNat false s))

/-- A fault of the argument read ends the job before any release (R57). -/
def argumentFault (hoop : Nat) (j : Job) (cls : FaultClass) (s : State) : State :=
  let h := s.hoopHome hoop
  let f := faultOf h ukSequencer h.idx cls
  let s := report { f with ctx := j.q.ctx, hoop := hoop } s
  endJob hoop stJobFaulted 0 s

/-- ARGUMENT_READ_DONE: the argument block is read through no cache, and the job is READY (R57, R60). An uncorrectable error or a
lost channel met by the read ends the job as a translation fault does; the unit that holds the bytes reports the first, the
sequencer the second. The spec names only the translation fault (DESIGN CHOICE, log 48). -/
def argumentRead (hoop : Nat) (ecc : Ecc) (s : State) : State :=
  match (s.hoop hoop).job with
  | none => s
  | some j =>
    if j.st ≠ .reading then s
    else
      let n := prkArgWords (s.prick j.q.pricking)
      match vread (.walker (s.hoopHome hoop)) j.q.ctx j.q.args (8 * n) s with
      | (.error c, s) => argumentFault hoop j c s
      | (.ok bs, s) =>
        let s := accessEcc (.walker (s.hoopHome hoop)) j.q.ctx j.q.args ecc s
        if ecc = .uncorrectable then endJob hoop stJobFaulted 0 s
        else updJob hoop (fun j => { j with st := .ready, args := (List.range n).map fun i => wordAt bs (8 * i) }) s

/-- ARGUMENT_READ_DONE (R57). -/
def execArgumentReadDone (hoop : BitVec 4) (ecc : Ecc) (s : State) : Host.Outcome State Fault Refusal :=
  .next (argumentRead hoop.toNat ecc s)

/-- Ticks of a step's watchdog (R73). -/
def wdogTicks (s : State) (j : Job) (n : Nat) : Nat :=
  let p := s.prick j.q.pricking
  ticksOf s.time.tickHp (stepWcet (s.stepAt j.q.pricking n)) * prkWdogNum p + prkWdogAdd p

/-- STEP_WATCHDOG on an incomplete released step whose tick has passed: WEDGED, its final reply, the DANGEROUS fault, and
ST_HALF_DOWN for every other job of the half (R73). -/
def wedge (hoop n : Nat) (j : Job) (s : State) : State :=
  let h := s.hoopHome hoop
  let f := faultOf h ukSequencer h.idx .stepWatchdog
  let s := updJob hoop (fun j => { j with st := .wedged }) s
  let s := bumpSeq h 4 1 s
  let s := closeJob hoop j.q j.argsRead j.next stWatchdog n j.charge s
  let s := report { f with ctx := j.q.ctx, hoop := hoop, step := n } s
  endHalfJobs h stHalfDown s

/-- The command acts only once the watchdog tick has passed with the step incomplete. -/
def stepWatchdog (hoop n : Nat) (s : State) : State :=
  match (s.hoop hoop).job with
  | none => s
  | some j =>
    match j.steps.find? fun r => r.step == n with
    | none => s
    | some r =>
      if j.st ≠ .wedged ∧ r.tick + wdogTicks s j n ≤ (s.half (s.hoopHome hoop)).ticks then wedge hoop n j s else s

/-- STEP_WATCHDOG (R73). -/
def execStepWatchdog (hoop : BitVec 4) (step : BitVec 20) (s : State) : Host.Outcome State Fault Refusal :=
  .next (stepWatchdog hoop.toNat step.toNat s)

/-- KNOT_WAIT_TIMEOUT: the next step's waits have not reached their thresholds within WAIT_LIMIT ticks (R74). -/
def waitTimeout (hoop : Nat) (s : State) : State :=
  match (s.hoop hoop).job with
  | none => s
  | some j =>
    let h := s.hoopHome hoop
    let p := s.prick j.q.pricking
    let base := if j.next = 0 then j.admitted + 1 else j.lastTick
    let e := s.stepAt j.q.pricking j.next
    if (j.st = .ready ∨ j.st = .running) ∧ prkWaitLimit p ≠ 0 ∧ j.next < prkSteps p
        ∧ base + prkWaitLimit p ≤ (s.half h).ticks ∧ !s.waitsReached e j.args then
      let f := faultOf h ukSequencer h.idx .knotWaitTimeout
      let s := report { f with ctx := j.q.ctx, hoop := hoop, step := j.next } s
      let s := bumpSeq h 5 1 s
      settleJob hoop (noteFault hoop j.next s)
    else s

/-- KNOT_WAIT_TIMEOUT (R74). -/
def execKnotWaitTimeout (hoop : BitVec 4) (s : State) : Host.Outcome State Fault Refusal :=
  .next (waitTimeout hoop.toNat s)

end Sys2Proof.Machine
end

