-- ==== Sys2Proof/Machine/Tick.lean ====
section
/-! DEFINITION. The pace tick (R27, R58, R67, R257, R288). -/
namespace Sys2Proof.Machine

/-- A half at a tick: its tick count and its speed reading (R27, R67); nothing in a half under reset. -/
def tickHalf (h : Half) (rate : Nat) : State → State :=
  updHalf h fun u =>
    if u.underReset then u
    else { u with ticks := u.ticks + 1, liveRate := rate, minRate := min u.minRate rate, measured := true }

/-- The pace generator steps: time moves to the tick, and the next one falls TICK_HP half-periods later (R67). -/
def tickTime (s : State) : State :=
  let s := advanceTo s.time.nextTick s
  { s with time := { s.time with nextTick := s.time.nextTick + s.time.tickHp } }

/-- The releases of a tick in a paced hoop (R58, R59, R69). -/
def releasePaced (hoop : Nat) (s : State) : State :=
  if hoopPaced (s.hoopEntry hoop) then startCollectives hoop (releaseHoop hoop true s) else s

/-- The schedule count that the next tick carries (R257). -/
def countTick (s : State) : State :=
  if s.dev.imageValid then { s with time := { s.time with schedule := s.time.schedule + 1 } } else s

/-- PACE_TICK: in COLD the pace generator stands. -/
def paceTick (west east : Nat) (s : State) : State :=
  if s.dev.st = .cold then s
  else
    let s := tickHalf .east east (tickHalf .west west (tickTime s))
    let s := pilotTick .east (pilotTick .west s)
    countTick (forEach (List.range 16) releasePaced s)

/-- PACE_TICK (R67). -/
def execPaceTick (west east : BitVec 16) (s : State) : Host.Outcome State Fault Refusal := .next (paceTick west.toNat east.toNat s)

end Sys2Proof.Machine
end

