-- ==== Sys2Proof/Machine/Dispatch.lean ====
section
/-! DEFINITION. One arm per command: each a direct call of its meaning. -/
namespace Sys2Proof.Machine

def exec (i : Instr) (s : State) : Host.Outcome State Fault Refusal :=
  match i with
  | .nop ring pkt => Sys2Proof.Machine.execNop ring pkt s
  | .getStatus ring pkt => Sys2Proof.Machine.execGetStatus ring pkt s
  | .readCounters ring pkt => Sys2Proof.Machine.execReadCounters ring pkt s
  | .loadImage ring pkt => Sys2Proof.Machine.execLoadImage ring pkt s
  | .imageLoad img => Sys2Proof.Machine.execImageLoad img s
  | .openOutputs ring pkt => Sys2Proof.Machine.execOpenOutputs ring pkt s
  | .closeOutputs ring pkt => Sys2Proof.Machine.execCloseOutputs ring pkt s
  | .resetHalf ring pkt => Sys2Proof.Machine.execResetHalf ring pkt s
  | .resetDevice ring pkt mempop => Sys2Proof.Machine.execResetDevice ring pkt mempop s
  | .setTime ring pkt => Sys2Proof.Machine.execSetTime ring pkt s
  | .setRecordMode ring pkt sink => Sys2Proof.Machine.execSetRecordMode ring pkt sink s
  | .proposeProtection ring pkt bytes => Sys2Proof.Machine.execProposeProtection ring pkt bytes s
  | .withdrawProposal ring pkt => Sys2Proof.Machine.execWithdrawProposal ring pkt s
  | .setFrameRing ring pkt => Sys2Proof.Machine.execSetFrameRing ring pkt s
  | .commitRoutes ring pkt => Sys2Proof.Machine.execCommitRoutes ring pkt s
  | .startJob ring pkt => Sys2Proof.Machine.execStartJob ring pkt s
  | .cancelJob ring pkt => Sys2Proof.Machine.execCancelJob ring pkt s
  | .knotSet ring pkt => Sys2Proof.Machine.execKnotSet ring pkt s
  | .knotRead ring pkt => Sys2Proof.Machine.execKnotRead ring pkt s
  | .copyIn ring pkt => Sys2Proof.Machine.execCopyIn ring pkt s
  | .copyOut ring pkt => Sys2Proof.Machine.execCopyOut ring pkt s
  | .copyDone ring tag data stop fixed => Sys2Proof.Machine.execCopyDone ring tag data stop fixed s
  | .invalidateTranslation ring pkt => Sys2Proof.Machine.execInvalidateTranslation ring pkt s
  | .invalidationComplete n => Sys2Proof.Machine.execInvalidationComplete n s
  | .bufferAlloc ring pkt => Sys2Proof.Machine.execBufferAlloc ring pkt s
  | .bufferFree ring pkt => Sys2Proof.Machine.execBufferFree ring pkt s
  | .commitTopology ring pkt record => Sys2Proof.Machine.execCommitTopology ring pkt record s
  | .hstSqDoorbell ring value => Sys2Proof.Machine.execHstSqDoorbell ring value s
  | .ringEnable ring w1c => Sys2Proof.Machine.execRingEnable ring w1c s
  | .ringDisable ring w1c => Sys2Proof.Machine.execRingDisable ring w1c s
  | .overrunClear ring enable => Sys2Proof.Machine.execOverrunClear ring enable s
  | .ringPageSetupWrite ring reg value => Sys2Proof.Machine.execRingPageSetupWrite ring reg value s
  | .outputRingSetupWrite reg value => Sys2Proof.Machine.execOutputRingSetupWrite reg value s
  | .dbgBaseWrite value => Sys2Proof.Machine.execDbgBaseWrite value s
  | .fgSpeedClear half => Sys2Proof.Machine.execFgSpeedClear half s
  | .registerWrite off size value => Sys2Proof.Machine.execRegisterWrite off size value s
  | .statusBlockRefresh => Sys2Proof.Machine.execStatusBlockRefresh s
  | .paceTick west east => Sys2Proof.Machine.execPaceTick west east s
  | .unpacedRelease hoop => Sys2Proof.Machine.execUnpacedRelease hoop s
  | .argumentReadDone hoop ecc => Sys2Proof.Machine.execArgumentReadDone hoop ecc s
  | .passGroupCommit hoop step pos fixed => Sys2Proof.Machine.execPassGroupCommit hoop step pos fixed s
  | .passGroupAbandon hoop step pos cause pass writeOut fixed => Sys2Proof.Machine.execPassGroupAbandon hoop step pos cause pass writeOut fixed s
  | .transformCommit hoop step pos fixed => Sys2Proof.Machine.execTransformCommit hoop step pos fixed s
  | .attendCommit hoop step pos fixed => Sys2Proof.Machine.execAttendCommit hoop step pos fixed s
  | .appendDone hoop step pos stop fixed => Sys2Proof.Machine.execAppendDone hoop step pos stop fixed s
  | .transferDone hoop step pos stop fixed => Sys2Proof.Machine.execTransferDone hoop step pos stop fixed s
  | .resultHandover hoop step => Sys2Proof.Machine.execResultHandover hoop step s
  | .collectiveDone hoop step stop fixed => Sys2Proof.Machine.execCollectiveDone hoop step stop fixed s
  | .stepWatchdog hoop step => Sys2Proof.Machine.execStepWatchdog hoop step s
  | .knotWaitTimeout hoop => Sys2Proof.Machine.execKnotWaitTimeout hoop s
  | .translationWalk unit ctx va write level ecc => Sys2Proof.Machine.execTranslationWalk unit ctx va write level ecc s
  | .damperRequest g ended arrivals => Sys2Proof.Machine.execDamperRequest g ended arrivals s
  | .damperCutoff g victim => Sys2Proof.Machine.execDamperCutoff g victim s
  | .damperShed g capacity => Sys2Proof.Machine.execDamperShed g capacity s
  | .dramRequest ch arrivals ecc ns => Sys2Proof.Machine.execDramRequest ch arrivals ecc ns s
  | .dramRefresh ch pair => Sys2Proof.Machine.execDramRefresh ch pair s
  | .mr4Read ch report => Sys2Proof.Machine.execMr4Read ch report s
  | .selfRefreshEntry ch requestWins => Sys2Proof.Machine.execSelfRefreshEntry ch requestWins s
  | .selfRefreshExit ch => Sys2Proof.Machine.execSelfRefreshExit ch s
  | .frequencyChange half => Sys2Proof.Machine.execFrequencyChange half s
  | .driftCheck ch => Sys2Proof.Machine.execDriftCheck ch s
  | .zqCalibration ch => Sys2Proof.Machine.execZqCalibration ch s
  | .patrolScrub ch ecc => Sys2Proof.Machine.execPatrolScrub ch ecc s
  | .phyLockLoss ch => Sys2Proof.Machine.execPhyLockLoss ch s
  | .aphyPartnerDetected port => Sys2Proof.Machine.execAphyPartnerDetected port s
  | .cameraDiscoveryDone port identity acks => Sys2Proof.Machine.execCameraDiscoveryDone port identity acks s
  | .aphyLockLoss port => Sys2Proof.Machine.execAphyLockLoss port s
  | .frameStart port vc header => Sys2Proof.Machine.execFrameStart port vc header s
  | .csi2LongPacket port vc dt payload crcOk header => Sys2Proof.Machine.execCsi2LongPacket port vc dt payload crcOk header s
  | .embeddedData port vc payload crcOk header => Sys2Proof.Machine.execEmbeddedData port vc payload crcOk header s
  | .frameEnd port vc header => Sys2Proof.Machine.execFrameEnd port vc header s
  | .lidarPacket port frame => Sys2Proof.Machine.execLidarPacket port frame s
  | .frameComplete port sel ecc => Sys2Proof.Machine.execFrameComplete port sel ecc s
  | .networkLinkDown port => Sys2Proof.Machine.execNetworkLinkDown port s
  | .lidarSilence port sel => Sys2Proof.Machine.execLidarSilence port sel s
  | .intakeStall port sel => Sys2Proof.Machine.execIntakeStall port sel s
  | .decoderEpochStart d => Sys2Proof.Machine.execDecoderEpochStart d s
  | .decodedPicture d => Sys2Proof.Machine.execDecodedPicture d s
  | .pilotDone half upset => Sys2Proof.Machine.execPilotDone half upset s
  | .pilotOverrun half => Sys2Proof.Machine.execPilotOverrun half s
  | .keyDecision half stream upset => Sys2Proof.Machine.execKeyDecision half stream upset s
  | .pilotMissing half stream => Sys2Proof.Machine.execPilotMissing half stream s
  | .recordCompose stream => Sys2Proof.Machine.execRecordCompose stream s
  | .keyAnswerTimeout stream => Sys2Proof.Machine.execKeyAnswerTimeout stream s
  | .holdRecord stream => Sys2Proof.Machine.execHoldRecord stream s
  | .outputWriter silent => Sys2Proof.Machine.execOutputWriter silent s
  | .heartbeatToggle half => Sys2Proof.Machine.execHeartbeatToggle half s
  | .weightDigestCheck half => Sys2Proof.Machine.execWeightDigestCheck half s
  | .halfReset half => Sys2Proof.Machine.execHalfReset half s
  | .halfResetRelease half => Sys2Proof.Machine.execHalfResetRelease half s
  | .halfRestart half trained injections pass => Sys2Proof.Machine.execHalfRestart half trained injections pass s
  | .halfResetTimeout half => Sys2Proof.Machine.execHalfResetTimeout half s
  | .faultCoalesceExpiry key => Sys2Proof.Machine.execFaultCoalesceExpiry key s
  | .faultRepeatExpiry key => Sys2Proof.Machine.execFaultRepeatExpiry key s
  | .faultRecordWrite => Sys2Proof.Machine.execFaultRecordWrite s
  | .retestDone half pos pass => Sys2Proof.Machine.execRetestDone half pos pass s
  | .fenceKnotSet half pos => Sys2Proof.Machine.execFenceKnotSet half pos s
  | .staleResult half pos generation => Sys2Proof.Machine.execStaleResult half pos generation s
  | .lateSpeech p => Sys2Proof.Machine.execLateSpeech p s
  | .claimExchange upsetWest upsetEast => Sys2Proof.Machine.execClaimExchange upsetWest upsetEast s
  | .claimSilence half => Sys2Proof.Machine.execClaimSilence half s
  | .poll frame => Sys2Proof.Machine.execPoll frame s
  | .confirm frame => Sys2Proof.Machine.execConfirm frame s
  | .refuse frame => Sys2Proof.Machine.execRefuse frame s
  | .nameLeader frame => Sys2Proof.Machine.execNameLeader frame s
  | .tallyBadFrame frame => Sys2Proof.Machine.execTallyBadFrame frame s
  | .agreementTimeout => Sys2Proof.Machine.execAgreementTimeout s
  | .ppsInEdge => Sys2Proof.Machine.execPpsInEdge s
  | .setTimeNoPps => Sys2Proof.Machine.execSetTimeNoPps s
  | .linkSignalDetected k => Sys2Proof.Machine.execLinkSignalDetected k s
  | .fecLock k => Sys2Proof.Machine.execFecLock k s
  | .identitySend k => Sys2Proof.Machine.execIdentitySend k s
  | .flitData k flit => Sys2Proof.Machine.execFlitData k flit s
  | .flitControl k flit => Sys2Proof.Machine.execFlitControl k flit s
  | .flitIdentity k flit => Sys2Proof.Machine.execFlitIdentity k flit s
  | .flitNak k flit => Sys2Proof.Machine.execFlitNak k flit s
  | .flitIdle k flit => Sys2Proof.Machine.execFlitIdle k flit s
  | .flitCorrupt k flit fec => Sys2Proof.Machine.execFlitCorrupt k flit fec s
  | .linkTimeout k => Sys2Proof.Machine.execLinkTimeout k s
  | .laneLockLoss k => Sys2Proof.Machine.execLaneLockLoss k s
  | .waitExceeded hoop step => Sys2Proof.Machine.execWaitExceeded hoop step s
  | .replicaRoundStart entry => Sys2Proof.Machine.execReplicaRoundStart entry s
  | .replicaRoundTimeout entry => Sys2Proof.Machine.execReplicaRoundTimeout entry s
  | .replayDeliver => Sys2Proof.Machine.execReplayDeliver s
  | .voltageFault half rail mv => Sys2Proof.Machine.execVoltageFault half rail mv s
  | .clockFault half refclk khz => Sys2Proof.Machine.execClockFault half refclk khz s
  | .powerLoop power temp canRise => Sys2Proof.Machine.execPowerLoop power temp canRise s
  | .poresetAssert => Sys2Proof.Machine.execPoresetAssert s
  | .poresetRelease mempop => Sys2Proof.Machine.execPoresetRelease mempop s
  | .bootPackageRead slotB package => Sys2Proof.Machine.execBootPackageRead slotB package s
  | .storesTested pass => Sys2Proof.Machine.execStoresTested pass s
  | .dramTrainingDone density trained => Sys2Proof.Machine.execDramTrainingDone density trained s
  | .checkerInjectionsDone failedWest failedEast => Sys2Proof.Machine.execCheckerInjectionsDone failedWest failedEast s
  | .kindlingDone pass => Sys2Proof.Machine.execKindlingDone pass s
  | .flashImageAutoload img => Sys2Proof.Machine.execFlashImageAutoload img s
  | .lockstepMismatch half => Sys2Proof.Machine.execLockstepMismatch half s
  | .pathFailed half => Sys2Proof.Machine.execPathFailed half s
  | .aphyLinkTrained port gear => Sys2Proof.Machine.execAphyLinkTrained port gear s
  | .networkLinkUp port => Sys2Proof.Machine.execNetworkLinkUp port s
  | .replicaDigestComputed entry ecc => Sys2Proof.Machine.execReplicaDigestComputed entry ecc s

end Sys2Proof.Machine
end

