-- ==== Sys2Proof/Machine/Bar0.lean ====
section
/-! DEFINITION. What a read of BAR0 returns (R27, R30 to R34, R76, R220, R254, R284, R324, R351, R390). The rows have no command for a
read: it changes nothing but the count of narrow accesses (log 42). -/
namespace Sys2Proof.Machine

/-- A global register (R31, R33). -/
def readGlobal (off : Nat) (s : State) : Word :=
  let h := s.host
  match off with
  | 0x000 => w64 (0x3216 + at_ 16 s.part.stepping.toNat + at_ 24 (s.boot.fwVersion / 256) + at_ 32 (fld s.part.serial 31 0))
  | 0x008 => s.hstStatus
  | 0x010 => h.statusBlock
  | 0x018 => h.event.base
  | 0x020 => h.event.size
  | 0x028 => h.event.head
  | 0x030 => w64 h.evrLost
  | 0x038 => h.fault.base
  | 0x040 => h.fault.size
  | 0x048 => h.fault.head
  | 0x050 => h.result.base
  | 0x058 => h.result.size
  | 0x060 => h.result.head
  | 0x068 => h.fallback.base
  | 0x070 => h.fallback.size
  | 0x078 => h.fallback.head
  | 0x080 => h.dbgBase
  | _ => 0

/-- A register of a ring page (R34). -/
def readRingPage (n off : Nat) (s : State) : Word :=
  let r := s.ring n
  match off with
  | 0x000 => r.sqBase
  | 0x008 => r.sqSize
  | 0x010 => r.doorbell.setWidth 64
  | 0x018 => r.rrBase
  | 0x020 => r.rrSize
  | 0x028 => r.rrHead.setWidth 64
  | 0x030 => w64 (bitTo 0 r.enable + bitTo 1 r.drained + bitTo 2 r.overrun)
  | 0x038 => w64 (r.fetched.toNat + at_ 32 r.rejected + at_ 48 r.outstanding)
  | _ => 0

/-- FG_SPEED (R27); from a half reset to the restart STRETCH holds its reset value (R13). -/
def fgSpeed (u : HalfUnit) : Word :=
  w64 (u.liveRate + at_ 16 u.minRate + at_ 32 u.slipCount + bitTo 49 (u.stretch != 0 && !u.underReset)
    + bitTo 50 (u.measured && decide (u.liveRate < 1700)))

/-- PRK_TICK (R76). -/
def prkTick (h : Half) (s : State) : Word :=
  let u := s.half h
  w64 ((if u.underReset then 100 else s.time.tickHp) + at_ 16 (u.ticks % 2 ^ 48))

/-- JOB_STATE (R60, R76): an admitted job that reads its argument has not released step 0. -/
def jobCode : JobSt → Nat
  | .reading | .ready => 1
  | .running => 2
  | .ending => 3
  | .wedged => 4

/-- PRK_HOOPn (R76): the reset value from a half reset to the restart (R13). STEP, TAG, RING and CONTEXT read 0 in IDLE, also
after a job (DESIGN CHOICE, log 48). -/
def prkHoopReg (h : Half) (n : Nat) (s : State) : Word :=
  let e := s.hoopEntry n
  if !hoopValid e || hoopHalf e != h || (s.half h).underReset then 0
  else match (s.hoop n).job with
    | none => w64 (bitTo 3 (hoopPaced e))
    | some j => w64 (jobCode j.st + bitTo 3 (hoopPaced e) + at_ 4 (j.next - 1) + at_ 24 j.q.tag + at_ 40 j.q.ring + at_ 45 j.q.ctx)

/-- DMP_PORTd (R284); FIXED holds its reset value from a half reset to the restart (R13). -/
def dmpPort (g : Nat) (s : State) : Word :=
  let x := s.damper g
  w64 (x.slotPtr + bitTo 8 (s.fixedMode g && !(s.half (halfOfDamper g)).underReset) + bitTo 9 x.table.isSome + at_ 10 x.capacity + at_ 19 (min 0xFFFF x.cutoffs)
    + at_ 35 (x.flagged % 65536))

/-- DMP_HOOPn (R284): n = 16 and 17 are the intakes of the halves; the reset value from a half reset to the restart (R13). -/
def dmpHoop (h : Half) (n : Nat) (s : State) : Word :=
  let e := s.hoopEntry n
  let own := if n < 16 then hoopValid e && hoopHalf e == h else n == 16 + h.idx
  let q := (s.hoop n).queue.length
  if !own || (s.half h).underReset then 0
  else w64 (bitTo 0 (s.hoop n).breached + bitTo 1 (q == 255) + at_ 2 q + bitTo 10 (!(Tab.get [] s.img.heldHoops n).isEmpty)
    + at_ 32 (hoopGuarantee e))

/-- The half's registers have been set since its reset: KINDLING has ended and no half reset is under way (R324). -/
def State.windowSet (s : State) (h : Half) : Bool := s.exchanges && !(s.half h).underReset

/-- FG_STATE (R324). -/
def fgState (h : Half) (s : State) : Word :=
  let u := s.half h
  let autos := (u.autoResets.filter fun t => decide ((s.now - t).toNat < 180000000000)).length
  if !s.windowSet h then 0
  else w64 (s.dev.st.code + bitTo 3 u.claim + bitTo 4 u.inService + bitTo 5 u.danger + bitTo 6 u.mainOut + bitTo 7 (s.gateOpen h)
    + bitTo 8 (s.hbActive h) + bitTo 9 s.dev.dispute + at_ 16 u.latchClass + at_ 24 (min 15 autos))

/-- FG_PLACEn (R324). -/
def fgPlace (h : Half) (n : Nat) (s : State) : Word :=
  let p := s.place (posOf h n)
  if !s.windowSet h then 0
  else w64 (p.physical + bitTo 5 p.vacant + bitTo 6 p.retest.isSome + at_ 8 p.gen + at_ 24 p.transients)

/-- FG_FAULTQ (R324). -/
def fgFaultq (h : Half) (s : State) : Word := w64 ((s.half h).pendq.length + at_ 8 (s.half h).lost)

/-- FG_BOOT (R390). -/
def fgBoot (b : Boot) : Word :=
  w64 (b.stage + at_ 4 b.fail + at_ 8 b.slot + at_ 10 b.autoload + at_ 12 b.keySlot + at_ 16 b.rollback + at_ 24 b.fwVersion)

/-- FG_POWER (R390). -/
def fgPower (u : HalfUnit) : Word :=
  if !u.looped then 0
  else w64 (u.vcoreMv + at_ 10 u.vsramMv + at_ 20 u.powerW + at_ 29 u.tj + at_ 37 u.stretch + bitTo 41 u.atFloor)

/-- An array of `n` 8-byte registers from `base` on: the index that an offset names. -/
def regIndex (base n off : Nat) : Option Nat := if base ≤ off ∧ off < base + 8 * n then some ((off - base) / 8) else none

/-- A fireguard window (R27, R76, R284, R324, R390). -/
def readFireguard (h : Half) (off : Nat) (s : State) : Word :=
  let u := s.half h
  if off = 0x0000 then fgSpeed u
  else if off = 0x1000 then prkTick h s
  else if let some n := regIndex 0x1100 16 off then prkHoopReg h n s
  else if let some d := regIndex 0x2000 24 off then dmpPort (32 * h.idx + d) s
  else if let some n := regIndex 0x2100 18 off then dmpHoop h n s
  else if off = 0x3000 then fgState h s
  else if let some n := regIndex 0x3100 8 off then fgPlace h n s
  else if off = 0x3200 then fgFaultq h s
  else if off = 0x4000 then fgBoot s.boot
  else if off = 0x4008 then fgPower u
  else if off = 0x4010 then s.boot.detail
  else 0

/-- MC_CHn (R220). -/
def mcChannel (x : Channel) : Word :=
  w64 (bitTo 0 x.populated + at_ 1 x.st.code + at_ 4 x.fsp + at_ 6 x.refRate + at_ 8 x.density + at_ 16 x.maxRdNs)

/-- A memory controller window (R220). -/
def readMc (h : Half) (off : Nat) (s : State) : Word :=
  let u := s.half h
  if let some n := regIndex 0 16 off then (if u.reset = .asserted then 0 else mcChannel (s.chan (16 * h.idx + n)))
  else if off = 0x100 then w64 (u.population + bitTo 2 u.rowHitFirst + at_ 3 u.srIdle + at_ 11 u.dramFsp)
  else 0

/-- KL_LINKn (R351). -/
def klLink (x : Link) : Word := w64 (x.st.code + bitTo 3 x.lanesOk + at_ 8 x.fenceEpoch + at_ 40 x.retries)

/-- The Kreong window (R351). -/
def readKreong (off : Nat) (s : State) : Word :=
  let r := s.topo
  if let some n := regIndex 0 8 off then klLink (s.klink n)
  else if off = 0x100 then
    w64 (s.link.epoch + at_ 32 (topoRank r) + at_ 37 (topoX r - 1) + at_ 40 (topoY r - 1) + bitTo 42 s.link.valid)
  else if let some i := regIndex 0x1000 64 off then
    (if (s.klink (i / 8)).st = .down then 0 else wordAt (s.klink (i / 8)).peer (8 * (i % 8)))
  else 0

/-- ROUTED of a port (R254). -/
def routedMask (n : Nat) (s : State) : Nat :=
  ((List.range 16).map fun i =>
    let k := keyOf n i
    bitTo i (s.dev.imageValid && routeValid (s.routeOf k) && !(s.key k).ring.isEmpty)).foldl (· + ·) 0

/-- ITK_PORTn (R254). -/
def itkPort (n : Nat) (s : State) : Word :=
  let p := s.port n
  w64 (p.link + at_ 2 p.gear + at_ 5 p.seen + at_ 21 (routedMask n s) + bitTo 37 p.mismatch)

/-- The intake window (R254). -/
def readIntake (off : Nat) (s : State) : Word :=
  if let some n := regIndex 0 32 off then itkPort n s
  else if off = 0x100 then
    w64 (s.west.ctrlDropped + at_ 16 s.east.ctrlDropped + bitTo 32 s.west.pathOk + bitTo 33 s.east.pathOk)
  else if let some i := regIndex 0x200 8 off then
    let d := s.dec (i / 2)
    if i % 2 = 0 then w64 (d.t + at_ 32 d.epoch) else w64 (bitTo 0 d.running + at_ 32 (fld d.delivered 31 0))
  else if let some i := regIndex 0x8000 (24 * 32) off then
    (if (s.port (i / 32)).link = 3 then wordAt (s.port (i / 32)).identity (8 * (i % 32)) else 0)
  else 0

/-- The debug read window (R30): zero unless unlocked; no value where the physical address does not exist. -/
def readDebug (off : Nat) (s : State) : Option Word :=
  if !s.dev.debugOpen then some 0
  else match s.physBytes 0 (off - 0x800000 + s.host.dbgBase.toNat) 8 with
    | .ok bs => some (wordAt bs 0)
    | .error _ => none

/-- A read of `size` bytes at a BAR0 offset: narrow or misaligned, it answers zero (R30). -/
def readBar0 (off size : Nat) (s : State) : Option Word :=
  if size ≠ 8 ∨ off % 8 ≠ 0 then some 0
  else if off < 0x1000 then some (readGlobal off s)
  else if 0x10000 ≤ off ∧ off < 0x30000 then some (readRingPage ((off - 0x10000) / 0x1000) (off % 0x1000) s)
  else if 0x100000 ≤ off ∧ off < 0x120000 then some (readFireguard (Half.sel ((off - 0x100000) / 0x10000)) (off % 0x10000) s)
  else if 0x120000 ≤ off ∧ off < 0x140000 then some (readMc (Half.sel ((off - 0x120000) / 0x10000)) (off % 0x10000) s)
  else if 0x140000 ≤ off ∧ off < 0x150000 then some (readKreong (off % 0x10000) s)
  else if 0x150000 ≤ off ∧ off < 0x160000 then some (readIntake (off % 0x10000) s)
  else if 0x800000 ≤ off then readDebug off s
  else some 0

end Sys2Proof.Machine
end

