-- ==== Sys2Proof/Safety.lean ====
section
/-! DEFINITION. What counts as a safe step and a safe run of the block, and the form of a state that every step keeps. -/
namespace Sys2Proof.Safety

open Sys2Proof.Machine

/-- An outcome that goes on. -/
def goesOn (o : Host.Outcome State Fault Refusal) : Prop := ∃ s, o = .next s

/-- A run of `n` steps none of which stops. -/
def safeFor : Nat → State → Prop
  | 0, _ => True
  | n + 1, s => ∃ t, step s = .next t ∧ safeFor n t

end Sys2Proof.Safety

namespace Sys2Proof.Machine

/-! ### Units of the device -/

/-- The units that a state is made of, the waiting commands and the fused part apart; `free` is the salt of free values (log 6). -/
inductive DevUnit where
  | time
  | pins
  | boot
  | dev
  | host
  | img
  | pools
  | west
  | east
  | seq
  | mem
  | intake
  | out
  | tally
  | link
  | recorder
  | free
  deriving DecidableEq, Repr

/-- A unit is the same in both states. -/
def DevUnit.same (u : DevUnit) (s t : State) : Prop :=
  match u with
  | .time => t.time = s.time
  | .pins => t.pins = s.pins
  | .boot => t.boot = s.boot
  | .dev => t.dev = s.dev
  | .host => t.host = s.host
  | .img => t.img = s.img
  | .pools => t.pools = s.pools
  | .west => t.west = s.west
  | .east => t.east = s.east
  | .seq => t.seq = s.seq
  | .mem => t.mem = s.mem
  | .intake => t.intake = s.intake
  | .out => t.out = s.out
  | .tally => t.tally = s.tally
  | .link => t.link = s.link
  | .recorder => t.rec_ = s.rec_
  | .free => t.freeCtr = s.freeCtr

/-- Nothing but the listed units differs. -/
def OnlyUnits (l : List DevUnit) (s t : State) : Prop :=
  t.pending = s.pending ∧ t.part = s.part ∧ ∀ u, u ∉ l → u.same s t

/-! ### The form of a state -/

/-- Host memory as written is in canonical form, HST_EVR_LOST (R41) and every ring's REJECTED (R34) have not left their
saturating range. -/
def HostIf.ok (x : HostIf) : Prop := x.mem.wf = true ∧ x.evrLost ≤ 0xFFFFFFFF ∧ ∀ e ∈ x.rings, e.2.rejected ≤ 0xFFFF

/-- IGNORED_WRITES saturates (R33). -/
def Dev.ok (x : Dev) : Prop := x.ignored ≤ 0xFFFF

/-- STAGE, FAIL and SLOT of FG_BOOT hold values that R390 lists. -/
def Boot.ok (x : Boot) : Prop := x.stage ≤ 7 ∧ x.fail ≤ 7 ∧ x.slot ≤ 3

/-- SLIP_COUNT and MIN_RATE fit their 16 bits (R27), LOST its 32 bits (R317). -/
def HalfUnit.ok (x : HalfUnit) : Prop := x.slipCount ≤ 0xFFFF ∧ x.minRate ≤ 0xFFFF ∧ x.lost ≤ 0xFFFFFFFF

/-- Every firebox is in canonical form. -/
def Seq.ok (x : Seq) : Prop := ∀ e ∈ x.hearths, e.2.frames.wf = true

/-- DRAM, the shared store, the pilots' local stores and DRAM's check bytes are in canonical form. -/
def Mem.ok (x : Mem) : Prop :=
  x.dram.wf = true ∧ x.shared.wf = true ∧ x.local0.wf = true ∧ x.local1.wf = true ∧ x.check.wf = true

/-- The form that every step keeps: canonical memories, saturating counters in range, FG_BOOT legal. -/
structure State.Ok (s : State) : Prop where
  host : s.host.ok
  dev  : s.dev.ok
  boot : s.boot.ok
  west : s.west.ok
  east : s.east.ok
  seq  : s.seq.ok
  mem  : s.mem.ok

end Sys2Proof.Machine
end

