-- ==== Sys2Proof/Certificates/Slice0/Obligations.lean ====
section
/-! DEFINITION. The statements about the model, for the provers. -/
namespace Sys2Proof.Machine

/-- Only ring page `n` of the host interface may differ. -/
def OnlyRing (n : Nat) (s t : State) : Prop :=
  t = { s with host := { s.host with rings := t.host.rings } } ∧ ∀ k, k ≠ n → t.ring k = s.ring k

/-- A refused register write: counted in IGNORED_WRITES, and HST_STATUS with its timestamp copied to the head of the status block;
no register and no other byte of host memory changes (R32, R33, R43). -/
def Ignored (s t : State) : Prop :=
  let copy := toLE 8 t.hstStatus.toNat ++ toLE 8 s.time.ts.toNat
  t = { s with dev := { s.dev with ignored := min 0xFFFF (s.dev.ignored + 1) },
               host := { s.host with mem := s.host.mem.writeN s.host.statusBlock.toNat copy } }

end Sys2Proof.Machine

open Sys2Proof Sys2Proof.Machine

/-- For every command c and state s with c at the front of the queue, step s is exec c on s with the queue's rest. The queue is
the model's own (log 1). -/
def Obligations.StepRunsTheFrontCommand : Prop :=
  ∀ (c : Instr) (rest : List Instr) (s : State), s.pending = c :: rest → step s = exec c { s with pending := rest }

/-- A step takes the front of the queue and nothing else of it; the part's identity never changes (log 1). -/
def Sys2Proof.StepTakesOneCommand : Prop :=
  ∀ s t : State, step s = .next t → t.pending = s.pending.tail ∧ t.part = s.part

/-- For every state s that is Ok (every memory and keyed table in its canonical form, addresses rising and no entry at the value
an unlisted address reads as), if step s answers a next state, that state is Ok. The form is the model's own (logs 4 and 5). -/
def Obligations.EveryStepKeepsTheForm : Prop :=
  ∀ s t : State, s.Ok → step s = .next t → t.Ok

/-- State.reset is Ok: the invariant of EveryStepKeepsTheForm holds where a run begins. -/
def Obligations.ResetHasTheForm : Prop := State.reset.Ok

/-- A doorbell write replaces the tail, and is checked against the ring size only while ENABLE is 1 and OVERRUN 0 (R35, R36). -/
def Sys2Proof.DoorbellIsChecked : Prop :=
  ∀ (ring : BitVec 5) (v : Word) (s : State), ∃ t, exec (.hstSqDoorbell ring v) s = .next t ∧ OnlyRing ring.toNat s t ∧
    let r := s.ring ring.toNat
    let past := decide (r.words < (v.setWidth 32 - r.head).toNat)
    t.ring ring.toNat =
      if r.enable = true ∧ r.overrun = false then
        { r with doorbell := v.setWidth 32, overrun := past, held := past && r.held }
      else { r with doorbell := v.setWidth 32 }

/-- ENABLE, its clearing, and the clearing of OVERRUN (R34 to R36). -/
def Sys2Proof.RingControlWrites : Prop :=
  ∀ (ring : BitVec 5) (w1c enable : Bool) (s : State),
    let r := s.ring ring.toNat
    (∃ t, exec (.ringEnable ring w1c) s = .next t ∧ OnlyRing ring.toNat s t ∧
      t.ring ring.toNat =
        if r.enable = true then { r with overrun := r.overrun && !w1c, held := r.held || (w1c && r.overrun) }
        else { r with enable := true, head := r.doorbell, tail := r.rrHead, held := false, overrun := r.overrun && !w1c })
    ∧ (∃ t, exec (.ringDisable ring w1c) s = .next t ∧ OnlyRing ring.toNat s t ∧
      t.ring ring.toNat = { r with enable := false, overrun := r.overrun && !w1c, held := r.held || (w1c && r.overrun) })
    ∧ (∃ t, exec (.overrunClear ring enable) s = .next t ∧ OnlyRing ring.toNat s t ∧
      (t.ring ring.toNat).overrun = false ∧ (t.ring ring.toNat).enable = enable ∧
      (enable = r.enable → t.ring ring.toNat = { r with overrun := false, held := r.held || r.overrun }))

/-- What a setup register of a ring page accepts (R35). -/
def Sys2Proof.RingValueFits : RingReg → Word → Prop
  | .sqBase, v | .rrBase, v => v.toNat % 64 = 0
  | .sqSize, v => v.toNat ≤ 12
  | .rrSize, v => v.toNat ≤ 9

/-- The four setup registers of a ring page take effect only on a disabled and drained ring, with values that fit (R35). -/
def Sys2Proof.RingSetupWrites : Prop :=
  ∀ (ring : BitVec 5) (reg : RingReg) (v : Word) (s : State),
    let r := s.ring ring.toNat
    (r.enable = false ∧ r.outstanding = 0 ∧ RingValueFits reg v →
      ∃ t, exec (.ringPageSetupWrite ring reg v) s = .next t ∧ OnlyRing ring.toNat s t ∧
        t.ring ring.toNat = (match reg with
          | .sqBase => { r with sqBase := v }
          | .sqSize => { r with sqSize := v }
          | .rrBase => { r with rrBase := v }
          | .rrSize => { r with rrSize := v }))
    ∧ (¬(r.enable = false ∧ r.outstanding = 0 ∧ RingValueFits reg v) →
      ∃ t, exec (.ringPageSetupWrite ring reg v) s = .next t ∧ Ignored s t)

/-- What a setup register of the output rings accepts (R32). -/
def Sys2Proof.OutValueFits : OutReg → Word → Prop
  | .statusBlock, v | .base _, v => v.toNat % 64 = 0
  | .size _, v => v.toNat ≤ 9

/-- The setup registers of the output rings, with one of them replaced. -/
def Sys2Proof.setOutReg (reg : OutReg) (v : Word) (h : HostIf) : HostIf :=
  match reg with
  | .statusBlock => { h with statusBlock := v }
  | .base .event => { h with event := { h.event with base := v } }
  | .base .fault => { h with fault := { h.fault with base := v } }
  | .base .result => { h with result := { h.result with base := v } }
  | .base .fallback => { h with fallback := { h.fallback with base := v } }
  | .size .event => { h with event := { h.event with size := v } }
  | .size .fault => { h with fault := { h.fault with size := v } }
  | .size .result => { h with result := { h.result with size := v } }
  | .size .fallback => { h with fallback := { h.fallback with size := v } }

/-- A write to HST_STATUS_BLOCK or to a base or size of an output ring takes effect exactly where the device is BANKED and the
value fits the register, and a write to DBG_BASE exactly where its bits [22:0] and [63:40] are zero; nothing else changes
then. Every other such write is ignored and counted in IGNORED_WRITES, and the register keeps its value. -/
def Obligations.OutputSetupWrites : Prop :=
  ∀ (reg : OutReg) (v : Word) (s : State),
    (s.dev.st = .banked ∧ OutValueFits reg v →
      exec (.outputRingSetupWrite reg v) s = .next { s with host := setOutReg reg v s.host })
    ∧ (¬(s.dev.st = .banked ∧ OutValueFits reg v) →
      ∃ t, exec (.outputRingSetupWrite reg v) s = .next t ∧ Ignored s t)
    ∧ (v.toNat % 2 ^ 23 = 0 ∧ v.toNat < 2 ^ 40 →
      exec (.dbgBaseWrite v) s = .next { s with host := { s.host with dbgBase := v } })
    ∧ (¬(v.toNat % 2 ^ 23 = 0 ∧ v.toNat < 2 ^ 40) → ∃ t, exec (.dbgBaseWrite v) s = .next t ∧ Ignored s t)

/-- FG_SPEED.CLEAR sets MIN_RATE to 0xFFFF and SLIP_COUNT to 0 (R27). -/
def Sys2Proof.SpeedMonitorCleared : Prop :=
  ∀ s : State,
    exec (.fgSpeedClear .west) s = .next { s with west := { s.west with minRate := 0xFFFF, slipCount := 0 } }
    ∧ exec (.fgSpeedClear .east) s = .next { s with east := { s.east with minRate := 0xFFFF, slipCount := 0 } }

/-- The status block's first two words are a copy of HST_STATUS and the timestamp of the write (R43). -/
def Sys2Proof.StatusBlockRefreshed : Prop :=
  ∀ s : State, s.host.mem.wf = true → ∃ t, exec .statusBlockRefresh s = .next t ∧
    t = { s with host := { s.host with mem := t.host.mem } }
    ∧ t.host.mem.readN s.host.statusBlock.toNat 16 = toLE 8 s.hstStatus.toNat ++ toLE 8 s.time.ts.toNat
    ∧ ∀ a, a < s.host.statusBlock.toNat ∨ s.host.statusBlock.toNat + 16 ≤ a → t.host.mem.read a = s.host.mem.read a

/-- The global registers (R31): setup registers and DBG_BASE, the four HEAD counts of 32 bits, and the offsets that ignore a write. -/
def Sys2Proof.GlobalRegisterWrites (off : BitVec 24) (v : Word) (s : State) : Prop :=
  let c := Instr.registerWrite off 8 v
  let head (p : OutPage) : OutPage := { p with head := BitVec.ofNat 64 (v.toNat % 2 ^ 32) }
  (off.toNat = 0x010 → exec c s = exec (.outputRingSetupWrite .statusBlock v) s)
  ∧ (off.toNat = 0x018 → exec c s = exec (.outputRingSetupWrite (.base .event) v) s)
  ∧ (off.toNat = 0x020 → exec c s = exec (.outputRingSetupWrite (.size .event) v) s)
  ∧ (off.toNat = 0x028 → exec c s = .next { s with host := { s.host with event := head s.host.event } })
  ∧ (off.toNat = 0x038 → exec c s = exec (.outputRingSetupWrite (.base .fault) v) s)
  ∧ (off.toNat = 0x040 → exec c s = exec (.outputRingSetupWrite (.size .fault) v) s)
  ∧ (off.toNat = 0x048 → exec c s = .next { s with host := { s.host with fault := head s.host.fault } })
  ∧ (off.toNat = 0x050 → exec c s = exec (.outputRingSetupWrite (.base .result) v) s)
  ∧ (off.toNat = 0x058 → exec c s = exec (.outputRingSetupWrite (.size .result) v) s)
  ∧ (off.toNat = 0x060 → exec c s = .next { s with host := { s.host with result := head s.host.result } })
  ∧ (off.toNat = 0x068 → exec c s = exec (.outputRingSetupWrite (.base .fallback) v) s)
  ∧ (off.toNat = 0x070 → exec c s = exec (.outputRingSetupWrite (.size .fallback) v) s)
  ∧ (off.toNat = 0x078 → exec c s = .next { s with host := { s.host with fallback := head s.host.fallback } })
  ∧ (off.toNat = 0x080 → exec c s = exec (.dbgBaseWrite v) s)
  ∧ (off.toNat = 0x000 ∨ off.toNat = 0x008 ∨ off.toNat = 0x030 → exec c s = .next s)
  ∧ (0x088 ≤ off.toNat → off.toNat < 0x1000 → off.toNat % 8 = 0 → exec c s = .next s)

/-- The rest of BAR0 (R30, R27): the CLEAR bit of FG_SPEED acts; read-only windows, unlisted offsets and the debug window ignore a
write. -/
def Sys2Proof.OtherRegisterWrites (off : BitVec 24) (v : Word) (s : State) : Prop :=
  let c := Instr.registerWrite off 8 v
  (∀ h : Half, off.toNat = 0x100000 + 0x10000 * h.idx →
      (v.getLsbD 48 = true → exec c s = exec (.fgSpeedClear h) s) ∧ (v.getLsbD 48 = false → exec c s = .next s))
  ∧ (0x1000 ≤ off.toNat → (off.toNat < 0x10000 ∨ 0x30000 ≤ off.toNat) → off.toNat ≠ 0x100000 → off.toNat ≠ 0x110000 →
      off.toNat % 8 = 0 → exec c s = .next s)

/-- A write that is not one aligned 64-bit word is ignored and counted. A write at the offsets of a ring page is the doorbell,
setup, head or control write of that page; its read-only register and the rest of the page ignore it. A write at a global
register's offset is the setup write of that register, replaces the HEAD count of an output ring, or is ignored where the
register is read-only or not listed. CLEAR of FG_SPEED clears the speed monitor of its half; every other offset, the debug
window among them, ignores a write. -/
def Obligations.RegisterWritesByAddress : Prop :=
  ∀ (off : BitVec 24) (size : BitVec 4) (v : Word) (s : State),
    (size ≠ 8 ∨ off.toNat % 8 ≠ 0 → ∃ t, exec (.registerWrite off size v) s = .next t ∧ Ignored s t)
    ∧ (∀ ring : BitVec 5, size = 8 →
      let page := 0x10000 + 0x1000 * ring.toNat
      (off.toNat = page + 0x10 → exec (.registerWrite off size v) s = exec (.hstSqDoorbell ring v) s)
      ∧ (off.toNat = page + 0x00 → exec (.registerWrite off size v) s = exec (.ringPageSetupWrite ring .sqBase v) s)
      ∧ (off.toNat = page + 0x08 → exec (.registerWrite off size v) s = exec (.ringPageSetupWrite ring .sqSize v) s)
      ∧ (off.toNat = page + 0x18 → exec (.registerWrite off size v) s = exec (.ringPageSetupWrite ring .rrBase v) s)
      ∧ (off.toNat = page + 0x20 → exec (.registerWrite off size v) s = exec (.ringPageSetupWrite ring .rrSize v) s)
      ∧ (off.toNat = page + 0x28 → ∃ t, exec (.registerWrite off size v) s = .next t ∧ OnlyRing ring.toNat s t
          ∧ t.ring ring.toNat = { s.ring ring.toNat with rrHead := v.setWidth 32 })
      ∧ (off.toNat = page + 0x30 → v.getLsbD 0 = true →
          exec (.registerWrite off size v) s = exec (.ringEnable ring (v.getLsbD 2)) s)
      ∧ (off.toNat = page + 0x30 → v.getLsbD 0 = false →
          exec (.registerWrite off size v) s = exec (.ringDisable ring (v.getLsbD 2)) s)
      ∧ (page + 0x38 ≤ off.toNat → off.toNat < page + 0x1000 → off.toNat % 8 = 0 → exec (.registerWrite off size v) s = .next s))
    ∧ (size = 8 → GlobalRegisterWrites off v s)
    ∧ (size = 8 → OtherRegisterWrites off v s)

/-! ### Packets -/

/-- The commands that are packets: their ring and words. -/
def Sys2Proof.packetOf : Instr → Option (BitVec 5 × List Word)
  | .nop r p | .getStatus r p | .readCounters r p | .loadImage r p | .openOutputs r p | .closeOutputs r p | .resetHalf r p
  | .resetDevice r p _ | .setTime r p | .setRecordMode r p _ | .proposeProtection r p _ | .withdrawProposal r p
  | .setFrameRing r p | .commitRoutes r p | .startJob r p | .cancelJob r p | .knotSet r p | .knotRead r p | .copyIn r p
  | .copyOut r p | .invalidateTranslation r p | .bufferAlloc r p | .bufferFree r p | .commitTopology r p _ => some (r, p)
  | _ => none

/-- Word 0 of a packet. -/
def Sys2Proof.headOf (pkt : List Word) : Head := parseHead (pkt.getD 0 0)

/-- The packet is fetched: the ring serves it, a START_JOB finds room in its hoop's queue, and it is the ring's turn (R36 to R39,
R45, R262). -/
def Sys2Proof.Fetched (ring : BitVec 5) (pkt : List Word) (s : State) : Prop :=
  ringReady ring.toNat (headOf pkt) s = true ∧ queueFull (headOf pkt) s = false ∧ inTurn ring.toNat s = true

/-- A packet of an opcode that is fetched and passes steps 1 to 8 of R46. -/
def Sys2Proof.Admitted (op : Nat) (ring : BitVec 5) (pkt : List Word) (s : State) : Prop :=
  packetWf op pkt = true ∧ Fetched ring pkt s ∧ examine ring.toNat (headOf pkt) pkt s = none

/-- The packet has left its ring: `replies` records written, `owed` more final replies due; other pages are as before. -/
def Sys2Proof.Answered (ring : BitVec 5) (pkt : List Word) (replies owed : Nat) (refused : Bool) (s t : State) : Prop :=
  t.ring ring.toNat =
    { s.ring ring.toNat with
      head := (s.ring ring.toNat).head + BitVec.ofNat 32 pkt.length, fetched := (s.ring ring.toNat).fetched + 1,
      tail := (s.ring ring.toNat).tail + BitVec.ofNat 32 replies,
      rejected := if refused = true then min 0xFFFF ((s.ring ring.toNat).rejected + 1) else (s.ring ring.toNat).rejected,
      outstanding := (s.ring ring.toNat).outstanding + owed }
  ∧ ∀ n, n ≠ ring.toNat → t.ring n = s.ring n

/-- Of the host interface only ring pages and memory differ, and the turn stands at this ring (R38). -/
def Sys2Proof.HostKept (ring : BitVec 5) (s t : State) : Prop :=
  t.host = { s.host with rings := t.host.rings, mem := t.host.mem, adminLast := decide (ring.toNat = 0),
                         lastRing := if ring.toNat = 0 then s.host.lastRing else ring.toNat }

/-- Where the ring's k-th next reply record goes (R34, R41). -/
def Sys2Proof.replySlot (ring : BitVec 5) (k : Nat) (s : State) : Nat :=
  (s.ring ring.toNat).rrBase.toNat
    + 32 * (((s.ring ring.toNat).tail + BitVec.ofNat 32 k).toNat % (s.ring ring.toNat).records)

/-- The bytes of the packet's k-th reply record (R41). -/
def Sys2Proof.replyBytes (ring : BitVec 5) (pkt : List Word) (k kind status : Nat) (eff detail : Word) (s : State) : List Byte :=
  wordsBytes (recordWords (headOf pkt).tag status (headOf pkt).opcode kind ring.toNat
    (((s.ring ring.toNat).tail + BitVec.ofNat 32 k).toNat / (s.ring ring.toNat).records % 2 == 0) (headOf pkt).ctx
    (headOf pkt).hoop eff s.time.ts detail)

/-- Where the status block holds the ring's two words (R43). -/
def Sys2Proof.ringStatus (ring : BitVec 5) (s : State) : Nat := s.host.statusBlock.toNat + 0x40 + 16 * ring.toNat

/-- The status block holds the ring's head and tail as they stand (R43). -/
def Sys2Proof.RingCopied (ring : BitVec 5) (s t : State) : Prop :=
  t.host.mem.readN (ringStatus ring s) 16
    = toLE 8 (t.ring ring.toNat).head.toNat ++ toLE 8 (t.ring ring.toNat).tail.toNat

/-- A byte of host memory that lies outside a range of `n` bytes. -/
def Sys2Proof.Apart (a base n : Nat) : Prop := a < base ∨ base + n ≤ a

/-- Two ranges of host memory that do not meet. -/
def Sys2Proof.ApartRange (a n b m : Nat) : Prop := a + n ≤ b ∨ b + m ≤ a

/-- A byte of the sink of a recording in force, to which the packet's COMMAND entry goes (R359, R361). -/
def Sys2Proof.SinkByte (s : State) (a : Nat) : Prop :=
  s.rec_.mode = .record ∧ ¬Apart a s.rec_.sink.toNat (max 64 s.rec_.bytes)

/-- Host memory holds the packet's single reply and the ring's two words of the status block, and is otherwise as before but for the
sink of a recording in force. -/
def Sys2Proof.SingleReply (ring : BitVec 5) (pkt : List Word) (status : Nat) (eff detail : Word) (s t : State) : Prop :=
  (ApartRange (replySlot ring 0 s) 32 (ringStatus ring s) 16 →
    t.host.mem.readN (replySlot ring 0 s) 32 = replyBytes ring pkt 0 1 status eff detail s)
  ∧ RingCopied ring s t
  ∧ ∀ a, Apart a (replySlot ring 0 s) 32 → Apart a (ringStatus ring s) 16 → ¬SinkByte s a →
      t.host.mem.read a = s.host.mem.read a

/-- Host memory holds the packet's two replies and what it wrote to `dest`, and is otherwise as before but for the ring's words of
the status block and the sink of a recording in force (R39, R41). -/
def Sys2Proof.TwoReplies (ring : BitVec 5) (pkt : List Word) (first : Word) (status : Nat) (eff detail : Word) (dest : Nat)
    (bs : List Byte) (s t : State) : Prop :=
  let slot := replySlot ring
  (ApartRange (slot 1 s) 32 (ringStatus ring s) 16 →
    t.host.mem.readN (slot 1 s) 32 = replyBytes ring pkt 1 1 status eff detail s)
  ∧ (ApartRange (slot 0 s) 32 (ringStatus ring s) 16 → ApartRange (slot 0 s) 32 dest bs.length →
    t.host.mem.readN (slot 0 s) 32 = replyBytes ring pkt 0 0 0x0001 0 first s)
  ∧ (ApartRange dest bs.length (slot 1 s) 32 → ApartRange dest bs.length (ringStatus ring s) 16 →
    t.host.mem.readN dest bs.length = bs)
  ∧ ∀ a, Apart a (slot 0 s) 32 → Apart a (slot 1 s) 32 → Apart a (ringStatus ring s) 16 → Apart a dest bs.length →
      ¬SinkByte s a → t.host.mem.read a = s.host.mem.read a

/-- A packet that only answers: its single reply, and nothing else but the recorder's count of fetches where a mode is in force. -/
def Sys2Proof.OnlyAnswers (status : Nat) (eff detail : Word) (refused : Bool) (ring : BitVec 5) (pkt : List Word) (s t : State) :
    Prop :=
  OnlyUnits [.host, .recorder] s t ∧ Answered ring pkt 1 0 refused s t ∧ HostKept ring s t
  ∧ (s.rec_.mode = .off → t.rec_ = s.rec_)
  ∧ (s.host.mem.wf = true → SingleReply ring pkt status eff detail s t)

/-- The packet is turned away with a status: its single reply, and nothing else (R46). -/
def Sys2Proof.Turned (status : Nat) (ring : BitVec 5) (pkt : List Word) (s t : State) : Prop :=
  OnlyAnswers status 0 0 true ring pkt s t

/-- A packet that is accepted and ends at once: its two replies, and nothing else (R39, R41). -/
def Sys2Proof.AcceptedAndEnded (first : Word) (status : Nat) (eff detail : Word) (ring : BitVec 5) (pkt : List Word) (s t : State) :
    Prop :=
  OnlyUnits [.host, .recorder] s t ∧ Answered ring pkt 2 0 false s t ∧ HostKept ring s t
  ∧ (s.rec_.mode = .off → t.rec_ = s.rec_)
  ∧ (s.host.mem.wf = true → TwoReplies ring pkt first status eff detail 0 [] s t)

/-- The state in which the packet is fetched and its parameters are checked. -/
def Sys2Proof.taken (ring : BitVec 5) (pkt : List Word) (s : State) : State := fetch ring.toNat (headOf pkt) pkt s

/-- The state in which the packet's first reply ST_ACCEPTED is out. -/
def Sys2Proof.accepted (ring : BitVec 5) (pkt : List Word) (detail : Word) (s : State) : State :=
  accept (Tagged.of ring.toNat (headOf pkt)) detail (taken ring pkt s)

/-- Of the rings whose packets wait, and this one, the turn is this one's: ring 0 on every second turn, and the rotation of the
others after the last one served (R38). -/
def Sys2Proof.RingsTakeTurns : Prop :=
  ∀ (ring : BitVec 5) (s : State),
    let place (n : Nat) : Nat := (n + 30 - s.host.lastRing % 31) % 31
    (ring = 0 → (inTurn 0 s = true ↔
      s.host.adminLast = false ∨ ∀ n, 1 ≤ n → n ≤ 31 → waitingReady s n = false))
    ∧ (ring ≠ 0 → (inTurn ring.toNat s = true ↔
      (s.host.adminLast = true ∨ waitingReady s 0 = false)
      ∧ ∀ n, 1 ≤ n → n ≤ 31 → waitingReady s n = true → place ring.toNat ≤ place n))

/-- When a packet is not fetched (R36 to R39, R45, R262, R322, R380). -/
def Sys2Proof.UnfetchedPacketsChangeNothing : Prop :=
  ∀ (c : Instr) (ring : BitVec 5) (pkt : List Word) (s : State), packetOf c = some (ring, pkt) → c.wf = true →
    let r := s.ring ring.toNat
    let h := headOf pkt
    (s.dev.st = .cold ∨ s.dev.st = .kindling ∨ (s.dev.st = .quenched ∧ s.dev.dispute = true)
        ∨ (s.dev.st = .banked ∧ s.boot.flashDue = true) ∨ r.enable = false ∨ r.overrun = true ∨ r.held = true
        ∨ (r.doorbell - r.head).toNat < pkt.length ∨ r.records < r.rrUsed + repliesOf h.opcode
        ∨ (h.fence = true ∧ r.outstanding ≠ 0) →
      exec c s = .next s)
    ∧ (inTurn ring.toNat s = false → queueFull h s = false → exec c s = .next s)
    ∧ (ringReady ring.toNat h s = true → h.opcode = 0x40 → 255 ≤ (s.hoop h.hoop).queue.length →
      ∃ t, exec c s = .next t ∧ OnlyUnits [.west, .east] s t ∧
        Tab.get 0 (t.half (s.hoopHome h.hoop)).dampCtr 7 = (Tab.get 0 (s.half (s.hoopHome h.hoop)).dampCtr 7 + 1) % 2 ^ 64)

/-- A packet is not fetched and nothing changes while the device is COLD or KINDLING, in an undecided dispute or while the flash
image loads, while the ring is disabled, overrun or held, the packet is not whole before the tail, the reply ring has no room
for its replies, its FENCE bit waits for a final reply, or it is another ring's turn; a START_JOB that finds its hoop's queue
full waits too and counts QUEUE_FULL_WAITS. Ring 0 has every second turn where others wait, and those rotate from the one
after the last served. (A packet out of its turn leaves the queue of commands with no effect: the model's choice, log 48.) -/
def Obligations.PacketWaitsInItsRing : Prop :=
  UnfetchedPacketsChangeNothing ∧ RingsTakeTurns

/-- Steps 1 to 8 of the examination: the first failing check gives the status (R46). -/
def Sys2Proof.FirstFailingCheckDecides : Prop :=
  ∀ (ring : Nat) (h : Head) (pkt : List Word) (s : State),
    let result := examine ring h pkt s
    let mayUse := ring = 0 ∨ (s.dev.imageValid = true ∧ (Entry.f (s.img.entry 7 ring) 0 15 0).testBit h.hoop = true)
    (opInfo h.opcode = none → result = some 0x0010)
    ∧ ∀ o, opInfo h.opcode = some o →
      (pkt.length < o.minWords ∨ o.maxWords < pkt.length → result = some 0x0011)
      ∧ (o.minWords ≤ pkt.length → pkt.length ≤ o.maxWords →
          (badReserved o h pkt = true → result = some 0x0012)
          ∧ (badReserved o h pkt = false →
              (o.admin = true → ring ≠ 0 → result = some 0x0015)
              ∧ (o.wide = true → (o.admin = true → ring = 0) → result = if o.permits s.dev.st = true then none else some 0x0016)
              ∧ (o.admin = false → o.wide = false → ¬mayUse → result = some 0x0015)
              ∧ (o.admin = false → o.wide = false → mayUse →
                  (ctxValid (s.img.entry 6 h.ctx) = false ∨ ctxHoop (s.img.entry 6 h.ctx) ≠ h.hoop → result = some 0x0014)
                  ∧ (ctxValid (s.img.entry 6 h.ctx) = true → ctxHoop (s.img.entry 6 h.ctx) = h.hoop →
                      result = if halfDown h.hoop s = true then some 0x0019
                        else if o.permits s.dev.st = true then none else some 0x0016))))

/-- A packet that fails steps 1 to 8 is skipped by its LENGTH, gets one reply with KIND 1 and changes nothing else (R46). -/
def Sys2Proof.RejectedPacketGetsOneReply : Prop :=
  ∀ (c : Instr) (ring : BitVec 5) (pkt : List Word) (s : State) (st : Nat), packetOf c = some (ring, pkt) → c.wf = true →
    Fetched ring pkt s → examine ring.toNat (headOf pkt) pkt s = some st →
    ∃ t, exec c s = .next t ∧ Turned st ring pkt s t

/-- NOP, GET_STATUS and KNOT_READ answer with one reply (R48, R49, R65). -/
def Sys2Proof.PacketsThatOnlyReport : Prop :=
  ∀ (ring : BitVec 5) (pkt : List Word) (s : State),
    (nopWf pkt = true → Fetched ring pkt s → examine ring.toNat (headOf pkt) pkt s = none →
      ∃ t, exec (.nop ring pkt) s = .next t ∧ OnlyAnswers 0 0 0 false ring pkt s t)
    ∧ (Admitted 0x01 ring pkt s →
      ∃ t, exec (.getStatus ring pkt) s = .next t ∧ OnlyAnswers 0 0 s.hstStatus false ring pkt s t)
    ∧ (Admitted 0x51 ring pkt s →
      let k := (pkt.getD 1 0).toNat % 2 ^ 14
      let mine := s.img.byte 5 k = (headOf pkt).hoop + 1 ∨ s.img.byte 5 k = 17
      (¬mine → ∃ t, exec (.knotRead ring pkt) s = .next t ∧ Turned 0x0013 ring pkt s t)
      ∧ (mine →
        ∃ t, exec (.knotRead ring pkt) s = .next t ∧ OnlyAnswers 0 0 ((s.knot k).setWidth 64) false ring pkt s t))

/-- READ_COUNTERS writes the eight counters of a block at DEST (R49). -/
def Sys2Proof.CountersAreReadToHostMemory : Prop :=
  ∀ (ring : BitVec 5) (pkt : List Word) (s : State), Admitted 0x02 ring pkt s →
    let block := s.counterBlock ((pkt.getD 1 0).toNat % 256)
    let dest := (pkt.getD 2 0).toNat
    (block = none ∨ dest % 64 ≠ 0 →
      ∃ t, exec (.readCounters ring pkt) s = .next t ∧ Turned 0x0013 ring pkt s t)
    ∧ ∀ b, block = some b → dest % 64 = 0 →
      ∃ t, exec (.readCounters ring pkt) s = .next t ∧ OnlyUnits [.host, .recorder] s t ∧ Answered ring pkt 2 0 false s t
        ∧ HostKept ring s t ∧ (s.rec_.mode = .off → t.rec_ = s.rec_)
        ∧ (s.host.mem.wf = true → RingCopied ring s t
            ∧ TwoReplies ring pkt 0 0 0 0 dest (wordsBytes ((List.range 8).map fun i => BitVec.ofNat 64 (Tab.get 0 b i))) s t)

/-- OPEN_OUTPUTS and CLOSE_OUTPUTS (R51, R301, R303). -/
def Sys2Proof.OutputsOpenAndClose : Prop :=
  ∀ (ring : BitVec 5) (pkt : List Word) (s : State),
    (Admitted 0x11 ring pkt s →
      (s.dev.imageValid = false → ∃ t, exec (.openOutputs ring pkt) s = .next t ∧ Turned 0x0045 ring pkt s t)
      ∧ (s.dev.imageValid = true → s.img.confirmed = false →
        ∃ t, exec (.openOutputs ring pkt) s = .next t ∧ Turned 0x0043 ring pkt s t)
      ∧ (s.dev.imageValid = true → s.img.confirmed = true →
        ∃ t, exec (.openOutputs ring pkt) s = .next t ∧ OnlyUnits [.dev, .host, .recorder] s t ∧ Answered ring pkt 1 0 false s t
          ∧ t.dev = { s.dev with
              outputsOpen := true,
              st := if s.west.inService = true ∧ s.east.inService = true ∧ s.west.mainOut = false ∧ s.east.mainOut = false
                then .drawing else .damped }
          ∧ t.host.event.tail = if s.host.event.full = true then s.host.event.tail else s.host.event.tail + 1))
    ∧ (Admitted 0x12 ring pkt s →
      ∃ t, exec (.closeOutputs ring pkt) s = .next t ∧ OnlyUnits [.dev, .host, .recorder] s t ∧ Answered ring pkt 1 0 false s t
        ∧ t.dev = { s.dev with outputsOpen := false, st := .banked }
        ∧ t.harmless = true ∧ t.gateOpen .west = false ∧ t.gateOpen .east = false)

/-- LOAD_IMAGE and SET_TIME are checked, accepted and wait (R379, R49, R50). -/
def Sys2Proof.LoadsAndTimesAreQueued : Prop :=
  ∀ (ring : BitVec 5) (pkt : List Word) (s : State),
    (Admitted 0x10 ring pkt s →
      let src := pkt.getD 1 0
      let n := (pkt.getD 2 0).toNat % 2 ^ 32
      (src.toNat % 64 ≠ 0 ∨ n < 64 ∨ 2 ^ 30 < n → ∃ t, exec (.loadImage ring pkt) s = .next t ∧ Turned 0x0013 ring pkt s t)
      ∧ (src.toNat % 64 = 0 → 64 ≤ n → n ≤ 2 ^ 30 →
        ∃ t, exec (.loadImage ring pkt) s = .next t ∧ OnlyUnits [.host, .img, .recorder] s t ∧ Answered ring pkt 1 1 false s t
          ∧ HostKept ring s t
          ∧ t.img = { s.img with loads := s.img.loads ++ [⟨ring.toNat, (headOf pkt).tag, src, n, s.owedMoves⟩] }))
    ∧ (Admitted 0x15 ring pkt s →
      let slew := ((pkt.getD 2 0).setWidth 32).toInt
      (slew < -2000 ∨ 2000 < slew → ∃ t, exec (.setTime ring pkt) s = .next t ∧ Turned 0x0013 ring pkt s t)
      ∧ (-2000 ≤ slew → slew ≤ 2000 →
        ∃ t, exec (.setTime ring pkt) s = .next t ∧ OnlyUnits [.time, .host, .recorder] s t ∧ Answered ring pkt 1 1 false s t
          ∧ HostKept ring s t
          ∧ t.time = { s.time with armed := s.time.armed ++ [⟨ring.toNat, (headOf pkt).tag, pkt.getD 1 0, slew, s.time.hp⟩] }))

/-- RESET_HALF is refused in its final reply where the other half is down, and otherwise owed until the half serves again (R385). -/
def Sys2Proof.HalfResetIsAsked : Prop :=
  ∀ (ring : BitVec 5) (pkt : List Word) (s : State), Admitted 0x13 ring pkt s →
    let h := Half.sel ((pkt.getD 1 0).toNat % 2)
    ((s.half h.other).reset ≠ .none ∨ (s.half h.other).inService = false →
      ∃ t, exec (.resetHalf ring pkt) s = .next t ∧ AcceptedAndEnded 0 0x0019 0 0 ring pkt s t)
    ∧ ((s.half h.other).reset = .none → (s.half h.other).inService = true →
      ∃ t, exec (.resetHalf ring pkt) s = .next t ∧ OnlyUnits [.host, .west, .east, .recorder] s t
        ∧ Answered ring pkt 1 1 false s t ∧ HostKept ring s t ∧ t.half h.other = s.half h.other
        ∧ t.half h =
          if (s.half h).reset ≠ .none then
            { s.half h with resetOwed := (s.half h).resetOwed ++ [(ring.toNat, (headOf pkt).tag)], autoResets := [] }
          else { s.half h with resetOwed := (s.half h).resetOwed ++ [(ring.toNat, (headOf pkt).tag)], resetAsked := true,
                               resetSince := s.time.hp, autoResets := [] })

/-- A proposal is refused with ST_PENDING_EXISTS while another is pending. One with a fault is rejected in its final reply, which
names the fault, with nothing changed; a number other than the agreed one plus one and a size outside 64 to 32,768 bytes are
faults. One with no fault becomes the pending proposal with the digest of the image's digest, its number and its bytes.
WITHDRAW_PROPOSAL removes the pending proposal, pays its final reply and is counted; with none pending it gets ST_TOO_LATE where
the last one was completed by a CONFIRM, else ST_BAD_PARAM. (Which item a rejection names is partly the model's reading,
log 40, and so is ST_TOO_LATE.) -/
def Obligations.ProposalsWaitForTheMonitor : Prop :=
  ∀ (ring : BitVec 5) (pkt : List Word) (bytes : List Byte) (s : State),
    (Admitted 0x20 ring pkt s →
      let bs := slice bytes 0 (min ((pkt.getD 2 0).toNat % 2 ^ 32) 32768)
      let size := (pkt.getD 2 0).toNat % 2 ^ 32
      let n := s.img.agreed + 1
      let d := digest8 (toLE 8 s.img.digest.toNat ++ toLE 4 n ++ bs)
      let fault := proposalFault size bs (accepted ring pkt d s)
      (s.img.proposal.isSome = true →
        ∃ t, exec (.proposeProtection ring pkt bytes) s = .next t ∧ Turned 0x0017 ring pkt s t)
      ∧ (s.img.proposal = none →
        ∃ t, exec (.proposeProtection ring pkt bytes) s = .next t ∧
          match fault with
          | some f => AcceptedAndEnded d 0x0051 0 f.detail ring pkt s t
          | none => OnlyUnits [.host, .img, .recorder] s t ∧ HostKept ring s t ∧ Answered ring pkt 1 1 false s t
            ∧ t.img = { s.img with proposal := some ⟨n, d, bs, ring.toNat, (headOf pkt).tag, s.time.hp⟩, completed := false })
      ∧ ((bytes.getD 0 0).toNat + 256 * (bytes.getD 1 0).toNat + 65536 * (bytes.getD 2 0).toNat
            + 16777216 * (bytes.getD 3 0).toNat ≠ n ∨ size < 64 ∨ 32768 < size → fault ≠ none))
    ∧ (Admitted 0x21 ring pkt s →
      (s.img.proposal = none →
        ∃ t, exec (.withdrawProposal ring pkt) s = .next t
          ∧ Turned (if s.img.completed = true then 0x0018 else 0x0013) ring pkt s t)
      ∧ ∀ p, s.img.proposal = some p →
        ∃ t, exec (.withdrawProposal ring pkt) s = .next t ∧ OnlyUnits [.host, .img, .tally, .recorder] s t
          ∧ HostKept ring s t
          ∧ t.img = { s.img with proposal := none }
          ∧ Tab.get 0 t.tally.ctr 6 = (Tab.get 0 s.tally.ctr 6 + 1) % 2 ^ 64
          ∧ (t.ring p.ring).outstanding = (s.ring p.ring).outstanding - 1
          ∧ (t.ring ring.toNat).head = (s.ring ring.toNat).head + BitVec.ofNat 32 pkt.length
          ∧ (p.ring = ring.toNat → (t.ring p.ring).tail = (s.ring p.ring).tail + 2)
          ∧ (p.ring ≠ ring.toNat → (t.ring ring.toNat).tail = (s.ring ring.toNat).tail + 1
              ∧ (t.ring p.ring).tail = (s.ring p.ring).tail + 1)
          ∧ ∀ m, m ≠ ring.toNat → m ≠ p.ring → t.ring m = s.ring m)

/-- SET_RECORD_MODE ends, begins or replays a recording (R358, R364; log 44). -/
def Sys2Proof.RecordModeIsSet : Prop :=
  ∀ (ring : BitVec 5) (pkt : List Word) (held : List Byte) (s : State), Admitted 0x16 ring pkt s →
    let sink := pkt.getD 1 0
    let n := (pkt.getD 2 0).toNat % 2 ^ 40
    let on := (pkt.getD 3 0).getLsbD 0
    let fits := sink.toNat % 64 = 0 ∧ 4096 ≤ n ∧ n % 64 = 0 ∧ s.dev.imageValid = true ∧ s.img.confirmed = true
    (on = false → sink = 0 →
      ∃ t, exec (.setRecordMode ring pkt held) s = .next t ∧ OnlyUnits [.host, .recorder] s t ∧ Answered ring pkt 1 0 false s t
        ∧ HostKept ring s t ∧ t.rec_.mode = .off ∧ t.rec_.fed = [] ∧ t.rec_.effects = [] ∧ t.rec_.admits = [])
    ∧ (on = true ∨ sink ≠ 0 → ¬fits ∨ (on = false ∧ sinkOk (slice held 0 n) s = false) →
      ∃ t, exec (.setRecordMode ring pkt held) s = .next t ∧ Turned 0x0013 ring pkt s t ∧ t.rec_.mode = s.rec_.mode)
    ∧ (on = true → fits →
      ∃ t, exec (.setRecordMode ring pkt held) s = .next t ∧ OnlyUnits [.host, .recorder] s t ∧ Answered ring pkt 1 0 false s t
        ∧ HostKept ring s t
        ∧ t.rec_ = { Recorder.init with
            session := s.rec_.session + 1, mode := .record, sink := sink, bytes := n, digests := (pkt.getD 3 0).getLsbD 1,
            header := [s.part.serial, s.img.d0, s.time.ts, BitVec.ofNat 64 s.img.agreed] })
    ∧ (on = false → sink ≠ 0 → fits → sinkOk (slice held 0 n) s = true →
      ∃ t, exec (.setRecordMode ring pkt held) s = .next t ∧ OnlyUnits [.host, .link, .recorder] s t
        ∧ Answered ring pkt 1 0 false s t ∧ HostKept ring s t ∧ t.rec_ = replayer sink n (slice held 0 n) s
        ∧ t.link = { s.link with links := t.link.links }
        ∧ ∀ k, k < 8 → t.klink k = { s.klink k with
            st := .down, lanesOk := false, unacked := [], waiting := [], partial_ := [], found := none })

/-- SET_FRAME_RING with parameters in range and every buffer translating with write permission sets the pending ring of one key;
with one that does not translate it is refused for the address; otherwise it gets ST_BAD_PARAM. COMMIT_ROUTES of a context with
no pending ring on the port ends at once with selector bits 16; otherwise the lowest pending selector's ring becomes a commit
that waits for the next frame start, and comes into force at once where the commit need not wait; a control write whose path is
down counts once in the other half. (When a commit waits is partly the model's reading, logs 24 and 44.) -/
def Obligations.FrameRingsWaitForAFrame : Prop :=
  ∀ (ring : BitVec 5) (pkt : List Word) (s : State),
    (Admitted 0x30 ring pkt s →
      let w := (pkt.getD 1 0).toNat
      let port := w % 32
      let sel := w / 32 % 2048
      let k := 16 * port + sel
      let route := s.img.entry 10 k
      let bufs := (pkt.drop 2).map (·.toNat)
      let ok := sel < 16 ∧ w / 65536 % 32 = pkt.length - 2 ∧ s.dev.imageValid = true ∧ routeValid route = true
        ∧ routeCtx route = (headOf pkt).ctx ∧ (∀ b ∈ bufs, b % 64 = 0)
        ∧ s.pendingElsewhere port sel (headOf pkt).ctx = false ∧ (s.key k).commitOwed = false
      let reach := (probeBuffers port (headOf pkt).ctx (rcpBytes (s.img.entry 12 (routeRecipe route))) bufs (taken ring pkt s)).1
      (¬ok → ∃ t, exec (.setFrameRing ring pkt) s = .next t ∧ Turned 0x0013 ring pkt s t)
      ∧ (ok → ∃ t, exec (.setFrameRing ring pkt) s = .next t
        ∧ OnlyUnits [.host, .west, .east, .seq, .mem, .intake, .recorder, .free] s t ∧ HostKept ring s t
        ∧ (reach = false → t.intake = s.intake ∧ Answered ring pkt 1 0 true s t
            ∧ (s.host.mem.wf = true → SingleReply ring pkt 0x001B 0 0 s t))
        ∧ (reach = true → Answered ring pkt 1 0 false s t
            ∧ (s.host.mem.wf = true → SingleReply ring pkt 0 0 0 s t)
            ∧ t.key k = { s.key k with pending := some ((headOf pkt).ctx, bufs) } ∧ ∀ j, j ≠ k → t.key j = s.key j)))
    ∧ (Admitted 0x31 ring pkt s →
      let port := (pkt.getD 1 0).toNat % 32
      let mine (k : Nat) : Prop := ∃ b, (s.key k).pending = some ((headOf pkt).ctx, b)
      ((∀ i, i < 16 → ¬mine (16 * port + i)) →
        ∃ t, exec (.commitRoutes ring pkt) s = .next t ∧ AcceptedAndEnded 0 0 0 16 ring pkt s t)
      ∧ ∀ i bufs, i < 16 → (s.key (16 * port + i)).pending = some ((headOf pkt).ctx, bufs) →
        (∀ j, j < i → ¬mine (16 * port + j)) →
        let k := 16 * port + i
        let waits := s.commitWaits k (Tagged.of ring.toNat (headOf pkt))
        ∃ t, exec (.commitRoutes ring pkt) s = .next t ∧ OnlyUnits [.host, .west, .east, .intake, .recorder] s t
          ∧ HostKept ring s t ∧ (∀ j, j ≠ k → t.key j = s.key j)
          ∧ t.half s.dev.leader = s.half s.dev.leader
          ∧ t.half s.dev.leader.other =
            (if s.controlOk = true then s.half s.dev.leader.other
             else { s.half s.dev.leader.other with ctrlDropped := min 0xFFFF ((s.half s.dev.leader.other).ctrlDropped + 1) })
          ∧ (waits = true → Answered ring pkt 1 1 false s t
            ∧ t.key k = { s.key k with
                pending := none,
                commit := some (⟨ring.toNat, (headOf pkt).tag, (headOf pkt).ctx, (headOf pkt).hoop, t.rec_.fetches⟩, bufs) })
          ∧ (waits = false → Answered ring pkt 2 0 false s t
            ∧ (s.host.mem.wf = true → TwoReplies ring pkt 0 0 0 (BitVec.ofNat 64 (k % 16 + 64)) 0 [] s t)
            ∧ t.key k = { s.key k with
                pending := none, ring := bufs, ringCtx := (headOf pkt).ctx, ringGen := ((s.key k).ringGen + 1) % 65536,
                since := 0 }))

/-- START_JOB queues its job, and a free hoop admits it at once (R411, R262, R60, R57). -/
def Sys2Proof.JobsAreQueuedAndAdmitted : Prop :=
  ∀ (ring : BitVec 5) (pkt : List Word) (s : State), Admitted 0x40 ring pkt s →
    let number := (pkt.getD 1 0).toNat % 65536
    let hoop := (headOf pkt).hoop
    let q : QJob := ⟨ring.toNat, (headOf pkt).tag, (headOf pkt).ctx, number, pkt.getD 2 0, (pkt.getD 3 0).toNat % 2 ^ 48⟩
    (s.prickOff number = none ∨ prkHoop (s.prick number) ≠ hoop →
      ∃ t, exec (.startJob ring pkt) s = .next t ∧ Turned 0x0013 ring pkt s t)
    ∧ (s.prickOff number ≠ none → prkHoop (s.prick number) = hoop → (s.hoop hoop).job ≠ none →
      ∃ t, exec (.startJob ring pkt) s = .next t ∧ OnlyUnits [.host, .seq, .recorder] s t ∧ Answered ring pkt 1 1 false s t
        ∧ t.hoop hoop = { s.hoop hoop with queue := (s.hoop hoop).queue ++ [q] })
    ∧ (s.prickOff number ≠ none → prkHoop (s.prick number) = hoop → (s.hoop hoop).job = none → (s.hoop hoop).queue = [] →
        (s.hoop hoop).roundHold = [] → Tab.get [] s.img.heldHoops hoop = [] → s.rec_.mode = .off →
        (∀ l ∈ s.hoopPositions hoop, (s.place l).retest = none ∧ (s.place l).fence = false ∧ (s.place l).vacant = false) →
      ∃ t, exec (.startJob ring pkt) s = .next t ∧ Answered ring pkt 1 1 false s t ∧ (t.hoop hoop).queue = []
        ∧ (t.hoop hoop).job = some
            { q := q, st := if prkArgWords (s.prick number) = 0 then .ready else .reading, args := [],
              admitted := (s.half (s.hoopHome hoop)).ticks, t0 := 0, lastTick := 0, next := 0, steps := [], slips := 0,
              late := false, charge := 0, breached := (s.hoop hoop).breached, fault := none })

/-- CANCEL_JOB removes a queued or READY job and is too late for a running one (R52, R61). -/
def Sys2Proof.JobsAreCancelled : Prop :=
  ∀ (ring : BitVec 5) (pkt : List Word) (s : State), Admitted 0x41 ring pkt s →
    let hoop := (headOf pkt).hoop
    let names (q : QJob) : Prop := q.ring = (pkt.getD 1 0).toNat / 65536 % 32 ∧ q.tag = (pkt.getD 1 0).toNat % 65536
      ∧ q.ctx = (headOf pkt).ctx
    let u := s.hoop hoop
    ((∀ q ∈ u.queue, ¬names q) → (∀ j, u.job = some j → ¬names j.q ∨ j.st = .wedged) →
      ∃ t, exec (.cancelJob ring pkt) s = .next t ∧ Turned 0x0013 ring pkt s t)
    ∧ ((∀ q ∈ u.queue, ¬names q) → ∀ j, u.job = some j → names j.q → (j.st = .running ∨ j.st = .ending) →
      ∃ t, exec (.cancelJob ring pkt) s = .next t ∧ Turned 0x0018 ring pkt s t)
    ∧ (∀ a q b, u.queue = a ++ q :: b → (∀ x ∈ a, ¬names x) → names q →
      ∃ t, exec (.cancelJob ring pkt) s = .next t ∧ t.hoop hoop = { u with queue := a ++ b }
        ∧ (t.ring q.ring).outstanding = (s.ring q.ring).outstanding - 1)
    ∧ (∀ j, u.job = some j → u.queue = [] → names j.q → (j.st = .ready ∨ j.st = .reading) →
      ∃ t, exec (.cancelJob ring pkt) s = .next t ∧ (t.hoop hoop).job = none ∧ (t.hoop hoop).queue = []
        ∧ (t.ring j.q.ring).outstanding = (s.ring j.q.ring).outstanding - 1)

/-- KNOT_SET writes a knot of the packet's own hoop and no other (R65). -/
def Sys2Proof.KnotsAreSet : Prop :=
  ∀ (ring : BitVec 5) (pkt : List Word) (s : State), Admitted 0x50 ring pkt s →
    let k := (pkt.getD 1 0).toNat % 2 ^ 14
    (s.img.byte 5 k ≠ (headOf pkt).hoop + 1 → ∃ t, exec (.knotSet ring pkt) s = .next t ∧ Turned 0x0013 ring pkt s t)
    ∧ (s.img.byte 5 k = (headOf pkt).hoop + 1 →
      ∃ t, exec (.knotSet ring pkt) s = .next t ∧ OnlyUnits [.host, .seq, .recorder] s t ∧ Answered ring pkt 1 0 false s t
        ∧ t.knot k = (pkt.getD 2 0).setWidth 32 ∧ (∀ j, j ≠ k → t.knot j = s.knot j)
        ∧ t.seq = { s.seq with knots := t.seq.knots })

/-- BUFFER_ALLOC takes the buffer at the head of its pool's queue and advances its generation (R194, R195). -/
def Sys2Proof.BuffersAreTakenInOrder : Prop :=
  ∀ (ring : BitVec 5) (pkt : List Word) (s : State), Admitted 0x63 ring pkt s →
    let pool := (pkt.getD 1 0).toNat % 256
    let e := s.img.entry 9 pool
    (poolValid e = false ∨ poolHoop e ≠ (headOf pkt).hoop →
      ∃ t, exec (.bufferAlloc ring pkt) s = .next t ∧ Turned 0x0013 ring pkt s t)
    ∧ (poolValid e = true → poolHoop e = (headOf pkt).hoop → s.poolQueue pool = [] →
      ∃ t, exec (.bufferAlloc ring pkt) s = .next t ∧ Turned 0x0022 ring pkt s t)
    ∧ ∀ i rest, poolValid e = true → poolHoop e = (headOf pkt).hoop → s.poolQueue pool = i :: rest →
      let g := if ((s.buffer pool i).gen + 1) % 2 ^ 24 = 0 then 1 else ((s.buffer pool i).gen + 1) % 2 ^ 24
      ∃ t, exec (.bufferAlloc ring pkt) s = .next t ∧ OnlyUnits [.host, .pools, .west, .east, .recorder] s t
        ∧ Answered ring pkt 1 0 false s t
        ∧ t.buffer pool i = ⟨some (headOf pkt).ctx, g⟩ ∧ t.poolQueue pool = rest
        ∧ (∀ p j, (p, j) ≠ (pool, i) → j < 65536 → i < 65536 → t.buffer p j = s.buffer p j)
        ∧ (∀ p, p ≠ pool → t.poolQueue p = s.poolQueue p)
        ∧ HostKept ring s t
        ∧ (s.host.mem.wf = true → SingleReply ring pkt 0 0 (BitVec.ofNat 64 (pool + 2 ^ 8 * i + 2 ^ 24 * g)) s t)

/-- BUFFER_FREE frees a buffer for its owner under its generation, and refuses everybody else (R196). -/
def Sys2Proof.BuffersAreFreedByTheirOwner : Prop :=
  ∀ (ring : BitVec 5) (pkt : List Word) (s : State), Admitted 0x64 ring pkt s →
    let w := (pkt.getD 1 0).toNat
    let pool := w % 256
    let i := w / 2 ^ 8 % 2 ^ 16
    let g := w / 2 ^ 24 % 2 ^ 24
    let e := s.img.entry 9 pool
    let ours := w / 2 ^ 48 = 0 ∧ poolValid e = true ∧ poolHoop e = (headOf pkt).hoop ∧ i < poolCount e ∧ g ≠ 0
    let b := s.buffer pool i
    (ours → b.gen = g → b.owner = some (headOf pkt).ctx →
      ∃ t, exec (.bufferFree ring pkt) s = .next t ∧ OnlyUnits [.host, .pools, .west, .east, .recorder] s t
        ∧ Answered ring pkt 1 0 false s t
        ∧ t.buffer pool i = ⟨none, g⟩ ∧ t.poolQueue pool = s.poolQueue pool ++ [i]
        ∧ (∀ p j, (p, j) ≠ (pool, i) → j < 65536 → t.buffer p j = s.buffer p j)
        ∧ (∀ p, p ≠ pool → t.poolQueue p = s.poolQueue p))
    ∧ (¬(ours ∧ b.gen = g ∧ b.owner = some (headOf pkt).ctx) →
      ∃ t, exec (.bufferFree ring pkt) s = .next t ∧ OnlyUnits [.host, .west, .east, .recorder] s t
        ∧ Answered ring pkt 1 0 true s t)

/-- COPY_IN and COPY_OUT translate their whole range before they start (R192); one off its alignment or range gets ST_BAD_PARAM (the
model's choice, log 48). -/
def Sys2Proof.CopiesStartWholeOrNot : Prop :=
  ∀ (isIn : Bool) (ring : BitVec 5) (pkt : List Word) (s : State), Admitted (if isIn = true then 0x60 else 0x61) ring pkt s →
    let c := if isIn = true then Instr.copyIn ring pkt else Instr.copyOut ring pkt
    let host := pkt.getD 1 0
    let va := (pkt.getD 2 0).toNat % 2 ^ 48
    let n := (pkt.getD 3 0).toNat % 2 ^ 28
    let fits := host.toNat % 64 = 0 ∧ va % 64 = 0 ∧ n % 64 = 0 ∧ n ≠ 0
    let moves := (copyPieces (headOf pkt).ctx isIn (pieces va n) (accepted ring pkt 0 s)).1
    (¬fits → ∃ t, exec c s = .next t ∧ Turned 0x0013 ring pkt s t)
    ∧ (fits → ∃ t, exec c s = .next t ∧ OnlyUnits [.host, .img, .west, .east, .seq, .mem, .recorder, .free] s t
      ∧ HostKept ring s t ∧ t.mem.dram = s.mem.dram ∧ t.mem.shared = s.mem.shared
      ∧ (moves = none → t.img = s.img ∧ Answered ring pkt 2 0 false s t
          ∧ (s.host.mem.wf = true → TwoReplies ring pkt 0 0x001B 0 0 0 [] s t))
      ∧ ∀ pages, moves = some pages → Answered ring pkt 1 1 false s t ∧ t.img = { s.img with copies := s.img.copies ++
            [⟨isIn, ring.toNat, (headOf pkt).tag, (headOf pkt).ctx, (headOf pkt).hoop, host, va, n, pages⟩] })

/-- INVALIDATE_TRANSLATION leaves no cached entry of its range in the half, and is owed its final reply (R186); PAGES 0 gets
ST_BAD_PARAM (the model's choice, log 48). -/
def Sys2Proof.InvalidationsLeaveNoEntry : Prop :=
  ∀ (ring : BitVec 5) (pkt : List Word) (s : State), Admitted 0x62 ring pkt s →
    let base := (pkt.getD 1 0).toNat / 2 ^ 16 % 2 ^ 32 * 2 ^ 16
    let pages := (pkt.getD 2 0).toNat % 2 ^ 32
    let knot := (pkt.getD 2 0).toNat / 2 ^ 32 % 2 ^ 14
    let wants := (pkt.getD 2 0).getLsbD 63
    let ctx := (headOf pkt).ctx
    (pages = 0 ∨ (wants = true ∧ s.img.byte 5 knot ≠ (headOf pkt).hoop + 1) →
      ∃ t, exec (.invalidateTranslation ring pkt) s = .next t ∧ Turned 0x0013 ring pkt s t)
    ∧ (pages ≠ 0 → (wants = true → s.img.byte 5 knot = (headOf pkt).hoop + 1) →
      ∃ t, exec (.invalidateTranslation ring pkt) s = .next t ∧ OnlyUnits [.host, .img, .seq, .mem, .recorder] s t
        ∧ Answered ring pkt 1 1 false s t
        ∧ t.img = { s.img with invals := s.img.invals ++
            [⟨ctx, base, pages, .packet ring.toNat (headOf pkt).tag (headOf pkt).hoop (if wants = true then some knot else none),
              s.copiesOver ctx base pages⟩] }
        ∧ HostKept ring s t
        ∧ (∀ p ∈ hearthsOf (s.hoopHome (headOf pkt).hoop), ∀ l ∈ (t.hearth p).cache,
            ¬(l.ctx = ctx ∧ l.vbase < base + 65536 * pages ∧ base < l.vbase + 2 ^ l.bits))
        ∧ ∀ l ∈ t.mem.copyCache, ¬(l.ctx = ctx ∧ l.vbase < base + 65536 * pages ∧ base < l.vbase + 2 ^ l.bits))

/-! ### Work that ends later -/

/-- Every unit that a job, a copy or a fault may touch. -/
def Sys2Proof.workUnits : List DevUnit := [.dev, .host, .img, .west, .east, .seq, .mem, .out, .recorder, .free]

/-- The invalidations that outlive an image: those of packets. -/
def Sys2Proof.packetInvals (s : State) : List Inval :=
  s.img.invals.filter fun v => match v.by_ with
    | .packet .. => true
    | .step .. => false

/-- The outcome of the bytes of a load: the failing item, the failing signature, or the image that they hold (R372, R379, R381). -/
def Sys2Proof.loadResult (expected : Nat) (bs : List Byte) (s : State) : Except (Option Fail) Image :=
  match parseImage s.part s.boot.fwVersion expected bs with
  | .fails f => .error (some f)
  | .badSignature => .error none
  | .read ds =>
    match validate { discardImage s with img := imageOf bs ds } none with
    | some f => .error (some f)
    | none => .ok (imageOf bs ds)

/-- What an image load leaves (R379, R277): the new tables in force with nothing confirmed, or no image at all. -/
def Sys2Proof.LoadEnds (r : Except (Option Fail) Image) (s t : State) : Prop :=
  match r with
  | .ok i =>
    t.img = { i with d0 := imageDigest i, digest := imageDigest i, agreed := 0, confirmed := false, proposal := none,
                     loads := s.img.loads, copies := s.img.copies, invals := packetInvals s, heldHoops := [], completed := false }
    ∧ t.dev.imageValid = true ∧ t.time.schedule = 0
    ∧ ∀ h, (t.half h).vcoreMv = devVcore (i.entry 15 0) ∧ (t.half h).vsramMv = devVsram (i.entry 15 0)
  | .error _ =>
    t.img = { Image.init with loads := s.img.loads, copies := s.img.copies, invals := packetInvals s }
    ∧ t.dev.imageValid = false ∧ ∀ h, (t.half h).vcoreMv = 600 ∧ (t.half h).vsramMv = 750

/-- When the bytes of a LOAD_IMAGE or of the flash image arrive, the result is a valid image, its tables those read from the bytes,
its digest D0 and nothing confirmed, exactly where the bytes parse and every check of the validation passes; else no image at
all, with the supplies of the core back at 600 and 750 mV. The load is over either way. With no load waiting, while one of the
copies or invalidations before it runs, or out of BANKED, nothing happens. (That a load waits for BANKED is the model's choice,
log 32.) -/
def Obligations.ImagesLoadWholeOrNot : Prop :=
  (∀ (img : List Byte) (l : Load) (rest : List Load) (s : State), s.img.loads = l :: rest → l.awaits = [] → s.dev.st = .banked →
    let s0 := { s with img := { s.img with loads := rest } }
    ∃ t, exec (.imageLoad img) s = .next t ∧ LoadEnds (loadResult l.bytes (slice img 0 l.bytes) s0) s0 t
      ∧ t.boot = s.boot ∧ t.pending = s.pending ∧ t.part = s.part)
  ∧ (∀ (img : List Byte) (s : State), s.img.loads = [] ∨ s.dev.st ≠ .banked → exec (.imageLoad img) s = .next s)
  ∧ (∀ (img : List Byte) (l : Load) (rest : List Load) (s : State), s.img.loads = l :: rest → l.awaits ≠ [] →
      exec (.imageLoad img) s = .next s)
  ∧ (∀ (img : List Byte) (s : State), s.boot.flashDue = true → s.dev.st = .banked →
    let r := loadResult s.boot.imageBytes (slice img 0 s.boot.imageBytes) s
    ∃ t, exec (.flashImageAutoload img) s = .next t ∧ LoadEnds r s t
      ∧ t.boot = { s.boot with
          flashDue := false
          autoload := (match r with
            | .ok _ => 1
            | .error none => 2
            | .error (some _) => 3)
          detail := (match r with
            | .error (some f) => f.detail
            | _ => 0) }
      ∧ t.pending = s.pending ∧ t.part = s.part)

/-! ### Bytes that move -/

/-- The store of a location, 0 DRAM, 1 the shared stores, 2 host memory, and the key in it; a firebox is written by no unit this way. -/
def Sys2Proof.cellAt (s : State) (a : Nat) : Option (Nat × Nat) :=
  match s.locate a with
  | .ok (.dram c co) => some (0, dramKey c co)
  | .ok (.shared o) => some (1, o)
  | .ok (.host b) => some (2, b)
  | .ok (.fire _ _) => none
  | .error _ => none

/-- The byte of a cell. -/
def Sys2Proof.cellByte (s : State) : Nat × Nat → Byte
  | (0, k) => s.mem.dram.read k
  | (1, k) => s.mem.shared.read k
  | (_, k) => s.host.mem.read k

/-- `n` addresses that lie in cells of the device's own memory, no two in one. -/
def Sys2Proof.Plain (addr : Nat → Nat) (n : Nat) (s : State) : Prop :=
  (∀ i, i < n → ∃ k, cellAt s (addr i) = some k ∧ k.1 < 2)
  ∧ ∀ i j, i < n → j < n → cellAt s (addr i) = cellAt s (addr j) → i = j

/-- The bytes stand at their addresses, and every other cell of the device's own memory is as before. -/
def Sys2Proof.BytesMoved (addr : Nat → Nat) (bs : List Byte) (s t : State) : Prop :=
  (∀ i, i < bs.length → ∀ k, cellAt s (addr i) = some k → cellByte t k = bs.getD i 0)
  ∧ ∀ k, k.1 < 2 → (∀ i, i < bs.length → cellAt s (addr i) ≠ some k) → cellByte t k = cellByte s k

/-- Where the next record of a ring's reply ring goes, and the word of the status block that its tail is copied to (R34, R43). -/
def Sys2Proof.slotOf (ring : Nat) (s : State) : Nat :=
  (s.ring ring).rrBase.toNat + 32 * ((s.ring ring).tail.toNat % (s.ring ring).records)

/-- The word of the status block that holds a ring's reply tail (R43). -/
def Sys2Proof.tailWord (ring : Nat) (s : State) : Nat := s.host.statusBlock.toNat + 0x48 + 16 * ring

/-- The final reply of a packet stands in its ring (R41). -/
def Sys2Proof.FinalReply (k : Tagged) (status : Nat) (eff detail : Word) (s t : State) : Prop :=
  let r := s.ring k.ring
  t.ring k.ring = { r with tail := r.tail + 1, outstanding := r.outstanding - 1 }
  ∧ (∀ m, m ≠ k.ring → t.ring m = s.ring m)
  ∧ (s.host.mem.wf = true → ApartRange (slotOf k.ring s) 32 (tailWord k.ring s) 8 →
      t.host.mem.readN (slotOf k.ring s) 32
        = wordsBytes (recordWords k.tag status k.op 1 k.ring (r.tail.toNat / r.records % 2 == 0) k.ctx k.hoop eff s.time.ts detail))

/-- Host memory differs at most where a final reply goes, and in a further range. -/
def Sys2Proof.OnlyFinalReply (ring base n : Nat) (s t : State) : Prop :=
  s.host.mem.wf = true → ∀ a, Apart a (slotOf ring s) 32 → Apart a (tailWord ring s) 8 → Apart a base n →
    t.host.mem.read a = s.host.mem.read a

/-- What the end of a copy that nothing stops leaves: a copy in has put the host's bytes at its physical pieces, a copy out the bytes
of its pieces in host memory, with status 0; other memory is as before (R192). -/
def Sys2Proof.CopyMoved (c : Copy) (ring : Nat) (data : List Byte) (s t : State) : Prop :=
  let op := if c.isIn = true then 0x60 else 0x61
  (c.isIn = true → Plain (pieceAddr c.pages) c.bytes s →
    BytesMoved (pieceAddr c.pages) (slice data 0 c.bytes) s t
    ∧ (s.rec_.mode ≠ .record → FinalReply ⟨ring, c.tag, op, c.ctx, c.hoop⟩ 0 0 0 s t ∧ OnlyFinalReply ring 0 0 s t))
  ∧ (c.isIn = false → ∀ bs, readPhysPieces s s.freeCtr c.pages = .ok bs →
    FinalReply ⟨ring, c.tag, op, c.ctx, c.hoop⟩ 0 0 0 s t ∧ OnlyFinalReply ring c.host.toNat c.bytes s t
    ∧ (ApartRange c.host.toNat c.bytes (slotOf ring s) 32 → ApartRange c.host.toNat c.bytes (tailWord ring s) 8 →
        t.host.mem.readN c.host.toNat c.bytes = bs))
  ∧ (c.isIn = false → ∀ f, readPhysPieces s s.freeCtr c.pages = .error f →
    FinalReply ⟨ring, c.tag, op, c.ctx, c.hoop⟩ 0x001B 0 0 s t ∧ OnlyFinalReply ring 0 0 s t)

/-- The end of a copy removes it, pays one final reply, and a copy out changes no device memory; where nothing stopped it, the bytes
of a copy in stand at its physical pieces and those of a copy out in host memory, and no other memory is changed. An
invalidation that a copy still has to outlive does not complete; the completion of an invalidation packet removes it, pays its
final reply, counts INVALIDATIONS, and posts its knot only where one was asked for, with a value the spec does not state (a
free value, log 16); that of an INVALIDATE step ends the step's part. -/
def Obligations.CopiesAndInvalidationsEnd : Prop :=
  (∀ (ring : BitVec 5) (tag : BitVec 16) (data : List Byte) (stop : Option Nat) (fixed : List (BitVec 5)) (c : Copy) (s : State),
    s.img.copies.find? (fun c => c.ring == ring.toNat && c.tag == tag.toNat) = some c →
    ∃ t, exec (.copyDone ring tag data stop fixed) s = .next t
      ∧ OnlyUnits [.dev, .host, .img, .west, .east, .seq, .mem, .recorder, .free] s t
      ∧ t.img = Image.unawait (c.ring, c.tag) { s.img with copies := s.img.copies.erase c }
      ∧ (t.ring ring.toNat).outstanding = (s.ring ring.toNat).outstanding - 1
      ∧ (t.ring ring.toNat).tail = (s.ring ring.toNat).tail + 1
      ∧ (c.isIn = false → t.mem.dram = s.mem.dram ∧ t.mem.shared = s.mem.shared)
      ∧ (stop = none → s.Ok → (c.pages.map (·.2)).sum = c.bytes → CopyMoved c ring.toNat data s t))
  ∧ (∀ (n : Nat) (v : Inval) (s : State), s.img.invals[n]? = some v → v.awaits ≠ [] → exec (.invalidationComplete n) s = .next s)
  ∧ (∀ (n : Nat) (v : Inval) (s : State), s.img.invals[n]? = some v → v.awaits = [] →
    ∃ t, exec (.invalidationComplete n) s = .next t ∧ OnlyUnits workUnits s t
      ∧ (∀ ring tag hoop knot, v.by_ = .packet ring tag hoop knot →
          t.img = Image.unawait (ring, tag) { s.img with invals := s.img.invals.eraseIdx n }
          ∧ FinalReply ⟨ring, tag, 0x62, v.ctx, hoop⟩ 0 0 0 s t ∧ OnlyFinalReply ring 0 0 s t
          ∧ (∀ k, knot ≠ some k → t.knot k = s.knot k)
          ∧ (∀ k, knot = some k → t.knot k = BitVec.ofNat 32 (Config.freePick s.freeCtr))
          ∧ t.seq = { s.seq with knots := t.seq.knots }
          ∧ Tab.get 0 (t.half (s.hoopHome hoop)).xlatCtr 3 = (Tab.get 0 (s.half (s.hoopHome hoop)).xlatCtr 3 + 1) % 2 ^ 64)
      ∧ ∀ hoop step, v.by_ = .step hoop step → t.openPart hoop step 0 = none)

/-- Everything that a power-on or device reset resets is at its reset value, the state code, the supplies and what the entry into
KINDLING writes to the host apart (R311, R384). -/
def Sys2Proof.AtReset (s t : State) : Prop :=
  t.boot = Boot.init ∧ t.img = Image.init ∧ t.pools = ⟨[], []⟩ ∧ t.seq = Seq.init
  ∧ t.intake = Intake.init ∧ t.out = Output.init ∧ t.tally = Tally.init ∧ t.link = Kreong.init ∧ t.rec_ = Recorder.init
  ∧ t.mem = Mem.init s.freeCtr ∧ t.host.rings = [] ∧ t.host.statusBlock = 0 ∧ t.pending = s.pending ∧ t.part = s.part

/-- RESET_DEVICE and PORESET_N low leave every unit at its reset value but the queue, the part's identity and what the spec keeps;
RESET_DEVICE samples MEMPOP and goes on to KINDLING with the kindling supplies, which takes the time of their steps alone;
PORESET_N low stays in COLD. The release of PORESET_N samples MEMPOP and enters KINDLING, and does nothing where it is already
released. Values the spec does not give are those of logs 7 and 8. -/
def Obligations.TheDeviceResets : Prop :=
  (∀ (ring : BitVec 5) (pkt : List Word) (mempop : BitVec 2) (s : State), Admitted 0x14 ring pkt s →
    ∃ t, exec (.resetDevice ring pkt mempop) s = .next t ∧ AtReset s t ∧ t.dev = { Dev.init with st := .kindling }
      ∧ t.time = { Time.init with hp := t.time.hp, ts := t.time.ts } ∧ t.time.ts = BitVec.ofNat 64 (t.time.hp / 2)
      ∧ t.west = { HalfUnit.init with vcoreMv := 800, vsramMv := 850 }
      ∧ t.east = { HalfUnit.init with vcoreMv := 800, vsramMv := 850 }
      ∧ t.pins.poresetN = s.pins.poresetN ∧ t.pins.mempop = mempop)
  ∧ (∀ s : State, ∃ t, exec .poresetAssert s = .next t ∧ AtReset s t ∧ t.dev = Dev.init ∧ t.time = Time.init
      ∧ t.west = HalfUnit.init ∧ t.east = HalfUnit.init ∧ t.pins = State.reset.pins)
  ∧ (∀ (mempop : BitVec 2) (s : State),
      (s.pins.poresetN = true → exec (.poresetRelease mempop) s = .next s)
      ∧ (s.pins.poresetN = false →
        ∃ t, exec (.poresetRelease mempop) s = .next t ∧ OnlyUnits [.pins, .dev, .host, .west, .east] s t
          ∧ t.pins = { s.pins with poresetN := true, mempop := mempop } ∧ t.dev = { s.dev with st := .kindling }
          ∧ t.west = { s.west with vcoreMv := 800, vsramMv := 850 } ∧ t.east = { s.east with vcoreMv := 800, vsramMv := 850 }))

/-- A record of another size or with a reserved field fails with DETAIL 5 and one whose epoch does not rise with DETAIL 1; a
record that fails changes nothing but the replies. A record with no fault becomes the topology in force, with its epoch and
digest, the messages waiting dropped, and each link MEMBER, or as it was, its check owed, where its half is down, or IDENTIFIED or
DOWN where the device stands alone. -/
def Obligations.TopologyIsCommitted : Prop :=
  ∀ (ring : BitVec 5) (pkt : List Word) (record : List Byte) (s : State), Admitted 0x70 ring pkt s →
    let bytes := (pkt.getD 2 0).toNat % 2 ^ 32
    let r : Entry := (List.range 40).map fun i => wordAt record (8 * i)
    (bytes ≠ 320 ∨ topoReserved r = false → topoFault bytes r s = some 5)
    ∧ (bytes = 320 → topoReserved r = true → topoEpoch r ≤ s.link.epoch → topoFault bytes r s = some 1)
    ∧ (∀ d, topoFault bytes r s = some d →
      ∃ t, exec (.commitTopology ring pkt record) s = .next t ∧ AcceptedAndEnded 0 0x0060 0 (BitVec.ofNat 64 d) ring pkt s t)
    ∧ (topoFault bytes r s = none →
      ∃ t, exec (.commitTopology ring pkt record) s = .next t ∧ OnlyUnits (.link :: workUnits) s t
        ∧ t.link.epoch = topoEpoch r ∧ t.link.record = r ∧ t.link.valid = true ∧ t.link.digest = digest8 (wordsBytes r)
        ∧ t.link.inbox = [] ∧ t.link.broken = false
        ∧ (∀ k, k ∈ t.link.owed ↔ k < 8 ∧ 2 ≤ topoSize r ∧ (s.half (halfOfLink k)).inService = false)
        ∧ (t.ring ring.toNat).head = (s.ring ring.toNat).head + BitVec.ofNat 32 pkt.length
        ∧ (s.rec_.mode = .replay → ∀ k, k < 8 → (t.klink k).st = (s.klink k).st)
        ∧ (s.rec_.mode ≠ .replay → ∀ k, k < 8 → (t.klink k).st =
            if 2 ≤ topoSize r then (if (s.half (halfOfLink k)).inService = true then .member else (s.klink k).st)
            else if (s.klink k).found.isSome = true then .identified else .down))

/-! ### Steps and their parts -/

/-- Outside COLD a pace tick brings time to the tick due, moves the next tick by its length, counts the schedule while an image is
valid, and in each half not under reset counts the tick, takes the measured rate and keeps the lowest; a half under reset
keeps all three. In COLD nothing happens. -/
def Obligations.PaceTickAdvancesTime : Prop :=
  ∀ (west east : BitVec 16) (s : State),
    (s.dev.st = .cold → exec (.paceTick west east) s = .next s)
    ∧ (s.dev.st ≠ .cold →
      ∃ t, exec (.paceTick west east) s = .next t ∧ OnlyUnits (.time :: .link :: workUnits) s t
        ∧ t.time.hp = max s.time.hp s.time.nextTick ∧ t.time.nextTick = s.time.nextTick + s.time.tickHp
        ∧ t.time.tickHp = s.time.tickHp
        ∧ t.time.schedule = (if s.dev.imageValid = true then s.time.schedule + 1 else s.time.schedule)
        ∧ ∀ h, let rate := (match h with
                  | .west => west.toNat
                  | .east => east.toNat)
          ((s.half h).reset = .none → (t.half h).ticks = (s.half h).ticks + 1 ∧ (t.half h).liveRate = rate
            ∧ (t.half h).minRate = min (s.half h).minRate rate)
          ∧ ((s.half h).reset ≠ .none → (t.half h).ticks = (s.half h).ticks ∧ (t.half h).liveRate = (s.half h).liveRate
            ∧ (t.half h).minRate = (s.half h).minRate))

/-- An unpaced hoop releases its eligible steps in order, at most eight of them open (R58, R59, R70). -/
def Sys2Proof.EligibleStepsAreReleased : Prop :=
  ∀ (hoop : BitVec 4) (s : State),
    let h := hoop.toNat
    let u := s.hoop h
    (hoopPaced (s.hoopEntry h) = true ∨ u.job = none → exec (.unpacedRelease hoop) s = .next s)
    ∧ ∀ j, hoopPaced (s.hoopEntry h) = false → u.job = some j →
      ∃ t, exec (.unpacedRelease hoop) s = .next t ∧ OnlyUnits (.link :: workUnits) s t
        ∧ u.steps ≤ (t.hoop h).steps ∧ (t.hoop h).steps ≤ u.steps + 8
        ∧ ((j.st = .ready ∨ j.st = .running) → s.eligible h j false = true → u.steps < (t.hoop h).steps)
        ∧ (¬(j.st = .ready ∨ j.st = .running) ∨ s.eligible h j false = false → (t.hoop h).steps = u.steps)

/-- A job is READY when its argument words are read (R57, R60). -/
def Sys2Proof.ArgumentsAreReadBeforeReady : Prop :=
  ∀ (hoop : BitVec 4) (ecc : Ecc) (s : State),
    ((∀ j, (s.hoop hoop.toNat).job = some j → j.st ≠ .reading) → exec (.argumentReadDone hoop ecc) s = .next s)
    ∧ ∀ j, (s.hoop hoop.toNat).job = some j → j.st = .reading →
      let n := prkArgWords (s.prick j.q.pricking)
      let half := s.hoopHome hoop.toNat
      let r := (vread (.walker half) j.q.ctx j.q.args (8 * n) s).1
      (∀ bs, r = .ok bs → ecc ≠ .uncorrectable →
        ∃ t, exec (.argumentReadDone hoop ecc) s = .next t ∧ OnlyUnits workUnits s t
          ∧ t.hoop hoop.toNat = { s.hoop hoop.toNat with
              job := some { j with st := .ready, args := (List.range n).map fun i => wordAt bs (8 * i) } }
          ∧ ∀ i, i ≠ hoop.toNat → t.hoop i = s.hoop i)
      ∧ ((∀ bs, r ≠ .ok bs) ∨ ecc = .uncorrectable →
        ∃ t, exec (.argumentReadDone hoop ecc) s = .next t ∧ OnlyUnits workUnits s t
          ∧ Tab.get 0 (t.half half).seqCtr 2 = (Tab.get 0 (s.half half).seqCtr 2 + 1) % 2 ^ 64)

/-- The firebox of a hearth after a commit (R92): the landing range unspecified but for the writes, then its page-map entries
exchanged with the destination's. -/
def Sys2Proof.BoxCommitted (p : Nat) (g : Landing) (writes : List (Nat × List Byte)) (s t : State) : Prop :=
  ∃ salt,
    let z := writes.foldl (fun x w => x.write (g.land * 4096 + w.1) w.2) ((s.hearth p).scramble g.land g.pages salt)
    (t.hearth p).frames = (z.swapPages g.land g.dest g.pages).frames
    ∧ (t.hearth p).pageMap = (z.swapPages g.land g.dest g.pages).pageMap

/-- What a part of a step that stops leaves of its hearth (R99): nothing outside the landing pages, and one more ABANDONED. -/
def Sys2Proof.BoxKept (p : Nat) (g : Landing) (s t : State) : Prop :=
  (t.hearth p).pageMap = (s.hearth p).pageMap
  ∧ ((s.hearth p).frames.wf = true → ∀ a, (∀ i, i < g.pages → (s.hearth p).frameAddr a / 4096 ≠ (s.hearth p).frameAddr ((g.land + i) * 4096) / 4096) →
      (t.hearth p).byte a = (s.hearth p).byte a)
  ∧ Tab.get 0 (t.hearth p).ctr 1 = (Tab.get 0 (s.hearth p).ctr 1 + 1) % 2 ^ 64

/-- For a firebox with an injective page map and disjoint landing and destination ranges: after the writes of a group into the
landing range, every other offset reads as before; after the commit, every offset of the destination reads what was written to
the landing range, every offset of the landing range reads what the destination held, every other offset reads as before, and
the page map stays injective. -/
def Obligations.CommitExchangesThePages : Prop :=
  ∀ (x : Hearth) (land dest n salt : Nat) (writes : List (Nat × List Byte)),
    x.frames.wf = true → (∀ a b, x.frameAddr (4096 * a) = x.frameAddr (4096 * b) → a = b) →
    land + n ≤ dest ∨ dest + n ≤ land → (∀ w ∈ writes, w.1 + w.2.length ≤ 4096 * n) →
    let z := writes.foldl (fun x w => x.write (land * 4096 + w.1) w.2) (x.scramble land n salt)
    let y := z.swapPages land dest n
    (∀ a, (a < land * 4096 ∨ (land + n) * 4096 ≤ a) → z.byte a = x.byte a)
    ∧ (∀ o, o < 4096 * n → y.byte (dest * 4096 + o) = z.byte (land * 4096 + o)
        ∧ y.byte (land * 4096 + o) = x.byte (dest * 4096 + o))
    ∧ (∀ a, (a < land * 4096 ∨ (land + n) * 4096 ≤ a) → (a < dest * 4096 ∨ (dest + n) * 4096 ≤ a) → y.byte a = x.byte a)
    ∧ (∀ a b, y.frameAddr (4096 * a) = y.frameAddr (4096 * b) → a = b)
    ∧ ∀ o bs, writes = [(o, bs)] → y.bytes (dest * 4096 + o) bs.length = bs

/-- A counter of a hearth has grown by `k` (R102). -/
def Sys2Proof.Counted (p w k : Nat) (s t : State) : Prop :=
  Tab.get 0 (t.hearth p).ctr w % 2 ^ 64 = (Tab.get 0 (s.hearth p).ctr w + k) % 2 ^ 64

/-- An attention counter of a hearth has grown by `k` (R161). -/
def Sys2Proof.AttCounted (p w k : Nat) (s t : State) : Prop :=
  Tab.get 0 (t.hearth p).attCtr w % 2 ^ 64 = (Tab.get 0 (s.hearth p).attCtr w + k) % 2 ^ 64

/-- What a commit counts: the group, its rounds, the checks let through, corrected errors, saturations, escapes, rows left out
(R84, R91, R97, R99, R102, R117). -/
def Sys2Proof.CommitCounted (p rounds checks fixed sats esc nonfin : Nat) (s t : State) : Prop :=
  Counted p 0 1 s t ∧ Counted p 1 0 s t ∧ Counted p 2 rounds s t ∧ Counted p 3 checks s t ∧ Counted p 4 fixed s t
  ∧ Counted p 5 sats s t ∧ Counted p 6 esc s t ∧ Counted p 7 nonfin s t

/-- No second step works in the array of a part's hearth (R140). -/
def Sys2Proof.Alone (q : Part4) (s : State) : Prop :=
  ∀ h, s.hoopOfPos q.log = some h → computeParts h (q.log % 8) (some q.step) s = []

/-- A check of a list of those let through that counts as one of the hearth (R102). -/
def Sys2Proof.checksIn (l : List (FaultClass × Nat)) : Nat := (l.filter fun e => isCheck e.1).length

/-- A pass group commits whole or is abandoned whole (R92, R99), with its counters and the passes it started (R98, R102). -/
def Sys2Proof.PassGroupsCommitWholeOrNot : Prop :=
  ∀ (hoop : BitVec 4) (step : BitVec 20) (pos : BitVec 3) (fixed : Corrected) (q : Part4) (s : State),
    s.part4 [kPass, kAttend] hoop.toNat step.toNat pos.toNat = some q → groupOpen q s = true →
    let g := (s.groupOf q.job.q.pricking (groupDesc q s)).1
    let ps := (s.groupOf q.job.q.pricking (groupDesc q s)).2
    (∀ ws sats esc nonfin checks, passResult q s = .done ws sats esc nonfin checks →
      ∃ t, exec (.passGroupCommit hoop step pos fixed) s = .next t ∧ OnlyUnits workUnits s t
        ∧ BoxCommitted q.phys (landingOf g) ws s t ∧ (∀ p, p ≠ q.phys → t.hearth p = s.hearth p)
        ∧ (t.hearth q.phys).started = (s.hearth q.phys).started + ps.length
        ∧ CommitCounted q.phys (groupRounds g ps) (checksIn checks) fixed.store.toNat sats esc nonfin s t
        ∧ (isAppend q s = false → t.openPart hoop.toNat step.toNat pos.toNat = none)
        ∧ (isAppend q s = true → groupedPart q t = true))
    ∧ ∀ c p sats esc nonfin, passResult q s = .fault c p sats esc nonfin → Alone q s →
      ∃ t, exec (.passGroupCommit hoop step pos fixed) s = .next t ∧ OnlyUnits workUnits s t
        ∧ BoxKept q.phys (landingOf g) s t ∧ t.openPart hoop.toNat step.toNat pos.toNat = none
        ∧ (t.hearth q.phys).started = (s.hearth q.phys).started + (if c = .scaleInvalid then 0 else p + 1)
        ∧ Counted q.phys 0 0 s t ∧ Counted q.phys 4 fixed.store.toNat s t ∧ Counted q.phys 5 sats s t
        ∧ Counted q.phys 6 esc s t ∧ Counted q.phys 7 nonfin s t

/-- A transform commits whole or is abandoned whole (R141, R92, R99). -/
def Sys2Proof.TransformsCommitWholeOrNot : Prop :=
  ∀ (hoop : BitVec 4) (step : BitVec 20) (pos : BitVec 3) (fixed : Corrected) (q : Part4) (s : State),
    s.part4 [kTransform] hoop.toNat step.toNat pos.toNat = some q →
    let d := s.descUnit q.job.q.pricking (stepDesc (s.stepAt q.job.q.pricking q.step))
    (∀ ws sats esc nonfin checks, transformResult q s = .done ws sats esc nonfin checks →
      ∃ t, exec (.transformCommit hoop step pos fixed) s = .next t ∧ OnlyUnits workUnits s t
        ∧ BoxCommitted q.phys (trLanding d) ws s t ∧ (∀ p, p ≠ q.phys → t.hearth p = s.hearth p)
        ∧ CommitCounted q.phys (transformRounds d) (checksIn checks) fixed.store.toNat sats esc nonfin s t
        ∧ t.openPart hoop.toNat step.toNat pos.toNat = none)
    ∧ ∀ c p sats esc nonfin, transformResult q s = .fault c p sats esc nonfin → Alone q s →
      ∃ t, exec (.transformCommit hoop step pos fixed) s = .next t ∧ OnlyUnits workUnits s t
        ∧ BoxKept q.phys (trLanding d) s t ∧ t.openPart hoop.toNat step.toNat pos.toNat = none
        ∧ Counted q.phys 4 fixed.store.toNat s t ∧ Counted q.phys 5 sats s t ∧ Counted q.phys 6 esc s t

/-- The APPEND phase as its tokens are written (R153, R154): the tokens, whether one is past the capacity, whether every destination
translates, and the state and the fault that the writes end in. -/
structure Sys2Proof.AppendPhase where
  tokens : Nat
  past   : Bool
  reach  : Bool
  fault  : Option FaultClass
  after  : State

/-- The APPEND phase of a part: its token writes in order, from the rows that its group committed. -/
def Sys2Proof.appendPhase (q : Part4) (s : State) : AppendPhase :=
  let c := atJobOf q s
  let g := (s.groupOf q.job.q.pricking (atPass c.e)).1
  let rows := groupRows g (s.groupOf q.job.q.pricking (atPass c.e)).2
  let tk := tokensOf c g rows
  let ws := tokenWrites c (s.hearth q.phys) g rows tk
  let p := probeAll c.unit c.ctx ((List.range tk.count).flatMap ws) s
  let w := writeTokens c ws tk.count 0 p.2
  ⟨tk.count, (List.range tk.count).any fun t => decide (atKblocks c.e * 128 ≤ tk.pos t), p.1, w.2.1, w.2.2⟩

/-- FORWARD and BACKWARD commit whole or are abandoned whole (R158, R159). -/
def Sys2Proof.AttentionRunsWholeOrNot : Prop :=
  ∀ (hoop : BitVec 4) (step : BitVec 20) (pos : BitVec 3) (fixed : Corrected) (q : Part4) (s : State),
    s.part4 [kAttend] hoop.toNat step.toNat pos.toNat = some q → isAppend q s = false →
    let e := (atJobOf q s).e
    let run := runAttend q s
    let blocks := Tab.get 0 (run.2.hearth q.phys).attCtr 0 - Tab.get 0 (s.hearth q.phys).attCtr 0
    (∀ o, run.1 = .ok o →
      ∃ t, exec (.attendCommit hoop step pos fixed) s = .next t ∧ OnlyUnits workUnits s t
        ∧ BoxCommitted q.phys (atLanding e) o.writes s t
        ∧ CommitCounted q.phys (attendRounds e blocks + Config.attendWait e blocks) (if o.checked = true then 1 else 0)
            fixed.store.toNat o.sats 0 0 s t
        ∧ Tab.get 0 (t.hearth q.phys).attCtr 0 = Tab.get 0 (run.2.hearth q.phys).attCtr 0
        ∧ AttCounted q.phys 2 o.empty run.2 t ∧ AttCounted q.phys 7 (if atMode e = 2 then 1 else 0) run.2 t
        ∧ t.openPart hoop.toNat step.toNat pos.toNat = none)
    ∧ ∀ c, run.1 = .error c → Alone q s →
      ∃ t, exec (.attendCommit hoop step pos fixed) s = .next t ∧ OnlyUnits workUnits s t
        ∧ BoxKept q.phys (atLanding e) s t ∧ t.openPart hoop.toNat step.toNat pos.toNat = none

/-- The APPEND phase writes every token or is abandoned (R153, R154). -/
def Sys2Proof.AppendsWriteTheirTokens : Prop :=
  ∀ (hoop : BitVec 4) (step : BitVec 20) (pos : BitVec 3) (fixed : Corrected) (q : Part4) (s : State),
    s.part4 [kAttend] hoop.toNat step.toNat pos.toNat = some q → isAppend q s = true → groupedPart q s = true →
    let a := appendPhase q s
    (a.past = false → a.reach = true → a.fault = none →
      ∃ t, exec (.appendDone hoop step pos none fixed) s = .next t ∧ OnlyUnits workUnits s t
        ∧ t.openPart hoop.toNat step.toNat pos.toNat = none
        ∧ Counted q.phys 1 0 s t
        ∧ AttCounted q.phys 4 a.tokens s t
        ∧ t.mem.dram = a.after.mem.dram ∧ t.mem.shared = a.after.mem.shared
        ∧ ∀ p, (t.hearth p).frames = (s.hearth p).frames ∧ (t.hearth p).pageMap = (s.hearth p).pageMap)
    ∧ (a.past = true ∨ a.reach = false →
      ∃ t, exec (.appendDone hoop step pos none fixed) s = .next t ∧ OnlyUnits workUnits s t
        ∧ t.openPart hoop.toNat step.toNat pos.toNat = none ∧ Counted q.phys 1 1 s t
        ∧ t.mem.dram = s.mem.dram ∧ t.mem.shared = s.mem.shared)
    ∧ (a.past = false → a.reach = true → a.fault ≠ none → Alone q s →
      ∃ t, exec (.appendDone hoop step pos none fixed) s = .next t ∧ OnlyUnits workUnits s t
        ∧ t.openPart hoop.toNat step.toNat pos.toNat = none ∧ Counted q.phys 1 1 s t)

/-- Where FORWARD or BACKWARD succeeds, exactly the computed bytes are exchanged into the destination, its blocks, rounds and rows are
counted, and the part ends; where it faults, the hearth keeps its destination and the part ends. The append after its group
writes the keys, values and segment numbers of its tokens, counts them and ends the part, exactly where every position lies in
the capacity, every destination translates and no write faults; else it is abandoned, with no memory changed where the capacity
or a translation stops it. (Rounds of waits on memory are a free function of the descriptor, log 20.) -/
def Obligations.AttentionCommitsWholeOrNot : Prop :=
  AttentionRunsWholeOrNot ∧ AppendsWriteTheirTokens

/-- The values or the memory of a part stop it before a physical cause in a pass, or after some of its blocks, can (R99; log 17). -/
def Sys2Proof.stopsBefore (q : Part4) (pass : Nat) (s : State) : Bool :=
  let stops : GroupRes → Bool
    | .fault _ _ _ _ _ => true
    | .done _ _ _ _ _ => false
  if groupOpen q s then
    stops (passesResult (min pass ((s.groupOf q.job.q.pricking (groupDesc q s)).2.length - 1)) q s)
  else if stepKind (s.stepAt q.job.q.pricking q.step) = kTransform then stops (transformResult q s)
  else (runBlocks q (Config.freePick s.freeCtr % (atKblocks (atJobOf q s).e + 1)) { s with freeCtr := s.freeCtr + 1 }).1.toOption.isNone

/-- A cause that can strike the open part, outside detect-only mode for checks, abandons it: the page map and every page outside
the landing range are as before, ABANDONED and for a check CHECK_FAILS are counted, and the part has ended. In detect-only mode
a failed check, the duplicated write-out of a pass group apart, is let through: a pass group that its own values do not stop
commits, with its rounds and its counters. Which causes can strike is given to the model by its operands (log 10). -/
def Obligations.PhysicalCausesStopParts : Prop :=
  ∀ (hoop : BitVec 4) (step : BitVec 20) (pos : BitVec 3) (cause : FaultClass) (pass : BitVec 8) (writeOut : Bool)
    (fixed : Corrected) (q : Part4) (s : State),
    s.part4 [kPass, kTransform, kAttend] hoop.toNat step.toNat pos.toNat = some q →
    (isAppend q s = true → groupedPart q s = false) →
    physicalCause (stepKind (s.stepAt q.job.q.pricking q.step)) (groupOpen q s) cause = true →
    (isCheck cause = false ∨ s.detectOnly hoop.toNat = false ∨ (writeOut = true ∧ groupOpen q s = true) → Alone q s →
      ∃ t, exec (.passGroupAbandon hoop step pos cause pass writeOut fixed) s = .next t ∧ OnlyUnits workUnits s t
        ∧ BoxKept q.phys (openLanding q s) s t ∧ t.openPart hoop.toNat step.toNat pos.toNat = none
        ∧ Counted q.phys 0 0 s t ∧ Counted q.phys 4 fixed.store.toNat s t
        ∧ (isCheck cause = true → stopsBefore q pass.toNat s = false → Counted q.phys 3 1 s t))
    ∧ (isCheck cause = true → s.detectOnly hoop.toNat = true → groupOpen q s = true → writeOut = false →
      let g := (s.groupOf q.job.q.pricking (groupDesc q s)).1
      let ps := (s.groupOf q.job.q.pricking (groupDesc q s)).2
      ∀ ws sats esc nonfin checks, passResult q s = .done ws sats esc nonfin checks →
      ∃ t, exec (.passGroupAbandon hoop step pos cause pass writeOut fixed) s = .next t ∧ OnlyUnits workUnits s t
        ∧ BoxCommitted q.phys (landingOf g) [] s t
        ∧ (t.hearth q.phys).started = (s.hearth q.phys).started + ps.length
        ∧ (isAppend q s = false → t.openPart hoop.toNat step.toNat pos.toNat = none)
        ∧ CommitCounted q.phys (groupRounds g ps) (checksIn checks + 1) fixed.store.toNat sats esc nonfin s t)

/-- Where an element of a position stands at an uncompressed end: its group's address and its place in the group (R124, R125). -/
def Sys2Proof.elemPlace (x : End) (w y xx c : Nat) : Nat × Nat :=
  if x.lay = 2 then (x.addr + y * x.row + xx * x.plane, c)
  else (x.addr + c / blockOf x.lay * x.plane + y * x.row + xx * (blockOf x.lay * w / 8), c % blockOf x.lay)

/-- Ranges of a list that do not meet. -/
def Sys2Proof.UnitsApart (us : List Unit_) : Prop :=
  us.Pairwise fun u v => ApartRange u.addr u.bytes.length v.addr v.bytes.length

/-- A transfer reads its source, forms its units of writing, writes them in order and ends its part; where its source or a write
faults, its part ends faulted. In a firebox every unit stands at its address and every other byte is as before; from firebox to
firebox with no compression every element of the rectangle stands at its place of the destination (R124, R125, R188, R191). -/
def Sys2Proof.TransfersMoveTheirRectangle : Prop :=
  ∀ (hoop : BitVec 4) (step : BitVec 20) (pos : BitVec 3) (fixed : Corrected) (q : Part4) (s : State),
    s.part4 [kTransfer] hoop.toNat step.toNat pos.toNat = some q →
    let d := s.descUnit q.job.q.pricking (stepDesc (s.stepAt q.job.q.pricking q.step))
    let m := moveOf q s
    let w := writeList q m.1.dst (tfCmode d) m.1.us 0 m.2
    let x := s.hearth q.phys
    let wd := fmtWidth (tfFmt d)
    (m.1.srcF = none → w.2.1 = none →
      ∃ t, exec (.transferDone hoop step pos none fixed) s = .next t ∧ OnlyUnits workUnits s t
        ∧ t.openPart hoop.toNat step.toNat pos.toNat = none
        ∧ t.mem.dram = w.2.2.mem.dram ∧ t.mem.shared = w.2.2.mem.shared
        ∧ (∀ p, (t.hearth p).frames = (w.2.2.hearth p).frames ∧ (t.hearth p).pageMap = (s.hearth p).pageMap)
        ∧ (m.1.dst.box = true → x.frames.wf = true →
            (∀ a b, x.frameAddr (4096 * a) = x.frameAddr (4096 * b) → a = b) → UnitsApart m.1.us →
            t.mem.dram = s.mem.dram ∧ t.mem.shared = s.mem.shared
            ∧ (∀ u ∈ m.1.us, (t.hearth q.phys).bytes u.addr u.bytes.length = u.bytes)
            ∧ (∀ a, (∀ u ∈ m.1.us, Apart a u.addr u.bytes.length) → (t.hearth q.phys).byte a = x.byte a)
            ∧ (m.1.src.box = true → m.1.src.lay ≠ 3 → m.1.dst.lay ≠ 3 →
                ∀ i xx c, i < m.1.rows.length → xx < tfW d → c < tfCh d →
                  let from_ := elemPlace m.1.src wd (tfY d + m.1.rows.getD i 0) (tfX d + xx) c
                  let to_ := elemPlace m.1.dst wd i xx c
                  elemRead (t.hearth q.phys).byte to_.1 wd to_.2 = elemRead x.byte from_.1 wd from_.2)))
    ∧ (m.1.srcF ≠ none ∨ w.2.1 ≠ none →
      ∃ t, exec (.transferDone hoop step pos none fixed) s = .next t ∧ OnlyUnits workUnits s t
        ∧ t.openPart hoop.toNat step.toNat pos.toNat = none)

/-- A RESULT step hands its payload and its frame records to the output writer, or ends faulted (R289). -/
def Sys2Proof.ResultsAreHandedOver : Prop :=
  ∀ (hoop : BitVec 4) (step : BitVec 20) (j : Job) (r : Released) (s : State),
    s.openPart hoop.toNat step.toNat 0 = some (j, r) → stepKind (s.stepAt j.q.pricking step.toNat) = kResult →
    let e := s.stepAt j.q.pricking step.toNat
    let d := s.descUnit j.q.pricking (stepDesc e)
    let h := s.hoopHome hoop.toNat
    let p := vread (.walker h) j.q.ctx (relocated e j.args (rsSrc d)) (rsBytes d) s
    let f := (readFrames h j.q.ctx d j.args (List.range (rsFrames d)) p.2).1
    ∃ t, exec (.resultHandover hoop step) s = .next t ∧ OnlyUnits workUnits s t
      ∧ t.openPart hoop.toNat step.toNat 0 = none
      ∧ ∀ bytes, p.1 = .ok bytes → (∀ x ∈ f, x ≠ []) → s.harmless = false →
          ∃ x ∈ t.out.hands, x.stream = rsStream d ∧ x.hoop = hoop.toNat ∧ x.step = step.toNat ∧ x.payload = bytes
            ∧ x.records = f ∧ x.west = none ∧ x.east = none

/-- A collective as its contributions are reduced and its result is written (R340, R343). -/
structure Sys2Proof.CollRun where
  own   : Except FaultClass (List Byte)
  codes : List Nat
  sats  : Nat
  wrote : Except FaultClass Unit
  after : State

/-- The run of a collective on the contributions that it has gathered. -/
def Sys2Proof.collRun (c : Coll) (xs : List Contribution) (s : State) : CollRun :=
  let h := s.hoopHome c.hoop
  let r := s.topo
  let ranks := groupRanks r (clGroup c.desc)
  let p := if collSends r c.desc && clOp c.desc != 4 then
      vread (.walker h) c.job.q.ctx (relocated c.st c.job.args (clSrc c.desc)) (collBytes c.desc) s
    else (.ok [], s)
  let own := p.1.toOption.getD []
  let res := collResult c.desc (ranks.idxOf (topoRank r)) (if clOp c.desc = 5 then 2 else ranks.length) (inOrder r c.desc own xs)
  let bs := if clOp c.desc = 4 then [] else packElems (fmtWidth (clFmt c.desc)) res.1
  let w := writeResult c h bs none p.2
  ⟨p.1, res.1, res.2, w.1, w.2⟩

/-- A collective that every member has joined reads its own contribution, writes the reduction and ends its part; where the read or
the write faults, its part ends faulted (R340, R342). -/
def Sys2Proof.CollectivesReduce : Prop :=
  ∀ (hoop : BitVec 4) (step : BitVec 20) (fixed : List (BitVec 5)) (c : Coll) (xs : List Contribution) (s : State),
    s.coll hoop.toNat step.toNat = some c → s.gathered c (s.hoopHome hoop.toNat) = some xs → s.collJoined c = true →
    (clOp c.desc = 5 → ∀ x ∈ s.link.inbox, c.stale s x = false) →
    let run := collRun c xs s
    ((∃ bs, run.own = .ok bs) → run.wrote = .ok () →
      ∃ t, exec (.collectiveDone hoop step none fixed) s = .next t ∧ OnlyUnits (.link :: workUnits) s t
        ∧ t.openPart hoop.toNat step.toNat 0 = none
        ∧ Tab.get 0 t.link.ctr 0 = (Tab.get 0 s.link.ctr 0 + 1) % 2 ^ 64
        ∧ Tab.get 0 t.link.ctr 2 % 2 ^ 64 = (Tab.get 0 s.link.ctr 2 + run.sats) % 2 ^ 64
        ∧ t.link.inbox = xs.foldl (fun l x => l.erase x) s.link.inbox
        ∧ t.mem.dram = run.after.mem.dram ∧ t.mem.shared = run.after.mem.shared)
    ∧ ((∃ f, run.own = .error f) ∨ ((∃ bs, run.own = .ok bs) ∧ ∃ f, run.wrote = .error f) →
      ∃ t, exec (.collectiveDone hoop step none fixed) s = .next t ∧ OnlyUnits (.link :: workUnits) s t
        ∧ t.openPart hoop.toNat step.toNat 0 = none
        ∧ Tab.get 0 t.link.ctr 1 = (Tab.get 0 s.link.ctr 1 + 1) % 2 ^ 64)

/-- What a reduction writes for one element of contributions in rank order: in an integer format the sum limited to the format, or
the greatest or least of the values; a sum of one float contribution is that value written in the format (R343). -/
def Sys2Proof.ReductionsLimitTheirSums : Prop :=
  ∀ (fmt : Nat) (codes : List Nat), fmtInt fmt = true → codes ≠ [] →
    let vs := codes.map (intRaw fmt)
    let sum := vs.foldl (· + ·) 0
    let lo := (intRange fmt).1
    let hi := (intRange fmt).2
    (lo ≤ sum → sum ≤ hi → reduceOne 0 fmt codes = (intCode fmt sum, false))
    ∧ (sum < lo → reduceOne 0 fmt codes = (intCode fmt lo, true))
    ∧ (hi < sum → lo ≤ hi → reduceOne 0 fmt codes = (intCode fmt hi, true))
    ∧ (let m := (reduceOne 1 fmt codes).1
       m ∈ codes ∧ (∀ v ∈ vs, v ≤ intRaw fmt m))
    ∧ (let m := (reduceOne 2 fmt codes).1
       m ∈ codes ∧ ∀ v ∈ vs, intRaw fmt m ≤ v)

/-- A TRANSFER part writes the units formed of its source and ends, every element of an uncompressed rectangle standing at its place
of a firebox, or ends faulted exactly where its source or a write faults. A RESULT step's handover ends its part, and outside
the harmless state hands the payload and frame records read to the output writer with no answer yet. A collective that every
member has joined writes its reduction, takes the messages it used, is counted and ends its part, or counts a fault exactly
where the read of its contribution or the write of its result faults; integer sums are limited to the format. -/
def Obligations.TransfersHandoversAndCollectivesEnd : Prop :=
  TransfersMoveTheirRectangle ∧ ResultsAreHandedOver ∧ CollectivesReduce ∧ ReductionsLimitTheirSums

/-- A step watchdog overrun wedges the job and latches its half (R73). -/
def Sys2Proof.WatchdogWedgesTheHalf : Prop :=
  ∀ (hoop : BitVec 4) (step : BitVec 20) (j : Job) (r : Released) (s : State),
    (s.hoop hoop.toNat).job = some j → j.steps.find? (fun r => r.step == step.toNat) = some r →
    let h := s.hoopHome hoop.toNat
    let due := r.tick + wdogTicks s j step.toNat
    (j.st = .wedged ∨ (s.half h).ticks < due → exec (.stepWatchdog hoop step) s = .next s)
    ∧ (j.st ≠ .wedged → due ≤ (s.half h).ticks →
      ∃ t, exec (.stepWatchdog hoop step) s = .next t
        ∧ OnlyUnits [.dev, .host, .west, .east, .seq, .mem, .out, .recorder, .free] s t
        ∧ (t.hoop hoop.toNat).job = some { j with st := .wedged }
        ∧ (t.half h).danger = true ∧ (t.half h).inService = false
        ∧ ((s.half h).danger = false → (t.half h).latchClass = classCode .stepWatchdog)
        ∧ Tab.get 0 (t.half h).seqCtr 4 = (Tab.get 0 (s.half h).seqCtr 4 + 1) % 2 ^ 64
        ∧ ∀ i, i < 16 → i ≠ hoop.toNat → hoopValid (s.hoopEntry i) = true → s.hoopHome i = h →
            (∀ k, (s.hoop i).job = some k → k.st ≠ .wedged) → (t.hoop i).job = none ∧ (t.hoop i).queue = [])

/-- A step that waits beyond WAIT_LIMIT faults its job (R74, R75). -/
def Sys2Proof.KnotWaitsTimeOut : Prop :=
  ∀ (hoop : BitVec 4) (j : Job) (s : State), (s.hoop hoop.toNat).job = some j →
    let h := s.hoopHome hoop.toNat
    let p := s.prick j.q.pricking
    let base := if j.next = 0 then j.admitted + 1 else j.lastTick
    let due := (j.st = .ready ∨ j.st = .running) ∧ prkWaitLimit p ≠ 0 ∧ j.next < prkSteps p
      ∧ base + prkWaitLimit p ≤ (s.half h).ticks ∧ s.waitsReached (s.stepAt j.q.pricking j.next) j.args = false
    (¬due → exec (.knotWaitTimeout hoop) s = .next s)
    ∧ (due →
      ∃ t, exec (.knotWaitTimeout hoop) s = .next t ∧ OnlyUnits workUnits s t
        ∧ Tab.get 0 (t.half h).seqCtr 5 = (Tab.get 0 (s.half h).seqCtr 5 + 1) % 2 ^ 64
        ∧ (j.steps ≠ [] → t.hoop hoop.toNat = { s.hoop hoop.toNat with job := some { j with
            st := .ending, fault := some (match j.fault with
              | some f => min f j.next
              | none => j.next) } })
        ∧ (j.steps = [] → (s.hoop hoop.toNat).queue = [] →
            (t.hoop hoop.toNat).job = none
            ∧ (t.ring j.q.ring).outstanding = (s.ring j.q.ring).outstanding - 1))

/-! ### Translation, dampers and memory controllers -/

/-- A walk fills the unit's cache or faults (R183, R185, R198, R211). -/
def Sys2Proof.WalksEndInALeafOrAFault : Prop :=
  ∀ (unit : CacheUnit) (ctx : BitVec 12) (va : BitVec 48) (write : Bool) (level : BitVec 2) (ecc : Ecc) (s : State),
    let h := s.readerHalf (.unit unit)
    let walk := s.walk ctx.toNat va.toNat
    let failed := (ecc = .uncorrectable ∧ level.toNat < (s.walkReads ctx.toNat va.toNat).length) ∨ walk = none
      ∨ ∃ l, walk = some l ∧ s.grant l va.toNat write = none
    (s.unitWalks unit = false → exec (.translationWalk unit ctx va write level ecc) s = .next s)
    ∧ (s.unitWalks unit = true →
      ∃ t, exec (.translationWalk unit ctx va write level ecc) s = .next t
        ∧ OnlyUnits [.dev, .host, .west, .east, .seq, .mem, .free] s t
        ∧ t.mem.dram = s.mem.dram ∧ t.mem.shared = s.mem.shared ∧ t.seq.knots = s.seq.knots
        ∧ Tab.get 0 (t.half h).xlatCtr 0 = (Tab.get 0 (s.half h).xlatCtr 0 + 1) % 2 ^ 64
        ∧ Tab.get 0 (t.half h).xlatCtr 1 = (Tab.get 0 (s.half h).xlatCtr 1 + 1) % 2 ^ 64
        ∧ (failed → findLeaf (t.cache unit) ctx.toNat va.toNat = none
            ∧ Tab.get 0 (t.half h).xlatCtr 2 = (Tab.get 0 (s.half h).xlatCtr 2 + 1) % 2 ^ 64)
        ∧ (¬failed → Tab.get 0 (t.half h).xlatCtr 2 = Tab.get 0 (s.half h).xlatCtr 2
            ∧ ∀ l, walk = some l → l ∈ t.cache unit))

/-- An access inside one page reaches the bytes that its address translates to (R177, R181). -/
def Sys2Proof.AccessesReachTheirBytes : Prop :=
  ∀ (r : Reader) (ctx va pa : Nat) (bs : List Byte) (s : State), s.Ok →
    va < 2 ^ 48 → va % 65536 + bs.length ≤ 65536 → bs ≠ [] → Plain (pa + ·) bs.length s →
    ((translate r ctx va true s).1 = some pa →
      (vwrite r ctx va bs s).1 = .ok () ∧ BytesMoved (pa + ·) bs s (vwrite r ctx va bs s).2)
    ∧ ((translate r ctx va false s).1 = some pa →
      (vread r ctx va bs.length s).1
        = .ok ((List.range bs.length).map fun i => cellByte s ((cellAt s (pa + i)).getD (0, 0))))

/-- A walk counts a lookup and a walk of its half; where it finds a leaf that grants the access the leaf is in the unit's cache,
and where it fails, an uncorrectable error of a table read among the causes, no entry of the address is there and WALK_FAULTS
is counted. No memory and no knot changes; a unit whose flue port is closed does not walk. A write inside one page puts its
bytes at the physical addresses that its address translates to and changes no other byte of the device's memory; a read gives
the bytes there. (Which entry a full cache gives up is the model's, log 13.) -/
def Obligations.WalksFillTheCache : Prop :=
  WalksEndInALeafOrAFault ∧ AccessesReachTheirBytes

/-- A damper grants its slot's owner first, and by criticality otherwise (R18, R265, R267, R268; logs 23 and 52). -/
def Sys2Proof.DampersGrantBySlot : Prop :=
  ∀ (g : BitVec 6) (ended arrivals : List Requester) (s : State),
    let n := g.toNat
    let h := halfOfDamper n
    let x0 := endHeld (ended.filterMap (s.pendOf n)) (s.damper n)
    let x := { x0 with waiting := x0.waiting ++ arrivals.filterMap (s.pendOf n) }
    let owner := s.slotOwner n x.slotPtr
    (damperExists n = false ∨ (s.half h).reset ≠ .none → exec (.damperRequest g ended arrivals) s = .next s)
    ∧ (damperExists n = true → (s.half h).reset = .none →
      ∃ t, exec (.damperRequest g ended arrivals) s = .next t ∧ OnlyUnits [.west, .east, .mem] s t
        ∧ t.mem = { s.mem with dampers := t.mem.dampers } ∧ (∀ k, k ≠ n → t.damper k = s.damper k)
        ∧ ((∀ r ∈ x.waiting, r.input < 16) → (x.choose owner (s.fixedMode n) = none ↔ x.waiting = []))
        ∧ (x.choose owner (s.fixedMode n) = none → t.damper n = x)
        ∧ ∀ r slot, x.choose owner (s.fixedMode n) = some (r, slot) →
            x.waiting.find? (fun y => y.port == r.port) = some r
            ∧ (slot = true ↔ ∃ y ∈ heads x.waiting, y.owner = owner) ∧ (slot = true → r.owner = owner)
            ∧ t.damper n = { x with slotPtr := (x.slotPtr + 1) % 256, lastOf := x.lastOf.set r.owner r.input,
                                    lastBg := if slot = true then x.lastBg else r.input, waiting := x.waiting.erase r,
                                    held := x.held ++ [⟨r, (s.half h).ticks⟩] }
            ∧ Tab.get 0 (t.half h).dampCtr (if slot = true then 0 else 1)
                = (Tab.get 0 (s.half h).dampCtr (if slot = true then 0 else 1) + 1) % 2 ^ 64)

/-- A grant held no longer than its owner's limit stays; beyond it the grant is withdrawn, the input flagged, the cut-off counted and
the oldest unserved request of the source taken from its channel's queue, and what used the grant stops: a copy ends with its
final reply, a frame of the intake is flagged, a part of a step ends. A pass and a transform use no damper and have no grant to
lose. -/
def Obligations.HoldLimitsCutOff : Prop :=
  ∀ (g : BitVec 6) (v : Victim) (s : State),
    (s.cutGrant g.toNat v = none → exec (.damperCutoff g v) s = .next s)
    ∧ ∀ (r : Requester) (p : Pend) (limit : Nat) (grant : Grant),
      let h := halfOfDamper g.toNat
      let c := 16 * h.idx + g.toNat % 32
      damperExists g.toNat = true → s.victimSource v = some r → s.pendOf g.toNat r = some p →
      (s.damper g.toNat).held.find? (fun x => x.pend == p && decide (s.victimSince v ≤ x.tick)) = some grant →
      s.holdLimit h p.owner = some limit →
      ((s.half h).ticks - grant.tick ≤ limit → exec (.damperCutoff g v) s = .next s)
      ∧ (limit < (s.half h).ticks - grant.tick →
        ∃ t, exec (.damperCutoff g v) s = .next t ∧ OnlyUnits (.intake :: .link :: workUnits) s t
          ∧ t.damper g.toNat = { s.damper g.toNat with
              held := (s.damper g.toNat).held.erase grant, flagged := (s.damper g.toNat).flagged ||| 2 ^ p.input,
              cutoffs := min 0xFFFF ((s.damper g.toNat).cutoffs + 1) }
          ∧ Tab.get 0 (t.half h).dampCtr 2 = (Tab.get 0 (s.half h).dampCtr 2 + 1) % 2 ^ 64
          ∧ (g.toNat % 32 < 16 → (t.chan c).queue =
              (match (s.chan c).queue.find? fun q => q.req.source.toNat == p.port with
                | some q => (s.chan c).queue.erase q
                | none => (s.chan c).queue))
          ∧ (∀ ring tag c, v = .copy ring tag →
              s.img.copies.find? (fun c => c.ring == ring.toNat && c.tag == tag.toNat) = some c →
              t.img = Image.unawait (c.ring, c.tag) { s.img with copies := s.img.copies.erase c }
              ∧ (t.ring c.ring).outstanding = (s.ring c.ring).outstanding - 1)
          ∧ (∀ port sel, v = .intake port sel →
              (t.key (keyOf port.toNat sel.toNat)).frame
                = (s.key (keyOf port.toNat sel.toNat)).frame.map fun f => { f with flags := f.flags ||| 128 })
          ∧ ∀ hoop step pos, v = .step hoop step pos →
              (s.part4 [kAttend, kTransfer] hoop.toNat step.toNat pos.toNat).isSome = true →
              t.openPart hoop.toNat step.toNat pos.toNat = none)

/-- A loss of capacity sheds slots in the order of criticality (R273, R274). -/
def Sys2Proof.SheddingRebuildsTheTable : Prop :=
  ∀ (g : BitVec 6) (capacity : BitVec 9) (s : State),
    let n := g.toNat
    let h := halfOfDamper n
    let plan := shedTable s.shedOrder (s.img.slots n) capacity.toNat
    let falls := damperExists n = true ∧ shedCause n capacity.toNat = true ∧ capacity.toNat < (s.damper n).capacity
    (¬falls → exec (.damperShed g capacity) s = .next s)
    ∧ (falls →
      ∃ t, exec (.damperShed g capacity) s = .next t ∧ OnlyUnits [.dev, .host, .west, .east, .seq, .mem] s t
        ∧ (t.damper n).capacity = capacity.toNat ∧ (∀ k, k ≠ n → t.damper k = s.damper k)
        ∧ t.mem = { s.mem with dampers := t.mem.dampers }
        ∧ Tab.get 0 (t.half h).dampCtr 3 = (Tab.get 0 (s.half h).dampCtr 3 + 1) % 2 ^ 64
        ∧ (capacity.toNat < 256 → (t.damper n).table = some plan.1 ∧ plan.1.length = 256
            ∧ ∀ x ∈ plan.2, x.2.2 < x.2.1 → 1 ≤ x.1 → x.1 ≤ 16 → (t.hoop (x.1 - 1)).breached = true))

/-- Requests to a set with a LOST channel are answered with the fault and change nothing else; a channel that is off or trains takes
nothing. Otherwise the arrivals join the queues as entries are free, and an ACTIVE channel with a request that the order of its
source lets go serves one of them and has its answer: a read changes no byte and counts READS; a write merges exactly the
enabled bytes of one 64-byte block and counts WRITES, and one that must read first changes nothing where that read is
uncorrectable. Every other byte of DRAM stays. -/
def Obligations.ChannelsServeOneRequest : Prop :=
  ∀ (ch : BitVec 5) (arrivals : List DramReq) (ecc : Ecc) (ns : BitVec 16) (s : State),
    let c := ch.toNat
    let x : Channel := { s.chan c with replies := [] }
    let y := arrivals.foldl (enterQueue s.time.hp) x
    let drain := y.drains s.time.hp
    let serves := pickRequest (s.half (halfOfChan c)).rowHitFirst s.time.hp y (y.ready drain)
    ∃ t, exec (.dramRequest ch arrivals ecc ns) s = .next t ∧ OnlyUnits [.dev, .host, .west, .east, .seq, .mem] s t
      ∧ t.mem.shared = s.mem.shared
      ∧ (s.setLost c = true → t.mem.dram = s.mem.dram
          ∧ t.chan c = { x with replies := arrivals.map fun r => ⟨r.source, r.write, x.arrived, .fault .dramChannelLost⟩ })
      ∧ (s.setLost c = false → x.st = .off ∨ x.st = .training → t.chan c = x ∧ t.mem.dram = s.mem.dram)
      ∧ (s.setLost c = false → x.st ≠ .off → x.st ≠ .training →
        (x.st ≠ .active → t.chan c = y ∧ t.mem.dram = s.mem.dram)
        ∧ (x.st = .active → serves = none → t.chan c = { y with draining := drain } ∧ t.mem.dram = s.mem.dram)
        ∧ ∀ q, x.st = .active → serves = some q →
            q ∈ y.queue ∧ (∀ p ∈ y.queue, q.after p = false)
            ∧ (ecc ≠ .uncorrectable →
                (t.chan c).queue = (Channel.reenter s.time.hp { y with draining := drain, queue := y.queue.erase q }).queue)
            ∧ (⟨q.req.source, q.req.write, q.no, s.answerOf c q.req ecc⟩ : Served) ∈ (t.chan c).replies ++ (t.chan c).done
            ∧ (q.req.write = false → t.mem.dram = s.mem.dram
                ∧ Tab.get 0 (t.chan c).ctr 0 = (Tab.get 0 x.ctr 0 + 1) % 2 ^ 64)
            ∧ (q.req.write = true →
                let a := dramKey c (64 * q.req.block.toNat)
                Tab.get 0 (t.chan c).ctr 1 = (Tab.get 0 x.ctr 1 + 1) % 2 ^ 64
                ∧ (reqFull q.req = false → ecc = .uncorrectable → t.mem.dram = s.mem.dram)
                ∧ (s.mem.dram.wf = true → (reqFull q.req = true ∨ ecc ≠ .uncorrectable) →
                    t.mem.dram.readN a 64 = mergeBytes q.req.enables (s.mem.dram.readN a 64) q.req.data
                    ∧ ∀ b, (b < a ∨ a + 64 ≤ b) → t.mem.dram.read b = s.mem.dram.read b)))

/-- Self-refresh, drift tracking and ZQ calibration (R214, R215, R218). -/
def Sys2Proof.ChannelsSleepAndTrack : Prop :=
  ∀ (ch : BitVec 5) (s : State),
    let c := ch.toNat
    let x := s.chan c
    let idle := (s.half (halfOfChan c)).srIdle
    (∀ winner, x.st = .active → x.queue = [] → idle ≠ 0 →
      ∃ t, exec (.selfRefreshEntry ch winner) s = .next t ∧ OnlyUnits [.time, .mem] s t ∧ t.mem.dram = s.mem.dram
        ∧ t.time.hp = max s.time.hp (x.emptyAt + usHp idle)
        ∧ t.chan c = (match winner.filter x.holds with
            | some r => { enterQueue t.time.hp { x with openRows := [] } r with ctr := bump x.ctr 5 1 }
            | none => { x with openRows := [], st := .selfRefresh, ctr := bump x.ctr 4 1 }))
    ∧ (∀ winner, x.st ≠ .active ∨ x.queue ≠ [] ∨ idle = 0 → exec (.selfRefreshEntry ch winner) s = .next s)
    ∧ (x.st ≠ .selfRefresh → exec (.selfRefreshExit ch) s = .next s)
    ∧ (s.chanUp c = false → exec (.driftCheck ch) s = .next s ∧ exec (.zqCalibration ch) s = .next s)
    ∧ (x.st = .selfRefresh →
      ∃ t, exec (.selfRefreshExit ch) s = .next t ∧ OnlyUnits [.mem] s t ∧ t.mem.dram = s.mem.dram
        ∧ t.chan c = { x with st := .active, emptyAt := s.time.hp })
    ∧ (s.chanUp c = true →
      (∃ t, exec (.driftCheck ch) s = .next t ∧ OnlyUnits [.time, .mem] s t ∧ t.mem.dram = s.mem.dram
        ∧ t.time.hp = max s.time.hp (x.driftAt + usHp 256) ∧ t.chan c = { x with driftAt := t.time.hp })
      ∧ ∃ t, exec (.zqCalibration ch) s = .next t ∧ OnlyUnits [.time, .mem] s t ∧ t.mem.dram = s.mem.dram
        ∧ t.time.hp = max s.time.hp (x.zqAt + usHp 32000) ∧ t.chan c = { x with zqAt := t.time.hp })

/-- Refresh, temperature, scrubbing, lock loss and frequency changes (R212, R211, R217, R219; log 22). -/
def Sys2Proof.ChannelsRefreshScrubAndFail : Prop :=
  ∀ (ch : BitVec 5) (s : State),
    let c := ch.toNat
    let h := halfOfChan c
    let x := s.chan c
    (∀ pair, x.st = .active →
      ∃ t, exec (.dramRefresh ch pair) s = .next t ∧ OnlyUnits [.time, .mem] s t ∧ t.mem.dram = s.mem.dram
        ∧ t.time.hp = max s.time.hp (Tab.get 0 x.refreshAt pair.toNat + refreshEvery x.refRate)
        ∧ t.chan c = { x with openRows := (t.chan c).openRows, refreshAt := x.refreshAt.set pair.toNat t.time.hp }
        ∧ Tab.get 0 (t.chan c).openRows (Config.bankPair pair.toNat 0 % 16) = 0
        ∧ Tab.get 0 (t.chan c).openRows (Config.bankPair pair.toNat 1 % 16) = 0)
    ∧ (∀ rate, s.chanUp c = true →
      ∃ t, exec (.mr4Read ch rate) s = .next t ∧ OnlyUnits [.time, .dev, .host, .west, .east, .mem] s t
        ∧ t.mem.dram = s.mem.dram ∧ t.time.hp = max s.time.hp (x.mr4At + usHp 1000)
        ∧ (rate ≠ 3 → t.chan c = { x with refRate := rate.toNat, mr4At := t.time.hp } ∧ t.half h = s.half h)
        ∧ (rate = 3 → x.tempAt = none →
            t.chan c = { x with refRate := 3, mr4At := t.time.hp, tempAt := some t.time.hp }
            ∧ Tab.get 0 (t.half h).fgCtr 0 = (Tab.get 0 (s.half h).fgCtr 0 + 1) % 2 ^ 64))
    ∧ (∀ ecc, x.st = .active →
      ∃ t, exec (.patrolScrub ch ecc) s = .next t ∧ OnlyUnits [.mem] s t ∧ t.mem.dram = s.mem.dram
        ∧ Tab.get 0 (t.chan c).ctr 0 = (Tab.get 0 x.ctr 0 + 1) % 2 ^ 64
        ∧ (t.chan c).scrubAt = (x.scrubAt + 1) % max 1 (dataBytes x.density / 64) ∧ (t.chan c).badTimes = x.badTimes
        ∧ Tab.get 0 (t.chan c).ctr 7 = Tab.get 0 x.ctr 7
        ∧ (ecc = .corrected → Tab.get 0 (t.chan c).ctr 6 = (Tab.get 0 x.ctr 6 + 1) % 2 ^ 64
            ∧ Tab.get 0 (t.chan c).ctr 1 = (Tab.get 0 x.ctr 1 + 1) % 2 ^ 64))
    ∧ (x.st = .active ∨ x.st = .selfRefresh →
      ∃ t, exec (.phyLockLoss ch) s = .next t ∧ OnlyUnits [.dev, .host, .west, .east, .seq, .mem] s t
        ∧ t.mem.dram = s.mem.dram ∧ (t.chan c).st = .lost
        ∧ (∀ d ∈ s.setMates c, (t.chan d).queue = [] ∧ (t.chan d).stretched = [] ∧ (t.chan d).done = []
            ∧ (∀ q ∈ (s.chan d).queue,
                (⟨q.req.source, q.req.write, q.no, .fault .dramChannelLost⟩ : Served) ∈ (t.chan d).replies)
            ∧ (damperExists (damperOfChan d) = true → (t.damper (damperOfChan d)).capacity = 0))
        ∧ ((∀ d ∈ s.setMates c, (s.damper (damperOfChan d)).capacity = 0) →
            Tab.get 0 (t.half h).fgCtr 0 = (Tab.get 0 (s.half h).fgCtr 0 + 1) % 2 ^ 64))
    ∧ (x.st ≠ .active → x.st ≠ .selfRefresh → exec (.phyLockLoss ch) s = .next s)
    ∧ (x.st ≠ .active → (∀ pair, exec (.dramRefresh ch pair) s = .next s) ∧ ∀ ecc, exec (.patrolScrub ch ecc) s = .next s)
    ∧ (s.chanUp c = false → ∀ rate, exec (.mr4Read ch rate) s = .next s)
    ∧ (∀ half, s.mayChange half = false → exec (.frequencyChange half) s = .next s)
    ∧ ∀ half, s.mayChange half = true →
      ∃ t, exec (.frequencyChange half) s = .next t ∧ OnlyUnits [.dev, .host, .west, .east, .seq, .mem] s t
        ∧ ∀ k, k < 32 →
          (k / 16 ≠ half.idx → t.chan k = s.chan k)
          ∧ (k / 16 = half.idx → s.chanUp k = false ∨ (s.chan k).fsp = (s.half half).dramFsp → t.chan k = s.chan k)
          ∧ (k / 16 = half.idx → s.chanUp k = true → (s.chan k).fsp ≠ (s.half half).dramFsp →
              (t.chan k).fsp = (s.half half).dramFsp ∧ (t.chan k).st = .active ∧ (t.chan k).openRows = [])

/-! ### The intake -/

/-- Nothing of the intake but port `n` and the 16 keys of it may differ. -/
def Sys2Proof.OnlyPort (n : Nat) (s t : State) : Prop :=
  (∀ m, m ≠ n → t.port m = s.port m) ∧ (∀ k, k / 16 ≠ n → t.key k = s.key k) ∧ t.intake.decoders = s.intake.decoders

/-- A counter of a port has advanced by one. -/
def Sys2Proof.PortCounts (n w : Nat) (s t : State) : Prop :=
  Tab.get 0 (t.port n).ctr w = (Tab.get 0 (s.port n).ctr w + 1) % 2 ^ 64

/-- The fireguard of a half has gathered one more report (R325). -/
def Sys2Proof.Reports (h : Half) (s t : State) : Prop :=
  Tab.get 0 (t.half h).fgCtr 0 = (Tab.get 0 (s.half h).fgCtr 0 + 1) % 2 ^ 64

/-- The links of the sensor ports (R223, R225, R229). -/
def Sys2Proof.PortsComeAndGo : Prop :=
  ∀ (port : BitVec 5) (s : State), s.intakeUp = true →
    let n := port.toNat
    let p := s.port n
    (n < 24 → p.link = 0 → ∃ t, exec (.aphyPartnerDetected port) s = .next t ∧ OnlyUnits [.intake] s t
      ∧ t.port n = { p with link := 1, gear := 0 } ∧ OnlyPort n s t ∧ t.intake.keys = s.intake.keys)
    ∧ (∀ gear : BitVec 3, n < 24 → p.link = 1 → 1 ≤ gear.toNat → gear.toNat ≤ 5 →
      ∃ t, exec (.aphyLinkTrained port gear) s = .next t ∧ OnlyUnits [.intake] s t
        ∧ t.port n = { p with link := 2, gear := gear.toNat } ∧ OnlyPort n s t ∧ t.intake.keys = s.intake.keys)
    ∧ (24 ≤ n → ∃ t, exec (.networkLinkUp port) s = .next t ∧ OnlyUnits [.intake] s t
      ∧ t.port n = { p with link := 2 } ∧ OnlyPort n s t ∧ t.intake.keys = s.intake.keys)
    ∧ (n < 24 → p.link ≠ 0 → ∃ t, exec (.aphyLockLoss port) s = .next t ∧ OnlyUnits [.host, .intake] s t
      ∧ t.port n = { p with link := 1, gear := 0, found := [], mismatch := false } ∧ OnlyPort n s t
      ∧ ∀ i, i < 16 → (t.key (keyOf n i)).frame = none)
    ∧ (24 ≤ n → ∃ t, exec (.networkLinkDown port) s = .next t ∧ OnlyUnits [.host, .intake] s t
      ∧ (t.port n).link = 0 ∧ OnlyPort n s t
      ∧ ∀ i, i < 16 → (t.key (keyOf n i)).lidar = none
          ∧ ((s.key (keyOf n i)).lidar ≠ none → (t.key (keyOf n i)).frame = none))
    ∧ ∀ sel : BitVec 4, 24 ≤ n → (s.key (keyOf n sel.toNat)).lidar ≠ none →
      ∃ t, exec (.lidarSilence port sel) s = .next t ∧ OnlyUnits [.time, .host, .intake] s t ∧ OnlyPort n s t
        ∧ t.time.hp = max s.time.hp ((s.key (keyOf n sel.toNat)).lidarAt + usHp 100000)
        ∧ (t.key (keyOf n sel.toNat)).lidar = none ∧ (t.key (keyOf n sel.toNat)).frame = none
        ∧ t.port n = { s.port n with mismatch := t.portMismatch n }
        ∧ ∀ k, k ≠ keyOf n sel.toNat → t.key k = s.key k

/-- Discovery of a camera: the scripts of the port's routes go out in order, each write after the acknowledgement of the one before,
so that one more than the `acked` acknowledged writes have gone out when one is not answered (R223, R224). -/
def Sys2Proof.CamerasAreDiscovered : Prop :=
  ∀ (port : BitVec 5) (identity : List Byte) (acked : Nat) (s : State), s.intakeUp = true →
    let n := port.toNat
    let b := slice identity 0 256
    let script := s.portScript n
    (24 ≤ n ∨ (s.port n).link ≠ 2 → exec (.cameraDiscoveryDone port identity acked) s = .next s)
    ∧ (n < 24 → (s.port n).link = 2 → identityOk b = false ∨ acked < script.length →
      ∃ t, exec (.cameraDiscoveryDone port identity acked) s = .next t ∧ OnlyUnits [.dev, .host, .west, .east, .intake] s t
        ∧ OnlyPort n s t ∧ Reports s.dev.leader s t
        ∧ t.port n = { s.port n with link := 0, gear := 0,
                                     script := if identityOk b = true then script.take (acked + 1) else [] })
    ∧ (n < 24 → (s.port n).link = 2 → identityOk b = true → script.length ≤ acked →
      ∃ t, exec (.cameraDiscoveryDone port identity acked) s = .next t ∧ OnlyUnits [.dev, .host, .west, .east, .intake] s t
        ∧ OnlyPort n s t
        ∧ t.port n = { s.port n with link := 3, identity := b, found := identityChannels b, seen := 0, script := script,
                                     mismatch := (List.range 16).any fun i => s.mismatched n i (wordAt b 16) }
        ∧ (t.port n).mismatch = t.portMismatch n
        ∧ ∀ i, i < 16 → t.key (keyOf n i) = { s.key (keyOf n i) with resync := true, prevCtr := none, prevTime := none })

/-- Writes of a frame's bytes at offsets of its buffer, one after another through the port's cache: whether each went through, and
the state after them (R235). -/
def Sys2Proof.putBytes (port : BitVec 5) (f : Frame) : List (Nat × List Byte) → State → Bool × State
  | [], s => (true, s)
  | w :: l, s =>
    let r := vwrite (.unit (.port port)) f.ctx (f.buffer + w.1) w.2 s
    let q := putBytes port f l r.2
    ((match r.1 with
      | .ok _ => true
      | .error _ => false) && q.1, q.2)

/-- The bytes that a line of a routed camera frame adds to its buffer: in COPY mode the line behind what is there, up to the frame
record; of an image the positions of the row that the line completes (R244 to R246). -/
def Sys2Proof.lineWrites (f : Frame) (line : List Byte) : List (Nat × List Byte) :=
  let rc := f.recipe
  let l := fitLine (lineBytes (rcpInDt rc) (rcpWidth rc)) line
  let row (y : Nat) (px : Nat → Nat → List Nat) : List (Nat × List Byte) :=
    (List.range (tensorDims rc).2).flatMap fun x => positionWrites rc y x (codesOf rc px x)
  if rcpOutMode rc = 3 then [(f.bytes, line.take (rcpBytes rc - 64 - f.bytes))]
  else if rcpHeight rc ≤ f.units then []
  else if rcpOutMode rc = 2 then
    match f.held with
    | none => []
    | some l0 => row (f.units / 2) fun r x => lineSamples (rcpInDt rc) (if r = 0 then l0 else l) x
  else row f.units fun _ x => lineSamples (rcpInDt rc) l x

/-- What a frame's writes leave: the device's memory is what they make it and a failed one is flagged; with the path of its context's
half down nothing is written, with its flag (R21, R235, R242). -/
def Sys2Proof.FrameWritten (port : BitVec 5) (f f' : Frame) (ws : List (Nat × List Byte)) (s t : State) : Prop :=
  let up := (s.half (s.ctxHalf f.ctx)).pathOk
  let r := putBytes port f ws s
  (up = true → t.mem.dram = r.2.mem.dram ∧ t.mem.shared = r.2.mem.shared ∧ (r.1 = false → f'.flags.testBit 7 = true)
    ∧ (r.1 = true → f'.flags.testBit 7 = f.flags.testBit 7))
  ∧ (up = false → t.mem.dram = s.mem.dram ∧ t.mem.shared = s.mem.shared
    ∧ ((∃ w ∈ ws, w.2 ≠ []) → f'.flags.testBit 8 = true))

/-- A camera packet whose header did not come through is counted and flags the open frame, and nothing else happens (R222). -/
def Sys2Proof.HeaderLost (c : Instr) (n k : Nat) (s : State) : Prop :=
  ∃ t, exec c s = .next t ∧ OnlyUnits [.intake] s t ∧ OnlyPort n s t ∧ PortCounts n 4 s t ∧ (∀ j, j ≠ k → t.key j = s.key j)
    ∧ t.key k = { s.key k with frame := (s.key k).frame.map fun f => { f with flags := f.flags ||| 16 } }

/-- Frame start and frame end (R222, R234, R236, R238; logs 24 and 25). -/
def Sys2Proof.CameraFramesOpenAndClose : Prop :=
  ∀ (port : BitVec 5) (vc : BitVec 4) (header : Header) (s : State), s.intakeUp = true → s.camReceives port.toNat = true →
    let n := port.toNat
    let k := keyOf n vc.toNat
    let taken := s.stray k = false ∨ s.ownerLeaves k = true
    HeaderLost (.frameStart port vc .uncorrectable) n k s ∧ HeaderLost (.frameEnd port vc .uncorrectable) n k s
    ∧ (header ≠ .uncorrectable → ¬taken → ∃ t, exec (.frameStart port vc header) s = .next t ∧ OnlyUnits [.intake] s t
      ∧ t.intake.keys = s.intake.keys ∧ PortCounts n 0 s t ∧ PortCounts n 3 s t
      ∧ (header = .corrected → PortCounts n 4 s t))
    ∧ (header ≠ .uncorrectable → taken →
      ∃ t f, exec (.frameStart port vc header) s = .next t
        ∧ OnlyUnits [.host, .west, .east, .seq, .mem, .intake, .free] s t
        ∧ (∀ j, j ≠ k → t.key j = s.key j) ∧ PortCounts n 0 s t ∧ (header = .corrected → PortCounts n 4 s t)
        ∧ (t.key k).frame = some f ∧ f.seq = (s.key k).seq + 1 ∧ f.start = s.time.ts ∧ f.units = 0 ∧ f.counter = none
        ∧ (t.key k).seq = (s.key k).seq + 1 ∧ (t.key k).lastStart = some s.time.hp ∧ (t.key k).stalled = false
        ∧ (∀ old, (s.key k).frame = some old → (t.key k).closed.length = (s.key k).closed.length + 1)
        ∧ ((s.key k).heldRoute = none → (s.key k).commit = none →
            (t.key k).ring = (s.key k).ring ∧ f.route = s.routeOf k ∧ f.recipe = s.recipeOf k
            ∧ (f.routed = s.takesIn k .live)
            ∧ (f.routed = true → f.buffer = (s.key k).ring.getD ((s.key k).since % (s.key k).ring.length) 0
                ∧ (t.key k).since = (s.key k).since + 1))
        ∧ (∀ r, (s.key k).heldRoute = some r → s.rec_.mode ≠ .replay → s.controlOk = true →
            (t.key k).heldRoute = none ∧ f.route = s.img.entry 10 k)
        ∧ (f.routed = true → (s.key k).commit = none → ∀ w : Bool, (putBytes port f [(rcpBytes f.recipe - 64, f.filling k)] s).1 = w →
            f.flags.testBit 7 = !w)
        ∧ (f.routed = true → (s.key k).commit = none → let r := putBytes port f [(rcpBytes f.recipe - 64, f.filling k)] s
            t.mem.dram = r.2.mem.dram ∧ t.mem.shared = r.2.mem.shared)
        ∧ (f.routed = false → PortCounts n 3 s t ∧ t.mem = s.mem))
    ∧ (header ≠ .uncorrectable → ∃ t, exec (.frameEnd port vc header) s = .next t ∧ OnlyUnits [.intake] s t
      ∧ (∀ j, j ≠ k → t.key j = s.key j) ∧ (header = .good → t.intake.ports = s.intake.ports)
      ∧ (header = .corrected → PortCounts n 4 s t) ∧ (t.key k).frame = none
      ∧ ∀ f, (s.key k).frame = some f → (t.key k).closed.length = (s.key k).closed.length + 1)

/-- Long packets and embedded data (R222, R235, R240, R244 to R246; log 24). -/
def Sys2Proof.CameraLinesAreTakenIn : Prop :=
  ∀ (port : BitVec 5) (vc : BitVec 4) (payload : List Byte) (crcOk : Bool) (header : Header) (s : State),
    s.intakeUp = true → s.camReceives port.toNat = true →
    let n := port.toNat
    let k := keyOf n vc.toNat
    (∀ dt : BitVec 6, dt.toNat ≠ 0x12 →
      HeaderLost (.csi2LongPacket port vc dt payload crcOk .uncorrectable) n k s
      ∧ (header ≠ .uncorrectable → csiType dt.toNat = none →
        ∃ t, exec (.csi2LongPacket port vc dt payload crcOk header) s = .next t ∧ OnlyUnits [.intake] s t ∧ PortCounts n 5 s t
          ∧ (header = .corrected → crcOk = true → PortCounts n 4 s t) ∧ (header = .good → crcOk = false → PortCounts n 4 s t))
      ∧ ∀ f y, header ≠ .uncorrectable → csiType dt.toNat = some y → (s.key k).frame = some f →
        ∃ t f', exec (.csi2LongPacket port vc dt payload crcOk header) s = .next t
          ∧ OnlyUnits [.host, .west, .east, .seq, .mem, .intake, .free] s t ∧ (∀ j, j ≠ k → t.key j = s.key j)
          ∧ (t.key k).frame = some f' ∧ f'.units = f.units + 1 ∧ f'.seq = f.seq
          ∧ f'.payload = (if f.routed = true then f.payload ++ payload else f.payload)
          ∧ f'.crcState = payload.foldl crc32cByte f.crcState
          ∧ (header = .corrected → crcOk = true → PortCounts n 4 s t) ∧ (header = .good → crcOk = false → PortCounts n 4 s t)
          ∧ (crcOk = false → f'.flags.testBit 4 = true) ∧ (f.routed = false → t.mem = s.mem ∧ t.seq = s.seq)
          ∧ (f.routed = true → FrameWritten port f f' (lineWrites f payload) s t
              ∧ f'.bytes = if rcpOutMode f.recipe = 3 then f.bytes + (payload.take (rcpBytes f.recipe - 64 - f.bytes)).length
                  else f.bytes))
    ∧ HeaderLost (.embeddedData port vc payload crcOk .uncorrectable) n k s
    ∧ ∀ f, header ≠ .uncorrectable → (s.port n).link = 3 → (s.key k).frame = some f →
      let w := wordAt (s.port n).identity 24
      let placed := if w.getLsbD 48 = true then f.units = 0 ∧ f.embedded = none else f.units ≠ 0
      let fits := w.toNat % 2 ^ 16 + 4 ≤ payload.length ∧ w.toNat / 2 ^ 16 % 2 ^ 16 + 8 ≤ payload.length
        ∧ w.toNat / 2 ^ 32 % 2 ^ 16 + 4 ≤ payload.length
      ∃ t f', exec (.embeddedData port vc payload crcOk header) s = .next t ∧ OnlyUnits [.intake] s t
        ∧ (∀ j, j ≠ k → t.key j = s.key j) ∧ (t.key k).frame = some f' ∧ f'.units = f.units
        ∧ (placed → fits → f'.embedded = some payload ∧ f'.counter = some (ofLE (slice payload (w.toNat % 2 ^ 16) 4))
            ∧ f'.time = some (wordAt payload (w.toNat / 2 ^ 16 % 2 ^ 16))
            ∧ f'.crcRx = some (ofLE (slice payload (w.toNat / 2 ^ 32 % 2 ^ 16) 4)))
        ∧ (¬(placed ∧ fits) → f' = { f with flags := f'.flags })

/-- The completion takes the oldest closed frame of its key and no other; for a routed frame it writes the COMPLETE record in the last
64 bytes of the frame's buffer and changes no other byte of the device's memory, counts FRAMES, and E2E_FAIL where a check
failed, and sets exactly its frame knot to the frame's value; for an unrouted one no memory, knot or counter of a port changes.
A commit that waited for the frame is answered with its final reply. (Fields that never arrived are free values, log 25.) -/
def Obligations.FramesComplete : Prop :=
  ∀ (port : BitVec 5) (sel : BitVec 4) (ecc : Ecc) (s : State), s.intakeUp = true →
    let k := keyOf port.toNat sel.toNat
    ((s.key k).closed = [] → exec (.frameComplete port sel ecc) s = .next s)
    ∧ ∀ f rest, (s.key k).closed = f :: rest →
      let g := f.resolve k
      let done := if ecc = .uncorrectable ∧ f.fed = none then { g with flags := g.flags ||| 128 } else g
      let va := f.buffer + (rcpBytes f.recipe - 64)
      ∃ t, exec (.frameComplete port sel ecc) s = .next t
        ∧ OnlyUnits [.dev, .host, .west, .east, .seq, .mem, .intake, .out, .recorder, .free] s t
        ∧ t.key k = { s.key k with closed := rest } ∧ (∀ j, j ≠ k → t.key j = s.key j)
        ∧ (f.routed = true → PortCounts port.toNat 1 s t
            ∧ (f.flags &&& 1535 ≠ 0 → PortCounts port.toNat 2 s t)
            ∧ ∀ v, f.knot = some v → t.knot (routeKnot f.route) = BitVec.ofNat 32 v)
        ∧ (f.routed = true → s.Ok → s.rec_.mode ≠ .record → va < 2 ^ 48 → va % 65536 + 64 ≤ 65536 → ∀ pa,
            (translate (.unit (.port port)) f.ctx va true s).1 = some pa → Plain (pa + ·) 64 s →
            BytesMoved (pa + ·) (done.complete s.now) s t)
        ∧ (∀ c, f.commit = some c → (t.ring c.ring).outstanding = (s.ring c.ring).outstanding - 1
            ∧ (t.ring c.ring).tail = (s.ring c.ring).tail + 1)
        ∧ (f.routed = false → t.mem = s.mem ∧ t.seq = s.seq ∧ t.intake.ports = s.intake.ports)
        ∧ (∀ q, f.routed = false ∨ f.knot = none ∨ q ≠ routeKnot f.route → t.knot q = s.knot q)

/-- A packet that is not for the classifier or matches nothing is counted UNMATCHED; one with a bad checksum is counted and flags
the open frames of the port; one that matches an unexpected entry is counted UNEXPECTED; one of an expected entry with a right
header keeps its sensor alive, and a first packet opens the next frame with the header's counter and time. A later packet is
checked whole, also where it is of another FRAME, and its points go behind those in the frame's buffer. -/
def Obligations.LidarPacketsAreClassified : Prop :=
  ∀ (port : BitVec 5) (frame : List Byte) (s : State), s.intakeUp = true → 24 ≤ port.toNat → (s.port port.toNat).link = 2 →
    let n := port.toNat
    (parseEther frame = .unmatched →
      ∃ t, exec (.lidarPacket port frame) s = .next t ∧ OnlyUnits [.intake] s t ∧ t.intake.keys = s.intake.keys
        ∧ PortCounts n 5 s t)
    ∧ (parseEther frame = .badChecksum →
      ∃ t, exec (.lidarPacket port frame) s = .next t ∧ OnlyUnits [.intake] s t ∧ OnlyPort n s t ∧ PortCounts n 4 s t
        ∧ ∀ i, i < 16 → (t.key (keyOf n i)).frame
            = (s.key (keyOf n i)).frame.map fun f => { f with flags := f.flags ||| 16 })
    ∧ ∀ p, parseEther frame = .packet p →
      let b := p.payload
      let here := (List.range 16).find? fun i => s.dev.imageValid && clsMatch (s.clsOf (keyOf n i) (ldFirst b)) p
      (here = none → ∃ t, exec (.lidarPacket port frame) s = .next t ∧ OnlyUnits [.intake] s t
        ∧ t.intake.keys = s.intake.keys ∧ PortCounts n 5 s t)
      ∧ ∀ i, here = some i →
        let e := s.clsOf (keyOf n i) (ldFirst b)
        let k := keyOf n i
        let taken := s.stray k = false ∨ (ldFirst b = true ∧ s.ownerLeaves k = true)
        (clsExpected e = false → ∃ t, exec (.lidarPacket port frame) s = .next t ∧ OnlyUnits [.intake] s t
          ∧ t.intake.keys = s.intake.keys ∧ PortCounts n 6 s t)
        ∧ (clsExpected e = true → ldOk b = false → ∃ t, exec (.lidarPacket port frame) s = .next t
          ∧ OnlyUnits [.intake] s t ∧ t.intake.keys = s.intake.keys ∧ PortCounts n 5 s t)
        ∧ (clsExpected e = true → ldOk b = true →
          ∃ t, exec (.lidarPacket port frame) s = .next t
            ∧ OnlyUnits [.dev, .host, .west, .east, .seq, .mem, .intake, .free] s t
            ∧ (∀ j, j ≠ k → t.key j = s.key j) ∧ (t.key k).lidar ≠ none ∧ (t.key k).lidarAt = s.time.hp
            ∧ (¬taken → (t.key k).frame = (s.key k).frame ∧ (t.key k).seq = (s.key k).seq ∧ t.mem = s.mem)
            ∧ (taken → ldFirst b = true →
                (t.key k).lidar = some (ldSerial b) ∧ (t.key k).seq = (s.key k).seq + 1
                ∧ (ldLast b = true → (t.key k).frame = none)
                ∧ (ldLast b = false → ∃ f, (t.key k).frame = some f ∧ f.counter = some (ldFrame b)
                    ∧ f.time = some (ldTime b) ∧ f.units = 1))
            ∧ (taken → ldFirst b = false → (s.key k).frame = none → PortCounts n 4 s t ∧ t.mem = s.mem)
            ∧ (taken → ldFirst b = false → ∀ f, (s.key k).frame = some f →
                (ldLast b = true → (t.key k).frame = none)
                ∧ (ldLast b = false → ∃ f', (t.key k).frame = some f' ∧ f'.units = f.units + 1 ∧ f'.lastTime = ldTime b
                    ∧ f'.nextPkt = ldPacket b + 1
                    ∧ ((crc32c (b.take 32 ++ ldPoints b)).toNat ≠ ldCrc b → f'.flags.testBit 0 = true)
                    ∧ (ldPacket b ≠ f.nextPkt ∨ f.counter ≠ some (ldFrame b) ∨ serialOk f.route (ldSerial b) = false →
                        f'.flags.testBit 5 = true)
                    ∧ ((ldTime b).toNat < f.lastTime.toNat → f'.flags.testBit 2 = true)
                    ∧ (f.routed = true → (s.key k).lidar ≠ none →
                        FrameWritten port f f' [(f.bytes, (ldPoints b).take (rcpBytes f.recipe - 64 - f.bytes))] s t))))

/-- The decoder has gone on to the next sample, and at the end of the epoch has stopped with DONE posted (R251). -/
def Sys2Proof.NextSample (d : Nat) (e : Entry) (x : Decoder) (t : State) : Prop :=
  (t.dec d).t = x.t + 1 ∧ (t.dec d).picture = 0 ∧ (x.t + 1 < x.n → (t.dec d).running = true)
  ∧ (x.n ≤ x.t + 1 → (t.dec d).running = false ∧ t.knot (decDone e) = BitVec.ofNat 32 x.epoch)

/-- With credit and not running, a decoder reads its control block and starts the epoch the block says, or marks the credit bad
with a report. At a sample's first picture it reads the sample's entry and bitstream; a sample that cannot be read or decoded is
skipped with a report; a decoded picture is delivered as one frame of the decoder's key, and after the sample's last picture the
next sample follows, with DONE posted after the epoch's last. An agreement's change of the decoder's entry takes effect with the
frame. Without credit nothing happens. (What a bitstream decodes to is a free value of the bitstream, log 11.) -/
def Obligations.DecodersDeliverSamples : Prop :=
  ∀ (d : BitVec 2) (s : State), s.intakeUp = true →
    let x := s.dec d.toNat
    let e := s.decEntry d.toNat
    let credit := s.decUsed d.toNat = true ∧ s.decCredit d.toNat = true
    let units : List DevUnit := [.dev, .host, .west, .east, .seq, .mem, .intake, .free]
    (¬credit ∨ x.running = true ∨ x.ctrlBad = some (s.knot (decCredit e)) → exec (.decoderEpochStart d) s = .next s)
    ∧ (credit → x.running = false → x.ctrlBad ≠ some (s.knot (decCredit e)) →
      let r := (decRead d.toNat (decCtrl e) 64 s).1
      ∃ t, exec (.decoderEpochStart d) s = .next t ∧ OnlyUnits units s t ∧ (∀ k, t.key k = s.key k)
        ∧ (∀ b, r = some b → ctrlOk b = true →
            (t.dec d.toNat).running = true ∧ (t.dec d.toNat).t = 0 ∧ (t.dec d.toNat).picture = 0
            ∧ (t.dec d.toNat).epoch = (wordAt b 8).toNat % 2 ^ 32 ∧ (t.dec d.toNat).n = (wordAt b 8).toNat / 2 ^ 32
            ∧ (t.dec d.toNat).seed = wordAt b 0 ∧ (t.dec d.toNat).table = (wordAt b 16).toNat % 2 ^ 48
            ∧ Tab.get 0 (t.dec d.toNat).ctr 0 = (Tab.get 0 x.ctr 0 + 1) % 2 ^ 64)
        ∧ ((∀ b, r = some b → ctrlOk b = false) →
            (t.dec d.toNat).running = false ∧ (t.dec d.toNat).ctrlBad = some (s.knot (decCredit e)) ∧ Reports s.dev.leader s t))
    ∧ (¬credit ∨ x.running = false → exec (.decodedPicture d) s = .next s)
    ∧ (credit → x.running = true →
      let o := if x.picture = 0 then openSample d.toNat s else (some x.entry, s)
      let pic := o.1.bind fun y => pictureAt y (o.2.dec d.toNat).bits x.picture
      let k := keyOf (decPort e) (decSel e)
      let e' := if s.changeDue k ((s.key k).seq + 1) = true then s.img.entry 14 d.toNat else e
      let k' := keyOf (decPort e') (decSel e')
      (pic = none →
        ∃ t, exec (.decodedPicture d) s = .next t ∧ OnlyUnits units s t ∧ (∀ j, t.key j = s.key j)
          ∧ NextSample d.toNat e x t ∧ (t.dec d.toNat).delivered = x.delivered ∧ Reports s.dev.leader s t
          ∧ Tab.get 0 (t.dec d.toNat).ctr 2 = (Tab.get 0 x.ctr 2 + 1) % 2 ^ 64)
      ∧ (pic ≠ none → decValid e' = false →
        ∃ t, exec (.decodedPicture d) s = .next t ∧ OnlyUnits units s t ∧ (∀ j, t.key j = s.key j)
          ∧ (t.dec d.toNat).running = false ∧ (t.dec d.toNat).delivered = x.delivered ∧ (t.dec d.toNat).t = x.t)
      ∧ ∀ y bs, o.1 = some y → pic = some bs → decValid e' = true →
        ∃ t f, exec (.decodedPicture d) s = .next t ∧ OnlyUnits units s t ∧ (∀ j, j ≠ k' → t.key j = s.key j)
          ∧ (t.dec d.toNat).delivered = x.delivered + 1
          ∧ Tab.get 0 (t.dec d.toNat).ctr 3 = (Tab.get 0 x.ctr 3 + 1) % 2 ^ 64
          ∧ (t.key k').frame = none ∧ (t.key k').closed.getLast? = some f ∧ f.decoded = true ∧ f.position = x.t
          ∧ f.seq = (s.key k').seq + 1 ∧ f.counter = some ((y.f 2 31 0 + x.picture) % 2 ^ 32)
          ∧ f.knot = some ((x.delivered + 1).toNat % 2 ^ 32) ∧ f.payload = bs
          ∧ (x.picture < y.f 0 54 49 → (t.dec d.toNat).t = x.t ∧ (t.dec d.toNat).picture = x.picture + 1
              ∧ (t.dec d.toNat).running = true)
          ∧ (y.f 0 54 49 ≤ x.picture → NextSample d.toNat e' x t
              ∧ Tab.get 0 (t.dec d.toNat).ctr 1 = (Tab.get 0 x.ctr 1 + 1) % 2 ^ 64))

/-- A key whose route sets a stall limit and has had no frame start in it is marked stalled and reported at the first pace tick at
which that many ticks have passed, once; a path that fails is marked and reported, once; nothing else changes but fault state. -/
def Obligations.StallsAndFailedPathsAreRecorded : Prop :=
  (∀ (port : BitVec 5) (sel : BitVec 4) (at_ : Nat) (s : State), s.intakeUp = true →
    let k := keyOf port.toNat sel.toNat
    let r := s.routeOf k
    let past := at_ + routeStall r * s.time.tickHp
    s.dev.imageValid = true → routeValid r = true → routeStall r ≠ 0 → (s.key k).lastStart = some at_ →
    ((s.key k).stalled = true → exec (.intakeStall port sel) s = .next s)
    ∧ ((s.key k).stalled = false →
      ∃ t, exec (.intakeStall port sel) s = .next t ∧ OnlyUnits [.time, .dev, .host, .west, .east, .intake] s t
        ∧ t.time.hp = max s.time.hp (s.time.tickFrom past)
        ∧ (0 < s.time.tickHp → past ≤ s.time.tickFrom past ∧ s.time.tickFrom past < past + s.time.tickHp)
        ∧ t.key k = { s.key k with stalled := true } ∧ (∀ j, j ≠ k → t.key j = s.key j) ∧ Reports s.dev.leader s t))
  ∧ ∀ (half : Half) (s : State), s.intakeUp = true →
    ((s.half half).pathOk = false → exec (.pathFailed half) s = .next s)
    ∧ ((s.half half).pathOk = true →
      ∃ t, exec (.pathFailed half) s = .next t ∧ OnlyUnits [.dev, .host, .west, .east] s t
        ∧ (t.half half).pathOk = false ∧ t.half half.other = s.half half.other ∧ Reports half s t)

/-! ### Pilots, keys and records -/

/-- A pilot run writes its copy's outputs, and two runs on one frame are compared (R288, R287; log 29). -/
def Sys2Proof.PilotRunsEnd : Prop :=
  ∀ (half : Half) (upset : Word) (s : State),
    ((s.pilot half).run = none → exec (.pilotDone half upset) s = .next s)
    ∧ ∀ r, (s.pilot half).run = some r →
      let made := runPilot (s.img.entry 18 r.prog) (s.routeOf r.key) (s.recipeOf r.key) r upset (s.local half)
      let other := (s.pilot half.other).result r.prog r.seq
      ∃ t, exec (.pilotDone half upset) s = .next t ∧ OnlyUnits [.dev, .host, .west, .east, .mem, .out, .recorder] s t
        ∧ t.local half.other = s.local half.other ∧ t.mem.dram = s.mem.dram
        ∧ (made = none → t.local half = s.local half ∧ (t.pilot half).outs = (s.pilot half).outs)
        ∧ (∀ m d, made = some (m, d) → t.local half = m
            ∧ (∃ o ∈ (t.pilot half).outs, o.prog = r.prog ∧ o.seq = r.seq ∧ o.digest = d ∧ o.record = r.record
                ∧ (∀ x, other = some x → x.digest = d → o.agreed = true))
            ∧ (∀ x, other = some x → x.digest ≠ d → Reports s.dev.leader s t
                ∧ ∀ n, (t.stream n).fbSeq = (s.stream n).fbSeq)
            ∧ (∀ x, other = some x → x.digest = d →
                ∀ n ∈ s.progStreams r.prog, (t.stream n).fbSeq = (s.stream n).fbSeq + 1)
            ∧ (other = none → (s.pilot half.other).expects r.prog r.seq = false →
                ∀ n ∈ s.progStreams r.prog, (t.stream n).fbSeq = (s.stream n).fbSeq + 1)
            ∧ (other = none → (s.pilot half.other).expects r.prog r.seq = true → t.host = s.host ∧ t.out.streams = s.out.streams))
        ∧ ((s.pilot half).queue = [] ∨ (s.half half).inService = false →
            (t.pilot half).run = none ∧ (t.pilot half).queue = (s.pilot half).queue)
        ∧ ∀ q rest, (s.pilot half).queue = q :: rest → (s.half half).inService = true →
            (t.pilot half).run = some { q with since := s.time.hp } ∧ (t.pilot half).queue = rest

/-- A pilot run beyond its budget latches its half (R288, R312). -/
def Sys2Proof.PilotOverrunLatchesTheHalf : Prop :=
  ∀ (half : Half) (s : State),
    ((s.pilot half).run = none → exec (.pilotOverrun half) s = .next s)
    ∧ ∀ r, (s.pilot half).run = some r →
      ∃ t, exec (.pilotOverrun half) s = .next t
        ∧ OnlyUnits [.time, .dev, .host, .west, .east, .out, .recorder] s t
        ∧ t.time.hp = max s.time.hp (r.since + cyclesHp (progBudget (s.img.entry 18 r.prog)))
        ∧ (t.pilot half).run = none ∧ (t.half half).danger = true ∧ (t.half half).inService = false
        ∧ ((s.half half).danger = false → (t.half half).latchClass = classCode .pilotOverrun)

/-- A fireguard of a half not under reset answers the handover once: any cause for refusal refuses with the lowest; a key is given
only in a state that gives keys, by a half in service with no latched fault, for a pilot result on the same frame that both
pilots agree on, and its digest is the record's (changed only by the upset given). A pilot result that is still missing after
the wait refuses. -/
def Obligations.KeysAreGivenOrRefused : Prop :=
  ∀ (half : Half) (stream : BitVec 6) (x : Handover) (s : State),
    s.hand stream.toNat (fun x => (x.answer half).isNone) = some x →
    let put (a : Answer) (hp : Nat) : List Handover := s.out.hands.map fun z => if z = x then x.put half a hp else z
    let wait := x.since + usHp (safPilotWait (s.img.entry 24 0))
    (∀ upset : Word,
      ((s.half half).reset ≠ .none → exec (.keyDecision half stream upset) s = .next s)
      ∧ ((s.half half).reset = .none →
        ∃ t, exec (.keyDecision half stream upset) s = .next t ∧ OnlyUnits [.dev, .host, .west, .east, .out, .free] s t
          ∧ ((decideKey half x upset s).1 = none → t.out = s.out)
          ∧ (∀ a, (decideKey half x upset s).1 = some a → t.out = { s.out with hands := put a s.time.hp })
          ∧ ((s.keyCauses x).any (·.1) = true → t.out = { s.out with hands := put (.refusal (lowestCause (s.keyCauses x))) s.time.hp })
          ∧ ∀ d v, (decideKey half x upset s).1 = some (.key d v) →
              s.keysState = true ∧ (s.half half).inService = true ∧ (s.half half).danger = false ∧ d = recordDigest x ^^^ upset
              ∧ ∃ o, (s.pilot half).result (strPilot (s.img.entry 20 x.stream)) (frSeq x.frame) = some o ∧ o.agreed = true))
    ∧ ((s.half half).reset ≠ .none ∨ (decideKey half x 0 s).1 ≠ none → exec (.pilotMissing half stream) s = .next s)
    ∧ ((s.half half).reset = .none → (decideKey half x 0 s).1 = none →
      ∃ t, exec (.pilotMissing half stream) s = .next t ∧ OnlyUnits [.time, .dev, .host, .west, .east, .out, .free] s t
        ∧ t.time.hp = max s.time.hp wait ∧ t.out = { s.out with hands := put (.refusal caPilotMissing) (max s.time.hp wait) })

/-- One record more on the result ring, or one more lost where it is full; the record that follows a loss carries GAP, in the stream
that lost one and in whatever stream ends the episode (R298). -/
def Sys2Proof.ResultWritten (stream : Nat) (s t : State) : Prop :=
  let slot := s.host.result.base.toNat + 64 * (s.host.result.tail.toNat % s.host.result.records)
  if s.host.result.full = true then
    t.host.result = s.host.result ∧ (t.stream stream).lostMain = (s.stream stream).lostMain + 1 ∧ t.out.fullMain = true
  else
    t.host.result = { s.host.result with tail := s.host.result.tail + 1 } ∧ (t.stream stream).lostMain = 0
    ∧ t.out.fullMain = false
    ∧ (s.host.mem.wf = true → s.rec_.mode ≠ .record → ApartRange slot 64 (s.host.statusBlock.toNat + 0x20) 8 →
        (t.host.mem.read slot).getLsbD 4 = (s.out.fullMain || decide ((s.stream stream).lostMain ≠ 0)))

/-- An output counter has advanced by one (R325). -/
def Sys2Proof.OutCounts (w : Nat) (s t : State) : Prop := Tab.get 0 t.out.ctr w = (Tab.get 0 s.out.ctr w + 1) % 2 ^ 64

/-- A handover with both answers, or in the harmless state, leaves the writer as one record written or counted lost, with TRUST0
and KEY_MISMATCH counted as the answers say; one answer alone times out after 40 us into a record of trust 0; a stream silent for
HOLD_US in the harmless state gets one HOLD record. The record written after a loss carries GAP. -/
def Obligations.ResultRecordsAreComposed : Prop :=
  (∀ (stream : BitVec 6) (x : Handover) (s : State),
    s.hand stream.toNat (fun x => s.harmless || (x.west.isSome && x.east.isSome)) = some x →
    ∃ t, exec (.recordCompose stream) s = .next t ∧ OnlyUnits [.dev, .host, .west, .east, .out, .recorder] s t
      ∧ t.out.hands = s.out.hands.erase x ∧ ResultWritten x.stream s t
      ∧ (s.harmless = true → OutCounts 1 s t ∧ OutCounts 3 s t)
      ∧ (s.harmless = false → OutCounts 0 s t
          ∧ ((∃ d v w, x.west = some (.key d v) ∧ x.east = some (.key d w)) → Tab.get 0 t.out.ctr 3 = Tab.get 0 s.out.ctr 3)
          ∧ ((¬∃ d v w, x.west = some (.key d v) ∧ x.east = some (.key d w)) → OutCounts 3 s t)
          ∧ (∀ d e v w, x.west = some (.key d v) → x.east = some (.key e w) → d ≠ e → OutCounts 4 s t)))
  ∧ (∀ (stream : BitVec 6) (x : Handover) (s : State),
    s.hand stream.toNat (fun x => x.west.isSome != x.east.isSome) = some x →
    ∃ t, exec (.keyAnswerTimeout stream) s = .next t ∧ OnlyUnits [.time, .dev, .host, .west, .east, .out, .recorder] s t
      ∧ t.time.hp = max s.time.hp (x.answered.getD s.time.hp + usHp 40) ∧ t.out.hands = s.out.hands.erase x
      ∧ ResultWritten x.stream s t ∧ OutCounts 3 s t)
  ∧ ∀ (stream : BitVec 6) (s : State),
    let e := s.img.entry 20 stream.toNat
    let due := s.harmless = true ∧ s.dev.imageValid = true ∧ strValid e = true ∧ strHoldUs e ≠ 0
    (¬due → exec (.holdRecord stream) s = .next s)
    ∧ (due → ∃ t, exec (.holdRecord stream) s = .next t
        ∧ OnlyUnits [.time, .dev, .host, .west, .east, .out, .recorder] s t
        ∧ t.time.hp = max s.time.hp ((s.stream stream.toNat).lastAt + usHp (strHoldUs e))
        ∧ (t.stream stream.toNat).mainSeq = (s.stream stream.toNat).mainSeq + 1
        ∧ ResultWritten stream.toNat s t ∧ OutCounts 1 s t ∧ t.out.hands = s.out.hands)

/-- The output writer's copy is switched once; heartbeats toggle on multiples of HB_US (R300, R302). -/
def Sys2Proof.WriterAndHeartbeat : Prop :=
  (∀ (silent : Bool) (s : State),
    (s.dev.st = .cold ∨ s.dev.st = .kindling ∨ s.out.writer ≠ none → exec (.outputWriter silent) s = .next s)
    ∧ (s.dev.st ≠ .cold → s.dev.st ≠ .kindling → s.out.writer = none →
      ∃ t, exec (.outputWriter silent) s = .next t ∧ OnlyUnits [.dev, .host, .west, .east, .out] s t
        ∧ t.out = { s.out with writer := some s.dev.leader.other } ∧ Reports s.dev.leader s t))
  ∧ ∀ (half : Half) (s : State),
    let period := 50 * safHbUs (s.img.entry 24 0)
    (period = 0 ∨ s.hbActive half = false → exec (.heartbeatToggle half) s = .next s)
    ∧ (period ≠ 0 → s.hbActive half = true →
      ∃ t, exec (.heartbeatToggle half) s = .next t ∧ OnlyUnits [.time, .pins, .west, .east] s t
        ∧ t.pins = (match half with
            | .west => { s.pins with hbWest := !s.pins.hbWest }
            | .east => { s.pins with hbEast := !s.pins.hbEast })
        ∧ t.half half = { s.half half with hbAt := some t.time.ts } ∧ t.half half.other = s.half half.other
        ∧ s.time.hp ≤ t.time.hp
        ∧ (s.time.slew = 0 → s.time.slewAcc = 0 → s.time.ts.toNat + period < 2 ^ 64 → t.time.ts.toNat % period = 0))

/-- Weight chunks are digested in rotation, every 64 releases (R305; log 39). -/
def Sys2Proof.WeightsAreCheckedInRotation : Prop :=
  ∀ (half : Half) (s : State),
    let u := s.half half
    let l := s.weightChunks half
    (u.released < 64 ∨ u.inService = false → exec (.weightDigestCheck half) s = .next s)
    ∧ (64 ≤ u.released → u.inService = true →
      ∃ t, exec (.weightDigestCheck half) s = .next t ∧ OnlyUnits [.dev, .host, .west, .east, .seq, .mem, .free] s t
        ∧ (t.half half).released = u.released - 64
        ∧ (t.half half).weightAt = (if l = [] then 0 else (u.weightAt + safChunks (s.img.entry 24 0)) % l.length)
        ∧ (l = [] → (t.half half).badChunks = u.badChunks ∧ (t.half half).fgCtr = u.fgCtr)
        ∧ t.mem.dram = s.mem.dram ∧ t.seq.knots = s.seq.knots
        ∧ ∀ i, i < 16 → s.hoopHome i = half →
            ((t.hoop i).withheld = true ↔
              ∃ b ∈ (t.half half).badChunks, ctxHoop (s.img.entry 6 (wgtCtx (s.img.entry 22 b.1))) = i))

/-! ### Resets, faults and leadership -/

/-- What a half reset clears when it is asserted and when it is released (R386, R312, R384; log 41). -/
def Sys2Proof.HalfResetsAreAssertedAndReleased : Prop :=
  ∀ (half : Half) (s : State),
    let u := s.half half
    (s.resetDue half = none → exec (.halfReset half) s = .next s)
    ∧ (∀ cause counted, s.resetDue half = some (cause, counted) →
      ∃ t, exec (.halfReset half) s = .next t
        ∧ OnlyUnits [.dev, .host, .pools, .west, .east, .seq, .mem, .out, .link, .recorder, .free] s t
        ∧ t.half half = { HalfUnit.init with
            reset := .asserted, resetSince := s.time.hp, resetOwed := u.resetOwed,
            autoResets := if counted = true then s.recentResets half ++ [s.time.ts] else u.autoResets,
            claimCount := (t.half half).claimCount, vcoreMv := u.vcoreMv, vsramMv := u.vsramMv, stretch := u.stretch,
            pathOk := u.pathOk, ctrlDropped := u.ctrlDropped, thermalAt := u.thermalAt, hotAt := u.hotAt }
        ∧ (t.half half.other).inService = (s.half half.other).inService
        ∧ (s.dev.leader = half → (s.half half.other).inService = true → t.dev.leader = half.other)
        ∧ (∀ i, i < 16 → s.hoopHome i = half → (t.hoop i).job = none ∧ (hoopValid (s.hoopEntry i) = true → (t.hoop i).queue = []))
        ∧ (∀ c, c < 32 → c / 16 = half.idx → (t.chan c).queue = []
            ∧ (t.chan c).st = if (s.chan c).st = .off ∨ (s.chan c).st = .lost then (s.chan c).st else .selfRefresh)
        ∧ (∀ k, halfOfLink k = half → t.klink k = .init) ∧ (∀ g, halfOfDamper g = half → t.damper g = .init)
        ∧ (Tab.wf s.link.links = true → ∀ k, halfOfLink k ≠ half → t.klink k = s.klink k)
        ∧ t.mem.dram = s.mem.dram ∧ t.seq.knots = s.seq.knots)
    ∧ (u.reset ≠ .asserted → exec (.halfResetRelease half) s = .next s)
    ∧ (u.reset = .asserted →
      ∃ t, exec (.halfResetRelease half) s = .next t ∧ OnlyUnits [.img, .west, .east, .seq, .mem, .intake, .out, .link] s t
        ∧ t.intake.ports = s.intake.ports ∧ t.intake.decoders = s.intake.decoders
        ∧ (∀ k f, (t.key k).frame = some f ∨ f ∈ (t.key k).closed → (if half = .west then f.pilotW else f.pilotE) = false)
        ∧ t.half half = { u with reset := .released } ∧ t.half half.other = s.half half.other
        ∧ t.mem.dram = s.mem.dram ∧ t.local half = .zero ∧ t.local half.other = s.local half.other
        ∧ t.pilot half = .init ∧ t.pilot half.other = s.pilot half.other
        ∧ (∀ k, halfOfKnot k = half → t.knot k = 0)
        ∧ (∀ k, k < 8 → halfOfLink k = half → t.klink k = .init)
        ∧ (Tab.wf s.seq.knots = true → ∀ k, halfOfKnot k ≠ half → t.knot k = s.knot k)
        ∧ ∀ p ∈ hearthsOf half, t.hearth p = .init)

/-- The restart of a half, and RESET_HALF's bound of 90 ms (R386, R318, R385; log 41). -/
def Sys2Proof.HalvesReturnToService : Prop :=
  (∀ (half : Half) (trained : BitVec 16) (injections : Bool) (pass : BitVec 9) (s : State),
    ((s.half half).reset ≠ .released → exec (.halfRestart half trained injections pass) s = .next s)
    ∧ ((s.half half).reset = .released →
      ∃ t, exec (.halfRestart half trained injections pass) s = .next t
        ∧ OnlyUnits [.dev, .host, .west, .east, .seq, .mem, .free] s t ∧ (t.half half).reset = .none
        ∧ (t.half half).population = s.pins.mempop.toNat
        ∧ (t.half half).inService = injections
        ∧ (injections = false → (t.half half).danger = true)
        ∧ (injections = true → (t.half half).resetOwed = [])
        ∧ (injections = true → (s.half half.other).inService = false → s.dev.dispute = false → t.dev.leader = half)
        ∧ (∀ i, i < 8 → (t.place (posOf half i)).gen = nextPlaceGen (s.place (posOf half i)).gen
            ∧ (t.place (posOf half i)).fence = true
            ∧ ((t.place (posOf half i)).vacant = true ↔ placedAt half pass.getLsbD i = none)
            ∧ ∀ p, placedAt half pass.getLsbD i = some p → (t.place (posOf half i)).physical = p)
        ∧ ∀ c, c < 32 → c / 16 = half.idx → (s.chan c).populated = true → (s.chan c).st ≠ .lost →
            (t.chan c).st = if trained.getLsbD (c % 16) = true ∧ (s.chan c).density ≠ 0 then .active else .lost))
  ∧ ∀ (half : Half) (s : State),
    ((s.half half).resetOwed = [] → exec (.halfResetTimeout half) s = .next s)
    ∧ ((s.half half).resetOwed ≠ [] →
      ∃ t, exec (.halfResetTimeout half) s = .next t ∧ OnlyUnits [.time, .host, .west, .east] s t
        ∧ t.time.hp = max s.time.hp ((s.half half).resetSince + usHp 90000)
        ∧ t.half half = { s.half half with resetOwed := [] } ∧ t.half half.other = s.half half.other
        ∧ ∀ ring, (t.ring ring).tail
            = (s.ring ring).tail + BitVec.ofNat 32 ((s.half half).resetOwed.filter fun p => p.1 == ring).length)

/-- A record joins what a half's fireguard has ready or waiting, or is lost and counted (R317). -/
def Sys2Proof.RecordQueued (r : FaultRec) (h : Half) (s t : State) : Prop :=
  (t.half h).bufs = (s.half h).bufs ++ [r] ∨ (t.half h).pendq = (s.half h).pendq ++ [r]
    ∨ (t.half h).lost = min 0xFFFFFFFF ((s.half h).lost + 1)

/-- The coalescing and repeat intervals of fault reports (R316). -/
def Sys2Proof.FaultReportsCoalesce : Prop :=
  ∀ (key : FaultKey) (c : Coalesce) (s : State), findEntry key s = some c → c.record.key = key →
    (c.repeats = true → exec (.faultCoalesceExpiry key) s = .next s)
    ∧ (c.repeats = false →
      exec (.faultRepeatExpiry key) s = .next s
      ∧ ∃ t, exec (.faultCoalesceExpiry key) s = .next t ∧ OnlyUnits [.time, .west, .east] s t
        ∧ t.time.hp = max s.time.hp (c.opened + usHp 8)
        ∧ RecordQueued { c.record with followers := min 0xFFFF c.count } key.half s t
        ∧ findEntry key t = some { c with opened := c.opened + usHp 8, repeats := true, count := 0 })
    ∧ (c.repeats = true →
      ∃ t, exec (.faultRepeatExpiry key) s = .next t ∧ OnlyUnits [.time, .west, .east] s t
        ∧ t.time.hp = max s.time.hp (c.opened + usHp 1000)
        ∧ (c.count = 0 → findEntry key t = none ∧ (t.half key.half).bufs = (s.half key.half).bufs
            ∧ (t.half key.half).pendq = (s.half key.half).pendq)
        ∧ (c.count ≠ 0 → RecordQueued { c.record with rep := true, followers := min 0xFFFF (c.count - 1) } key.half s t
            ∧ findEntry key t = some { c with opened := c.opened + usHp 1000, count := 0 }))

/-- The leader writes the records of both halves, each with the next SEQ (R313, R317). -/
def Sys2Proof.FaultRecordsAreWritten : Prop :=
  ∀ s : State,
    let l := s.dev.leader
    let ready (h : Half) : List FaultRec := (s.half h).bufs ++ (s.half h).pendq
    let slot := s.host.fault.base.toNat + 64 * (s.host.fault.tail.toNat % s.host.fault.records)
    (s.host.fault.full = true → exec .faultRecordWrite s = .next s)
    ∧ (s.host.fault.full = false → s.dev.st ≠ .cold → ∀ h r rest,
      (h = l ∨ (h = l.other ∧ ready l = [])) → ready h = r :: rest →
      ∃ t, exec .faultRecordWrite s = .next t ∧ OnlyUnits [.host, .west, .east, .out] s t
        ∧ t.host.fault = { s.host.fault with tail := s.host.fault.tail + 1 }
        ∧ t.out = { s.out with faultSeq := s.out.faultSeq + 1 }
        ∧ (t.half h).bufs ++ (t.half h).pendq = rest
        ∧ Tab.get 0 (t.half h).fgCtr 1 = (Tab.get 0 (s.half h).fgCtr 1 + 1) % 2 ^ 64
        ∧ (s.host.mem.wf = true → (slot + 64 ≤ s.host.statusBlock.toNat + 0x18 ∨ s.host.statusBlock.toNat + 0x20 ≤ slot) →
            t.host.mem.readN slot 64 = r.bytes ((s.out.faultSeq + 1) % 2 ^ 32)))

/-- A retest keeps the hearth or retires it to the spare (R318). -/
def Sys2Proof.HearthsAreRetestedAndReplaced : Prop :=
  ∀ (half : Half) (pos : BitVec 3) (pass : Bool) (s : State),
    let l := posOf half pos.toNat
    let pl := s.place l
    (pl.retest = none → exec (.retestDone half pos pass) s = .next s)
    ∧ (pl.retest ≠ none → pass = true → pl.second = false →
      ∃ t, exec (.retestDone half pos pass) s = .next t ∧ OnlyUnits workUnits s t
        ∧ t.place l = { pl with retest := none, transients := min 255 (pl.transients + 1) }
        ∧ (∀ k, k ≠ l → t.place k = s.place k) ∧ t.seq.hearths = s.seq.hearths)
    ∧ (pl.retest ≠ none → pass = false ∨ pl.second = true →
      ∃ t, exec (.retestDone half pos pass) s = .next t ∧ OnlyUnits workUnits s t
        ∧ t.place l = { pl with physical := (if s.spareFree half = true then spareOf half else 31),
                                vacant := !s.spareFree half, retest := none, second := false,
                                gen := nextPlaceGen pl.gen, fence := true }
        ∧ (∀ k, k ≠ l → t.place k = s.place k) ∧ (t.hearth pl.physical).closed = true
        ∧ Tab.get 0 (t.half half).fgCtr 4 = (Tab.get 0 (s.half half).fgCtr 4 + 1) % 2 ^ 64)

/-- A report whose key has no interval open, with room in the table, stands there as a record of what it reports (R316). -/
def Sys2Proof.RecordedAs (key : FaultKey) (p : FaultRec → Prop) (s t : State) : Prop :=
  findEntry key s = none → (s.half key.half).table.length < 256 → ∃ c, findEntry key t = some c ∧ p c.record

/-- Fence knots, stale results and late speech of a retired hearth, whose records name the position and the hearth (R9, R319, R320). -/
def Sys2Proof.FencesStopOldSpeech : Prop :=
  (∀ (half : Half) (pos : BitVec 3) (s : State),
    let l := posOf half pos.toNat
    ((s.place l).fence = false ∨ s.transferOpen l = true → exec (.fenceKnotSet half pos) s = .next s)
    ∧ ((s.place l).fence = true → s.transferOpen l = false →
      ∃ t, exec (.fenceKnotSet half pos) s = .next t ∧ OnlyUnits workUnits s t
        ∧ t.knot (fenceKnot l) = BitVec.ofNat 32 (s.place l).gen ∧ (∀ k, k ≠ fenceKnot l → t.knot k = s.knot k)
        ∧ t.place l = { s.place l with fence := false } ∧ (∀ k, k ≠ l → t.place k = s.place k)))
  ∧ (∀ (half : Half) (pos : BitVec 3) (generation : BitVec 16) (s : State),
    let stale := olderThan generation.toNat (s.knot (fenceKnot (posOf half pos.toNat))).toNat
    (stale = false → exec (.staleResult half pos generation) s = .next s)
    ∧ (stale = true →
      ∃ t, exec (.staleResult half pos generation) s = .next t ∧ OnlyUnits [.dev, .host, .west, .east] s t
        ∧ Tab.get 0 (t.half half).fgCtr 6 = (Tab.get 0 (s.half half).fgCtr 6 + 1) % 2 ^ 64 ∧ Reports half s t
        ∧ RecordedAs (faultOf half ukFireguard half.idx .staleResult).key (fun r => r.logical = pos.toNat
            ∧ r.gen = generation.toNat ∧ r.physical = s.senderOf (posOf half pos.toNat) generation.toNat) s t))
  ∧ ∀ (p : BitVec 5) (s : State),
    let h := halfOfPhys p.toNat
    ((s.hearth p.toNat).closed = false → exec (.lateSpeech p) s = .next s)
    ∧ ((s.hearth p.toNat).closed = true →
      ∃ t, exec (.lateSpeech p) s = .next t ∧ OnlyUnits [.dev, .host, .west, .east] s t
        ∧ Tab.get 0 (t.half h).fgCtr 5 = (Tab.get 0 (s.half h).fgCtr 5 + 1) % 2 ^ 64 ∧ Reports h s t
        ∧ RecordedAs (faultOf h ukHearth p.toNat .lateSpeech).key (fun r => r.logical = (s.hearth p.toNat).heldPos
            ∧ r.physical = p.toNat ∧ r.gen = (s.hearth p.toNat).heldGen) s t)

/-- A dispute stands and waits for the safety monitor (R323). -/
def Sys2Proof.AwaitsMonitor (t : State) : Prop := t.dev.dispute = true ∧ t.dev.awaitMonitor = true ∧ t.dev.st = .quenched

/-- A dispute is decided for a half: it leads, the other is out of service and due a reset unless it has had three within the hour
(R312, R323). -/
def Sys2Proof.DecidedFor (w : Half) (t : State) : Prop :=
  t.dev.dispute = false ∧ t.dev.awaitMonitor = false ∧ t.dev.leader = w ∧ (t.half w).claim = true
  ∧ (t.half w.other).claim = false ∧ (t.half w.other).inService = false
  ∧ ((t.recentResets w.other).length < 3 → (t.half w.other).autoDue = true)

/-- An exchange moves the lead where the leader's claim and service are gone, counts a disagreement, both halves claiming or
neither while one serves, and opens a dispute at the fourth; a dispute is decided against the one half with a latched fault and
otherwise waits for the safety monitor in QUENCHED. A half silent for 8 us loses to the other unless that has a latched fault, and
then the monitor decides. (What neither claiming means with a half out is partly the model's reading, log 31.) -/
def Obligations.LeadershipIsExchangedAndDisputed : Prop :=
  (∀ (uw ue : Bool) (s : State),
    let cw := xor s.west.claim uw
    let ce := xor s.east.claim ue
    let bad := (cw = true ∧ ce = true) ∨ (cw = false ∧ ce = false ∧ (s.west.inService = true ∨ s.east.inService = true))
    let vacated := (s.half s.dev.leader).claim = false ∧ (s.half s.dev.leader).inService = false
      ∧ (s.half s.dev.leader.other).inService = true
    (s.exchanges = false → exec (.claimExchange uw ue) s = .next s)
    ∧ (s.exchanges = true →
      ∃ t, exec (.claimExchange uw ue) s = .next t ∧ OnlyUnits [.time, .dev, .host, .west, .east] s t
        ∧ t.time.hp = (s.time.hp / 100 + 1) * 100
        ∧ (s.dev.dispute = false → vacated → t.dev.leader = s.dev.leader.other ∧ (t.half s.dev.leader.other).claim = true)
        ∧ (s.dev.dispute = false → ¬vacated → s.west.reset = .none → s.east.reset = .none →
            (¬bad → t.west = { s.west with disputed := 0 } ∧ t.east = { s.east with disputed := 0 } ∧ t.dev = s.dev)
            ∧ (bad → s.west.disputed < 3 → t.west = { s.west with disputed := s.west.disputed + 1 }
                ∧ t.east = { s.east with disputed := s.west.disputed + 1 } ∧ t.dev = s.dev)
            ∧ (bad → 3 ≤ s.west.disputed →
                (s.west.latched = s.east.latched → AwaitsMonitor t)
                ∧ (s.west.latched = true → s.east.latched = false → DecidedFor .east t)
                ∧ (s.east.latched = true → s.west.latched = false → DecidedFor .west t)))))
  ∧ ∀ (half : Half) (s : State),
    (s.exchanges = false ∨ (s.half half).inService = false ∨ s.dev.dispute = true → exec (.claimSilence half) s = .next s)
    ∧ (s.exchanges = true → (s.half half).inService = true → s.dev.dispute = false →
      ∃ t, exec (.claimSilence half) s = .next t ∧ OnlyUnits [.time, .dev, .host, .west, .east] s t
        ∧ t.time.hp = s.time.hp + usHp 8
        ∧ ((s.half half.other).latched = false → DecidedFor half.other t)
        ∧ ((s.half half.other).latched = true → AwaitsMonitor t))

/-- A half has latched a dangerous fault and left service (R312). -/
def Sys2Proof.Latched (h : Half) (cls : FaultClass) (s t : State) : Prop :=
  (t.half h).danger = true ∧ (t.half h).inService = false ∧ (t.half h).claim = false
  ∧ ((s.recentResets h).length < 3 → (t.half h).autoDue = true)
  ∧ (t.half h).latchClass = (if (s.half h).danger = true then (s.half h).latchClass else classCode cls)
  ∧ t.gateOpen h = false ∧ t.hbActive h = false ∧ Reports h s t

/-- Faults of a supply, a clock and the lockstep comparison latch their half (R370, R401, R308, R312). -/
def Sys2Proof.SupplyClockAndLockstepFaultsLatch : Prop :=
  ∀ (half : Half) (s : State),
    let runs := s.dev.st ≠ .cold ∧ (s.half half).reset = .none
    (¬runs → exec (.lockstepMismatch half) s = .next s)
    ∧ (runs → ∃ t, exec (.lockstepMismatch half) s = .next t ∧ OnlyUnits [.dev, .host, .west, .east] s t
      ∧ Latched half .lockstepMismatch s t ∧ (t.half half).lockstepOk = false)
    ∧ (∀ (rail : BitVec 3) (trip : SupplyTrip),
      (¬runs ∨ s.supplyTrip half rail.toNat trip = none → exec (.voltageFault half rail trip) s = .next s)
      ∧ (∀ mv, runs → s.supplyTrip half rail.toNat trip = some mv →
        ∃ t, exec (.voltageFault half rail trip) s = .next t ∧ OnlyUnits [.boot, .dev, .host, .west, .east] s t
          ∧ Latched half .voltageFault s t ∧ (t.half half).supplyBad = true
          ∧ t.boot = if s.dev.st = .kindling then { s.boot with fail := 1 } else s.boot))
    ∧ (∀ (rail : BitVec 3) (mv : List (BitVec 16)),
      let want := if rail = 0 then (s.half half).vcoreMv else (s.half half).vsramMv
      let out (v : BitVec 16) : Prop := match railNominal rail.toNat with
        | some n => 100 * v.toNat < 95 * n ∨ 105 * n < 100 * v.toNat
        | none => v.toNat + 30 < want ∨ want + 30 < v.toNat
      let watched := 2 ≤ rail.toNat ∨ s.pins.requestAt rail.toNat + usHp 200 + 9 * s.time.tickHp ≤ s.time.hp
      (mv.length = 10 → watched → (∀ v ∈ mv, out v) → s.supplyTrip half rail.toNat (.samples mv) = (mv.getLast?).map (·.toNat))
      ∧ (mv.length ≠ 10 ∨ ¬watched ∨ (∃ v ∈ mv, ¬out v) → s.supplyTrip half rail.toNat (.samples mv) = none))
    ∧ ∀ (refclk : Bool) (khz : BitVec 32),
      (¬runs ∨ clockOut refclk khz.toNat = false → exec (.clockFault half refclk khz) s = .next s)
      ∧ (runs → clockOut refclk khz.toNat = true →
        ∃ t, exec (.clockFault half refclk khz) s = .next t ∧ OnlyUnits [.boot, .dev, .host, .west, .east] s t
          ∧ Latched half .voltageFault s t ∧ (t.half half).supplyBad = true
          ∧ t.boot = if s.dev.st = .kindling then { s.boot with fail := 1 } else s.boot)

/-- The power loop, once per millisecond, steps the core voltage within 720 mV and VCORE_MV, then the stretch, which rises only where
LIVE_RATE allows it in both halves (R388, R389, R398; log 37). -/
def Sys2Proof.PowerLoopThrottles : Prop :=
  ∀ (power : BitVec 16) (temp : BitVec 8) (mayRise : Bool) (s : State),
    let dev := s.img.entry 15 0
    let u := s.half s.dev.leader
    let above := devPower dev < power.toNat ∨ (devTherm dev : Int) < temp.toInt
    let under := 100 * power.toNat < 95 * devPower dev ∧ temp.toInt < (devTherm dev : Int) - 3
    let canRise := mayRise = true ∧ s.west.rateSpare = true ∧ s.east.rateSpare = true
    let loop := max s.time.hp (s.dev.loopAt + usHp 1000)
    let kept (t : State) : Prop := t.time.hp = loop ∧ t.pins = s.pins ∧ ∀ h, (t.half h).vcoreMv = (s.half h).vcoreMv
    let asked (mv : Nat) (t : State) : Prop := (∀ h, (t.half h).vcoreMv = mv)
      ∧ t.pins.avs.map (fun w => (w.rail, w.mv)) = [(0, mv)] ∧ s.pins.requestAt 0 + usHp 100 ≤ t.time.hp
    (s.dev.st = .cold → exec (.powerLoop power temp mayRise) s = .next s)
    ∧ (s.dev.st ≠ .cold → s.dev.imageValid = false → temp.toInt ≤ 110 →
      ∃ t, exec (.powerLoop power temp mayRise) s = .next t ∧ OnlyUnits [.time, .dev] s t ∧ t.time.hp = loop
        ∧ t.dev = { s.dev with loopAt := loop })
    ∧ (s.dev.st ≠ .cold → s.dev.imageValid = true →
      ∃ t, exec (.powerLoop power temp mayRise) s = .next t ∧ OnlyUnits [.time, .pins, .dev, .host, .west, .east] s t
        ∧ t.dev.loopAt = loop
        ∧ (above → 720 < u.vcoreMv → asked (max 720 (u.vcoreMv - 10)) t ∧ ∀ h, (t.half h).stretch = u.stretch)
        ∧ (above → u.vcoreMv ≤ 720 → canRise → u.stretch < 15 → kept t ∧ ∀ h, (t.half h).stretch = u.stretch + 1)
        ∧ (above → u.vcoreMv ≤ 720 → ¬canRise ∨ 15 ≤ u.stretch → kept t ∧ ∀ h, (t.half h).stretch = u.stretch)
        ∧ (¬above → under → 0 < u.stretch → kept t ∧ ∀ h, (t.half h).stretch = u.stretch - 1)
        ∧ (¬above → under → u.stretch = 0 → u.vcoreMv < devVcore dev →
            asked (min (devVcore dev) (u.vcoreMv + 10)) t ∧ ∀ h, (t.half h).stretch = 0)
        ∧ (¬above → ¬under → kept t ∧ ∀ h, (t.half h).stretch = u.stretch)
        ∧ (above → u.vcoreMv ≤ 720 → ¬canRise ∨ 15 ≤ u.stretch → u.thermalAt = none → temp.toInt ≤ 110 →
            Reports s.dev.leader s t))

/-! ### Boot -/

/-- Slot A is tried first and slot B if it fails (R371, R373; log 36). -/
def Sys2Proof.BootPackagesAreTried : Prop :=
  ∀ (slotB : Bool) (package : List Byte) (s : State),
    (s.bootReads slotB = false → exec (.bootPackageRead slotB package) s = .next s)
    ∧ (s.bootReads slotB = true →
      ∃ t, exec (.bootPackageRead slotB package) s = .next t ∧ OnlyUnits [.time, .boot] s t
        ∧ t.time.hp = max s.time.hp (usHp 10) ∧ t.xspiResetN = s.pins.poresetN
        ∧ (∀ cause stage, packageRes s.part package = .fails cause stage →
            t.boot = if slotB = true then { s.boot with fail := cause, stage := stage }
              else { s.boot with slotATried := true, stage := 1 })
        ∧ ∀ e, packageRes s.part package = .ok e →
            t.boot = { s.boot with slot := if slotB = true then 1 else 0,
                                   keySlot := ofLE (slice package ((e.getD 1 0).toNat % 2 ^ 32 - 256) 4),
                                   rollback := (e.getD 0 0).toNat / 2 ^ 48 % 2 ^ 8, fwVersion := (e.getD 0 0).toNat / 2 ^ 32 % 2 ^ 16,
                                   imageOff := (e.getD 2 0).toNat % 2 ^ 32, imageBytes := (e.getD 2 0).toNat / 2 ^ 32, stage := 3 })

/-- The stages of KINDLING, in their order (R374, R218, R310, R318, R321; log 36). -/
def Sys2Proof.KindlingTestsAndTrains : Prop :=
  ∀ s : State,
    (s.bootRuns = false → (∀ pass, exec (.storesTested pass) s = .next s)
        ∧ (∀ d tr, exec (.dramTrainingDone d tr) s = .next s) ∧ (∀ w e, exec (.checkerInjectionsDone w e) s = .next s)
        ∧ ∀ pass, exec (.kindlingDone pass) s = .next s)
    ∧ (s.bootRuns = true → s.boot.storesDone = false →
      (∃ t, exec (.storesTested false) s = .next t ∧ OnlyUnits [.boot] s t ∧ t.boot = { s.boot with fail := 7 })
      ∧ ∃ t, exec (.storesTested true) s = .next t ∧ OnlyUnits [.boot, .seq, .mem] s t
        ∧ t.boot.storesDone = true ∧ t.boot.stage = (if s.boot.dramDone = true then 5 else 4)
        ∧ (∀ p a, (t.hearth p).byte a = 0) ∧ t.mem = { s.mem with shared := .zero, local0 := .zero, local1 := .zero })
    ∧ (s.bootRuns = true → s.boot.dramDone = false → ∀ (density : List (BitVec 2)) (trained : BitVec 32),
      (s.pins.mempop = 3 →
        ∃ t, exec (.dramTrainingDone density trained) s = .next t ∧ OnlyUnits [.boot, .dev, .host] s t
          ∧ t.boot = { s.boot with fail := 6 } ∧ t.dev.st = .cold)
      ∧ (s.pins.mempop ≠ 3 →
        let each := declaredCount s.pins.mempop.toNat
        let ref := refDensity density (declaredChans s.pins.mempop.toNat)
        ∃ t, exec (.dramTrainingDone density trained) s = .next t ∧ OnlyUnits [.boot, .dev, .host, .west, .east, .seq, .mem, .free] s t
          ∧ t.mem.dram = s.mem.dram ∧ t.boot.dramDone = true
          ∧ t.boot.stage = (if s.boot.storesDone = true then 5 else 3)
          ∧ t.west.population = s.pins.mempop.toNat ∧ t.east.population = s.pins.mempop.toNat
          ∧ (∀ c, c < 32 → each ≤ c % 16 → (t.chan c).st = (s.chan c).st ∧ (t.chan c).populated = (s.chan c).populated)
          ∧ ∀ c, c < 32 → c % 16 < each → (t.chan c).populated = true
              ∧ (t.chan c).st = if density.getD c 0 ≠ 0 ∧ (density.getD c 0).toNat = ref ∧ trained.getLsbD c = true then .active
                  else .lost))
    ∧ (s.bootRuns = true → s.boot.storesDone = true → s.boot.dramDone = true → s.boot.injectDone = false →
      (∃ t, exec (.checkerInjectionsDone false false) s = .next t ∧ OnlyUnits [.boot] s t
        ∧ t.boot = { s.boot with injectDone := true, stage := 6 })
      ∧ ∀ w e, w = true ∨ e = true →
        ∃ t, exec (.checkerInjectionsDone w e) s = .next t ∧ OnlyUnits [.boot, .dev, .host, .west, .east] s t
          ∧ t.boot = { s.boot with injectDone := true, stage := 6, selftest := true }
          ∧ t.west.danger = (s.west.danger || w) ∧ t.east.danger = (s.east.danger || e)
          ∧ (w = true → Reports .west s t) ∧ (e = true → Reports .east s t))
    ∧ (s.bootRuns = true → s.boot.injectDone = true → ∀ pass : BitVec 18,
      let good (h : Half) (i : Nat) : Bool := pass.getLsbD ((hearthsOf h).getD i 0)
      ∃ t, exec (.kindlingDone pass) s = .next t ∧ OnlyUnits [.time, .pins, .boot, .dev, .host, .west, .east, .seq] s t
        ∧ t.dev.st = (if s.west.danger = true ∧ s.east.danger = true ∨ s.dev.dispute = true then .quenched else .banked)
        ∧ t.boot = { s.boot with stage := 7, fail := if s.boot.selftest = true then 7 else 0,
                                 flashDue := decide (s.boot.imageOff ≠ 0) }
        ∧ (∀ h, (t.half h).inService = !(s.half h).danger ∧ (t.half h).vcoreMv = 600 ∧ (t.half h).vsramMv = 750)
        ∧ (s.west.danger = false → t.dev.leader = .west)
        ∧ (s.west.danger = true → s.east.danger = false → t.dev.leader = .east)
        ∧ ∀ h i, i < 8 → (t.place (posOf h i)).gen = (s.place (posOf h i)).gen ∧ (t.place (posOf h i)).fence = false
            ∧ ((t.place (posOf h i)).vacant = true ↔ placedAt h (good h) i = none))

/-! ### The safety monitor and time -/

/-- A transaction of the tally port (R281): the frame due goes out, and the answer to this one is prepared. -/
def Sys2Proof.TallyAnswered (type result : Byte) (frame : List Byte) (s t : State) : Prop :=
  t.tally.miso = s.misoFrame ∧ t.tally.answer = [type, tfSeq frame, result]
  ∧ Tab.get 0 t.tally.ctr 0 = (Tab.get 0 s.tally.ctr 0 + 1) % 2 ^ 64

/-- A counter of the tally port has advanced by one. -/
def Sys2Proof.TallyCounts (w : Nat) (s t : State) : Prop := Tab.get 0 t.tally.ctr w = (Tab.get 0 s.tally.ctr w + 1) % 2 ^ 64

/-- The units that a tally frame may touch. -/
def Sys2Proof.tallyUnits : List DevUnit :=
  [.dev, .host, .img, .pools, .west, .east, .seq, .mem, .intake, .out, .tally, .recorder, .free]

/-- POLL, NAME_LEADER and frames that are not right (R281, R282, R283, R323). -/
def Sys2Proof.TallyFramesAreAnswered : Prop :=
  ∀ (frame : List Byte) (s : State),
    (s.dev.st ≠ .cold → parseTally frame = .good .poll →
      ∃ t, exec (.poll frame) s = .next t ∧ OnlyUnits [.tally] s t ∧ TallyAnswered 0x81 0 frame s t)
    ∧ (s.dev.st ≠ .cold → parseTally frame = .crc →
      ∃ t, exec (.tallyBadFrame frame) s = .next t ∧ OnlyUnits [.tally] s t ∧ TallyAnswered 0x8F 1 frame s t ∧ TallyCounts 1 s t)
    ∧ (s.dev.st ≠ .cold → parseTally frame = .form →
      ∃ t, exec (.tallyBadFrame frame) s = .next t ∧ OnlyUnits [.tally] s t ∧ TallyAnswered 0x8F 2 frame s t ∧ TallyCounts 2 s t)
    ∧ (s.dev.st ≠ .cold → parseTally frame = .good .nameLeader →
      (s.dev.dispute = true → s.dev.awaitMonitor = true →
        ∃ t, exec (.nameLeader frame) s = .next t ∧ OnlyUnits [.dev, .host, .west, .east, .tally, .recorder] s t
          ∧ TallyAnswered 0x81 0 frame s t ∧ DecidedFor (Half.sel ((frame.getD 16 0).toNat % 2)) t)
      ∧ (s.dev.dispute = false ∨ s.dev.awaitMonitor = false →
        ∃ t, exec (.nameLeader frame) s = .next t ∧ OnlyUnits [.tally] s t ∧ TallyAnswered 0x81 4 frame s t))
    ∧ (s.dev.st = .cold → exec (.poll frame) s = .next s ∧ exec (.confirm frame) s = .next s
        ∧ exec (.refuse frame) s = .next s ∧ exec (.nameLeader frame) s = .next s ∧ exec (.tallyBadFrame frame) s = .next s)

/-- CONFIRM, REFUSE and the time bound of a proposal (R278, R279, R283). -/
def Sys2Proof.ProposalsAreConfirmedOrRefused : Prop :=
  ∀ (frame : List Byte) (s : State), s.dev.st ≠ .cold → s.rec_.mode ≠ .replay →
    let n := ofLE (slice frame 12 4)
    let digest := wordAt frame 4
    let d0 := s.dev.imageValid = true ∧ s.img.confirmed = false
    (parseTally frame = .good .confirm →
      ∃ t r, exec (.confirm frame) s = .next t ∧ OnlyUnits tallyUnits s t ∧ TallyCounts 3 s t ∧ TallyAnswered 0x82 r frame s t
        ∧ (∀ p, s.img.proposal = some p → n = p.number →
            t.img.proposal = none
            ∧ (digest = p.digest → r = 0 ∧ t.img.agreed = p.number ∧ t.img.digest = p.digest ∧ t.img.completed = true
                ∧ TallyCounts 7 s t)
            ∧ (digest ≠ p.digest → r = 3 ∧ t.img = { s.img with proposal := none } ∧ TallyCounts 4 s t
                ∧ (t.ring p.ring).outstanding = (s.ring p.ring).outstanding - 1))
        ∧ (s.img.proposal = none → d0 → n = 0 →
            (digest = s.img.d0 → r = 0 ∧ t.img = { s.img with confirmed := true } ∧ t.dev = s.dev)
            ∧ (digest ≠ s.img.d0 → r = 3 ∧ t.dev.imageValid = false ∧ TallyCounts 4 s t ∧ Reports s.dev.leader s t))
        ∧ (s.img.proposal = none → ¬d0 → r = 4 ∧ t.img = s.img ∧ t.dev = s.dev)
        ∧ (s.img.proposal = none → d0 → n ≠ 0 → r = 5 ∧ t.img = s.img ∧ t.dev = s.dev)
        ∧ (∀ p, s.img.proposal = some p → n ≠ p.number → ¬(d0 ∧ n = 0) → r = 5 ∧ t.img = s.img ∧ t.dev = s.dev))
    ∧ (parseTally frame = .good .refuse →
      ∃ t r, exec (.refuse frame) s = .next t ∧ OnlyUnits tallyUnits s t ∧ TallyAnswered 0x83 r frame s t
        ∧ (∀ p, s.img.proposal = some p → n = p.number →
            r = 0 ∧ t.img = { s.img with proposal := none } ∧ TallyCounts 4 s t
            ∧ (t.ring p.ring).outstanding = (s.ring p.ring).outstanding - 1)
        ∧ (s.img.proposal = none → d0 → n = 0 → r = 0 ∧ t.dev.imageValid = false ∧ TallyCounts 4 s t)
        ∧ (s.img.proposal = none → ¬d0 → r = 4 ∧ t.img = s.img ∧ t.dev = s.dev)
        ∧ (s.img.proposal = none → d0 → n ≠ 0 → r = 5 ∧ t.img = s.img ∧ t.dev = s.dev)
        ∧ (∀ p, s.img.proposal = some p → n ≠ p.number → ¬(d0 ∧ n = 0) → r = 5 ∧ t.img = s.img ∧ t.dev = s.dev))
    ∧ (s.img.proposal = none → exec .agreementTimeout s = .next s)
    ∧ ∀ p, s.img.proposal = some p →
      ∃ t, exec .agreementTimeout s = .next t ∧ OnlyUnits [.time, .host, .img, .tally] s t
        ∧ t.time.hp = max s.time.hp (s.agreeDue p) ∧ t.img = { s.img with proposal := none } ∧ TallyCounts 5 s t
        ∧ (t.ring p.ring).outstanding = (s.ring p.ring).outstanding - 1

/-- At the edge every armed SET_TIME is answered and none is left; a load below the timestamp changes nothing but the reply, and
any other sets timestamp and slew, all ones keeping the timestamp. After 2 s with no edge the oldest gives up with its final
reply and the timestamp is not set. With none armed nothing happens. -/
def Obligations.TimeIsSetAtTheEdge : Prop :=
  ∀ s : State,
    (s.time.armed = [] → exec .ppsInEdge s = .next s ∧ exec .setTimeNoPps s = .next s)
    ∧ (s.time.armed ≠ [] →
      ∃ t, exec .ppsInEdge s = .next t ∧ OnlyUnits [.time, .host] s t ∧ t.time.armed = []
        ∧ t.time.hp = (s.time.hp / 2 + 1) * 2 ∧ t.time.tickHp = s.time.tickHp ∧ t.time.nextTick = s.time.nextTick
        ∧ ∀ a, s.time.armed = [a] →
          let now := (s.time.addPeriods 1).ts
          (t.ring a.ring).outstanding = (s.ring a.ring).outstanding - 1 ∧ (t.ring a.ring).tail = (s.ring a.ring).tail + 1
          ∧ (a.load.toNat < now.toNat → t.time.ts = now ∧ t.time.slew = s.time.slew)
          ∧ (now.toNat ≤ a.load.toNat → t.time.slew = a.slew
              ∧ t.time.ts = if a.load = BitVec.allOnes 64 then now else a.load))
    ∧ ∀ a rest, s.time.armed = a :: rest →
      ∃ t, exec .setTimeNoPps s = .next t ∧ OnlyUnits [.time, .host] s t ∧ t.time.armed = rest
        ∧ t.time.hp = max s.time.hp (a.since + usHp 2000000) ∧ t.time.slew = s.time.slew
        ∧ (t.ring a.ring).outstanding = (s.ring a.ring).outstanding - 1 ∧ (t.ring a.ring).tail = (s.ring a.ring).tail + 1

/-! ### Kreong links -/

/-- The flit in order of a type: the link receives, the CRC is right, and TYPE and SEQ are those expected (R328). -/
def Sys2Proof.InOrder (k ty : Nat) (f : List Byte) (s : State) : Prop :=
  s.receives k = true ∧ flCrcOk f = true ∧ flType f = ty ∧ flSeq f = (s.klink k).rxSeq

/-- A link has accepted a flit (R328, R352). -/
def Sys2Proof.LinkAccepts (k ty : Nat) (s t : State) : Prop :=
  (t.klink k).rxSeq = (if takesSeq ty = true then ((s.klink k).rxSeq + 1) % 4096 else (s.klink k).rxSeq)
  ∧ (t.klink k).nakWait = false ∧ (t.klink k).acceptedAt = s.time.hp
  ∧ Tab.get 0 (t.klink k).ctr 1 = (Tab.get 0 (s.klink k).ctr 1 + 1) % 2 ^ 64

/-- A counter of a link has advanced by one. -/
def Sys2Proof.LinkCounts (k w : Nat) (s t : State) : Prop :=
  Tab.get 0 (t.klink k).ctr w = (Tab.get 0 (s.klink k).ctr w + 1) % 2 ^ 64

/-- Nothing of the link system but link `k` may differ. -/
def Sys2Proof.OnlyLink (k : Nat) (s t : State) : Prop :=
  t.link = { s.link with links := t.link.links } ∧ ∀ j, j ≠ k → t.klink j = s.klink j

/-- The flits of a link that are not yet acknowledged once an ACK has been taken (R328). -/
def Sys2Proof.heldAfter (ack : Nat) (x : Link) : List (List Byte) :=
  match x.unacked with
  | [] => []
  | f :: _ =>
    let n := (ack + 4096 - flSeq f) % 4096
    if x.unacked.length < n then x.unacked else x.unacked.drop n

/-- Signal, FEC lock and the identity flit of a Kreong link (R326, R330, R331, R350; log 35). -/
def Sys2Proof.LinksTrainUp : Prop :=
  ∀ (link : BitVec 3) (s : State),
    let k := link.toNat
    let x := s.klink k
    let first := flitBytes 3 0 0 s.link.epoch (s.identity k)
    let next := flitBytes 3 x.txSeq x.rxSeq s.link.epoch (s.identity k)
    (s.linkLive k = false ∨ x.st ≠ .down → exec (.linkSignalDetected link) s = .next s)
    ∧ (s.linkLive k = true → x.st = .down →
      ∃ t, exec (.linkSignalDetected link) s = .next t ∧ OnlyUnits [.link] s t ∧ OnlyLink k s t
        ∧ t.klink k = { x with st := .training })
    ∧ (s.linkLive k = false ∨ x.st = .down ∨ x.lanesOk = true → exec (.fecLock link) s = .next s)
    ∧ (s.linkLive k = true → x.st ≠ .down → x.lanesOk = false →
      ∃ t, exec (.fecLock link) s = .next t ∧ OnlyUnits [.link] s t ∧ OnlyLink k s t
        ∧ t.klink k = { x with lanesOk := true, found := none, txSeq := 1, rxSeq := 0, nakWait := false, unacked := [first],
                               waiting := [], partial_ := [], replays := 0, acceptedAt := s.time.hp,
                               sent := x.sent ++ [first], ctr := bump x.ctr 0 1 })
    ∧ (s.receives k = false → exec (.identitySend link) s = .next s)
    ∧ (s.receives k = true →
      ∃ t, exec (.identitySend link) s = .next t ∧ OnlyUnits [.link] s t ∧ OnlyLink k s t
        ∧ (x.unacked.length < 64 → x.waiting = [] →
            t.klink k = { x with txSeq := (x.txSeq + 1) % 4096, unacked := x.unacked ++ [next], sent := x.sent ++ [next],
                                 ctr := bump x.ctr 0 1 })
        ∧ (64 ≤ x.unacked.length ∨ x.waiting ≠ [] → t.klink k = { x with waiting := x.waiting ++ [(3, s.identity k)] }))

/-- ACK, NAK and corrupt flits; with nothing else to send an IDLE flit leaves (R327, R328; log 35). -/
def Sys2Proof.FlitsAreAcknowledgedAndReplayed : Prop :=
  ∀ (link : BitVec 3) (flit : List Byte) (s : State),
    let k := link.toNat
    let x := s.klink k
    let held := heldAfter (flAck flit) x
    let idle := flitBytes 0 x.txSeq x.rxSeq s.link.epoch []
    (¬InOrder k 0 flit s → exec (.flitIdle link flit) s = .next s)
    ∧ (InOrder k 0 flit s →
      ∃ t, exec (.flitIdle link flit) s = .next t ∧ OnlyUnits [.link] s t ∧ OnlyLink k s t ∧ LinkAccepts k 0 s t
        ∧ (x.waiting = [] → (t.klink k).unacked = held ∧ (t.klink k).sent = x.sent ++ [idle]))
    ∧ (¬InOrder k 4 flit s → exec (.flitNak link flit) s = .next s)
    ∧ (InOrder k 4 flit s →
      ∃ t, exec (.flitNak link flit) s = .next t ∧ OnlyUnits (.link :: workUnits) s t ∧ LinkAccepts k 4 s t
        ∧ (x.waiting = [] → held = [] → OnlyUnits [.link] s t ∧ (t.klink k).sent = x.sent ++ [idle])
        ∧ (x.waiting = [] → held ≠ [] →
            (t.klink k).unacked = held ∧ (t.klink k).sent = x.sent ++ held ∧ LinkCounts k 4 s t
            ∧ (t.klink k).retries = min 0xFFFF (x.retries + 1)
            ∧ (held = x.unacked → 7 ≤ x.replays → x.st = .member → (t.klink k).st = .fenced)
            ∧ (held ≠ x.unacked ∨ x.replays < 7 → (t.klink k).st = x.st)))
    ∧ ∀ fec : Bool,
      (s.receives k = false → exec (.flitCorrupt link flit fec) s = .next s)
      ∧ (s.receives k = true →
        let nak := flitBytes 4 x.txSeq x.rxSeq s.link.epoch []
        let bad := flCrcOk flit = false ∨ 4 < flType flit
        ∃ t, exec (.flitCorrupt link flit fec) s = .next t ∧ OnlyUnits [.link] s t ∧ OnlyLink k s t
          ∧ (fec = true → LinkCounts k 2 s t) ∧ (t.klink k).rxSeq = x.rxSeq ∧ (t.klink k).unacked = x.unacked
          ∧ (bad ∨ (flSeq flit ≠ x.rxSeq ∧ x.nakWait = false) → (t.klink k).sent = x.sent ++ [nak] ∧ (t.klink k).nakWait = true)
          ∧ (¬bad → flSeq flit = x.rxSeq ∨ x.nakWait = true → (t.klink k).nakWait = x.nakWait
              ∧ (t.klink k).sent = if x.waiting = [] then x.sent ++ [idle] else x.sent))

/-- An identity flit in order names the partner, and settles the check that a commit left owed to the link (R330, R331, R337; log 35). -/
def Sys2Proof.IdentitiesAreTaken : Prop :=
  ∀ (link : BitVec 3) (flit : List Byte) (s : State),
    let k := link.toNat
    let p := flPayload flit
    let peer := slice p 0 64
    (¬InOrder k 3 flit s → exec (.flitIdentity link flit) s = .next s)
    ∧ (InOrder k 3 flit s →
      ∃ t, exec (.flitIdentity link flit) s = .next t ∧ OnlyUnits [.host, .link, .recorder] s t ∧ LinkAccepts k 3 s t
        ∧ (∀ j, j ≠ k → t.klink j = s.klink j) ∧ t.link.epoch = s.link.epoch ∧ t.link.record = s.link.record
        ∧ (peerIdOk p = false → LinkCounts k 3 s t ∧ (t.klink k).st = (s.klink k).st ∧ (t.klink k).peer = (s.klink k).peer)
        ∧ (peerIdOk p = true → (t.klink k).peer = peer ∧ (t.klink k).found = some (wordAt p 8).toNat
            ∧ (let settles := k ∈ s.link.owed ∧ (s.klink k).found = none
               (settles → (t.klink k).st = if partnerFits s.topo k peer = true then .member else .identified)
               ∧ (¬settles → (t.klink k).st = if (s.klink k).st = .training then .identified else (s.klink k).st))
            ∧ (∀ j, j ∈ t.link.owed ↔ j ∈ s.link.owed ∧ (j = k → (s.klink k).found ≠ none))))

/-- Payload flits of another epoch or of a fenced link are not delivered (R339; log 34). -/
def Sys2Proof.PayloadsNeedTheEpoch : Prop :=
  ∀ (link : BitVec 3) (flit : List Byte) (isData : Bool) (s : State),
    let k := link.toNat
    let x := s.klink k
    let ty := if isData = true then 1 else 2
    let c := if isData = true then Instr.flitData link flit else Instr.flitControl link flit
    let run := x.partial_ ++ [flPayload flit]
    (¬InOrder k ty flit s → exec c s = .next s)
    ∧ (InOrder k ty flit s →
      ∃ t, exec c s = .next t ∧ OnlyUnits (.link :: workUnits) s t ∧ LinkAccepts k ty s t
        ∧ (x.st ≠ .fenced → s.link.epoch < flEpoch flit → LinkCounts k 6 s t ∧ t.link.inbox = s.link.inbox
            ∧ OnlyUnits [.link] s t)
        ∧ (x.st = .fenced ∨ flEpoch flit < s.link.epoch → LinkCounts k 5 s t ∧ t.link.inbox = s.link.inbox
            ∧ Reports (halfOfLink k) s t)
        ∧ (x.st = .member → flEpoch flit = s.link.epoch → isData = true →
            (Config.messageOf run = none → (t.klink k).partial_ = run ∧ t.link.inbox = s.link.inbox)
            ∧ (Config.messageOf run ≠ none → (t.klink k).partial_ = [])))

/-- Silence, lock loss and a collective's wait bound (R332, R342). -/
def Sys2Proof.SilentLinksAreFenced : Prop :=
  (∀ (link : BitVec 3) (s : State),
    let k := link.toNat
    let x := s.klink k
    let gone (t : State) : Prop := (t.klink k).st = .fenced ∧ (t.klink k).fenceEpoch = s.link.epoch ∧ LinkCounts k 7 s t
    (s.linkLive k = false ∨ x.st ≠ .member → exec (.linkTimeout link) s = .next s)
    ∧ (s.linkLive k = true → x.st = .member →
      ∃ t, exec (.linkTimeout link) s = .next t ∧ OnlyUnits (.time :: .link :: workUnits) s t
        ∧ t.time.hp = max s.time.hp (x.acceptedAt + usHp (topoTimeout s.topo)) ∧ gone t
        ∧ (t.klink k).lanesOk = false ∧ (∀ j, j ≠ k → t.klink j = s.klink j))
    ∧ (s.receives k = false → exec (.laneLockLoss link) s = .next s)
    ∧ (s.receives k = true →
      ∃ t, exec (.laneLockLoss link) s = .next t ∧ OnlyUnits (.link :: workUnits) s t
        ∧ (t.klink k).lanesOk = false ∧ (t.klink k).found = none ∧ (∀ j, j ≠ k → t.klink j = s.klink j)
        ∧ (x.st = .member → gone t)
        ∧ (x.st ≠ .member → t.klink k = { x with lanesOk := false, found := none } ∧ OnlyUnits [.link] s t)))
  ∧ ∀ (hoop : BitVec 4) (step : BitVec 20) (c : Coll) (j : Job) (r : Released) (s : State),
    s.coll hoop.toNat step.toNat = some c → s.openPart hoop.toNat step.toNat 0 = some (j, r) →
    let h := s.hoopHome hoop.toNat
    let fresh := clOp c.desc = 5 → ∀ x ∈ s.link.inbox, c.stale s x = false
    let lacks := s.gathered c h = none ∨ s.collJoined c = false
    (∃ t, exec (.waitExceeded hoop step) s = .next t
      ∧ (clOp c.desc = 5 → ∀ x, t.link.inbox.find? (c.takes s.topo h) = some x → c.stale s x = false)
      ∧ Tab.get 0 t.link.ctr 7 % 2 ^ 64
          = (Tab.get 0 s.link.ctr 7 + (s.link.inbox.length - t.link.inbox.length)) % 2 ^ 64)
    ∧ (s.link.valid = false ∨ s.rec_.mode = .replay ∨ ¬lacks → fresh → exec (.waitExceeded hoop step) s = .next s)
    ∧ (s.link.valid = true → s.rec_.mode ≠ .replay → lacks → fresh →
      ∃ t, exec (.waitExceeded hoop step) s = .next t ∧ OnlyUnits (.time :: .link :: workUnits) s t
        ∧ t.time.hp = max s.time.hp (r.since + usHp (topoWait s.topo))
        ∧ t.openPart hoop.toNat step.toNat 0 = none ∧ t.link.links = s.link.links
        ∧ Tab.get 0 t.link.ctr 1 = (Tab.get 0 s.link.ctr 1 + 1) % 2 ^ 64)

/-- Rounds of digest exchange between replicas (R348, R349; log 38). -/
def Sys2Proof.ReplicaRoundsRun : Prop :=
  ∀ (entry : BitVec 4) (s : State),
    let i := entry.toNat
    let hoop := repHoop (s.img.entry 25 i)
    let me := topoRank s.topo
    let group := groupRanks s.topo (repGroup (s.img.entry 25 i))
    let starts := s.roundDue i = true ∧ i ∈ (s.hoop hoop).roundHold ∧ (s.hoop hoop).job = none ∧ s.round i = none
      ∧ (s.half (s.repHalf i)).reset = .none
    (¬starts → exec (.replicaRoundStart entry) s = .next s)
    ∧ (starts →
      let k := Tab.get 0 s.link.roundNo i + 1
      ∃ t, exec (.replicaRoundStart entry) s = .next t ∧ OnlyUnits (.link :: workUnits) s t
        ∧ Tab.get 0 t.link.roundNo i = k ∧ (∀ j, j ≠ i → Tab.get 0 t.link.roundNo j = Tab.get 0 s.link.roundNo j)
        ∧ ((∀ e ∈ s.link.early, e.1 = i → e.2.1 ≠ k) → t.link.rounds = s.link.rounds ++ [⟨i, k, s.time.hp, []⟩]
            ∧ t.seq = s.seq))
    ∧ (s.round i = none → (∀ ecc, exec (.replicaDigestComputed entry ecc) s = .next s)
        ∧ exec (.replicaRoundTimeout entry) s = .next s)
    ∧ ∀ x, s.round i = some x →
      (∀ ecc bs, (∀ d ∈ x.digests, d.1 ≠ me) → ecc ≠ .uncorrectable → me ∈ group →
        (vread (.walker (s.repHalf i)) (repCtx (s.img.entry 25 i)) (repBase (s.img.entry 25 i)) (repBytes (s.img.entry 25 i)) s).1
          = .ok bs →
        (∃ k ∈ group, k ≠ me ∧ ∀ d ∈ x.digests, d.1 ≠ k) →
        ∃ t, exec (.replicaDigestComputed entry ecc) s = .next t ∧ OnlyUnits (.link :: workUnits) s t
          ∧ t.round i = some { x with digests := x.digests.set me ((sha384 bs).take 32) })
      ∧ (∀ ecc bs rank, (∀ d ∈ x.digests, d.1 ≠ me) → ecc ≠ .uncorrectable → me ∈ group →
        (vread (.walker (s.repHalf i)) (repCtx (s.img.entry 25 i)) (repBase (s.img.entry 25 i)) (repBytes (s.img.entry 25 i)) s).1
          = .ok bs →
        let ds := x.digests.set me ((sha384 bs).take 32)
        (∀ k ∈ group, ∃ d ∈ ds, d.1 = k) → 3 ≤ ds.length → oddRank ds = some rank → rank ≠ me →
        ∃ t, exec (.replicaDigestComputed entry ecc) s = .next t ∧ OnlyUnits (.link :: workUnits) s t
          ∧ t.round i = none ∧ t.link.epoch = (s.link.epoch + 1) % 2 ^ 32 ∧ t.link.broken = true
          ∧ ∀ l ∈ usedLinks s.topo, partnerRank s.topo l = rank →
              (t.klink l).st = .fenced ∧ (t.klink l).fenceEpoch = s.link.epoch ∧ l ∉ t.link.owed)
      ∧ ∃ t, exec (.replicaRoundTimeout entry) s = .next t ∧ OnlyUnits (.time :: .link :: workUnits) s t
          ∧ t.time.hp = max s.time.hp (x.since + usHp (repWait (s.img.entry 25 i)))
          ∧ t.round i = none ∧ (∀ j, j ≠ i → t.round j = s.round j)
          ∧ Tab.get 0 t.link.ctr 5 = (Tab.get 0 s.link.ctr 5 + 1) % 2 ^ 64

/-- In replay, the first entry is delivered exactly when it is due; a FRAME entry closes a frame with the recorded sequence
number, a PEER entry names the partner, and kinds that are not inputs only leave the list. Outside replay nothing happens. -/
def Obligations.ReplayDeliversInOrder : Prop :=
  ∀ s : State,
    (s.rec_.mode ≠ .replay ∨ s.rec_.fed = [] → exec .replayDeliver s = .next s)
    ∧ ∀ e rest, s.rec_.mode = .replay → s.rec_.fed = e :: rest →
      (enDue e s.rec_ = false → exec .replayDeliver s = .next s)
      ∧ (enDue e s.rec_ = true →
        ∃ t, exec .replayDeliver s = .next t ∧ t.pending = s.pending ∧ t.part = s.part ∧ t.time = s.time ∧ t.pins = s.pins
          ∧ t.boot = s.boot ∧ t.rec_.fed = rest ∧ t.rec_.mode = .replay
          ∧ (enKind e = 0x03 →
              let w := wordAt (enBody e) 0
              let k := keyOf (w.toNat % 32) (w.toNat / 32 % 16)
              (t.key k).seq = frSeq (slice (enBody e) 64 64) ∧ (t.key k).frame = none
              ∧ (s.key k).closed.length < (t.key k).closed.length)
          ∧ (enKind e = 0x07 →
              let k := (wordAt (enBody e) 0).toNat % 8
              (t.klink k).peer = slice (enBody e) 8 64
              ∧ (t.klink k).found = some (wordAt (slice (enBody e) 8 64) 8).toNat)
          ∧ (enKind e ≠ 0x03 → enKind e ≠ 0x06 → enKind e ≠ 0x07 → enKind e ≠ 0x08 →
              t = { s with rec_ := { s.rec_ with fed := rest } }))

/-! ### All commands -/

/-- Every unit. -/
def Sys2Proof.allUnits : List DevUnit :=
  [.time, .pins, .boot, .dev, .host, .img, .pools, .west, .east, .seq, .mem, .intake, .out, .tally, .link, .recorder, .free]

/-- The units that a packet touches before its own effect: its ring, the queue count of its half, the recorder. -/
def Sys2Proof.packetUnits : List DevUnit := [.host, .west, .east, .recorder]

/-- The units that a command may touch. -/
def Sys2Proof.commandUnits : Instr → List DevUnit
  | .nop .. | .getStatus .. | .readCounters .. | .resetHalf .. | .knotRead .. => packetUnits
  | .loadImage .. | .proposeProtection .. => .img :: packetUnits
  | .imageLoad .. => allUnits.filter fun u => u != .boot
  | .openOutputs .. | .closeOutputs .. => .dev :: packetUnits
  | .resetDevice .. | .poresetAssert => allUnits
  | .setTime .. => .time :: packetUnits
  | .setRecordMode .. => .link :: packetUnits
  | .withdrawProposal .. => [.img, .tally] ++ packetUnits
  | .setFrameRing .. => [.seq, .mem, .intake, .free] ++ packetUnits
  | .commitRoutes .. => .intake :: packetUnits
  | .startJob .. | .cancelJob .. => workUnits
  | .knotSet .. => .seq :: packetUnits
  | .copyIn .. | .copyOut .. => [.img, .seq, .mem, .free] ++ packetUnits
  | .copyDone .. => [.dev, .img, .seq, .mem, .free] ++ packetUnits
  | .invalidateTranslation .. => [.img, .seq, .mem] ++ packetUnits
  | .invalidationComplete .. => workUnits
  | .bufferAlloc .. => .pools :: packetUnits
  | .bufferFree .. => [.dev, .pools] ++ packetUnits
  | .commitTopology .. => .link :: workUnits
  | .hstSqDoorbell .. | .ringEnable .. | .ringDisable .. | .overrunClear .. | .statusBlockRefresh => [.host]
  | .ringPageSetupWrite .. | .outputRingSetupWrite .. | .dbgBaseWrite .. => [.dev, .host]
  | .fgSpeedClear .. => [.west, .east]
  | .registerWrite .. => [.dev, .host, .west, .east]
  | .paceTick .. | .linkTimeout .. | .waitExceeded .. | .replicaRoundTimeout .. => .time :: .link :: workUnits
  | .unpacedRelease .. | .collectiveDone .. | .flitData .. | .flitControl .. | .flitNak .. | .laneLockLoss ..
  | .replicaRoundStart .. | .replicaDigestComputed .. => .link :: workUnits
  | .argumentReadDone .. | .passGroupCommit .. | .passGroupAbandon .. | .transformCommit .. | .attendCommit .. | .appendDone ..
  | .transferDone .. | .resultHandover .. | .knotWaitTimeout .. | .retestDone .. | .fenceKnotSet .. => workUnits
  | .stepWatchdog .. => [.dev, .host, .west, .east, .seq, .mem, .out, .recorder, .free]
  | .translationWalk .. => [.dev, .host, .west, .east, .seq, .mem, .free]
  | .damperRequest .. => [.west, .east, .mem]
  | .damperCutoff .. => .intake :: .link :: workUnits
  | .damperShed .. | .dramRequest .. | .frequencyChange .. | .phyLockLoss .. => [.dev, .host, .west, .east, .seq, .mem]
  | .halfRestart .. => [.dev, .host, .west, .east, .seq, .mem, .free]
  | .mr4Read .. => [.time, .dev, .host, .west, .east, .mem]
  | .selfRefreshExit .. | .patrolScrub .. => [.mem]
  | .selfRefreshEntry .. | .dramRefresh .. | .driftCheck .. | .zqCalibration .. => [.time, .mem]
  | .aphyPartnerDetected .. | .aphyLinkTrained .. | .networkLinkUp .. | .embeddedData .. | .frameEnd .. => [.intake]
  | .cameraDiscoveryDone .. => [.dev, .host, .west, .east, .intake]
  | .aphyLockLoss .. | .networkLinkDown .. => [.host, .intake]
  | .frameStart .. | .csi2LongPacket .. => [.host, .west, .east, .seq, .mem, .intake, .free]
  | .lidarPacket .. | .decoderEpochStart .. | .decodedPicture .. => [.dev, .host, .west, .east, .seq, .mem, .intake, .free]
  | .frameComplete .. => [.dev, .host, .west, .east, .seq, .mem, .intake, .out, .recorder, .free]
  | .lidarSilence .. => [.time, .host, .intake]
  | .intakeStall .. => [.time, .dev, .host, .west, .east, .intake]
  | .pilotDone .. => [.dev, .host, .west, .east, .mem, .out, .recorder]
  | .pilotOverrun .. | .keyAnswerTimeout .. | .holdRecord .. => [.time, .dev, .host, .west, .east, .out, .recorder]
  | .keyDecision .. => [.dev, .host, .west, .east, .out, .free]
  | .pilotMissing .. => [.time, .dev, .host, .west, .east, .out, .free]
  | .recordCompose .. => [.dev, .host, .west, .east, .out, .recorder]
  | .outputWriter .. => [.dev, .host, .west, .east, .out]
  | .heartbeatToggle .. => [.time, .pins, .west, .east]
  | .weightDigestCheck .. => [.dev, .host, .west, .east, .seq, .mem, .free]
  | .halfReset .. => [.dev, .host, .pools, .west, .east, .seq, .mem, .out, .link, .recorder, .free]
  | .halfResetRelease .. => [.img, .west, .east, .seq, .mem, .intake, .out, .link]
  | .halfResetTimeout .. => [.time, .host, .west, .east]
  | .faultCoalesceExpiry .. | .faultRepeatExpiry .. => [.time, .west, .east]
  | .faultRecordWrite => [.host, .west, .east, .out]
  | .powerLoop .. => [.time, .pins, .dev, .host, .west, .east]
  | .staleResult .. | .lateSpeech .. | .lockstepMismatch .. | .pathFailed .. => [.dev, .host, .west, .east]
  | .claimExchange .. | .claimSilence .. => [.time, .dev, .host, .west, .east]
  | .poll .. | .confirm .. | .refuse .. | .nameLeader .. | .tallyBadFrame .. => tallyUnits
  | .agreementTimeout => [.time, .host, .img, .tally]
  | .ppsInEdge | .setTimeNoPps => [.time, .host]
  | .linkSignalDetected .. | .fecLock .. | .identitySend .. | .flitIdle .. | .flitCorrupt .. => [.link]
  | .flitIdentity .. => [.host, .link, .recorder]
  | .replayDeliver => allUnits.filter fun u => u != .time && u != .pins && u != .boot
  | .voltageFault .. | .clockFault .. | .checkerInjectionsDone .. => [.boot, .dev, .host, .west, .east]
  | .poresetRelease .. => [.pins, .dev, .host, .west, .east]
  | .bootPackageRead .. => [.time, .boot]
  | .storesTested .. => [.boot, .seq, .mem]
  | .dramTrainingDone .. => [.boot, .dev, .host, .west, .east, .seq, .mem, .free]
  | .kindlingDone .. => [.time, .pins, .boot, .dev, .host, .west, .east, .seq]
  | .flashImageAutoload .. => allUnits

/-- For every command, where exec answers a next state, every unit of the state outside the list that commandUnits gives the
command is exactly as it was. The division into units is the model's (Safety.lean). -/
def Obligations.CommandsStayInTheirUnits : Prop :=
  ∀ (c : Instr) (s t : State), exec c s = .next t → OnlyUnits (commandUnits c) s t

/-- For every command and state: a command that is well formed, or is no packet, answers a next state, and a packet whose words do
not spell its own opcode and length is refused as ill formed. The refusal is the model's own (log 2). -/
def Obligations.WellFormedCommandsComplete : Prop :=
  ∀ (c : Instr) (s : State),
    (c.wf = true ∨ packetOf c = none → ∃ t, exec c s = .next t)
    ∧ (c.wf = false → packetOf c ≠ none → ∃ name, exec c s = .refused (.illFormed name))

/-- On an empty queue one half-period of the 50 MHz counter passes, and none in COLD (the model's choice, logs 1 and 3). -/
def Sys2Proof.EmptyQueueLetsTimePass : Prop :=
  ∀ s : State, s.pending = [] →
    (s.dev.st = .cold → step s = .next s)
    ∧ (s.dev.st ≠ .cold →
      ∃ t, step s = .next t ∧ OnlyUnits [.time] s t ∧ t.time.hp = s.time.hp + 1
        ∧ (s.time.hp % 2 = 0 → t.time.ts = s.time.ts)
        ∧ (s.time.hp % 2 = 1 → s.time.slew = 0 → s.time.slewAcc = 0 → t.time.ts = s.time.ts + 1))

/-- Right after reset the queue is empty, the device is COLD with no image, time and schedule are 0, the ring pages, knots,
buffers, dampers, channels, fireboxes, stores and links are at their reset values, MIN_RATE is 0xFFFF and every placement
generation is 1. The tick length before an image and the contents of stores before their test are the model's (logs 3 and 7). -/
def Obligations.ResetValues : Prop :=
  let r := State.reset
  r.pending = [] ∧ r.dev.st = .cold ∧ r.dev.imageValid = false ∧ r.dev.outputsOpen = false ∧ r.dev.ignored = 0
  ∧ r.time.ts = 0 ∧ r.time.slew = 0 ∧ r.time.schedule = 0 ∧ r.time.tickHp = 100
  ∧ r.boot.slot = 3 ∧ r.boot.stage = 0 ∧ r.boot.fail = 0 ∧ r.boot.autoload = 0
  ∧ (∀ n, r.ring n = RingPage.init) ∧ r.host.statusBlock = 0 ∧ r.host.dbgBase = 0 ∧ r.host.evrLost = 0
  ∧ (∀ h, (r.half h).minRate = 0xFFFF ∧ (r.half h).slipCount = 0 ∧ (r.half h).ticks = 0 ∧ (r.half h).reset = .none)
  ∧ (∀ k, r.knot k = 0) ∧ (∀ l, (r.place l).gen = 1) ∧ (∀ p i, (r.buffer p i).owner = none)
  ∧ (∀ g, (r.damper g).slotPtr = 0 ∧ (r.damper g).capacity = 256) ∧ (∀ c, (r.chan c).st = .off)
  ∧ (∀ p a, (r.hearth p).byte a = 0) ∧ (∀ a, r.mem.shared.read a = 0)
  ∧ (∀ k, (r.klink k).st = .down) ∧ r.link.epoch = 0 ∧ r.link.valid = false ∧ r.rec_.mode = .off ∧ r.out.faultSeq = 0


/-! ### The statements that have several parts -/

/-- Every step that answers a next state removes exactly the front of the queue, and the part's identity never changes; on an
empty queue one half-period of 10 ns passes, in which only time changes, and in COLD nothing changes. The queue and the idle
step are the model's choice (logs 1 and 3); the count of 20 ns periods is the spec's. -/
def Obligations.QueueIsServedInOrder : Prop :=
  StepTakesOneCommand ∧ EmptyQueueLetsTimePass

/-- For every ring page, value and state: each of the four setup writes takes effect only while ENABLE is 0 and no final reply is
owed (DRAINED 1) and with a value the register accepts, and is otherwise ignored and counted; setting ENABLE takes the
device's head from the doorbell and the reply tail from HST_RR_HEAD; a doorbell write replaces the tail, is checked against
the ring size only while ENABLE is 1 and OVERRUN is 0, and sets OVERRUN where it fails; clearing OVERRUN holds the ring until
a doorbell that passes. No other page and nothing outside the ring pages changes, but for the count of ignored writes. -/
def Obligations.RingRegistersTakeWrites : Prop :=
  DoorbellIsChecked ∧ RingControlWrites ∧ RingSetupWrites

/-- Writing CLEAR sets MIN_RATE to 0xFFFF and SLIP_COUNT to 0 of that half and changes nothing else. The refresh of the status
block writes HST_STATUS and the timestamp to its first 16 bytes, and no other byte of host memory changes. -/
def Obligations.SpeedClearedAndStatusCopied : Prop :=
  SpeedMonitorCleared ∧ StatusBlockRefreshed

/-- For every packet: an unknown opcode gives ST_BAD_OPCODE, a length outside the opcode's range ST_BAD_LENGTH, a reserved field
ST_BAD_RESERVED, ring-0 opcodes on another ring and a hoop outside the ring's mask ST_NOT_PERMITTED, a context of another hoop
ST_BAD_CONTEXT, a half down ST_HALF_DOWN, a state the opcode does not permit ST_BAD_STATE, in this order, the hoop, context
and half only for opcodes that are not device-wide. A packet that fails one of these is skipped by its LENGTH, gets a single
reply of KIND 1 with that status, and changes nothing else. (Step 9 of the rule is each opcode's own; the statements about the
opcodes say it.) -/
def Obligations.PacketsAreExaminedInOrder : Prop :=
  FirstFailingCheckDecides ∧ RejectedPacketGetsOneReply

/-- An admitted NOP gets ST_OK, GET_STATUS gets HST_STATUS in DETAIL, KNOT_READ of a knot of its hoop or the intake gets the
knot's value and of any other knot ST_BAD_PARAM; READ_COUNTERS of a block the map names writes its eight counters at DEST and
two replies, and otherwise gets ST_BAD_PARAM (that this is a single reply is the model's reading, log 42). -/
def Obligations.PacketsThatReport : Prop :=
  PacketsThatOnlyReport ∧ CountersAreReadToHostMemory

/-- OPEN_OUTPUTS needs a valid image and its confirmed digest, and moves the device to DRAWING or DAMPED; CLOSE_OUTPUTS moves it
to BANKED, the harmless state, with both gates closed. RESET_HALF is refused in its final reply where the other half is under
reset or out of service, and otherwise asks for the reset of the half it names and is owed its final reply. -/
def Obligations.OutputsAndHalfResetsAreAsked : Prop :=
  OutputsOpenAndClose ∧ HalfResetIsAsked

/-- LOAD_IMAGE and SET_TIME with parameters in range are accepted and wait in their queues, and otherwise get ST_BAD_PARAM.
SET_RECORD_MODE with ON 0 and SINK 0 ends a mode; with ON 1 it begins a recording whose header holds the serial, D0, the
timestamp and the agreement number; with ON 0 and a sink that can be replayed it begins a replay, which holds the links down
(the model's readings of replay, log 44). -/
def Obligations.LoadsTimesAndRecordings : Prop :=
  LoadsAndTimesAreQueued ∧ RecordModeIsSet

/-- START_JOB of no pricking or of another hoop's gets ST_BAD_PARAM; otherwise the job joins its hoop's queue, and where the hoop
is free and its positions are in place it is admitted at once, READY where it has no argument words. CANCEL_JOB of no such job
gets ST_BAD_PARAM, of a released job ST_TOO_LATE; of a queued or READY job it removes the job, which never starts, and pays
its final reply. -/
def Obligations.JobsAreQueuedAdmittedAndCancelled : Prop :=
  JobsAreQueuedAndAdmitted ∧ JobsAreCancelled

/-- KNOT_SET writes the named knot where it belongs to the packet's hoop, and no other knot ever. BUFFER_ALLOC takes the buffer at
the head of the pool's queue, advances its generation past 0, and answers the handle; an empty pool gives ST_NO_BUFFER,
another hoop's ST_BAD_PARAM. BUFFER_FREE frees a buffer for its owner under its generation and puts it at the queue's end;
every other handle changes no pool. -/
def Obligations.KnotsAndBuffersChangeForTheirOwner : Prop :=
  KnotsAreSet ∧ BuffersAreTakenInOrder ∧ BuffersAreFreedByTheirOwner

/-- A copy on its alignments and in range has its whole range translated before it starts: where a piece does not translate it
ends at once with ST_FAULT_ADDRESS, and otherwise it is under way with exactly those pieces; no byte of DRAM or the shared stores
has changed yet. One off its alignment or range gets ST_BAD_PARAM, and so does an invalidation of no pages (the model's choices,
log 48). An invalidation leaves no entry of its context and range in any cache of its half or in the copy path's cache, its final
reply is owed, and it awaits the copies that use an address it covers. -/
def Obligations.CopiesAndInvalidationsStart : Prop :=
  CopiesStartWholeOrNot ∧ InvalidationsLeaveNoEntry

/-- A package in slot A that fails is followed by slot B, and one that passes gives the version, the image's place and stage 3; no
package is read before XSPI_RESET_N has risen, 10 us after power-on reset. Store tests clear every store or fail with cause 7;
training gives each declared channel ACTIVE or LOST by its density and result; each half whose injection fails is latched and
reported; the end of KINDLING places the hearths that passed, sets the leader, the supplies and the state BANKED or QUENCHED.
(Which codes and stages show when is partly the model's reading, log 36.) -/
def Obligations.KindlingRuns : Prop :=
  BootPackagesAreTried ∧ KindlingTestsAndTrains

/-- An unpaced hoop releases a step where and only where its next step is eligible and its job READY or RUNNING, and at most eight
at a time. A job reading its arguments becomes READY with exactly the words read, and faults where they cannot be read;
nothing happens in a hoop that is paced or has no such job. -/
def Obligations.StepsAreReleasedWithTheirArguments : Prop :=
  EligibleStepsAreReleased ∧ ArgumentsAreReadBeforeReady

/-- Where the computation of an open pass group or transform part succeeds, the commit leaves exactly the computed bytes exchanged
into the destination, counts COMMITS and its rounds, and ends the part (an APPEND's group leaves the part open for the
append); where it faults, the page map and every page outside the landing range are as before, ABANDONED is counted and the
part has ended. A pass group's commit changes no other hearth. -/
def Obligations.GroupsAndTransformsCommitWholeOrNot : Prop :=
  PassGroupsCommitWholeOrNot ∧ TransformsCommitWholeOrNot

/-- A step past its watchdog wedges its job, latches its half with STEP_WATCHDOG and ends the half's other jobs; before it is due
nothing happens. A READY or RUNNING job whose next step has waited WAIT_LIMIT ticks faults at that step and is counted; where
no step of it is open and nothing is queued behind it, it ends with its final reply. -/
def Obligations.JobsThatOverrunAreStopped : Prop :=
  WatchdogWedgesTheHalf ∧ KnotWaitsTimeOut

/-- A damper takes the grants of ended accesses back and a request that it can name into its waiting list; of each source only the
oldest waits for a grant. A grant goes to the slot's owner exactly when that owner waits, moves the slot pointer by one, and is
held and counted as such; with none waiting none is made, and nothing else changes. A fall of capacity puts an effective table of
256 slots in force below full capacity, counted, and a hoop that loses slots is breached. (How an access names its owner and
input, and the arrival order, are the model's reading, logs 23 and 52.) -/
def Obligations.DampersGrantAndShed : Prop :=
  DampersGrantBySlot ∧ SheddingRebuildsTheTable

/-- Idle ACTIVE channels enter self-refresh unless a request wins, which is then queued, and leave it; drift checks and ZQ
calibrations move their instants; a refresh closes the rows of its bank pair no sooner than its rate's interval after the last;
the temperature is read once a millisecond and a reading of 3 reported once; a scrub reads the next block and corrects; loss of
lock makes the channel LOST, answers every request of its set with the fault and takes the capacity of the set's dampers to 0; a
frequency change of a half, where its state allows one, leaves its channels ACTIVE with rows closed at the set point. On a channel
whose state does not allow it each of them does nothing, and none changes a byte of DRAM. -/
def Obligations.ChannelsKeepThemselves : Prop :=
  ChannelsSleepAndTrack ∧ ChannelsRefreshScrubAndFail

/-- Partner, training, lock loss, network link changes and lidar silence move exactly the link state of one port and close or drop
its frames as the spec says. A discovery that reads a right identity and has every write of the port's scripts acknowledged, in
order, makes the port READY with the identity stored, the mismatch found and the keys to be resynchronised; otherwise the port
starts again with a fault report, the writes that went out standing in order. -/
def Obligations.PortsAndCamerasComeAndGo : Prop :=
  PortsComeAndGo ∧ CamerasAreDiscovered

/-- A frame start opens the next frame of its key, closing one still open, in the ring's next buffer with a FILLING record at its
end; a stray key only counts. A frame end closes it. A line of the frame's type joins its payload and its running CRC, and its
bytes, or the positions of the row it completes, are written to the buffer; a packet whose header is lost or whose type is unknown
only flags or counts, and a corrected header is counted. Embedded data gives counter, time and CRC where it stands and fits as the
identity says. (Which packets belong to which frame is partly the model's reading, log 24.) -/
def Obligations.CameraFramesAreTakenIn : Prop :=
  CameraFramesOpenAndClose ∧ CameraLinesAreTakenIn

/-- The end of a run leaves the local store and the outputs as the program computes them, compares with the other pilot's run on
the same frame and reports a difference; where the two agree, or no other result is to come, each stream of the program has its
fall-back record, and none where one is still awaited or the two differ. The next run waiting starts where the half serves; an
overrun ends the run and latches its half with PILOT_OVERRUN. (When a result is to come is partly the model's reading, log 29.) -/
def Obligations.PilotRunsEndOrOverrun : Prop :=
  PilotRunsEnd ∧ PilotOverrunLatchesTheHalf

/-- The writer's copy is switched at most once, with a report. A heartbeat toggles exactly one pin where its half is active, at a
timestamp that is a multiple of 50 x HB_US. The weight check runs every 64 releases of a half in service, advances through the
half's chunks in rotation, and withholds exactly the hoops of chunks that do not match. -/
def Obligations.WriterHeartbeatAndWeights : Prop :=
  WriterAndHeartbeat ∧ WeightsAreCheckedInRotation

/-- A due reset ends the half's jobs, empties its channels' queues into self-refresh, brings its registers, links and dampers to
their reset values, moves the lead and keeps what the spec keeps, the DRAM among it; its release clears the half's stores, knots,
hearths and pilot, and the copies of frames in its pilot store; its restart places the hearths that passed with new generations
and fences, takes the channels up and pays RESET_HALF, unless an injection failed; 90 ms after the request the final replies owed
are paid. Which settings a half reset keeps is partly the model's reading (log 41). -/
def Obligations.HalfResetsRun : Prop :=
  HalfResetsAreAssertedAndReleased ∧ HalvesReturnToService

/-- After 8 us the first record of a key is ready with its followers, and after each 1 ms a repeat record is ready where reports
came, and the entry closes where none did; a record waits in the half's buffers or queue or is counted LOST. The leader's
records are written first, each 64 bytes with the next SEQ; a full ring writes nothing. -/
def Obligations.FaultsAreReportedAndRecorded : Prop :=
  FaultReportsCoalesce ∧ FaultRecordsAreWritten

/-- A retest that passes keeps the hearth and counts a transient; one that fails, or follows a second fault, closes its port,
moves the position to a free spare or leaves it vacant with the next generation and its fence raised. The fence comes down with
the fence knot set to the generation once no transfer is open; an old generation and a closed port's request are counted and
reported with the position and the hearth concerned. -/
def Obligations.HearthsAreRetiredAndFenced : Prop :=
  HearthsAreRetestedAndReplaced ∧ FencesStopOldSpeech

/-- A lockstep mismatch, a rail whose ten samples lie outside its range, or whose supply answers no request, and a clock out of
its range latch the half: gate closed, heartbeat stopped, out of service, its reset due; in KINDLING a supply or clock fault also
fails the boot. The rails that follow requests are not judged while a request settles. With an image valid the power loop, once a
millisecond, lowers the core by 10 mV down to 720 mV and then stretches where both halves allow it, and goes back the other way,
one action each time. -/
def Obligations.SuppliesClocksAndPowerAreWatched : Prop :=
  SupplyClockAndLockstepFaultsLatch ∧ PowerLoopThrottles

/-- Each transaction sends the answer to the one before. A frame with a CRC error or a bad form is answered and changes nothing;
NAME_LEADER decides a dispute that waits for the monitor and is otherwise answered 4. CONFIRM of the pending number with its
digest agrees it, with another digest ends it; REFUSE ends it; a D0 refused or confirmed otherwise ends the image; another number,
or none pending, is answered so and nothing changes; the time bound ends a proposal with its final reply. -/
def Obligations.TheMonitorConfirmsOrRefuses : Prop :=
  TallyFramesAreAnswered ∧ ProposalsAreConfirmedOrRefused

/-- Signal brings a DOWN link to TRAINING; FEC lock restarts its numbering and sends IDENTITY; an IDENTITY flit in order gives the
partner, and where a commit left the link's check owed it becomes MEMBER with exactly the partner expected and IDENTIFIED with
another, the check settled; otherwise a TRAINING link becomes IDENTIFIED; a malformed identity only counts. -/
def Obligations.LinksTrainAndIdentify : Prop :=
  LinksTrainUp ∧ IdentitiesAreTaken

/-- A flit in order is accepted and counted, its ACK frees what it covers, and an IDLE flit answers where nothing else is to be
sent; a NAK replays what is left, and the eighth replay without progress fences a MEMBER link; a corrupt or unexpected flit
changes no numbering and draws at most one NAK. Payload of an older epoch or on a fenced link is counted and reported, of a newer
one counted, and neither is delivered. -/
def Obligations.FlitsAreAcknowledgedAndDelivered : Prop :=
  FlitsAreAcknowledgedAndReplayed ∧ PayloadsNeedTheEpoch

/-- A MEMBER link silent beyond its bound, or one that loses lock, is fenced at its epoch and counted, and no other link changes;
stale messages of a waiting RECV are dropped and counted, and a collective that still lacks a member beyond its bound ends its
part and is counted. A due replica round starts with the next number, takes this device's digest, and at its bound ends and is
counted; a rank whose digest alone differs among three or more is expelled, its links fenced with no check owed and the epoch
moved on. -/
def Obligations.SilenceFencesAndReplicasCompare : Prop :=
  SilentLinksAreFenced ∧ ReplicaRoundsRun
end

