-- ==== Sys2Proof/Laws/Tab.lean ====
section
/-! SUPPORT. Laws of keyed tables: a read after a write, and the rising form of the keys. -/
namespace Sys2Proof.Machine
set_option Elab.async false

theorem Tab.get_set_self {α : Type} (d : α) (t : Tab α) (k : Nat) (v : α) : (t.set k v).get d k = v := by
  induction t with
  | nil => simp [Tab.set, Tab.get]
  | cons e t ih =>
    obtain ⟨k', v'⟩ := e
    simp only [Tab.set]
    split
    · simp [Tab.get]
    · split
      · simp [Tab.get]
      · rename_i h1 h2
        simp [Tab.get, h1, h2, ih]

theorem Tab.get_set_ne {α : Type} (d : α) (t : Tab α) {k j : Nat} (v : α) (h : j ≠ k) :
    (t.set k v).get d j = t.get d j := by
  induction t with
  | nil => simp [Tab.set, Tab.get, h]
  | cons e t ih =>
    obtain ⟨k', v'⟩ := e
    simp only [Tab.set]
    split
    · simp only [Tab.get, h, if_false]
      split
      · rw [if_neg (by omega), if_pos (by omega)]
      · rfl
    · split
      · subst_vars
        simp [Tab.get, h]
      · simp only [Tab.get, ih]

theorem Tab.get_set {α : Type} (d : α) (t : Tab α) (k j : Nat) (v : α) :
    (t.set k v).get d j = if j = k then v else t.get d j := by
  split
  · subst_vars; exact Tab.get_set_self d t _ v
  · exact Tab.get_set_ne d t v ‹_›

theorem Tab.get_upd_self {α : Type} (d : α) (t : Tab α) (k : Nat) (f : α → α) :
    (t.upd d k f).get d k = f (t.get d k) := Tab.get_set_self d t k _

theorem Tab.get_upd_ne {α : Type} (d : α) (t : Tab α) {k j : Nat} (f : α → α) (h : j ≠ k) :
    (t.upd d k f).get d j = t.get d j := Tab.get_set_ne d t _ h

theorem Tab.wf_cons {α : Type} (k : Nat) (v : α) (t : Tab α) :
    Tab.wf ((k, v) :: t) = true ↔ (∀ e ∈ t, k < e.1) ∧ Tab.wf t = true := by
  induction t generalizing k v with
  | nil => simp [Tab.wf]
  | cons e t ih =>
    obtain ⟨k', v'⟩ := e
    have h := ih k' v'
    simp only [Tab.wf, Bool.and_eq_true, decide_eq_true_eq, List.mem_cons, forall_eq_or_imp]
    rw [h]
    constructor
    · rintro ⟨h1, h2, h3⟩
      exact ⟨⟨h1, fun e he => Nat.lt_trans h1 (h2 e he)⟩, h2, h3⟩
    · rintro ⟨⟨h1, _⟩, h2, h3⟩
      exact ⟨h1, h2, h3⟩

theorem Tab.mem_set {α : Type} (t : Tab α) (k : Nat) (v : α) {e : Nat × α} (h : e ∈ t.set k v) :
    e = (k, v) ∨ e ∈ t := by
  induction t with
  | nil => simpa [Tab.set] using h
  | cons x t ih =>
    obtain ⟨k', v'⟩ := x
    simp only [Tab.set] at h
    split at h
    · simpa using h
    · split at h
      · simp only [List.mem_cons] at h ⊢
        tauto
      · simp only [List.mem_cons] at h ⊢
        rcases h with h | h
        · exact .inr (.inl h)
        · rcases ih h with h | h
          · exact .inl h
          · exact .inr (.inr h)

theorem Tab.set_wf {α : Type} (t : Tab α) (k : Nat) (v : α) (h : t.wf = true) : (t.set k v).wf = true := by
  induction t with
  | nil => rfl
  | cons x t ih =>
    obtain ⟨k', v'⟩ := x
    have h' := (Tab.wf_cons k' v' t).1 h
    simp only [Tab.set]
    split
    · rw [Tab.wf_cons]
      refine ⟨fun e he => ?_, h⟩
      rcases List.mem_cons.1 he with rfl | he
      · assumption
      · exact Nat.lt_trans ‹_› (h'.1 e he)
    · split
      · subst_vars
        exact (Tab.wf_cons _ v t).2 h'
      · rw [Tab.wf_cons]
        refine ⟨fun e he => ?_, ih h'.2⟩
        rcases Tab.mem_set t k v he with rfl | he
        · simp only; omega
        · exact h'.1 e he

theorem Tab.filter_wf {α : Type} (t : Tab α) (p : Nat × α → Bool) (h : t.wf = true) : Tab.wf (t.filter p) = true := by
  induction t with
  | nil => rfl
  | cons x t ih =>
    obtain ⟨k', v'⟩ := x
    have h' := (Tab.wf_cons k' v' t).1 h
    rw [List.filter_cons]
    split
    · exact (Tab.wf_cons _ _ _).2 ⟨fun e he => h'.1 e (List.mem_filter.1 he).1, ih h'.2⟩
    · exact ih h'.2

theorem Tab.get_filter_key {α : Type} (d : α) (t : Tab α) (p : Nat → Bool) (k : Nat) (h : t.wf = true) :
    Tab.get d (t.filter fun e => p e.1) k = if p k then t.get d k else d := by
  induction t with
  | nil => simp [Tab.get]
  | cons x t ih =>
    obtain ⟨k', v'⟩ := x
    have h' := (Tab.wf_cons k' v' t).1 h
    rw [List.filter_cons]
    simp only
    by_cases hk : k = k'
    · subst hk
      by_cases hp : p k
      · simp [hp, Tab.get]
      · simp only [hp, if_false, Bool.false_eq_true]
        rw [ih h'.2]; simp [hp]
    · have low : k < k' → ∀ l : Tab α, (∀ e ∈ l, k' < e.1) → Tab.get d l k = d := by
        intro hlt l hl
        cases l with
        | nil => rfl
        | cons y l =>
          have := hl y (by simp)
          simp only [Tab.get]
          rw [if_neg (by omega), if_pos (by omega)]
      by_cases hp : p k'
      · simp only [hp, if_true, Tab.get, hk, if_false, ih h'.2]
        split <;> simp
      · simp only [hp, if_false, Bool.false_eq_true, ih h'.2, Tab.get, hk]
        by_cases hlt : k < k'
        · simp [low hlt t h'.1, hlt]
        · simp [hlt]

end Sys2Proof.Machine
end

