-- ==== Sys2Proof/Laws/Store.lean ====
section
/-! SUPPORT. Laws of byte stores: a read after a write, and the canonical form that every operation keeps. -/
namespace Sys2Proof.Machine
set_option Elab.async false

/-! ### Memories are tables of bytes -/

theorem Memory.put_eq_set (m : Memory) (a : Nat) (b : Byte) : m.put a b = Tab.set m a b := by
  induction m with
  | nil => rfl
  | cons x t ih =>
    obtain ⟨k, v⟩ := x
    simp only [Memory.put, Tab.set, ih]

theorem Memory.find_put_self (m : Memory) (a : Nat) (b : Byte) : (m.put a b).find a = some b := by
  induction m with
  | nil => simp [Memory.put, Memory.find]
  | cons x t ih =>
    obtain ⟨k, v⟩ := x
    simp only [Memory.put]
    split
    · simp [Memory.find]
    · split
      · simp [Memory.find]
      · rename_i h1 h2
        simp [Memory.find, h1, h2, ih]

theorem Memory.find_put_ne (m : Memory) {a j : Nat} (b : Byte) (h : j ≠ a) : (m.put a b).find j = m.find j := by
  induction m with
  | nil => simp [Memory.put, Memory.find, h]
  | cons x t ih =>
    obtain ⟨k, v⟩ := x
    simp only [Memory.put]
    split
    · simp only [Memory.find, h, if_false]
      split
      · rw [if_neg (by omega), if_pos (by omega)]
      · rfl
    · split
      · subst_vars
        simp [Memory.find, h]
      · simp only [Memory.find, ih]

theorem Memory.find_low (m : Memory) (a : Nat) (h : ∀ e ∈ m, a < e.1) : Memory.find m a = none := by
  cases m with
  | nil => rfl
  | cons x t =>
    obtain ⟨k, v⟩ := x
    have := h (k, v) (by simp)
    simp only [Memory.find]
    rw [if_neg (by simp at this; omega), if_pos (by simpa using this)]

theorem Memory.find_filter (m : Memory) (p : Nat → Bool) (a : Nat) (h : m.wf = true) :
    Memory.find (m.filter fun c => p c.1) a = if p a then m.find a else none := by
  induction m with
  | nil => simp [Memory.find]
  | cons x t ih =>
    obtain ⟨k, v⟩ := x
    have h' := (Tab.wf_cons k v t).1 h
    have ih := ih h'.2
    rw [List.filter_cons]
    by_cases hk : a = k
    · subst hk
      by_cases hp : p a
      · simp [hp, Memory.find]
      · simp [hp] at ih ⊢
        exact ih
    · have low : a < k → Memory.find t a = none := fun hlt =>
        Memory.find_low t a fun e he => Nat.lt_trans hlt (h'.1 e he)
      by_cases hp : p k
      · simp only [hp, if_true, Memory.find, hk, if_false]
        rw [ih]
        split <;> simp
      · simp only [hp, if_false, Bool.false_eq_true, Memory.find, hk, ih]
        by_cases hlt : a < k
        · simp [hlt, low hlt]
        · simp [hlt]

/-! ### Store.write -/

theorem Store.write_base (m : Store) (a : Nat) (b : Byte) : (m.write a b).base = m.base := by
  simp only [Store.write]; split <;> rfl

theorem Store.write_salts (m : Store) (a : Nat) (b : Byte) : (m.write a b).salts = m.salts := by
  simp only [Store.write]; split <;> rfl

theorem Store.write_saltOf (m : Store) (a j : Nat) (b : Byte) : (m.write a b).saltOf j = m.saltOf j := by
  simp [Store.saltOf, Store.write_base, Store.write_salts]

theorem Store.write_unlisted (m : Store) (a j : Nat) (b : Byte) : (m.write a b).unlisted j = m.unlisted j := by
  simp [Store.unlisted, Store.write_saltOf]

theorem Store.wf_iff (m : Store) : m.wf = true ↔ Memory.wf m.cells = true ∧ Tab.wf m.salts = true
    ∧ (∀ e ∈ m.salts, e.2 ≠ m.base) ∧ ∀ c ∈ m.cells, ¬(m.saltOf c.1 = 0 ∧ c.2 = 0) := by
  simp only [Store.wf, Bool.and_eq_true, List.all_eq_true, bne_iff_ne, ne_eq, and_assoc, Bool.not_eq_true', Bool.and_eq_false_iff,
    beq_eq_false_iff_ne, not_and_or]

/-- A byte just written reads back. -/
theorem Store.read_write_self (m : Store) (a : Nat) (b : Byte) (h : m.wf = true) : (m.write a b).read a = b := by
  have hc := ((Store.wf_iff m).1 h).1
  rw [Store.read, Store.write_unlisted]
  simp only [Store.write]
  split
  · rename_i hz
    have := Memory.find_filter m.cells (fun j => j != a) a hc
    simp only [Memory.drop_]
    rw [this]
    simp [Store.unlisted, hz.1, hz.2]
  · simp [Memory.find_put_self]

/-- A write leaves every other byte. -/
theorem Store.read_write_ne (m : Store) {a j : Nat} (b : Byte) (h : m.wf = true) (hj : j ≠ a) :
    (m.write a b).read j = m.read j := by
  have hc := ((Store.wf_iff m).1 h).1
  rw [Store.read, Store.write_unlisted, Store.read]
  simp only [Store.write]
  split
  · have := Memory.find_filter m.cells (fun j => j != a) j hc
    simp only [Memory.drop_]
    rw [this]
    simp [hj]
  · simp [Memory.find_put_ne _ _ hj]

theorem Store.write_wf (m : Store) (a : Nat) (b : Byte) (h : m.wf = true) : (m.write a b).wf = true := by
  obtain ⟨h1, h2, h3, h4⟩ := (Store.wf_iff m).1 h
  rw [Store.wf_iff, Store.write_salts, Store.write_base]
  refine ⟨?_, h2, h3, ?_⟩
  · simp only [Store.write]
    split
    · exact Tab.filter_wf _ _ h1
    · simp only [Memory.put_eq_set]; exact Tab.set_wf _ _ _ h1
  · intro c hc
    rw [Store.write_saltOf]
    simp only [Store.write] at hc
    split at hc
    · exact h4 c (List.mem_filter.1 hc).1
    · rename_i hz
      simp only [Memory.put_eq_set] at hc
      rcases Tab.mem_set _ _ _ hc with rfl | hc
      · exact hz
      · exact h4 c hc

/-! ### Store.writeN -/

theorem Store.writeN_wf (m : Store) (a : Nat) (bs : List Byte) (h : m.wf = true) : (m.writeN a bs).wf = true := by
  induction bs generalizing m a with
  | nil => exact h
  | cons b t ih => exact ih _ _ (Store.write_wf m a b h)

theorem Store.writeN_base (m : Store) (a : Nat) (bs : List Byte) : (m.writeN a bs).base = m.base := by
  induction bs generalizing m a with
  | nil => rfl
  | cons b t ih => simp [Store.writeN, ih, Store.write_base]

/-- Bytes outside a written range read as before. -/
theorem Store.read_writeN_out (m : Store) (a : Nat) (bs : List Byte) (j : Nat) (h : m.wf = true)
    (hj : j < a ∨ a + bs.length ≤ j) : (m.writeN a bs).read j = m.read j := by
  induction bs generalizing m a with
  | nil => rfl
  | cons b t ih =>
    simp only [List.length_cons] at hj
    simp only [Store.writeN]
    rw [ih _ _ (Store.write_wf m a b h) (by omega), Store.read_write_ne m b h (by omega)]

/-- Byte `i` of a string just written reads back. -/
theorem Store.read_writeN_in (m : Store) (a : Nat) (bs : List Byte) (i : Nat) (h : m.wf = true) (hi : i < bs.length) :
    (m.writeN a bs).read (a + i) = bs[i] := by
  induction bs generalizing m a i with
  | nil => simp at hi
  | cons b t ih =>
    simp only [Store.writeN]
    cases i with
    | zero =>
      rw [Store.read_writeN_out _ _ _ _ (Store.write_wf m a b h) (by omega)]
      simpa using Store.read_write_self m a b h
    | succ i =>
      have := ih (m.write a b) (a + 1) i (Store.write_wf m a b h) (by simpa using hi)
      simpa [Nat.add_assoc, Nat.add_comm 1 i] using this

/-! ### Pages and whole stores -/

theorem Store.zero_wf : Store.zero.wf = true := by decide

theorem Store.unspecified_wf (salt : Nat) : (Store.unspecified salt).wf = true := by
  simp [Store.unspecified, Store.wf, Memory.wf, Tab.wf]

theorem Store.saltOf_setPage (m : Store) (p salt a : Nat) (h : m.wf = true) :
    (m.setPage p salt).saltOf a = if a / 4096 = p then salt else m.saltOf a := by
  have h2 := ((Store.wf_iff m).1 h).2.1
  simp only [Store.saltOf, Store.setPage]
  split
  · subst_vars
    have := Tab.get_filter_key m.base m.salts (fun j => j != p) (a / 4096) h2
    rw [this]
    by_cases hp : a / 4096 = p <;> simp [hp]
  · rw [Tab.get_set]

theorem Store.setPage_wf (m : Store) (p salt : Nat) (h : m.wf = true) : (m.setPage p salt).wf = true := by
  obtain ⟨h1, h2, h3, h4⟩ := (Store.wf_iff m).1 h
  rw [Store.wf_iff]
  refine ⟨Tab.filter_wf _ _ h1, ?_, ?_, ?_⟩
  · simp only [Store.setPage]
    split
    · exact Tab.filter_wf _ _ h2
    · exact Tab.set_wf _ _ _ h2
  · intro e he
    simp only [Store.setPage] at he ⊢
    split at he
    · exact h3 e (List.mem_filter.1 he).1
    · rcases Tab.mem_set _ _ _ he with rfl | he
      · simpa using ‹_›
      · exact h3 e he
  · intro c hc
    rw [Store.saltOf_setPage m p salt c.1 h]
    simp only [Store.setPage, List.mem_filter] at hc
    rw [if_neg (by simpa using hc.2)]
    exact h4 c hc.1

/-- A page made unspecified reads free values. -/
theorem Store.read_setPage (m : Store) (p salt a : Nat) (h : m.wf = true) (ha : a / 4096 = p) :
    (m.setPage p salt).read a = if salt = 0 then 0 else Config.freeByte salt a := by
  have h1 := ((Store.wf_iff m).1 h).1
  have hs := Store.saltOf_setPage m p salt a h
  rw [if_pos ha] at hs
  have hf : (m.setPage p salt).cells.find a = none := by
    have := Memory.find_filter m.cells (fun j => j / 4096 != p) a h1
    simp only [Store.setPage, this]
    simp [ha]
  simp [Store.read, hf, Store.unlisted, hs]

/-- A page change leaves the bytes of other pages. -/
theorem Store.read_setPage_ne (m : Store) (p salt a : Nat) (h : m.wf = true) (ha : a / 4096 ≠ p) :
    (m.setPage p salt).read a = m.read a := by
  have h1 := ((Store.wf_iff m).1 h).1
  have hs := Store.saltOf_setPage m p salt a h
  rw [if_neg ha] at hs
  have hf : (m.setPage p salt).cells.find a = m.cells.find a := by
    have := Memory.find_filter m.cells (fun j => j / 4096 != p) a h1
    simp only [Store.setPage, this]
    simp [ha]
  simp [Store.read, hf, Store.unlisted, hs]

theorem Store.readN_writeN (m : Store) (a : Nat) (bs : List Byte) (h : m.wf = true) : (m.writeN a bs).readN a bs.length = bs := by
  apply List.ext_getElem
  · simp [Store.readN]
  · intro i h1 h2
    simp [Store.readN, Store.read_writeN_in m a bs i h h2]

theorem Store.readN_writeN_out (m : Store) (a b n : Nat) (bs : List Byte) (h : m.wf = true)
    (hd : b + n ≤ a ∨ a + bs.length ≤ b) : (m.writeN a bs).readN b n = m.readN b n := by
  unfold Store.readN
  apply List.map_congr_left
  intro i hi
  have := List.mem_range.mp hi
  exact Store.read_writeN_out m a bs _ h (by omega)

end Sys2Proof.Machine
end

