-- ==== Sys2Proof/Laws/Keeps.lean ====
section
/-! SUPPORT. What every operation of the machine keeps: the queue of waiting commands, the part's fuses,
   and the form `State.Ok`.
`Keeps s t` is proved once per operation and composed by `Keeps.trans`. -/
namespace Sys2Proof.Machine
set_option Elab.async false

/-- `t` has the queue and the part of `s`, the form of a state if `s` has it,
   and every unit of `s` whose bit is clear in `m`. -/
structure Keeps (m : Nat) (s t : State) : Prop where
  pending : t.pending = s.pending
  part    : t.part = s.part
  ok      : s.Ok → t.Ok
  time    : m.testBit 0 = false → t.time = s.time
  pins    : m.testBit 1 = false → t.pins = s.pins
  boot    : m.testBit 2 = false → t.boot = s.boot
  dev     : m.testBit 3 = false → t.dev = s.dev
  host    : m.testBit 4 = false → t.host = s.host
  img     : m.testBit 5 = false → t.img = s.img
  pools   : m.testBit 6 = false → t.pools = s.pools
  west    : m.testBit 7 = false → t.west = s.west
  east    : m.testBit 8 = false → t.east = s.east
  seq     : m.testBit 9 = false → t.seq = s.seq
  mem     : m.testBit 10 = false → t.mem = s.mem
  intake  : m.testBit 11 = false → t.intake = s.intake
  out     : m.testBit 12 = false → t.out = s.out
  tally   : m.testBit 13 = false → t.tally = s.tally
  link    : m.testBit 14 = false → t.link = s.link
  rec_    : m.testBit 15 = false → t.rec_ = s.rec_
  freeCtr : m.testBit 16 = false → t.freeCtr = s.freeCtr

theorem Keeps.refl {m : Nat} (s : State) : Keeps m s s :=
  ⟨rfl, rfl, id, fun _ => rfl, fun _ => rfl, fun _ => rfl, fun _ => rfl, fun _ => rfl, fun _ => rfl, fun _ => rfl,
   fun _ => rfl, fun _ => rfl,
   fun _ => rfl, fun _ => rfl, fun _ => rfl, fun _ => rfl, fun _ => rfl, fun _ => rfl, fun _ => rfl, fun _ => rfl⟩

theorem Keeps.trans {m : Nat} {s t u : State} (h : Keeps m s t) (k : Keeps m t u) : Keeps m s u :=
  ⟨k.pending.trans h.pending, k.part.trans h.part, fun o => k.ok (h.ok o),
   fun b => (k.time b).trans (h.time b), fun b => (k.pins b).trans (h.pins b), fun b => (k.boot b).trans (h.boot b),
   fun b => (k.dev b).trans (h.dev b), fun b => (k.host b).trans (h.host b), fun b => (k.img b).trans (h.img b),
   fun b => (k.pools b).trans (h.pools b), fun b => (k.west b).trans (h.west b), fun b => (k.east b).trans (h.east b),
   fun b => (k.seq b).trans (h.seq b), fun b => (k.mem b).trans (h.mem b), fun b => (k.intake b).trans (h.intake b),
   fun b => (k.out b).trans (h.out b), fun b => (k.tally b).trans (h.tally b), fun b => (k.link b).trans (h.link b),
   fun b => (k.rec_ b).trans (h.rec_ b), fun b => (k.freeCtr b).trans (h.freeCtr b)⟩

/-- Every unit may have changed. -/
theorem Keeps.all {s t : State} (hp : t.pending = s.pending) (hq : t.part = s.part) (ho : s.Ok → t.Ok) : Keeps 0x1FFFF s t :=
  ⟨hp, hq, ho,
   fun b => absurd b (by decide), fun b => absurd b (by decide), fun b => absurd b (by decide),
   fun b => absurd b (by decide), fun b => absurd b (by decide), fun b => absurd b (by decide),
   fun b => absurd b (by decide), fun b => absurd b (by decide), fun b => absurd b (by decide),
   fun b => absurd b (by decide), fun b => absurd b (by decide), fun b => absurd b (by decide),
   fun b => absurd b (by decide), fun b => absurd b (by decide), fun b => absurd b (by decide),
   fun b => absurd b (by decide), fun b => absurd b (by decide)⟩

/-- A bit clear in the union of two masks is clear in the smaller one. -/
theorem testBit_low {a m k : Nat} (h : a &&& m = a) (b : m.testBit k = false) : a.testBit k = false := by
  rw [← h, Nat.testBit_and, b, Bool.and_false]

/-- Fewer units named are kept. -/
theorem Keeps.up {a m : Nat} {s t : State} (k : Keeps a s t) (h : a &&& m = a := by decide) : Keeps m s t :=
  ⟨k.pending, k.part, k.ok,
   fun b => k.time (testBit_low h b), fun b => k.pins (testBit_low h b), fun b => k.boot (testBit_low h b),
   fun b => k.dev (testBit_low h b), fun b => k.host (testBit_low h b), fun b => k.img (testBit_low h b),
   fun b => k.pools (testBit_low h b), fun b => k.west (testBit_low h b), fun b => k.east (testBit_low h b),
   fun b => k.seq (testBit_low h b), fun b => k.mem (testBit_low h b), fun b => k.intake (testBit_low h b),
   fun b => k.out (testBit_low h b), fun b => k.tally (testBit_low h b), fun b => k.link (testBit_low h b),
   fun b => k.rec_ (testBit_low h b), fun b => k.freeCtr (testBit_low h b)⟩

theorem Keeps.then_ {a m : Nat} {s t u : State} (h : Keeps m s t) (ha : a &&& m = a) (k : Keeps a t u) : Keeps m s u :=
  h.trans (k.up ha)

/-- The state of a pair that an operation answers. -/
theorem Keeps.of1 {α : Type} {m : Nat} {s t : State} {p : α × State} {a : α} (h : p = (a, t)) (k : Keeps m s p.2) :
    Keeps m s t := by subst h; exact k

/-- The state of a triple that an operation answers. -/
theorem Keeps.of2 {α β : Type} {m : Nat} {s t : State} {p : α × β × State} {a : α} {b : β} (h : p = (a, b, t))
    (k : Keeps m s p.2.2) : Keeps m s t := by subst h; exact k

theorem Keeps.ite {m : Nat} {s a b : State} {c : Prop} [Decidable c] (ha : Keeps m s a) (hb : Keeps m s b) :
    Keeps m s (if c then a else b) := by split <;> assumption

theorem Keeps.ite1 {α : Type} {m : Nat} {s : State} {a b : α × State} {c : Prop} [Decidable c] (ha : Keeps m s a.2)
    (hb : Keeps m s b.2) : Keeps m s (if c then a else b).2 := by split <;> assumption

theorem Keeps.ite2 {α β : Type} {m : Nat} {s : State} {a b : α × β × State} {c : Prop} [Decidable c] (ha : Keeps m s a.2.2)
    (hb : Keeps m s b.2.2) : Keeps m s (if c then a else b).2.2 := by split <;> assumption

/-! ### Forms that an update does not touch -/

theorem HostIf.ok_of {x y : HostIf} (hm : y.mem = x.mem) (he : y.evrLost = x.evrLost) (hr : y.rings = x.rings)
    (h : x.ok) : y.ok := ⟨hm ▸ h.1, he ▸ h.2.1, hr ▸ h.2.2⟩

theorem Dev.ok_of {x y : Dev} (hi : y.ignored = x.ignored) (h : x.ok) : y.ok := by
  unfold Dev.ok at *; rw [hi]; exact h

theorem Boot.ok_of {x y : Boot} (hs : y.stage = x.stage) (hf : y.fail = x.fail) (hl : y.slot = x.slot) (h : x.ok) : y.ok :=
  ⟨hs ▸ h.1, hf ▸ h.2.1, hl ▸ h.2.2⟩

theorem HalfUnit.ok_of {x y : HalfUnit} (hs : y.slipCount = x.slipCount) (hm : y.minRate = x.minRate) (hl : y.lost = x.lost)
    (h : x.ok) : y.ok := ⟨hs ▸ h.1, hm ▸ h.2.1, hl ▸ h.2.2⟩

theorem HalfUnit.ok_lost {x y : HalfUnit} {n k : Nat} (hs : y.slipCount = x.slipCount) (hm : y.minRate = x.minRate)
    (hl : y.lost = satAdd 0xFFFFFFFF n k) (h : x.ok) : y.ok := ⟨hs ▸ h.1, hm ▸ h.2.1, hl ▸ Nat.min_le_left _ _⟩

theorem HalfUnit.ok_slip {x y : HalfUnit} {n k : Nat} (hs : y.slipCount = satAdd 0xFFFF n k) (hm : y.minRate = x.minRate)
    (hl : y.lost = x.lost) (h : x.ok) : y.ok := ⟨hs ▸ Nat.min_le_left _ _, hm ▸ h.2.1, hl ▸ h.2.2⟩

theorem HostIf.ok_evrLost {x y : HostIf} {n k : Nat} (hm : y.mem = x.mem) (he : y.evrLost = satAdd 0xFFFFFFFF n k)
    (hr : y.rings = x.rings) (h : x.ok) : y.ok := ⟨hm ▸ h.1, he ▸ Nat.min_le_left _ _, hr ▸ h.2.2⟩

theorem Dev.ok_sat {x : Dev} {n k : Nat} (hi : x.ignored = satAdd 0xFFFF n k) : x.ok := by
  unfold Dev.ok; rw [hi]; exact Nat.min_le_left _ _

theorem Seq.ok_of {x y : Seq} (hh : y.hearths = x.hearths) (h : x.ok) : y.ok := by
  unfold Seq.ok at *; rw [hh]; exact h

theorem Mem.ok_of {x y : Mem} (hd : y.dram = x.dram) (hs : y.shared = x.shared) (h0 : y.local0 = x.local0)
    (h1 : y.local1 = x.local1) (hc : y.check = x.check) (h : x.ok) : y.ok :=
  ⟨hd ▸ h.1, hs ▸ h.2.1, h0 ▸ h.2.2.1, h1 ▸ h.2.2.2.1, hc ▸ h.2.2.2.2⟩

/-! ### Updates of one field -/

variable {m : Nat} {s t : State}

theorem Keeps.setTime {x} (h : Keeps m s t) (hm : m.testBit 0 = true := by decide) :
    Keeps m s { t with time := x } :=
  ⟨h.pending, h.part, fun o => let k := h.ok o; ⟨k.host, k.dev, k.boot, k.west, k.east, k.seq, k.mem⟩,
   fun b => absurd hm (by rw [b]; decide), h.pins, h.boot, h.dev, h.host, h.img, h.pools, h.west, h.east, h.seq, h.mem,
   h.intake, h.out, h.tally, h.link, h.rec_, h.freeCtr⟩

theorem Keeps.setPins {x} (h : Keeps m s t) (hm : m.testBit 1 = true := by decide) :
    Keeps m s { t with pins := x } :=
  ⟨h.pending, h.part, fun o => let k := h.ok o; ⟨k.host, k.dev, k.boot, k.west, k.east, k.seq, k.mem⟩,
   h.time, fun b => absurd hm (by rw [b]; decide), h.boot, h.dev, h.host, h.img, h.pools, h.west, h.east, h.seq, h.mem,
   h.intake, h.out, h.tally, h.link, h.rec_, h.freeCtr⟩

theorem Keeps.setBoot {x} (h : Keeps m s t) (hx : t.boot.ok → x.ok) (hm : m.testBit 2 = true := by decide) :
    Keeps m s { t with boot := x } :=
  ⟨h.pending, h.part, fun o => let k := h.ok o; ⟨k.host, k.dev, hx k.boot, k.west, k.east, k.seq, k.mem⟩,
   h.time, h.pins, fun b => absurd hm (by rw [b]; decide), h.dev, h.host, h.img, h.pools, h.west, h.east, h.seq, h.mem,
   h.intake, h.out, h.tally, h.link, h.rec_, h.freeCtr⟩

theorem Keeps.setDev {x} (h : Keeps m s t) (hx : t.dev.ok → x.ok) (hm : m.testBit 3 = true := by decide) :
    Keeps m s { t with dev := x } :=
  ⟨h.pending, h.part, fun o => let k := h.ok o; ⟨k.host, hx k.dev, k.boot, k.west, k.east, k.seq, k.mem⟩,
   h.time, h.pins, h.boot, fun b => absurd hm (by rw [b]; decide), h.host, h.img, h.pools, h.west, h.east, h.seq, h.mem,
   h.intake, h.out, h.tally, h.link, h.rec_, h.freeCtr⟩

theorem Keeps.setHost {x} (h : Keeps m s t) (hx : t.host.ok → x.ok) (hm : m.testBit 4 = true := by decide) :
    Keeps m s { t with host := x } :=
  ⟨h.pending, h.part, fun o => let k := h.ok o; ⟨hx k.host, k.dev, k.boot, k.west, k.east, k.seq, k.mem⟩,
   h.time, h.pins, h.boot, h.dev, fun b => absurd hm (by rw [b]; decide), h.img, h.pools, h.west, h.east, h.seq, h.mem,
   h.intake, h.out, h.tally, h.link, h.rec_, h.freeCtr⟩

theorem Keeps.setImg {x} (h : Keeps m s t) (hm : m.testBit 5 = true := by decide) :
    Keeps m s { t with img := x } :=
  ⟨h.pending, h.part, fun o => let k := h.ok o; ⟨k.host, k.dev, k.boot, k.west, k.east, k.seq, k.mem⟩,
   h.time, h.pins, h.boot, h.dev, h.host, fun b => absurd hm (by rw [b]; decide), h.pools, h.west, h.east, h.seq, h.mem,
   h.intake, h.out, h.tally, h.link, h.rec_, h.freeCtr⟩

theorem Keeps.setPools {x} (h : Keeps m s t) (hm : m.testBit 6 = true := by decide) :
    Keeps m s { t with pools := x } :=
  ⟨h.pending, h.part, fun o => let k := h.ok o; ⟨k.host, k.dev, k.boot, k.west, k.east, k.seq, k.mem⟩,
   h.time, h.pins, h.boot, h.dev, h.host, h.img, fun b => absurd hm (by rw [b]; decide), h.west, h.east, h.seq, h.mem,
   h.intake, h.out, h.tally, h.link, h.rec_, h.freeCtr⟩

theorem Keeps.setWest {x} (h : Keeps m s t) (hx : t.west.ok → x.ok) (hm : m.testBit 7 = true := by decide) :
    Keeps m s { t with west := x } :=
  ⟨h.pending, h.part, fun o => let k := h.ok o; ⟨k.host, k.dev, k.boot, hx k.west, k.east, k.seq, k.mem⟩,
   h.time, h.pins, h.boot, h.dev, h.host, h.img, h.pools, fun b => absurd hm (by rw [b]; decide), h.east, h.seq, h.mem,
   h.intake, h.out, h.tally, h.link, h.rec_, h.freeCtr⟩

theorem Keeps.setEast {x} (h : Keeps m s t) (hx : t.east.ok → x.ok) (hm : m.testBit 8 = true := by decide) :
    Keeps m s { t with east := x } :=
  ⟨h.pending, h.part, fun o => let k := h.ok o; ⟨k.host, k.dev, k.boot, k.west, hx k.east, k.seq, k.mem⟩,
   h.time, h.pins, h.boot, h.dev, h.host, h.img, h.pools, h.west, fun b => absurd hm (by rw [b]; decide), h.seq, h.mem,
   h.intake, h.out, h.tally, h.link, h.rec_, h.freeCtr⟩

theorem Keeps.setSeq {x} (h : Keeps m s t) (hx : t.seq.ok → x.ok) (hm : m.testBit 9 = true := by decide) :
    Keeps m s { t with seq := x } :=
  ⟨h.pending, h.part, fun o => let k := h.ok o; ⟨k.host, k.dev, k.boot, k.west, k.east, hx k.seq, k.mem⟩,
   h.time, h.pins, h.boot, h.dev, h.host, h.img, h.pools, h.west, h.east, fun b => absurd hm (by rw [b]; decide), h.mem,
   h.intake, h.out, h.tally, h.link, h.rec_, h.freeCtr⟩

theorem Keeps.setMem {x} (h : Keeps m s t) (hx : t.mem.ok → x.ok) (hm : m.testBit 10 = true := by decide) :
    Keeps m s { t with mem := x } :=
  ⟨h.pending, h.part, fun o => let k := h.ok o; ⟨k.host, k.dev, k.boot, k.west, k.east, k.seq, hx k.mem⟩,
   h.time, h.pins, h.boot, h.dev, h.host, h.img, h.pools, h.west, h.east, h.seq, fun b => absurd hm (by rw [b]; decide),
   h.intake, h.out, h.tally, h.link, h.rec_, h.freeCtr⟩

theorem Keeps.setIntake {x} (h : Keeps m s t) (hm : m.testBit 11 = true := by decide) :
    Keeps m s { t with intake := x } :=
  ⟨h.pending, h.part, fun o => let k := h.ok o; ⟨k.host, k.dev, k.boot, k.west, k.east, k.seq, k.mem⟩,
   h.time, h.pins, h.boot, h.dev, h.host, h.img, h.pools, h.west, h.east, h.seq, h.mem,
   fun b => absurd hm (by rw [b]; decide), h.out, h.tally, h.link, h.rec_, h.freeCtr⟩

theorem Keeps.setOut {x} (h : Keeps m s t) (hm : m.testBit 12 = true := by decide) :
    Keeps m s { t with out := x } :=
  ⟨h.pending, h.part, fun o => let k := h.ok o; ⟨k.host, k.dev, k.boot, k.west, k.east, k.seq, k.mem⟩,
   h.time, h.pins, h.boot, h.dev, h.host, h.img, h.pools, h.west, h.east, h.seq, h.mem, h.intake,
   fun b => absurd hm (by rw [b]; decide), h.tally, h.link, h.rec_, h.freeCtr⟩

theorem Keeps.setTally {x} (h : Keeps m s t) (hm : m.testBit 13 = true := by decide) :
    Keeps m s { t with tally := x } :=
  ⟨h.pending, h.part, fun o => let k := h.ok o; ⟨k.host, k.dev, k.boot, k.west, k.east, k.seq, k.mem⟩,
   h.time, h.pins, h.boot, h.dev, h.host, h.img, h.pools, h.west, h.east, h.seq, h.mem, h.intake, h.out,
   fun b => absurd hm (by rw [b]; decide), h.link, h.rec_, h.freeCtr⟩

theorem Keeps.setLink {x} (h : Keeps m s t) (hm : m.testBit 14 = true := by decide) :
    Keeps m s { t with link := x } :=
  ⟨h.pending, h.part, fun o => let k := h.ok o; ⟨k.host, k.dev, k.boot, k.west, k.east, k.seq, k.mem⟩,
   h.time, h.pins, h.boot, h.dev, h.host, h.img, h.pools, h.west, h.east, h.seq, h.mem, h.intake, h.out, h.tally,
   fun b => absurd hm (by rw [b]; decide), h.rec_, h.freeCtr⟩

theorem Keeps.setRec {x} (h : Keeps m s t) (hm : m.testBit 15 = true := by decide) :
    Keeps m s { t with rec_ := x } :=
  ⟨h.pending, h.part, fun o => let k := h.ok o; ⟨k.host, k.dev, k.boot, k.west, k.east, k.seq, k.mem⟩,
   h.time, h.pins, h.boot, h.dev, h.host, h.img, h.pools, h.west, h.east, h.seq, h.mem, h.intake, h.out, h.tally, h.link,
   fun b => absurd hm (by rw [b]; decide), h.freeCtr⟩

theorem Keeps.setFreeCtr {x} (h : Keeps m s t) (hm : m.testBit 16 = true := by decide) :
    Keeps m s { t with freeCtr := x } :=
  ⟨h.pending, h.part, fun o => let k := h.ok o; ⟨k.host, k.dev, k.boot, k.west, k.east, k.seq, k.mem⟩,
   h.time, h.pins, h.boot, h.dev, h.host, h.img, h.pools, h.west, h.east, h.seq, h.mem, h.intake, h.out, h.tally, h.link,
   h.rec_, fun b => absurd hm (by rw [b]; decide)⟩

/-! ### Tables whose entries all have a form -/

theorem Tab.get_all {α : Type} {P : α → Prop} (d : α) (t : Tab α) (k : Nat) (hd : P d) (h : ∀ e ∈ t, P e.2) :
    P (t.get d k) := by
  induction t with
  | nil => exact hd
  | cons x t ih =>
    obtain ⟨k', v⟩ := x
    simp only [Tab.get]
    split
    · exact h (k', v) (by simp)
    · split
      · exact hd
      · exact ih fun e he => h e (by simp [he])

theorem Tab.set_all {α : Type} {P : α → Prop} (t : Tab α) (k : Nat) (v : α) (hv : P v) (h : ∀ e ∈ t, P e.2) :
    ∀ e ∈ t.set k v, P e.2 := by
  intro e he
  rcases Tab.mem_set t k v he with rfl | he
  · exact hv
  · exact h e he

theorem Tab.upd_all {α : Type} {P : α → Prop} (d : α) (t : Tab α) (k : Nat) (f : α → α) (hd : P d)
    (hf : ∀ x, P x → P (f x)) (h : ∀ e ∈ t, P e.2) : ∀ e ∈ t.upd d k f, P e.2 :=
  Tab.set_all t k _ (hf _ (Tab.get_all d t k hd h)) h

/-! ### Updates of one unit -/

theorem updHalf_keeps (h : Half) (f : HalfUnit → HalfUnit) (s : State) (hf : ∀ u, u.ok → (f u).ok) :
    Keeps 0x180 s (updHalf h f s) := by
  cases h
  · exact Keeps.setWest (.refl s) (hf _)
  · exact Keeps.setEast (.refl s) (hf _)

theorem updRing_keeps (n : Nat) (f : RingPage → RingPage) (s : State)
    (hf : ∀ u, u.rejected ≤ 0xFFFF → (f u).rejected ≤ 0xFFFF) : Keeps 0x10 s (updRing n f s) :=
  Keeps.setHost (.refl s) fun o => ⟨o.1, o.2.1, Tab.upd_all (P := fun r : RingPage => r.rejected ≤ 0xFFFF) _ _ _ _
    (by decide) hf o.2.2⟩

theorem updHearth_keeps (p : Nat) (f : Hearth → Hearth) (s : State)
    (hf : ∀ u, u.frames.wf = true → (f u).frames.wf = true) : Keeps 0x200 s (updHearth p f s) :=
  Keeps.setSeq (.refl s) fun o => Tab.upd_all (P := fun x : Hearth => x.frames.wf = true) _ _ _ _ (by decide) hf o

theorem updPlace_keeps (l : Nat) (f : Place → Place) (s : State) : Keeps 0x200 s (updPlace l f s) := Keeps.setSeq (.refl s) id

theorem updHoop_keeps (h : Nat) (f : HoopUnit → HoopUnit) (s : State) : Keeps 0x200 s (updHoop h f s) := Keeps.setSeq (.refl s) id

theorem setKnot_keeps (k v : Nat) (s : State) : Keeps 0x200 s (setKnot k v s) := Keeps.setSeq (.refl s) id

theorem updDamper_keeps (g : Nat) (f : Damper → Damper) (s : State) : Keeps 0x400 s (updDamper g f s) := Keeps.setMem (.refl s) id

theorem updChan_keeps (c : Nat) (f : Channel → Channel) (s : State) : Keeps 0x400 s (updChan c f s) := Keeps.setMem (.refl s) id

theorem updPilot_keeps (h : Half) (f : Pilot → Pilot) (s : State) : Keeps 0x1000 s (updPilot h f s) := by
  cases h <;> exact Keeps.setOut (.refl s)

theorem forEach_keeps {α : Type} (l : List α) (f : α → State → State) (s : State) (hf : ∀ a t, Keeps m t (f a t)) :
    Keeps m s (forEach l f s) := by
  unfold forEach
  induction l generalizing s with
  | nil => exact .refl s
  | cons a l ih => exact .trans (hf a s) (ih _)

theorem hostWrite_keeps (a : Nat) (bs : List Byte) (s : State) : Keeps 0x10 s (hostWrite a bs s) :=
  Keeps.setHost (.refl s) fun o => ⟨Store.writeN_wf _ _ _ o.1, o.2.1, o.2.2⟩

theorem satAdd_le (m n k : Nat) : satAdd m n k ≤ m := Nat.min_le_left _ _

end Sys2Proof.Machine
end

