-- ==== Sys2Proof/Laws/Frame.lean ====
section
/-! SUPPORT. From what an operation keeps to the units it can change. -/
namespace Sys2Proof.Machine
set_option Elab.async false

/-- The bit of a unit in the masks of `Keeps`. -/
def DevUnit.bit : DevUnit → Nat
  | .time => 0
  | .pins => 1
  | .boot => 2
  | .dev => 3
  | .host => 4
  | .img => 5
  | .pools => 6
  | .west => 7
  | .east => 8
  | .seq => 9
  | .mem => 10
  | .intake => 11
  | .out => 12
  | .tally => 13
  | .link => 14
  | .recorder => 15
  | .free => 16

/-- An operation changes no unit but those of its mask. -/
theorem Keeps.only {m : Nat} {s t : State} (k : Keeps m s t) (l : List DevUnit)
    (h : ∀ u : DevUnit, u ∉ l → m.testBit u.bit = false) : OnlyUnits l s t := by
  refine ⟨k.pending, k.part, fun u hu => ?_⟩
  have b := h u hu
  cases u
  · exact k.time b
  · exact k.pins b
  · exact k.boot b
  · exact k.dev b
  · exact k.host b
  · exact k.img b
  · exact k.pools b
  · exact k.west b
  · exact k.east b
  · exact k.seq b
  · exact k.mem b
  · exact k.intake b
  · exact k.out b
  · exact k.tally b
  · exact k.link b
  · exact k.rec_ b
  · exact k.freeCtr b

/-- The same with the units that may change decided from the mask. -/
theorem Keeps.units {m : Nat} {s t : State} (k : Keeps m s t) (l : List DevUnit)
    (h : (([.time, .pins, .boot, .dev, .host, .img, .pools, .west, .east, .seq, .mem, .intake, .out, .tally, .link, .recorder,
      .free] : List DevUnit).all fun u => l.contains u || !m.testBit u.bit) = true) : OnlyUnits l s t := by
  refine k.only l fun u hu => ?_
  have hm := List.all_eq_true.mp h u (by cases u <;> decide)
  simpa [hu] using hm

theorem OnlyUnits.refl (l : List DevUnit) (s : State) : OnlyUnits l s s := ⟨rfl, rfl, fun u _ => by cases u <;> rfl⟩

theorem OnlyUnits.trans {l : List DevUnit} {s t u : State} (h : OnlyUnits l s t) (k : OnlyUnits l t u) : OnlyUnits l s u := by
  refine ⟨k.1.trans h.1, k.2.1.trans h.2.1, fun v hv => ?_⟩
  have a := h.2.2 v hv
  have b := k.2.2 v hv
  cases v <;> exact Eq.trans b a

/-- More units may change. -/
theorem OnlyUnits.mono {l l' : List DevUnit} {s t : State} (h : OnlyUnits l s t) (hl : ∀ u, u ∈ l → u ∈ l') :
    OnlyUnits l' s t := ⟨h.1, h.2.1, fun u hu => h.2.2 u fun hm => hu (hl u hm)⟩

end Sys2Proof.Machine
end

