-- ==== Sys2Proof/Laws/Hearth.lean ====
section
/-! SUPPORT. Laws of a firebox: its writes, its unspecified pages and the exchange of pages keep the canonical form. -/
namespace Sys2Proof.Machine
set_option Elab.async false

theorem Hearth.write_wf (x : Hearth) (off : Nat) (bs : List Byte) (h : x.frames.wf = true) :
    (x.write off bs).frames.wf = true := by
  induction bs generalizing x off with
  | nil => exact h
  | cons b t ih => exact ih _ _ (Store.write_wf _ _ _ h)

theorem Hearth.foldl_wf {α : Type} (l : List α) (f : Hearth → α → Hearth) (x : Hearth) (h : x.frames.wf = true)
    (hf : ∀ y a, y.frames.wf = true → (f y a).frames.wf = true) : (l.foldl f x).frames.wf = true := by
  induction l generalizing x with
  | nil => exact h
  | cons a l ih => exact ih _ (hf _ _ h)

theorem Hearth.scramble_wf (x : Hearth) (first n salt : Nat) (h : x.frames.wf = true) :
    (x.scramble first n salt).frames.wf = true :=
  Hearth.foldl_wf _ _ _ h fun y _ hy => Store.setPage_wf y.frames _ _ hy

theorem Hearth.swapPages_wf (x : Hearth) (a b n : Nat) (h : x.frames.wf = true) :
    (x.swapPages a b n).frames.wf = true := Hearth.foldl_wf _ _ _ h fun _ _ hy => hy

end Sys2Proof.Machine
end

