-- ==== Sys2Proof/Laws/KeepsOps.lean ====
section
/-! SUPPORT. What the operations of Machine/Ops.lean keep (Laws/Keeps.lean). -/
set_option linter.unusedTactic false
set_option linter.unreachableTactic false

namespace Sys2Proof.Machine
set_option Elab.async false

theorem addKnot_keeps (k : Nat) (v : Nat) (s : State) : Keeps 0x200 s (addKnot k v s) := by
  unfold addKnot
  repeat' (first
    | with_reducible (first
        | apply Keeps.refl | assumption | apply Keeps.then_ ?_ ?_ (setKnot_keeps ..))
    | decide)

theorem updKey_keeps (k : Nat) (f : Key → Key) (s : State) : Keeps 0x800 s (updKey k f s) := by
  unfold updKey
  repeat' (first
    | with_reducible (first
        | apply Keeps.refl | assumption)
    | with_reducible (first | apply Keeps.setIntake) | decide)

theorem updPort_keeps (n : Nat) (f : Port → Port) (s : State) : Keeps 0x800 s (updPort n f s) := by
  unfold updPort
  repeat' (first
    | with_reducible (first
        | apply Keeps.refl | assumption)
    | with_reducible (first | apply Keeps.setIntake) | decide)

theorem updDec_keeps (d : Nat) (f : Decoder → Decoder) (s : State) : Keeps 0x800 s (updDec d f s) := by
  unfold updDec
  repeat' (first
    | with_reducible (first
        | apply Keeps.refl | assumption)
    | with_reducible (first | apply Keeps.setIntake) | decide)

theorem updLink_keeps (k : Nat) (f : Link → Link) (s : State) : Keeps 0x4000 s (updLink k f s) := by
  unfold updLink
  repeat' (first
    | with_reducible (first
        | apply Keeps.refl | assumption)
    | with_reducible (first | apply Keeps.setLink) | decide)

theorem updStream_keeps (n : Nat) (f : Stream → Stream) (s : State) : Keeps 0x1000 s (updStream n f s) := by
  unfold updStream
  repeat' (first
    | with_reducible (first
        | apply Keeps.refl | assumption)
    | with_reducible (first | apply Keeps.setOut) | decide)

theorem bumpSeq_keeps (h : Half) (w : Nat) (k : Nat) (s : State) : Keeps 0x180 s (bumpSeq h w k s) := by
  unfold bumpSeq
  repeat' (first
    | with_reducible (first
        | apply Keeps.refl | assumption | apply Keeps.then_ ?_ ?_ (updHalf_keeps _ _ _ ?_))
    | exact (fun _ => HalfUnit.ok_of rfl rfl rfl) | intro _ _ | decide)

theorem bumpFg_keeps (h : Half) (w : Nat) (k : Nat) (s : State) : Keeps 0x180 s (bumpFg h w k s) := by
  unfold bumpFg
  repeat' (first
    | with_reducible (first
        | apply Keeps.refl | assumption | apply Keeps.then_ ?_ ?_ (updHalf_keeps _ _ _ ?_))
    | exact (fun _ => HalfUnit.ok_of rfl rfl rfl) | intro _ _ | decide)

theorem bumpDamp_keeps (h : Half) (w : Nat) (k : Nat) (s : State) : Keeps 0x180 s (bumpDamp h w k s) := by
  unfold bumpDamp
  repeat' (first
    | with_reducible (first
        | apply Keeps.refl | assumption | apply Keeps.then_ ?_ ?_ (updHalf_keeps _ _ _ ?_))
    | exact (fun _ => HalfUnit.ok_of rfl rfl rfl) | intro _ _ | decide)

theorem bumpXlat_keeps (h : Half) (w : Nat) (k : Nat) (s : State) : Keeps 0x180 s (bumpXlat h w k s) := by
  unfold bumpXlat
  repeat' (first
    | with_reducible (first
        | apply Keeps.refl | assumption | apply Keeps.then_ ?_ ?_ (updHalf_keeps _ _ _ ?_))
    | exact (fun _ => HalfUnit.ok_of rfl rfl rfl) | intro _ _ | decide)

theorem bumpCmp_keeps (h : Half) (w : Nat) (k : Nat) (s : State) : Keeps 0x180 s (bumpCmp h w k s) := by
  unfold bumpCmp
  repeat' (first
    | with_reducible (first
        | apply Keeps.refl | assumption | apply Keeps.then_ ?_ ?_ (updHalf_keeps _ _ _ ?_))
    | exact (fun _ => HalfUnit.ok_of rfl rfl rfl) | intro _ _ | decide)

theorem bumpOut_keeps (w : Nat) (k : Nat) (s : State) : Keeps 0x1000 s (bumpOut w k s) := by
  unfold bumpOut
  repeat' (first
    | with_reducible (first
        | apply Keeps.refl | assumption)
    | with_reducible (first | apply Keeps.setOut) | decide)

theorem bumpTally_keeps (w : Nat) (k : Nat) (s : State) : Keeps 0x2000 s (bumpTally w k s) := by
  unfold bumpTally
  repeat' (first
    | with_reducible (first
        | apply Keeps.refl | assumption)
    | with_reducible (first | apply Keeps.setTally) | decide)

theorem bumpPort_keeps (n : Nat) (w : Nat) (k : Nat) (s : State) : Keeps 0x800 s (bumpPort n w k s) := by
  unfold bumpPort
  repeat' (first
    | with_reducible (first
        | apply Keeps.refl | assumption | apply Keeps.then_ ?_ ?_ (updPort_keeps ..))
    | decide)

theorem bumpChan_keeps (c : Nat) (w : Nat) (k : Nat) (s : State) : Keeps 0x400 s (bumpChan c w k s) := by
  unfold bumpChan
  repeat' (first
    | with_reducible (first
        | apply Keeps.refl | assumption | apply Keeps.then_ ?_ ?_ (updChan_keeps ..))
    | decide)

theorem bumpSys_keeps (w : Nat) (k : Nat) (s : State) : Keeps 0x4000 s (bumpSys w k s) := by
  unfold bumpSys
  repeat' (first
    | with_reducible (first
        | apply Keeps.refl | assumption)
    | with_reducible (first | apply Keeps.setLink) | decide)

theorem bumpLink_keeps (n : Nat) (w : Nat) (k : Nat) (s : State) : Keeps 0x4000 s (bumpLink n w k s) := by
  unfold bumpLink
  repeat' (first
    | with_reducible (first
        | apply Keeps.refl | assumption | apply Keeps.then_ ?_ ?_ (updLink_keeps ..))
    | decide)

theorem fresh_keeps (s : State) : Keeps 0x10000 s (fresh s).2 := by
  unfold fresh
  repeat' (first
    | with_reducible (first
        | apply Keeps.refl | assumption)
    | with_reducible (first | apply Keeps.setFreeCtr) | decide)

theorem advanceTo_keeps (hp : Nat) (s : State) : Keeps 0x1 s (advanceTo hp s) := by
  unfold advanceTo
  repeat' (first
    | extract_lets
    | with_reducible (first
        | apply Keeps.refl | assumption)
    | split | with_reducible (first | apply Keeps.ite) | with_reducible (first | apply Keeps.setTime) | decide
    | dsimp +zetaDelta only)

theorem idle_keeps (s : State) : Keeps 0x1 s (idle s) := by
  unfold idle
  repeat' (first
    | with_reducible (first
        | apply Keeps.refl | assumption | apply Keeps.then_ ?_ ?_ (advanceTo_keeps ..))
    | split | decide)

theorem statusWord_keeps (off : Nat) (v : Nat) (s : State) : Keeps 0x10 s (statusWord off v s) := by
  unfold statusWord
  repeat' (first
    | with_reducible (first
        | apply Keeps.refl | assumption | apply Keeps.then_ ?_ ?_ (hostWrite_keeps ..))
    | decide)

theorem statusCopy_keeps (s : State) : Keeps 0x10 s (statusCopy s) := by
  unfold statusCopy
  repeat' (first
    | with_reducible (first
        | apply Keeps.refl | assumption | apply Keeps.then_ ?_ ?_ (hostWrite_keeps ..))
    | decide)

theorem ignoreWrite_keeps (s : State) : Keeps 0x18 s (ignoreWrite s) := by
  unfold ignoreWrite
  repeat' (first
    | with_reducible (first
        | apply Keeps.refl | assumption | apply Keeps.then_ ?_ ?_ (statusCopy_keeps ..))
    | with_reducible (first | apply Keeps.setDev) | exact Dev.ok_of rfl | exact (fun _ => Dev.ok_sat rfl) | decide)

theorem writeReply_keeps (t : Tagged) (kind : Nat) (status : Nat) (eff : Word) (detail : Word) (s : State) :
    Keeps 0x10 s (writeReply t kind status eff detail s) := by
  unfold writeReply
  repeat' (first
    | extract_lets
    | with_reducible (first
        | apply Keeps.refl | assumption | apply Keeps.then_ ?_ ?_ (updRing_keeps _ _ _ ?_)
        | apply Keeps.then_ ?_ ?_ (hostWrite_keeps ..) | apply Keeps.then_ ?_ ?_ (statusWord_keeps ..))
    | with_reducible (first | apply Keeps.ite) | exact (fun _ h => h) | intro _ _ | decide | dsimp +zetaDelta only)

theorem replyOne_keeps (t : Tagged) (status : Nat) (eff : Word) (detail : Word) (s : State) :
    Keeps 0x10 s (replyOne t status eff detail s) := by
  unfold replyOne
  repeat' (first
    | with_reducible (first
        | apply Keeps.refl | assumption | apply Keeps.then_ ?_ ?_ (updRing_keeps _ _ _ ?_)
        | apply Keeps.then_ ?_ ?_ (writeReply_keeps ..))
    | split | exact (fun _ h => h) | exact satAdd_le .. | intro _ _ | decide)

theorem replyAccept_keeps (t : Tagged) (detail : Word) (s : State) : Keeps 0x10 s (replyAccept t detail s) := by
  unfold replyAccept
  repeat' (first
    | with_reducible (first
        | apply Keeps.refl | assumption | apply Keeps.then_ ?_ ?_ (updRing_keeps _ _ _ ?_)
        | apply Keeps.then_ ?_ ?_ (writeReply_keeps ..))
    | exact (fun _ h => h) | intro _ _ | decide)

theorem replyFinal_keeps (t : Tagged) (status : Nat) (eff : Word) (detail : Word) (s : State) :
    Keeps 0x10 s (replyFinal t status eff detail s) := by
  unfold replyFinal
  repeat' (first
    | with_reducible (first
        | apply Keeps.refl | assumption | apply Keeps.then_ ?_ ?_ (updRing_keeps _ _ _ ?_)
        | apply Keeps.then_ ?_ ?_ (writeReply_keeps ..))
    | exact (fun _ h => h) | intro _ _ | decide)

theorem headCopy_keeps (ring : Nat) (s : State) : Keeps 0x10 s (headCopy ring s) := by
  unfold headCopy
  repeat' (first
    | with_reducible (first
        | apply Keeps.refl | assumption | apply Keeps.then_ ?_ ?_ (statusWord_keeps ..))
    | decide)

theorem postEvent_keeps (code ctx hoop : Nat) (eff detail : Word) (s : State) :
    Keeps 0x10 s (postEvent code ctx hoop eff detail s) := by
  unfold postEvent
  simp only
  split
  · exact Keeps.setHost (.refl s) (HostIf.ok_evrLost rfl rfl rfl)
  · generalize hw : hostWrite _ _ s = s1
    have h1 : Keeps 0x10 s s1 := by rw [← hw]; exact (hostWrite_keeps ..).up
    apply Keeps.trans _ (statusWord_keeps _ _ _).up
    exact h1.trans (Keeps.setHost (.refl s1) (HostIf.ok_of rfl rfl rfl))

theorem queueRecord_keeps (r : FaultRec) (s : State) : Keeps 0x180 s (queueRecord r s) := by
  unfold queueRecord
  repeat' (first
    | extract_lets
    | with_reducible (first
        | apply Keeps.refl | assumption | apply Keeps.then_ ?_ ?_ (updHalf_keeps _ _ _ ?_))
    | split | with_reducible (first | apply Keeps.ite) | exact (fun _ => HalfUnit.ok_of rfl rfl rfl)
    | exact (fun _ => HalfUnit.ok_lost rfl rfl rfl) | exact (fun _ => HalfUnit.ok_slip rfl rfl rfl) | intro _ _
    | decide | dsimp +zetaDelta only)

theorem setEntry_keeps (key : FaultKey) (c : Option Coalesce) (s : State) : Keeps 0x180 s (setEntry key c s) := by
  unfold setEntry
  repeat' (first
    | extract_lets
    | with_reducible (first
        | apply Keeps.refl | assumption | apply Keeps.then_ ?_ ?_ (updHalf_keeps _ _ _ ?_))
    | split | with_reducible (first | apply Keeps.ite) | exact (fun _ => HalfUnit.ok_of rfl rfl rfl) | intro _ _
    | decide | dsimp +zetaDelta only)

theorem coalesceExpire_keeps (c : Coalesce) (s : State) : Keeps 0x180 s (coalesceExpire c s) := by
  unfold coalesceExpire
  repeat' (first
    | with_reducible (first
        | apply Keeps.refl | assumption | apply Keeps.then_ ?_ ?_ (queueRecord_keeps ..)
        | apply Keeps.then_ ?_ ?_ (setEntry_keeps ..))
    | decide)

theorem repeatExpire_keeps (c : Coalesce) (s : State) : Keeps 0x180 s (repeatExpire c s) := by
  unfold repeatExpire
  repeat' (first
    | with_reducible (first
        | apply Keeps.refl | assumption | apply Keeps.then_ ?_ ?_ (queueRecord_keeps ..)
        | apply Keeps.then_ ?_ ?_ (setEntry_keeps ..))
    | split | decide)

theorem settleKey_keeps (key : FaultKey) (n : Nat) (s : State) : Keeps 0x180 s (settleKey key n s) := by
  induction n generalizing s with
  | zero => exact .refl s
  | succ n ih =>
    unfold settleKey
    repeat' (first
      | apply Keeps.refl | (apply Keeps.trans _ (ih _)) | exact (repeatExpire_keeps ..).up | exact (coalesceExpire_keeps ..).up | split)

theorem gather_keeps (r : FaultRec) (s : State) : Keeps 0x180 s (gather r s) := by
  unfold gather
  repeat' (first
    | extract_lets
    | with_reducible (first
        | apply Keeps.refl | assumption | apply Keeps.then_ ?_ ?_ (updHalf_keeps _ _ _ ?_)
        | apply Keeps.then_ ?_ ?_ (bumpFg_keeps ..) | apply Keeps.then_ ?_ ?_ (setEntry_keeps ..)
        | apply Keeps.then_ ?_ ?_ (settleKey_keeps ..))
    | split | with_reducible (first | apply Keeps.ite) | exact (fun _ => HalfUnit.ok_of rfl rfl rfl)
    | exact (fun _ => HalfUnit.ok_lost rfl rfl rfl) | exact (fun _ => HalfUnit.ok_slip rfl rfl rfl) | intro _ _
    | decide | dsimp +zetaDelta only)

theorem setDevState_keeps (st : DevState) (s : State) : Keeps 0x18 s (setDevState st s) := by
  unfold setDevState
  repeat' (first
    | extract_lets
    | with_reducible (first
        | apply Keeps.refl | assumption | apply Keeps.then_ ?_ ?_ (statusCopy_keeps ..)
        | apply Keeps.then_ ?_ ?_ (postEvent_keeps ..))
    | split | with_reducible (first | apply Keeps.ite) | with_reducible (first | apply Keeps.setDev)
    | exact Dev.ok_of rfl | decide | dsimp +zetaDelta only)

theorem settleState_keeps (n : Nat) (s : State) : Keeps 0x18 s (settleState n s) := by
  induction n generalizing s with
  | zero => exact .refl s
  | succ n ih =>
    unfold settleState
    split
    · exact .trans (setDevState_keeps ..).up (ih _)
    · exact .refl s

theorem leadBy_keeps (h : Half) (s : State) : Keeps 0x198 s (leadBy h s) := by
  unfold leadBy
  repeat' (first
    | extract_lets
    | with_reducible (first
        | apply Keeps.refl | assumption | apply Keeps.then_ ?_ ?_ (updHalf_keeps _ _ _ ?_)
        | apply Keeps.then_ ?_ ?_ (statusCopy_keeps ..) | apply Keeps.then_ ?_ ?_ (postEvent_keeps ..))
    | split | with_reducible (first | apply Keeps.ite) | with_reducible (first | apply Keeps.setDev)
    | exact Dev.ok_of rfl | exact (fun _ => HalfUnit.ok_of rfl rfl rfl) | intro _ _ | decide | dsimp +zetaDelta only)

theorem leaveService_keeps (h : Half) (s : State) : Keeps 0x198 s (leaveService h s) := by
  unfold leaveService
  repeat' (first
    | with_reducible (first
        | apply Keeps.refl | assumption | apply Keeps.then_ ?_ ?_ (updHalf_keeps _ _ _ ?_)
        | apply Keeps.then_ ?_ ?_ (statusCopy_keeps ..) | apply Keeps.then_ ?_ ?_ (settleState_keeps ..))
    | exact (fun _ => HalfUnit.ok_of rfl rfl rfl) | intro _ _ | decide)

theorem oweReset_keeps (h : Half) (s : State) : Keeps 0x180 s (oweReset h s) := by
  unfold oweReset
  repeat' (first
    | with_reducible (first
        | apply Keeps.refl | assumption | apply Keeps.then_ ?_ ?_ (updHalf_keeps _ _ _ ?_))
    | split | with_reducible (first | apply Keeps.ite | apply Keeps.ite1 | apply Keeps.ite2)
    | exact (fun _ => HalfUnit.ok_of rfl rfl rfl) | intro _ _ | decide)

theorem latch_keeps (h : Half) (cls : FaultClass) (s : State) : Keeps 0x198 s (latch h cls s) := by
  unfold latch
  repeat' (first
    | with_reducible (first
        | apply Keeps.refl | assumption | apply Keeps.then_ ?_ ?_ (updHalf_keeps _ _ _ ?_)
        | apply Keeps.then_ ?_ ?_ (leaveService_keeps ..) | apply Keeps.then_ ?_ ?_ (oweReset_keeps ..))
    | split | with_reducible (first | apply Keeps.ite | apply Keeps.ite1 | apply Keeps.ite2)
    | exact (fun _ => HalfUnit.ok_of rfl rfl rfl) | intro _ _ | decide)

theorem report_keeps (r : FaultRec) (s : State) : Keeps 0x198 s (report r s) := by
  unfold report
  repeat' (first
    | extract_lets
    | with_reducible (first
        | apply Keeps.refl | assumption | apply Keeps.then_ ?_ ?_ (gather_keeps ..)
        | apply Keeps.then_ ?_ ?_ (latch_keeps ..))
    | split | with_reducible (first | apply Keeps.ite) | decide | dsimp +zetaDelta only)

theorem writeSinkHead_keeps (s : State) : Keeps 0x10 s (writeSinkHead s) := by
  unfold writeSinkHead
  repeat' (first
    | with_reducible (first
        | apply Keeps.refl | assumption | apply Keeps.then_ ?_ ?_ (hostWrite_keeps ..))
    | decide)

theorem placeEntry_keeps (bs : List Byte) (s : State) : Keeps 0x8010 s (placeEntry bs s) := by
  unfold placeEntry
  repeat' (first
    | extract_lets
    | with_reducible (first
        | apply Keeps.refl | assumption | apply Keeps.then_ ?_ ?_ (hostWrite_keeps ..))
    | with_reducible (first | apply Keeps.ite) | with_reducible (first | apply Keeps.setRec) | decide
    | dsimp +zetaDelta only)

theorem loseEntry_keeps (s : State) : Keeps 0x8000 s (loseEntry s) := by
  unfold loseEntry
  repeat' (first
    | with_reducible (first
        | apply Keeps.refl | assumption)
    | with_reducible (first | apply Keeps.setRec) | decide)

theorem recordEntryAt_keeps (g : Gate) (kind : Nat) (digest : Bool) (body : List Byte) (s : State) :
    Keeps 0x8010 s (recordEntryAt g kind digest body s) := by
  unfold recordEntryAt
  repeat' (first
    | extract_lets
    | with_reducible (first
        | apply Keeps.refl | assumption | apply Keeps.then_ ?_ ?_ (writeSinkHead_keeps ..)
        | apply Keeps.then_ ?_ ?_ (placeEntry_keeps ..) | apply Keeps.then_ ?_ ?_ (loseEntry_keeps ..))
    | split | with_reducible (first | apply Keeps.ite | apply Keeps.ite1 | apply Keeps.ite2)
    | with_reducible (first | apply Keeps.setRec) | decide | dsimp +zetaDelta only)

theorem recordEntry_keeps (kind : Nat) (digest : Bool) (body : List Byte) (s : State) :
    Keeps 0x8010 s (recordEntry kind digest body s) := by
  unfold recordEntry
  repeat' (first
    | with_reducible (first
        | apply Keeps.refl | assumption | apply Keeps.then_ ?_ ?_ (recordEntryAt_keeps ..))
    | decide)

end Sys2Proof.Machine
end

