-- ==== Sys2Proof/Laws/KeepsPackets.lean ====
section
/-! SUPPORT. What the operations of Machine/Packets.lean keep (Laws/Keeps.lean). -/
set_option linter.unusedTactic false
set_option linter.unreachableTactic false

namespace Sys2Proof.Machine
set_option Elab.async false

theorem fetch_keeps (ring : Nat) (h : Head) (pkt : List Word) (s : State) : Keeps 0x8010 s (fetch ring h pkt s) := by
  unfold fetch
  repeat' (first
    | extract_lets
    | with_reducible (first
        | apply Keeps.refl | assumption | apply Keeps.then_ ?_ ?_ (updRing_keeps _ _ _ ?_)
        | apply Keeps.then_ ?_ ?_ (recordEntry_keeps ..))
    | split | with_reducible (first | apply Keeps.ite)
    | with_reducible (first | apply Keeps.setRec | apply Keeps.setHost) | exact HostIf.ok_of rfl rfl rfl
    | exact (fun _ h => h) | intro _ _ | decide | dsimp +zetaDelta only)

theorem packetStep_keeps {m : Nat} (ring : Nat) (pkt : List Word) (body : Tagged → State → State) (s : State)
    (hb : ∀ t u, Keeps m u (body t u)) (hm : 0x8190 &&& m = 0x8190) : Keeps m s (packetStep ring pkt body s) := by
  have up : ∀ {a s t}, Keeps a s t → a &&& 0x8190 = a → Keeps m s t := fun k h =>
    (k.up h : Keeps 0x8190 _ _).up hm
  unfold packetStep
  simp only
  split
  · exact .refl s
  · split
    · exact up (bumpDamp_keeps ..) (by decide)
    · split
      · exact .refl s
      split
      · exact ((up (fetch_keeps ..) (by decide)).trans (up (replyOne_keeps ..) (by decide))).trans (up (headCopy_keeps ..) (by decide))
      · exact (up (fetch_keeps ..) (by decide)).trans (hb _ _)

theorem answer_keeps (t : Tagged) (status : Nat) (eff : Word) (detail : Word) (s : State) :
    Keeps 0x10 s (answer t status eff detail s) := by
  unfold answer
  repeat' (first
    | with_reducible (first
        | apply Keeps.refl | assumption | apply Keeps.then_ ?_ ?_ (replyOne_keeps ..)
        | apply Keeps.then_ ?_ ?_ (headCopy_keeps ..))
    | decide)

theorem accept_keeps (t : Tagged) (detail : Word) (s : State) : Keeps 0x10 s (accept t detail s) := by
  unfold accept
  repeat' (first
    | with_reducible (first
        | apply Keeps.refl | assumption | apply Keeps.then_ ?_ ?_ (replyAccept_keeps ..)
        | apply Keeps.then_ ?_ ?_ (headCopy_keeps ..))
    | decide)

end Sys2Proof.Machine
end

