-- ==== Sys2Proof/Laws/KeepsStores.lean ====
section
/-! SUPPORT. What the operations of Machine/Stores.lean keep (Laws/Keeps.lean). -/
set_option linter.unusedTactic false
set_option linter.unreachableTactic false

namespace Sys2Proof.Machine
set_option Elab.async false

theorem setChecks_ok (c co n : Nat) (m : Mem) (h : m.ok) : (setChecks c co n m).ok := by
  unfold setChecks
  generalize List.range n = l
  induction l generalizing m with
  | nil => exact h
  | cons i l ih => exact ih _ ⟨h.1, h.2.1, h.2.2.1, h.2.2.2.1, Store.write_wf _ _ _ h.2.2.2.2⟩

theorem putDram_keeps (c co : Nat) (bs : List Byte) (s : State) : Keeps 0x400 s (putDram c co bs s) :=
  Keeps.setMem (.refl s) fun k => setChecks_ok _ _ _ _ ⟨Store.writeN_wf _ _ _ k.1, k.2⟩

theorem putLoc_keeps (l : Loc) (b : Byte) (s : State) : Keeps 0x410 s (putLoc l b s) := by
  cases l with
  | dram c o => exact (putDram_keeps ..).up
  | shared o => exact Keeps.setMem (.refl s) fun k => ⟨k.1, Store.write_wf _ _ _ k.2.1, k.2.2.1, k.2.2.2⟩
  | host a => exact Keeps.setHost (.refl s) fun k => ⟨Store.write_wf _ _ _ k.1, k.2.1, k.2.2⟩
  | fire p o => exact .refl s

theorem physWrite_keeps (a : Nat) (bs : List Byte) (s : State) : Keeps 0x410 s (physWrite a bs s).2 := by
  induction bs generalizing a s with
  | nil => exact .refl s
  | cons b t ih =>
    unfold physWrite
    split
    · exact .refl s
    · exact (Keeps.trans (putLoc_keeps ..).up (ih _ _))

theorem touchBlock_keeps (c block : Nat) (s : State) : Keeps 0x400 s (touchBlock c block s) := by
  unfold touchBlock
  repeat' (first
    | extract_lets
    | with_reducible (first
        | apply Keeps.refl | assumption | apply Keeps.then_ ?_ ?_ (updChan_keeps ..)
        | apply Keeps.then_ ?_ ?_ (bumpChan_keeps ..))
    | split | with_reducible (first | apply Keeps.ite | apply Keeps.ite1 | apply Keeps.ite2) | intro _ _ | decide
    | dsimp +zetaDelta only)

theorem accessBlock_keeps (write : Bool) (e : Nat × Nat) (s : State) : Keeps 0x400 s (accessBlock write e s) := by
  unfold accessBlock
  repeat' (first
    | extract_lets
    | with_reducible (first
        | apply Keeps.refl | assumption | apply Keeps.then_ ?_ ?_ (updChan_keeps ..)
        | apply Keeps.then_ ?_ ?_ (bumpChan_keeps ..) | apply Keeps.then_ ?_ ?_ (touchBlock_keeps ..))
    | split | with_reducible (first | apply Keeps.ite | apply Keeps.ite1 | apply Keeps.ite2) | intro _ _ | decide
    | dsimp +zetaDelta only)

theorem countAccess_keeps (write : Bool) (a n : Nat) (s : State) : Keeps 0x400 s (countAccess write a n s) := by
  unfold countAccess
  repeat' (first
    | with_reducible (first
        | apply Keeps.refl | assumption | apply Keeps.then_ ?_ ?_ (accessBlock_keeps ..)
        | apply Keeps.trans ?_ (forEach_keeps _ _ _ ?_))
    | intro _ _ | decide)

theorem setCache_keeps (u : CacheUnit) (c : List Leaf) (s : State) : Keeps 0x600 s (setCache u c s) := by
  unfold setCache
  repeat' (first
    | with_reducible (first
        | apply Keeps.refl | assumption | apply Keeps.then_ ?_ ?_ (updHearth_keeps _ _ _ ?_))
    | split | with_reducible (first | apply Keeps.setMem) | exact Mem.ok_of rfl rfl rfl rfl rfl | exact (fun _ h => h)
    | intro _ _ | decide)

theorem cacheInsert_keeps (u : CacheUnit) (l : Leaf) (s : State) : Keeps 0x10600 s (cacheInsert u l s) := by
  unfold cacheInsert
  repeat' (first
    | extract_lets
    | with_reducible (first
        | apply Keeps.refl | assumption | apply Keeps.then_ ?_ ?_ (fresh_keeps ..)
        | refine Keeps.of1 (by assumption) ?_ | apply Keeps.then_ ?_ ?_ (setCache_keeps ..))
    | split | with_reducible (first | apply Keeps.ite | apply Keeps.ite1) | decide | dsimp +zetaDelta only)

theorem countWalk_keeps (r : Reader) (ctx va : Nat) (s : State) : Keeps 0x10580 s (countWalk r ctx va s) := by
  unfold countWalk
  repeat' (first
    | with_reducible (first
        | apply Keeps.refl | assumption | apply Keeps.then_ ?_ ?_ (bumpXlat_keeps ..)
        | apply Keeps.then_ ?_ ?_ (fresh_keeps ..) | apply Keeps.then_ ?_ ?_ (countAccess_keeps ..)
        | apply Keeps.trans ?_ (forEach_keeps _ _ _ ?_) | refine Keeps.of1 (by assumption) ?_)
    | intro _ _ | decide)

theorem walkFor_keeps (r : Reader) (ctx va : Nat) (write : Bool) (s : State) :
    Keeps 0x10780 s (walkFor r ctx va write s).2 := by
  unfold walkFor
  repeat' (first
    | extract_lets
    | with_reducible (first
        | apply Keeps.refl | assumption | apply Keeps.then_ ?_ ?_ (bumpXlat_keeps ..)
        | apply Keeps.then_ ?_ ?_ (cacheInsert_keeps ..) | apply Keeps.then_ ?_ ?_ (countWalk_keeps ..)
        | refine Keeps.of1 (by assumption) ?_)
    | split | decide | dsimp +zetaDelta only)

theorem translate_keeps (r : Reader) (ctx : Nat) (va : Nat) (write : Bool) (s : State) :
    Keeps 0x10780 s (translate r ctx va write s).2 := by
  unfold translate
  repeat' (first
    | with_reducible (first
        | apply Keeps.refl | assumption | apply Keeps.then_ ?_ ?_ (bumpXlat_keeps ..)
        | apply Keeps.then_ ?_ ?_ (walkFor_keeps ..) | refine Keeps.of1 (by assumption) ?_)
    | split | decide)

theorem noteUnmapped_keeps (r : Reader) (c : FaultClass) (s : State) : Keeps 0x180 s (noteUnmapped r c s) := by
  unfold noteUnmapped
  repeat' (first
    | with_reducible (first
        | apply Keeps.refl | assumption | apply Keeps.then_ ?_ ?_ (bumpXlat_keeps ..))
    | split | decide)

theorem readPieces_keeps (r : Reader) (ctx : Nat) (l : List (Nat × Nat)) (s : State) :
    Keeps 0x10780 s (readPieces r ctx l s).2 := by
  induction l generalizing s with
  | nil => exact .refl s
  | cons x t ih =>
    unfold readPieces
    repeat' (first
      | extract_lets
      | with_reducible (first
          | apply Keeps.refl | assumption | apply Keeps.then_ ?_ ?_ (translate_keeps ..)
          | apply Keeps.then_ ?_ ?_ (noteUnmapped_keeps ..) | apply Keeps.then_ ?_ ?_ (fresh_keeps ..) | apply Keeps.trans ?_ (ih _)
          | apply Keeps.then_ ?_ ?_ (countAccess_keeps ..)
          | refine Keeps.of1 (by assumption) ?_)
      | split | decide)

theorem vread_keeps (r : Reader) (ctx : Nat) (va : Nat) (n : Nat) (s : State) :
    Keeps 0x10780 s (vread r ctx va n s).2 := by
  unfold vread
  repeat' (first
    | with_reducible (first
        | apply Keeps.refl | assumption | apply Keeps.then_ ?_ ?_ (readPieces_keeps ..)
        | refine Keeps.of1 (by assumption) ?_)
    | decide)

theorem writePieces_keeps (r : Reader) (ctx : Nat) (l : List (Nat × Nat)) (bs : List Byte) (s : State) :
    Keeps 0x10790 s (writePieces r ctx l bs s).2 := by
  induction l generalizing s bs with
  | nil => exact .refl s
  | cons x t ih =>
    unfold writePieces
    repeat' (first
      | extract_lets
      | with_reducible (first
          | apply Keeps.refl | assumption | apply Keeps.then_ ?_ ?_ (translate_keeps ..)
          | apply Keeps.then_ ?_ ?_ (noteUnmapped_keeps ..) | apply Keeps.then_ ?_ ?_ (physWrite_keeps ..)
          | apply Keeps.then_ ?_ ?_ (countAccess_keeps ..) | apply Keeps.trans ?_ (ih _ _) | refine Keeps.of1 (by assumption) ?_)
      | split | decide)

theorem vwrite_keeps (r : Reader) (ctx : Nat) (va : Nat) (bs : List Byte) (s : State) :
    Keeps 0x10790 s (vwrite r ctx va bs s).2 := by
  unfold vwrite
  repeat' (first
    | with_reducible (first
        | apply Keeps.refl | assumption | apply Keeps.then_ ?_ ?_ (writePieces_keeps ..)
        | refine Keeps.of1 (by assumption) ?_)
    | decide)

theorem vprobe_keeps (r : Reader) (ctx : Nat) (w : Bool) (l : List (Nat × Nat)) (s : State) :
    Keeps 0x10780 s (vprobe r ctx w l s).2 := by
  induction l generalizing s with
  | nil => exact .refl s
  | cons x t ih =>
    unfold vprobe
    split
    · exact Keeps.of1 ‹_› (translate_keeps ..).up
    · exact (Keeps.of1 ‹_› (translate_keeps ..).up).trans (ih _)

theorem transPieces_keeps (r : Reader) (ctx : Nat) (write : Bool) (x0 : List (Nat × Nat)) (s : State) :
    Keeps 0x10780 s (transPieces r ctx write x0 s).2 := by
  induction x0 generalizing s with
  | nil => exact .refl _
  | cons e l ih =>
    unfold transPieces
    repeat' (first
      | with_reducible (first
          | apply Keeps.refl | assumption | apply Keeps.then_ ?_ ?_ (translate_keeps ..) | apply Keeps.then_ ?_ ?_ (ih ..)
          | refine Keeps.of1 (by assumption) ?_)
      | split | decide)

theorem vwriteWhole_keeps (r : Reader) (ctx va : Nat) (bs : List Byte) (s : State) :
    Keeps 0x10790 s (vwriteWhole r ctx va bs s).2 := by
  unfold vwriteWhole
  repeat' (first
    | with_reducible (first
        | apply Keeps.refl | assumption | apply Keeps.then_ ?_ ?_ (noteUnmapped_keeps ..)
        | apply Keeps.then_ ?_ ?_ (vwrite_keeps ..) | apply Keeps.then_ ?_ ?_ (transPieces_keeps ..)
        | refine Keeps.of1 (by assumption) ?_)
    | split | decide)

theorem filterCaches_keeps (hearths : List Nat) (keep : Leaf → Bool) (s : State) :
    Keeps 0x600 s (filterCaches hearths keep s) := by
  unfold filterCaches
  repeat' (first
    | extract_lets
    | with_reducible (first
        | apply Keeps.refl | assumption | apply Keeps.then_ ?_ ?_ (updHearth_keeps _ _ _ ?_)
        | apply Keeps.trans ?_ (forEach_keeps _ _ _ ?_))
    | with_reducible (first | apply Keeps.ite) | with_reducible (first | apply Keeps.setMem)
    | exact Mem.ok_of rfl rfl rfl rfl rfl | exact (fun _ h => h) | intro _ _ | decide | dsimp +zetaDelta only)

theorem invalidate_keeps (h : Half) (ctx : Nat) (base : Nat) (pages : Nat) (s : State) :
    Keeps 0x600 s (invalidate h ctx base pages s) := by
  unfold invalidate
  repeat' (first
    | with_reducible (first
        | apply Keeps.refl | assumption | apply Keeps.then_ ?_ ?_ (filterCaches_keeps ..))
    | decide)

theorem queueInval_keeps (ctx base pages : Nat) (by_ : InvalBy) (s : State) :
    Keeps 0x20 s (queueInval ctx base pages by_ s) := by
  unfold queueInval
  repeat' (first
    | with_reducible (first
        | apply Keeps.refl | assumption)
    | with_reducible (first | apply Keeps.setImg) | decide)

theorem emptyCaches_keeps (s : State) : Keeps 0x600 s (emptyCaches s) := by
  unfold emptyCaches
  repeat' (first
    | with_reducible (first
        | apply Keeps.refl | assumption | apply Keeps.then_ ?_ ?_ (filterCaches_keeps ..))
    | decide)

end Sys2Proof.Machine
end

