-- ==== Sys2Proof/Laws/KeepsShed.lean ====
section
/-! SUPPORT. What the operations of Machine/Shed.lean keep (Laws/Keeps.lean). -/
set_option linter.unusedTactic false
set_option linter.unreachableTactic false

namespace Sys2Proof.Machine
set_option Elab.async false

theorem breach_keeps (g : Nat) (x : Nat × Nat × Nat) (s : State) : Keeps 0x398 s (breach g x s) := by
  unfold breach
  repeat' (first
    | extract_lets
    | with_reducible (first
        | apply Keeps.refl | assumption | apply Keeps.then_ ?_ ?_ (updHoop_keeps ..)
        | apply Keeps.then_ ?_ ?_ (bumpDamp_keeps ..) | apply Keeps.then_ ?_ ?_ (report_keeps ..))
    | split | with_reducible (first | apply Keeps.ite | apply Keeps.ite1 | apply Keeps.ite2) | intro _ _ | decide
    | dsimp +zetaDelta only)

theorem reshed_keeps (g : Nat) (s : State) : Keeps 0x798 s (reshed g s) := by
  unfold reshed
  repeat' (first
    | extract_lets
    | with_reducible (first
        | apply Keeps.refl | assumption | apply Keeps.then_ ?_ ?_ (updDamper_keeps ..)
        | apply Keeps.then_ ?_ ?_ (bumpDamp_keeps ..) | apply Keeps.then_ ?_ ?_ (report_keeps ..)
        | apply Keeps.then_ ?_ ?_ (breach_keeps ..) | apply Keeps.trans ?_ (forEach_keeps _ _ _ ?_))
    | split | with_reducible (first | apply Keeps.ite | apply Keeps.ite1 | apply Keeps.ite2) | intro _ _ | decide
    | dsimp +zetaDelta only)

theorem lowerCapacity_keeps (g cap : Nat) (s : State) : Keeps 0x798 s (lowerCapacity g cap s) := by
  unfold lowerCapacity
  repeat' (first
    | with_reducible (first
        | apply Keeps.refl | assumption | apply Keeps.then_ ?_ ?_ (updDamper_keeps ..)
        | apply Keeps.then_ ?_ ?_ (bumpDamp_keeps ..) | apply Keeps.then_ ?_ ?_ (reshed_keeps ..))
    | split | with_reducible (first | apply Keeps.ite | apply Keeps.ite1 | apply Keeps.ite2) | intro _ _ | decide)

end Sys2Proof.Machine
end

