-- ==== Sys2Proof/Laws/KeepsRecords.lean ====
section
/-! SUPPORT. What the operations of Machine/Records.lean keep (Laws/Keeps.lean). -/
set_option linter.unusedTactic false
set_option linter.unreachableTactic false

namespace Sys2Proof.Machine
set_option Elab.async false

theorem countRecord_keeps (r : OutRec) (s : State) : Keeps 0x1000 s (countRecord r s) := by
  unfold countRecord
  repeat' (first
    | extract_lets
    | with_reducible (first
        | apply Keeps.refl | assumption | apply Keeps.then_ ?_ ?_ (bumpOut_keeps ..))
    | split | with_reducible (first | apply Keeps.ite) | decide | dsimp +zetaDelta only)

theorem setOutPage_keeps (r : OutRing) (o : OutPage) (s : State) : Keeps 0x10 s (setOutPage r o s) := by
  unfold setOutPage
  repeat' (first
    | with_reducible (first
        | apply Keeps.refl | assumption)
    | split | with_reducible (first | apply Keeps.setHost) | exact HostIf.ok_of rfl rfl rfl | decide)

theorem pushRecord_keeps (ring : OutRing) (copyOff : Nat) (bs : List Byte) (s : State) :
    Keeps 0x10 s (pushRecord ring copyOff bs s) := by
  unfold pushRecord
  repeat' (first
    | extract_lets
    | with_reducible (first
        | apply Keeps.refl | assumption | apply Keeps.then_ ?_ ?_ (hostWrite_keeps ..)
        | apply Keeps.then_ ?_ ?_ (statusWord_keeps ..) | apply Keeps.then_ ?_ ?_ (setOutPage_keeps ..))
    | with_reducible (first | apply Keeps.ite) | decide | dsimp +zetaDelta only)

theorem loseRecord_keeps (main : Bool) (r : OutRec) (s : State) : Keeps 0x1198 s (loseRecord main r s) := by
  unfold loseRecord
  repeat' (first
    | extract_lets
    | with_reducible (first
        | apply Keeps.refl | assumption | apply Keeps.then_ ?_ ?_ (updStream_keeps ..)
        | apply Keeps.then_ ?_ ?_ (bumpOut_keeps ..) | apply Keeps.then_ ?_ ?_ (report_keeps ..))
    | split | with_reducible (first | apply Keeps.ite) | with_reducible (first | apply Keeps.setOut) | decide
    | dsimp +zetaDelta only)

theorem emitRecord_keeps (main : Bool) (r : OutRec) (s : State) : Keeps 0x9198 s (emitRecord main r s) := by
  unfold emitRecord
  repeat' (first
    | extract_lets
    | with_reducible (first
        | apply Keeps.refl | assumption | apply Keeps.then_ ?_ ?_ (updStream_keeps ..)
        | apply Keeps.then_ ?_ ?_ (hostWrite_keeps ..) | apply Keeps.then_ ?_ ?_ (recordEntry_keeps ..)
        | apply Keeps.then_ ?_ ?_ (countRecord_keeps ..) | apply Keeps.then_ ?_ ?_ (pushRecord_keeps ..)
        | apply Keeps.then_ ?_ ?_ (loseRecord_keeps ..))
    | split | with_reducible (first | apply Keeps.ite | apply Keeps.ite1)
    | with_reducible (first | apply Keeps.setOut) | decide | dsimp +zetaDelta only)

theorem takeSeq_keeps (main : Bool) (n : Nat) (s : State) : Keeps 0x1000 s (takeSeq main n s).2 := by
  unfold takeSeq
  repeat' (first
    | extract_lets
    | with_reducible (first
        | apply Keeps.refl | assumption | apply Keeps.then_ ?_ ?_ (updStream_keeps ..))
    | split | with_reducible (first | apply Keeps.ite) | decide | dsimp +zetaDelta only)

theorem holdRecord_keeps (n : Nat) (cause : Nat) (s : State) : Keeps 0x9198 s (holdRecord n cause s) := by
  unfold holdRecord
  repeat' (first
    | extract_lets
    | with_reducible (first
        | apply Keeps.refl | assumption | apply Keeps.then_ ?_ ?_ (emitRecord_keeps ..)
        | apply Keeps.then_ ?_ ?_ (takeSeq_keeps ..) | refine Keeps.of1 (by assumption) ?_)
    | split | with_reducible (first | apply Keeps.ite | apply Keeps.ite1) | decide | dsimp +zetaDelta only)

theorem fallbackHolds_keeps (prog : Nat) (frame : List Byte) (s : State) :
    Keeps 0x9198 s (fallbackHolds prog frame s) := by
  unfold fallbackHolds
  repeat' (first
    | extract_lets
    | with_reducible (first
        | apply Keeps.refl | assumption | apply Keeps.trans ?_ (forEach_keeps _ _ _ ?_)
        | apply Keeps.then_ ?_ ?_ (emitRecord_keeps ..) | apply Keeps.then_ ?_ ?_ (takeSeq_keeps ..)
        | refine Keeps.of1 (by assumption) ?_)
    | split | with_reducible (first | apply Keeps.ite | apply Keeps.ite1) | intro _ _ | decide
    | dsimp +zetaDelta only)

theorem fallbackRecords_keeps (prog : Nat) (frame : List Byte) (trust : Nat) (output : List Byte) (digest : Word) (s : State) :
    Keeps 0x9198 s (fallbackRecords prog frame trust output digest s) := by
  unfold fallbackRecords
  repeat' (first
    | extract_lets
    | with_reducible (first
        | apply Keeps.refl | assumption | apply Keeps.trans ?_ (forEach_keeps _ _ _ ?_)
        | apply Keeps.then_ ?_ ?_ (emitRecord_keeps ..) | apply Keeps.then_ ?_ ?_ (takeSeq_keeps ..)
        | refine Keeps.of1 (by assumption) ?_)
    | split | with_reducible (first | apply Keeps.ite | apply Keeps.ite1) | intro _ _ | decide
    | dsimp +zetaDelta only)

end Sys2Proof.Machine
end

