-- ==== Sys2Proof/Laws/KeepsJobs.lean ====
section
/-! SUPPORT. What the operations of Machine/Jobs.lean keep (Laws/Keeps.lean). -/
set_option linter.unusedTactic false
set_option linter.unreachableTactic false

namespace Sys2Proof.Machine
set_option Elab.async false

theorem updJob_keeps (hoop : Nat) (f : Job → Job) (s : State) : Keeps 0x200 s (updJob hoop f s) := by
  unfold updJob
  repeat' (first
    | with_reducible (first
        | apply Keeps.refl | assumption | apply Keeps.then_ ?_ ?_ (updHoop_keeps ..))
    | decide)

theorem readFrames_keeps (h : Half) (ctx : Nat) (d : Entry) (args : List Word) (l : List Nat) (s : State) :
    Keeps 0x10780 s (readFrames h ctx d args l s).2 := by
  induction l generalizing s with
  | nil => rw [readFrames]; exact .refl s
  | cons k t ih =>
    rw [readFrames]
    exact (Keeps.trans (vread_keeps ..).up (ih _))

theorem holdForStep_keeps (hoop : Nat) (q : QJob) (args : Option (List Word)) (n : Nat) (s : State) :
    Keeps 0x19798 s (holdForStep hoop q args n s) := by
  unfold holdForStep
  repeat' (first
    | extract_lets
    | with_reducible (first
        | apply Keeps.refl | assumption | apply Keeps.then_ ?_ ?_ (holdRecord_keeps ..)
        | apply Keeps.then_ ?_ ?_ (readFrames_keeps ..) | refine Keeps.of1 (by assumption) ?_)
    | split | with_reducible (first | apply Keeps.ite | apply Keeps.ite1) | decide | dsimp +zetaDelta only)

theorem jobHolds_keeps (hoop : Nat) (q : QJob) (args : Option (List Word)) (next : Nat) (s : State) :
    Keeps 0x19798 s (jobHolds hoop q args next s) := by
  unfold jobHolds
  repeat' (first
    | with_reducible (first
        | apply Keeps.refl | assumption | apply Keeps.trans ?_ (forEach_keeps _ _ _ ?_)
        | apply Keeps.then_ ?_ ?_ (holdForStep_keeps ..))
    | intro _ _ | decide)

theorem finalReply_keeps (hoop : Nat) (q : QJob) (status : Nat) (eff : Nat) (charge : Nat) (s : State) :
    Keeps 0x8390 s (finalReply hoop q status eff charge s) := by
  unfold finalReply
  repeat' (first
    | extract_lets
    | with_reducible (first
        | apply Keeps.refl | assumption | apply Keeps.then_ ?_ ?_ (bumpSeq_keeps ..)
        | apply Keeps.then_ ?_ ?_ (bumpDamp_keeps ..) | apply Keeps.then_ ?_ ?_ (replyFinal_keeps ..)
        | apply Keeps.then_ ?_ ?_ (recordEntry_keeps ..))
    | split | with_reducible (first | apply Keeps.ite)
    | with_reducible (first | apply Keeps.setRec | apply Keeps.setSeq) | exact Seq.ok_of rfl | decide
    | dsimp +zetaDelta only)

theorem sealHands_keeps (hoop : Nat) (q : QJob) (status : Nat) (s : State) :
    Keeps 0x1000 s (sealHands hoop q status s) := by
  unfold sealHands
  repeat' (first
    | with_reducible (first
        | apply Keeps.refl | assumption)
    | split | with_reducible (first | apply Keeps.setOut) | decide)

theorem lateHands_keeps (hoop : Nat) (s : State) : Keeps 0x1000 s (lateHands hoop s) := by
  unfold lateHands
  repeat' (first
    | with_reducible (first
        | apply Keeps.refl | assumption)
    | split | with_reducible (first | apply Keeps.setOut) | decide)

theorem closeJob_keeps (hoop : Nat) (q : QJob) (args : Option (List Word)) (next : Nat) (status : Nat) (eff : Nat) (charge : Nat) (s : State) :
    Keeps 0x19798 s (closeJob hoop q args next status eff charge s) := by
  unfold closeJob
  repeat' (first
    | extract_lets
    | with_reducible (first
        | apply Keeps.refl | assumption | apply Keeps.then_ ?_ ?_ (jobHolds_keeps ..)
        | apply Keeps.then_ ?_ ?_ (finalReply_keeps ..) | apply Keeps.then_ ?_ ?_ (sealHands_keeps ..))
    | split | with_reducible (first | apply Keeps.ite) | decide | dsimp +zetaDelta only)

theorem admitJob_keeps (hoop : Nat) (q : QJob) (s : State) : Keeps 0x197B8 s (admitJob hoop q s) := by
  unfold admitJob
  repeat' (first
    | extract_lets
    | with_reducible (first
        | apply Keeps.refl | assumption | apply Keeps.then_ ?_ ?_ (updHoop_keeps ..)
        | apply Keeps.then_ ?_ ?_ (bumpDamp_keeps ..) | apply Keeps.then_ ?_ ?_ (recordEntry_keeps ..)
        | apply Keeps.then_ ?_ ?_ (closeJob_keeps ..))
    | split | with_reducible (first | apply Keeps.ite)
    | with_reducible (first | apply Keeps.setImg | apply Keeps.setRec) | decide | dsimp +zetaDelta only)

theorem admitUpTo_keeps (hoop : Nat) (x0 : Nat) (s : State) : Keeps 0x197B8 s (admitUpTo hoop x0 s) := by
  induction x0 generalizing s with
  | zero => exact .refl _
  | succ n ih =>
    unfold admitUpTo
    repeat' (first
      | with_reducible (first
          | apply Keeps.refl | assumption | apply Keeps.then_ ?_ ?_ (admitJob_keeps ..)
          | apply Keeps.then_ ?_ ?_ (ih ..))
      | split | decide)

theorem tryAdmit_keeps (hoop : Nat) (s : State) : Keeps 0x197B8 s (tryAdmit hoop s) := by
  unfold tryAdmit
  repeat' (first
    | with_reducible (first
        | apply Keeps.refl | assumption | apply Keeps.then_ ?_ ?_ (admitUpTo_keeps ..))
    | decide)

theorem enqueue_keeps (hoop : Nat) (q : QJob) (s : State) : Keeps 0x197B8 s (enqueue hoop q s) := by
  unfold enqueue
  repeat' (first
    | extract_lets
    | with_reducible (first
        | apply Keeps.refl | assumption | apply Keeps.then_ ?_ ?_ (updHoop_keeps ..)
        | apply Keeps.then_ ?_ ?_ (tryAdmit_keeps ..))
    | split | with_reducible (first | apply Keeps.ite) | with_reducible (first | apply Keeps.setSeq)
    | exact Seq.ok_of rfl | decide | dsimp +zetaDelta only)

theorem holdRounds_keeps (hoop : Nat) (s : State) : Keeps 0x200 s (holdRounds hoop s) := by
  unfold holdRounds
  repeat' (first
    | extract_lets
    | with_reducible (first
        | apply Keeps.refl | assumption | apply Keeps.then_ ?_ ?_ (updHoop_keeps ..))
    | with_reducible (first | apply Keeps.ite) | decide | dsimp +zetaDelta only)

theorem endJob_keeps (hoop : Nat) (status : Nat) (eff : Nat) (s : State) :
    Keeps 0x197B8 s (endJob hoop status eff s) := by
  unfold endJob
  repeat' (first
    | extract_lets
    | with_reducible (first
        | apply Keeps.refl | assumption | apply Keeps.then_ ?_ ?_ (updHoop_keeps ..)
        | apply Keeps.then_ ?_ ?_ (closeJob_keeps ..) | apply Keeps.then_ ?_ ?_ (tryAdmit_keeps ..)
        | apply Keeps.then_ ?_ ?_ (holdRounds_keeps ..))
    | split | with_reducible (first | apply Keeps.ite) | decide | dsimp +zetaDelta only)

theorem settleJob_keeps (hoop : Nat) (s : State) : Keeps 0x197B8 s (settleJob hoop s) := by
  unfold settleJob
  repeat' (first
    | with_reducible (first
        | apply Keeps.refl | assumption | apply Keeps.then_ ?_ ?_ (endJob_keeps ..))
    | split | decide)

theorem applyPost_keeps (e : Entry) (args : List Word) (i : Nat) (s : State) :
    Keeps 0x200 s (applyPost e args i s) := by
  unfold applyPost
  repeat' (first
    | extract_lets
    | with_reducible (first
        | apply Keeps.refl | assumption | apply Keeps.then_ ?_ ?_ (setKnot_keeps ..)
        | apply Keeps.then_ ?_ ?_ (addKnot_keeps ..))
    | split | with_reducible (first | apply Keeps.ite) | decide | dsimp +zetaDelta only)

theorem stepEnd_keeps (hoop : Nat) (n : Nat) (faulted : Bool) (s : State) :
    Keeps 0x197B8 s (stepEnd hoop n faulted s) := by
  unfold stepEnd
  repeat' (first
    | extract_lets
    | with_reducible (first
        | apply Keeps.refl | assumption | apply Keeps.then_ ?_ ?_ (updJob_keeps ..)
        | apply Keeps.then_ ?_ ?_ (settleJob_keeps ..) | apply Keeps.then_ ?_ ?_ (applyPost_keeps ..))
    | split | with_reducible (first | apply Keeps.ite) | decide | dsimp +zetaDelta only)

theorem updStep_keeps (hoop : Nat) (n : Nat) (f : Released → Released) (s : State) :
    Keeps 0x200 s (updStep hoop n f s) := by
  unfold updStep
  repeat' (first
    | with_reducible (first
        | apply Keeps.refl | assumption | apply Keeps.then_ ?_ ?_ (updJob_keeps ..))
    | split | decide)

theorem partEnd_keeps (hoop : Nat) (n : Nat) (pos : Nat) (s : State) : Keeps 0x197B8 s (partEnd hoop n pos s) := by
  unfold partEnd
  repeat' (first
    | extract_lets
    | with_reducible (first
        | apply Keeps.refl | assumption | apply Keeps.then_ ?_ ?_ (stepEnd_keeps ..)
        | apply Keeps.then_ ?_ ?_ (updStep_keeps ..))
    | split | with_reducible (first | apply Keeps.ite) | decide | dsimp +zetaDelta only)

theorem noteFault_keeps (hoop : Nat) (n : Nat) (s : State) : Keeps 0x200 s (noteFault hoop n s) := by
  unfold noteFault
  repeat' (first
    | with_reducible (first
        | apply Keeps.refl | assumption | apply Keeps.then_ ?_ ?_ (updJob_keeps ..))
    | split | decide)

theorem partFault_keeps (hoop : Nat) (n : Nat) (pos : Nat) (s : State) : Keeps 0x197B8 s (partFault hoop n pos s) := by
  unfold partFault
  repeat' (first
    | with_reducible (first
        | apply Keeps.refl | assumption | apply Keeps.then_ ?_ ?_ (updStep_keeps ..)
        | apply Keeps.then_ ?_ ?_ (partEnd_keeps ..) | apply Keeps.then_ ?_ ?_ (noteFault_keeps ..))
    | decide)

theorem addCharge_keeps (hoop : Nat) (k : Nat) (s : State) : Keeps 0x200 s (addCharge hoop k s) := by
  unfold addCharge
  repeat' (first
    | with_reducible (first
        | apply Keeps.refl | assumption | apply Keeps.then_ ?_ ?_ (updJob_keeps ..))
    | decide)

theorem noteSlip_keeps (hoop : Nat) (j : Job) (n : Nat) (late : Nat) (s : State) :
    Keeps 0x1398 s (noteSlip hoop j n late s) := by
  unfold noteSlip
  repeat' (first
    | extract_lets
    | with_reducible (first
        | apply Keeps.refl | assumption | apply Keeps.then_ ?_ ?_ (updHalf_keeps _ _ _ ?_)
        | apply Keeps.then_ ?_ ?_ (bumpSeq_keeps ..) | apply Keeps.then_ ?_ ?_ (report_keeps ..)
        | apply Keeps.then_ ?_ ?_ (updJob_keeps ..) | apply Keeps.then_ ?_ ?_ (lateHands_keeps ..))
    | split | with_reducible (first | apply Keeps.ite) | exact (fun _ => HalfUnit.ok_of rfl rfl rfl)
    | exact (fun _ => HalfUnit.ok_lost rfl rfl rfl) | exact (fun _ => HalfUnit.ok_slip rfl rfl rfl) | intro _ _
    | decide | dsimp +zetaDelta only)

theorem beginInvalidate_keeps (hoop : Nat) (j : Job) (n : Nat) (s : State) :
    Keeps 0x620 s (beginInvalidate hoop j n s) := by
  unfold beginInvalidate
  repeat' (first
    | extract_lets
    | with_reducible (first
        | apply Keeps.refl | assumption | apply Keeps.then_ ?_ ?_ (invalidate_keeps ..)
        | apply Keeps.then_ ?_ ?_ (queueInval_keeps ..))
    | split | with_reducible (first | apply Keeps.ite | apply Keeps.ite1 | apply Keeps.ite2) | decide
    | dsimp +zetaDelta only)

theorem releaseOne_keeps (hoop : Nat) (j : Job) (s : State) : Keeps 0x17B8 s (releaseOne hoop j s) := by
  unfold releaseOne
  repeat' (first
    | extract_lets
    | with_reducible (first
        | apply Keeps.refl | assumption | apply Keeps.then_ ?_ ?_ (updHalf_keeps _ _ _ ?_)
        | apply Keeps.then_ ?_ ?_ (updHoop_keeps ..) | apply Keeps.then_ ?_ ?_ (bumpSeq_keeps ..)
        | apply Keeps.then_ ?_ ?_ (updJob_keeps ..) | apply Keeps.then_ ?_ ?_ (noteSlip_keeps ..)
        | apply Keeps.then_ ?_ ?_ (beginInvalidate_keeps ..))
    | split | with_reducible (first | apply Keeps.ite) | exact (fun _ => HalfUnit.ok_of rfl rfl rfl) | intro _ _
    | decide | dsimp +zetaDelta only)

theorem releaseLoop_keeps (hoop : Nat) (paced : Bool) (x0 : Nat) (s : State) :
    Keeps 0x17B8 s (releaseLoop hoop paced x0 s) := by
  induction x0 generalizing s with
  | zero => exact .refl _
  | succ n ih =>
    unfold releaseLoop
    repeat' (first
      | with_reducible (first
          | apply Keeps.refl | assumption | apply Keeps.then_ ?_ ?_ (releaseOne_keeps ..)
          | apply Keeps.then_ ?_ ?_ (ih ..))
      | split | decide)

theorem endEmpty_keeps (hoop : Nat) (s : State) : Keeps 0x197B8 s (endEmpty hoop s) := by
  unfold endEmpty
  repeat' (first
    | with_reducible (first
        | apply Keeps.refl | assumption | apply Keeps.trans ?_ (forEach_keeps _ _ _ ?_)
        | apply Keeps.then_ ?_ ?_ (stepEnd_keeps ..))
    | split | intro _ _ | decide)

theorem dropParts_keeps (hoop : Nat) (pos : Nat) (s : State) : Keeps 0x197B8 s (dropParts hoop pos s) := by
  unfold dropParts
  repeat' (first
    | with_reducible (first
        | apply Keeps.refl | assumption | apply Keeps.trans ?_ (forEach_keeps _ _ _ ?_)
        | apply Keeps.then_ ?_ ?_ (partFault_keeps ..))
    | split | intro _ _ | decide)

theorem dropVacant_keeps (hoop : Nat) (s : State) : Keeps 0x197B8 s (dropVacant hoop s) := by
  unfold dropVacant
  repeat' (first
    | with_reducible (first
        | apply Keeps.refl | assumption | apply Keeps.trans ?_ (forEach_keeps _ _ _ ?_)
        | apply Keeps.then_ ?_ ?_ (dropParts_keeps ..))
    | intro _ _ | decide)

theorem releaseHoop_keeps (hoop : Nat) (paced : Bool) (s : State) : Keeps 0x197B8 s (releaseHoop hoop paced s) := by
  unfold releaseHoop
  repeat' (first
    | with_reducible (first
        | apply Keeps.refl | assumption | apply Keeps.then_ ?_ ?_ (releaseLoop_keeps ..)
        | apply Keeps.then_ ?_ ?_ (endEmpty_keeps ..) | apply Keeps.then_ ?_ ?_ (dropVacant_keeps ..))
    | decide)

theorem endHalfJobs_keeps (h : Half) (status : Nat) (s : State) : Keeps 0x19798 s (endHalfJobs h status s) := by
  unfold endHalfJobs
  repeat' (first
    | extract_lets
    | with_reducible (first
        | apply Keeps.refl | assumption | apply Keeps.then_ ?_ ?_ (updHoop_keeps ..)
        | apply Keeps.trans ?_ (forEach_keeps _ _ _ ?_) | apply Keeps.then_ ?_ ?_ (closeJob_keeps ..))
    | split | with_reducible (first | apply Keeps.ite) | intro _ _ | decide | dsimp +zetaDelta only)

end Sys2Proof.Machine
end

