-- ==== Sys2Proof/Laws/KeepsCopies.lean ====
section
/-! SUPPORT. What the operations of Machine/Copies.lean keep (Laws/Keeps.lean). -/
set_option linter.unusedTactic false
set_option linter.unreachableTactic false

namespace Sys2Proof.Machine
set_option Elab.async false

theorem loseQueue_keeps (c : Nat) (s : State) : Keeps 0x400 s (loseQueue c s) := by
  unfold loseQueue
  repeat' (first
    | with_reducible (first
        | apply Keeps.refl | assumption | apply Keeps.then_ ?_ ?_ (updChan_keeps ..))
    | intro _ _ | decide)

theorem loseChannel_keeps (c : Nat) (s : State) : Keeps 0x798 s (loseChannel c s) := by
  unfold loseChannel
  repeat' (first
    | extract_lets
    | with_reducible (first
        | apply Keeps.refl | assumption | apply Keeps.then_ ?_ ?_ (loseQueue_keeps ..)
        | apply Keeps.then_ ?_ ?_ (updChan_keeps ..) | apply Keeps.then_ ?_ ?_ (report_keeps ..)
        | apply Keeps.then_ ?_ ?_ (lowerCapacity_keeps ..) | apply Keeps.trans ?_ (forEach_keeps _ _ _ ?_))
    | split | with_reducible (first | apply Keeps.ite | apply Keeps.ite1 | apply Keeps.ite2) | intro _ _ | decide
    | dsimp +zetaDelta only)

theorem dramUncorrectable_keeps (c : Nat) (s : State) : Keeps 0x798 s (dramUncorrectable c s) := by
  unfold dramUncorrectable
  repeat' (first
    | extract_lets
    | with_reducible (first
        | apply Keeps.refl | assumption | apply Keeps.then_ ?_ ?_ (loseChannel_keeps ..)
        | apply Keeps.then_ ?_ ?_ (updChan_keeps ..) | apply Keeps.then_ ?_ ?_ (bumpChan_keeps ..)
        | apply Keeps.then_ ?_ ?_ (report_keeps ..))
    | split | with_reducible (first | apply Keeps.ite | apply Keeps.ite1 | apply Keeps.ite2) | intro _ _ | decide
    | dsimp +zetaDelta only)

theorem eccFaultAt_keeps (a : Nat) (s : State) : Keeps 0x798 s (eccFaultAt a s) := by
  unfold eccFaultAt
  repeat' (first
    | with_reducible (first
        | apply Keeps.refl | assumption | apply Keeps.then_ ?_ ?_ (dramUncorrectable_keeps ..)
        | apply Keeps.then_ ?_ ?_ (report_keeps ..))
    | split | decide)

theorem eccFixedAt_keeps (a : Nat) (s : State) : Keeps 0x400 s (eccFixedAt a s) := by
  unfold eccFixedAt
  repeat' (first
    | with_reducible (first
        | apply Keeps.refl | assumption | apply Keeps.then_ ?_ ?_ (bumpChan_keeps ..))
    | split | decide)

theorem accessEcc_keeps (r : Reader) (ctx va : Nat) (ecc : Ecc) (s : State) : Keeps 0x798 s (accessEcc r ctx va ecc s) := by
  unfold accessEcc
  split
  · exact eccFaultAt_keeps ..
  · exact (eccFixedAt_keeps ..).up
  · exact Keeps.refl _

theorem inFlight_keeps (rest : Nat) (s : State) : Keeps 0x10000 s (inFlight rest s).2 := by
  unfold inFlight
  repeat' (first
    | extract_lets
    | with_reducible (first
        | apply Keeps.refl | assumption | apply Keeps.then_ ?_ ?_ (fresh_keeps ..)
        | refine Keeps.of1 (by assumption) ?_)
    | split | with_reducible (first | apply Keeps.ite | apply Keeps.ite1) | decide | dsimp +zetaDelta only)

theorem copyPieces_keeps (ctx : Nat) (write : Bool) (ps : List (Nat × Nat)) (s : State) :
    Keeps 0x10780 s (copyPieces ctx write ps s).2 := by
  unfold copyPieces
  repeat' (first
    | with_reducible (first
        | apply Keeps.refl | assumption | apply Keeps.then_ ?_ ?_ (transPieces_keeps ..)
        | refine Keeps.of1 (by assumption) ?_)
    | decide)

theorem startCopy_keeps (isIn : Bool) (pkt : List Word) (t : Tagged) (s : State) :
    Keeps 0x107B0 s (startCopy isIn pkt t s) := by
  unfold startCopy
  repeat' (first
    | extract_lets
    | with_reducible (first
        | apply Keeps.refl | assumption | apply Keeps.then_ ?_ ?_ (replyFinal_keeps ..)
        | apply Keeps.then_ ?_ ?_ (answer_keeps ..) | apply Keeps.then_ ?_ ?_ (accept_keeps ..)
        | apply Keeps.then_ ?_ ?_ (copyPieces_keeps ..) | refine Keeps.of1 (by assumption) ?_)
    | split | with_reducible (first | apply Keeps.ite) | with_reducible (first | apply Keeps.setImg) | decide
    | dsimp +zetaDelta only)

theorem writePhysPieces_keeps (x0 : List (Nat × Nat)) (x1 : List Byte) (s : State) :
    Keeps 0x410 s (writePhysPieces x0 x1 s).2 := by
  induction x0 generalizing x1 s with
  | nil => exact .refl _
  | cons e l ih =>
    unfold writePhysPieces
    repeat' (first
      | with_reducible (first
          | apply Keeps.refl | assumption | apply Keeps.then_ ?_ ?_ (physWrite_keeps ..)
          | apply Keeps.then_ ?_ ?_ (countAccess_keeps ..) | apply Keeps.then_ ?_ ?_ (ih ..)
          | refine Keeps.of1 (by assumption) ?_)
      | split | with_reducible (first | apply Keeps.ite | apply Keeps.ite1 | apply Keeps.ite2) | decide)

theorem dropCopy_keeps (c : Copy) (s : State) : Keeps 0x20 s (dropCopy c s) := by
  unfold dropCopy
  repeat' (first
    | with_reducible (first
        | apply Keeps.refl | assumption)
    | with_reducible (first | apply Keeps.setImg) | decide)

theorem countReads_keeps (x0 : List (Nat × Nat)) (s : State) : Keeps 0x400 s (countReads x0 s) := by
  induction x0 generalizing s with
  | nil => exact .refl _
  | cons e l ih =>
    unfold countReads
    repeat' (first
      | with_reducible (first
          | apply Keeps.refl | assumption | apply Keeps.then_ ?_ ?_ (countAccess_keeps ..) | apply Keeps.then_ ?_ ?_ (ih ..))
      | decide)

theorem countChannels_keeps (fixed : List (BitVec 5)) (s : State) : Keeps 0x400 s (countChannels fixed s) := by
  unfold countChannels
  repeat' (first
    | with_reducible (first
        | apply Keeps.refl | assumption | apply Keeps.then_ ?_ ?_ (bumpChan_keeps ..)
        | apply Keeps.trans ?_ (forEach_keeps _ _ _ ?_))
    | intro _ _ | decide)

theorem copyTail_keeps (c : Copy) (stop : Option Nat) (s : State) : Keeps 0x10000 s (copyTail c stop s).2 := by
  unfold copyTail
  repeat' (first
    | with_reducible (first
        | apply Keeps.refl | assumption | apply Keeps.then_ ?_ ?_ (inFlight_keeps ..)
        | refine Keeps.of1 (by assumption) ?_)
    | split | decide)

theorem copyPut_keeps (c : Copy) (out : List Byte) (s : State) : Keeps 0x410 s (copyPut c out s).2 := by
  unfold copyPut
  repeat' (first
    | with_reducible (first
        | apply Keeps.refl | assumption | apply Keeps.then_ ?_ ?_ (hostWrite_keeps ..)
        | apply Keeps.then_ ?_ ?_ (writePhysPieces_keeps ..) | refine Keeps.of1 (by assumption) ?_)
    | split | decide)

theorem copyEcc_keeps (c : Copy) (stop : Option Nat) (s : State) : Keeps 0x798 s (copyEcc c stop s) := by
  unfold copyEcc
  repeat' (first
    | with_reducible (first
        | apply Keeps.refl | assumption | apply Keeps.then_ ?_ ?_ (eccFaultAt_keeps ..))
    | split | with_reducible (first | apply Keeps.ite | apply Keeps.ite1 | apply Keeps.ite2) | decide)

theorem copyRecord_keeps (c : Copy) (bs : List Byte) (s : State) : Keeps 0x8010 s (copyRecord c bs s) := by
  unfold copyRecord
  repeat' (first
    | with_reducible (first
        | apply Keeps.refl | assumption | apply Keeps.then_ ?_ ?_ (recordEntry_keeps ..))
    | split | decide)

theorem copyFinish_keeps (c : Copy) (t : Tagged) (stop : Option Nat) (bs : List Byte) (s : State) :
    Keeps 0x18798 s (copyFinish c t stop bs s) := by
  unfold copyFinish
  repeat' (first
    | extract_lets
    | with_reducible (first
        | apply Keeps.refl | assumption | apply Keeps.then_ ?_ ?_ (copyTail_keeps ..)
        | apply Keeps.then_ ?_ ?_ (copyPut_keeps ..) | apply Keeps.then_ ?_ ?_ (copyEcc_keeps ..)
        | apply Keeps.then_ ?_ ?_ (copyRecord_keeps ..) | apply Keeps.then_ ?_ ?_ (replyFinal_keeps ..)
        | refine Keeps.of1 (by assumption) ?_)
    | split | with_reducible (first | apply Keeps.ite | apply Keeps.ite1 | apply Keeps.ite2) | decide
    | dsimp +zetaDelta only)

theorem copyDone_keeps (ring tag : Nat) (data : List Byte) (stop : Option Nat) (fixed : List (BitVec 5)) (s : State) :
    Keeps 0x187B8 s (copyDone ring tag data stop fixed s) := by
  unfold copyDone
  repeat' (first
    | extract_lets
    | with_reducible (first
        | apply Keeps.refl | assumption | apply Keeps.then_ ?_ ?_ (dropCopy_keeps ..)
        | apply Keeps.then_ ?_ ?_ (countReads_keeps ..) | apply Keeps.then_ ?_ ?_ (countChannels_keeps ..)
        | apply Keeps.then_ ?_ ?_ (copyFinish_keeps ..) | apply Keeps.then_ ?_ ?_ (fresh_keeps ..)
        | apply Keeps.then_ ?_ ?_ (replyFinal_keeps ..) | refine Keeps.of1 (by assumption) ?_)
    | split | with_reducible (first | apply Keeps.ite | apply Keeps.ite1 | apply Keeps.ite2) | intro _ _ | decide
    | dsimp +zetaDelta only)

theorem startInvalidate_keeps (pkt : List Word) (t : Tagged) (s : State) : Keeps 0x630 s (startInvalidate pkt t s) := by
  unfold startInvalidate
  repeat' (first
    | extract_lets
    | with_reducible (first
        | apply Keeps.refl | assumption | apply Keeps.then_ ?_ ?_ (answer_keeps ..)
        | apply Keeps.then_ ?_ ?_ (accept_keeps ..) | apply Keeps.then_ ?_ ?_ (invalidate_keeps ..)
        | apply Keeps.then_ ?_ ?_ (queueInval_keeps ..))
    | split | with_reducible (first | apply Keeps.ite | apply Keeps.ite1 | apply Keeps.ite2) | decide
    | dsimp +zetaDelta only)

theorem invalidationComplete_keeps (n : Nat) (s : State) : Keeps 0x197B8 s (invalidationComplete n s) := by
  unfold invalidationComplete
  repeat' (first
    | extract_lets
    | with_reducible (first
        | apply Keeps.refl | assumption | apply Keeps.then_ ?_ ?_ (setKnot_keeps ..)
        | apply Keeps.then_ ?_ ?_ (bumpXlat_keeps ..) | apply Keeps.then_ ?_ ?_ (fresh_keeps ..)
        | refine Keeps.of1 (by assumption) ?_ | apply Keeps.then_ ?_ ?_ (replyFinal_keeps ..)
        | apply Keeps.then_ ?_ ?_ (partEnd_keeps ..))
    | split | with_reducible (first | apply Keeps.ite | apply Keeps.ite1)
    | with_reducible (first | apply Keeps.setImg) | decide | dsimp +zetaDelta only)

theorem translationWalk_keeps (u : CacheUnit) (ctx va : Nat) (write : Bool) (level : Nat) (ecc : Ecc) (s : State) :
    Keeps 0x10798 s (translationWalk u ctx va write level ecc s) := by
  unfold translationWalk
  repeat' (first
    | extract_lets
    | with_reducible (first
        | apply Keeps.refl | assumption | apply Keeps.then_ ?_ ?_ (eccFaultAt_keeps ..)
        | apply Keeps.then_ ?_ ?_ (eccFixedAt_keeps ..) | apply Keeps.then_ ?_ ?_ (bumpXlat_keeps ..)
        | apply Keeps.then_ ?_ ?_ (countAccess_keeps ..) | apply Keeps.then_ ?_ ?_ (setCache_keeps ..)
        | apply Keeps.then_ ?_ ?_ (walkFor_keeps ..) | apply Keeps.trans ?_ (forEach_keeps _ _ _ ?_)
        | refine Keeps.of1 (by assumption) ?_)
    | split | intro _ _ | decide | dsimp +zetaDelta only)

theorem setBuffer_keeps (pool : Nat) (index : Nat) (b : Buffer) (queue : List Nat) (s : State) :
    Keeps 0x40 s (setBuffer pool index b queue s) := by
  unfold setBuffer
  repeat' (first
    | with_reducible (first
        | apply Keeps.refl | assumption)
    | with_reducible (first | apply Keeps.setPools) | decide)

theorem bufferAlloc_keeps (pkt : List Word) (t : Tagged) (s : State) : Keeps 0x1D0 s (bufferAlloc pkt t s) := by
  unfold bufferAlloc
  repeat' (first
    | extract_lets
    | with_reducible (first
        | apply Keeps.refl | assumption | apply Keeps.then_ ?_ ?_ (bumpXlat_keeps ..)
        | apply Keeps.then_ ?_ ?_ (answer_keeps ..) | apply Keeps.then_ ?_ ?_ (setBuffer_keeps ..))
    | split | with_reducible (first | apply Keeps.ite) | decide | dsimp +zetaDelta only)

theorem bufferFree_keeps (pkt : List Word) (t : Tagged) (s : State) : Keeps 0x1D8 s (bufferFree pkt t s) := by
  unfold bufferFree
  repeat' (first
    | extract_lets
    | with_reducible (first
        | apply Keeps.refl | assumption | apply Keeps.then_ ?_ ?_ (bumpXlat_keeps ..)
        | apply Keeps.then_ ?_ ?_ (report_keeps ..) | apply Keeps.then_ ?_ ?_ (answer_keeps ..)
        | apply Keeps.then_ ?_ ?_ (setBuffer_keeps ..))
    | split | with_reducible (first | apply Keeps.ite) | decide | dsimp +zetaDelta only)

theorem freePool_keeps (pool : Nat) (s : State) : Keeps 0x40 s (freePool pool s) := by
  unfold freePool
  repeat' (first
    | with_reducible (first
        | apply Keeps.refl | assumption)
    | split | with_reducible (first | apply Keeps.setPools) | decide)

end Sys2Proof.Machine
end

