-- ==== Sys2Proof/Laws/KeepsHearths.lean ====
section
/-! SUPPORT. What the operations of Machine/Hearths.lean keep (Laws/Keeps.lean). -/
set_option linter.unusedTactic false
set_option linter.unreachableTactic false

namespace Sys2Proof.Machine
set_option Elab.async false

theorem bumpHearth_keeps (p : Nat) (w : Nat) (k : Nat) (s : State) : Keeps 0x200 s (bumpHearth p w k s) := by
  unfold bumpHearth
  repeat' (first
    | with_reducible (first
        | apply Keeps.refl | assumption | apply Keeps.then_ ?_ ?_ (updHearth_keeps _ _ _ ?_))
    | exact (fun _ h => h) | intro _ _ | decide)

theorem bumpAtt_keeps (p : Nat) (w : Nat) (k : Nat) (s : State) : Keeps 0x200 s (bumpAtt p w k s) := by
  unfold bumpAtt
  repeat' (first
    | with_reducible (first
        | apply Keeps.refl | assumption | apply Keeps.then_ ?_ ?_ (updHearth_keeps _ _ _ ?_))
    | exact (fun _ h => h) | intro _ _ | decide)

theorem partRecordAt_keeps (q : Part4) (cls : FaultClass) (pass : Nat) (detect : Bool) (item : Nat) (s : State) :
    Keeps 0x10198 s (partRecordAt q cls pass detect item s) := by
  unfold partRecordAt
  repeat' (first
    | extract_lets
    | with_reducible (first
        | apply Keeps.refl | assumption | apply Keeps.then_ ?_ ?_ (fresh_keeps ..)
        | refine Keeps.of1 (by assumption) ?_ | apply Keeps.then_ ?_ ?_ (report_keeps ..))
    | split | with_reducible (first | apply Keeps.ite | apply Keeps.ite1) | decide | dsimp +zetaDelta only)

theorem partRecord_keeps (q : Part4) (cls : FaultClass) (pass : Nat) (detect : Bool) (s : State) :
    Keeps 0x10198 s (partRecord q cls pass detect s) := by
  unfold partRecord
  repeat' (first
    | with_reducible (first
        | apply Keeps.refl | assumption | apply Keeps.then_ ?_ ?_ (partRecordAt_keeps ..))
    | decide)

theorem commitPages_keeps (p : Nat) (g : Landing) (ws : List (Nat × List Byte)) (s : State) :
    Keeps 0x10200 s (commitPages p g ws s) := by
  refine (Keeps.trans (fresh_keeps s).up (updHearth_keeps _ _ _ fun x hx => ?_).up)
  exact Hearth.swapPages_wf _ _ _ _ (Hearth.foldl_wf _ _ _ (Hearth.scramble_wf x _ _ _ hx)
    fun y _ hy => Hearth.write_wf y _ _ hy)

theorem freeRounds_keeps (bound : Nat) (s : State) : Keeps 0x10000 s (freeRounds bound s).2 := by
  unfold freeRounds
  repeat' (first
    | extract_lets
    | with_reducible (first
        | apply Keeps.refl | assumption | apply Keeps.then_ ?_ ?_ (fresh_keeps ..)
        | refine Keeps.of1 (by assumption) ?_)
    | split | with_reducible (first | apply Keeps.ite | apply Keeps.ite1) | decide | dsimp +zetaDelta only)

theorem countValues_keeps (p sats esc nonfin : Nat) (s : State) : Keeps 0x200 s (countValues p sats esc nonfin s) := by
  unfold countValues
  repeat' (first
    | with_reducible (first
        | apply Keeps.refl | assumption | apply Keeps.then_ ?_ ?_ (bumpHearth_keeps ..))
    | decide)

theorem countFixed_keeps (p : Nat) (c : Corrected) (s : State) : Keeps 0x600 s (countFixed p c s) := by
  unfold countFixed
  repeat' (first
    | with_reducible (first
        | apply Keeps.refl | assumption | apply Keeps.then_ ?_ ?_ (bumpHearth_keeps ..)
        | apply Keeps.then_ ?_ ?_ (bumpChan_keeps ..) | apply Keeps.trans ?_ (forEach_keeps _ _ _ ?_))
    | intro _ _ | decide)

theorem discardPart_keeps (q : Part4) (g : Landing) (cls : FaultClass) (rounds : Nat) (s : State) :
    Keeps 0x10200 s (discardPart q g cls rounds s) := by
  unfold discardPart
  repeat' (first
    | extract_lets
    | with_reducible (first
        | apply Keeps.refl | assumption | apply Keeps.then_ ?_ ?_ (bumpHearth_keeps ..)
        | apply Keeps.then_ ?_ ?_ (addCharge_keeps ..) | apply Keeps.then_ ?_ ?_ (updHearth_keeps _ _ _ ?_)
        | apply Keeps.then_ ?_ ?_ (fresh_keeps ..) | refine Keeps.of1 (by assumption) ?_)
    | split | with_reducible (first | apply Keeps.ite | apply Keeps.ite1 | apply Keeps.ite2) | exact (fun _ h => h)
    | exact Hearth.scramble_wf _ _ _ _ ‹_› | intro _ _ | decide | dsimp +zetaDelta only)

theorem clearHearth_keeps (p : Nat) (s : State) : Keeps 0x200 s (clearHearth p s) :=
  (updHearth_keeps _ _ _ fun _ _ => Store.zero_wf).up

theorem stopRetired_keeps (q : Part4) (s : State) : Keeps 0x10200 s (stopRetired q s) := by
  unfold stopRetired
  repeat' (first
    | extract_lets
    | with_reducible (first
        | apply Keeps.refl | assumption | apply Keeps.then_ ?_ ?_ (bumpHearth_keeps ..)
        | apply Keeps.then_ ?_ ?_ (discardPart_keeps ..) | apply Keeps.then_ ?_ ?_ (fresh_keeps ..)
        | refine Keeps.of1 (by assumption) ?_)
    | split | with_reducible (first | apply Keeps.ite | apply Keeps.ite1 | apply Keeps.ite2) | decide
    | dsimp +zetaDelta only)

theorem retire_keeps (l : Nat) (cls : FaultClass) (skip : Option Nat) (s : State) :
    Keeps 0x197B8 s (retire l cls skip s) := by
  unfold retire
  repeat' (first
    | extract_lets
    | with_reducible (first
        | apply Keeps.refl | assumption | apply Keeps.then_ ?_ ?_ (clearHearth_keeps ..)
        | apply Keeps.then_ ?_ ?_ (stopRetired_keeps ..) | apply Keeps.then_ ?_ ?_ (dropParts_keeps ..)
        | apply Keeps.then_ ?_ ?_ (updHearth_keeps _ _ _ ?_) | apply Keeps.then_ ?_ ?_ (updPlace_keeps ..)
        | apply Keeps.then_ ?_ ?_ (bumpFg_keeps ..) | apply Keeps.then_ ?_ ?_ (fresh_keeps ..)
        | apply Keeps.then_ ?_ ?_ (report_keeps ..) | apply Keeps.trans ?_ (forEach_keeps _ _ _ ?_)
        | refine Keeps.of1 (by assumption) ?_)
    | split | with_reducible (first | apply Keeps.ite | apply Keeps.ite1 | apply Keeps.ite2) | exact (fun _ h => h)
    | intro _ _ | decide | dsimp +zetaDelta only)

theorem noteHearthFault_keeps (q : Part4) (cls : FaultClass) (s : State) :
    Keeps 0x197B8 s (noteHearthFault q cls s) := by
  unfold noteHearthFault
  repeat' (first
    | extract_lets
    | with_reducible (first
        | apply Keeps.refl | assumption | apply Keeps.then_ ?_ ?_ (updHearth_keeps _ _ _ ?_)
        | apply Keeps.then_ ?_ ?_ (updPlace_keeps ..) | apply Keeps.then_ ?_ ?_ (bumpFg_keeps ..)
        | apply Keeps.then_ ?_ ?_ (retire_keeps ..))
    | split | with_reducible (first | apply Keeps.ite) | exact (fun _ h => h) | intro _ _ | decide
    | dsimp +zetaDelta only)

theorem faultPart_keeps (q : Part4) (cls : FaultClass) (s : State) : Keeps 0x197B8 s (faultPart q cls s) := by
  unfold faultPart
  repeat' (first
    | extract_lets
    | with_reducible (first
        | apply Keeps.refl | assumption | apply Keeps.then_ ?_ ?_ (partFault_keeps ..)
        | apply Keeps.then_ ?_ ?_ (noteHearthFault_keeps ..))
    | split | with_reducible (first | apply Keeps.ite) | decide | dsimp +zetaDelta only)

theorem abandonPart_keeps (q : Part4) (g : Landing) (cls : FaultClass) (pass rounds : Nat) (s : State) :
    Keeps 0x197B8 s (abandonPart q g cls pass rounds s) := by
  unfold abandonPart
  repeat' (first
    | with_reducible (first
        | apply Keeps.refl | assumption | apply Keeps.then_ ?_ ?_ (partRecord_keeps ..)
        | apply Keeps.then_ ?_ ?_ (discardPart_keeps ..) | apply Keeps.then_ ?_ ?_ (faultPart_keeps ..))
    | decide)

theorem commitPart_keeps (q : Part4) (rounds sats esc nonfin : Nat) (checks : List (FaultClass × Nat)) (s : State) :
    Keeps 0x10398 s (commitPart q rounds sats esc nonfin checks s) := by
  unfold commitPart
  repeat' (first
    | extract_lets
    | with_reducible (first
        | apply Keeps.refl | assumption | apply Keeps.then_ ?_ ?_ (bumpHearth_keeps ..)
        | apply Keeps.then_ ?_ ?_ (partRecord_keeps ..) | apply Keeps.then_ ?_ ?_ (countValues_keeps ..)
        | apply Keeps.then_ ?_ ?_ (addCharge_keeps ..) | apply Keeps.trans ?_ (forEach_keeps _ _ _ ?_))
    | split | with_reducible (first | apply Keeps.ite | apply Keeps.ite1 | apply Keeps.ite2) | intro _ _ | decide
    | dsimp +zetaDelta only)

theorem startPasses_keeps (p : Nat) (n : Nat) (s : State) : Keeps 0x200 s (startPasses p n s) := by
  unfold startPasses
  repeat' (first
    | with_reducible (first
        | apply Keeps.refl | assumption | apply Keeps.then_ ?_ ?_ (updHearth_keeps _ _ _ ?_))
    | exact (fun _ h => h) | intro _ _ | decide)

theorem groupDone_keeps (q : Part4) (s : State) : Keeps 0x197B8 s (groupDone q s) := by
  unfold groupDone
  repeat' (first
    | with_reducible (first
        | apply Keeps.refl | assumption | apply Keeps.then_ ?_ ?_ (updStep_keeps ..)
        | apply Keeps.then_ ?_ ?_ (partEnd_keeps ..))
    | split | decide)

theorem passFault_keeps (q : Part4) (cls : FaultClass) (p sats esc nonfin : Nat) (s : State) :
    Keeps 0x197B8 s (passFault q cls p sats esc nonfin s) := by
  unfold passFault
  repeat' (first
    | extract_lets
    | with_reducible (first
        | apply Keeps.refl | assumption | apply Keeps.then_ ?_ ?_ (countValues_keeps ..)
        | apply Keeps.then_ ?_ ?_ (abandonPart_keeps ..) | apply Keeps.then_ ?_ ?_ (startPasses_keeps ..))
    | split | with_reducible (first | apply Keeps.ite | apply Keeps.ite1 | apply Keeps.ite2) | decide
    | dsimp +zetaDelta only)

theorem passCommit_keeps (q : Part4) (upset : Option (FaultClass × Nat)) (s : State) :
    Keeps 0x197B8 s (passCommit q upset s) := by
  unfold passCommit
  repeat' (first
    | extract_lets
    | with_reducible (first
        | apply Keeps.refl | assumption | apply Keeps.then_ ?_ ?_ (commitPages_keeps ..)
        | apply Keeps.then_ ?_ ?_ (commitPart_keeps ..) | apply Keeps.then_ ?_ ?_ (startPasses_keeps ..)
        | apply Keeps.then_ ?_ ?_ (groupDone_keeps ..) | apply Keeps.then_ ?_ ?_ (passFault_keeps ..))
    | split | decide | dsimp +zetaDelta only)

theorem stopGroup_keeps (q : Part4) (cls : FaultClass) (pass : Nat) (s : State) :
    Keeps 0x197B8 s (stopGroup q cls pass s) := by
  unfold stopGroup
  repeat' (first
    | extract_lets
    | with_reducible (first
        | apply Keeps.refl | assumption | apply Keeps.then_ ?_ ?_ (freeRounds_keeps ..)
        | apply Keeps.then_ ?_ ?_ (countValues_keeps ..) | apply Keeps.then_ ?_ ?_ (abandonPart_keeps ..)
        | apply Keeps.then_ ?_ ?_ (startPasses_keeps ..) | apply Keeps.then_ ?_ ?_ (passFault_keeps ..)
        | refine Keeps.of1 (by assumption) ?_)
    | split | decide | dsimp +zetaDelta only)

theorem admitAt_keeps (l : Nat) (s : State) : Keeps 0x197B8 s (admitAt l s) := by
  unfold admitAt
  repeat' (first
    | with_reducible (first
        | apply Keeps.refl | assumption | apply Keeps.then_ ?_ ?_ (tryAdmit_keeps ..))
    | split | decide)

theorem retestDone_keeps (l : Nat) (pass : Bool) (s : State) : Keeps 0x197B8 s (retestDone l pass s) := by
  unfold retestDone
  repeat' (first
    | extract_lets
    | with_reducible (first
        | apply Keeps.refl | assumption | apply Keeps.then_ ?_ ?_ (updPlace_keeps ..)
        | apply Keeps.then_ ?_ ?_ (retire_keeps ..) | apply Keeps.then_ ?_ ?_ (admitAt_keeps ..))
    | split | with_reducible (first | apply Keeps.ite) | decide | dsimp +zetaDelta only)

theorem fenceSet_keeps (l : Nat) (s : State) : Keeps 0x197B8 s (fenceSet l s) := by
  unfold fenceSet
  repeat' (first
    | extract_lets
    | with_reducible (first
        | apply Keeps.refl | assumption | apply Keeps.then_ ?_ ?_ (updPlace_keeps ..)
        | apply Keeps.then_ ?_ ?_ (setKnot_keeps ..) | apply Keeps.then_ ?_ ?_ (admitAt_keeps ..))
    | split | with_reducible (first | apply Keeps.ite) | decide | dsimp +zetaDelta only)

theorem staleResult_keeps (h : Half) (pos : Nat) (g : Nat) (s : State) : Keeps 0x198 s (staleResult h pos g s) := by
  unfold staleResult
  repeat' (first
    | extract_lets
    | with_reducible (first
        | apply Keeps.refl | assumption | apply Keeps.then_ ?_ ?_ (bumpFg_keeps ..)
        | apply Keeps.then_ ?_ ?_ (report_keeps ..))
    | split | with_reducible (first | apply Keeps.ite) | decide | dsimp +zetaDelta only)

theorem lateSpeech_keeps (p : Nat) (s : State) : Keeps 0x198 s (lateSpeech p s) := by
  unfold lateSpeech
  repeat' (first
    | extract_lets
    | with_reducible (first
        | apply Keeps.refl | assumption | apply Keeps.then_ ?_ ?_ (bumpFg_keeps ..)
        | apply Keeps.then_ ?_ ?_ (report_keeps ..))
    | split | with_reducible (first | apply Keeps.ite) | decide | dsimp +zetaDelta only)

end Sys2Proof.Machine
end

