-- ==== Sys2Proof/Laws/KeepsTransform.lean ====
section
/-! SUPPORT. What the operations of Machine/Transform.lean keep (Laws/Keeps.lean). -/
set_option linter.unusedTactic false
set_option linter.unreachableTactic false

namespace Sys2Proof.Machine
set_option Elab.async false

theorem transformFault_keeps (q : Part4) (d : Entry) (cls : FaultClass) (sats esc : Nat) (s : State) :
    Keeps 0x197B8 s (transformFault q d cls sats esc s) := by
  unfold transformFault
  repeat' (first
    | with_reducible (first
        | apply Keeps.refl | assumption | apply Keeps.then_ ?_ ?_ (countValues_keeps ..)
        | apply Keeps.then_ ?_ ?_ (abandonPart_keeps ..))
    | split | with_reducible (first | apply Keeps.ite | apply Keeps.ite1 | apply Keeps.ite2) | decide)

theorem transformCommit_keeps (q : Part4) (upset : Option (FaultClass × Nat)) (s : State) :
    Keeps 0x197B8 s (transformCommit q upset s) := by
  unfold transformCommit
  repeat' (first
    | extract_lets
    | with_reducible (first
        | apply Keeps.refl | assumption | apply Keeps.then_ ?_ ?_ (commitPages_keeps ..)
        | apply Keeps.then_ ?_ ?_ (commitPart_keeps ..) | apply Keeps.then_ ?_ ?_ (partEnd_keeps ..)
        | apply Keeps.then_ ?_ ?_ (transformFault_keeps ..))
    | split | decide | dsimp +zetaDelta only)

theorem stopTransform_keeps (q : Part4) (cls : FaultClass) (s : State) : Keeps 0x197B8 s (stopTransform q cls s) := by
  unfold stopTransform
  repeat' (first
    | extract_lets
    | with_reducible (first
        | apply Keeps.refl | assumption | apply Keeps.then_ ?_ ?_ (freeRounds_keeps ..)
        | apply Keeps.then_ ?_ ?_ (countValues_keeps ..) | apply Keeps.then_ ?_ ?_ (abandonPart_keeps ..)
        | apply Keeps.then_ ?_ ?_ (transformFault_keeps ..) | refine Keeps.of1 (by assumption) ?_)
    | split | decide | dsimp +zetaDelta only)

end Sys2Proof.Machine
end

