-- ==== Sys2Proof/Laws/KeepsAttend.lean ====
section
/-! SUPPORT. What the operations of Machine/Attend.lean keep (Laws/Keeps.lean). -/
set_option linter.unusedTactic false
set_option linter.unreachableTactic false

namespace Sys2Proof.Machine
set_option Elab.async false

theorem cacheRead_keeps (c : AtJob) (va : Nat) (n : Nat) (s : State) : Keeps 0x10780 s (cacheRead c va n s).2 := by
  unfold cacheRead
  repeat' (first
    | with_reducible (first
        | apply Keeps.refl | assumption | apply Keeps.then_ ?_ ?_ (vread_keeps ..)
        | refine Keeps.of1 (by assumption) ?_ | apply Keeps.then_ ?_ ?_ (bumpAtt_keeps ..))
    | split | decide)

theorem blockAllowed_keeps (c : AtJob) (b : Nat) (s : State) : Keeps 0x10780 s (blockAllowed c b s).2 := by
  unfold blockAllowed
  repeat' (first
    | with_reducible (first
        | apply Keeps.refl | assumption | apply Keeps.then_ ?_ ?_ (cacheRead_keeps ..)
        | refine Keeps.of1 (by assumption) ?_)
    | split | decide)

theorem readBlock_keeps (c : AtJob) (b : Nat) (rows : List (List Bool)) (s : State) :
    Keeps 0x10780 s (readBlock c b rows s).2 := by
  unfold readBlock
  repeat' (first
    | with_reducible (first
        | apply Keeps.refl | assumption | apply Keeps.then_ ?_ ?_ (cacheRead_keeps ..)
        | refine Keeps.of1 (by assumption) ?_)
    | split | decide)

theorem fetchBlock_keeps (c : AtJob) (b : Nat) (s : State) : Keeps 0x10780 s (fetchBlock c b s).2 := by
  unfold fetchBlock
  repeat' (first
    | with_reducible (first
        | apply Keeps.refl | assumption | apply Keeps.then_ ?_ ?_ (bumpAtt_keeps ..)
        | apply Keeps.then_ ?_ ?_ (blockAllowed_keeps ..) | refine Keeps.of1 (by assumption) ?_
        | apply Keeps.then_ ?_ ?_ (readBlock_keeps ..))
    | split | decide)

theorem foldBlocks_keeps {α : Type} (c : AtJob) (f : Blk → α → Except FaultClass α) (skip : Nat → α → α) (x0 : List Nat) (x1 : α) (s : State) :
    Keeps 0x10780 s (foldBlocks c f skip x0 x1 s).2 := by
  induction x0 generalizing x1 s with
  | nil => exact .refl _
  | cons e l ih =>
    unfold foldBlocks
    repeat' (first
      | with_reducible (first
          | apply Keeps.refl | assumption | apply Keeps.then_ ?_ ?_ (bumpAtt_keeps ..)
          | apply Keeps.then_ ?_ ?_ (fetchBlock_keeps ..) | refine Keeps.of1 (by assumption) ?_
          | apply Keeps.then_ ?_ ?_ (ih ..))
      | split | decide)

theorem forward_keeps (c : AtJob) (sc : AtScale) (blocks : List Nat) (s : State) :
    Keeps 0x10780 s (forward c sc blocks s).2 := by
  unfold forward
  repeat' (first
    | with_reducible (first
        | apply Keeps.refl | assumption | apply Keeps.then_ ?_ ?_ (foldBlocks_keeps ..)
        | refine Keeps.of1 (by assumption) ?_)
    | split | intro _ _ | decide)

theorem liveRows_keeps (c : AtJob) (s : State) : Keeps 0x10780 s (liveRows c s).2 := by
  have key : ∀ (l : List Nat) (a : Except FaultClass (List Bool) × State), Keeps 0x10780 s a.2 →
      Keeps 0x10780 s (l.foldl (fun acc b =>
        match acc with
        | (.error f, s) => (.error f, s)
        | (.ok l, s) =>
          match blockAllowed c b s with
          | (.error f, s) => (.error f, s)
          | (.ok rows, _) => (.ok ((l.zip rows).map fun t => t.1 || t.2.any id), s)) a).2 := by
    intro l
    induction l with
    | nil => exact fun _ h => h
    | cons b l ih =>
      intro a ha
      refine ih _ ?_
      dsimp only
      split
      · exact ha
      · split
        · exact ha.trans (Keeps.of1 ‹_› (blockAllowed_keeps ..).up)
        · exact ha
  exact key _ _ (.refl s)

theorem backBlocks_keeps (c : AtJob) (sc : AtScale) (live : List Bool) (i : BackIn) (blocks : List Nat) (s : State) :
    Keeps 0x10780 s (backBlocks c sc live i blocks s).2 := by
  unfold backBlocks
  repeat' (first
    | with_reducible (first
        | apply Keeps.refl | assumption | apply Keeps.then_ ?_ ?_ (foldBlocks_keeps ..)
        | refine Keeps.of1 (by assumption) ?_)
    | split | decide)

theorem backward_keeps (c : AtJob) (sc : AtScale) (blocks : List Nat) (s : State) :
    Keeps 0x10780 s (backward c sc blocks s).2 := by
  unfold backward
  repeat' (first
    | with_reducible (first
        | apply Keeps.refl | assumption | apply Keeps.then_ ?_ ?_ (liveRows_keeps ..)
        | apply Keeps.then_ ?_ ?_ (backBlocks_keeps ..) | refine Keeps.of1 (by assumption) ?_)
    | split | decide)

theorem runBlocks_keeps (q : Part4) (n : Nat) (s : State) : Keeps 0x10780 s (runBlocks q n s).2 := by
  unfold runBlocks
  repeat' (first
    | extract_lets
    | with_reducible (first
        | apply Keeps.refl | assumption | apply Keeps.then_ ?_ ?_ (forward_keeps ..)
        | apply Keeps.then_ ?_ ?_ (backward_keeps ..) | refine Keeps.of1 (by assumption) ?_)
    | split | with_reducible (first | apply Keeps.ite | apply Keeps.ite1 | apply Keeps.ite2) | decide
    | dsimp +zetaDelta only)

theorem runAttend_keeps (q : Part4) (s : State) : Keeps 0x10780 s (runAttend q s).2 := by
  unfold runAttend
  repeat' (first
    | with_reducible (first
        | apply Keeps.refl | assumption | apply Keeps.then_ ?_ ?_ (runBlocks_keeps ..)
        | refine Keeps.of1 (by assumption) ?_)
    | decide)

theorem attendFault_keeps (q : Part4) (e : Entry) (f : FaultClass) (s : State) :
    Keeps 0x197B8 s (attendFault q e f s) := by
  unfold attendFault
  repeat' (first
    | with_reducible (first
        | apply Keeps.refl | assumption | apply Keeps.then_ ?_ ?_ (abandonPart_keeps ..))
    | split | with_reducible (first | apply Keeps.ite | apply Keeps.ite1 | apply Keeps.ite2) | decide)

theorem attendCommit_keeps (q : Part4) (upset : Option (FaultClass × Nat)) (s : State) :
    Keeps 0x197B8 s (attendCommit q upset s) := by
  unfold attendCommit
  repeat' (first
    | extract_lets
    | with_reducible (first
        | apply Keeps.refl | assumption | apply Keeps.then_ ?_ ?_ (runAttend_keeps ..)
        | apply Keeps.then_ ?_ ?_ (attendFault_keeps ..) | apply Keeps.then_ ?_ ?_ (bumpAtt_keeps ..)
        | apply Keeps.then_ ?_ ?_ (commitPages_keeps ..) | apply Keeps.then_ ?_ ?_ (commitPart_keeps ..)
        | apply Keeps.then_ ?_ ?_ (partEnd_keeps ..) | refine Keeps.of1 (by assumption) ?_)
    | split | with_reducible (first | apply Keeps.ite | apply Keeps.ite1 | apply Keeps.ite2) | decide
    | dsimp +zetaDelta only)

theorem stopAttend_keeps (q : Part4) (cls : FaultClass) (s : State) : Keeps 0x197B8 s (stopAttend q cls s) := by
  unfold stopAttend
  repeat' (first
    | extract_lets
    | with_reducible (first
        | apply Keeps.refl | assumption | apply Keeps.then_ ?_ ?_ (runBlocks_keeps ..)
        | apply Keeps.then_ ?_ ?_ (attendFault_keeps ..) | apply Keeps.then_ ?_ ?_ (freeRounds_keeps ..)
        | apply Keeps.then_ ?_ ?_ (abandonPart_keeps ..) | refine Keeps.of1 (by assumption) ?_)
    | split | decide | dsimp +zetaDelta only)

theorem writeAll_keeps (r : Reader) (ctx : Nat) (x0 : List (Nat × List Byte)) (s : State) :
    Keeps 0x10790 s (writeAll r ctx x0 s).2 := by
  induction x0 generalizing s with
  | nil => exact .refl _
  | cons e l ih =>
    unfold writeAll
    repeat' (first
      | with_reducible (first
          | apply Keeps.refl | assumption | apply Keeps.then_ ?_ ?_ (vwrite_keeps ..)
          | refine Keeps.of1 (by assumption) ?_ | apply Keeps.then_ ?_ ?_ (ih ..))
      | split | decide)

theorem probeAll_keeps (r : Reader) (ctx : Nat) (x0 : List (Nat × List Byte)) (s : State) :
    Keeps 0x10780 s (probeAll r ctx x0 s).2 := by
  induction x0 generalizing s with
  | nil => exact .refl _
  | cons e l ih =>
    unfold probeAll
    repeat' (first
      | with_reducible (first
          | apply Keeps.refl | assumption | apply Keeps.then_ ?_ ?_ (vprobe_keeps ..)
          | refine Keeps.of1 (by assumption) ?_ | apply Keeps.then_ ?_ ?_ (ih ..))
      | split | decide)

theorem writeTokens_keeps (c : AtJob) (ws : Nat → List (Nat × List Byte)) (x0 : Nat) (x1 : Nat) (s : State) :
    Keeps 0x10790 s (writeTokens c ws x0 x1 s).2.2 := by
  induction x0 generalizing x1 s with
  | zero => exact .refl _
  | succ n ih =>
    unfold writeTokens
    repeat' (first
      | with_reducible (first
          | apply Keeps.refl | assumption | apply Keeps.then_ ?_ ?_ (writeAll_keeps ..)
          | refine Keeps.of1 (by assumption) ?_ | apply Keeps.then_ ?_ ?_ (ih ..)
          | refine Keeps.of2 (by assumption) ?_)
      | split | decide)

theorem scrambleToken_keeps (c : AtJob) (ws : List (Nat × List Byte)) (s : State) :
    Keeps 0x10790 s (scrambleToken c ws s) := by
  unfold scrambleToken
  repeat' (first
    | extract_lets
    | with_reducible (first
        | apply Keeps.refl | assumption | apply Keeps.then_ ?_ ?_ (fresh_keeps ..)
        | refine Keeps.of1 (by assumption) ?_ | apply Keeps.then_ ?_ ?_ (writeAll_keeps ..))
    | split | with_reducible (first | apply Keeps.ite | apply Keeps.ite1) | decide | dsimp +zetaDelta only)

theorem appendFault_keeps (q : Part4) (cls : FaultClass) (pos : Nat) (s : State) :
    Keeps 0x197B8 s (appendFault q cls pos s) := by
  unfold appendFault
  repeat' (first
    | extract_lets
    | with_reducible (first
        | apply Keeps.refl | assumption | apply Keeps.then_ ?_ ?_ (bumpHearth_keeps ..)
        | apply Keeps.then_ ?_ ?_ (bumpAtt_keeps ..) | apply Keeps.then_ ?_ ?_ (partRecordAt_keeps ..)
        | apply Keeps.then_ ?_ ?_ (faultPart_keeps ..))
    | split | with_reducible (first | apply Keeps.ite | apply Keeps.ite1 | apply Keeps.ite2) | decide
    | dsimp +zetaDelta only)

theorem appendRun_keeps (q : Part4) (stop : Option (Nat × FaultClass)) (s : State) :
    Keeps 0x197B8 s (appendRun q stop s) := by
  unfold appendRun
  repeat' (first
    | extract_lets
    | with_reducible (first
        | apply Keeps.refl | assumption | apply Keeps.then_ ?_ ?_ (probeAll_keeps ..)
        | apply Keeps.then_ ?_ ?_ (writeTokens_keeps ..) | apply Keeps.then_ ?_ ?_ (scrambleToken_keeps ..)
        | apply Keeps.then_ ?_ ?_ (appendFault_keeps ..) | apply Keeps.then_ ?_ ?_ (bumpAtt_keeps ..)
        | apply Keeps.then_ ?_ ?_ (partEnd_keeps ..) | refine Keeps.of1 (by assumption) ?_
        | refine Keeps.of2 (by assumption) ?_)
    | split | with_reducible (first | apply Keeps.ite | apply Keeps.ite1 | apply Keeps.ite2) | intro _ _ | decide
    | dsimp +zetaDelta only)

theorem partCommit_keeps (q : Part4) (upset : Option (FaultClass × Nat)) (s : State) :
    Keeps 0x197B8 s (partCommit q upset s) := by
  unfold partCommit
  repeat' (first
    | with_reducible (first
        | apply Keeps.refl | assumption | apply Keeps.then_ ?_ ?_ (attendCommit_keeps ..)
        | apply Keeps.then_ ?_ ?_ (passCommit_keeps ..) | apply Keeps.then_ ?_ ?_ (transformCommit_keeps ..))
    | split | with_reducible (first | apply Keeps.ite | apply Keeps.ite1 | apply Keeps.ite2) | decide)

theorem stopPart_keeps (q : Part4) (cls : FaultClass) (pass : Nat) (s : State) :
    Keeps 0x197B8 s (stopPart q cls pass s) := by
  unfold stopPart
  repeat' (first
    | with_reducible (first
        | apply Keeps.refl | assumption | apply Keeps.then_ ?_ ?_ (stopAttend_keeps ..)
        | apply Keeps.then_ ?_ ?_ (stopGroup_keeps ..) | apply Keeps.then_ ?_ ?_ (stopTransform_keeps ..))
    | split | with_reducible (first | apply Keeps.ite | apply Keeps.ite1 | apply Keeps.ite2) | decide)

theorem passAbandon_keeps (hoop step pos : Nat) (cause : FaultClass) (pass : Nat) (writeOut : Bool) (fixed : Corrected) (s : State) :
    Keeps 0x197B8 s (passAbandon hoop step pos cause pass writeOut fixed s) := by
  unfold passAbandon
  repeat' (first
    | extract_lets
    | with_reducible (first
        | apply Keeps.refl | assumption | apply Keeps.then_ ?_ ?_ (partCommit_keeps ..)
        | apply Keeps.then_ ?_ ?_ (stopPart_keeps ..) | apply Keeps.then_ ?_ ?_ (countFixed_keeps ..))
    | split | with_reducible (first | apply Keeps.ite | apply Keeps.ite1 | apply Keeps.ite2) | decide
    | dsimp +zetaDelta only)

end Sys2Proof.Machine
end

