-- ==== Sys2Proof/Laws/KeepsTransfer.lean ====
section
/-! SUPPORT. What the operations of Machine/Transfer.lean keep (Laws/Keeps.lean). -/
set_option linter.unusedTactic false
set_option linter.unreachableTactic false

namespace Sys2Proof.Machine
set_option Elab.async false

theorem endRead_keeps (q : Part4) (x : End) (a : Nat) (n : Nat) (s : State) :
    Keeps 0x10780 s (endRead q x a n s).2 := by
  unfold endRead
  repeat' (first
    | with_reducible (first
        | apply Keeps.refl | assumption | apply Keeps.then_ ?_ ?_ (vread_keeps ..)
        | refine Keeps.of1 (by assumption) ?_)
    | split | decide)

theorem endWrite_keeps (q : Part4) (x : End) (a : Nat) (bs : List Byte) (s : State) :
    Keeps 0x10790 s (endWrite q x a bs s).2 := by
  unfold endWrite
  repeat' (first
    | with_reducible (first
        | apply Keeps.refl | assumption | apply Keeps.then_ ?_ ?_ (updHearth_keeps _ _ _ ?_)
        | apply Keeps.then_ ?_ ?_ (vwrite_keeps ..) | refine Keeps.of1 (by assumption) ?_)
    | split | exact (fun _ h => h) | intro _ _ | exact Hearth.write_wf _ _ _ ‹_› | decide)

theorem readGroups_keeps (q : Part4) (x : End) (w : Nat) (x0 : List (Nat × Nat)) (s : State) :
    Keeps 0x10780 s (readGroups q x w x0 s).2 := by
  induction x0 generalizing s with
  | nil => exact .refl _
  | cons e l ih =>
    unfold readGroups
    repeat' (first
      | extract_lets
      | with_reducible (first
          | apply Keeps.refl | assumption | apply Keeps.then_ ?_ ?_ (endRead_keeps ..)
          | refine Keeps.of1 (by assumption) ?_ | apply Keeps.then_ ?_ ?_ (ih ..))
      | split | with_reducible (first | apply Keeps.ite) | decide | dsimp +zetaDelta only)

theorem readPositions_keeps (q : Part4) (x : End) (w : Nat) (ch : Nat) (x0 : List (Nat × Nat)) (s : State) :
    Keeps 0x10780 s (readPositions q x w ch x0 s).2.2 := by
  induction x0 generalizing s with
  | nil => exact .refl _
  | cons e l ih =>
    unfold readPositions
    repeat' (first
      | extract_lets
      | with_reducible (first
          | apply Keeps.refl | assumption | apply Keeps.then_ ?_ ?_ (readGroups_keeps ..)
          | refine Keeps.of1 (by assumption) ?_ | apply Keeps.then_ ?_ ?_ (ih ..)
          | refine Keeps.of2 (by assumption) ?_)
      | split | with_reducible (first | apply Keeps.ite | apply Keeps.ite1) | decide | dsimp +zetaDelta only)

theorem readBlocks_keeps (q : Part4) (x : End) (fmt : Nat) (mode : Nat) (x0 : List (Nat × Nat × Nat)) (x1 : Tab (List Nat)) (s : State) :
    Keeps 0x10780 s (readBlocks q x fmt mode x0 x1 s).2.2 := by
  induction x0 generalizing x1 s with
  | nil => exact .refl _
  | cons e l ih =>
    unfold readBlocks
    repeat' (first
      | extract_lets
      | with_reducible (first
          | apply Keeps.refl | assumption | apply Keeps.then_ ?_ ?_ (bumpCmp_keeps ..)
          | apply Keeps.then_ ?_ ?_ (endRead_keeps ..) | refine Keeps.of1 (by assumption) ?_
          | apply Keeps.then_ ?_ ?_ (ih ..) | refine Keeps.of2 (by assumption) ?_)
      | split | with_reducible (first | apply Keeps.ite) | decide | dsimp +zetaDelta only)

theorem readRect_keeps (q : Part4) (d : Entry) (x : End) (rows : List Nat) (s : State) :
    Keeps 0x10780 s (readRect q d x rows s).2.2 := by
  unfold readRect
  repeat' (first
    | extract_lets
    | with_reducible (first
        | apply Keeps.refl | assumption | apply Keeps.then_ ?_ ?_ (readPositions_keeps ..)
        | refine Keeps.of2 (by assumption) ?_ | apply Keeps.then_ ?_ ?_ (readBlocks_keeps ..))
    | split | with_reducible (first | apply Keeps.ite | apply Keeps.ite1) | decide | dsimp +zetaDelta only)

theorem countBlock_keeps (h : Half) (mode : Nat) (b : Option (Nat × Nat)) (s : State) :
    Keeps 0x180 s (countBlock h mode b s) := by
  unfold countBlock
  repeat' (first
    | extract_lets
    | with_reducible (first
        | apply Keeps.refl | assumption | apply Keeps.then_ ?_ ?_ (bumpCmp_keeps ..))
    | split | with_reducible (first | apply Keeps.ite) | decide | dsimp +zetaDelta only)

theorem unitWrite_keeps (q : Part4) (x : End) (u : Unit_) (s : State) : Keeps 0x10790 s (unitWrite q x u s).2 := by
  unfold unitWrite
  repeat' (first
    | with_reducible (first
        | apply Keeps.refl | assumption | apply Keeps.then_ ?_ ?_ (vwriteWhole_keeps ..)
        | apply Keeps.then_ ?_ ?_ (endWrite_keeps ..) | refine Keeps.of1 (by assumption) ?_)
    | split | with_reducible (first | apply Keeps.ite | apply Keeps.ite1 | apply Keeps.ite2) | decide)

theorem writeList_keeps (q : Part4) (x : End) (mode : Nat) (x0 : List Unit_) (x1 : Nat) (s : State) :
    Keeps 0x10790 s (writeList q x mode x0 x1 s).2.2 := by
  induction x0 generalizing x1 s with
  | nil => exact .refl _
  | cons e l ih =>
    unfold writeList
    repeat' (first
      | with_reducible (first
          | apply Keeps.refl | assumption | apply Keeps.then_ ?_ ?_ (bumpXlat_keeps ..)
          | apply Keeps.then_ ?_ ?_ (countBlock_keeps ..) | apply Keeps.then_ ?_ ?_ (unitWrite_keeps ..)
          | apply Keeps.then_ ?_ ?_ (ih ..) | refine Keeps.of1 (by assumption) ?_ | refine Keeps.of2 (by assumption) ?_)
      | split | decide)

theorem flightUnits_keeps (q : Part4) (x : End) (rest : List Unit_) (s : State) :
    Keeps 0x10790 s (flightUnits q x rest s) := by
  unfold flightUnits
  repeat' (first
    | extract_lets
    | with_reducible (first
        | apply Keeps.refl | assumption | apply Keeps.then_ ?_ ?_ (fresh_keeps ..)
        | apply Keeps.then_ ?_ ?_ (unitWrite_keeps ..) | apply Keeps.trans ?_ (forEach_keeps _ _ _ ?_)
        | refine Keeps.of1 (by assumption) ?_)
    | split | intro _ _ | decide | dsimp +zetaDelta only)

theorem transferFault_keeps (q : Part4) (cls : FaultClass) (s : State) : Keeps 0x197B8 s (transferFault q cls s) := by
  unfold transferFault
  repeat' (first
    | extract_lets
    | with_reducible (first
        | apply Keeps.refl | assumption | apply Keeps.then_ ?_ ?_ (partRecord_keeps ..)
        | apply Keeps.then_ ?_ ?_ (faultPart_keeps ..) | apply Keeps.then_ ?_ ?_ (bumpCmp_keeps ..))
    | split | with_reducible (first | apply Keeps.ite | apply Keeps.ite1 | apply Keeps.ite2) | decide
    | dsimp +zetaDelta only)

theorem transferEcc_keeps (q : Part4) (x : End) (a : Nat) (s : State) : Keeps 0x197B8 s (transferEcc q x a s) := by
  unfold transferEcc
  repeat' (first
    | extract_lets
    | with_reducible (first
        | apply Keeps.refl | assumption | apply Keeps.then_ ?_ ?_ (translate_keeps ..)
        | refine Keeps.of1 (by assumption) ?_ | apply Keeps.then_ ?_ ?_ (partFault_keeps ..)
        | apply Keeps.then_ ?_ ?_ (eccFaultAt_keeps ..) | apply Keeps.then_ ?_ ?_ (transferFault_keeps ..))
    | split | with_reducible (first | apply Keeps.ite) | decide | dsimp +zetaDelta only)

theorem transferRest_keeps (q : Part4) (x : End) (mode : Nat) (us : List Unit_) (srcF : Option FaultClass) (s : State) :
    Keeps 0x197B8 s (transferRest q x mode us srcF s) := by
  unfold transferRest
  repeat' (first
    | extract_lets
    | with_reducible (first
        | apply Keeps.refl | assumption | apply Keeps.then_ ?_ ?_ (partEnd_keeps ..)
        | apply Keeps.then_ ?_ ?_ (fresh_keeps ..) | apply Keeps.then_ ?_ ?_ (writeList_keeps ..)
        | apply Keeps.then_ ?_ ?_ (flightUnits_keeps ..) | apply Keeps.then_ ?_ ?_ (transferFault_keeps ..)
        | refine Keeps.of1 (by assumption) ?_ | refine Keeps.of2 (by assumption) ?_)
    | split | decide | dsimp +zetaDelta only)

theorem checkStop_keeps (q : Part4) (d : Entry) (y : End) (us : List Unit_) (srcF : Option FaultClass) (lo hi : Nat) (s : State) :
    Keeps 0x197B8 s (checkStop q d y us srcF lo hi s) := by
  unfold checkStop
  repeat' (first
    | extract_lets
    | with_reducible (first
        | apply Keeps.refl | assumption | apply Keeps.then_ ?_ ?_ (partRecord_keeps ..)
        | apply Keeps.then_ ?_ ?_ (fresh_keeps ..) | apply Keeps.then_ ?_ ?_ (writeList_keeps ..)
        | apply Keeps.then_ ?_ ?_ (flightUnits_keeps ..) | apply Keeps.then_ ?_ ?_ (transferFault_keeps ..)
        | apply Keeps.then_ ?_ ?_ (transferRest_keeps ..) | refine Keeps.of1 (by assumption) ?_
        | refine Keeps.of2 (by assumption) ?_)
    | split | with_reducible (first | apply Keeps.ite | apply Keeps.ite1 | apply Keeps.ite2) | intro _ _ | decide
    | dsimp +zetaDelta only)

theorem moveOf_keeps (q : Part4) (s : State) : Keeps 0x10780 s (moveOf q s).2 := by
  unfold moveOf
  repeat' (first
    | extract_lets
    | with_reducible (first
        | apply Keeps.refl | assumption | apply Keeps.then_ ?_ ?_ (readRect_keeps ..)
        | refine Keeps.of1 (by assumption) ?_ | refine Keeps.of2 (by assumption) ?_)
    | split | decide | dsimp +zetaDelta only)

theorem stopMove_keeps (q : Part4) (d : Entry) (m : Move) (n : Nat) (cls : FaultClass) (s : State) :
    Keeps 0x197B8 s (stopMove q d m n cls s) := by
  unfold stopMove
  repeat' (first
    | extract_lets
    | with_reducible (first
        | apply Keeps.refl | assumption | apply Keeps.then_ ?_ ?_ (faultPart_keeps ..)
        | apply Keeps.then_ ?_ ?_ (writeList_keeps ..) | apply Keeps.then_ ?_ ?_ (flightUnits_keeps ..)
        | apply Keeps.then_ ?_ ?_ (transferFault_keeps ..) | apply Keeps.then_ ?_ ?_ (transferEcc_keeps ..)
        | refine Keeps.of2 (by assumption) ?_)
    | split | with_reducible (first | apply Keeps.ite | apply Keeps.ite1 | apply Keeps.ite2) | decide
    | dsimp +zetaDelta only)

theorem transferRun_keeps (q : Part4) (stop : Option (Nat × FaultClass)) (s : State) :
    Keeps 0x197B8 s (transferRun q stop s) := by
  unfold transferRun
  repeat' (first
    | extract_lets
    | with_reducible (first
        | apply Keeps.refl | assumption | apply Keeps.then_ ?_ ?_ (transferRest_keeps ..)
        | apply Keeps.then_ ?_ ?_ (checkStop_keeps ..) | apply Keeps.then_ ?_ ?_ (moveOf_keeps ..)
        | apply Keeps.then_ ?_ ?_ (stopMove_keeps ..) | refine Keeps.of1 (by assumption) ?_)
    | split | with_reducible (first | apply Keeps.ite | apply Keeps.ite1 | apply Keeps.ite2) | decide
    | dsimp +zetaDelta only)

theorem transferDone_keeps (hoop step pos : Nat) (stop : Option (Nat × FaultClass)) (fixed : Corrected) (s : State) :
    Keeps 0x197B8 s (transferDone hoop step pos stop fixed s) := by
  unfold transferDone
  repeat' (first
    | extract_lets
    | with_reducible (first
        | apply Keeps.refl | assumption | apply Keeps.then_ ?_ ?_ (countFixed_keeps ..)
        | apply Keeps.then_ ?_ ?_ (transferRun_keeps ..))
    | split | with_reducible (first | apply Keeps.ite | apply Keeps.ite1 | apply Keeps.ite2) | decide
    | dsimp +zetaDelta only)

end Sys2Proof.Machine
end

