-- ==== Sys2Proof/Laws/KeepsFrames.lean ====
section
/-! SUPPORT. What the operations of Machine/Frames.lean keep (Laws/Keeps.lean). -/
set_option linter.unusedTactic false
set_option linter.unreachableTactic false

namespace Sys2Proof.Machine
set_option Elab.async false

theorem controlWrite_keeps (s : State) : Keeps 0x180 s (controlWrite s) := by
  unfold controlWrite
  repeat' (first
    | with_reducible (first
        | apply Keeps.refl | assumption | apply Keeps.then_ ?_ ?_ (updHalf_keeps _ _ _ ?_))
    | split | with_reducible (first | apply Keeps.ite | apply Keeps.ite1 | apply Keeps.ite2)
    | exact (fun _ => HalfUnit.ok_of rfl rfl rfl) | intro _ _ | decide)

theorem updFrame_keeps (k : Nat) (f : Frame → Frame) (s : State) : Keeps 0x800 s (updFrame k f s) := by
  unfold updFrame
  repeat' (first
    | with_reducible (first
        | apply Keeps.refl | assumption | apply Keeps.then_ ?_ ?_ (updKey_keeps ..))
    | decide)

theorem setFlag_keeps (k : Nat) (flag : Nat) (s : State) : Keeps 0x800 s (setFlag k flag s) := by
  unfold setFlag
  repeat' (first
    | with_reducible (first
        | apply Keeps.refl | assumption | apply Keeps.then_ ?_ ?_ (updFrame_keeps ..))
    | decide)

theorem setResync_keeps (k : Nat) (s : State) : Keeps 0x800 s (setResync k s) := by
  unfold setResync
  repeat' (first
    | with_reducible (first
        | apply Keeps.refl | assumption | apply Keeps.then_ ?_ ?_ (updKey_keeps ..))
    | decide)

theorem strayStart_keeps (k : Nat) (s : State) : Keeps 0x800 s (strayStart k s) := by
  unfold strayStart
  repeat' (first
    | with_reducible (first
        | apply Keeps.refl | assumption | apply Keeps.then_ ?_ ?_ (bumpPort_keeps ..))
    | decide)

theorem bufWrite_keeps (k : Nat) (ctx : Nat) (va : Nat) (bs : List Byte) (s : State) :
    Keeps 0x10F90 s (bufWrite k ctx va bs s).2 := by
  unfold bufWrite
  repeat' (first
    | with_reducible (first
        | apply Keeps.refl | assumption | apply Keeps.then_ ?_ ?_ (bumpPort_keeps ..)
        | apply Keeps.then_ ?_ ?_ (vwrite_keeps ..) | refine Keeps.of1 (by assumption) ?_)
    | split | decide)

theorem bufFlag_keeps (k : Nat) (f : Frame) (off : Nat) (bs : List Byte) (s : State) :
    Keeps 0x10F90 s (bufFlag k f off bs s) := by
  unfold bufFlag
  repeat' (first
    | extract_lets
    | with_reducible (first
        | apply Keeps.refl | assumption | apply Keeps.then_ ?_ ?_ (setFlag_keeps ..)
        | apply Keeps.then_ ?_ ?_ (bufWrite_keeps ..) | refine Keeps.of1 (by assumption) ?_)
    | split | with_reducible (first | apply Keeps.ite) | decide | dsimp +zetaDelta only)

theorem mainWrite_keeps (k : Nat) (f : Frame) (writes : List (Nat × List Byte)) (s : State) :
    Keeps 0x10F90 s (mainWrite k f writes s) := by
  unfold mainWrite
  repeat' (first
    | with_reducible (first
        | apply Keeps.refl | assumption | apply Keeps.trans ?_ (forEach_keeps _ _ _ ?_)
        | apply Keeps.then_ ?_ ?_ (setFlag_keeps ..) | apply Keeps.then_ ?_ ?_ (bufFlag_keeps ..))
    | split | intro _ _ | decide)

theorem localWrite_keeps (h : Half) (off : Nat) (bs : List Byte) (s : State) : Keeps 0x400 s (localWrite h off bs s) := by
  cases h
  · exact Keeps.setMem (.refl s) fun k => ⟨k.1, k.2.1, Store.writeN_wf _ _ _ k.2.2.1, k.2.2.2⟩
  · exact Keeps.setMem (.refl s) fun k => ⟨k.1, k.2.1, k.2.2.1, Store.writeN_wf _ _ _ k.2.2.2.1, k.2.2.2.2⟩

theorem pilotWrite_keeps (k : Nat) (f : Frame) (off : Nat) (bs : List Byte) (s : State) :
    Keeps 0xC00 s (pilotWrite k f off bs s) := by
  unfold pilotWrite
  repeat' (first
    | extract_lets
    | with_reducible (first
        | apply Keeps.refl | assumption | apply Keeps.then_ ?_ ?_ (updFrame_keeps ..)
        | apply Keeps.then_ ?_ ?_ (localWrite_keeps ..))
    | split | with_reducible (first | apply Keeps.ite) | decide | dsimp +zetaDelta only)

theorem putRow_keeps (k : Nat) (f : Frame) (y : Nat) (px : Nat → Nat → List Nat) (s : State) :
    Keeps 0x10F90 s (putRow k f y px s) := by
  unfold putRow
  repeat' (first
    | extract_lets
    | with_reducible (first
        | apply Keeps.refl | assumption | apply Keeps.then_ ?_ ?_ (mainWrite_keeps ..)
        | apply Keeps.then_ ?_ ?_ (pilotWrite_keeps ..))
    | split | intro _ _ | decide | dsimp +zetaDelta only)

theorem putCopy_keeps (k : Nat) (f : Frame) (bs : List Byte) (pilot : Bool) (s : State) :
    Keeps 0x10F90 s (putCopy k f bs pilot s) := by
  unfold putCopy
  repeat' (first
    | extract_lets
    | with_reducible (first
        | apply Keeps.refl | assumption | apply Keeps.then_ ?_ ?_ (updFrame_keeps ..)
        | apply Keeps.then_ ?_ ?_ (mainWrite_keeps ..) | apply Keeps.then_ ?_ ?_ (pilotWrite_keeps ..))
    | split | with_reducible (first | apply Keeps.ite) | decide | dsimp +zetaDelta only)

theorem closeFrame_keeps (k : Nat) (extra : Nat) (s : State) : Keeps 0x800 s (closeFrame k extra s) := by
  unfold closeFrame
  repeat' (first
    | extract_lets
    | with_reducible (first
        | apply Keeps.refl | assumption | apply Keeps.then_ ?_ ?_ (updKey_keeps ..))
    | split | with_reducible (first | apply Keeps.ite | apply Keeps.ite1) | decide | dsimp +zetaDelta only)

theorem commitReply_keeps (c : Commit) (eff : Word) (detail : Nat) (s : State) :
    Keeps 0x10 s (commitReply c eff detail s) := by
  unfold commitReply
  repeat' (first
    | with_reducible (first
        | apply Keeps.refl | assumption | apply Keeps.then_ ?_ ?_ (replyFinal_keeps ..))
    | decide)

theorem takeDecoders_keeps (k : Nat) (s : State) : Keeps 0x800 s (takeDecoders k s) := by
  unfold takeDecoders
  repeat' (first
    | with_reducible (first
        | apply Keeps.refl | assumption | apply Keeps.then_ ?_ ?_ (updDec_keeps ..)
        | apply Keeps.trans ?_ (forEach_keeps _ _ _ ?_))
    | split | with_reducible (first | apply Keeps.ite | apply Keeps.ite1 | apply Keeps.ite2) | intro _ _ | decide)

theorem takeChange_keeps (k : Nat) (seq : Word) (s : State) : Keeps 0x800 s (takeChange k seq s).2 := by
  unfold takeChange
  repeat' (first
    | extract_lets
    | with_reducible (first
        | apply Keeps.refl | assumption | apply Keeps.then_ ?_ ?_ (setResync_keeps ..)
        | apply Keeps.then_ ?_ ?_ (takeDecoders_keeps ..) | apply Keeps.then_ ?_ ?_ (updKey_keeps ..)
        | apply Keeps.then_ ?_ ?_ (updPort_keeps ..) | refine Keeps.of1 (by assumption) ?_)
    | split | with_reducible (first | apply Keeps.ite | apply Keeps.ite1 | apply Keeps.ite2) | intro _ _ | decide
    | dsimp +zetaDelta only)

theorem takeRing_keeps (k : Nat) (ctx : Nat) (bufs : List Nat) (s : State) :
    Keeps 0x800 s (takeRing k ctx bufs s) := by
  unfold takeRing
  repeat' (first
    | with_reducible (first
        | apply Keeps.refl | assumption | apply Keeps.then_ ?_ ?_ (updKey_keeps ..))
    | decide)

theorem takeCommit_keeps (k : Nat) (seq : Word) (o : Origin) (s : State) : Keeps 0x810 s (takeCommit k seq o s).2 := by
  unfold takeCommit
  repeat' (first
    | extract_lets
    | with_reducible (first
        | apply Keeps.refl | assumption | apply Keeps.then_ ?_ ?_ (commitReply_keeps ..)
        | apply Keeps.then_ ?_ ?_ (takeRing_keeps ..) | apply Keeps.then_ ?_ ?_ (updKey_keeps ..)
        | refine Keeps.of1 (by assumption) ?_)
    | split | intro _ _ | decide | dsimp +zetaDelta only)

theorem writeFilling_keeps (k : Nat) (f : Frame) (s : State) : Keeps 0x10F90 s (writeFilling k f s) := by
  unfold writeFilling
  repeat' (first
    | with_reducible (first
        | apply Keeps.refl | assumption | apply Keeps.then_ ?_ ?_ (bufFlag_keeps ..))
    | decide)

theorem beginFrame_keeps (k : Nat) (o : Origin) (s : State) : Keeps 0x10F90 s (beginFrame k o s) := by
  unfold beginFrame
  repeat' (first
    | extract_lets
    | with_reducible (first
        | apply Keeps.refl | assumption | apply Keeps.then_ ?_ ?_ (updKey_keeps ..)
        | apply Keeps.then_ ?_ ?_ (updPort_keeps ..) | apply Keeps.then_ ?_ ?_ (bumpPort_keeps ..)
        | apply Keeps.then_ ?_ ?_ (closeFrame_keeps ..) | apply Keeps.then_ ?_ ?_ (takeChange_keeps ..)
        | refine Keeps.of1 (by assumption) ?_ | apply Keeps.then_ ?_ ?_ (takeCommit_keeps ..)
        | apply Keeps.then_ ?_ ?_ (writeFilling_keeps ..))
    | split | with_reducible (first | apply Keeps.ite | apply Keeps.ite1) | decide | dsimp +zetaDelta only)

theorem recordFrame_keeps (k : Nat) (f : Frame) (rec_ : List Byte) (s : State) :
    Keeps 0x8010 s (recordFrame k f rec_ s) := by
  unfold recordFrame
  repeat' (first
    | extract_lets
    | with_reducible (first
        | apply Keeps.refl | assumption | apply Keeps.then_ ?_ ?_ (recordEntryAt_keeps ..))
    | split | with_reducible (first | apply Keeps.ite) | decide | dsimp +zetaDelta only)

theorem recordEffect_keeps (k : Nat) (f : Frame) (agreed : Bool) (ring : Nat) (tag : Nat) (number : Nat) (s : State) :
    Keeps 0x8010 s (recordEffect k f agreed ring tag number s) := by
  unfold recordEffect
  repeat' (first
    | with_reducible (first
        | apply Keeps.refl | assumption | apply Keeps.then_ ?_ ?_ (recordEntry_keeps ..))
    | decide)

theorem replaceRuns_keeps (k : Nat) (s : State) : Keeps 0x9198 s (replaceRuns k s) := by
  unfold replaceRuns
  repeat' (first
    | extract_lets
    | with_reducible (first
        | apply Keeps.refl | assumption | apply Keeps.then_ ?_ ?_ (updPilot_keeps ..)
        | apply Keeps.trans ?_ (forEach_keeps _ _ _ ?_) | apply Keeps.then_ ?_ ?_ (fallbackHolds_keeps ..))
    | with_reducible (first | apply Keeps.ite) | intro _ _ | decide | dsimp +zetaDelta only)

theorem pilotDue_keeps (k : Nat) (prog : Nat) (f : Frame) (rec_ : List Byte) (h : Half) (s : State) :
    Keeps 0x1000 s (pilotDue k prog f rec_ h s) := by
  unfold pilotDue
  repeat' (first
    | with_reducible (first
        | apply Keeps.refl | assumption | apply Keeps.then_ ?_ ?_ (updPilot_keeps ..))
    | split | decide)

theorem pilotRuns_keeps (k : Nat) (f : Frame) (rec_ : List Byte) (s : State) :
    Keeps 0x9198 s (pilotRuns k f rec_ s) := by
  unfold pilotRuns
  repeat' (first
    | extract_lets
    | with_reducible (first
        | apply Keeps.refl | assumption | apply Keeps.then_ ?_ ?_ (replaceRuns_keeps ..)
        | apply Keeps.then_ ?_ ?_ (pilotDue_keeps ..))
    | split | with_reducible (first | apply Keeps.ite) | decide | dsimp +zetaDelta only)

theorem finishFrame_keeps (k : Nat) (ecc : Ecc) (f : Frame) (s : State) :
    Keeps 0x19F98 s (finishFrame k ecc f s).2 := by
  unfold finishFrame
  repeat' (first
    | extract_lets
    | with_reducible (first
        | apply Keeps.refl | assumption | apply Keeps.then_ ?_ ?_ (setKnot_keeps ..)
        | apply Keeps.then_ ?_ ?_ (bumpPort_keeps ..) | apply Keeps.then_ ?_ ?_ (report_keeps ..)
        | apply Keeps.then_ ?_ ?_ (bufWrite_keeps ..) | refine Keeps.of1 (by assumption) ?_
        | apply Keeps.then_ ?_ ?_ (recordFrame_keeps ..) | apply Keeps.then_ ?_ ?_ (pilotRuns_keeps ..))
    | split | with_reducible (first | apply Keeps.ite | apply Keeps.ite1) | decide | dsimp +zetaDelta only)

theorem frameNotices_keeps (k : Nat) (f : Frame) (s : State) : Keeps 0x8010 s (frameNotices k f s) := by
  unfold frameNotices
  repeat' (first
    | extract_lets
    | with_reducible (first
        | apply Keeps.refl | assumption | apply Keeps.then_ ?_ ?_ (postEvent_keeps ..)
        | apply Keeps.then_ ?_ ?_ (commitReply_keeps ..) | apply Keeps.then_ ?_ ?_ (recordEffect_keeps ..))
    | split | with_reducible (first | apply Keeps.ite) | decide | dsimp +zetaDelta only)

theorem frameComplete_keeps (k : Nat) (ecc : Ecc) (s : State) : Keeps 0x19F98 s (frameComplete k ecc s) := by
  unfold frameComplete
  repeat' (first
    | extract_lets
    | with_reducible (first
        | apply Keeps.refl | assumption | apply Keeps.then_ ?_ ?_ (finishFrame_keeps ..)
        | apply Keeps.then_ ?_ ?_ (frameNotices_keeps ..) | apply Keeps.then_ ?_ ?_ (updKey_keeps ..)
        | refine Keeps.of1 (by assumption) ?_)
    | split | with_reducible (first | apply Keeps.ite | apply Keeps.ite1 | apply Keeps.ite2) | intro _ _ | decide
    | dsimp +zetaDelta only)

theorem loseCopies_keeps (h : Half) (s : State) : Keeps 0x800 s (loseCopies h s) := by
  unfold loseCopies
  repeat' (first
    | extract_lets
    | with_reducible (first
        | apply Keeps.refl | assumption | apply Keeps.then_ ?_ ?_ (updKey_keeps ..)
        | apply Keeps.trans ?_ (forEach_keeps _ _ _ ?_))
    | split | intro _ _ | decide | dsimp +zetaDelta only)

theorem clearIntake_keeps (s : State) : Keeps 0x810 s (clearIntake s) := by
  unfold clearIntake
  repeat' (first
    | extract_lets
    | with_reducible (first
        | apply Keeps.refl | assumption | apply Keeps.then_ ?_ ?_ (setResync_keeps ..)
        | apply Keeps.then_ ?_ ?_ (commitReply_keeps ..) | apply Keeps.then_ ?_ ?_ (updKey_keeps ..)
        | apply Keeps.then_ ?_ ?_ (updDec_keeps ..) | apply Keeps.trans ?_ (forEach_keeps _ _ _ ?_))
    | split | intro _ _ | decide | dsimp +zetaDelta only)

end Sys2Proof.Machine
end

