-- ==== Sys2Proof/Laws/KeepsFaults.lean ====
section
/-! SUPPORT. What the operations of Machine/Faults.lean keep (Laws/Keeps.lean). -/
set_option linter.unusedTactic false
set_option linter.unreachableTactic false

namespace Sys2Proof.Machine
set_option Elab.async false

theorem coalesceEnd_keeps (key : FaultKey) (s : State) : Keeps 0x181 s (coalesceEnd key s) := by
  unfold coalesceEnd
  repeat' (first
    | with_reducible (first
        | apply Keeps.refl | assumption | apply Keeps.then_ ?_ ?_ (advanceTo_keeps ..)
        | apply Keeps.then_ ?_ ?_ (coalesceExpire_keeps ..))
    | split | decide)

theorem repeatEnd_keeps (key : FaultKey) (s : State) : Keeps 0x181 s (repeatEnd key s) := by
  unfold repeatEnd
  repeat' (first
    | with_reducible (first
        | apply Keeps.refl | assumption | apply Keeps.then_ ?_ ?_ (advanceTo_keeps ..)
        | apply Keeps.then_ ?_ ?_ (repeatExpire_keeps ..))
    | split | decide)

theorem refill_keeps (h : Half) (s : State) : Keeps 0x180 s (refill h s) := by
  unfold refill
  repeat' (first
    | extract_lets
    | with_reducible (first
        | apply Keeps.refl | assumption | apply Keeps.then_ ?_ ?_ (updHalf_keeps _ _ _ ?_))
    | split | with_reducible (first | apply Keeps.ite) | exact (fun _ => HalfUnit.ok_of rfl rfl rfl) | intro _ _
    | decide | dsimp +zetaDelta only)

theorem writeFault_keeps (h : Half) (s : State) : Keeps 0x1190 s (writeFault h s) := by
  unfold writeFault
  repeat' (first
    | extract_lets
    | with_reducible (first
        | apply Keeps.refl | assumption | apply Keeps.then_ ?_ ?_ (updHalf_keeps _ _ _ ?_)
        | apply Keeps.then_ ?_ ?_ (bumpFg_keeps ..) | apply Keeps.then_ ?_ ?_ (pushRecord_keeps ..))
    | split | with_reducible (first | apply Keeps.ite) | with_reducible (first | apply Keeps.setOut)
    | exact (fun _ => HalfUnit.ok_of rfl rfl rfl) | intro _ _ | decide | dsimp +zetaDelta only)

theorem faultWrite_keeps (s : State) : Keeps 0x1190 s (faultWrite s) := by
  unfold faultWrite
  repeat' (first
    | extract_lets
    | with_reducible (first
        | apply Keeps.refl | assumption | apply Keeps.then_ ?_ ?_ (refill_keeps ..)
        | apply Keeps.then_ ?_ ?_ (writeFault_keeps ..))
    | split | with_reducible (first | apply Keeps.ite) | decide | dsimp +zetaDelta only)

theorem decideDispute_keeps (w : Half) (s : State) : Keeps 0x198 s (decideDispute w s) := by
  unfold decideDispute
  repeat' (first
    | extract_lets
    | with_reducible (first
        | apply Keeps.refl | assumption | apply Keeps.then_ ?_ ?_ (updHalf_keeps _ _ _ ?_)
        | apply Keeps.then_ ?_ ?_ (statusCopy_keeps ..) | apply Keeps.then_ ?_ ?_ (settleState_keeps ..)
        | apply Keeps.then_ ?_ ?_ (leadBy_keeps ..) | apply Keeps.then_ ?_ ?_ (oweReset_keeps ..))
    | with_reducible (first | apply Keeps.setDev) | exact Dev.ok_of rfl | exact (fun _ => HalfUnit.ok_of rfl rfl rfl)
    | intro _ _ | decide | dsimp +zetaDelta only)

theorem settleDispute_keeps (s : State) : Keeps 0x198 s (settleDispute s) := by
  unfold settleDispute
  repeat' (first
    | with_reducible (first
        | apply Keeps.refl | assumption | apply Keeps.then_ ?_ ?_ (decideDispute_keeps ..))
    | split | with_reducible (first | apply Keeps.setDev) | exact Dev.ok_of rfl | decide)

theorem enterDispute_keeps (s : State) : Keeps 0x198 s (enterDispute s) := by
  unfold enterDispute
  repeat' (first
    | extract_lets
    | with_reducible (first
        | apply Keeps.refl | assumption | apply Keeps.then_ ?_ ?_ (settleState_keeps ..)
        | apply Keeps.then_ ?_ ?_ (report_keeps ..) | apply Keeps.then_ ?_ ?_ (settleDispute_keeps ..))
    | split | with_reducible (first | apply Keeps.ite) | with_reducible (first | apply Keeps.setDev)
    | exact Dev.ok_of rfl | decide | dsimp +zetaDelta only)

theorem claimExchange_keeps (uw ue : Bool) (s : State) : Keeps 0x199 s (claimExchange uw ue s) := by
  have hand : ∀ u t, handOver u = some t → Keeps 0x199 u t := by
    intro u t h
    unfold handOver at h
    simp only at h
    split at h
    · cases h; exact (leadBy_keeps ..).up
    · cases h
  unfold claimExchange
  repeat' (first
    | extract_lets
    | with_reducible (first
        | apply Keeps.refl | assumption | apply Keeps.then_ ?_ ?_ (updHalf_keeps _ _ _ ?_)
        | apply Keeps.then_ ?_ ?_ (advanceTo_keeps ..) | apply Keeps.then_ ?_ ?_ (settleState_keeps ..)
        | apply Keeps.then_ ?_ ?_ (settleDispute_keeps ..) | apply Keeps.then_ ?_ ?_ (enterDispute_keeps ..)
        | refine Keeps.trans ?_ (hand _ _ (by assumption)))
    | split | exact (fun _ => HalfUnit.ok_of rfl rfl rfl) | decide)

theorem claimSilence_keeps (h : Half) (s : State) : Keeps 0x199 s (claimSilence h s) := by
  unfold claimSilence
  repeat' (first
    | extract_lets
    | with_reducible (first
        | apply Keeps.refl | assumption | apply Keeps.then_ ?_ ?_ (updHalf_keeps _ _ _ ?_)
        | apply Keeps.then_ ?_ ?_ (advanceTo_keeps ..) | apply Keeps.then_ ?_ ?_ (enterDispute_keeps ..))
    | split | with_reducible (first | apply Keeps.ite) | exact (fun _ => HalfUnit.ok_of rfl rfl rfl) | intro _ _
    | decide | dsimp +zetaDelta only)

end Sys2Proof.Machine
end

