-- ==== Sys2Proof/Laws/KeepsKreong.lean ====
section
/-! SUPPORT. What the operations of Machine/Kreong.lean keep (Laws/Keeps.lean). -/
set_option linter.unusedTactic false
set_option linter.unreachableTactic false

namespace Sys2Proof.Machine
set_option Elab.async false

theorem transmit_keeps (k : Nat) (fs : List (List Byte)) (s : State) : Keeps 0x4000 s (transmit k fs s) := by
  unfold transmit
  repeat' (first
    | with_reducible (first
        | apply Keeps.refl | assumption | apply Keeps.then_ ?_ ?_ (updLink_keeps ..))
    | decide)

theorem pushFlit_keeps (k : Nat) (ty : Nat) (payload : List Byte) (s : State) :
    Keeps 0x4000 s (pushFlit k ty payload s) := by
  unfold pushFlit
  repeat' (first
    | extract_lets
    | with_reducible (first
        | apply Keeps.refl | assumption | apply Keeps.then_ ?_ ?_ (updLink_keeps ..)
        | apply Keeps.then_ ?_ ?_ (transmit_keeps ..))
    | with_reducible (first | apply Keeps.ite) | decide | dsimp +zetaDelta only)

theorem sendFlit_keeps (k : Nat) (ty : Nat) (payload : List Byte) (s : State) :
    Keeps 0x4000 s (sendFlit k ty payload s) := by
  unfold sendFlit
  repeat' (first
    | extract_lets
    | with_reducible (first
        | apply Keeps.refl | assumption | apply Keeps.then_ ?_ ?_ (updLink_keeps ..)
        | apply Keeps.then_ ?_ ?_ (pushFlit_keeps ..))
    | split | with_reducible (first | apply Keeps.ite) | decide | dsimp +zetaDelta only)

theorem flushFlits_keeps (k : Nat) (x0 : Nat) (s : State) : Keeps 0x4000 s (flushFlits k x0 s) := by
  induction x0 generalizing s with
  | zero => exact .refl _
  | succ n ih =>
    unfold flushFlits
    repeat' (first
      | extract_lets
      | with_reducible (first
          | apply Keeps.refl | assumption | apply Keeps.then_ ?_ ?_ (updLink_keeps ..)
          | apply Keeps.then_ ?_ ?_ (pushFlit_keeps ..) | apply Keeps.then_ ?_ ?_ (ih ..))
      | split | with_reducible (first | apply Keeps.ite) | decide | dsimp +zetaDelta only)

theorem ackFlits_keeps (k : Nat) (ack : Nat) (s : State) : Keeps 0x4000 s (ackFlits k ack s) := by
  unfold ackFlits
  repeat' (first
    | extract_lets
    | with_reducible (first
        | apply Keeps.refl | assumption | apply Keeps.then_ ?_ ?_ (updLink_keeps ..)
        | apply Keeps.then_ ?_ ?_ (flushFlits_keeps ..))
    | split | with_reducible (first | apply Keeps.ite) | decide | dsimp +zetaDelta only)

theorem sendNak_keeps (k : Nat) (s : State) : Keeps 0x4000 s (sendNak k s) := by
  unfold sendNak
  repeat' (first
    | extract_lets
    | with_reducible (first
        | apply Keeps.refl | assumption | apply Keeps.then_ ?_ ?_ (transmit_keeps ..))
    | with_reducible (first | apply Keeps.ite) | decide | dsimp +zetaDelta only)

theorem sendIdle_keeps (k n : Nat) (s : State) : Keeps 0x4000 s (sendIdle k n s) := by
  unfold sendIdle
  repeat' (first
    | extract_lets
    | with_reducible (first
        | apply Keeps.refl | assumption | apply Keeps.then_ ?_ ?_ (transmit_keeps ..))
    | split | with_reducible (first | apply Keeps.ite | apply Keeps.ite1 | apply Keeps.ite2) | decide
    | dsimp +zetaDelta only)

theorem collStop_keeps (c : Coll) (cls : FaultClass) (link : Nat) (cause : Nat) (s : State) :
    Keeps 0x1D7B8 s (collStop c cls link cause s) := by
  unfold collStop
  repeat' (first
    | extract_lets
    | with_reducible (first
        | apply Keeps.refl | assumption | apply Keeps.then_ ?_ ?_ (bumpSys_keeps ..)
        | apply Keeps.then_ ?_ ?_ (report_keeps ..) | apply Keeps.then_ ?_ ?_ (partFault_keeps ..))
    | split | with_reducible (first | apply Keeps.ite) | decide | dsimp +zetaDelta only)

theorem stopAll_keeps (h : Half) (cause : Nat) (s : State) : Keeps 0x1D7B8 s (stopAll h cause s) := by
  unfold stopAll
  repeat' (first
    | with_reducible (first
        | apply Keeps.refl | assumption | apply Keeps.trans ?_ (forEach_keeps _ _ _ ?_)
        | apply Keeps.then_ ?_ ?_ (collStop_keeps ..))
    | intro _ _ | decide)

theorem fenceLink_keeps (k : Nat) (epoch : Nat) (s : State) : Keeps 0x4010 s (fenceLink k epoch s) := by
  unfold fenceLink
  repeat' (first
    | with_reducible (first
        | apply Keeps.refl | assumption | apply Keeps.then_ ?_ ?_ (updLink_keeps ..)
        | apply Keeps.then_ ?_ ?_ (postEvent_keeps ..))
    | decide)

theorem reportAbsent_keeps (k cause : Nat) (s : State) : Keeps 0x198 s (reportAbsent k cause s) := by
  unfold reportAbsent
  repeat' (first
    | with_reducible (first
        | apply Keeps.refl | assumption | apply Keeps.then_ ?_ ?_ (report_keeps ..))
    | decide)

theorem expelLink_keeps (k epoch : Nat) (s : State) : Keeps 0x4198 s (expelLink k epoch s) := by
  unfold expelLink
  repeat' (first
    | extract_lets
    | with_reducible (first
        | apply Keeps.refl | assumption | apply Keeps.then_ ?_ ?_ (fenceLink_keeps ..)
        | apply Keeps.then_ ?_ ?_ (reportAbsent_keeps ..))
    | with_reducible (first | apply Keeps.setLink) | decide | dsimp +zetaDelta only)

theorem declareAbsent_keeps (k cause : Nat) (s : State) : Keeps 0x1D7B8 s (declareAbsent k cause s) := by
  unfold declareAbsent
  repeat' (first
    | extract_lets
    | with_reducible (first
        | apply Keeps.refl | assumption | apply Keeps.then_ ?_ ?_ (collStop_keeps ..)
        | apply Keeps.then_ ?_ ?_ (fenceLink_keeps ..) | apply Keeps.then_ ?_ ?_ (reportAbsent_keeps ..)
        | apply Keeps.then_ ?_ ?_ (updLink_keeps ..) | apply Keeps.then_ ?_ ?_ (bumpLink_keeps ..)
        | apply Keeps.trans ?_ (forEach_keeps _ _ _ ?_))
    | split | with_reducible (first | apply Keeps.ite | apply Keeps.ite1 | apply Keeps.ite2) | intro _ _ | decide
    | dsimp +zetaDelta only)

theorem replayFlits_keeps (k : Nat) (s : State) : Keeps 0x1D7B8 s (replayFlits k s) := by
  unfold replayFlits
  repeat' (first
    | extract_lets
    | with_reducible (first
        | apply Keeps.refl | assumption | apply Keeps.then_ ?_ ?_ (updLink_keeps ..)
        | apply Keeps.then_ ?_ ?_ (bumpLink_keeps ..) | apply Keeps.then_ ?_ ?_ (report_keeps ..)
        | apply Keeps.then_ ?_ ?_ (transmit_keeps ..) | apply Keeps.then_ ?_ ?_ (declareAbsent_keeps ..))
    | split | with_reducible (first | apply Keeps.ite) | decide | dsimp +zetaDelta only)

theorem acceptFlit_keeps {m : Nat} (k ty : Nat) (f : List Byte) (body : State → State) (s : State)
    (hb : ∀ u, Keeps m u (body u)) (hm : 0x4000 &&& m = 0x4000) : Keeps m s (acceptFlit k ty f body s) := by
  unfold acceptFlit
  simp only
  split
  · exact .refl s
  · refine Keeps.trans ?_ ((sendIdle_keeps ..).up hm)
    refine Keeps.trans (Keeps.up (a := 0x4000) ?_ hm) (hb _)
    exact (Keeps.trans (updLink_keeps ..).up (ackFlits_keeps ..).up)

theorem flitCorrupt_keeps (k : Nat) (f : List Byte) (fec : Bool) (s : State) :
    Keeps 0x4000 s (flitCorrupt k f fec s) := by
  unfold flitCorrupt
  repeat' (first
    | extract_lets
    | with_reducible (first
        | apply Keeps.refl | assumption | apply Keeps.then_ ?_ ?_ (sendNak_keeps ..)
        | apply Keeps.then_ ?_ ?_ (sendIdle_keeps ..) | apply Keeps.then_ ?_ ?_ (updLink_keeps ..)
        | apply Keeps.then_ ?_ ?_ (bumpLink_keeps ..))
    | split | with_reducible (first | apply Keeps.ite | apply Keeps.ite1 | apply Keeps.ite2) | intro _ _ | decide
    | dsimp +zetaDelta only)

theorem takeIdentity_keeps (k : Nat) (b : List Byte) (s : State) : Keeps 0xC010 s (takeIdentity k b s) := by
  unfold takeIdentity
  repeat' (first
    | extract_lets
    | with_reducible (first
        | apply Keeps.refl | assumption | apply Keeps.then_ ?_ ?_ (updLink_keeps ..)
        | apply Keeps.then_ ?_ ?_ (postEvent_keeps ..) | apply Keeps.then_ ?_ ?_ (recordEntry_keeps ..))
    | split | with_reducible (first | apply Keeps.ite) | with_reducible (first | apply Keeps.setLink) | decide
    | dsimp +zetaDelta only)

theorem identityPayload_keeps (k : Nat) (p : List Byte) (s : State) : Keeps 0xC010 s (identityPayload k p s) := by
  unfold identityPayload
  repeat' (first
    | with_reducible (first
        | apply Keeps.refl | assumption | apply Keeps.then_ ?_ ?_ (bumpLink_keeps ..)
        | apply Keeps.then_ ?_ ?_ (takeIdentity_keeps ..))
    | split | decide)

theorem sendIdentity_keeps (k : Nat) (s : State) : Keeps 0x4000 s (sendIdentity k s) := by
  unfold sendIdentity
  repeat' (first
    | with_reducible (first
        | apply Keeps.refl | assumption | apply Keeps.then_ ?_ ?_ (sendFlit_keeps ..))
    | decide)

theorem fecLock_keeps (k : Nat) (s : State) : Keeps 0x4000 s (fecLock k s) := by
  unfold fecLock
  repeat' (first
    | extract_lets
    | with_reducible (first
        | apply Keeps.refl | assumption | apply Keeps.then_ ?_ ?_ (updLink_keeps ..)
        | apply Keeps.then_ ?_ ?_ (sendIdentity_keeps ..))
    | split | with_reducible (first | apply Keeps.ite) | decide | dsimp +zetaDelta only)

theorem linkTimeout_keeps (k : Nat) (s : State) : Keeps 0x1D7B9 s (linkTimeout k s) := by
  unfold linkTimeout
  repeat' (first
    | extract_lets
    | with_reducible (first
        | apply Keeps.refl | assumption | apply Keeps.then_ ?_ ?_ (advanceTo_keeps ..)
        | apply Keeps.then_ ?_ ?_ (declareAbsent_keeps ..))
    | split | with_reducible (first | apply Keeps.ite) | decide | dsimp +zetaDelta only)

theorem laneLoss_keeps (k : Nat) (s : State) : Keeps 0x1D7B8 s (laneLoss k s) := by
  unfold laneLoss
  repeat' (first
    | with_reducible (first
        | apply Keeps.refl | assumption | apply Keeps.then_ ?_ ?_ (updLink_keeps ..)
        | apply Keeps.then_ ?_ ?_ (declareAbsent_keeps ..))
    | split | decide)

theorem commitRecord_keeps (r : Entry) (s : State) : Keeps 0x1D7B8 s (commitRecord r s) := by
  unfold commitRecord
  repeat' (first
    | extract_lets
    | with_reducible (first
        | apply Keeps.refl | assumption | apply Keeps.then_ ?_ ?_ (updLink_keeps ..)
        | apply Keeps.trans ?_ (forEach_keeps _ _ _ ?_) | apply Keeps.then_ ?_ ?_ (statusCopy_keeps ..)
        | apply Keeps.then_ ?_ ?_ (stopAll_keeps ..))
    | with_reducible (first | apply Keeps.ite) | with_reducible (first | apply Keeps.setLink) | intro _ _ | decide
    | dsimp +zetaDelta only)

theorem commitTopology_keeps (pkt : List Word) (record : List Byte) (t : Tagged) (s : State) :
    Keeps 0x1D7B8 s (commitTopology pkt record t s) := by
  unfold commitTopology
  repeat' (first
    | extract_lets
    | with_reducible (first
        | apply Keeps.refl | assumption | apply Keeps.then_ ?_ ?_ (replyFinal_keeps ..)
        | apply Keeps.then_ ?_ ?_ (accept_keeps ..) | apply Keeps.then_ ?_ ?_ (commitRecord_keeps ..))
    | split | with_reducible (first | apply Keeps.ite) | decide | dsimp +zetaDelta only)

theorem dropStale_keeps (c : Coll) (h : Half) (x0 : Nat) (s : State) : Keeps 0x4198 s (dropStale c h x0 s) := by
  induction x0 generalizing s with
  | zero => exact .refl _
  | succ n ih =>
    unfold dropStale
    repeat' (first
      | extract_lets
      | with_reducible (first
          | apply Keeps.refl | assumption | apply Keeps.then_ ?_ ?_ (bumpSys_keeps ..)
          | apply Keeps.then_ ?_ ?_ (report_keeps ..) | apply Keeps.then_ ?_ ?_ (ih ..))
      | split | with_reducible (first | apply Keeps.ite | apply Keeps.ite1 | apply Keeps.ite2)
      | with_reducible (first | apply Keeps.setLink) | decide | dsimp +zetaDelta only)

theorem checkHeaders_keeps (h : Half) (s : State) : Keeps 0x1D7B8 s (checkHeaders h s) := by
  unfold checkHeaders
  repeat' (first
    | extract_lets
    | with_reducible (first
        | apply Keeps.refl | assumption | apply Keeps.then_ ?_ ?_ (collStop_keeps ..)
        | apply Keeps.then_ ?_ ?_ (dropStale_keeps ..) | apply Keeps.trans ?_ (forEach_keeps _ _ _ ?_))
    | split | with_reducible (first | apply Keeps.ite | apply Keeps.ite1 | apply Keeps.ite2)
    | with_reducible (first | apply Keeps.setLink) | intro _ _ | decide | dsimp +zetaDelta only)

theorem sendPayloads_keeps (h : Half) (ty : Nat) (ps : List (Nat × List Byte)) (s : State) :
    Keeps 0x4000 s (sendPayloads h ty ps s) := by
  unfold sendPayloads
  repeat' (first
    | extract_lets
    | with_reducible (first
        | apply Keeps.refl | assumption | apply Keeps.trans ?_ (forEach_keeps _ _ _ ?_)
        | apply Keeps.then_ ?_ ?_ (sendFlit_keeps ..))
    | split | with_reducible (first | apply Keeps.ite) | intro _ _ | decide | dsimp +zetaDelta only)

theorem beginCollective_keeps (c : Coll) (s : State) : Keeps 0x1D7B8 s (beginCollective c s) := by
  unfold beginCollective
  repeat' (first
    | extract_lets
    | with_reducible (first
        | apply Keeps.refl | assumption | apply Keeps.then_ ?_ ?_ (vread_keeps ..)
        | refine Keeps.of1 (by assumption) ?_ | apply Keeps.then_ ?_ ?_ (updStep_keeps ..)
        | apply Keeps.then_ ?_ ?_ (collStop_keeps ..) | apply Keeps.then_ ?_ ?_ (checkHeaders_keeps ..)
        | apply Keeps.then_ ?_ ?_ (sendPayloads_keeps ..))
    | split | with_reducible (first | apply Keeps.ite | apply Keeps.ite1) | decide | dsimp +zetaDelta only)

theorem startCollectives_keeps (hoop : Nat) (s : State) : Keeps 0x1D7B8 s (startCollectives hoop s) := by
  unfold startCollectives
  repeat' (first
    | with_reducible (first
        | apply Keeps.refl | assumption | apply Keeps.trans ?_ (forEach_keeps _ _ _ ?_)
        | apply Keeps.then_ ?_ ?_ (beginCollective_keeps ..))
    | split | intro _ _ | decide)

theorem writePages_keeps (h : Half) (ctx : Nat) (x0 : List (Nat × Nat)) (x1 : List Byte) (s : State) :
    Keeps 0x10790 s (writePages h ctx x0 x1 s).2.2 := by
  induction x0 generalizing x1 s with
  | nil => exact .refl _
  | cons e l ih =>
    unfold writePages
    repeat' (first
      | with_reducible (first
          | apply Keeps.refl | assumption | apply Keeps.then_ ?_ ?_ (vwrite_keeps ..) | apply Keeps.then_ ?_ ?_ (ih ..)
          | refine Keeps.of1 (by assumption) ?_ | refine Keeps.of2 (by assumption) ?_)
      | split | decide)

theorem flightPages_keeps (h : Half) (ctx : Nat) (rest : List (Nat × Nat)) (s : State) :
    Keeps 0x10790 s (flightPages h ctx rest s) := by
  unfold flightPages
  repeat' (first
    | extract_lets
    | with_reducible (first
        | apply Keeps.refl | assumption | apply Keeps.then_ ?_ ?_ (fresh_keeps ..)
        | apply Keeps.then_ ?_ ?_ (vwrite_keeps ..) | apply Keeps.trans ?_ (forEach_keeps _ _ _ ?_)
        | refine Keeps.of1 (by assumption) ?_)
    | split | intro _ _ | decide | dsimp +zetaDelta only)

theorem writeResult_keeps (c : Coll) (h : Half) (bs : List Byte) (stop : Option Nat) (s : State) :
    Keeps 0x10790 s (writeResult c h bs stop s).2 := by
  unfold writeResult
  repeat' (first
    | extract_lets
    | with_reducible (first
        | apply Keeps.refl | assumption | apply Keeps.then_ ?_ ?_ (inFlight_keeps ..)
        | apply Keeps.then_ ?_ ?_ (writePages_keeps ..) | apply Keeps.then_ ?_ ?_ (flightPages_keeps ..)
        | apply Keeps.then_ ?_ ?_ (vwrite_keeps ..) | refine Keeps.of1 (by assumption) ?_
        | refine Keeps.of2 (by assumption) ?_)
    | split | with_reducible (first | apply Keeps.ite | apply Keeps.ite1 | apply Keeps.ite2) | decide
    | dsimp +zetaDelta only)

theorem runCollective_keeps (c : Coll) (xs : List Contribution) (stop : Option (Nat × FaultClass)) (quiet : Bool) (s : State) :
    Keeps 0x1D7B8 s (runCollective c xs stop quiet s) := by
  unfold runCollective
  repeat' (first
    | extract_lets
    | with_reducible (first
        | apply Keeps.refl | assumption | apply Keeps.then_ ?_ ?_ (bumpSys_keeps ..)
        | apply Keeps.then_ ?_ ?_ (vread_keeps ..) | refine Keeps.of1 (by assumption) ?_
        | apply Keeps.then_ ?_ ?_ (partEnd_keeps ..) | apply Keeps.then_ ?_ ?_ (partFault_keeps ..)
        | apply Keeps.then_ ?_ ?_ (collStop_keeps ..) | apply Keeps.then_ ?_ ?_ (writeResult_keeps ..))
    | split | with_reducible (first | apply Keeps.ite | apply Keeps.ite1)
    | with_reducible (first | apply Keeps.setLink) | decide | dsimp +zetaDelta only)

theorem collectiveDone_keeps (hoop step : Nat) (stop : Option (Nat × FaultClass)) (fixed : List (BitVec 5)) (s : State) :
    Keeps 0x1D7B8 s (collectiveDone hoop step stop fixed s) := by
  unfold collectiveDone
  repeat' (first
    | extract_lets
    | with_reducible (first
        | apply Keeps.refl | assumption | apply Keeps.then_ ?_ ?_ (countChannels_keeps ..)
        | apply Keeps.then_ ?_ ?_ (dropStale_keeps ..) | apply Keeps.then_ ?_ ?_ (runCollective_keeps ..))
    | split | with_reducible (first | apply Keeps.ite | apply Keeps.ite1 | apply Keeps.ite2) | intro _ _ | decide
    | dsimp +zetaDelta only)

theorem cutCollective_keeps (hoop step : Nat) (s : State) : Keeps 0x1D7B8 s (cutCollective hoop step s) := by
  unfold cutCollective
  repeat' (first
    | extract_lets
    | with_reducible (first
        | apply Keeps.refl | assumption | apply Keeps.then_ ?_ ?_ (partFault_keeps ..)
        | apply Keeps.then_ ?_ ?_ (runCollective_keeps ..) | apply Keeps.then_ ?_ ?_ (bumpSys_keeps ..)
        | apply Keeps.then_ ?_ ?_ (fresh_keeps ..) | refine Keeps.of1 (by assumption) ?_)
    | split | decide | dsimp +zetaDelta only)

theorem waitExceeded_keeps (hoop step : Nat) (s : State) : Keeps 0x1D7B9 s (waitExceeded hoop step s) := by
  unfold waitExceeded
  repeat' (first
    | extract_lets
    | with_reducible (first
        | apply Keeps.refl | assumption | apply Keeps.then_ ?_ ?_ (collStop_keeps ..)
        | apply Keeps.then_ ?_ ?_ (dropStale_keeps ..) | apply Keeps.then_ ?_ ?_ (advanceTo_keeps ..))
    | split | with_reducible (first | apply Keeps.ite | apply Keeps.ite1 | apply Keeps.ite2) | decide
    | dsimp +zetaDelta only)

theorem endRound_keeps (i : Nat) (s : State) : Keeps 0x1D7B8 s (endRound i s) := by
  unfold endRound
  repeat' (first
    | extract_lets
    | with_reducible (first
        | apply Keeps.refl | assumption | apply Keeps.then_ ?_ ?_ (updHoop_keeps ..)
        | apply Keeps.then_ ?_ ?_ (tryAdmit_keeps ..))
    | split | with_reducible (first | apply Keeps.ite) | with_reducible (first | apply Keeps.setLink) | decide
    | dsimp +zetaDelta only)

theorem reportReplica_keeps (i : Nat) (k : Nat) (rank : Option Nat) (s : State) :
    Keeps 0x4198 s (reportReplica i k rank s) := by
  unfold reportReplica
  repeat' (first
    | extract_lets
    | with_reducible (first
        | apply Keeps.refl | assumption | apply Keeps.then_ ?_ ?_ (bumpSys_keeps ..)
        | apply Keeps.then_ ?_ ?_ (report_keeps ..))
    | with_reducible (first | apply Keeps.ite) | decide | dsimp +zetaDelta only)

theorem expel_keeps (i k rank : Nat) (s : State) : Keeps 0x1D7B8 s (expel i k rank s) := by
  unfold expel
  repeat' (first
    | extract_lets
    | with_reducible (first
        | apply Keeps.refl | assumption | apply Keeps.then_ ?_ ?_ (stopAll_keeps ..)
        | apply Keeps.then_ ?_ ?_ (expelLink_keeps ..) | apply Keeps.then_ ?_ ?_ (reportReplica_keeps ..)
        | apply Keeps.then_ ?_ ?_ (bumpSys_keeps ..) | apply Keeps.then_ ?_ ?_ (statusCopy_keeps ..)
        | apply Keeps.trans ?_ (forEach_keeps _ _ _ ?_))
    | split | with_reducible (first | apply Keeps.ite | apply Keeps.ite1 | apply Keeps.ite2)
    | with_reducible (first | apply Keeps.setLink) | intro _ _ | decide | dsimp +zetaDelta only)

theorem judgeRound_keeps (x : Round) (s : State) : Keeps 0x1D7B8 s (judgeRound x s) := by
  unfold judgeRound
  repeat' (first
    | extract_lets
    | with_reducible (first
        | apply Keeps.refl | assumption | apply Keeps.then_ ?_ ?_ (bumpSys_keeps ..)
        | apply Keeps.then_ ?_ ?_ (endRound_keeps ..) | apply Keeps.then_ ?_ ?_ (reportReplica_keeps ..)
        | apply Keeps.then_ ?_ ?_ (expel_keeps ..))
    | split | with_reducible (first | apply Keeps.ite) | decide | dsimp +zetaDelta only)

theorem addDigest_keeps (i : Nat) (rank : Nat) (d : List Byte) (s : State) :
    Keeps 0x1D7B8 s (addDigest i rank d s) := by
  unfold addDigest
  repeat' (first
    | extract_lets
    | with_reducible (first
        | apply Keeps.refl | assumption | apply Keeps.then_ ?_ ?_ (judgeRound_keeps ..))
    | split | with_reducible (first | apply Keeps.ite) | with_reducible (first | apply Keeps.setLink) | decide
    | dsimp +zetaDelta only)

theorem roundStart_keeps (i : Nat) (s : State) : Keeps 0x1D7B8 s (roundStart i s) := by
  unfold roundStart
  repeat' (first
    | extract_lets
    | with_reducible (first
        | apply Keeps.refl | assumption | apply Keeps.trans ?_ (forEach_keeps _ _ _ ?_)
        | apply Keeps.then_ ?_ ?_ (addDigest_keeps ..))
    | split | with_reducible (first | apply Keeps.ite) | with_reducible (first | apply Keeps.setLink) | intro _ _
    | decide | dsimp +zetaDelta only)

theorem digestComputed_keeps (i : Nat) (ecc : Ecc) (s : State) : Keeps 0x1D7B8 s (digestComputed i ecc s) := by
  unfold digestComputed
  repeat' (first
    | extract_lets
    | with_reducible (first
        | apply Keeps.refl | assumption | apply Keeps.then_ ?_ ?_ (report_keeps ..)
        | refine Keeps.of1 (by assumption) ?_
        | apply Keeps.then_ ?_ ?_ (vread_keeps ..) | apply Keeps.then_ ?_ ?_ (accessEcc_keeps ..)
        | apply Keeps.then_ ?_ ?_ (sendPayloads_keeps ..) | apply Keeps.then_ ?_ ?_ (addDigest_keeps ..))
    | split | with_reducible (first | apply Keeps.ite | apply Keeps.ite1) | decide | dsimp +zetaDelta only)

theorem roundTimeout_keeps (i : Nat) (s : State) : Keeps 0x1D7B9 s (roundTimeout i s) := by
  unfold roundTimeout
  repeat' (first
    | with_reducible (first
        | apply Keeps.refl | assumption | apply Keeps.then_ ?_ ?_ (bumpSys_keeps ..)
        | apply Keeps.then_ ?_ ?_ (advanceTo_keeps ..) | apply Keeps.then_ ?_ ?_ (endRound_keeps ..))
    | split | decide)

theorem takePayload_keeps (k : Nat) (ty : Nat) (epoch : Nat) (p : List Byte) (s : State) :
    Keeps 0x1D7B8 s (takePayload k ty epoch p s) := by
  unfold takePayload
  repeat' (first
    | extract_lets
    | with_reducible (first
        | apply Keeps.refl | assumption | apply Keeps.then_ ?_ ?_ (updLink_keeps ..)
        | apply Keeps.then_ ?_ ?_ (recordEntry_keeps ..) | apply Keeps.then_ ?_ ?_ (checkHeaders_keeps ..)
        | apply Keeps.then_ ?_ ?_ (sendPayloads_keeps ..) | apply Keeps.then_ ?_ ?_ (addDigest_keeps ..))
    | split | with_reducible (first | apply Keeps.ite) | with_reducible (first | apply Keeps.setLink) | decide
    | dsimp +zetaDelta only)

theorem payloadFlit_keeps (k : Nat) (ty : Nat) (f : List Byte) (s : State) :
    Keeps 0x1D7B8 s (payloadFlit k ty f s) := by
  unfold payloadFlit
  repeat' (first
    | extract_lets
    | with_reducible (first
        | apply Keeps.refl | assumption | apply Keeps.then_ ?_ ?_ (bumpLink_keeps ..)
        | apply Keeps.then_ ?_ ?_ (report_keeps ..) | apply Keeps.then_ ?_ ?_ (takePayload_keeps ..))
    | split | with_reducible (first | apply Keeps.ite) | decide | dsimp +zetaDelta only)

end Sys2Proof.Machine
end

