-- ==== Sys2Proof/Laws/KeepsDampers.lean ====
section
/-! SUPPORT. What the operations of Machine/Dampers.lean keep (Laws/Keeps.lean). -/
set_option linter.unusedTactic false
set_option linter.unreachableTactic false

namespace Sys2Proof.Machine
set_option Elab.async false

theorem grantOne_keeps (g : Nat) (s : State) : Keeps 0x580 s (grantOne g s) := by
  unfold grantOne
  repeat' (first
    | extract_lets
    | with_reducible (first
        | apply Keeps.refl | assumption | apply Keeps.then_ ?_ ?_ (updDamper_keeps ..)
        | apply Keeps.then_ ?_ ?_ (bumpDamp_keeps ..))
    | split | with_reducible (first | apply Keeps.ite) | decide | dsimp +zetaDelta only)

theorem damperRequest_keeps (g : Nat) (ended arrivals : List Requester) (s : State) :
    Keeps 0x580 s (damperRequest g ended arrivals s) := by
  unfold damperRequest
  repeat' (first
    | extract_lets
    | with_reducible (first
        | apply Keeps.refl | assumption | apply Keeps.then_ ?_ ?_ (grantOne_keeps ..)
        | apply Keeps.then_ ?_ ?_ (updDamper_keeps ..))
    | split | with_reducible (first | apply Keeps.ite | apply Keeps.ite1 | apply Keeps.ite2) | intro _ _ | decide
    | dsimp +zetaDelta only)

theorem abortCopy_keeps (c : Copy) (s : State) : Keeps 0x10430 s (abortCopy c s) := by
  unfold abortCopy
  repeat' (first
    | extract_lets
    | with_reducible (first
        | apply Keeps.refl | assumption | apply Keeps.then_ ?_ ?_ (writePhysPieces_keeps ..)
        | apply Keeps.then_ ?_ ?_ (dropCopy_keeps ..) | apply Keeps.then_ ?_ ?_ (fresh_keeps ..)
        | apply Keeps.then_ ?_ ?_ (hostWrite_keeps ..) | apply Keeps.then_ ?_ ?_ (replyFinal_keeps ..)
        | refine Keeps.of1 (by assumption) ?_)
    | split | with_reducible (first | apply Keeps.ite | apply Keeps.ite1 | apply Keeps.ite2) | intro _ _ | decide
    | dsimp +zetaDelta only)

theorem abortVictim_keeps (v : Victim) (s : State) : Keeps 0x1DFB8 s (abortVictim v s) := by
  unfold abortVictim
  repeat' (first
    | extract_lets
    | with_reducible (first
        | apply Keeps.refl | assumption | apply Keeps.then_ ?_ ?_ (stopAttend_keeps ..)
        | apply Keeps.then_ ?_ ?_ (appendRun_keeps ..) | apply Keeps.then_ ?_ ?_ (abortCopy_keeps ..)
        | apply Keeps.then_ ?_ ?_ (setFlag_keeps ..) | apply Keeps.then_ ?_ ?_ (cutCollective_keeps ..)
        | apply Keeps.then_ ?_ ?_ (fresh_keeps ..) | apply Keeps.then_ ?_ ?_ (transferRun_keeps ..)
        | refine Keeps.of1 (by assumption) ?_)
    | split | with_reducible (first | apply Keeps.ite | apply Keeps.ite1 | apply Keeps.ite2) | intro _ _ | decide
    | dsimp +zetaDelta only)

theorem unqueue_keeps (c port : Nat) (s : State) : Keeps 0x400 s (unqueue c port s) := by
  unfold unqueue
  repeat' (first
    | with_reducible (first
        | apply Keeps.refl | assumption | apply Keeps.then_ ?_ ?_ (updChan_keeps ..))
    | split | intro _ _ | decide)

theorem damperCutoff_keeps (g : Nat) (v : Victim) (s : State) : Keeps 0x1DFB8 s (damperCutoff g v s) := by
  unfold damperCutoff
  repeat' (first
    | extract_lets
    | with_reducible (first
        | apply Keeps.refl | assumption | apply Keeps.then_ ?_ ?_ (abortVictim_keeps ..)
        | apply Keeps.then_ ?_ ?_ (unqueue_keeps ..) | apply Keeps.then_ ?_ ?_ (updDamper_keeps ..)
        | apply Keeps.then_ ?_ ?_ (bumpDamp_keeps ..) | apply Keeps.then_ ?_ ?_ (report_keeps ..))
    | split | with_reducible (first | apply Keeps.ite | apply Keeps.ite1 | apply Keeps.ite2) | intro _ _ | decide
    | dsimp +zetaDelta only)

theorem damperShed_keeps (g cap : Nat) (s : State) : Keeps 0x798 s (damperShed g cap s) := by
  unfold damperShed
  repeat' (first
    | with_reducible (first
        | apply Keeps.refl | assumption | apply Keeps.then_ ?_ ?_ (lowerCapacity_keeps ..))
    | split | with_reducible (first | apply Keeps.ite | apply Keeps.ite1 | apply Keeps.ite2) | decide)

end Sys2Proof.Machine
end

