-- ==== Sys2Proof/Laws/KeepsIntake.lean ====
section
/-! SUPPORT. What the operations of Machine/Intake.lean keep (Laws/Keeps.lean). -/
set_option linter.unusedTactic false
set_option linter.unreachableTactic false

namespace Sys2Proof.Machine
set_option Elab.async false

theorem probeBuffers_keeps (port : Nat) (ctx : Nat) (bytes : Nat) (x0 : List Nat) (s : State) :
    Keeps 0x10780 s (probeBuffers port ctx bytes x0 s).2 := by
  induction x0 generalizing s with
  | nil => exact .refl _
  | cons e l ih =>
    unfold probeBuffers
    repeat' (first
      | with_reducible (first
          | apply Keeps.refl | assumption | apply Keeps.then_ ?_ ?_ (vprobe_keeps ..)
          | refine Keeps.of1 (by assumption) ?_ | apply Keeps.then_ ?_ ?_ (ih ..))
      | split | decide)

theorem setFrameRing_keeps (pkt : List Word) (t : Tagged) (s : State) : Keeps 0x10F90 s (setFrameRing pkt t s) := by
  unfold setFrameRing
  repeat' (first
    | extract_lets
    | with_reducible (first
        | apply Keeps.refl | assumption | apply Keeps.then_ ?_ ?_ (updKey_keeps ..)
        | apply Keeps.then_ ?_ ?_ (answer_keeps ..) | apply Keeps.then_ ?_ ?_ (probeBuffers_keeps ..)
        | refine Keeps.of1 (by assumption) ?_)
    | split | with_reducible (first | apply Keeps.ite) | decide | dsimp +zetaDelta only)

theorem commitRoutes_keeps (pkt : List Word) (t : Tagged) (s : State) : Keeps 0x990 s (commitRoutes pkt t s) := by
  unfold commitRoutes
  repeat' (first
    | extract_lets
    | with_reducible (first
        | apply Keeps.refl | assumption | apply Keeps.then_ ?_ ?_ (controlWrite_keeps ..)
        | apply Keeps.then_ ?_ ?_ (takeRing_keeps ..) | apply Keeps.then_ ?_ ?_ (updKey_keeps ..)
        | apply Keeps.then_ ?_ ?_ (replyFinal_keeps ..) | apply Keeps.then_ ?_ ?_ (accept_keeps ..))
    | split | with_reducible (first | apply Keeps.ite | apply Keeps.ite1 | apply Keeps.ite2) | intro _ _ | decide
    | dsimp +zetaDelta only)

theorem partnerDetected_keeps (n : Nat) (s : State) : Keeps 0x800 s (partnerDetected n s) := by
  unfold partnerDetected
  repeat' (first
    | with_reducible (first
        | apply Keeps.refl | assumption | apply Keeps.then_ ?_ ?_ (updPort_keeps ..))
    | split | decide)

theorem linkTrained_keeps (n : Nat) (gear : Nat) (s : State) : Keeps 0x800 s (linkTrained n gear s) := by
  unfold linkTrained
  repeat' (first
    | with_reducible (first
        | apply Keeps.refl | assumption | apply Keeps.then_ ?_ ?_ (updPort_keeps ..))
    | split | decide)

theorem discoveryDone_keeps (n : Nat) (identity : List Byte) (acked : Nat) (s : State) :
    Keeps 0x998 s (discoveryDone n identity acked s) := by
  unfold discoveryDone
  repeat' (first
    | extract_lets
    | with_reducible (first
        | apply Keeps.refl | assumption | apply Keeps.then_ ?_ ?_ (setResync_keeps ..)
        | apply Keeps.then_ ?_ ?_ (updPort_keeps ..) | apply Keeps.then_ ?_ ?_ (postEvent_keeps ..)
        | apply Keeps.then_ ?_ ?_ (report_keeps ..) | apply Keeps.trans ?_ (forEach_keeps _ _ _ ?_))
    | split | with_reducible (first | apply Keeps.ite | apply Keeps.ite1 | apply Keeps.ite2) | intro _ _ | decide
    | dsimp +zetaDelta only)

theorem lockLoss_keeps (n : Nat) (s : State) : Keeps 0x810 s (lockLoss n s) := by
  unfold lockLoss
  repeat' (first
    | extract_lets
    | with_reducible (first
        | apply Keeps.refl | assumption | apply Keeps.then_ ?_ ?_ (updPort_keeps ..)
        | apply Keeps.trans ?_ (forEach_keeps _ _ _ ?_) | apply Keeps.then_ ?_ ?_ (postEvent_keeps ..)
        | apply Keeps.then_ ?_ ?_ (closeFrame_keeps ..))
    | split | with_reducible (first | apply Keeps.ite) | intro _ _ | decide | dsimp +zetaDelta only)

theorem receivePacket_keeps (k : Nat) (crcOk : Bool) (header : Header) (s : State) :
    Keeps 0x800 s (receivePacket k crcOk header s).2 := by
  unfold receivePacket
  repeat' (first
    | extract_lets
    | with_reducible (first
        | apply Keeps.refl | assumption | apply Keeps.then_ ?_ ?_ (setFlag_keeps ..)
        | apply Keeps.then_ ?_ ?_ (bumpPort_keeps ..) | refine Keeps.of1 (by assumption) ?_)
    | split | with_reducible (first | apply Keeps.ite | apply Keeps.ite1 | apply Keeps.ite2) | decide
    | dsimp +zetaDelta only)

theorem liveStart_keeps (k : Nat) (s : State) : Keeps 0x10F90 s (liveStart k s) := by
  unfold liveStart
  repeat' (first
    | with_reducible (first
        | apply Keeps.refl | assumption | apply Keeps.then_ ?_ ?_ (strayStart_keeps ..)
        | apply Keeps.then_ ?_ ?_ (beginFrame_keeps ..))
    | split | with_reducible (first | apply Keeps.ite | apply Keeps.ite1 | apply Keeps.ite2) | decide)

theorem camFrameStart_keeps (n vc : Nat) (header : Header) (s : State) :
    Keeps 0x10F90 s (camFrameStart n vc header s) := by
  unfold camFrameStart
  repeat' (first
    | extract_lets
    | with_reducible (first
        | apply Keeps.refl | assumption | apply Keeps.then_ ?_ ?_ (receivePacket_keeps ..)
        | apply Keeps.then_ ?_ ?_ (liveStart_keeps ..) | refine Keeps.of1 (by assumption) ?_)
    | split | with_reducible (first | apply Keeps.ite | apply Keeps.ite1 | apply Keeps.ite2) | decide
    | dsimp +zetaDelta only)

theorem putLine_keeps (k : Nat) (f : Frame) (dt : Nat) (line : List Byte) (s : State) :
    Keeps 0x10F90 s (putLine k f dt line s) := by
  unfold putLine
  repeat' (first
    | extract_lets
    | with_reducible (first
        | apply Keeps.refl | assumption | apply Keeps.then_ ?_ ?_ (updFrame_keeps ..)
        | apply Keeps.then_ ?_ ?_ (setFlag_keeps ..) | apply Keeps.then_ ?_ ?_ (putRow_keeps ..)
        | apply Keeps.then_ ?_ ?_ (putCopy_keeps ..))
    | split | with_reducible (first | apply Keeps.ite | apply Keeps.ite1 | apply Keeps.ite2) | intro _ _ | decide
    | dsimp +zetaDelta only)

theorem imageLine_keeps (k : Nat) (dt : Nat) (line : List Byte) (s : State) :
    Keeps 0x10F90 s (imageLine k dt line s) := by
  unfold imageLine
  repeat' (first
    | extract_lets
    | with_reducible (first
        | apply Keeps.refl | assumption | apply Keeps.then_ ?_ ?_ (updFrame_keeps ..)
        | apply Keeps.then_ ?_ ?_ (putLine_keeps ..))
    | split | with_reducible (first | apply Keeps.ite) | decide | dsimp +zetaDelta only)

theorem longPacket_keeps (n vc dt : Nat) (payload : List Byte) (crcOk : Bool) (header : Header) (s : State) :
    Keeps 0x10F90 s (longPacket n vc dt payload crcOk header s) := by
  unfold longPacket
  repeat' (first
    | extract_lets
    | with_reducible (first
        | apply Keeps.refl | assumption | apply Keeps.then_ ?_ ?_ (receivePacket_keeps ..)
        | apply Keeps.then_ ?_ ?_ (imageLine_keeps ..) | apply Keeps.then_ ?_ ?_ (bumpPort_keeps ..)
        | refine Keeps.of1 (by assumption) ?_)
    | split | with_reducible (first | apply Keeps.ite | apply Keeps.ite1 | apply Keeps.ite2) | decide
    | dsimp +zetaDelta only)

theorem embeddedLine_keeps (k : Nat) (line : List Byte) (s : State) : Keeps 0x800 s (embeddedLine k line s) := by
  unfold embeddedLine
  repeat' (first
    | extract_lets
    | with_reducible (first
        | apply Keeps.refl | assumption | apply Keeps.then_ ?_ ?_ (updFrame_keeps ..))
    | split | with_reducible (first | apply Keeps.ite) | decide | dsimp +zetaDelta only)

theorem embeddedData_keeps (n vc : Nat) (payload : List Byte) (crcOk : Bool) (header : Header) (s : State) :
    Keeps 0x800 s (embeddedData n vc payload crcOk header s) := by
  unfold embeddedData
  repeat' (first
    | extract_lets
    | with_reducible (first
        | apply Keeps.refl | assumption | apply Keeps.then_ ?_ ?_ (receivePacket_keeps ..)
        | apply Keeps.then_ ?_ ?_ (embeddedLine_keeps ..) | refine Keeps.of1 (by assumption) ?_)
    | split | with_reducible (first | apply Keeps.ite | apply Keeps.ite1 | apply Keeps.ite2) | decide
    | dsimp +zetaDelta only)

theorem camFrameEnd_keeps (n vc : Nat) (header : Header) (s : State) : Keeps 0x800 s (camFrameEnd n vc header s) := by
  unfold camFrameEnd
  repeat' (first
    | extract_lets
    | with_reducible (first
        | apply Keeps.refl | assumption | apply Keeps.then_ ?_ ?_ (closeFrame_keeps ..)
        | apply Keeps.then_ ?_ ?_ (receivePacket_keeps ..) | refine Keeps.of1 (by assumption) ?_)
    | split | with_reducible (first | apply Keeps.ite | apply Keeps.ite1 | apply Keeps.ite2) | decide
    | dsimp +zetaDelta only)

theorem lidarFound_keeps (k : Nat) (serial : Word) (s : State) : Keeps 0x998 s (lidarFound k serial s) := by
  unfold lidarFound
  repeat' (first
    | extract_lets
    | with_reducible (first
        | apply Keeps.refl | assumption | apply Keeps.then_ ?_ ?_ (updKey_keeps ..)
        | apply Keeps.then_ ?_ ?_ (updPort_keeps ..) | apply Keeps.then_ ?_ ?_ (postEvent_keeps ..)
        | apply Keeps.then_ ?_ ?_ (report_keeps ..) | apply Keeps.then_ ?_ ?_ (setResync_keeps ..))
    | split | with_reducible (first | apply Keeps.ite) | decide | dsimp +zetaDelta only)

theorem lidarData_keeps (k : Nat) (p : List Byte) (s : State) : Keeps 0x10F90 s (lidarData k p s) := by
  unfold lidarData
  repeat' (first
    | extract_lets
    | with_reducible (first
        | apply Keeps.refl | assumption | apply Keeps.then_ ?_ ?_ (updKey_keeps ..)
        | apply Keeps.then_ ?_ ?_ (putCopy_keeps ..))
    | split | with_reducible (first | apply Keeps.ite) | decide | dsimp +zetaDelta only)

theorem lidarBody_keeps (k : Nat) (p : List Byte) (s : State) : Keeps 0x10F90 s (lidarBody k p s) := by
  unfold lidarBody
  repeat' (first
    | extract_lets
    | with_reducible (first
        | apply Keeps.refl | assumption | apply Keeps.then_ ?_ ?_ (bumpPort_keeps ..)
        | apply Keeps.then_ ?_ ?_ (setFlag_keeps ..) | apply Keeps.then_ ?_ ?_ (closeFrame_keeps ..)
        | apply Keeps.then_ ?_ ?_ (lidarData_keeps ..))
    | split | with_reducible (first | apply Keeps.ite) | decide | dsimp +zetaDelta only)

theorem lidarAccept_keeps (k : Nat) (p : List Byte) (s : State) : Keeps 0x10F98 s (lidarAccept k p s) := by
  unfold lidarAccept
  repeat' (first
    | extract_lets
    | with_reducible (first
        | apply Keeps.refl | assumption | apply Keeps.then_ ?_ ?_ (updFrame_keeps ..)
        | apply Keeps.then_ ?_ ?_ (strayStart_keeps ..) | apply Keeps.then_ ?_ ?_ (closeFrame_keeps ..)
        | apply Keeps.then_ ?_ ?_ (liveStart_keeps ..) | apply Keeps.then_ ?_ ?_ (lidarFound_keeps ..)
        | apply Keeps.then_ ?_ ?_ (lidarData_keeps ..) | apply Keeps.then_ ?_ ?_ (lidarBody_keeps ..)
        | apply Keeps.then_ ?_ ?_ (updKey_keeps ..))
    | split | with_reducible (first | apply Keeps.ite | apply Keeps.ite1 | apply Keeps.ite2) | intro _ _ | decide
    | dsimp +zetaDelta only)

theorem lidarPacket_keeps (n : Nat) (frame : List Byte) (s : State) : Keeps 0x10F98 s (lidarPacket n frame s) := by
  unfold lidarPacket
  repeat' (first
    | extract_lets
    | with_reducible (first
        | apply Keeps.refl | assumption | apply Keeps.then_ ?_ ?_ (bumpPort_keeps ..)
        | apply Keeps.trans ?_ (forEach_keeps _ _ _ ?_) | apply Keeps.then_ ?_ ?_ (setFlag_keeps ..)
        | apply Keeps.then_ ?_ ?_ (lidarAccept_keeps ..))
    | split | with_reducible (first | apply Keeps.ite) | intro _ _ | decide | dsimp +zetaDelta only)

theorem lidarLost_keeps (k : Nat) (s : State) : Keeps 0x810 s (lidarLost k s) := by
  unfold lidarLost
  repeat' (first
    | extract_lets
    | with_reducible (first
        | apply Keeps.refl | assumption | apply Keeps.then_ ?_ ?_ (updKey_keeps ..)
        | apply Keeps.then_ ?_ ?_ (updPort_keeps ..) | apply Keeps.then_ ?_ ?_ (postEvent_keeps ..)
        | apply Keeps.then_ ?_ ?_ (closeFrame_keeps ..))
    | split | with_reducible (first | apply Keeps.ite) | decide | dsimp +zetaDelta only)

theorem networkUp_keeps (n : Nat) (s : State) : Keeps 0x800 s (networkUp n s) := by
  unfold networkUp
  repeat' (first
    | with_reducible (first
        | apply Keeps.refl | assumption | apply Keeps.then_ ?_ ?_ (updPort_keeps ..))
    | split | decide)

theorem networkDown_keeps (n : Nat) (s : State) : Keeps 0x810 s (networkDown n s) := by
  unfold networkDown
  repeat' (first
    | with_reducible (first
        | apply Keeps.refl | assumption | apply Keeps.then_ ?_ ?_ (updPort_keeps ..)
        | apply Keeps.trans ?_ (forEach_keeps _ _ _ ?_) | apply Keeps.then_ ?_ ?_ (lidarLost_keeps ..))
    | split | intro _ _ | decide)

theorem lidarSilence_keeps (n : Nat) (sel : Nat) (s : State) : Keeps 0x811 s (lidarSilence n sel s) := by
  unfold lidarSilence
  repeat' (first
    | extract_lets
    | with_reducible (first
        | apply Keeps.refl | assumption | apply Keeps.then_ ?_ ?_ (advanceTo_keeps ..)
        | apply Keeps.then_ ?_ ?_ (lidarLost_keeps ..))
    | split | with_reducible (first | apply Keeps.ite) | decide | dsimp +zetaDelta only)

theorem intakeStall_keeps (n : Nat) (sel : Nat) (s : State) : Keeps 0x999 s (intakeStall n sel s) := by
  unfold intakeStall
  repeat' (first
    | extract_lets
    | with_reducible (first
        | apply Keeps.refl | assumption | apply Keeps.then_ ?_ ?_ (updKey_keeps ..)
        | apply Keeps.then_ ?_ ?_ (advanceTo_keeps ..) | apply Keeps.then_ ?_ ?_ (report_keeps ..))
    | split | with_reducible (first | apply Keeps.ite) | decide | dsimp +zetaDelta only)

theorem pathFailed_keeps (h : Half) (s : State) : Keeps 0x198 s (pathFailed h s) := by
  unfold pathFailed
  repeat' (first
    | with_reducible (first
        | apply Keeps.refl | assumption | apply Keeps.then_ ?_ ?_ (updHalf_keeps _ _ _ ?_)
        | apply Keeps.then_ ?_ ?_ (report_keeps ..))
    | split | exact (fun _ => HalfUnit.ok_of rfl rfl rfl) | intro _ _ | decide)

end Sys2Proof.Machine
end

