-- ==== Sys2Proof/Laws/KeepsDecoders.lean ====
section
/-! SUPPORT. What the operations of Machine/Decoders.lean keep (Laws/Keeps.lean). -/
set_option linter.unusedTactic false
set_option linter.unreachableTactic false

namespace Sys2Proof.Machine
set_option Elab.async false

theorem bumpDec_keeps (d : Nat) (w : Nat) (k : Nat) (s : State) : Keeps 0x800 s (bumpDec d w k s) := by
  unfold bumpDec
  repeat' (first
    | with_reducible (first
        | apply Keeps.refl | assumption | apply Keeps.then_ ?_ ?_ (updDec_keeps ..))
    | decide)

theorem decRead_keeps (d : Nat) (va : Nat) (n : Nat) (s : State) : Keeps 0x10F80 s (decRead d va n s).2 := by
  unfold decRead
  repeat' (first
    | extract_lets
    | with_reducible (first
        | apply Keeps.refl | assumption | apply Keeps.then_ ?_ ?_ (vread_keeps ..)
        | refine Keeps.of1 (by assumption) ?_ | apply Keeps.then_ ?_ ?_ (bumpDec_keeps ..))
    | split | with_reducible (first | apply Keeps.ite) | decide | dsimp +zetaDelta only)

theorem epochStart_keeps (d : Nat) (s : State) : Keeps 0x10F98 s (epochStart d s) := by
  unfold epochStart
  repeat' (first
    | extract_lets
    | with_reducible (first
        | apply Keeps.refl | assumption | apply Keeps.then_ ?_ ?_ (updDec_keeps ..)
        | apply Keeps.then_ ?_ ?_ (report_keeps ..) | apply Keeps.then_ ?_ ?_ (bumpDec_keeps ..)
        | apply Keeps.then_ ?_ ?_ (decRead_keeps ..) | refine Keeps.of1 (by assumption) ?_)
    | split | with_reducible (first | apply Keeps.ite | apply Keeps.ite1) | decide | dsimp +zetaDelta only)

theorem nextSample_keeps (d : Nat) (s : State) : Keeps 0xA00 s (nextSample d s) := by
  unfold nextSample
  repeat' (first
    | extract_lets
    | with_reducible (first
        | apply Keeps.refl | assumption | apply Keeps.then_ ?_ ?_ (setKnot_keeps ..)
        | apply Keeps.then_ ?_ ?_ (updDec_keeps ..))
    | split | with_reducible (first | apply Keeps.ite) | decide | dsimp +zetaDelta only)

theorem skipSample_keeps (d : Nat) (s : State) : Keeps 0xB98 s (skipSample d s) := by
  unfold skipSample
  repeat' (first
    | extract_lets
    | with_reducible (first
        | apply Keeps.refl | assumption | apply Keeps.then_ ?_ ?_ (report_keeps ..)
        | apply Keeps.then_ ?_ ?_ (bumpDec_keeps ..) | apply Keeps.then_ ?_ ?_ (nextSample_keeps ..))
    | with_reducible (first | apply Keeps.ite) | decide | dsimp +zetaDelta only)

theorem readBits_keeps (d : Nat) (e : Entry) (s : State) : Keeps 0x10F80 s (readBits d e s).2 := by
  unfold readBits
  repeat' (first
    | extract_lets
    | with_reducible (first
        | apply Keeps.refl | assumption | apply Keeps.then_ ?_ ?_ (bumpDec_keeps ..)
        | apply Keeps.then_ ?_ ?_ (decRead_keeps ..) | apply Keeps.then_ ?_ ?_ (updDec_keeps ..)
        | refine Keeps.of1 (by assumption) ?_)
    | split | with_reducible (first | apply Keeps.ite | apply Keeps.ite1 | apply Keeps.ite2) | intro _ _ | decide
    | dsimp +zetaDelta only)

theorem openSample_keeps (d : Nat) (s : State) : Keeps 0x10F80 s (openSample d s).2 := by
  rw [openSample]
  generalize hr : decRead d _ _ _ = r
  have hk : Keeps 0x10F80 s r.2 := by
    rw [← hr]
    exact ((Keeps.trans (updDec_keeps ..).up (bumpDec_keeps ..).up)).trans (decRead_keeps ..).up
  rcases r with ⟨_ | b, t⟩
  · exact hk
  · exact hk.trans (readBits_keeps ..).up

theorem putPicture_keeps (k : Nat) (f : Frame) (bs : List Byte) (s : State) : Keeps 0x10F90 s (putPicture k f bs s) := by
  unfold putPicture
  repeat' (first
    | extract_lets
    | with_reducible (first
        | apply Keeps.refl | assumption | apply Keeps.then_ ?_ ?_ (setFlag_keeps ..)
        | apply Keeps.then_ ?_ ?_ (putRow_keeps ..) | apply Keeps.trans ?_ (forEach_keeps _ _ _ ?_))
    | split | with_reducible (first | apply Keeps.ite | apply Keeps.ite1 | apply Keeps.ite2) | intro _ _ | decide
    | dsimp +zetaDelta only)

theorem takeDecoder_keeps (d : Nat) (s : State) : Keeps 0x800 s (takeDecoder d s) := by
  unfold takeDecoder
  repeat' (first
    | extract_lets
    | with_reducible (first
        | apply Keeps.refl | assumption | apply Keeps.then_ ?_ ?_ (updDec_keeps ..))
    | split | with_reducible (first | apply Keeps.ite | apply Keeps.ite1 | apply Keeps.ite2) | intro _ _ | decide
    | dsimp +zetaDelta only)

theorem deliver_keeps (d : Nat) (e : Entry) (bs : List Byte) (s : State) : Keeps 0x10F90 s (deliver d e bs s) := by
  unfold deliver
  repeat' (first
    | extract_lets
    | with_reducible (first
        | apply Keeps.refl | assumption | apply Keeps.then_ ?_ ?_ (updDec_keeps ..)
        | apply Keeps.then_ ?_ ?_ (updFrame_keeps ..) | apply Keeps.then_ ?_ ?_ (closeFrame_keeps ..)
        | apply Keeps.then_ ?_ ?_ (beginFrame_keeps ..) | apply Keeps.then_ ?_ ?_ (bumpDec_keeps ..)
        | apply Keeps.then_ ?_ ?_ (nextSample_keeps ..) | apply Keeps.then_ ?_ ?_ (putPicture_keeps ..))
    | split | with_reducible (first | apply Keeps.ite) | decide | dsimp +zetaDelta only)

theorem deliverNext_keeps (d : Nat) (e : Entry) (bs : List Byte) (s : State) :
    Keeps 0x10F90 s (deliverNext d e bs s) := by
  unfold deliverNext
  repeat' (first
    | extract_lets
    | with_reducible (first
        | apply Keeps.refl | assumption | apply Keeps.then_ ?_ ?_ (takeDecoder_keeps ..)
        | apply Keeps.then_ ?_ ?_ (deliver_keeps ..) | apply Keeps.then_ ?_ ?_ (updDec_keeps ..))
    | split | with_reducible (first | apply Keeps.ite | apply Keeps.ite1 | apply Keeps.ite2) | intro _ _ | decide
    | dsimp +zetaDelta only)

theorem decodedPicture_keeps (d : Nat) (s : State) : Keeps 0x10F98 s (decodedPicture d s) := by
  unfold decodedPicture
  repeat' (first
    | extract_lets
    | with_reducible (first
        | apply Keeps.refl | assumption | apply Keeps.then_ ?_ ?_ (bumpDec_keeps ..)
        | apply Keeps.then_ ?_ ?_ (skipSample_keeps ..) | apply Keeps.then_ ?_ ?_ (openSample_keeps ..)
        | apply Keeps.then_ ?_ ?_ (deliverNext_keeps ..) | refine Keeps.of1 (by assumption) ?_)
    | split | with_reducible (first | apply Keeps.ite | apply Keeps.ite1 | apply Keeps.ite2) | decide
    | dsimp +zetaDelta only)

end Sys2Proof.Machine
end

