-- ==== Sys2Proof/Laws/KeepsDram.lean ====
section
/-! SUPPORT. What the operations of Machine/Dram.lean keep (Laws/Keeps.lean). -/
set_option linter.unusedTactic false
set_option linter.unreachableTactic false

namespace Sys2Proof.Machine
set_option Elab.async false

theorem readEcc_keeps (c : Nat) (e : Ecc) (s : State) : Keeps 0x798 s (readEcc c e s) := by
  unfold readEcc
  repeat' (first
    | with_reducible (first
        | apply Keeps.refl | assumption | apply Keeps.then_ ?_ ?_ (dramUncorrectable_keeps ..)
        | apply Keeps.then_ ?_ ?_ (bumpChan_keeps ..))
    | split | decide)

theorem putRequest_keeps (c : Nat) (r : DramReq) (s : State) : Keeps 0x400 s (putRequest c r s) := (putDram_keeps ..).up

theorem serveWrite_keeps (c : Nat) (r : DramReq) (e : Ecc) (s : State) : Keeps 0x798 s (serveWrite c r e s) := by
  unfold serveWrite
  repeat' (first
    | extract_lets
    | with_reducible (first
        | apply Keeps.refl | assumption | apply Keeps.then_ ?_ ?_ (readEcc_keeps ..)
        | apply Keeps.then_ ?_ ?_ (putRequest_keeps ..) | apply Keeps.then_ ?_ ?_ (bumpChan_keeps ..))
    | split | with_reducible (first | apply Keeps.ite | apply Keeps.ite1 | apply Keeps.ite2) | decide
    | dsimp +zetaDelta only)

theorem serveRead_keeps (c : Nat) (e : Ecc) (ns : Nat) (s : State) : Keeps 0x798 s (serveRead c e ns s) := by
  unfold serveRead
  repeat' (first
    | with_reducible (first
        | apply Keeps.refl | assumption | apply Keeps.then_ ?_ ?_ (readEcc_keeps ..)
        | apply Keeps.then_ ?_ ?_ (updChan_keeps ..) | apply Keeps.then_ ?_ ?_ (bumpChan_keeps ..))
    | intro _ _ | decide)

theorem serveRequest_keeps (c : Nat) (q : Queued) (e : Ecc) (ns : Nat) (s : State) :
    Keeps 0x798 s (serveRequest c q e ns s) := by
  unfold serveRequest
  repeat' (first
    | extract_lets
    | with_reducible (first
        | apply Keeps.refl | assumption | apply Keeps.then_ ?_ ?_ (serveWrite_keeps ..)
        | apply Keeps.then_ ?_ ?_ (serveRead_keeps ..) | apply Keeps.then_ ?_ ?_ (updChan_keeps ..)
        | apply Keeps.then_ ?_ ?_ (touchBlock_keeps ..))
    | split | with_reducible (first | apply Keeps.ite | apply Keeps.ite1 | apply Keeps.ite2) | intro _ _ | decide
    | dsimp +zetaDelta only)

theorem serveOne_keeps (c : Nat) (e : Ecc) (ns : Nat) (s : State) : Keeps 0x798 s (serveOne c e ns s) := by
  unfold serveOne
  repeat' (first
    | extract_lets
    | with_reducible (first
        | apply Keeps.refl | assumption | apply Keeps.then_ ?_ ?_ (serveRequest_keeps ..)
        | apply Keeps.then_ ?_ ?_ (updChan_keeps ..))
    | split | with_reducible (first | apply Keeps.ite | apply Keeps.ite1 | apply Keeps.ite2) | intro _ _ | decide
    | dsimp +zetaDelta only)

theorem dramRequest_keeps (c : Nat) (arrivals : List DramReq) (e : Ecc) (ns : Nat) (s : State) :
    Keeps 0x798 s (dramRequest c arrivals e ns s) := by
  unfold dramRequest
  repeat' (first
    | extract_lets
    | with_reducible (first
        | apply Keeps.refl | assumption | apply Keeps.then_ ?_ ?_ (serveOne_keeps ..)
        | apply Keeps.then_ ?_ ?_ (updChan_keeps ..))
    | split | with_reducible (first | apply Keeps.ite | apply Keeps.ite1 | apply Keeps.ite2) | intro _ _ | decide
    | dsimp +zetaDelta only)

theorem dramRefresh_keeps (c p : Nat) (s : State) : Keeps 0x401 s (dramRefresh c p s) := by
  unfold dramRefresh
  repeat' (first
    | extract_lets
    | with_reducible (first
        | apply Keeps.refl | assumption | apply Keeps.then_ ?_ ?_ (updChan_keeps ..)
        | apply Keeps.then_ ?_ ?_ (advanceTo_keeps ..))
    | split | with_reducible (first | apply Keeps.ite | apply Keeps.ite1 | apply Keeps.ite2) | intro _ _ | decide
    | dsimp +zetaDelta only)

theorem mr4Read_keeps (c rate : Nat) (s : State) : Keeps 0x599 s (mr4Read c rate s) := by
  unfold mr4Read
  repeat' (first
    | extract_lets
    | with_reducible (first
        | apply Keeps.refl | assumption | apply Keeps.then_ ?_ ?_ (updChan_keeps ..)
        | apply Keeps.then_ ?_ ?_ (advanceTo_keeps ..) | apply Keeps.then_ ?_ ?_ (report_keeps ..))
    | split | with_reducible (first | apply Keeps.ite | apply Keeps.ite1 | apply Keeps.ite2) | intro _ _ | decide
    | dsimp +zetaDelta only)

theorem selfRefreshEntry_keeps (c : Nat) (winner : Option DramReq) (s : State) :
    Keeps 0x401 s (selfRefreshEntry c winner s) := by
  unfold selfRefreshEntry
  repeat' (first
    | extract_lets
    | with_reducible (first
        | apply Keeps.refl | assumption | apply Keeps.then_ ?_ ?_ (updChan_keeps ..)
        | apply Keeps.then_ ?_ ?_ (bumpChan_keeps ..) | apply Keeps.then_ ?_ ?_ (advanceTo_keeps ..))
    | split | with_reducible (first | apply Keeps.ite | apply Keeps.ite1 | apply Keeps.ite2) | intro _ _ | decide
    | dsimp +zetaDelta only)

theorem drainQueue_keeps (c : Nat) (x0 : Nat) (s : State) : Keeps 0x798 s (drainQueue c x0 s) := by
  induction x0 generalizing s with
  | zero => exact .refl _
  | succ n ih =>
    unfold drainQueue
    repeat' (first
      | with_reducible (first
          | apply Keeps.refl | assumption | apply Keeps.then_ ?_ ?_ (serveOne_keeps ..) | apply Keeps.then_ ?_ ?_ (ih ..))
      | split | with_reducible (first | apply Keeps.ite | apply Keeps.ite1 | apply Keeps.ite2) | decide)

theorem frequencyChange_keeps (h : Half) (fsp : Nat) (s : State) : Keeps 0x798 s (frequencyChange h fsp s) := by
  unfold frequencyChange
  repeat' (first
    | extract_lets
    | with_reducible (first
        | apply Keeps.refl | assumption | apply Keeps.then_ ?_ ?_ (drainQueue_keeps ..)
        | apply Keeps.then_ ?_ ?_ (updChan_keeps ..) | apply Keeps.then_ ?_ ?_ (bumpChan_keeps ..)
        | apply Keeps.trans ?_ (forEach_keeps _ _ _ ?_))
    | split | with_reducible (first | apply Keeps.ite | apply Keeps.ite1 | apply Keeps.ite2) | intro _ _ | decide
    | dsimp +zetaDelta only)

theorem trainChannel_keeps (c : Nat) (s : State) : Keeps 0x10400 s (trainChannel c s) := by
  unfold trainChannel
  repeat' (first
    | extract_lets
    | with_reducible (first
        | apply Keeps.refl | assumption | apply Keeps.then_ ?_ ?_ (updChan_keeps ..)
        | apply Keeps.then_ ?_ ?_ (fresh_keeps ..) | refine Keeps.of1 (by assumption) ?_)
    | split | intro _ _ | decide | dsimp +zetaDelta only)

theorem runChannel_keeps (c fsp : Nat) (s : State) : Keeps 0x10400 s (runChannel c fsp s) := by
  unfold runChannel
  repeat' (first
    | with_reducible (first
        | apply Keeps.refl | assumption | apply Keeps.then_ ?_ ?_ (trainChannel_keeps ..)
        | apply Keeps.then_ ?_ ?_ (updChan_keeps ..))
    | intro _ _ | decide)

theorem patrolScrub_keeps (c : Nat) (e : Ecc) (s : State) : Keeps 0x400 s (patrolScrub c e s) := by
  unfold patrolScrub
  repeat' (first
    | extract_lets
    | with_reducible (first
        | apply Keeps.refl | assumption | apply Keeps.then_ ?_ ?_ (updChan_keeps ..)
        | apply Keeps.then_ ?_ ?_ (bumpChan_keeps ..) | apply Keeps.then_ ?_ ?_ (touchBlock_keeps ..))
    | split | with_reducible (first | apply Keeps.ite | apply Keeps.ite1 | apply Keeps.ite2) | intro _ _ | decide
    | dsimp +zetaDelta only)

end Sys2Proof.Machine
end

