-- ==== Sys2Proof/Laws/KeepsPilots.lean ====
section
/-! SUPPORT. What the operations of Machine/Pilots.lean keep (Laws/Keeps.lean). -/
set_option linter.unusedTactic false
set_option linter.unreachableTactic false

namespace Sys2Proof.Machine
set_option Elab.async false

theorem setLocal_keeps (h : Half) (m : Store) (s : State) (hm : (s.local h).wf = true → m.wf = true) :
    Keeps 0x400 s (setLocal h m s) := by
  cases h with
  | west => exact Keeps.setMem (.refl s) fun k => ⟨k.1, k.2.1, hm k.2.2.1, k.2.2.2⟩
  | east => exact Keeps.setMem (.refl s) fun k => ⟨k.1, k.2.1, k.2.2.1, hm k.2.2.2.1, k.2.2.2.2⟩

theorem startPilot_keeps (h : Half) (s : State) : Keeps 0x1000 s (startPilot h s) := by
  unfold startPilot
  repeat' (first
    | extract_lets
    | with_reducible (first
        | apply Keeps.refl | assumption | apply Keeps.then_ ?_ ?_ (updPilot_keeps ..))
    | split | with_reducible (first | apply Keeps.ite) | decide | dsimp +zetaDelta only)

theorem pilotTick_keeps (h : Half) (s : State) : Keeps 0x1000 s (pilotTick h s) := by
  unfold pilotTick
  repeat' (first
    | with_reducible (first
        | apply Keeps.refl | assumption | apply Keeps.then_ ?_ ?_ (updPilot_keeps ..)
        | apply Keeps.then_ ?_ ?_ (startPilot_keeps ..))
    | decide)

theorem settleRun_keeps (h : Half) (o : PilotOut) (s : State) : Keeps 0x9198 s (settleRun h o s) := by
  unfold settleRun
  repeat' (first
    | extract_lets
    | with_reducible (first
        | apply Keeps.refl | assumption | apply Keeps.then_ ?_ ?_ (updPilot_keeps ..)
        | apply Keeps.then_ ?_ ?_ (report_keeps ..) | apply Keeps.then_ ?_ ?_ (fallbackRecords_keeps ..))
    | split | with_reducible (first | apply Keeps.ite) | decide | dsimp +zetaDelta only)

theorem settleOther_keeps (h : Half) (prog : Nat) (seq : Word) (s : State) :
    Keeps 0x9198 s (settleOther h prog seq s) := by
  unfold settleOther
  repeat' (first
    | with_reducible (first
        | apply Keeps.refl | assumption | apply Keeps.then_ ?_ ?_ (settleRun_keeps ..))
    | split | with_reducible (first | apply Keeps.ite | apply Keeps.ite1 | apply Keeps.ite2) | decide)

theorem runGroups_wf (pe : Entry) (f : Nat → Nat) (n i : Nat) (m m' : Store) (hm : m.wf = true)
    (h : runGroups pe f n i m = some m') : m'.wf = true := by
  induction n generalizing i m with
  | zero => simp only [runGroups, Option.some.injEq] at h; exact h ▸ hm
  | succ n ih =>
    simp only [runGroups] at h
    split at h
    · cases h
    · refine ih _ _ ?_ h
      refine List.foldlRecOn (motive := fun x => Store.wf x = true) _ _ hm fun _ hx w _ => ?_
      exact List.foldlRecOn (motive := fun x => Store.wf x = true) _ _ hx fun _ hy _ _ => Store.write_wf _ _ _ hy

theorem runPilot_wf (pe ro rc : Entry) (r : PilotRun) (u : Word) (m : Store) (x : Store × Word) (hm : m.wf = true)
    (h : runPilot pe ro rc r u m = some x) : x.1.wf = true := by
  unfold runPilot at h
  rw [Option.map_eq_some_iff] at h
  obtain ⟨m', hg, hx⟩ := h
  rw [← congrArg Prod.fst hx]
  dsimp only
  unfold stampResult
  generalize wordsBytes _ = bs
  exact Store.writeN_wf _ _ _ (runGroups_wf _ _ _ _ _ _ hm hg)

theorem pilotDone_keeps (h : Half) (upset : Word) (s : State) : Keeps 0x9598 s (pilotDone h upset s) := by
  unfold pilotDone
  split
  · exact .refl s
  · extract_lets
    split
    · exact ((updPilot_keeps ..).up.trans (settleOther_keeps ..).up).trans (startPilot_keeps ..).up
    · extract_lets
      refine Keeps.trans ?_ (startPilot_keeps ..).up
      refine Keeps.trans ?_ (settleRun_keeps ..).up
      refine Keeps.trans ?_ (updPilot_keeps ..).up
      refine (setLocal_keeps _ _ _ ?_).up
      exact fun hm => runPilot_wf _ _ _ _ _ _ _ hm ‹_›

theorem dropRuns_keeps (h : Half) (s : State) : Keeps 0x9198 s (dropRuns h s) := by
  unfold dropRuns
  repeat' (first
    | extract_lets
    | with_reducible (first
        | apply Keeps.refl | assumption | apply Keeps.then_ ?_ ?_ (updPilot_keeps ..)
        | apply Keeps.then_ ?_ ?_ (settleOther_keeps ..) | apply Keeps.trans ?_ (forEach_keeps _ _ _ ?_))
    | intro _ _ | decide | dsimp +zetaDelta only)

theorem pilotOverrun_keeps (h : Half) (s : State) : Keeps 0x9199 s (pilotOverrun h s) := by
  unfold pilotOverrun
  repeat' (first
    | extract_lets
    | with_reducible (first
        | apply Keeps.refl | assumption | apply Keeps.then_ ?_ ?_ (updPilot_keeps ..)
        | apply Keeps.then_ ?_ ?_ (advanceTo_keeps ..) | apply Keeps.then_ ?_ ?_ (report_keeps ..)
        | apply Keeps.then_ ?_ ?_ (startPilot_keeps ..) | apply Keeps.then_ ?_ ?_ (settleOther_keeps ..))
    | split | intro _ _ | decide | dsimp +zetaDelta only)

end Sys2Proof.Machine
end

