-- ==== Sys2Proof/Laws/KeepsImage.lean ====
section
/-! SUPPORT. What the operations of Machine/Image.lean keep (Laws/Keeps.lean). -/
set_option linter.unusedTactic false
set_option linter.unreachableTactic false

namespace Sys2Proof.Machine
set_option Elab.async false

theorem setRail_keeps (rail mv : Nat) (s : State) : Keeps 0x180 s (setRail rail mv s) := by
  unfold setRail
  repeat' (first
    | extract_lets
    | with_reducible (first
        | apply Keeps.refl | assumption | apply Keeps.then_ ?_ ?_ (updHalf_keeps _ _ _ ?_))
    | split | with_reducible (first | apply Keeps.ite | apply Keeps.ite1 | apply Keeps.ite2)
    | exact (fun _ => HalfUnit.ok_of rfl rfl rfl) | intro _ _ | decide | dsimp +zetaDelta only)

theorem avsStart_keeps (s : State) : Keeps 0x2 s (avsStart s) := by
  unfold avsStart
  repeat' (first
    | with_reducible (first
        | apply Keeps.refl | assumption)
    | with_reducible (first | apply Keeps.setPins) | decide)

theorem avsWrite_keeps (rail mv : Nat) (s : State) : Keeps 0x183 s (avsWrite rail mv s) := by
  unfold avsWrite
  repeat' (first
    | extract_lets
    | with_reducible (first
        | apply Keeps.refl | assumption | apply Keeps.then_ ?_ ?_ (setRail_keeps ..)
        | apply Keeps.then_ ?_ ?_ (advanceTo_keeps ..))
    | split | with_reducible (first | apply Keeps.ite | apply Keeps.ite1 | apply Keeps.ite2)
    | with_reducible (first | apply Keeps.setPins) | decide | dsimp +zetaDelta only)

theorem raiseRail_keeps (rail mv : Nat) (x0 : Nat) (s : State) : Keeps 0x183 s (raiseRail rail mv x0 s) := by
  induction x0 generalizing s with
  | zero => exact .refl _
  | succ n ih =>
    unfold raiseRail
    repeat' (first
      | extract_lets
      | with_reducible (first
          | apply Keeps.refl | assumption | apply Keeps.then_ ?_ ?_ (avsWrite_keeps ..) | apply Keeps.then_ ?_ ?_ (ih ..))
      | split | with_reducible (first | apply Keeps.ite | apply Keeps.ite1 | apply Keeps.ite2) | decide
      | dsimp +zetaDelta only)

theorem lowerRail_keeps (rail mv : Nat) (x0 : Nat) (s : State) : Keeps 0x183 s (lowerRail rail mv x0 s) := by
  induction x0 generalizing s with
  | zero => exact .refl _
  | succ n ih =>
    unfold lowerRail
    repeat' (first
      | extract_lets
      | with_reducible (first
          | apply Keeps.refl | assumption | apply Keeps.then_ ?_ ?_ (avsWrite_keeps ..) | apply Keeps.then_ ?_ ?_ (ih ..))
      | split | with_reducible (first | apply Keeps.ite | apply Keeps.ite1 | apply Keeps.ite2) | decide
      | dsimp +zetaDelta only)

theorem requestVolts_keeps (core sram : Nat) (s : State) : Keeps 0x183 s (requestVolts core sram s) := by
  unfold requestVolts
  repeat' (first
    | extract_lets
    | with_reducible (first
        | apply Keeps.refl | assumption | apply Keeps.then_ ?_ ?_ (avsStart_keeps ..) | apply Keeps.then_ ?_ ?_ (setRail_keeps ..)
        | apply Keeps.then_ ?_ ?_ (raiseRail_keeps ..) | apply Keeps.then_ ?_ ?_ (lowerRail_keeps ..))
    | decide)

theorem endProposal_keeps (status : Nat) (eff : Word) (detail : Word) (s : State) :
    Keeps 0x30 s (endProposal status eff detail s) := by
  unfold endProposal
  repeat' (first
    | extract_lets
    | with_reducible (first
        | apply Keeps.refl | assumption | apply Keeps.then_ ?_ ?_ (statusCopy_keeps ..)
        | apply Keeps.then_ ?_ ?_ (replyFinal_keeps ..))
    | split | with_reducible (first | apply Keeps.ite) | with_reducible (first | apply Keeps.setImg) | decide
    | dsimp +zetaDelta only)

theorem clearOutput_keeps (s : State) : Keeps 0x1000 s (clearOutput s) := by
  unfold clearOutput
  repeat' (first
    | with_reducible (first
        | apply Keeps.refl | assumption)
    | with_reducible (first | apply Keeps.setOut) | decide)

theorem discardImage_keeps (s : State) : Keeps 0x1BFBB s (discardImage s) := by
  unfold discardImage
  extract_lets s1 s2 s3 keep d img e s4 f s5
  have h1 : Keeps 0x1BFBB s s1 := (Keeps.trans (endHalfJobs_keeps ..).up (endHalfJobs_keeps ..).up)
  have h2 : Keeps 0x1BFBB s1 s2 := Keeps.ite ((Keeps.trans (endProposal_keeps ..).up (bumpTally_keeps ..).up)) (.refl _)
  have h3 : Keeps 0x1BFBB s2 s3 := ((Keeps.trans (clearIntake_keeps ..).up (clearOutput_keeps ..).up)).trans (emptyCaches_keeps ..).up
  have h4 : Keeps 0x1BFBB s3 s4 := Keeps.setDev (t := { s3 with img := img }) (Keeps.setImg (.refl s3)) (Dev.ok_of rfl)
  have hf : ∀ u : HalfUnit, u.ok → (f u).ok := fun _ => HalfUnit.ok_of rfl rfl rfl
  have h5 : Keeps 0x1BFBB s4 s5 := (Keeps.trans (updHalf_keeps _ _ _ hf).up (updHalf_keeps _ _ _ hf).up)
  exact ((((h1.trans h2).trans h3).trans h4).trans h5).trans (requestVolts_keeps ..).up

theorem loadPilotStore_keeps (h : Half) (s : State) : Keeps 0x400 s (loadPilotStore h s) :=
  (setLocal_keeps _ _ _ fun hm => Store.writeN_wf _ _ _ hm).up

theorem writePreloads_keeps (s : State) : Keeps 0x410 s (writePreloads s) := by
  unfold writePreloads
  repeat' (first
    | with_reducible (first
        | apply Keeps.refl | assumption | apply Keeps.trans ?_ (forEach_keeps _ _ _ ?_)
        | apply Keeps.then_ ?_ ?_ (physWrite_keeps ..) | refine Keeps.of1 (by assumption) ?_)
    | intro _ _ | decide)

theorem installImage_keeps (i : Image) (s : State) : Keeps 0x47FB s (installImage i s) := by
  unfold installImage
  extract_lets dev fsp f s1 s2 s3 digest img unlock s4 s5 s6 s7 l s8 t0 dv s9 s10
  have hf : ∀ u : HalfUnit, u.ok → (f u).ok := fun _ => HalfUnit.ok_of rfl rfl rfl
  have h1 : Keeps 0x47FB s s1 := (Keeps.trans (updHalf_keeps _ _ _ hf).up (updHalf_keeps _ _ _ hf).up)
  have h2 : Keeps 0x47FB s1 s2 := (Keeps.trans (frequencyChange_keeps ..).up (frequencyChange_keeps ..).up)
  have h3 : Keeps 0x47FB s2 s3 := (requestVolts_keeps ..).up
  have h4 : Keeps 0x47FB s3 s4 := Keeps.setImg (.refl _)
  have h5 : Keeps 0x47FB s4 s5 := ((Keeps.trans (writePreloads_keeps ..).up (loadPilotStore_keeps ..).up)).trans (loadPilotStore_keeps ..).up
  have h6 : Keeps 0x47FB s5 s6 := (forEach_keeps _ _ _ fun _ _ => (freePool_keeps ..).up)
  have h7 : Keeps 0x47FB s6 s7 := (forEach_keeps _ _ _ fun _ _ => (updHoop_keeps ..).up)
  have h8 : Keeps 0x47FB s7 s8 := Keeps.setLink (.refl _)
  have h9 : Keeps 0x47FB s8 s9 := Keeps.setDev (t := { s8 with time := s9.time }) (Keeps.setTime (.refl s8)) (Dev.ok_of rfl)
  have h10 : Keeps 0x47FB s9 s10 := (forEach_keeps _ _ _ fun _ _ => Keeps.ite (reshed_keeps ..).up (.refl _))
  refine .trans ?_ (statusCopy_keeps ..).up
  exact ((((((((h1.trans h2).trans h3).trans h4).trans h5).trans h6).trans h7).trans h8).trans h9).trans h10

theorem runLoad_keeps (expected : Nat) (bs : List Byte) (s : State) : Keeps 0x1FFFB s (runLoad expected bs s).2 := by
  unfold runLoad
  repeat' (first
    | extract_lets
    | with_reducible (first
        | apply Keeps.refl | assumption | apply Keeps.then_ ?_ ?_ (discardImage_keeps ..)
        | apply Keeps.then_ ?_ ?_ (installImage_keeps ..) | apply Keeps.then_ ?_ ?_ (statusCopy_keeps ..)
        | refine Keeps.of1 (by assumption) ?_)
    | split | with_reducible (first | apply Keeps.setImg) | decide | dsimp +zetaDelta only)

theorem loadImage_keeps (pkt : List Word) (t : Tagged) (s : State) : Keeps 0x30 s (loadImage pkt t s) := by
  unfold loadImage
  repeat' (first
    | extract_lets
    | with_reducible (first
        | apply Keeps.refl | assumption | apply Keeps.then_ ?_ ?_ (answer_keeps ..)
        | apply Keeps.then_ ?_ ?_ (accept_keeps ..))
    | split | with_reducible (first | apply Keeps.ite) | with_reducible (first | apply Keeps.setImg) | decide
    | dsimp +zetaDelta only)

theorem imageLoad_keeps (bytes : List Byte) (s : State) : Keeps 0x1FFFB s (imageLoad bytes s) := by
  unfold imageLoad
  repeat' (first
    | extract_lets
    | with_reducible (first
        | apply Keeps.refl | assumption | apply Keeps.then_ ?_ ?_ (runLoad_keeps ..)
        | apply Keeps.then_ ?_ ?_ (replyFinal_keeps ..) | refine Keeps.of1 (by assumption) ?_)
    | split | with_reducible (first | apply Keeps.ite | apply Keeps.ite1 | apply Keeps.ite2)
    | with_reducible (first | apply Keeps.setImg) | decide | dsimp +zetaDelta only)

theorem flashLoad_keeps (bytes : List Byte) (s : State) : Keeps 0x1FFFF s (flashLoad bytes s) := by
  unfold flashLoad
  repeat' (first
    | extract_lets
    | with_reducible (first
        | apply Keeps.refl | assumption | apply Keeps.then_ ?_ ?_ (runLoad_keeps ..) | refine Keeps.of1 (by assumption) ?_)
    | split | with_reducible (first | apply Keeps.ite | apply Keeps.ite1 | apply Keeps.ite2)
    | with_reducible (first | apply Keeps.setBoot) | exact Boot.ok_of rfl rfl rfl | decide | dsimp +zetaDelta only)

end Sys2Proof.Machine
end

