-- ==== Sys2Proof/Laws/KeepsAgree.lean ====
section
/-! SUPPORT. What the operations of Machine/Agree.lean keep (Laws/Keeps.lean). -/
set_option linter.unusedTactic false
set_option linter.unreachableTactic false

namespace Sys2Proof.Machine
set_option Elab.async false

theorem propose_keeps (pkt : List Word) (bytes : List Byte) (t : Tagged) (s : State) :
    Keeps 0x30 s (propose pkt bytes t s) := by
  unfold propose
  repeat' (first
    | extract_lets
    | with_reducible (first
        | apply Keeps.refl | assumption | apply Keeps.then_ ?_ ?_ (statusCopy_keeps ..)
        | apply Keeps.then_ ?_ ?_ (replyFinal_keeps ..) | apply Keeps.then_ ?_ ?_ (answer_keeps ..)
        | apply Keeps.then_ ?_ ?_ (accept_keeps ..))
    | split | with_reducible (first | apply Keeps.ite) | with_reducible (first | apply Keeps.setImg) | decide
    | dsimp +zetaDelta only)

theorem withdraw_keeps (t : Tagged) (s : State) : Keeps 0x2030 s (withdraw t s) := by
  unfold withdraw
  repeat' (first
    | with_reducible (first
        | apply Keeps.refl | assumption | apply Keeps.then_ ?_ ?_ (bumpTally_keeps ..)
        | apply Keeps.then_ ?_ ?_ (answer_keeps ..) | apply Keeps.then_ ?_ ?_ (endProposal_keeps ..))
    | split | decide)

theorem agreementTimeout_keeps (s : State) : Keeps 0x2031 s (agreementTimeout s) := by
  unfold agreementTimeout
  repeat' (first
    | with_reducible (first
        | apply Keeps.refl | assumption | apply Keeps.then_ ?_ ?_ (bumpTally_keeps ..)
        | apply Keeps.then_ ?_ ?_ (advanceTo_keeps ..) | apply Keeps.then_ ?_ ?_ (endProposal_keeps ..))
    | split | decide)

theorem holdHoops_keeps (old s : State) : Keeps 0x20 s (holdHoops old s) :=
  (forEach_keeps _ _ _ fun _ _ => Keeps.setImg (.refl _))

theorem endMoved_keeps (old s : State) : Keeps 0x19798 s (endMoved old s) := by
  refine forEach_keeps _ _ _ fun _ _ => forEach_keeps _ _ _ fun _ _ => ?_
  exact Keeps.trans (updHoop_keeps ..).up (closeJob_keeps ..).up

theorem holdDecoders_keeps (old s : State) : Keeps 0x800 s (holdDecoders old s) := by
  unfold holdDecoders
  repeat' (first
    | with_reducible (first
        | apply Keeps.refl | assumption | apply Keeps.then_ ?_ ?_ (updDec_keeps ..)
        | apply Keeps.trans ?_ (forEach_keeps _ _ _ ?_))
    | split | with_reducible (first | apply Keeps.ite | apply Keeps.ite1 | apply Keeps.ite2) | intro _ _ | decide)

theorem holdRoutes_keeps (old s : State) : Keeps 0x800 s (holdRoutes old s) :=
  (forEach_keeps _ _ _ fun _ _ => (updKey_keeps ..).up)

theorem completeAgreement_keeps (p : Proposal) (s : State) : Keeps 0x1BFF8 s (completeAgreement p s) := by
  unfold completeAgreement
  extract_lets old i s1 s2 sc s3 s4 s5 s6
  have h1 : Keeps 0x1BFF8 s s1 := Keeps.setImg (.refl _)
  have h2 : Keeps 0x1BFF8 s1 s2 := ((holdHoops_keeps ..).up.trans (holdRoutes_keeps ..).up).trans (holdDecoders_keeps ..).up
  have hc : Keeps 0x1BFF8 s2 sc := (controlWrite_keeps ..).up
  have h3 : Keeps 0x1BFF8 sc s3 := (filterCaches_keeps ..).up
  have h4 : Keeps 0x1BFF8 s3 s4 := (forEach_keeps _ _ _ fun _ _ => (freePool_keeps ..).up)
  have h5 : Keeps 0x1BFF8 s4 s5 := (forEach_keeps _ _ _ fun _ _ => Keeps.ite (reshed_keeps ..).up (.refl _))
  have h6 : Keeps 0x1BFF8 s5 s6 := (endMoved_keeps ..).up
  exact ((((((h1.trans h2).trans hc).trans h3).trans h4).trans h5).trans h6).trans ((Keeps.trans (endProposal_keeps ..).up (bumpTally_keeps ..).up))

theorem refuseImage_keeps (s : State) : Keeps 0x2198 s (refuseImage s) := by
  unfold refuseImage
  repeat' (first
    | extract_lets
    | with_reducible (first
        | apply Keeps.refl | assumption | apply Keeps.then_ ?_ ?_ (bumpTally_keeps ..)
        | apply Keeps.then_ ?_ ?_ (statusCopy_keeps ..) | apply Keeps.then_ ?_ ?_ (report_keeps ..))
    | with_reducible (first | apply Keeps.ite) | with_reducible (first | apply Keeps.setDev) | exact Dev.ok_of rfl
    | decide | dsimp +zetaDelta only)

theorem judgeD0_keep (confirm : Bool) (f : List Byte) (rec_ : State → State) (s : State) (hr : ∀ t, Keeps 0x1BFF8 t (rec_ t)) :
    Keeps 0x1BFF8 s (tallyVerdict.judgeD0 confirm f s rec_).2 := by
  unfold tallyVerdict.judgeD0
  split
  · exact (hr s).trans (refuseImage_keeps ..).up
  · split
    · exact (hr s).trans (refuseImage_keeps ..).up
    · exact ((hr s).trans (Keeps.setImg (.refl _))).trans (statusCopy_keeps ..).up

theorem tallyVerdict_keeps (confirm : Bool) (f : List Byte) (s : State) : Keeps 0x1BFF8 s (tallyVerdict confirm f s).2 := by
  unfold tallyVerdict
  extract_lets n d0 rec_
  have hr : ∀ t, Keeps 0x1BFF8 t (rec_ t) := fun t => (recordEntry_keeps ..).up
  have hd : Keeps 0x1BFF8 s (tallyVerdict.judgeD0 confirm f s rec_).2 := (judgeD0_keep _ _ _ _ hr).up
  clear_value rec_ d0 n
  have he : ∀ a b, Keeps 0x1BFF8 s (bumpTally 4 1 (endProposal stDigestMismatch a b (rec_ s))) := fun a b =>
    ((hr s).trans (endProposal_keeps ..).up).trans (bumpTally_keeps ..).up
  split
  · split
    · split
      · exact he _ _
      · split
        · exact he _ _
        · exact (hr s).trans (completeAgreement_keeps ..).up
    · split
      · exact hd
      · exact .refl s
  · split
    · exact .refl s
    · split
      · exact hd
      · exact .refl s

theorem tallyLeader_keeps (f : List Byte) (s : State) : Keeps 0x8198 s (tallyLeader f s).2 := by
  unfold tallyLeader
  repeat' (first
    | with_reducible (first
        | apply Keeps.refl | assumption | apply Keeps.then_ ?_ ?_ (recordEntry_keeps ..)
        | apply Keeps.then_ ?_ ?_ (decideDispute_keeps ..))
    | split | decide)

theorem tallyAct_keeps (live : Bool) (t : TallyType) (f : List Byte) (s : State) :
    Keeps 0x1BFF8 s (tallyAct live t f s).2 := by
  unfold tallyAct
  repeat' (first
    | extract_lets
    | with_reducible (first
        | apply Keeps.refl | assumption | apply Keeps.then_ ?_ ?_ (bumpTally_keeps ..)
        | apply Keeps.then_ ?_ ?_ (tallyVerdict_keeps ..) | refine Keeps.of1 (by assumption) ?_
        | apply Keeps.then_ ?_ ?_ (tallyLeader_keeps ..))
    | split | with_reducible (first | apply Keeps.ite) | decide | dsimp +zetaDelta only)

theorem tallyTransaction_keeps (f : List Byte) (s : State) : Keeps 0x1BFF8 s (tallyTransaction f s) := by
  unfold tallyTransaction
  repeat' (first
    | extract_lets
    | with_reducible (first
        | apply Keeps.refl | assumption | apply Keeps.then_ ?_ ?_ (bumpTally_keeps ..)
        | apply Keeps.then_ ?_ ?_ (answer_keeps ..) | apply Keeps.then_ ?_ ?_ (tallyAct_keeps ..)
        | refine Keeps.of1 (by assumption) ?_)
    | split | with_reducible (first | apply Keeps.ite | apply Keeps.ite1)
    | with_reducible (first | apply Keeps.setTally) | decide | dsimp +zetaDelta only)

theorem tallyOf_keeps (k : TallyFrame) (f : List Byte) (s : State) : Keeps 0x1BFF8 s (tallyOf k f s) := by
  unfold tallyOf
  repeat' (first
    | with_reducible (first
        | apply Keeps.refl | assumption | apply Keeps.then_ ?_ ?_ (tallyTransaction_keeps ..))
    | split | decide)

end Sys2Proof.Machine
end

