-- ==== Sys2Proof/Laws/KeepsResets.lean ====
section
/-! SUPPORT. What the operations of Machine/Resets.lean keep (Laws/Keeps.lean). -/
set_option linter.unusedTactic false
set_option linter.unreachableTactic false

namespace Sys2Proof.Machine
set_option Elab.async false

theorem closeEntries_keeps (h : Half) (s : State) : Keeps 0x180 s (closeEntries h s) := by
  unfold closeEntries
  repeat' (first
    | extract_lets
    | with_reducible (first
        | apply Keeps.refl | assumption | apply Keeps.then_ ?_ ?_ (updHalf_keeps _ _ _ ?_)
        | apply Keeps.trans ?_ (forEach_keeps _ _ _ ?_) | apply Keeps.then_ ?_ ?_ (queueRecord_keeps ..))
    | split | with_reducible (first | apply Keeps.ite) | exact (fun _ => HalfUnit.ok_of rfl rfl rfl) | intro _ _
    | decide | dsimp +zetaDelta only)

theorem writeReady_keeps (h : Half) (x0 : Nat) (s : State) : Keeps 0x1190 s (writeReady h x0 s) := by
  induction x0 generalizing s with
  | zero => exact .refl _
  | succ n ih =>
    unfold writeReady
    repeat' (first
      | with_reducible (first
          | apply Keeps.refl | assumption | apply Keeps.then_ ?_ ?_ (refill_keeps ..)
          | apply Keeps.then_ ?_ ?_ (writeFault_keeps ..) | apply Keeps.then_ ?_ ?_ (ih ..))
      | split | decide)

theorem handRecords_keeps (h : Half) (s : State) : Keeps 0x180 s (handRecords h s) := by
  unfold handRecords
  repeat' (first
    | extract_lets
    | with_reducible (first
        | apply Keeps.refl | assumption | apply Keeps.then_ ?_ ?_ (updHalf_keeps _ _ _ ?_)
        | apply Keeps.trans ?_ (forEach_keeps _ _ _ ?_))
    | split | with_reducible (first | apply Keeps.ite) | exact (fun _ => HalfUnit.ok_of rfl rfl rfl)
    | exact (fun _ => HalfUnit.ok_lost rfl rfl rfl) | exact (fun _ => HalfUnit.ok_slip rfl rfl rfl) | intro _ _
    | decide | dsimp +zetaDelta only)

theorem drainRecords_keeps (h : Half) (s : State) : Keeps 0x1190 s (drainRecords h s) := by
  unfold drainRecords
  repeat' (first
    | with_reducible (first
        | apply Keeps.refl | assumption | apply Keeps.then_ ?_ ?_ (refill_keeps ..)
        | apply Keeps.then_ ?_ ?_ (closeEntries_keeps ..) | apply Keeps.then_ ?_ ?_ (writeReady_keeps ..)
        | apply Keeps.then_ ?_ ?_ (handRecords_keeps ..))
    | decide)

theorem sleepChannel_keeps (c : Nat) (s : State) : Keeps 0x400 s (sleepChannel c s) := by
  unfold sleepChannel
  repeat' (first
    | with_reducible (first
        | apply Keeps.refl | assumption | apply Keeps.then_ ?_ ?_ (updChan_keeps ..))
    | split | decide)

theorem freePools_keeps (h : Half) (s : State) : Keeps 0x40 s (freePools h s) := by
  unfold freePools
  repeat' (first
    | with_reducible (first
        | apply Keeps.refl | assumption | apply Keeps.trans ?_ (forEach_keeps _ _ _ ?_)
        | apply Keeps.then_ ?_ ?_ (freePool_keeps ..))
    | intro _ _ | decide)

theorem passLead_keeps (h : Half) (s : State) : Keeps 0x198 s (passLead h s) := by
  unfold passLead
  repeat' (first
    | with_reducible (first
        | apply Keeps.refl | assumption | apply Keeps.then_ ?_ ?_ (leadBy_keeps ..))
    | split | decide)

theorem dropJobs_keeps (h : Half) (s : State) : Keeps 0x19798 s (dropJobs h s) := by
  unfold dropJobs
  repeat' (first
    | extract_lets
    | with_reducible (first
        | apply Keeps.refl | assumption | apply Keeps.then_ ?_ ?_ (updHoop_keeps ..)
        | apply Keeps.trans ?_ (forEach_keeps _ _ _ ?_) | apply Keeps.then_ ?_ ?_ (endHalfJobs_keeps ..))
    | with_reducible (first | apply Keeps.ite) | intro _ _ | decide | dsimp +zetaDelta only)

theorem clearLinks_keeps (h : Half) (s : State) : Keeps 0x4000 s (clearLinks h s) := by
  unfold clearLinks
  repeat' (first
    | extract_lets
    | with_reducible (first
        | apply Keeps.refl | assumption)
    | with_reducible (first | apply Keeps.ite) | with_reducible (first | apply Keeps.setLink) | decide
    | dsimp +zetaDelta only)

theorem clearDampers_keeps (h : Half) (s : State) : Keeps 0x400 s (clearDampers h s) := by
  unfold clearDampers
  repeat' (first
    | with_reducible (first
        | apply Keeps.refl | assumption)
    | with_reducible (first | apply Keeps.setMem) | exact Mem.ok_of rfl rfl rfl rfl rfl | intro _ _ | decide)

theorem HalfUnit.reset_ok (u : HalfUnit) (hp : Nat) (autos : List Word) : (u.reset_ hp autos).ok :=
  ⟨Nat.zero_le _, Nat.le_refl _, Nat.zero_le _⟩

theorem assertReset_keeps (h : Half) (cause : Nat) (counted : Bool) (s : State) :
    Keeps 0x1D7D8 s (assertReset h cause counted s) := by
  unfold assertReset
  extract_lets autos f s1 s2 s3 s4 s5
  have h1 : Keeps 0x1D7D8 s s1 := (report_keeps ..).up
  have h2 : Keeps 0x1D7D8 s1 s2 := (Keeps.trans (passLead_keeps ..).up (leaveService_keeps ..).up)
  have h3 : Keeps 0x1D7D8 s2 s3 := (Keeps.trans (dropJobs_keeps ..).up (dropRuns_keeps ..).up)
  have h4 : Keeps 0x1D7D8 s3 s4 := (drainRecords_keeps ..).up
  have h5 : Keeps 0x1D7D8 s4 s5 := (Keeps.trans (freePools_keeps ..).up (forEach_keeps _ _ _ fun _ _ => (sleepChannel_keeps ..).up))
  refine ((((h1.trans h2).trans h3).trans h4).trans h5).trans (.trans ?_ (statusCopy_keeps ..).up)
  refine .trans (.trans ?_ (clearLinks_keeps ..).up) (clearDampers_keeps ..).up
  exact (updHalf_keeps _ _ _ fun u _ => HalfUnit.reset_ok u _ _).up

theorem halfReset_keeps (h : Half) (s : State) : Keeps 0x1D7D8 s (halfReset h s) := by
  unfold halfReset
  repeat' (first
    | with_reducible (first
        | apply Keeps.refl | assumption | apply Keeps.then_ ?_ ?_ (assertReset_keeps ..))
    | split | decide)

theorem resetHalf_keeps (pkt : List Word) (t : Tagged) (s : State) : Keeps 0x190 s (resetHalf pkt t s) := by
  unfold resetHalf
  repeat' (first
    | extract_lets
    | with_reducible (first
        | apply Keeps.refl | assumption | apply Keeps.then_ ?_ ?_ (updHalf_keeps _ _ _ ?_)
        | apply Keeps.then_ ?_ ?_ (replyFinal_keeps ..) | apply Keeps.then_ ?_ ?_ (accept_keeps ..))
    | split | with_reducible (first | apply Keeps.ite) | exact (fun _ => HalfUnit.ok_of rfl rfl rfl) | intro _ _
    | decide | dsimp +zetaDelta only)

theorem answerResets_keeps (h : Half) (status : Nat) (s : State) : Keeps 0x190 s (answerResets h status s) := by
  unfold answerResets
  repeat' (first
    | extract_lets
    | with_reducible (first
        | apply Keeps.refl | assumption | apply Keeps.then_ ?_ ?_ (updHalf_keeps _ _ _ ?_)
        | apply Keeps.trans ?_ (forEach_keeps _ _ _ ?_) | apply Keeps.then_ ?_ ?_ (replyFinal_keeps ..))
    | with_reducible (first | apply Keeps.ite) | exact (fun _ => HalfUnit.ok_of rfl rfl rfl) | intro _ _ | decide
    | dsimp +zetaDelta only)

theorem clearShared_wf (h : Half) (m : Store) (hm : m.wf = true) : (clearShared h m).wf = true := by
  obtain ⟨hc, hs, hb, hz⟩ := (Store.wf_iff m).1 hm
  refine (Store.wf_iff _).2 ⟨Tab.filter_wf _ _ hc, Tab.filter_wf _ _ hs, fun e he => hb e (List.mem_filter.1 he).1, ?_⟩
  intro c hcm
  obtain ⟨hcm, hk⟩ := List.mem_filter.1 hcm
  have hp : (c.1 / 4096 / 0x2000 != h.idx) = true := by
    rw [Nat.div_div_eq_div_mul]; exact hk
  have hg := Tab.get_filter_key m.base m.salts (fun k => k / 0x2000 != h.idx) (c.1 / 4096) hs
  rw [if_pos hp] at hg
  have : (clearShared h m).saltOf c.1 = m.saltOf c.1 := hg
  rw [this]
  exact hz c hcm

theorem clearSeq_keeps (h : Half) (s : State) : Keeps 0x200 s (clearSeq h s) :=
  Keeps.setSeq (.refl s) fun k e he => k e (List.mem_filter.1 he).1

theorem clearMem_keeps (h : Half) (s : State) : Keeps 0x400 s (clearMem h s) := by
  refine Keeps.trans (t := setLocal h .zero { s with mem := { s.mem with shared := clearShared h s.mem.shared } }) ?_
    (forEach_keeps _ _ _ fun _ _ => (updChan_keeps ..).up)
  refine Keeps.trans (t := { s with mem := { s.mem with shared := clearShared h s.mem.shared } }) ?_
    (setLocal_keeps _ _ _ fun _ => Store.zero_wf).up
  exact Keeps.setMem (.refl s) fun k => ⟨k.1, clearShared_wf _ _ k.2.1, k.2.2⟩

theorem clearInvals_keeps (h : Half) (s : State) : Keeps 0x20 s (clearInvals h s) := by
  unfold clearInvals
  repeat' (first
    | with_reducible (first
        | apply Keeps.refl | assumption)
    | split | with_reducible (first | apply Keeps.setImg) | decide)

theorem releaseReset_keeps (h : Half) (s : State) : Keeps 0x5FA0 s (releaseReset h s) := by
  unfold releaseReset
  repeat' (first
    | extract_lets
    | with_reducible (first
        | apply Keeps.refl | assumption | apply Keeps.then_ ?_ ?_ (loseCopies_keeps ..)
        | apply Keeps.then_ ?_ ?_ (updHalf_keeps _ _ _ ?_) | apply Keeps.then_ ?_ ?_ (updPilot_keeps ..)
        | apply Keeps.then_ ?_ ?_ (clearLinks_keeps ..) | apply Keeps.then_ ?_ ?_ (clearDampers_keeps ..)
        | apply Keeps.then_ ?_ ?_ (clearSeq_keeps ..) | apply Keeps.then_ ?_ ?_ (clearMem_keeps ..)
        | apply Keeps.then_ ?_ ?_ (clearInvals_keeps ..))
    | split | with_reducible (first | apply Keeps.ite | apply Keeps.ite1 | apply Keeps.ite2)
    | exact (fun _ => HalfUnit.ok_of rfl rfl rfl) | intro _ _ | decide | dsimp +zetaDelta only)

theorem placeHalf_keeps (h : Half) (pass : Nat → Bool) (gen : Nat → Nat) (fence : Bool) (s : State) :
    Keeps 0x200 s (placeHalf h pass gen fence s) := by
  unfold placeHalf
  repeat' (first
    | extract_lets
    | with_reducible (first
        | apply Keeps.refl | assumption | apply Keeps.then_ ?_ ?_ (updHearth_keeps _ _ _ ?_)
        | apply Keeps.then_ ?_ ?_ (updPlace_keeps ..) | apply Keeps.trans ?_ (forEach_keeps _ _ _ ?_))
    | with_reducible (first | apply Keeps.ite) | exact (fun _ h => h) | intro _ _ | decide | dsimp +zetaDelta only)

theorem startChannels_keeps (h : Half) (trained : Nat → Bool) (s : State) :
    Keeps 0x10798 s (startChannels h trained s) := by
  unfold startChannels
  repeat' (first
    | with_reducible (first
        | apply Keeps.refl | assumption | apply Keeps.then_ ?_ ?_ (loseChannel_keeps ..)
        | apply Keeps.then_ ?_ ?_ (runChannel_keeps ..) | apply Keeps.trans ?_ (forEach_keeps _ _ _ ?_))
    | split | with_reducible (first | apply Keeps.ite | apply Keeps.ite1 | apply Keeps.ite2) | intro _ _ | decide)

theorem restoreSettings_keeps (h : Half) (s : State) : Keeps 0x580 s (restoreSettings h s) := by
  unfold restoreSettings
  repeat' (first
    | extract_lets
    | with_reducible (first
        | apply Keeps.refl | assumption | apply Keeps.then_ ?_ ?_ (updHalf_keeps _ _ _ ?_)
        | apply Keeps.then_ ?_ ?_ (loadPilotStore_keeps ..))
    | split | with_reducible (first | apply Keeps.ite) | exact (fun _ => HalfUnit.ok_of rfl rfl rfl) | intro _ _
    | decide | dsimp +zetaDelta only)

theorem enterService_keeps (h : Half) (s : State) : Keeps 0x198 s (enterService h s) := by
  unfold enterService
  repeat' (first
    | extract_lets
    | with_reducible (first
        | apply Keeps.refl | assumption | apply Keeps.then_ ?_ ?_ (updHalf_keeps _ _ _ ?_)
        | apply Keeps.then_ ?_ ?_ (statusCopy_keeps ..) | apply Keeps.then_ ?_ ?_ (settleState_keeps ..)
        | apply Keeps.then_ ?_ ?_ (leadBy_keeps ..) | apply Keeps.then_ ?_ ?_ (answerResets_keeps ..))
    | split | with_reducible (first | apply Keeps.ite) | exact (fun _ => HalfUnit.ok_of rfl rfl rfl) | intro _ _
    | decide | dsimp +zetaDelta only)

theorem halfRestart_keeps (h : Half) (trained : Nat → Bool) (injections : Bool) (pass : Nat → Bool) (s : State) :
    Keeps 0x10798 s (halfRestart h trained injections pass s) := by
  unfold halfRestart
  repeat' (first
    | extract_lets
    | with_reducible (first
        | apply Keeps.refl | assumption | apply Keeps.then_ ?_ ?_ (updHalf_keeps _ _ _ ?_)
        | apply Keeps.then_ ?_ ?_ (report_keeps ..) | apply Keeps.then_ ?_ ?_ (placeHalf_keeps ..)
        | apply Keeps.then_ ?_ ?_ (startChannels_keeps ..) | apply Keeps.then_ ?_ ?_ (restoreSettings_keeps ..)
        | apply Keeps.then_ ?_ ?_ (enterService_keeps ..))
    | split | with_reducible (first | apply Keeps.ite | apply Keeps.ite1 | apply Keeps.ite2)
    | exact (fun _ => HalfUnit.ok_of rfl rfl rfl) | intro _ _ | decide | dsimp +zetaDelta only)

theorem resetTimeout_keeps (h : Half) (s : State) : Keeps 0x191 s (resetTimeout h s) := by
  unfold resetTimeout
  repeat' (first
    | extract_lets
    | with_reducible (first
        | apply Keeps.refl | assumption | apply Keeps.then_ ?_ ?_ (advanceTo_keeps ..)
        | apply Keeps.then_ ?_ ?_ (answerResets_keeps ..))
    | split | with_reducible (first | apply Keeps.ite) | decide | dsimp +zetaDelta only)

theorem lockstepFault_keeps (h : Half) (s : State) : Keeps 0x198 s (lockstepFault h s) := by
  unfold lockstepFault
  repeat' (first
    | with_reducible (first
        | apply Keeps.refl | assumption | apply Keeps.then_ ?_ ?_ (updHalf_keeps _ _ _ ?_)
        | apply Keeps.then_ ?_ ?_ (report_keeps ..))
    | split | exact (fun _ => HalfUnit.ok_of rfl rfl rfl) | intro _ _ | decide)

theorem supplyFault_keeps (h : Half) (index d0 d1 : Nat) (s : State) : Keeps 0x19C s (supplyFault h index d0 d1 s) := by
  unfold supplyFault
  repeat' (first
    | extract_lets
    | with_reducible (first
        | apply Keeps.refl | assumption | apply Keeps.then_ ?_ ?_ (updHalf_keeps _ _ _ ?_)
        | apply Keeps.then_ ?_ ?_ (report_keeps ..))
    | with_reducible (first | apply Keeps.ite) | with_reducible (first | apply Keeps.setBoot)
    | exact (fun _ => HalfUnit.ok_of rfl rfl rfl) | exact (fun k => ⟨k.1, (by decide : (1 : Nat) ≤ 7), k.2.2⟩) | intro _ _
    | decide | dsimp +zetaDelta only)

theorem voltageFault_keeps (h : Half) (rail : Nat) (trip : SupplyTrip) (s : State) :
    Keeps 0x19C s (voltageFault h rail trip s) := by
  unfold voltageFault
  repeat' (first
    | with_reducible (first
        | apply Keeps.refl | assumption | apply Keeps.then_ ?_ ?_ (supplyFault_keeps ..))
    | split | with_reducible (first | apply Keeps.ite | apply Keeps.ite1 | apply Keeps.ite2) | decide)

theorem thermalLimit_keeps (d0 : Nat) (d1 : Int) (s : State) : Keeps 0x198 s (thermalLimit d0 d1 s) := by
  unfold thermalLimit
  repeat' (first
    | with_reducible (first
        | apply Keeps.refl | assumption | apply Keeps.then_ ?_ ?_ (report_keeps ..))
    | decide)

theorem powerStep_keeps (p : Nat) (t : Int) (mayRise : Bool) (s : State) : Keeps 0x19B s (powerStep p t mayRise s) := by
  unfold powerStep
  extract_lets canRise dev limit therm ov un u
  split
  rename_i core stretch beyond _
  extract_lets floor g s1 s2 s3
  have hg : ∀ u : HalfUnit, u.ok → (g u).ok := by
    intro u hu
    show HalfUnit.ok (if u.underReset then _ else _)
    split
    · exact hu
    · exact hu
  have ha : ∀ s s' : State, Keeps 0x19B s (updHalf .west (fun u => { u with thermalAt := some s'.hp })
      (updHalf .east (fun u => { u with thermalAt := some s'.hp }) s)) := by
    intro s s'
    refine .trans (updHalf_keeps .east _ _ ?_).up (updHalf_keeps .west _ _ ?_).up
    · exact fun _ => HalfUnit.ok_of rfl rfl rfl
    · exact fun _ => HalfUnit.ok_of rfl rfl rfl
  have h1 : Keeps 0x19B s s1 := Keeps.ite (.refl _) ((avsStart_keeps ..).up.trans (avsWrite_keeps ..).up)
  have h2 : Keeps 0x19B s1 s2 := (Keeps.trans (updHalf_keeps _ _ _ hg).up (updHalf_keeps _ _ _ hg).up)
  exact (h1.trans h2).trans
    (Keeps.ite ((ha s2 s2).trans (Keeps.ite (thermalLimit_keeps ..).up (thermalLimit_keeps ..).up)) (.refl _))

theorem hotStep_keeps (t : Int) (s : State) : Keeps 0x198 s (hotStep t s) := by
  unfold hotStep
  repeat' (first
    | extract_lets
    | with_reducible (first
        | apply Keeps.refl | assumption | apply Keeps.then_ ?_ ?_ (updHalf_keeps _ _ _ ?_)
        | apply Keeps.then_ ?_ ?_ (thermalLimit_keeps ..))
    | split | with_reducible (first | apply Keeps.ite) | exact (fun _ => HalfUnit.ok_of rfl rfl rfl) | intro _ _
    | decide | dsimp +zetaDelta only)

theorem powerLoop_keeps (p : Nat) (t : Int) (mayRise : Bool) (s : State) : Keeps 0x19B s (powerLoop p t mayRise s) := by
  unfold powerLoop
  repeat' (first
    | extract_lets
    | with_reducible (first
        | apply Keeps.refl | assumption | apply Keeps.then_ ?_ ?_ (advanceTo_keeps ..)
        | apply Keeps.then_ ?_ ?_ (powerStep_keeps ..) | apply Keeps.then_ ?_ ?_ (hotStep_keeps ..))
    | split | with_reducible (first | apply Keeps.ite | apply Keeps.ite1 | apply Keeps.ite2)
    | with_reducible (first | apply Keeps.setDev) | exact Dev.ok_of rfl | decide | dsimp +zetaDelta only)

end Sys2Proof.Machine
end

