-- ==== Sys2Proof/Laws/KeepsAdmin.lean ====
section
/-! SUPPORT. What the operations of Machine/Admin.lean keep (Laws/Keeps.lean). -/
set_option linter.unusedTactic false
set_option linter.unreachableTactic false

namespace Sys2Proof.Machine
set_option Elab.async false

theorem readCounters_keeps (pkt : List Word) (t : Tagged) (s : State) : Keeps 0x10 s (readCounters pkt t s) := by
  unfold readCounters
  repeat' (first
    | extract_lets
    | with_reducible (first
        | apply Keeps.refl | assumption | apply Keeps.then_ ?_ ?_ (hostWrite_keeps ..)
        | apply Keeps.then_ ?_ ?_ (replyFinal_keeps ..) | apply Keeps.then_ ?_ ?_ (answer_keeps ..)
        | apply Keeps.then_ ?_ ?_ (accept_keeps ..))
    | split | with_reducible (first | apply Keeps.ite) | decide | dsimp +zetaDelta only)

theorem openOutputs_keeps (t : Tagged) (s : State) : Keeps 0x18 s (openOutputs t s) := by
  unfold openOutputs
  repeat' (first
    | with_reducible (first
        | apply Keeps.refl | assumption | apply Keeps.then_ ?_ ?_ (setDevState_keeps ..)
        | apply Keeps.then_ ?_ ?_ (answer_keeps ..))
    | split | with_reducible (first | apply Keeps.setDev) | exact Dev.ok_of rfl | decide)

theorem closeOutputs_keeps (t : Tagged) (s : State) : Keeps 0x18 s (closeOutputs t s) := by
  unfold closeOutputs
  repeat' (first
    | with_reducible (first
        | apply Keeps.refl | assumption | apply Keeps.then_ ?_ ?_ (setDevState_keeps ..)
        | apply Keeps.then_ ?_ ?_ (answer_keeps ..))
    | with_reducible (first | apply Keeps.setDev) | exact Dev.ok_of rfl | decide)

theorem setTime_keeps (pkt : List Word) (t : Tagged) (s : State) : Keeps 0x11 s (setTime pkt t s) := by
  unfold setTime
  repeat' (first
    | extract_lets
    | with_reducible (first
        | apply Keeps.refl | assumption | apply Keeps.then_ ?_ ?_ (answer_keeps ..)
        | apply Keeps.then_ ?_ ?_ (accept_keeps ..))
    | split | with_reducible (first | apply Keeps.ite) | with_reducible (first | apply Keeps.setTime) | decide
    | dsimp +zetaDelta only)

theorem timeReply_keeps (a : SetTime) (status : Nat) (eff : Word) (s : State) :
    Keeps 0x10 s (timeReply a status eff s) := by
  unfold timeReply
  repeat' (first
    | with_reducible (first
        | apply Keeps.refl | assumption | apply Keeps.then_ ?_ ?_ (replyFinal_keeps ..))
    | decide)

theorem applySetTime_keeps (a : SetTime) (s : State) : Keeps 0x11 s (applySetTime a s) := by
  unfold applySetTime
  repeat' (first
    | extract_lets
    | with_reducible (first
        | apply Keeps.refl | assumption | apply Keeps.then_ ?_ ?_ (timeReply_keeps ..))
    | split | with_reducible (first | apply Keeps.ite) | with_reducible (first | apply Keeps.setTime) | decide
    | dsimp +zetaDelta only)

theorem ppsEdge_keeps (s : State) : Keeps 0x11 s (ppsEdge s) := by
  unfold ppsEdge
  repeat' (first
    | extract_lets
    | with_reducible (first
        | apply Keeps.refl | assumption | apply Keeps.trans ?_ (forEach_keeps _ _ _ ?_)
        | apply Keeps.then_ ?_ ?_ (advanceTo_keeps ..) | apply Keeps.then_ ?_ ?_ (applySetTime_keeps ..))
    | split | with_reducible (first | apply Keeps.ite) | with_reducible (first | apply Keeps.setTime) | intro _ _
    | decide | dsimp +zetaDelta only)

theorem noPps_keeps (s : State) : Keeps 0x11 s (noPps s) := by
  unfold noPps
  repeat' (first
    | extract_lets
    | with_reducible (first
        | apply Keeps.refl | assumption | apply Keeps.then_ ?_ ?_ (advanceTo_keeps ..)
        | apply Keeps.then_ ?_ ?_ (timeReply_keeps ..))
    | split | with_reducible (first | apply Keeps.ite) | with_reducible (first | apply Keeps.setTime) | decide
    | dsimp +zetaDelta only)

end Sys2Proof.Machine
end

