-- ==== Sys2Proof/Laws/KeepsBoot.lean ====
section
/-! SUPPORT. What the operations of Machine/Boot.lean keep (Laws/Keeps.lean). -/
set_option linter.unusedTactic false
set_option linter.unreachableTactic false

namespace Sys2Proof.Machine
set_option Elab.async false

theorem resetAll_keeps (s : State) : Keeps 0x1FFFF s (resetAll s) := by
  unfold resetAll
  extract_lets s1
  have h1 : Keeps 0x1FFFF s s1 := Keeps.ite (.refl s) (setDevState_keeps ..).up
  refine h1.trans (Keeps.all rfl rfl fun o => ⟨?_, ?_, ?_, ?_, ?_, ?_, ?_⟩)
  · exact ⟨o.host.1, Nat.zero_le _, fun _ he => absurd he List.not_mem_nil⟩
  · exact Nat.zero_le _
  · exact ⟨Nat.zero_le _, Nat.zero_le _, Nat.le_refl 3⟩
  · exact ⟨Nat.zero_le _, Nat.le_refl _, Nat.zero_le _⟩
  · exact ⟨Nat.zero_le _, Nat.le_refl _, Nat.zero_le _⟩
  · exact fun _ he => absurd he List.not_mem_nil
  · exact ⟨Store.unspecified_wf _, Store.zero_wf, Store.zero_wf, Store.zero_wf, Store.unspecified_wf _⟩

theorem kindle_keeps (mempop : BitVec 2) (s : State) : Keeps 0x1A s (kindle mempop s) := by
  unfold kindle
  repeat' (first
    | with_reducible (first
        | apply Keeps.refl | assumption | apply Keeps.then_ ?_ ?_ (setDevState_keeps ..))
    | with_reducible (first | apply Keeps.setPins) | decide)

theorem railsUp_keeps (s : State) : Keeps 0x180 s (railsUp s) := by
  unfold railsUp
  repeat' (first
    | with_reducible (first
        | apply Keeps.refl | assumption | apply Keeps.then_ ?_ ?_ (setRail_keeps ..))
    | decide)

theorem poresetRelease_keeps (mempop : BitVec 2) (s : State) : Keeps 0x19A s (poresetRelease mempop s) := by
  unfold poresetRelease
  repeat' (first
    | with_reducible (first
        | apply Keeps.refl | assumption | apply Keeps.then_ ?_ ?_ (kindle_keeps ..)
        | apply Keeps.then_ ?_ ?_ (railsUp_keeps ..))
    | split | with_reducible (first | apply Keeps.ite | apply Keeps.ite1 | apply Keeps.ite2)
    | with_reducible (first | apply Keeps.setPins) | decide)

theorem resetDevice_keeps (mempop : BitVec 2) (t : Tagged) (s : State) : Keeps 0x1FFFF s (resetDevice mempop t s) := by
  unfold resetDevice
  repeat' (first
    | extract_lets
    | with_reducible (first
        | apply Keeps.refl | assumption | apply Keeps.then_ ?_ ?_ (resetAll_keeps ..)
        | apply Keeps.then_ ?_ ?_ (kindle_keeps ..) | apply Keeps.then_ ?_ ?_ (setRail_keeps ..)
        | apply Keeps.then_ ?_ ?_ (requestVolts_keeps ..) | apply Keeps.then_ ?_ ?_ (writeReply_keeps ..)
        | apply Keeps.then_ ?_ ?_ (headCopy_keeps ..))
    | decide | dsimp +zetaDelta only)

theorem packageRes_bounds (p : Part) (bs : List Byte) {cause stage : Nat} (h : packageRes p bs = .fails cause stage) :
    cause ≤ 7 ∧ stage ≤ 7 := by
  unfold packageRes at h
  extract_lets e n at h
  clear_value e n
  split at h
  · cases h; decide
  · split at h
    · cases h; decide
    · split at h
      · cases h; decide
      · split at h
        · cases h; decide
        · cases h

theorem packageFails_ok (slotB : Bool) {cause stage : Nat} (hc : cause ≤ 7) (hs : stage ≤ 7) {b : Boot} (h : b.ok) :
    (packageFails slotB cause stage b).ok := by
  unfold packageFails
  split
  · exact ⟨hs, hc, h.2.2⟩
  · exact ⟨(by decide : 1 ≤ 7), h.2⟩

theorem packageRuns_ok (slotB : Bool) (e : Entry) (k : Nat) {b : Boot} (h : b.ok) : (packageRuns slotB e k b).ok := by
  unfold packageRuns
  refine ⟨(by decide : 3 ≤ 7), h.2.1, ?_⟩
  dsimp only
  split <;> decide

theorem Boot.parallel_ok {b : Boot} (h : b.fail ≤ 7) (hs : b.slot ≤ 3) : b.parallel.ok := by
  refine ⟨?_, h, hs⟩
  unfold Boot.parallel
  dsimp only
  split
  · decide
  · split <;> decide

theorem bootPackage_keeps (slotB : Bool) (bs : List Byte) (s : State) : Keeps 0x5 s (bootPackage slotB bs s) := by
  unfold bootPackage
  split
  · exact .refl s
  · extract_lets s1
    have h1 : Keeps 0x5 s s1 := (advanceTo_keeps ..).up
    split
    · next hp =>
      have hb := packageRes_bounds _ _ hp
      exact Keeps.setBoot h1 (packageFails_ok _ hb.1 hb.2)
    · exact Keeps.setBoot h1 (packageRuns_ok _ _ _)

theorem storesTested_keeps (pass : Bool) (s : State) : Keeps 0x604 s (storesTested pass s) := by
  unfold storesTested
  split
  · exact .refl s
  · extract_lets b q s1 m s2
    split
    · exact Keeps.setBoot (.refl s) fun h => ⟨h.1, Nat.le_refl 7, h.2.2⟩
    · have h1 : Keeps 0x604 s s1 := by
        refine Keeps.setSeq (.refl s) fun _ e he => ?_
        obtain ⟨x, _, rfl⟩ := List.mem_map.1 he
        exact Store.zero_wf
      have h2 : Keeps 0x604 s1 s2 :=
        Keeps.setMem (.refl s1) fun h => ⟨h.1, Store.zero_wf, Store.zero_wf, Store.zero_wf, h.2.2.2.2⟩
      exact Keeps.setBoot (h1.trans h2) fun h => Boot.parallel_ok h.2.1 h.2.2

theorem bringUp_keeps (ref : Nat) (density : List (BitVec 2)) (trained : Nat → Bool) (c : Nat) (s : State) :
    Keeps 0x10798 s (bringUp ref density trained c s) := by
  unfold bringUp
  repeat' (first
    | extract_lets
    | with_reducible (first
        | apply Keeps.refl | assumption | apply Keeps.then_ ?_ ?_ (loseChannel_keeps ..)
        | apply Keeps.then_ ?_ ?_ (runChannel_keeps ..) | apply Keeps.then_ ?_ ?_ (updChan_keeps ..)
        | apply Keeps.then_ ?_ ?_ (bumpChan_keeps ..))
    | split | with_reducible (first | apply Keeps.ite | apply Keeps.ite1 | apply Keeps.ite2) | intro _ _ | decide
    | dsimp +zetaDelta only)

theorem dramTrained_keeps (density : List (BitVec 2)) (trained : Nat → Bool) (s : State) :
    Keeps 0x1079C s (dramTrained density trained s) := by
  unfold dramTrained
  split
  · exact .refl s
  · extract_lets m b cs s1 s2
    split
    · refine .trans ?_ (setDevState_keeps ..).up
      exact Keeps.setBoot (.refl s) fun h => ⟨h.1, (by decide : (6 : Nat) ≤ 7), h.2.2⟩
    · have h1 : Keeps 0x1079C s s1 := (forEach_keeps _ _ _ fun _ _ => (bringUp_keeps ..).up)
      have h2 : Keeps 0x1079C s1 s2 := by
        refine .trans (updHalf_keeps .east _ _ ?_).up (updHalf_keeps .west _ _ ?_).up
        · exact fun _ => HalfUnit.ok_of rfl rfl rfl
        · exact fun _ => HalfUnit.ok_of rfl rfl rfl
      exact Keeps.setBoot (h1.trans h2) fun h => Boot.parallel_ok h.2.1 h.2.2

theorem failSelftest_keeps (h : Half) (s : State) : Keeps 0x19C s (failSelftest h s) := by
  unfold failSelftest
  repeat' (first
    | with_reducible (first
        | apply Keeps.refl | assumption | apply Keeps.then_ ?_ ?_ (report_keeps ..))
    | with_reducible (first | apply Keeps.setBoot) | exact Boot.ok_of rfl rfl rfl | decide)

theorem injectionsDone_keeps (failedWest failedEast : Bool) (s : State) :
    Keeps 0x19C s (injectionsDone failedWest failedEast s) := by
  unfold injectionsDone
  split
  · exact .refl s
  · extract_lets b s1 s2
    have h1 : Keeps 0x19C s s1 := Keeps.setBoot (.refl s) fun h => ⟨(by decide : (6 : Nat) ≤ 7), h.2⟩
    have h2 : Keeps 0x19C s1 s2 := Keeps.ite (failSelftest_keeps ..).up (.refl _)
    exact (h1.trans h2).trans (Keeps.ite (failSelftest_keeps ..).up (.refl _))

theorem serveHalf_keeps (h : Half) (s : State) : Keeps 0x180 s (serveHalf h s) := by
  unfold serveHalf
  repeat' (first
    | with_reducible (first
        | apply Keeps.refl | assumption | apply Keeps.then_ ?_ ?_ (updHalf_keeps _ _ _ ?_))
    | exact (fun _ => HalfUnit.ok_of rfl rfl rfl) | intro _ _ | decide)

theorem firstLeader_keeps (s : State) : Keeps 0x198 s (firstLeader s) := by
  unfold firstLeader
  repeat' (first
    | with_reducible (first
        | apply Keeps.refl | assumption | apply Keeps.then_ ?_ ?_ (leadBy_keeps ..))
    | split | decide)

theorem kindlingDone_keeps (pass : BitVec 18) (s : State) : Keeps 0x39F s (kindlingDone pass s) := by
  unfold kindlingDone
  split
  · exact .refl s
  · extract_lets p s1 s2 b s3
    have h1 : Keeps 0x39F s s1 := (Keeps.trans (placeHalf_keeps ..).up (placeHalf_keeps ..).up)
    have h2 : Keeps 0x39F s1 s2 := ((Keeps.trans (serveHalf_keeps ..).up (serveHalf_keeps ..).up)).trans (firstLeader_keeps ..).up
    have h3 : Keeps 0x39F s2 s3 := by
      refine Keeps.setBoot (.refl s2) fun h => ⟨Nat.le_refl 7, ?_, h.2.2⟩
      dsimp only
      split <;> decide
    exact ((h1.trans h2).trans h3).trans ((Keeps.trans (requestVolts_keeps ..).up ((Keeps.trans (setDevState_keeps ..).up (settleState_keeps ..).up))))

end Sys2Proof.Machine
end

