-- ==== Sys2Proof/Laws/KeepsOutput.lean ====
section
/-! SUPPORT. What the operations of Machine/Output.lean keep (Laws/Keeps.lean). -/
set_option linter.unusedTactic false
set_option linter.unreachableTactic false

namespace Sys2Proof.Machine
set_option Elab.async false

theorem harmlessRecord_keeps (stream : Nat) (seq : Nat) (s : State) :
    Keeps 0x9198 s (harmlessRecord stream seq s) := by
  unfold harmlessRecord
  repeat' (first
    | with_reducible (first
        | apply Keeps.refl | assumption | apply Keeps.then_ ?_ ?_ (emitRecord_keeps ..))
    | decide)

theorem handoverFault_keeps (hoop : Nat) (step : Nat) (j : Job) (cls : FaultClass) (s : State) :
    Keeps 0x197B8 s (handoverFault hoop step j cls s) := by
  unfold handoverFault
  repeat' (first
    | extract_lets
    | with_reducible (first
        | apply Keeps.refl | assumption | apply Keeps.then_ ?_ ?_ (report_keeps ..)
        | apply Keeps.then_ ?_ ?_ (partFault_keeps ..))
    | split | with_reducible (first | apply Keeps.ite) | decide | dsimp +zetaDelta only)

theorem resultHandover_keeps (hoop : Nat) (step : Nat) (s : State) : Keeps 0x197B8 s (resultHandover hoop step s) := by
  unfold resultHandover
  repeat' (first
    | extract_lets
    | with_reducible (first
        | apply Keeps.refl | assumption | apply Keeps.then_ ?_ ?_ (vread_keeps ..)
        | refine Keeps.of1 (by assumption) ?_ | apply Keeps.then_ ?_ ?_ (takeSeq_keeps ..)
        | apply Keeps.then_ ?_ ?_ (readFrames_keeps ..) | apply Keeps.then_ ?_ ?_ (partEnd_keeps ..)
        | apply Keeps.then_ ?_ ?_ (harmlessRecord_keeps ..) | apply Keeps.then_ ?_ ?_ (handoverFault_keeps ..))
    | split | with_reducible (first | apply Keeps.ite | apply Keeps.ite1)
    | with_reducible (first | apply Keeps.setOut) | decide | dsimp +zetaDelta only)

theorem setHand_keeps (x : Handover) (y : Handover) (s : State) : Keeps 0x1000 s (setHand x y s) := by
  unfold setHand
  repeat' (first
    | with_reducible (first
        | apply Keeps.refl | assumption)
    | split | with_reducible (first | apply Keeps.setOut) | decide)

theorem dropHand_keeps (x : Handover) (s : State) : Keeps 0x1000 s (dropHand x s) := by
  unfold dropHand
  repeat' (first
    | with_reducible (first
        | apply Keeps.refl | assumption)
    | with_reducible (first | apply Keeps.setOut) | decide)

theorem decideKey_keeps (h : Half) (x : Handover) (upset : Word) (s : State) :
    Keeps 0x10198 s (decideKey h x upset s).2 := by
  unfold decideKey
  repeat' (first
    | extract_lets
    | with_reducible (first
        | apply Keeps.refl | assumption | apply Keeps.then_ ?_ ?_ (fresh_keeps ..)
        | refine Keeps.of1 (by assumption) ?_ | apply Keeps.then_ ?_ ?_ (report_keeps ..))
    | split | with_reducible (first | apply Keeps.ite | apply Keeps.ite1) | decide | dsimp +zetaDelta only)

theorem keyDecision_keeps (h : Half) (stream : Nat) (upset : Word) (s : State) :
    Keeps 0x11198 s (keyDecision h stream upset s) := by
  unfold keyDecision
  repeat' (first
    | with_reducible (first
        | apply Keeps.refl | assumption | apply Keeps.then_ ?_ ?_ (setHand_keeps ..)
        | apply Keeps.then_ ?_ ?_ (decideKey_keeps ..) | refine Keeps.of1 (by assumption) ?_)
    | split | decide)

theorem pilotMissing_keeps (h : Half) (stream : Nat) (s : State) : Keeps 0x11199 s (pilotMissing h stream s) := by
  unfold pilotMissing
  repeat' (first
    | extract_lets
    | with_reducible (first
        | apply Keeps.refl | assumption | apply Keeps.then_ ?_ ?_ (advanceTo_keeps ..)
        | apply Keeps.then_ ?_ ?_ (setHand_keeps ..) | apply Keeps.then_ ?_ ?_ (decideKey_keeps ..)
        | refine Keeps.of1 (by assumption) ?_)
    | split | with_reducible (first | apply Keeps.ite) | decide | dsimp +zetaDelta only)

theorem countCompare_keeps (h : Half) (cause : Nat) (s : State) : Keeps 0x198 s (countCompare h cause s) := by
  unfold countCompare
  repeat' (first
    | extract_lets
    | with_reducible (first
        | apply Keeps.refl | assumption | apply Keeps.then_ ?_ ?_ (updHalf_keeps _ _ _ ?_)
        | apply Keeps.then_ ?_ ?_ (settleState_keeps ..) | apply Keeps.then_ ?_ ?_ (report_keeps ..))
    | split | with_reducible (first | apply Keeps.ite) | exact (fun _ => HalfUnit.ok_of rfl rfl rfl) | intro _ _
    | decide | dsimp +zetaDelta only)

theorem composeRecord_keeps (x : Handover) (s : State) : Keeps 0x9198 s (composeRecord x s) := by
  unfold composeRecord
  repeat' (first
    | extract_lets
    | with_reducible (first
        | apply Keeps.refl | assumption | apply Keeps.then_ ?_ ?_ (bumpOut_keeps ..)
        | apply Keeps.then_ ?_ ?_ (report_keeps ..) | apply Keeps.then_ ?_ ?_ (emitRecord_keeps ..)
        | apply Keeps.then_ ?_ ?_ (harmlessRecord_keeps ..) | apply Keeps.then_ ?_ ?_ (dropHand_keeps ..)
        | apply Keeps.then_ ?_ ?_ (countCompare_keeps ..))
    | split | with_reducible (first | apply Keeps.ite) | decide | dsimp +zetaDelta only)

theorem recordCompose_keeps (stream : Nat) (s : State) : Keeps 0x9198 s (recordCompose stream s) := by
  unfold recordCompose
  repeat' (first
    | with_reducible (first
        | apply Keeps.refl | assumption | apply Keeps.then_ ?_ ?_ (composeRecord_keeps ..))
    | split | decide)

theorem keyTimeout_keeps (stream : Nat) (s : State) : Keeps 0x9199 s (keyTimeout stream s) := by
  unfold keyTimeout
  repeat' (first
    | with_reducible (first
        | apply Keeps.refl | assumption | apply Keeps.then_ ?_ ?_ (advanceTo_keeps ..)
        | apply Keeps.then_ ?_ ?_ (composeRecord_keeps ..))
    | split | decide)

theorem holdDue_keeps (stream : Nat) (s : State) : Keeps 0x9199 s (holdDue stream s) := by
  unfold holdDue
  repeat' (first
    | extract_lets
    | with_reducible (first
        | apply Keeps.refl | assumption | apply Keeps.then_ ?_ ?_ (advanceTo_keeps ..)
        | apply Keeps.then_ ?_ ?_ (holdRecord_keeps ..))
    | split | with_reducible (first | apply Keeps.ite) | decide | dsimp +zetaDelta only)

theorem writerSwitch_keeps (s : State) : Keeps 0x1198 s (writerSwitch s) := by
  unfold writerSwitch
  repeat' (first
    | extract_lets
    | with_reducible (first
        | apply Keeps.refl | assumption | apply Keeps.then_ ?_ ?_ (report_keeps ..))
    | split | with_reducible (first | apply Keeps.ite) | with_reducible (first | apply Keeps.setOut) | decide
    | dsimp +zetaDelta only)

theorem heartbeat_keeps (h : Half) (s : State) : Keeps 0x183 s (heartbeat h s) := by
  unfold heartbeat
  repeat' (first
    | extract_lets
    | with_reducible (first
        | apply Keeps.refl | assumption | apply Keeps.then_ ?_ ?_ (updHalf_keeps _ _ _ ?_)
        | apply Keeps.then_ ?_ ?_ (advanceTo_keeps ..))
    | split | with_reducible (first | apply Keeps.ite) | with_reducible (first | apply Keeps.setPins)
    | exact (fun _ => HalfUnit.ok_of rfl rfl rfl) | intro _ _ | decide | dsimp +zetaDelta only)

theorem setWithheld_keeps (h : Half) (s : State) : Keeps 0x200 s (setWithheld h s) := by
  unfold setWithheld
  repeat' (first
    | extract_lets
    | with_reducible (first
        | apply Keeps.refl | assumption | apply Keeps.then_ ?_ ?_ (updHoop_keeps ..)
        | apply Keeps.trans ?_ (forEach_keeps _ _ _ ?_))
    | with_reducible (first | apply Keeps.ite) | intro _ _ | decide | dsimp +zetaDelta only)

theorem readChunk_keeps (h : Half) (e : Entry) (chunk : Nat) (s : State) :
    Keeps 0x10780 s (readChunk h e chunk s).2 := by
  unfold readChunk
  repeat' (first
    | with_reducible (first
        | apply Keeps.refl | assumption | apply Keeps.then_ ?_ ?_ (vread_keeps ..)
        | refine Keeps.of1 (by assumption) ?_)
    | decide)

theorem HalfUnit.chunkOk_ok (region chunks : Nat) (u : HalfUnit) (h : u.ok) : (u.chunkOk region chunks).ok := by
  unfold HalfUnit.chunkOk
  split
  · exact h
  · exact HalfUnit.ok_of rfl rfl rfl h

theorem checkChunk_keeps (h : Half) (region chunk : Nat) (s : State) : Keeps 0x10798 s (checkChunk h region chunk s) := by
  rw [checkChunk]
  generalize hr : readChunk h _ chunk s = r
  have hk : Keeps 0x10798 s r.2 := by rw [← hr]; exact (readChunk_keeps ..).up
  have h1 : Keeps 0x10798 s (bumpFg h 7 1 r.2) := hk.trans (bumpFg_keeps ..).up
  refine h1.trans (Keeps.ite (updHalf_keeps _ _ _ (HalfUnit.chunkOk_ok _ _)).up (.trans ?_ (report_keeps ..).up))
  refine (updHalf_keeps _ _ _ ?_).up
  exact fun _ => HalfUnit.ok_of rfl rfl rfl

theorem weightCheck_keeps (h : Half) (s : State) : Keeps 0x10798 s (weightCheck h s) := by
  unfold weightCheck
  repeat' (first
    | extract_lets
    | with_reducible (first
        | apply Keeps.refl | assumption | apply Keeps.then_ ?_ ?_ (updHalf_keeps _ _ _ ?_)
        | apply Keeps.trans ?_ (forEach_keeps _ _ _ ?_) | apply Keeps.then_ ?_ ?_ (setWithheld_keeps ..)
        | apply Keeps.then_ ?_ ?_ (checkChunk_keeps ..))
    | split | with_reducible (first | apply Keeps.ite) | exact (fun _ => HalfUnit.ok_of rfl rfl rfl) | intro _ _
    | decide | dsimp +zetaDelta only)

end Sys2Proof.Machine
end

