-- ==== Sys2Proof/Laws/KeepsRegisters.lean ====
section
/-! SUPPORT. What the operations of Machine/Registers.lean keep (Laws/Keeps.lean). -/
set_option linter.unusedTactic false
set_option linter.unreachableTactic false

namespace Sys2Proof.Machine
set_option Elab.async false

theorem writeDoorbell_keeps (n : Nat) (v : Word) (s : State) : Keeps 0x10 s (writeDoorbell n v s) := by
  unfold writeDoorbell
  repeat' (first
    | extract_lets
    | with_reducible (first
        | apply Keeps.refl | assumption | apply Keeps.then_ ?_ ?_ (updRing_keeps _ _ _ ?_))
    | split | with_reducible (first | apply Keeps.ite) | exact (fun _ h => h) | intro _ _ | decide
    | dsimp +zetaDelta only)

theorem writeRingCtrl_keeps (n : Nat) (enable : Bool) (w1c : Bool) (s : State) :
    Keeps 0x10 s (writeRingCtrl n enable w1c s) := by
  unfold writeRingCtrl
  repeat' (first
    | extract_lets
    | with_reducible (first
        | apply Keeps.refl | assumption | apply Keeps.then_ ?_ ?_ (updRing_keeps _ _ _ ?_))
    | split | with_reducible (first | apply Keeps.ite) | exact (fun _ h => h) | intro _ _ | decide
    | dsimp +zetaDelta only)

theorem writeRingReg_keeps (n : Nat) (reg : RingReg) (v : Word) (s : State) :
    Keeps 0x18 s (writeRingReg n reg v s) := by
  unfold writeRingReg
  repeat' (first
    | with_reducible (first
        | apply Keeps.refl | assumption | apply Keeps.then_ ?_ ?_ (updRing_keeps _ _ _ ?_)
        | apply Keeps.then_ ?_ ?_ (ignoreWrite_keeps ..))
    | split | exact (fun _ h => h) | intro _ _ | decide)

theorem updOut_keeps (r : OutRing) (f : OutPage → OutPage) (s : State) : Keeps 0x10 s (updOut r f s) := by
  unfold updOut
  repeat' (first
    | with_reducible (first
        | apply Keeps.refl | assumption)
    | split | with_reducible (first | apply Keeps.setHost) | exact HostIf.ok_of rfl rfl rfl | decide)

theorem writeOutReg_keeps (reg : OutReg) (v : Word) (s : State) : Keeps 0x18 s (writeOutReg reg v s) := by
  unfold writeOutReg
  repeat' (first
    | with_reducible (first
        | apply Keeps.refl | assumption | apply Keeps.then_ ?_ ?_ (ignoreWrite_keeps ..)
        | apply Keeps.then_ ?_ ?_ (updOut_keeps ..))
    | split | with_reducible (first | apply Keeps.setHost) | exact HostIf.ok_of rfl rfl rfl | decide)

theorem writeDbgBase_keeps (v : Word) (s : State) : Keeps 0x18 s (writeDbgBase v s) := by
  unfold writeDbgBase
  repeat' (first
    | with_reducible (first
        | apply Keeps.refl | assumption | apply Keeps.then_ ?_ ?_ (ignoreWrite_keeps ..))
    | split | with_reducible (first | apply Keeps.setHost) | exact HostIf.ok_of rfl rfl rfl | decide)

theorem writeOutHead_keeps (r : OutRing) (v : Word) (s : State) : Keeps 0x10 s (writeOutHead r v s) := by
  unfold writeOutHead
  repeat' (first
    | with_reducible (first
        | apply Keeps.refl | assumption | apply Keeps.then_ ?_ ?_ (updOut_keeps ..))
    | decide)

theorem writeSpeed_keeps (h : Half) (clear : Bool) (s : State) : Keeps 0x180 s (writeSpeed h clear s) := by
  unfold writeSpeed
  refine Keeps.ite (updHalf_keeps _ _ _ ?_).up (.refl s)
  exact fun _ k => ⟨Nat.zero_le _, Nat.le_refl _, k.2.2⟩

theorem writeGlobal_keeps (off : Nat) (v : Word) (s : State) : Keeps 0x18 s (writeGlobal off v s) := by
  unfold writeGlobal
  repeat' (first
    | with_reducible (first
        | apply Keeps.refl | assumption | apply Keeps.then_ ?_ ?_ (writeOutReg_keeps ..)
        | apply Keeps.then_ ?_ ?_ (writeDbgBase_keeps ..) | apply Keeps.then_ ?_ ?_ (writeOutHead_keeps ..))
    | split | decide)

theorem writeRingPage_keeps (n : Nat) (off : Nat) (v : Word) (s : State) : Keeps 0x18 s (writeRingPage n off v s) := by
  unfold writeRingPage
  repeat' (first
    | with_reducible (first
        | apply Keeps.refl | assumption | apply Keeps.then_ ?_ ?_ (updRing_keeps _ _ _ ?_)
        | apply Keeps.then_ ?_ ?_ (writeDoorbell_keeps ..) | apply Keeps.then_ ?_ ?_ (writeRingCtrl_keeps ..)
        | apply Keeps.then_ ?_ ?_ (writeRingReg_keeps ..))
    | split | exact (fun _ h => h) | intro _ _ | decide)

theorem writeBar0_keeps (off : Nat) (size : Nat) (v : Word) (s : State) : Keeps 0x198 s (writeBar0 off size v s) := by
  unfold writeBar0
  repeat' (first
    | with_reducible (first
        | apply Keeps.refl | assumption | apply Keeps.then_ ?_ ?_ (ignoreWrite_keeps ..)
        | apply Keeps.then_ ?_ ?_ (writeSpeed_keeps ..) | apply Keeps.then_ ?_ ?_ (writeGlobal_keeps ..)
        | apply Keeps.then_ ?_ ?_ (writeRingPage_keeps ..))
    | split | decide)

end Sys2Proof.Machine
end

