-- ==== Sys2Proof/Laws/KeepsReplay.lean ====
section
/-! SUPPORT. What the operations of Machine/Replay.lean keep (Laws/Keeps.lean). -/
set_option linter.unusedTactic false
set_option linter.unreachableTactic false

namespace Sys2Proof.Machine
set_option Elab.async false

theorem stopRecording_keeps (s : State) : Keeps 0x8010 s (stopRecording s) := by
  unfold stopRecording
  repeat' (first
    | extract_lets
    | with_reducible (first
        | apply Keeps.refl | assumption | apply Keeps.then_ ?_ ?_ (writeSinkHead_keeps ..)
        | apply Keeps.then_ ?_ ?_ (placeEntry_keeps ..) | apply Keeps.then_ ?_ ?_ (loseEntry_keeps ..))
    | split | with_reducible (first | apply Keeps.ite | apply Keeps.ite1 | apply Keeps.ite2)
    | with_reducible (first | apply Keeps.setRec) | decide | dsimp +zetaDelta only)

theorem holdDown_keeps (k : Nat) (s : State) : Keeps 0x4000 s (holdDown k s) := by
  unfold holdDown
  repeat' (first
    | with_reducible (first
        | apply Keeps.refl | assumption | apply Keeps.then_ ?_ ?_ (updLink_keeps ..))
    | decide)

theorem setRecordMode_keeps (pkt : List Word) (held : List Byte) (t : Tagged) (s : State) :
    Keeps 0xC010 s (setRecordMode pkt held t s) := by
  unfold setRecordMode
  repeat' (first
    | extract_lets
    | with_reducible (first
        | apply Keeps.refl | assumption | apply Keeps.trans ?_ (forEach_keeps _ _ _ ?_)
        | apply Keeps.then_ ?_ ?_ (writeSinkHead_keeps ..) | apply Keeps.then_ ?_ ?_ (answer_keeps ..)
        | apply Keeps.then_ ?_ ?_ (stopRecording_keeps ..) | apply Keeps.then_ ?_ ?_ (holdDown_keeps ..))
    | split | with_reducible (first | apply Keeps.ite) | with_reducible (first | apply Keeps.setRec) | intro _ _
    | decide | dsimp +zetaDelta only)

theorem feedFrame_keeps (fetched : Nat) (b : List Byte) (s : State) : Keeps 0x10F90 s (feedFrame fetched b s) := by
  unfold feedFrame
  repeat' (first
    | extract_lets
    | with_reducible (first
        | apply Keeps.refl | assumption | apply Keeps.then_ ?_ ?_ (closeFrame_keeps ..)
        | apply Keeps.then_ ?_ ?_ (beginFrame_keeps ..) | apply Keeps.then_ ?_ ?_ (imageLine_keeps ..)
        | apply Keeps.then_ ?_ ?_ (lidarData_keeps ..) | apply Keeps.trans ?_ (forEach_keeps _ _ _ ?_))
    | split | with_reducible (first | apply Keeps.ite | apply Keeps.ite1 | apply Keeps.ite2) | intro _ _ | decide
    | dsimp +zetaDelta only)

theorem feedEntry_keeps (e : List Byte) (s : State) : Keeps 0x1FFF8 s (feedEntry e s) := by
  unfold feedEntry
  repeat' (first
    | extract_lets
    | with_reducible (first
        | apply Keeps.refl | assumption | apply Keeps.then_ ?_ ?_ (takeIdentity_keeps ..)
        | apply Keeps.then_ ?_ ?_ (takePayload_keeps ..) | apply Keeps.then_ ?_ ?_ (tallyAct_keeps ..)
        | refine Keeps.of1 (by assumption) ?_ | apply Keeps.then_ ?_ ?_ (feedFrame_keeps ..))
    | split | with_reducible (first | apply Keeps.ite) | decide | dsimp +zetaDelta only)

theorem replayDeliver_keeps (s : State) : Keeps 0x1FFF8 s (replayDeliver s) := by
  unfold replayDeliver
  repeat' (first
    | with_reducible (first
        | apply Keeps.refl | assumption | apply Keeps.then_ ?_ ?_ (feedEntry_keeps ..))
    | split | with_reducible (first | apply Keeps.setRec) | decide)

end Sys2Proof.Machine
end

