-- ==== Sys2Proof/Laws/KeepsSequencer.lean ====
section
/-! SUPPORT. What the operations of Machine/Sequencer.lean keep (Laws/Keeps.lean). -/
set_option linter.unusedTactic false
set_option linter.unreachableTactic false

namespace Sys2Proof.Machine
set_option Elab.async false

theorem startJob_keeps (pkt : List Word) (t : Tagged) (s : State) : Keeps 0x197B8 s (startJob pkt t s) := by
  unfold startJob
  repeat' (first
    | extract_lets
    | with_reducible (first
        | apply Keeps.refl | assumption | apply Keeps.then_ ?_ ?_ (answer_keeps ..)
        | apply Keeps.then_ ?_ ?_ (accept_keeps ..) | apply Keeps.then_ ?_ ?_ (enqueue_keeps ..))
    | split | with_reducible (first | apply Keeps.ite) | decide | dsimp +zetaDelta only)

theorem cancelJob_keeps (pkt : List Word) (t : Tagged) (s : State) : Keeps 0x197B8 s (cancelJob pkt t s) := by
  unfold cancelJob
  repeat' (first
    | extract_lets
    | with_reducible (first
        | apply Keeps.refl | assumption | apply Keeps.then_ ?_ ?_ (updHoop_keeps ..)
        | apply Keeps.then_ ?_ ?_ (answer_keeps ..) | apply Keeps.then_ ?_ ?_ (closeJob_keeps ..)
        | apply Keeps.then_ ?_ ?_ (endJob_keeps ..))
    | split | with_reducible (first | apply Keeps.ite) | decide | dsimp +zetaDelta only)

theorem knotSet_keeps (pkt : List Word) (t : Tagged) (s : State) : Keeps 0x210 s (knotSet pkt t s) := by
  unfold knotSet
  repeat' (first
    | extract_lets
    | with_reducible (first
        | apply Keeps.refl | assumption | apply Keeps.then_ ?_ ?_ (setKnot_keeps ..)
        | apply Keeps.then_ ?_ ?_ (answer_keeps ..))
    | split | with_reducible (first | apply Keeps.ite) | decide | dsimp +zetaDelta only)

theorem knotRead_keeps (pkt : List Word) (t : Tagged) (s : State) : Keeps 0x10 s (knotRead pkt t s) := by
  unfold knotRead
  repeat' (first
    | extract_lets
    | with_reducible (first
        | apply Keeps.refl | assumption | apply Keeps.then_ ?_ ?_ (answer_keeps ..))
    | split | with_reducible (first | apply Keeps.ite) | decide | dsimp +zetaDelta only)

theorem argumentFault_keeps (hoop : Nat) (j : Job) (cls : FaultClass) (s : State) :
    Keeps 0x197B8 s (argumentFault hoop j cls s) := by
  unfold argumentFault
  repeat' (first
    | extract_lets
    | with_reducible (first
        | apply Keeps.refl | assumption | apply Keeps.then_ ?_ ?_ (report_keeps ..)
        | apply Keeps.then_ ?_ ?_ (endJob_keeps ..))
    | with_reducible (first | apply Keeps.ite) | decide | dsimp +zetaDelta only)

theorem argumentRead_keeps (hoop : Nat) (ecc : Ecc) (s : State) : Keeps 0x197B8 s (argumentRead hoop ecc s) := by
  unfold argumentRead
  repeat' (first
    | extract_lets
    | with_reducible (first
        | apply Keeps.refl | assumption | apply Keeps.then_ ?_ ?_ (updJob_keeps ..)
        | apply Keeps.then_ ?_ ?_ (endJob_keeps ..) | apply Keeps.then_ ?_ ?_ (accessEcc_keeps ..)
        | apply Keeps.then_ ?_ ?_ (argumentFault_keeps ..) | apply Keeps.then_ ?_ ?_ (vread_keeps ..)
        | refine Keeps.of1 (by assumption) ?_)
    | split | with_reducible (first | apply Keeps.ite | apply Keeps.ite1 | apply Keeps.ite2) | intro _ _ | decide
    | dsimp +zetaDelta only)

theorem wedge_keeps (hoop n : Nat) (j : Job) (s : State) : Keeps 0x19798 s (wedge hoop n j s) := by
  unfold wedge
  repeat' (first
    | extract_lets
    | with_reducible (first
        | apply Keeps.refl | assumption | apply Keeps.then_ ?_ ?_ (updJob_keeps ..)
        | apply Keeps.then_ ?_ ?_ (closeJob_keeps ..) | apply Keeps.then_ ?_ ?_ (endHalfJobs_keeps ..)
        | apply Keeps.then_ ?_ ?_ (bumpSeq_keeps ..) | apply Keeps.then_ ?_ ?_ (report_keeps ..))
    | intro _ _ | decide | dsimp +zetaDelta only)

theorem stepWatchdog_keeps (hoop : Nat) (n : Nat) (s : State) : Keeps 0x19798 s (stepWatchdog hoop n s) := by
  unfold stepWatchdog
  repeat' (first
    | with_reducible (first
        | apply Keeps.refl | assumption | apply Keeps.then_ ?_ ?_ (wedge_keeps ..))
    | split | decide)

theorem waitTimeout_keeps (hoop : Nat) (s : State) : Keeps 0x197B8 s (waitTimeout hoop s) := by
  unfold waitTimeout
  repeat' (first
    | extract_lets
    | with_reducible (first
        | apply Keeps.refl | assumption | apply Keeps.then_ ?_ ?_ (bumpSeq_keeps ..)
        | apply Keeps.then_ ?_ ?_ (report_keeps ..) | apply Keeps.then_ ?_ ?_ (settleJob_keeps ..)
        | apply Keeps.then_ ?_ ?_ (noteFault_keeps ..))
    | split | with_reducible (first | apply Keeps.ite) | decide | dsimp +zetaDelta only)

end Sys2Proof.Machine
end

