-- ==== Sys2Proof/Laws/KeepsTick.lean ====
section
/-! SUPPORT. What the operations of Machine/Tick.lean keep (Laws/Keeps.lean). -/
set_option linter.unusedTactic false
set_option linter.unreachableTactic false

namespace Sys2Proof.Machine
set_option Elab.async false

theorem tickHalf_keeps (h : Half) (rate : Nat) (s : State) : Keeps 0x180 s (tickHalf h rate s) := by
  unfold tickHalf
  refine (updHalf_keeps _ _ _ fun u k => ?_).up
  split
  · exact k
  · exact ⟨k.1, Nat.le_trans (Nat.min_le_left _ _) k.2.1, k.2.2⟩

theorem tickTime_keeps (s : State) : Keeps 0x1 s (tickTime s) := by
  unfold tickTime
  repeat' (first
    | extract_lets
    | with_reducible (first
        | apply Keeps.refl | assumption | apply Keeps.then_ ?_ ?_ (advanceTo_keeps ..))
    | with_reducible (first | apply Keeps.ite) | with_reducible (first | apply Keeps.setTime) | decide
    | dsimp +zetaDelta only)

theorem releasePaced_keeps (hoop : Nat) (s : State) : Keeps 0x1D7B8 s (releasePaced hoop s) := by
  unfold releasePaced
  repeat' (first
    | with_reducible (first
        | apply Keeps.refl | assumption | apply Keeps.then_ ?_ ?_ (releaseHoop_keeps ..)
        | apply Keeps.then_ ?_ ?_ (startCollectives_keeps ..))
    | split | decide)

theorem countTick_keeps (s : State) : Keeps 0x1 s (countTick s) := by
  unfold countTick
  repeat' (first
    | with_reducible (first
        | apply Keeps.refl | assumption)
    | split | with_reducible (first | apply Keeps.setTime) | decide)

theorem paceTick_keeps (west : Nat) (east : Nat) (s : State) : Keeps 0x1D7B9 s (paceTick west east s) := by
  unfold paceTick
  repeat' (first
    | extract_lets
    | with_reducible (first
        | apply Keeps.refl | assumption | apply Keeps.trans ?_ (forEach_keeps _ _ _ ?_)
        | apply Keeps.then_ ?_ ?_ (pilotTick_keeps ..) | apply Keeps.then_ ?_ ?_ (tickHalf_keeps ..)
        | apply Keeps.then_ ?_ ?_ (tickTime_keeps ..) | apply Keeps.then_ ?_ ?_ (releasePaced_keeps ..)
        | apply Keeps.then_ ?_ ?_ (countTick_keeps ..))
    | split | with_reducible (first | apply Keeps.ite) | intro _ _ | decide | dsimp +zetaDelta only)

end Sys2Proof.Machine
end

