-- ==== Sys2Proof/Laws/State.lean ====
section
/-! SUPPORT. What an update of one unit of the state leaves, field by field, and what a unit reads after an update. -/
namespace Sys2Proof.Machine
set_option Elab.async false

/-! ### A unit read after an update -/

@[simp] theorem updRing_self (n : Nat) (f : RingPage → RingPage) (s : State) : (updRing n f s).ring n = f (s.ring n) :=
  Tab.get_upd_self _ _ _ _

theorem updRing_ne (n : Nat) (f : RingPage → RingPage) (s : State) {k : Nat} (h : k ≠ n) : (updRing n f s).ring k = s.ring k :=
  Tab.get_upd_ne _ _ _ h

@[simp] theorem updHearth_self (n : Nat) (f : Hearth → Hearth) (s : State) : (updHearth n f s).hearth n = f (s.hearth n) :=
  Tab.get_upd_self _ _ _ _

theorem updHearth_ne (n : Nat) (f : Hearth → Hearth) (s : State) {k : Nat} (h : k ≠ n) : (updHearth n f s).hearth k = s.hearth k :=
  Tab.get_upd_ne _ _ _ h

@[simp] theorem updPlace_self (n : Nat) (f : Place → Place) (s : State) : (updPlace n f s).place n = f (s.place n) :=
  Tab.get_set_self _ _ _ _

theorem updPlace_ne (n : Nat) (f : Place → Place) (s : State) {k : Nat} (h : k ≠ n) : (updPlace n f s).place k = s.place k :=
  Tab.get_set_ne _ _ _ h

@[simp] theorem updHoop_self (n : Nat) (f : HoopUnit → HoopUnit) (s : State) : (updHoop n f s).hoop n = f (s.hoop n) :=
  Tab.get_upd_self _ _ _ _

theorem updHoop_ne (n : Nat) (f : HoopUnit → HoopUnit) (s : State) {k : Nat} (h : k ≠ n) : (updHoop n f s).hoop k = s.hoop k :=
  Tab.get_upd_ne _ _ _ h

@[simp] theorem updDamper_self (n : Nat) (f : Damper → Damper) (s : State) : (updDamper n f s).damper n = f (s.damper n) :=
  Tab.get_upd_self _ _ _ _

theorem updDamper_ne (n : Nat) (f : Damper → Damper) (s : State) {k : Nat} (h : k ≠ n) : (updDamper n f s).damper k = s.damper k :=
  Tab.get_upd_ne _ _ _ h

@[simp] theorem updChan_self (n : Nat) (f : Channel → Channel) (s : State) : (updChan n f s).chan n = f (s.chan n) :=
  Tab.get_upd_self _ _ _ _

theorem updChan_ne (n : Nat) (f : Channel → Channel) (s : State) {k : Nat} (h : k ≠ n) : (updChan n f s).chan k = s.chan k :=
  Tab.get_upd_ne _ _ _ h

@[simp] theorem updKey_self (n : Nat) (f : Key → Key) (s : State) : (updKey n f s).key n = f (s.key n) :=
  Tab.get_upd_self _ _ _ _

theorem updKey_ne (n : Nat) (f : Key → Key) (s : State) {k : Nat} (h : k ≠ n) : (updKey n f s).key k = s.key k :=
  Tab.get_upd_ne _ _ _ h

@[simp] theorem updPort_self (n : Nat) (f : Port → Port) (s : State) : (updPort n f s).port n = f (s.port n) :=
  Tab.get_upd_self _ _ _ _

theorem updPort_ne (n : Nat) (f : Port → Port) (s : State) {k : Nat} (h : k ≠ n) : (updPort n f s).port k = s.port k :=
  Tab.get_upd_ne _ _ _ h

@[simp] theorem updDec_self (n : Nat) (f : Decoder → Decoder) (s : State) : (updDec n f s).dec n = f (s.dec n) :=
  Tab.get_upd_self _ _ _ _

theorem updDec_ne (n : Nat) (f : Decoder → Decoder) (s : State) {k : Nat} (h : k ≠ n) : (updDec n f s).dec k = s.dec k :=
  Tab.get_upd_ne _ _ _ h

@[simp] theorem updLink_self (n : Nat) (f : Link → Link) (s : State) : (updLink n f s).klink n = f (s.klink n) :=
  Tab.get_upd_self _ _ _ _

theorem updLink_ne (n : Nat) (f : Link → Link) (s : State) {k : Nat} (h : k ≠ n) : (updLink n f s).klink k = s.klink k :=
  Tab.get_upd_ne _ _ _ h

@[simp] theorem updStream_self (n : Nat) (f : Stream → Stream) (s : State) : (updStream n f s).stream n = f (s.stream n) :=
  Tab.get_upd_self _ _ _ _

theorem updStream_ne (n : Nat) (f : Stream → Stream) (s : State) {k : Nat} (h : k ≠ n) : (updStream n f s).stream k = s.stream k :=
  Tab.get_upd_ne _ _ _ h

@[simp] theorem setKnot_self (n v : Nat) (s : State) : (setKnot n v s).knot n = BitVec.ofNat 32 v := Tab.get_set_self _ _ _ _

theorem setKnot_ne (n v : Nat) (s : State) {k : Nat} (h : k ≠ n) : (setKnot n v s).knot k = s.knot k :=
  Tab.get_set_ne _ _ _ h

@[simp] theorem updHalf_self (h : Half) (f : HalfUnit → HalfUnit) (s : State) : (updHalf h f s).half h = f (s.half h) := by
  cases h <;> rfl

@[simp] theorem updHalf_other (h : Half) (f : HalfUnit → HalfUnit) (s : State) :
    (updHalf h f s).half h.other = s.half h.other := by
  cases h <;> rfl

@[simp] theorem updPilot_self (h : Half) (f : Pilot → Pilot) (s : State) : (updPilot h f s).pilot h = f (s.pilot h) := by
  cases h <;> rfl

@[simp] theorem updPilot_other (h : Half) (f : Pilot → Pilot) (s : State) :
    (updPilot h f s).pilot h.other = s.pilot h.other := by
  cases h <;> rfl

/-! ### Fields that an update leaves alone -/

@[simp] theorem updHalf_pending (h : Half) (f : HalfUnit → HalfUnit) (s : State) : (updHalf h f s).pending = s.pending := by cases h <;> rfl
@[simp] theorem updHalf_freeCtr (h : Half) (f : HalfUnit → HalfUnit) (s : State) : (updHalf h f s).freeCtr = s.freeCtr := by cases h <;> rfl
@[simp] theorem updHalf_part (h : Half) (f : HalfUnit → HalfUnit) (s : State) : (updHalf h f s).part = s.part := by cases h <;> rfl
@[simp] theorem updHalf_time (h : Half) (f : HalfUnit → HalfUnit) (s : State) : (updHalf h f s).time = s.time := by cases h <;> rfl
@[simp] theorem updHalf_pins (h : Half) (f : HalfUnit → HalfUnit) (s : State) : (updHalf h f s).pins = s.pins := by cases h <;> rfl
@[simp] theorem updHalf_boot (h : Half) (f : HalfUnit → HalfUnit) (s : State) : (updHalf h f s).boot = s.boot := by cases h <;> rfl
@[simp] theorem updHalf_dev (h : Half) (f : HalfUnit → HalfUnit) (s : State) : (updHalf h f s).dev = s.dev := by cases h <;> rfl
@[simp] theorem updHalf_host (h : Half) (f : HalfUnit → HalfUnit) (s : State) : (updHalf h f s).host = s.host := by cases h <;> rfl
@[simp] theorem updHalf_img (h : Half) (f : HalfUnit → HalfUnit) (s : State) : (updHalf h f s).img = s.img := by cases h <;> rfl
@[simp] theorem updHalf_pools (h : Half) (f : HalfUnit → HalfUnit) (s : State) : (updHalf h f s).pools = s.pools := by cases h <;> rfl
@[simp] theorem updHalf_seq (h : Half) (f : HalfUnit → HalfUnit) (s : State) : (updHalf h f s).seq = s.seq := by cases h <;> rfl
@[simp] theorem updHalf_mem (h : Half) (f : HalfUnit → HalfUnit) (s : State) : (updHalf h f s).mem = s.mem := by cases h <;> rfl
@[simp] theorem updHalf_intake (h : Half) (f : HalfUnit → HalfUnit) (s : State) : (updHalf h f s).intake = s.intake := by cases h <;> rfl
@[simp] theorem updHalf_out (h : Half) (f : HalfUnit → HalfUnit) (s : State) : (updHalf h f s).out = s.out := by cases h <;> rfl
@[simp] theorem updHalf_tally (h : Half) (f : HalfUnit → HalfUnit) (s : State) : (updHalf h f s).tally = s.tally := by cases h <;> rfl
@[simp] theorem updHalf_link (h : Half) (f : HalfUnit → HalfUnit) (s : State) : (updHalf h f s).link = s.link := by cases h <;> rfl
@[simp] theorem updHalf_rec_ (h : Half) (f : HalfUnit → HalfUnit) (s : State) : (updHalf h f s).rec_ = s.rec_ := by cases h <;> rfl
@[simp] theorem updPilot_pending (h : Half) (f : Pilot → Pilot) (s : State) : (updPilot h f s).pending = s.pending := by cases h <;> rfl
@[simp] theorem updPilot_freeCtr (h : Half) (f : Pilot → Pilot) (s : State) : (updPilot h f s).freeCtr = s.freeCtr := by cases h <;> rfl
@[simp] theorem updPilot_part (h : Half) (f : Pilot → Pilot) (s : State) : (updPilot h f s).part = s.part := by cases h <;> rfl
@[simp] theorem updPilot_time (h : Half) (f : Pilot → Pilot) (s : State) : (updPilot h f s).time = s.time := by cases h <;> rfl
@[simp] theorem updPilot_pins (h : Half) (f : Pilot → Pilot) (s : State) : (updPilot h f s).pins = s.pins := by cases h <;> rfl
@[simp] theorem updPilot_boot (h : Half) (f : Pilot → Pilot) (s : State) : (updPilot h f s).boot = s.boot := by cases h <;> rfl
@[simp] theorem updPilot_dev (h : Half) (f : Pilot → Pilot) (s : State) : (updPilot h f s).dev = s.dev := by cases h <;> rfl
@[simp] theorem updPilot_host (h : Half) (f : Pilot → Pilot) (s : State) : (updPilot h f s).host = s.host := by cases h <;> rfl
@[simp] theorem updPilot_img (h : Half) (f : Pilot → Pilot) (s : State) : (updPilot h f s).img = s.img := by cases h <;> rfl
@[simp] theorem updPilot_pools (h : Half) (f : Pilot → Pilot) (s : State) : (updPilot h f s).pools = s.pools := by cases h <;> rfl
@[simp] theorem updPilot_west (h : Half) (f : Pilot → Pilot) (s : State) : (updPilot h f s).west = s.west := by cases h <;> rfl
@[simp] theorem updPilot_east (h : Half) (f : Pilot → Pilot) (s : State) : (updPilot h f s).east = s.east := by cases h <;> rfl
@[simp] theorem updPilot_seq (h : Half) (f : Pilot → Pilot) (s : State) : (updPilot h f s).seq = s.seq := by cases h <;> rfl
@[simp] theorem updPilot_mem (h : Half) (f : Pilot → Pilot) (s : State) : (updPilot h f s).mem = s.mem := by cases h <;> rfl
@[simp] theorem updPilot_intake (h : Half) (f : Pilot → Pilot) (s : State) : (updPilot h f s).intake = s.intake := by cases h <;> rfl
@[simp] theorem updPilot_tally (h : Half) (f : Pilot → Pilot) (s : State) : (updPilot h f s).tally = s.tally := by cases h <;> rfl
@[simp] theorem updPilot_link (h : Half) (f : Pilot → Pilot) (s : State) : (updPilot h f s).link = s.link := by cases h <;> rfl
@[simp] theorem updPilot_rec_ (h : Half) (f : Pilot → Pilot) (s : State) : (updPilot h f s).rec_ = s.rec_ := by cases h <;> rfl

@[simp] theorem updRing_pending (n : Nat) (f : RingPage → RingPage) (s : State) : (updRing n f s).pending = s.pending := rfl
@[simp] theorem updRing_freeCtr (n : Nat) (f : RingPage → RingPage) (s : State) : (updRing n f s).freeCtr = s.freeCtr := rfl
@[simp] theorem updRing_part (n : Nat) (f : RingPage → RingPage) (s : State) : (updRing n f s).part = s.part := rfl
@[simp] theorem updRing_time (n : Nat) (f : RingPage → RingPage) (s : State) : (updRing n f s).time = s.time := rfl
@[simp] theorem updRing_pins (n : Nat) (f : RingPage → RingPage) (s : State) : (updRing n f s).pins = s.pins := rfl
@[simp] theorem updRing_boot (n : Nat) (f : RingPage → RingPage) (s : State) : (updRing n f s).boot = s.boot := rfl
@[simp] theorem updRing_dev (n : Nat) (f : RingPage → RingPage) (s : State) : (updRing n f s).dev = s.dev := rfl
@[simp] theorem updRing_img (n : Nat) (f : RingPage → RingPage) (s : State) : (updRing n f s).img = s.img := rfl
@[simp] theorem updRing_pools (n : Nat) (f : RingPage → RingPage) (s : State) : (updRing n f s).pools = s.pools := rfl
@[simp] theorem updRing_west (n : Nat) (f : RingPage → RingPage) (s : State) : (updRing n f s).west = s.west := rfl
@[simp] theorem updRing_east (n : Nat) (f : RingPage → RingPage) (s : State) : (updRing n f s).east = s.east := rfl
@[simp] theorem updRing_seq (n : Nat) (f : RingPage → RingPage) (s : State) : (updRing n f s).seq = s.seq := rfl
@[simp] theorem updRing_mem (n : Nat) (f : RingPage → RingPage) (s : State) : (updRing n f s).mem = s.mem := rfl
@[simp] theorem updRing_intake (n : Nat) (f : RingPage → RingPage) (s : State) : (updRing n f s).intake = s.intake := rfl
@[simp] theorem updRing_out (n : Nat) (f : RingPage → RingPage) (s : State) : (updRing n f s).out = s.out := rfl
@[simp] theorem updRing_tally (n : Nat) (f : RingPage → RingPage) (s : State) : (updRing n f s).tally = s.tally := rfl
@[simp] theorem updRing_link (n : Nat) (f : RingPage → RingPage) (s : State) : (updRing n f s).link = s.link := rfl
@[simp] theorem updRing_rec_ (n : Nat) (f : RingPage → RingPage) (s : State) : (updRing n f s).rec_ = s.rec_ := rfl
@[simp] theorem updRing_host_statusBlock (n : Nat) (f : RingPage → RingPage) (s : State) : (updRing n f s).host.statusBlock = s.host.statusBlock := rfl
@[simp] theorem updRing_host_dbgBase (n : Nat) (f : RingPage → RingPage) (s : State) : (updRing n f s).host.dbgBase = s.host.dbgBase := rfl
@[simp] theorem updRing_host_event (n : Nat) (f : RingPage → RingPage) (s : State) : (updRing n f s).host.event = s.host.event := rfl
@[simp] theorem updRing_host_fault (n : Nat) (f : RingPage → RingPage) (s : State) : (updRing n f s).host.fault = s.host.fault := rfl
@[simp] theorem updRing_host_result (n : Nat) (f : RingPage → RingPage) (s : State) : (updRing n f s).host.result = s.host.result := rfl
@[simp] theorem updRing_host_fallback (n : Nat) (f : RingPage → RingPage) (s : State) : (updRing n f s).host.fallback = s.host.fallback := rfl
@[simp] theorem updRing_host_evrLost (n : Nat) (f : RingPage → RingPage) (s : State) : (updRing n f s).host.evrLost = s.host.evrLost := rfl
@[simp] theorem updRing_host_adminLast (n : Nat) (f : RingPage → RingPage) (s : State) : (updRing n f s).host.adminLast = s.host.adminLast := rfl
@[simp] theorem updRing_host_lastRing (n : Nat) (f : RingPage → RingPage) (s : State) : (updRing n f s).host.lastRing = s.host.lastRing := rfl
@[simp] theorem updRing_host_mem (n : Nat) (f : RingPage → RingPage) (s : State) : (updRing n f s).host.mem = s.host.mem := rfl
@[simp] theorem updHearth_pending (n : Nat) (f : Hearth → Hearth) (s : State) : (updHearth n f s).pending = s.pending := rfl
@[simp] theorem updHearth_freeCtr (n : Nat) (f : Hearth → Hearth) (s : State) : (updHearth n f s).freeCtr = s.freeCtr := rfl
@[simp] theorem updHearth_part (n : Nat) (f : Hearth → Hearth) (s : State) : (updHearth n f s).part = s.part := rfl
@[simp] theorem updHearth_time (n : Nat) (f : Hearth → Hearth) (s : State) : (updHearth n f s).time = s.time := rfl
@[simp] theorem updHearth_pins (n : Nat) (f : Hearth → Hearth) (s : State) : (updHearth n f s).pins = s.pins := rfl
@[simp] theorem updHearth_boot (n : Nat) (f : Hearth → Hearth) (s : State) : (updHearth n f s).boot = s.boot := rfl
@[simp] theorem updHearth_dev (n : Nat) (f : Hearth → Hearth) (s : State) : (updHearth n f s).dev = s.dev := rfl
@[simp] theorem updHearth_host (n : Nat) (f : Hearth → Hearth) (s : State) : (updHearth n f s).host = s.host := rfl
@[simp] theorem updHearth_img (n : Nat) (f : Hearth → Hearth) (s : State) : (updHearth n f s).img = s.img := rfl
@[simp] theorem updHearth_pools (n : Nat) (f : Hearth → Hearth) (s : State) : (updHearth n f s).pools = s.pools := rfl
@[simp] theorem updHearth_west (n : Nat) (f : Hearth → Hearth) (s : State) : (updHearth n f s).west = s.west := rfl
@[simp] theorem updHearth_east (n : Nat) (f : Hearth → Hearth) (s : State) : (updHearth n f s).east = s.east := rfl
@[simp] theorem updHearth_mem (n : Nat) (f : Hearth → Hearth) (s : State) : (updHearth n f s).mem = s.mem := rfl
@[simp] theorem updHearth_intake (n : Nat) (f : Hearth → Hearth) (s : State) : (updHearth n f s).intake = s.intake := rfl
@[simp] theorem updHearth_out (n : Nat) (f : Hearth → Hearth) (s : State) : (updHearth n f s).out = s.out := rfl
@[simp] theorem updHearth_tally (n : Nat) (f : Hearth → Hearth) (s : State) : (updHearth n f s).tally = s.tally := rfl
@[simp] theorem updHearth_link (n : Nat) (f : Hearth → Hearth) (s : State) : (updHearth n f s).link = s.link := rfl
@[simp] theorem updHearth_rec_ (n : Nat) (f : Hearth → Hearth) (s : State) : (updHearth n f s).rec_ = s.rec_ := rfl
@[simp] theorem updHearth_seq_knots (n : Nat) (f : Hearth → Hearth) (s : State) : (updHearth n f s).seq.knots = s.seq.knots := rfl
@[simp] theorem updHearth_seq_hoops (n : Nat) (f : Hearth → Hearth) (s : State) : (updHearth n f s).seq.hoops = s.seq.hoops := rfl
@[simp] theorem updHearth_seq_vtime (n : Nat) (f : Hearth → Hearth) (s : State) : (updHearth n f s).seq.vtime = s.seq.vtime := rfl
@[simp] theorem updHearth_seq_places (n : Nat) (f : Hearth → Hearth) (s : State) : (updHearth n f s).seq.places = s.seq.places := rfl
@[simp] theorem updPlace_pending (n : Nat) (f : Place → Place) (s : State) : (updPlace n f s).pending = s.pending := rfl
@[simp] theorem updPlace_freeCtr (n : Nat) (f : Place → Place) (s : State) : (updPlace n f s).freeCtr = s.freeCtr := rfl
@[simp] theorem updPlace_part (n : Nat) (f : Place → Place) (s : State) : (updPlace n f s).part = s.part := rfl
@[simp] theorem updPlace_time (n : Nat) (f : Place → Place) (s : State) : (updPlace n f s).time = s.time := rfl
@[simp] theorem updPlace_pins (n : Nat) (f : Place → Place) (s : State) : (updPlace n f s).pins = s.pins := rfl
@[simp] theorem updPlace_boot (n : Nat) (f : Place → Place) (s : State) : (updPlace n f s).boot = s.boot := rfl
@[simp] theorem updPlace_dev (n : Nat) (f : Place → Place) (s : State) : (updPlace n f s).dev = s.dev := rfl
@[simp] theorem updPlace_host (n : Nat) (f : Place → Place) (s : State) : (updPlace n f s).host = s.host := rfl
@[simp] theorem updPlace_img (n : Nat) (f : Place → Place) (s : State) : (updPlace n f s).img = s.img := rfl
@[simp] theorem updPlace_pools (n : Nat) (f : Place → Place) (s : State) : (updPlace n f s).pools = s.pools := rfl
@[simp] theorem updPlace_west (n : Nat) (f : Place → Place) (s : State) : (updPlace n f s).west = s.west := rfl
@[simp] theorem updPlace_east (n : Nat) (f : Place → Place) (s : State) : (updPlace n f s).east = s.east := rfl
@[simp] theorem updPlace_mem (n : Nat) (f : Place → Place) (s : State) : (updPlace n f s).mem = s.mem := rfl
@[simp] theorem updPlace_intake (n : Nat) (f : Place → Place) (s : State) : (updPlace n f s).intake = s.intake := rfl
@[simp] theorem updPlace_out (n : Nat) (f : Place → Place) (s : State) : (updPlace n f s).out = s.out := rfl
@[simp] theorem updPlace_tally (n : Nat) (f : Place → Place) (s : State) : (updPlace n f s).tally = s.tally := rfl
@[simp] theorem updPlace_link (n : Nat) (f : Place → Place) (s : State) : (updPlace n f s).link = s.link := rfl
@[simp] theorem updPlace_rec_ (n : Nat) (f : Place → Place) (s : State) : (updPlace n f s).rec_ = s.rec_ := rfl
@[simp] theorem updPlace_seq_knots (n : Nat) (f : Place → Place) (s : State) : (updPlace n f s).seq.knots = s.seq.knots := rfl
@[simp] theorem updPlace_seq_hoops (n : Nat) (f : Place → Place) (s : State) : (updPlace n f s).seq.hoops = s.seq.hoops := rfl
@[simp] theorem updPlace_seq_vtime (n : Nat) (f : Place → Place) (s : State) : (updPlace n f s).seq.vtime = s.seq.vtime := rfl
@[simp] theorem updPlace_seq_hearths (n : Nat) (f : Place → Place) (s : State) : (updPlace n f s).seq.hearths = s.seq.hearths := rfl
@[simp] theorem updHoop_pending (n : Nat) (f : HoopUnit → HoopUnit) (s : State) : (updHoop n f s).pending = s.pending := rfl
@[simp] theorem updHoop_freeCtr (n : Nat) (f : HoopUnit → HoopUnit) (s : State) : (updHoop n f s).freeCtr = s.freeCtr := rfl
@[simp] theorem updHoop_part (n : Nat) (f : HoopUnit → HoopUnit) (s : State) : (updHoop n f s).part = s.part := rfl
@[simp] theorem updHoop_time (n : Nat) (f : HoopUnit → HoopUnit) (s : State) : (updHoop n f s).time = s.time := rfl
@[simp] theorem updHoop_pins (n : Nat) (f : HoopUnit → HoopUnit) (s : State) : (updHoop n f s).pins = s.pins := rfl
@[simp] theorem updHoop_boot (n : Nat) (f : HoopUnit → HoopUnit) (s : State) : (updHoop n f s).boot = s.boot := rfl
@[simp] theorem updHoop_dev (n : Nat) (f : HoopUnit → HoopUnit) (s : State) : (updHoop n f s).dev = s.dev := rfl
@[simp] theorem updHoop_host (n : Nat) (f : HoopUnit → HoopUnit) (s : State) : (updHoop n f s).host = s.host := rfl
@[simp] theorem updHoop_img (n : Nat) (f : HoopUnit → HoopUnit) (s : State) : (updHoop n f s).img = s.img := rfl
@[simp] theorem updHoop_pools (n : Nat) (f : HoopUnit → HoopUnit) (s : State) : (updHoop n f s).pools = s.pools := rfl
@[simp] theorem updHoop_west (n : Nat) (f : HoopUnit → HoopUnit) (s : State) : (updHoop n f s).west = s.west := rfl
@[simp] theorem updHoop_east (n : Nat) (f : HoopUnit → HoopUnit) (s : State) : (updHoop n f s).east = s.east := rfl
@[simp] theorem updHoop_mem (n : Nat) (f : HoopUnit → HoopUnit) (s : State) : (updHoop n f s).mem = s.mem := rfl
@[simp] theorem updHoop_intake (n : Nat) (f : HoopUnit → HoopUnit) (s : State) : (updHoop n f s).intake = s.intake := rfl
@[simp] theorem updHoop_out (n : Nat) (f : HoopUnit → HoopUnit) (s : State) : (updHoop n f s).out = s.out := rfl
@[simp] theorem updHoop_tally (n : Nat) (f : HoopUnit → HoopUnit) (s : State) : (updHoop n f s).tally = s.tally := rfl
@[simp] theorem updHoop_link (n : Nat) (f : HoopUnit → HoopUnit) (s : State) : (updHoop n f s).link = s.link := rfl
@[simp] theorem updHoop_rec_ (n : Nat) (f : HoopUnit → HoopUnit) (s : State) : (updHoop n f s).rec_ = s.rec_ := rfl
@[simp] theorem updHoop_seq_knots (n : Nat) (f : HoopUnit → HoopUnit) (s : State) : (updHoop n f s).seq.knots = s.seq.knots := rfl
@[simp] theorem updHoop_seq_vtime (n : Nat) (f : HoopUnit → HoopUnit) (s : State) : (updHoop n f s).seq.vtime = s.seq.vtime := rfl
@[simp] theorem updHoop_seq_places (n : Nat) (f : HoopUnit → HoopUnit) (s : State) : (updHoop n f s).seq.places = s.seq.places := rfl
@[simp] theorem updHoop_seq_hearths (n : Nat) (f : HoopUnit → HoopUnit) (s : State) : (updHoop n f s).seq.hearths = s.seq.hearths := rfl
@[simp] theorem setKnot_pending (n v : Nat) (s : State) : (setKnot n v s).pending = s.pending := rfl
@[simp] theorem setKnot_freeCtr (n v : Nat) (s : State) : (setKnot n v s).freeCtr = s.freeCtr := rfl
@[simp] theorem setKnot_part (n v : Nat) (s : State) : (setKnot n v s).part = s.part := rfl
@[simp] theorem setKnot_time (n v : Nat) (s : State) : (setKnot n v s).time = s.time := rfl
@[simp] theorem setKnot_pins (n v : Nat) (s : State) : (setKnot n v s).pins = s.pins := rfl
@[simp] theorem setKnot_boot (n v : Nat) (s : State) : (setKnot n v s).boot = s.boot := rfl
@[simp] theorem setKnot_dev (n v : Nat) (s : State) : (setKnot n v s).dev = s.dev := rfl
@[simp] theorem setKnot_host (n v : Nat) (s : State) : (setKnot n v s).host = s.host := rfl
@[simp] theorem setKnot_img (n v : Nat) (s : State) : (setKnot n v s).img = s.img := rfl
@[simp] theorem setKnot_pools (n v : Nat) (s : State) : (setKnot n v s).pools = s.pools := rfl
@[simp] theorem setKnot_west (n v : Nat) (s : State) : (setKnot n v s).west = s.west := rfl
@[simp] theorem setKnot_east (n v : Nat) (s : State) : (setKnot n v s).east = s.east := rfl
@[simp] theorem setKnot_mem (n v : Nat) (s : State) : (setKnot n v s).mem = s.mem := rfl
@[simp] theorem setKnot_intake (n v : Nat) (s : State) : (setKnot n v s).intake = s.intake := rfl
@[simp] theorem setKnot_out (n v : Nat) (s : State) : (setKnot n v s).out = s.out := rfl
@[simp] theorem setKnot_tally (n v : Nat) (s : State) : (setKnot n v s).tally = s.tally := rfl
@[simp] theorem setKnot_link (n v : Nat) (s : State) : (setKnot n v s).link = s.link := rfl
@[simp] theorem setKnot_rec_ (n v : Nat) (s : State) : (setKnot n v s).rec_ = s.rec_ := rfl
@[simp] theorem setKnot_seq_hoops (n v : Nat) (s : State) : (setKnot n v s).seq.hoops = s.seq.hoops := rfl
@[simp] theorem setKnot_seq_vtime (n v : Nat) (s : State) : (setKnot n v s).seq.vtime = s.seq.vtime := rfl
@[simp] theorem setKnot_seq_places (n v : Nat) (s : State) : (setKnot n v s).seq.places = s.seq.places := rfl
@[simp] theorem setKnot_seq_hearths (n v : Nat) (s : State) : (setKnot n v s).seq.hearths = s.seq.hearths := rfl
@[simp] theorem updDamper_pending (n : Nat) (f : Damper → Damper) (s : State) : (updDamper n f s).pending = s.pending := rfl
@[simp] theorem updDamper_freeCtr (n : Nat) (f : Damper → Damper) (s : State) : (updDamper n f s).freeCtr = s.freeCtr := rfl
@[simp] theorem updDamper_part (n : Nat) (f : Damper → Damper) (s : State) : (updDamper n f s).part = s.part := rfl
@[simp] theorem updDamper_time (n : Nat) (f : Damper → Damper) (s : State) : (updDamper n f s).time = s.time := rfl
@[simp] theorem updDamper_pins (n : Nat) (f : Damper → Damper) (s : State) : (updDamper n f s).pins = s.pins := rfl
@[simp] theorem updDamper_boot (n : Nat) (f : Damper → Damper) (s : State) : (updDamper n f s).boot = s.boot := rfl
@[simp] theorem updDamper_dev (n : Nat) (f : Damper → Damper) (s : State) : (updDamper n f s).dev = s.dev := rfl
@[simp] theorem updDamper_host (n : Nat) (f : Damper → Damper) (s : State) : (updDamper n f s).host = s.host := rfl
@[simp] theorem updDamper_img (n : Nat) (f : Damper → Damper) (s : State) : (updDamper n f s).img = s.img := rfl
@[simp] theorem updDamper_pools (n : Nat) (f : Damper → Damper) (s : State) : (updDamper n f s).pools = s.pools := rfl
@[simp] theorem updDamper_west (n : Nat) (f : Damper → Damper) (s : State) : (updDamper n f s).west = s.west := rfl
@[simp] theorem updDamper_east (n : Nat) (f : Damper → Damper) (s : State) : (updDamper n f s).east = s.east := rfl
@[simp] theorem updDamper_seq (n : Nat) (f : Damper → Damper) (s : State) : (updDamper n f s).seq = s.seq := rfl
@[simp] theorem updDamper_intake (n : Nat) (f : Damper → Damper) (s : State) : (updDamper n f s).intake = s.intake := rfl
@[simp] theorem updDamper_out (n : Nat) (f : Damper → Damper) (s : State) : (updDamper n f s).out = s.out := rfl
@[simp] theorem updDamper_tally (n : Nat) (f : Damper → Damper) (s : State) : (updDamper n f s).tally = s.tally := rfl
@[simp] theorem updDamper_link (n : Nat) (f : Damper → Damper) (s : State) : (updDamper n f s).link = s.link := rfl
@[simp] theorem updDamper_rec_ (n : Nat) (f : Damper → Damper) (s : State) : (updDamper n f s).rec_ = s.rec_ := rfl
@[simp] theorem updDamper_mem_dram (n : Nat) (f : Damper → Damper) (s : State) : (updDamper n f s).mem.dram = s.mem.dram := rfl
@[simp] theorem updDamper_mem_shared (n : Nat) (f : Damper → Damper) (s : State) : (updDamper n f s).mem.shared = s.mem.shared := rfl
@[simp] theorem updDamper_mem_local0 (n : Nat) (f : Damper → Damper) (s : State) : (updDamper n f s).mem.local0 = s.mem.local0 := rfl
@[simp] theorem updDamper_mem_local1 (n : Nat) (f : Damper → Damper) (s : State) : (updDamper n f s).mem.local1 = s.mem.local1 := rfl
@[simp] theorem updDamper_mem_channels (n : Nat) (f : Damper → Damper) (s : State) : (updDamper n f s).mem.channels = s.mem.channels := rfl
@[simp] theorem updDamper_mem_portCache (n : Nat) (f : Damper → Damper) (s : State) : (updDamper n f s).mem.portCache = s.mem.portCache := rfl
@[simp] theorem updDamper_mem_copyCache (n : Nat) (f : Damper → Damper) (s : State) : (updDamper n f s).mem.copyCache = s.mem.copyCache := rfl
@[simp] theorem updChan_pending (n : Nat) (f : Channel → Channel) (s : State) : (updChan n f s).pending = s.pending := rfl
@[simp] theorem updChan_freeCtr (n : Nat) (f : Channel → Channel) (s : State) : (updChan n f s).freeCtr = s.freeCtr := rfl
@[simp] theorem updChan_part (n : Nat) (f : Channel → Channel) (s : State) : (updChan n f s).part = s.part := rfl
@[simp] theorem updChan_time (n : Nat) (f : Channel → Channel) (s : State) : (updChan n f s).time = s.time := rfl
@[simp] theorem updChan_pins (n : Nat) (f : Channel → Channel) (s : State) : (updChan n f s).pins = s.pins := rfl
@[simp] theorem updChan_boot (n : Nat) (f : Channel → Channel) (s : State) : (updChan n f s).boot = s.boot := rfl
@[simp] theorem updChan_dev (n : Nat) (f : Channel → Channel) (s : State) : (updChan n f s).dev = s.dev := rfl
@[simp] theorem updChan_host (n : Nat) (f : Channel → Channel) (s : State) : (updChan n f s).host = s.host := rfl
@[simp] theorem updChan_img (n : Nat) (f : Channel → Channel) (s : State) : (updChan n f s).img = s.img := rfl
@[simp] theorem updChan_pools (n : Nat) (f : Channel → Channel) (s : State) : (updChan n f s).pools = s.pools := rfl
@[simp] theorem updChan_west (n : Nat) (f : Channel → Channel) (s : State) : (updChan n f s).west = s.west := rfl
@[simp] theorem updChan_east (n : Nat) (f : Channel → Channel) (s : State) : (updChan n f s).east = s.east := rfl
@[simp] theorem updChan_seq (n : Nat) (f : Channel → Channel) (s : State) : (updChan n f s).seq = s.seq := rfl
@[simp] theorem updChan_intake (n : Nat) (f : Channel → Channel) (s : State) : (updChan n f s).intake = s.intake := rfl
@[simp] theorem updChan_out (n : Nat) (f : Channel → Channel) (s : State) : (updChan n f s).out = s.out := rfl
@[simp] theorem updChan_tally (n : Nat) (f : Channel → Channel) (s : State) : (updChan n f s).tally = s.tally := rfl
@[simp] theorem updChan_link (n : Nat) (f : Channel → Channel) (s : State) : (updChan n f s).link = s.link := rfl
@[simp] theorem updChan_rec_ (n : Nat) (f : Channel → Channel) (s : State) : (updChan n f s).rec_ = s.rec_ := rfl
@[simp] theorem updChan_mem_dram (n : Nat) (f : Channel → Channel) (s : State) : (updChan n f s).mem.dram = s.mem.dram := rfl
@[simp] theorem updChan_mem_shared (n : Nat) (f : Channel → Channel) (s : State) : (updChan n f s).mem.shared = s.mem.shared := rfl
@[simp] theorem updChan_mem_local0 (n : Nat) (f : Channel → Channel) (s : State) : (updChan n f s).mem.local0 = s.mem.local0 := rfl
@[simp] theorem updChan_mem_local1 (n : Nat) (f : Channel → Channel) (s : State) : (updChan n f s).mem.local1 = s.mem.local1 := rfl
@[simp] theorem updChan_mem_dampers (n : Nat) (f : Channel → Channel) (s : State) : (updChan n f s).mem.dampers = s.mem.dampers := rfl
@[simp] theorem updChan_mem_portCache (n : Nat) (f : Channel → Channel) (s : State) : (updChan n f s).mem.portCache = s.mem.portCache := rfl
@[simp] theorem updChan_mem_copyCache (n : Nat) (f : Channel → Channel) (s : State) : (updChan n f s).mem.copyCache = s.mem.copyCache := rfl
@[simp] theorem updKey_pending (n : Nat) (f : Key → Key) (s : State) : (updKey n f s).pending = s.pending := rfl
@[simp] theorem updKey_freeCtr (n : Nat) (f : Key → Key) (s : State) : (updKey n f s).freeCtr = s.freeCtr := rfl
@[simp] theorem updKey_part (n : Nat) (f : Key → Key) (s : State) : (updKey n f s).part = s.part := rfl
@[simp] theorem updKey_time (n : Nat) (f : Key → Key) (s : State) : (updKey n f s).time = s.time := rfl
@[simp] theorem updKey_pins (n : Nat) (f : Key → Key) (s : State) : (updKey n f s).pins = s.pins := rfl
@[simp] theorem updKey_boot (n : Nat) (f : Key → Key) (s : State) : (updKey n f s).boot = s.boot := rfl
@[simp] theorem updKey_dev (n : Nat) (f : Key → Key) (s : State) : (updKey n f s).dev = s.dev := rfl
@[simp] theorem updKey_host (n : Nat) (f : Key → Key) (s : State) : (updKey n f s).host = s.host := rfl
@[simp] theorem updKey_img (n : Nat) (f : Key → Key) (s : State) : (updKey n f s).img = s.img := rfl
@[simp] theorem updKey_pools (n : Nat) (f : Key → Key) (s : State) : (updKey n f s).pools = s.pools := rfl
@[simp] theorem updKey_west (n : Nat) (f : Key → Key) (s : State) : (updKey n f s).west = s.west := rfl
@[simp] theorem updKey_east (n : Nat) (f : Key → Key) (s : State) : (updKey n f s).east = s.east := rfl
@[simp] theorem updKey_seq (n : Nat) (f : Key → Key) (s : State) : (updKey n f s).seq = s.seq := rfl
@[simp] theorem updKey_mem (n : Nat) (f : Key → Key) (s : State) : (updKey n f s).mem = s.mem := rfl
@[simp] theorem updKey_out (n : Nat) (f : Key → Key) (s : State) : (updKey n f s).out = s.out := rfl
@[simp] theorem updKey_tally (n : Nat) (f : Key → Key) (s : State) : (updKey n f s).tally = s.tally := rfl
@[simp] theorem updKey_link (n : Nat) (f : Key → Key) (s : State) : (updKey n f s).link = s.link := rfl
@[simp] theorem updKey_rec_ (n : Nat) (f : Key → Key) (s : State) : (updKey n f s).rec_ = s.rec_ := rfl
@[simp] theorem updKey_intake_ports (n : Nat) (f : Key → Key) (s : State) : (updKey n f s).intake.ports = s.intake.ports := rfl
@[simp] theorem updKey_intake_decoders (n : Nat) (f : Key → Key) (s : State) : (updKey n f s).intake.decoders = s.intake.decoders := rfl
@[simp] theorem updPort_pending (n : Nat) (f : Port → Port) (s : State) : (updPort n f s).pending = s.pending := rfl
@[simp] theorem updPort_freeCtr (n : Nat) (f : Port → Port) (s : State) : (updPort n f s).freeCtr = s.freeCtr := rfl
@[simp] theorem updPort_part (n : Nat) (f : Port → Port) (s : State) : (updPort n f s).part = s.part := rfl
@[simp] theorem updPort_time (n : Nat) (f : Port → Port) (s : State) : (updPort n f s).time = s.time := rfl
@[simp] theorem updPort_pins (n : Nat) (f : Port → Port) (s : State) : (updPort n f s).pins = s.pins := rfl
@[simp] theorem updPort_boot (n : Nat) (f : Port → Port) (s : State) : (updPort n f s).boot = s.boot := rfl
@[simp] theorem updPort_dev (n : Nat) (f : Port → Port) (s : State) : (updPort n f s).dev = s.dev := rfl
@[simp] theorem updPort_host (n : Nat) (f : Port → Port) (s : State) : (updPort n f s).host = s.host := rfl
@[simp] theorem updPort_img (n : Nat) (f : Port → Port) (s : State) : (updPort n f s).img = s.img := rfl
@[simp] theorem updPort_pools (n : Nat) (f : Port → Port) (s : State) : (updPort n f s).pools = s.pools := rfl
@[simp] theorem updPort_west (n : Nat) (f : Port → Port) (s : State) : (updPort n f s).west = s.west := rfl
@[simp] theorem updPort_east (n : Nat) (f : Port → Port) (s : State) : (updPort n f s).east = s.east := rfl
@[simp] theorem updPort_seq (n : Nat) (f : Port → Port) (s : State) : (updPort n f s).seq = s.seq := rfl
@[simp] theorem updPort_mem (n : Nat) (f : Port → Port) (s : State) : (updPort n f s).mem = s.mem := rfl
@[simp] theorem updPort_out (n : Nat) (f : Port → Port) (s : State) : (updPort n f s).out = s.out := rfl
@[simp] theorem updPort_tally (n : Nat) (f : Port → Port) (s : State) : (updPort n f s).tally = s.tally := rfl
@[simp] theorem updPort_link (n : Nat) (f : Port → Port) (s : State) : (updPort n f s).link = s.link := rfl
@[simp] theorem updPort_rec_ (n : Nat) (f : Port → Port) (s : State) : (updPort n f s).rec_ = s.rec_ := rfl
@[simp] theorem updPort_intake_keys (n : Nat) (f : Port → Port) (s : State) : (updPort n f s).intake.keys = s.intake.keys := rfl
@[simp] theorem updPort_intake_decoders (n : Nat) (f : Port → Port) (s : State) : (updPort n f s).intake.decoders = s.intake.decoders := rfl
@[simp] theorem updDec_pending (n : Nat) (f : Decoder → Decoder) (s : State) : (updDec n f s).pending = s.pending := rfl
@[simp] theorem updDec_freeCtr (n : Nat) (f : Decoder → Decoder) (s : State) : (updDec n f s).freeCtr = s.freeCtr := rfl
@[simp] theorem updDec_part (n : Nat) (f : Decoder → Decoder) (s : State) : (updDec n f s).part = s.part := rfl
@[simp] theorem updDec_time (n : Nat) (f : Decoder → Decoder) (s : State) : (updDec n f s).time = s.time := rfl
@[simp] theorem updDec_pins (n : Nat) (f : Decoder → Decoder) (s : State) : (updDec n f s).pins = s.pins := rfl
@[simp] theorem updDec_boot (n : Nat) (f : Decoder → Decoder) (s : State) : (updDec n f s).boot = s.boot := rfl
@[simp] theorem updDec_dev (n : Nat) (f : Decoder → Decoder) (s : State) : (updDec n f s).dev = s.dev := rfl
@[simp] theorem updDec_host (n : Nat) (f : Decoder → Decoder) (s : State) : (updDec n f s).host = s.host := rfl
@[simp] theorem updDec_img (n : Nat) (f : Decoder → Decoder) (s : State) : (updDec n f s).img = s.img := rfl
@[simp] theorem updDec_pools (n : Nat) (f : Decoder → Decoder) (s : State) : (updDec n f s).pools = s.pools := rfl
@[simp] theorem updDec_west (n : Nat) (f : Decoder → Decoder) (s : State) : (updDec n f s).west = s.west := rfl
@[simp] theorem updDec_east (n : Nat) (f : Decoder → Decoder) (s : State) : (updDec n f s).east = s.east := rfl
@[simp] theorem updDec_seq (n : Nat) (f : Decoder → Decoder) (s : State) : (updDec n f s).seq = s.seq := rfl
@[simp] theorem updDec_mem (n : Nat) (f : Decoder → Decoder) (s : State) : (updDec n f s).mem = s.mem := rfl
@[simp] theorem updDec_out (n : Nat) (f : Decoder → Decoder) (s : State) : (updDec n f s).out = s.out := rfl
@[simp] theorem updDec_tally (n : Nat) (f : Decoder → Decoder) (s : State) : (updDec n f s).tally = s.tally := rfl
@[simp] theorem updDec_link (n : Nat) (f : Decoder → Decoder) (s : State) : (updDec n f s).link = s.link := rfl
@[simp] theorem updDec_rec_ (n : Nat) (f : Decoder → Decoder) (s : State) : (updDec n f s).rec_ = s.rec_ := rfl
@[simp] theorem updDec_intake_ports (n : Nat) (f : Decoder → Decoder) (s : State) : (updDec n f s).intake.ports = s.intake.ports := rfl
@[simp] theorem updDec_intake_keys (n : Nat) (f : Decoder → Decoder) (s : State) : (updDec n f s).intake.keys = s.intake.keys := rfl
@[simp] theorem updLink_pending (n : Nat) (f : Link → Link) (s : State) : (updLink n f s).pending = s.pending := rfl
@[simp] theorem updLink_freeCtr (n : Nat) (f : Link → Link) (s : State) : (updLink n f s).freeCtr = s.freeCtr := rfl
@[simp] theorem updLink_part (n : Nat) (f : Link → Link) (s : State) : (updLink n f s).part = s.part := rfl
@[simp] theorem updLink_time (n : Nat) (f : Link → Link) (s : State) : (updLink n f s).time = s.time := rfl
@[simp] theorem updLink_pins (n : Nat) (f : Link → Link) (s : State) : (updLink n f s).pins = s.pins := rfl
@[simp] theorem updLink_boot (n : Nat) (f : Link → Link) (s : State) : (updLink n f s).boot = s.boot := rfl
@[simp] theorem updLink_dev (n : Nat) (f : Link → Link) (s : State) : (updLink n f s).dev = s.dev := rfl
@[simp] theorem updLink_host (n : Nat) (f : Link → Link) (s : State) : (updLink n f s).host = s.host := rfl
@[simp] theorem updLink_img (n : Nat) (f : Link → Link) (s : State) : (updLink n f s).img = s.img := rfl
@[simp] theorem updLink_pools (n : Nat) (f : Link → Link) (s : State) : (updLink n f s).pools = s.pools := rfl
@[simp] theorem updLink_west (n : Nat) (f : Link → Link) (s : State) : (updLink n f s).west = s.west := rfl
@[simp] theorem updLink_east (n : Nat) (f : Link → Link) (s : State) : (updLink n f s).east = s.east := rfl
@[simp] theorem updLink_seq (n : Nat) (f : Link → Link) (s : State) : (updLink n f s).seq = s.seq := rfl
@[simp] theorem updLink_mem (n : Nat) (f : Link → Link) (s : State) : (updLink n f s).mem = s.mem := rfl
@[simp] theorem updLink_intake (n : Nat) (f : Link → Link) (s : State) : (updLink n f s).intake = s.intake := rfl
@[simp] theorem updLink_out (n : Nat) (f : Link → Link) (s : State) : (updLink n f s).out = s.out := rfl
@[simp] theorem updLink_tally (n : Nat) (f : Link → Link) (s : State) : (updLink n f s).tally = s.tally := rfl
@[simp] theorem updLink_rec_ (n : Nat) (f : Link → Link) (s : State) : (updLink n f s).rec_ = s.rec_ := rfl
@[simp] theorem updStream_pending (n : Nat) (f : Stream → Stream) (s : State) : (updStream n f s).pending = s.pending := rfl
@[simp] theorem updStream_freeCtr (n : Nat) (f : Stream → Stream) (s : State) : (updStream n f s).freeCtr = s.freeCtr := rfl
@[simp] theorem updStream_part (n : Nat) (f : Stream → Stream) (s : State) : (updStream n f s).part = s.part := rfl
@[simp] theorem updStream_time (n : Nat) (f : Stream → Stream) (s : State) : (updStream n f s).time = s.time := rfl
@[simp] theorem updStream_pins (n : Nat) (f : Stream → Stream) (s : State) : (updStream n f s).pins = s.pins := rfl
@[simp] theorem updStream_boot (n : Nat) (f : Stream → Stream) (s : State) : (updStream n f s).boot = s.boot := rfl
@[simp] theorem updStream_dev (n : Nat) (f : Stream → Stream) (s : State) : (updStream n f s).dev = s.dev := rfl
@[simp] theorem updStream_host (n : Nat) (f : Stream → Stream) (s : State) : (updStream n f s).host = s.host := rfl
@[simp] theorem updStream_img (n : Nat) (f : Stream → Stream) (s : State) : (updStream n f s).img = s.img := rfl
@[simp] theorem updStream_pools (n : Nat) (f : Stream → Stream) (s : State) : (updStream n f s).pools = s.pools := rfl
@[simp] theorem updStream_west (n : Nat) (f : Stream → Stream) (s : State) : (updStream n f s).west = s.west := rfl
@[simp] theorem updStream_east (n : Nat) (f : Stream → Stream) (s : State) : (updStream n f s).east = s.east := rfl
@[simp] theorem updStream_seq (n : Nat) (f : Stream → Stream) (s : State) : (updStream n f s).seq = s.seq := rfl
@[simp] theorem updStream_mem (n : Nat) (f : Stream → Stream) (s : State) : (updStream n f s).mem = s.mem := rfl
@[simp] theorem updStream_intake (n : Nat) (f : Stream → Stream) (s : State) : (updStream n f s).intake = s.intake := rfl
@[simp] theorem updStream_tally (n : Nat) (f : Stream → Stream) (s : State) : (updStream n f s).tally = s.tally := rfl
@[simp] theorem updStream_link (n : Nat) (f : Stream → Stream) (s : State) : (updStream n f s).link = s.link := rfl
@[simp] theorem updStream_rec_ (n : Nat) (f : Stream → Stream) (s : State) : (updStream n f s).rec_ = s.rec_ := rfl
@[simp] theorem hostWrite_pending (a : Nat) (bs : List Byte) (s : State) : (hostWrite a bs s).pending = s.pending := rfl
@[simp] theorem hostWrite_freeCtr (a : Nat) (bs : List Byte) (s : State) : (hostWrite a bs s).freeCtr = s.freeCtr := rfl
@[simp] theorem hostWrite_part (a : Nat) (bs : List Byte) (s : State) : (hostWrite a bs s).part = s.part := rfl
@[simp] theorem hostWrite_time (a : Nat) (bs : List Byte) (s : State) : (hostWrite a bs s).time = s.time := rfl
@[simp] theorem hostWrite_pins (a : Nat) (bs : List Byte) (s : State) : (hostWrite a bs s).pins = s.pins := rfl
@[simp] theorem hostWrite_boot (a : Nat) (bs : List Byte) (s : State) : (hostWrite a bs s).boot = s.boot := rfl
@[simp] theorem hostWrite_dev (a : Nat) (bs : List Byte) (s : State) : (hostWrite a bs s).dev = s.dev := rfl
@[simp] theorem hostWrite_img (a : Nat) (bs : List Byte) (s : State) : (hostWrite a bs s).img = s.img := rfl
@[simp] theorem hostWrite_pools (a : Nat) (bs : List Byte) (s : State) : (hostWrite a bs s).pools = s.pools := rfl
@[simp] theorem hostWrite_west (a : Nat) (bs : List Byte) (s : State) : (hostWrite a bs s).west = s.west := rfl
@[simp] theorem hostWrite_east (a : Nat) (bs : List Byte) (s : State) : (hostWrite a bs s).east = s.east := rfl
@[simp] theorem hostWrite_seq (a : Nat) (bs : List Byte) (s : State) : (hostWrite a bs s).seq = s.seq := rfl
@[simp] theorem hostWrite_mem (a : Nat) (bs : List Byte) (s : State) : (hostWrite a bs s).mem = s.mem := rfl
@[simp] theorem hostWrite_intake (a : Nat) (bs : List Byte) (s : State) : (hostWrite a bs s).intake = s.intake := rfl
@[simp] theorem hostWrite_out (a : Nat) (bs : List Byte) (s : State) : (hostWrite a bs s).out = s.out := rfl
@[simp] theorem hostWrite_tally (a : Nat) (bs : List Byte) (s : State) : (hostWrite a bs s).tally = s.tally := rfl
@[simp] theorem hostWrite_link (a : Nat) (bs : List Byte) (s : State) : (hostWrite a bs s).link = s.link := rfl
@[simp] theorem hostWrite_rec_ (a : Nat) (bs : List Byte) (s : State) : (hostWrite a bs s).rec_ = s.rec_ := rfl
@[simp] theorem hostWrite_host_statusBlock (a : Nat) (bs : List Byte) (s : State) : (hostWrite a bs s).host.statusBlock = s.host.statusBlock := rfl
@[simp] theorem hostWrite_host_dbgBase (a : Nat) (bs : List Byte) (s : State) : (hostWrite a bs s).host.dbgBase = s.host.dbgBase := rfl
@[simp] theorem hostWrite_host_event (a : Nat) (bs : List Byte) (s : State) : (hostWrite a bs s).host.event = s.host.event := rfl
@[simp] theorem hostWrite_host_fault (a : Nat) (bs : List Byte) (s : State) : (hostWrite a bs s).host.fault = s.host.fault := rfl
@[simp] theorem hostWrite_host_result (a : Nat) (bs : List Byte) (s : State) : (hostWrite a bs s).host.result = s.host.result := rfl
@[simp] theorem hostWrite_host_fallback (a : Nat) (bs : List Byte) (s : State) : (hostWrite a bs s).host.fallback = s.host.fallback := rfl
@[simp] theorem hostWrite_host_evrLost (a : Nat) (bs : List Byte) (s : State) : (hostWrite a bs s).host.evrLost = s.host.evrLost := rfl
@[simp] theorem hostWrite_host_rings (a : Nat) (bs : List Byte) (s : State) : (hostWrite a bs s).host.rings = s.host.rings := rfl
@[simp] theorem hostWrite_host_adminLast (a : Nat) (bs : List Byte) (s : State) : (hostWrite a bs s).host.adminLast = s.host.adminLast := rfl
@[simp] theorem hostWrite_host_lastRing (a : Nat) (bs : List Byte) (s : State) : (hostWrite a bs s).host.lastRing = s.host.lastRing := rfl
@[simp] theorem statusWord_pending (o v : Nat) (s : State) : (statusWord o v s).pending = s.pending := hostWrite_pending _ _ _
@[simp] theorem statusWord_freeCtr (o v : Nat) (s : State) : (statusWord o v s).freeCtr = s.freeCtr := hostWrite_freeCtr _ _ _
@[simp] theorem statusWord_part (o v : Nat) (s : State) : (statusWord o v s).part = s.part := hostWrite_part _ _ _
@[simp] theorem statusWord_time (o v : Nat) (s : State) : (statusWord o v s).time = s.time := hostWrite_time _ _ _
@[simp] theorem statusWord_pins (o v : Nat) (s : State) : (statusWord o v s).pins = s.pins := hostWrite_pins _ _ _
@[simp] theorem statusWord_boot (o v : Nat) (s : State) : (statusWord o v s).boot = s.boot := hostWrite_boot _ _ _
@[simp] theorem statusWord_dev (o v : Nat) (s : State) : (statusWord o v s).dev = s.dev := hostWrite_dev _ _ _
@[simp] theorem statusWord_img (o v : Nat) (s : State) : (statusWord o v s).img = s.img := hostWrite_img _ _ _
@[simp] theorem statusWord_pools (o v : Nat) (s : State) : (statusWord o v s).pools = s.pools := hostWrite_pools _ _ _
@[simp] theorem statusWord_west (o v : Nat) (s : State) : (statusWord o v s).west = s.west := hostWrite_west _ _ _
@[simp] theorem statusWord_east (o v : Nat) (s : State) : (statusWord o v s).east = s.east := hostWrite_east _ _ _
@[simp] theorem statusWord_seq (o v : Nat) (s : State) : (statusWord o v s).seq = s.seq := hostWrite_seq _ _ _
@[simp] theorem statusWord_mem (o v : Nat) (s : State) : (statusWord o v s).mem = s.mem := hostWrite_mem _ _ _
@[simp] theorem statusWord_intake (o v : Nat) (s : State) : (statusWord o v s).intake = s.intake := hostWrite_intake _ _ _
@[simp] theorem statusWord_out (o v : Nat) (s : State) : (statusWord o v s).out = s.out := hostWrite_out _ _ _
@[simp] theorem statusWord_tally (o v : Nat) (s : State) : (statusWord o v s).tally = s.tally := hostWrite_tally _ _ _
@[simp] theorem statusWord_link (o v : Nat) (s : State) : (statusWord o v s).link = s.link := hostWrite_link _ _ _
@[simp] theorem statusWord_rec_ (o v : Nat) (s : State) : (statusWord o v s).rec_ = s.rec_ := hostWrite_rec_ _ _ _
@[simp] theorem statusWord_host_statusBlock (o v : Nat) (s : State) : (statusWord o v s).host.statusBlock = s.host.statusBlock := hostWrite_host_statusBlock _ _ _
@[simp] theorem statusWord_host_dbgBase (o v : Nat) (s : State) : (statusWord o v s).host.dbgBase = s.host.dbgBase := hostWrite_host_dbgBase _ _ _
@[simp] theorem statusWord_host_event (o v : Nat) (s : State) : (statusWord o v s).host.event = s.host.event := hostWrite_host_event _ _ _
@[simp] theorem statusWord_host_fault (o v : Nat) (s : State) : (statusWord o v s).host.fault = s.host.fault := hostWrite_host_fault _ _ _
@[simp] theorem statusWord_host_result (o v : Nat) (s : State) : (statusWord o v s).host.result = s.host.result := hostWrite_host_result _ _ _
@[simp] theorem statusWord_host_fallback (o v : Nat) (s : State) : (statusWord o v s).host.fallback = s.host.fallback := hostWrite_host_fallback _ _ _
@[simp] theorem statusWord_host_evrLost (o v : Nat) (s : State) : (statusWord o v s).host.evrLost = s.host.evrLost := hostWrite_host_evrLost _ _ _
@[simp] theorem statusWord_host_rings (o v : Nat) (s : State) : (statusWord o v s).host.rings = s.host.rings := hostWrite_host_rings _ _ _
@[simp] theorem statusWord_host_adminLast (o v : Nat) (s : State) : (statusWord o v s).host.adminLast = s.host.adminLast := hostWrite_host_adminLast _ _ _
@[simp] theorem statusWord_host_lastRing (o v : Nat) (s : State) : (statusWord o v s).host.lastRing = s.host.lastRing := hostWrite_host_lastRing _ _ _
@[simp] theorem statusCopy_pending (s : State) : (statusCopy s).pending = s.pending := hostWrite_pending _ _ _
@[simp] theorem statusCopy_freeCtr (s : State) : (statusCopy s).freeCtr = s.freeCtr := hostWrite_freeCtr _ _ _
@[simp] theorem statusCopy_part (s : State) : (statusCopy s).part = s.part := hostWrite_part _ _ _
@[simp] theorem statusCopy_time (s : State) : (statusCopy s).time = s.time := hostWrite_time _ _ _
@[simp] theorem statusCopy_pins (s : State) : (statusCopy s).pins = s.pins := hostWrite_pins _ _ _
@[simp] theorem statusCopy_boot (s : State) : (statusCopy s).boot = s.boot := hostWrite_boot _ _ _
@[simp] theorem statusCopy_dev (s : State) : (statusCopy s).dev = s.dev := hostWrite_dev _ _ _
@[simp] theorem statusCopy_img (s : State) : (statusCopy s).img = s.img := hostWrite_img _ _ _
@[simp] theorem statusCopy_pools (s : State) : (statusCopy s).pools = s.pools := hostWrite_pools _ _ _
@[simp] theorem statusCopy_west (s : State) : (statusCopy s).west = s.west := hostWrite_west _ _ _
@[simp] theorem statusCopy_east (s : State) : (statusCopy s).east = s.east := hostWrite_east _ _ _
@[simp] theorem statusCopy_seq (s : State) : (statusCopy s).seq = s.seq := hostWrite_seq _ _ _
@[simp] theorem statusCopy_mem (s : State) : (statusCopy s).mem = s.mem := hostWrite_mem _ _ _
@[simp] theorem statusCopy_intake (s : State) : (statusCopy s).intake = s.intake := hostWrite_intake _ _ _
@[simp] theorem statusCopy_out (s : State) : (statusCopy s).out = s.out := hostWrite_out _ _ _
@[simp] theorem statusCopy_tally (s : State) : (statusCopy s).tally = s.tally := hostWrite_tally _ _ _
@[simp] theorem statusCopy_link (s : State) : (statusCopy s).link = s.link := hostWrite_link _ _ _
@[simp] theorem statusCopy_rec_ (s : State) : (statusCopy s).rec_ = s.rec_ := hostWrite_rec_ _ _ _
@[simp] theorem statusCopy_host_statusBlock (s : State) : (statusCopy s).host.statusBlock = s.host.statusBlock := hostWrite_host_statusBlock _ _ _
@[simp] theorem statusCopy_host_dbgBase (s : State) : (statusCopy s).host.dbgBase = s.host.dbgBase := hostWrite_host_dbgBase _ _ _
@[simp] theorem statusCopy_host_event (s : State) : (statusCopy s).host.event = s.host.event := hostWrite_host_event _ _ _
@[simp] theorem statusCopy_host_fault (s : State) : (statusCopy s).host.fault = s.host.fault := hostWrite_host_fault _ _ _
@[simp] theorem statusCopy_host_result (s : State) : (statusCopy s).host.result = s.host.result := hostWrite_host_result _ _ _
@[simp] theorem statusCopy_host_fallback (s : State) : (statusCopy s).host.fallback = s.host.fallback := hostWrite_host_fallback _ _ _
@[simp] theorem statusCopy_host_evrLost (s : State) : (statusCopy s).host.evrLost = s.host.evrLost := hostWrite_host_evrLost _ _ _
@[simp] theorem statusCopy_host_rings (s : State) : (statusCopy s).host.rings = s.host.rings := hostWrite_host_rings _ _ _
@[simp] theorem statusCopy_host_adminLast (s : State) : (statusCopy s).host.adminLast = s.host.adminLast := hostWrite_host_adminLast _ _ _
@[simp] theorem statusCopy_host_lastRing (s : State) : (statusCopy s).host.lastRing = s.host.lastRing := hostWrite_host_lastRing _ _ _
@[simp] theorem headCopy_pending (n : Nat) (s : State) : (headCopy n s).pending = s.pending := hostWrite_pending _ _ _
@[simp] theorem headCopy_freeCtr (n : Nat) (s : State) : (headCopy n s).freeCtr = s.freeCtr := hostWrite_freeCtr _ _ _
@[simp] theorem headCopy_part (n : Nat) (s : State) : (headCopy n s).part = s.part := hostWrite_part _ _ _
@[simp] theorem headCopy_time (n : Nat) (s : State) : (headCopy n s).time = s.time := hostWrite_time _ _ _
@[simp] theorem headCopy_pins (n : Nat) (s : State) : (headCopy n s).pins = s.pins := hostWrite_pins _ _ _
@[simp] theorem headCopy_boot (n : Nat) (s : State) : (headCopy n s).boot = s.boot := hostWrite_boot _ _ _
@[simp] theorem headCopy_dev (n : Nat) (s : State) : (headCopy n s).dev = s.dev := hostWrite_dev _ _ _
@[simp] theorem headCopy_img (n : Nat) (s : State) : (headCopy n s).img = s.img := hostWrite_img _ _ _
@[simp] theorem headCopy_pools (n : Nat) (s : State) : (headCopy n s).pools = s.pools := hostWrite_pools _ _ _
@[simp] theorem headCopy_west (n : Nat) (s : State) : (headCopy n s).west = s.west := hostWrite_west _ _ _
@[simp] theorem headCopy_east (n : Nat) (s : State) : (headCopy n s).east = s.east := hostWrite_east _ _ _
@[simp] theorem headCopy_seq (n : Nat) (s : State) : (headCopy n s).seq = s.seq := hostWrite_seq _ _ _
@[simp] theorem headCopy_mem (n : Nat) (s : State) : (headCopy n s).mem = s.mem := hostWrite_mem _ _ _
@[simp] theorem headCopy_intake (n : Nat) (s : State) : (headCopy n s).intake = s.intake := hostWrite_intake _ _ _
@[simp] theorem headCopy_out (n : Nat) (s : State) : (headCopy n s).out = s.out := hostWrite_out _ _ _
@[simp] theorem headCopy_tally (n : Nat) (s : State) : (headCopy n s).tally = s.tally := hostWrite_tally _ _ _
@[simp] theorem headCopy_link (n : Nat) (s : State) : (headCopy n s).link = s.link := hostWrite_link _ _ _
@[simp] theorem headCopy_rec_ (n : Nat) (s : State) : (headCopy n s).rec_ = s.rec_ := hostWrite_rec_ _ _ _
@[simp] theorem headCopy_host_statusBlock (n : Nat) (s : State) : (headCopy n s).host.statusBlock = s.host.statusBlock := hostWrite_host_statusBlock _ _ _
@[simp] theorem headCopy_host_dbgBase (n : Nat) (s : State) : (headCopy n s).host.dbgBase = s.host.dbgBase := hostWrite_host_dbgBase _ _ _
@[simp] theorem headCopy_host_event (n : Nat) (s : State) : (headCopy n s).host.event = s.host.event := hostWrite_host_event _ _ _
@[simp] theorem headCopy_host_fault (n : Nat) (s : State) : (headCopy n s).host.fault = s.host.fault := hostWrite_host_fault _ _ _
@[simp] theorem headCopy_host_result (n : Nat) (s : State) : (headCopy n s).host.result = s.host.result := hostWrite_host_result _ _ _
@[simp] theorem headCopy_host_fallback (n : Nat) (s : State) : (headCopy n s).host.fallback = s.host.fallback := hostWrite_host_fallback _ _ _
@[simp] theorem headCopy_host_evrLost (n : Nat) (s : State) : (headCopy n s).host.evrLost = s.host.evrLost := hostWrite_host_evrLost _ _ _
@[simp] theorem headCopy_host_rings (n : Nat) (s : State) : (headCopy n s).host.rings = s.host.rings := hostWrite_host_rings _ _ _
@[simp] theorem headCopy_host_adminLast (n : Nat) (s : State) : (headCopy n s).host.adminLast = s.host.adminLast := hostWrite_host_adminLast _ _ _
@[simp] theorem headCopy_host_lastRing (n : Nat) (s : State) : (headCopy n s).host.lastRing = s.host.lastRing := hostWrite_host_lastRing _ _ _
@[simp] theorem bumpOut_pending (w k : Nat) (s : State) : (bumpOut w k s).pending = s.pending := rfl
@[simp] theorem bumpOut_freeCtr (w k : Nat) (s : State) : (bumpOut w k s).freeCtr = s.freeCtr := rfl
@[simp] theorem bumpOut_part (w k : Nat) (s : State) : (bumpOut w k s).part = s.part := rfl
@[simp] theorem bumpOut_time (w k : Nat) (s : State) : (bumpOut w k s).time = s.time := rfl
@[simp] theorem bumpOut_pins (w k : Nat) (s : State) : (bumpOut w k s).pins = s.pins := rfl
@[simp] theorem bumpOut_boot (w k : Nat) (s : State) : (bumpOut w k s).boot = s.boot := rfl
@[simp] theorem bumpOut_dev (w k : Nat) (s : State) : (bumpOut w k s).dev = s.dev := rfl
@[simp] theorem bumpOut_host (w k : Nat) (s : State) : (bumpOut w k s).host = s.host := rfl
@[simp] theorem bumpOut_img (w k : Nat) (s : State) : (bumpOut w k s).img = s.img := rfl
@[simp] theorem bumpOut_pools (w k : Nat) (s : State) : (bumpOut w k s).pools = s.pools := rfl
@[simp] theorem bumpOut_west (w k : Nat) (s : State) : (bumpOut w k s).west = s.west := rfl
@[simp] theorem bumpOut_east (w k : Nat) (s : State) : (bumpOut w k s).east = s.east := rfl
@[simp] theorem bumpOut_seq (w k : Nat) (s : State) : (bumpOut w k s).seq = s.seq := rfl
@[simp] theorem bumpOut_mem (w k : Nat) (s : State) : (bumpOut w k s).mem = s.mem := rfl
@[simp] theorem bumpOut_intake (w k : Nat) (s : State) : (bumpOut w k s).intake = s.intake := rfl
@[simp] theorem bumpOut_tally (w k : Nat) (s : State) : (bumpOut w k s).tally = s.tally := rfl
@[simp] theorem bumpOut_link (w k : Nat) (s : State) : (bumpOut w k s).link = s.link := rfl
@[simp] theorem bumpOut_rec_ (w k : Nat) (s : State) : (bumpOut w k s).rec_ = s.rec_ := rfl
@[simp] theorem bumpTally_pending (w k : Nat) (s : State) : (bumpTally w k s).pending = s.pending := rfl
@[simp] theorem bumpTally_freeCtr (w k : Nat) (s : State) : (bumpTally w k s).freeCtr = s.freeCtr := rfl
@[simp] theorem bumpTally_part (w k : Nat) (s : State) : (bumpTally w k s).part = s.part := rfl
@[simp] theorem bumpTally_time (w k : Nat) (s : State) : (bumpTally w k s).time = s.time := rfl
@[simp] theorem bumpTally_pins (w k : Nat) (s : State) : (bumpTally w k s).pins = s.pins := rfl
@[simp] theorem bumpTally_boot (w k : Nat) (s : State) : (bumpTally w k s).boot = s.boot := rfl
@[simp] theorem bumpTally_dev (w k : Nat) (s : State) : (bumpTally w k s).dev = s.dev := rfl
@[simp] theorem bumpTally_host (w k : Nat) (s : State) : (bumpTally w k s).host = s.host := rfl
@[simp] theorem bumpTally_img (w k : Nat) (s : State) : (bumpTally w k s).img = s.img := rfl
@[simp] theorem bumpTally_pools (w k : Nat) (s : State) : (bumpTally w k s).pools = s.pools := rfl
@[simp] theorem bumpTally_west (w k : Nat) (s : State) : (bumpTally w k s).west = s.west := rfl
@[simp] theorem bumpTally_east (w k : Nat) (s : State) : (bumpTally w k s).east = s.east := rfl
@[simp] theorem bumpTally_seq (w k : Nat) (s : State) : (bumpTally w k s).seq = s.seq := rfl
@[simp] theorem bumpTally_mem (w k : Nat) (s : State) : (bumpTally w k s).mem = s.mem := rfl
@[simp] theorem bumpTally_intake (w k : Nat) (s : State) : (bumpTally w k s).intake = s.intake := rfl
@[simp] theorem bumpTally_out (w k : Nat) (s : State) : (bumpTally w k s).out = s.out := rfl
@[simp] theorem bumpTally_link (w k : Nat) (s : State) : (bumpTally w k s).link = s.link := rfl
@[simp] theorem bumpTally_rec_ (w k : Nat) (s : State) : (bumpTally w k s).rec_ = s.rec_ := rfl
@[simp] theorem bumpSys_pending (w k : Nat) (s : State) : (bumpSys w k s).pending = s.pending := rfl
@[simp] theorem bumpSys_freeCtr (w k : Nat) (s : State) : (bumpSys w k s).freeCtr = s.freeCtr := rfl
@[simp] theorem bumpSys_part (w k : Nat) (s : State) : (bumpSys w k s).part = s.part := rfl
@[simp] theorem bumpSys_time (w k : Nat) (s : State) : (bumpSys w k s).time = s.time := rfl
@[simp] theorem bumpSys_pins (w k : Nat) (s : State) : (bumpSys w k s).pins = s.pins := rfl
@[simp] theorem bumpSys_boot (w k : Nat) (s : State) : (bumpSys w k s).boot = s.boot := rfl
@[simp] theorem bumpSys_dev (w k : Nat) (s : State) : (bumpSys w k s).dev = s.dev := rfl
@[simp] theorem bumpSys_host (w k : Nat) (s : State) : (bumpSys w k s).host = s.host := rfl
@[simp] theorem bumpSys_img (w k : Nat) (s : State) : (bumpSys w k s).img = s.img := rfl
@[simp] theorem bumpSys_pools (w k : Nat) (s : State) : (bumpSys w k s).pools = s.pools := rfl
@[simp] theorem bumpSys_west (w k : Nat) (s : State) : (bumpSys w k s).west = s.west := rfl
@[simp] theorem bumpSys_east (w k : Nat) (s : State) : (bumpSys w k s).east = s.east := rfl
@[simp] theorem bumpSys_seq (w k : Nat) (s : State) : (bumpSys w k s).seq = s.seq := rfl
@[simp] theorem bumpSys_mem (w k : Nat) (s : State) : (bumpSys w k s).mem = s.mem := rfl
@[simp] theorem bumpSys_intake (w k : Nat) (s : State) : (bumpSys w k s).intake = s.intake := rfl
@[simp] theorem bumpSys_out (w k : Nat) (s : State) : (bumpSys w k s).out = s.out := rfl
@[simp] theorem bumpSys_tally (w k : Nat) (s : State) : (bumpSys w k s).tally = s.tally := rfl
@[simp] theorem bumpSys_rec_ (w k : Nat) (s : State) : (bumpSys w k s).rec_ = s.rec_ := rfl

end Sys2Proof.Machine
end

