-- ==== Sys2Proof/Laws/Ops.lean ====
section
/-! SUPPORT. What the shared operations do, said once: host memory and status copies, replies, events, fault reports, leadership and
device states. -/
namespace Sys2Proof.Machine
set_option Elab.async false

/-! ### Writes of host memory -/

theorem hostWrite_eq (a : Nat) (bs : List Byte) (s : State) :
    hostWrite a bs s = { s with host := { s.host with mem := s.host.mem.writeN a bs } } := rfl

theorem statusWord_eq (o v : Nat) (s : State) :
    statusWord o v s = { s with host := { s.host with mem := (statusWord o v s).host.mem } } := by
  unfold statusWord; generalize toLE 8 v = bs; exact hostWrite_eq _ _ _

theorem statusCopy_eq (s : State) :
    statusCopy s = { s with host := { s.host with mem := (statusCopy s).host.mem } } := by
  unfold statusCopy; generalize wordsBytes _ = bs; exact hostWrite_eq _ _ _

theorem headCopy_eq (n : Nat) (s : State) :
    headCopy n s = { s with host := { s.host with mem := (headCopy n s).host.mem } } := statusWord_eq _ _ s

theorem ignoreWrite_eq (s : State) :
    ignoreWrite s = { s with dev := { s.dev with ignored := satAdd 0xFFFF s.dev.ignored 1 },
                             host := { s.host with mem := (ignoreWrite s).host.mem } } := by
  unfold ignoreWrite
  generalize hx : State.dev _ = d
  exact statusCopy_eq _

/-- The ring pages are what `host.rings` holds. -/
theorem ring_of_rings {s t : State} (h : t.host.rings = s.host.rings) (n : Nat) : t.ring n = s.ring n := by
  unfold State.ring; rw [h]

@[simp] theorem hostWrite_ring (a : Nat) (bs : List Byte) (s : State) (n : Nat) : (hostWrite a bs s).ring n = s.ring n :=
  ring_of_rings (hostWrite_host_rings _ _ _) n
@[simp] theorem statusWord_ring (o v : Nat) (s : State) (n : Nat) : (statusWord o v s).ring n = s.ring n :=
  ring_of_rings (statusWord_host_rings _ _ _) n
@[simp] theorem statusCopy_ring (s : State) (n : Nat) : (statusCopy s).ring n = s.ring n :=
  ring_of_rings (statusCopy_host_rings _) n
@[simp] theorem headCopy_ring (k : Nat) (s : State) (n : Nat) : (headCopy k s).ring n = s.ring n :=
  ring_of_rings (headCopy_host_rings _ _) n

/-! ### Replies (R34, R39, R41) -/

/-- A reply record moves the ring's tail by one and changes host memory besides. -/
theorem writeReply_ring (t : Tagged) (kind status : Nat) (eff detail : Word) (s : State) (n : Nat) :
    (writeReply t kind status eff detail s).ring n =
      if n = t.ring then { s.ring n with tail := (s.ring n).tail + 1 } else s.ring n := by
  unfold writeReply
  dsimp only
  generalize wordsBytes _ = bs
  rw [statusWord_ring]
  by_cases h : n = t.ring
  · subst h; rw [if_pos rfl, updRing_self, hostWrite_ring]
  · rw [if_neg h, updRing_ne _ _ _ h, hostWrite_ring]

/-- The single reply of a packet on the ring pages. -/
theorem replyOne_ring (t : Tagged) (status : Nat) (eff detail : Word) (s : State) (n : Nat) :
    (replyOne t status eff detail s).ring n =
      if n = t.ring then { s.ring n with
        tail := (s.ring n).tail + 1,
        rejected := if 0x10 ≤ status then satAdd 0xFFFF (s.ring n).rejected 1 else (s.ring n).rejected }
      else s.ring n := by
  unfold replyOne
  by_cases h : n = t.ring
  · subst h
    rw [if_pos rfl, updRing_self, writeReply_ring, if_pos rfl]
    dsimp only
    split <;> rfl
  · rw [if_neg h, updRing_ne _ _ _ h, writeReply_ring, if_neg h]

/-- The immediate reply of an accepted packet on the ring pages. -/
theorem replyAccept_ring (t : Tagged) (detail : Word) (s : State) (n : Nat) :
    (replyAccept t detail s).ring n =
      if n = t.ring then { s.ring n with tail := (s.ring n).tail + 1, outstanding := (s.ring n).outstanding + 1 }
      else s.ring n := by
  unfold replyAccept
  by_cases h : n = t.ring
  · subst h; rw [if_pos rfl, updRing_self, writeReply_ring, if_pos rfl]
  · rw [if_neg h, updRing_ne _ _ _ h, writeReply_ring, if_neg h]

/-- The final reply of an accepted packet on the ring pages. -/
theorem replyFinal_ring (t : Tagged) (status : Nat) (eff detail : Word) (s : State) (n : Nat) :
    (replyFinal t status eff detail s).ring n =
      if n = t.ring then { s.ring n with tail := (s.ring n).tail + 1, outstanding := (s.ring n).outstanding - 1 }
      else s.ring n := by
  unfold replyFinal
  by_cases h : n = t.ring
  · subst h; rw [if_pos rfl, updRing_self, writeReply_ring, if_pos rfl]
  · rw [if_neg h, updRing_ne _ _ _ h, writeReply_ring, if_neg h]

theorem answer_ring (t : Tagged) (status : Nat) (eff detail : Word) (s : State) (n : Nat) :
    (answer t status eff detail s).ring n =
      if n = t.ring then { s.ring n with
        tail := (s.ring n).tail + 1,
        rejected := if 0x10 ≤ status then satAdd 0xFFFF (s.ring n).rejected 1 else (s.ring n).rejected }
      else s.ring n := by
  unfold answer; rw [headCopy_ring, replyOne_ring]

theorem accept_ring (t : Tagged) (detail : Word) (s : State) (n : Nat) :
    (accept t detail s).ring n =
      if n = t.ring then { s.ring n with tail := (s.ring n).tail + 1, outstanding := (s.ring n).outstanding + 1 }
      else s.ring n := by
  unfold accept; rw [headCopy_ring, replyAccept_ring]

/-! ### Replies in host memory (R41, R43) -/

theorem toLE_length (n v : Nat) : (toLE n v).length = n := by
  induction n generalizing v with
  | zero => rfl
  | succ n ih => rw [toLE, List.length_cons, ih]

theorem wordsBytes_length (l : List Word) : (wordsBytes l).length = 8 * l.length := by
  induction l with
  | nil => rfl
  | cons w t ih =>
    show (toLE 8 w.toNat ++ wordsBytes t).length = _
    rw [List.length_append, toLE_length, ih, List.length_cons]; omega

/-- What a reply record leaves in host memory. -/
theorem writeReply_hostMem (t : Tagged) (kind status : Nat) (eff detail : Word) (s : State) :
    (writeReply t kind status eff detail s).host.mem =
      (s.host.mem.writeN ((s.ring t.ring).rrBase.toNat + 32 * ((s.ring t.ring).tail.toNat % (s.ring t.ring).records))
        (wordsBytes (recordWords t.tag status t.op kind t.ring
          ((s.ring t.ring).tail.toNat / (s.ring t.ring).records % 2 == 0) t.ctx t.hoop eff s.now detail))).writeN
        (s.host.statusBlock.toNat + (0x48 + 16 * t.ring)) (toLE 8 ((s.ring t.ring).tail + 1).toNat) := by
  unfold writeReply statusWord
  dsimp only
  generalize wordsBytes _ = bs
  generalize toLE 8 _ = cs
  rfl

theorem headCopy_hostMem (n : Nat) (s : State) :
    (headCopy n s).host.mem =
      s.host.mem.writeN (s.host.statusBlock.toNat + (0x40 + 16 * n)) (toLE 8 (s.ring n).head.toNat) := by
  unfold headCopy statusWord; generalize toLE 8 _ = cs; rfl

theorem writeReply_statusBlock (t : Tagged) (kind status : Nat) (eff detail : Word) (s : State) :
    (writeReply t kind status eff detail s).host.statusBlock = s.host.statusBlock := by
  unfold writeReply statusWord
  dsimp only
  generalize wordsBytes _ = bs
  generalize toLE 8 _ = cs
  rfl

/-- What a packet's single reply and its head copy leave in host memory. -/
theorem answer_hostMem (t : Tagged) (status : Nat) (eff detail : Word) (s : State) :
    (answer t status eff detail s).host.mem =
      ((s.host.mem.writeN ((s.ring t.ring).rrBase.toNat + 32 * ((s.ring t.ring).tail.toNat % (s.ring t.ring).records))
        (wordsBytes (recordWords t.tag status t.op 1 t.ring
          ((s.ring t.ring).tail.toNat / (s.ring t.ring).records % 2 == 0) t.ctx t.hoop eff s.now detail))).writeN
        (s.host.statusBlock.toNat + (0x48 + 16 * t.ring)) (toLE 8 ((s.ring t.ring).tail + 1).toNat)).writeN
        (s.host.statusBlock.toNat + (0x40 + 16 * t.ring)) (toLE 8 (s.ring t.ring).head.toNat) := by
  have h1 : ((replyOne t status eff detail s).ring t.ring).head = (s.ring t.ring).head := by
    rw [replyOne_ring, if_pos rfl]
  have h2 : (replyOne t status eff detail s).host.mem = (writeReply t 1 status eff detail s).host.mem := by
    unfold replyOne; exact updRing_host_mem ..
  have h3 : (replyOne t status eff detail s).host.statusBlock = s.host.statusBlock := by
    unfold replyOne; rw [updRing_host_statusBlock]; exact writeReply_statusBlock ..
  unfold answer
  rw [headCopy_hostMem, h1, h2, h3, writeReply_hostMem]

/-! ### Taking a packet (R36, R38, R46, R361) -/

theorem placeEntry_eq (bs : List Byte) (s : State) :
    placeEntry bs s = { s with host := { s.host with mem := (placeEntry bs s).host.mem }, rec_ := (placeEntry bs s).rec_ } := rfl

theorem writeSinkHead_eq (s : State) :
    writeSinkHead s = { s with host := { s.host with mem := (writeSinkHead s).host.mem } } := by
  unfold writeSinkHead; generalize wordsBytes _ = bs; exact hostWrite_eq _ _ _

theorem writeSinkHead_rings (s : State) : (writeSinkHead s).host.rings = s.host.rings := by rw [writeSinkHead_eq]

theorem recordEntryAt_rings (g : Gate) (kind : Nat) (digest : Bool) (body : List Byte) (s : State) :
    (recordEntryAt g kind digest body s).host.rings = s.host.rings := by
  unfold recordEntryAt
  extract_lets r bs s1 e s2 r2
  have h1 : s1.host = s.host := rfl
  clear_value s1 e bs
  split
  · rfl
  · split
    · rw [writeSinkHead_rings]; rfl
    · split
      · rw [writeSinkHead_rings]; rfl
      · split
        · rw [writeSinkHead_rings]; exact Eq.trans (b := s1.host.rings) rfl (congrArg HostIf.rings h1)
        · rw [writeSinkHead_rings, h1]

theorem recordEntry_rings (kind : Nat) (digest : Bool) (body : List Byte) (s : State) :
    (recordEntry kind digest body s).host.rings = s.host.rings := recordEntryAt_rings ..

@[simp] theorem recordEntry_ring (kind : Nat) (digest : Bool) (body : List Byte) (s : State) (n : Nat) :
    (recordEntry kind digest body s).ring n = s.ring n := ring_of_rings (recordEntry_rings ..) n

theorem recordEntry_off (kind : Nat) (digest : Bool) (body : List Byte) (s : State) (h : s.rec_.mode = .off) :
    recordEntry kind digest body s = s := by
  unfold recordEntry recordEntryAt; simp [h]

theorem fetch_rings (ring : Nat) (h : Head) (pkt : List Word) (s : State) :
    (fetch ring h pkt s).host.rings = s.host.rings.upd .init ring fun r =>
      { r with head := r.head + BitVec.ofNat 32 h.length, fetched := r.fetched + 1 } := by
  unfold fetch
  extract_lets a h0 b r0 c
  have key : c.host.rings = b.host.rings := by simp only [c]; split <;> rfl
  exact (recordEntry_rings ..).trans key

theorem fetch_ring (ring : Nat) (h : Head) (pkt : List Word) (s : State) (n : Nat) :
    (fetch ring h pkt s).ring n =
      if n = ring then { s.ring n with head := (s.ring n).head + BitVec.ofNat 32 h.length, fetched := (s.ring n).fetched + 1 }
      else s.ring n := by
  unfold State.ring
  rw [fetch_rings]
  by_cases hn : n = ring
  · subst hn; rw [if_pos rfl, Tab.get_upd_self]
  · rw [if_neg hn, Tab.get_upd_ne _ _ _ hn]

/-- What R46 examines is the image, the device's state and the halves. -/
theorem examine_congr {s t : State} (hd : t.dev = s.dev) (hi : t.img = s.img) (hw : t.west = s.west) (he : t.east = s.east)
    (ring : Nat) (h : Head) (pkt : List Word) : examine ring h pkt t = examine ring h pkt s := by
  have hh : ∀ x, t.half x = s.half x := fun x => by cases x <;> simp [State.half, hw, he]
  have hm : ∀ n, t.hoopHome n = s.hoopHome n := fun n => by simp [State.hoopHome, State.hoopEntry, hi]
  unfold examine halfDown
  simp only [hd, hi, hh, hm]

/-- A packet that is fetched in its ring's turn: rejected, it gets its single reply; else its meaning acts on the state after the
fetch. -/
theorem packetStep_fetched (ring : Nat) (pkt : List Word) (body : Tagged → State → State) (s : State)
    (hr : ringReady ring (parseHead (pkt.getD 0 0)) s = true) (hq : queueFull (parseHead (pkt.getD 0 0)) s = false)
    (ht : inTurn ring s = true) :
    packetStep ring pkt body s =
      (match examine ring (parseHead (pkt.getD 0 0)) pkt s with
       | some st => answer (Tagged.of ring (parseHead (pkt.getD 0 0))) st 0 0 (fetch ring (parseHead (pkt.getD 0 0)) pkt s)
       | none => body (Tagged.of ring (parseHead (pkt.getD 0 0))) (fetch ring (parseHead (pkt.getD 0 0)) pkt s)) := by
  have k := fetch_keeps ring (parseHead (pkt.getD 0 0)) pkt s
  unfold packetStep
  simp only [hr, hq, ht, Bool.not_true, Bool.false_eq_true, if_false]
  rw [examine_congr (k.dev (by decide)) (k.img (by decide)) (k.west (by decide)) (k.east (by decide))]
  rfl

/-- With no recording, taking a packet moves the ring's head and FETCHED, and the turn of R38. -/
theorem fetch_off (ring : Nat) (h : Head) (pkt : List Word) (s : State) (hm : s.rec_.mode = .off) :
    fetch ring h pkt s =
      { updRing ring (fun r => { r with head := r.head + BitVec.ofNat 32 h.length, fetched := r.fetched + 1 }) s with
        host := { (updRing ring (fun r => { r with head := r.head + BitVec.ofNat 32 h.length, fetched := r.fetched + 1 }) s).host with
          adminLast := ring == 0, lastRing := if ring = 0 then s.host.lastRing else ring } } := by
  unfold fetch recordEntry recordEntryAt
  simp [hm, updRing]

end Sys2Proof.Machine
end

