-- ==== Sys2Proof/Laws/PerInstr.lean ====
section
/-! SUPPORT. Statements made for every command: what its operands look like when it is well formed, in the bits of R45 (packets),
R206 (write requests), R281 (tally frames) and R327 (flits). -/
namespace Sys2Proof.Laws.WellFormedFamily
set_option Elab.async false
open Sys2Proof.Machine

/-- A packet's words in the bits of R45: OPCODE in bits [7:0] of word 0, and as many words as LENGTH in bits [21:16] says, 0 for 64. -/
def IsPacket (op : Nat → Prop) (p : List Word) : Prop :=
  ∃ w rest, p = w :: rest ∧ op (w.toNat % 256)
    ∧ p.length = if w.toNat / 65536 % 64 = 0 then 64 else w.toNat / 65536 % 64

/-- The shape of a command's operands. -/
def Shape : Instr → Prop
  | .nop _ p => IsPacket (fun op => op = 0 ∨ opInfo op = none) p
  | .getStatus _ p => IsPacket (fun op => op = 0x01) p
  | .readCounters _ p => IsPacket (fun op => op = 0x02) p
  | .loadImage _ p => IsPacket (fun op => op = 0x10) p
  | .openOutputs _ p => IsPacket (fun op => op = 0x11) p
  | .closeOutputs _ p => IsPacket (fun op => op = 0x12) p
  | .resetHalf _ p => IsPacket (fun op => op = 0x13) p
  | .resetDevice _ p _ => IsPacket (fun op => op = 0x14) p
  | .setTime _ p => IsPacket (fun op => op = 0x15) p
  | .setRecordMode _ p _ => IsPacket (fun op => op = 0x16) p
  | .proposeProtection _ p _ => IsPacket (fun op => op = 0x20) p
  | .withdrawProposal _ p => IsPacket (fun op => op = 0x21) p
  | .setFrameRing _ p => IsPacket (fun op => op = 0x30) p
  | .commitRoutes _ p => IsPacket (fun op => op = 0x31) p
  | .startJob _ p => IsPacket (fun op => op = 0x40) p
  | .cancelJob _ p => IsPacket (fun op => op = 0x41) p
  | .knotSet _ p => IsPacket (fun op => op = 0x50) p
  | .knotRead _ p => IsPacket (fun op => op = 0x51) p
  | .copyIn _ p => IsPacket (fun op => op = 0x60) p
  | .copyOut _ p => IsPacket (fun op => op = 0x61) p
  | .invalidateTranslation _ p => IsPacket (fun op => op = 0x62) p
  | .bufferAlloc _ p => IsPacket (fun op => op = 0x63) p
  | .bufferFree _ p => IsPacket (fun op => op = 0x64) p
  | .commitTopology _ p _ => IsPacket (fun op => op = 0x70) p
  | .dramRequest _ rs _ _ => ∀ r ∈ rs, r.write = true → r.data.length = 64
  | .selfRefreshEntry _ r => ∀ x, r = some x → x.write = true → x.data.length = 64
  | .poll f | .confirm f | .refuse f | .nameLeader f => f.length = 32
  | .flitData _ f | .flitControl _ f | .flitIdentity _ f | .flitNak _ f | .flitIdle _ f => f.length = 256
  | .dramTrainingDone d _ => d.length = 32
  | .imageLoad .. | .copyDone .. | .invalidationComplete .. | .hstSqDoorbell .. | .ringEnable .. | .ringDisable ..
  | .overrunClear .. | .ringPageSetupWrite .. | .outputRingSetupWrite .. | .dbgBaseWrite .. | .fgSpeedClear ..
  | .registerWrite .. | .statusBlockRefresh | .paceTick .. | .unpacedRelease .. | .argumentReadDone ..
  | .passGroupCommit .. | .passGroupAbandon .. | .transformCommit .. | .attendCommit .. | .appendDone ..
  | .transferDone .. | .resultHandover .. | .collectiveDone .. | .stepWatchdog .. | .knotWaitTimeout ..
  | .translationWalk .. | .damperRequest .. | .damperCutoff .. | .damperShed .. | .dramRefresh .. | .mr4Read ..
  | .selfRefreshExit .. | .frequencyChange .. | .driftCheck .. | .zqCalibration ..
  | .patrolScrub .. | .phyLockLoss .. | .aphyPartnerDetected .. | .cameraDiscoveryDone .. | .aphyLockLoss ..
  | .frameStart .. | .csi2LongPacket .. | .embeddedData .. | .frameEnd .. | .lidarPacket .. | .frameComplete ..
  | .networkLinkDown .. | .lidarSilence .. | .intakeStall .. | .decoderEpochStart .. | .decodedPicture ..
  | .pilotDone .. | .pilotOverrun .. | .keyDecision .. | .pilotMissing .. | .recordCompose .. | .keyAnswerTimeout ..
  | .holdRecord .. | .outputWriter .. | .heartbeatToggle .. | .weightDigestCheck .. | .halfReset ..
  | .halfResetRelease .. | .halfRestart .. | .halfResetTimeout .. | .faultCoalesceExpiry .. | .faultRepeatExpiry ..
  | .faultRecordWrite | .retestDone .. | .fenceKnotSet .. | .staleResult .. | .lateSpeech .. | .claimExchange ..
  | .claimSilence .. | .tallyBadFrame .. | .agreementTimeout | .ppsInEdge | .setTimeNoPps | .linkSignalDetected ..
  | .fecLock .. | .identitySend .. | .flitCorrupt .. | .linkTimeout .. | .laneLockLoss .. | .waitExceeded ..
  | .replicaRoundStart .. | .replicaRoundTimeout .. | .replayDeliver | .voltageFault .. | .clockFault ..
  | .powerLoop .. | .poresetAssert | .poresetRelease .. | .bootPackageRead .. | .storesTested ..
  | .checkerInjectionsDone .. | .kindlingDone .. | .flashImageAutoload .. | .lockstepMismatch .. | .pathFailed ..
  | .aphyLinkTrained .. | .networkLinkUp .. | .replicaDigestComputed .. => True

/-- A command is well formed exactly where its operands have their shape. -/
def Statement (i : Instr) : Prop := i.wf = true ↔ Shape i

theorem head_opcode (w : Word) : (parseHead w).opcode = w.toNat % 256 := by
  show (w.toNat >>> 0) % 2 ^ (7 + 1 - 0) = _
  rfl

theorem head_length (w : Word) :
    (parseHead w).length = if w.toNat / 65536 % 64 = 0 then 64 else w.toNat / 65536 % 64 := by
  have h : fld w 21 16 = w.toNat / 65536 % 64 := by
    show (w.toNat >>> 16) % 64 = _
    rw [Nat.shiftRight_eq_div_pow]
  show (if fld w 21 16 = 0 then 64 else fld w 21 16) = _
  rw [h]

theorem isPacket_iff (op : Nat) (p : List Word) : packetWf op p = true ↔ IsPacket (fun o => o = op) p := by
  cases p with
  | nil => exact iff_of_false Bool.false_ne_true fun ⟨_, _, h, _⟩ => List.cons_ne_nil _ _ h.symm
  | cons w l =>
    refine Iff.trans (Bool.and_eq_true_iff : ((_ : Bool) && _) = true ↔ _) ?_
    rw [beq_iff_eq, beq_iff_eq, head_opcode, head_length]
    exact ⟨fun h => ⟨w, l, rfl, h.1, h.2.symm⟩, fun ⟨v, m, e, h1, h2⟩ => by cases e; exact ⟨h1, h2.symm⟩⟩

theorem isNop_iff (p : List Word) : nopWf p = true ↔ IsPacket (fun o => o = 0 ∨ opInfo o = none) p := by
  cases p with
  | nil => exact iff_of_false Bool.false_ne_true fun ⟨_, _, h, _⟩ => List.cons_ne_nil _ _ h.symm
  | cons w l =>
    refine Iff.trans (Bool.and_eq_true_iff : ((_ : Bool) && _) = true ↔ _) ?_
    rw [beq_iff_eq, Bool.or_eq_true, beq_iff_eq, Option.isNone_iff_eq_none, head_opcode, head_length]
    exact ⟨fun h => ⟨w, l, rfl, h.1, h.2.symm⟩, fun ⟨v, m, e, h1, h2⟩ => by cases e; exact ⟨h1, h2.symm⟩⟩

theorem nop (ring : BitVec 5) (pkt : List Word) : Statement (.nop ring pkt) := isNop_iff _
theorem getStatus (ring : BitVec 5) (pkt : List Word) : Statement (.getStatus ring pkt) := isPacket_iff _ _
theorem readCounters (ring : BitVec 5) (pkt : List Word) : Statement (.readCounters ring pkt) := isPacket_iff _ _
theorem loadImage (ring : BitVec 5) (pkt : List Word) : Statement (.loadImage ring pkt) := isPacket_iff _ _
theorem imageLoad (img : List Byte) : Statement (.imageLoad img) := iff_of_true rfl trivial
theorem openOutputs (ring : BitVec 5) (pkt : List Word) : Statement (.openOutputs ring pkt) := isPacket_iff _ _
theorem closeOutputs (ring : BitVec 5) (pkt : List Word) : Statement (.closeOutputs ring pkt) := isPacket_iff _ _
theorem resetHalf (ring : BitVec 5) (pkt : List Word) : Statement (.resetHalf ring pkt) := isPacket_iff _ _
theorem resetDevice (ring : BitVec 5) (pkt : List Word) (mempop : BitVec 2) : Statement (.resetDevice ring pkt mempop) := isPacket_iff _ _
theorem setTime (ring : BitVec 5) (pkt : List Word) : Statement (.setTime ring pkt) := isPacket_iff _ _
theorem setRecordMode (ring : BitVec 5) (pkt : List Word) (sink : List Byte) : Statement (.setRecordMode ring pkt sink) := isPacket_iff _ _
theorem proposeProtection (ring : BitVec 5) (pkt : List Word) (bytes : List Byte) : Statement (.proposeProtection ring pkt bytes) := isPacket_iff _ _
theorem withdrawProposal (ring : BitVec 5) (pkt : List Word) : Statement (.withdrawProposal ring pkt) := isPacket_iff _ _
theorem setFrameRing (ring : BitVec 5) (pkt : List Word) : Statement (.setFrameRing ring pkt) := isPacket_iff _ _
theorem commitRoutes (ring : BitVec 5) (pkt : List Word) : Statement (.commitRoutes ring pkt) := isPacket_iff _ _
theorem startJob (ring : BitVec 5) (pkt : List Word) : Statement (.startJob ring pkt) := isPacket_iff _ _
theorem cancelJob (ring : BitVec 5) (pkt : List Word) : Statement (.cancelJob ring pkt) := isPacket_iff _ _
theorem knotSet (ring : BitVec 5) (pkt : List Word) : Statement (.knotSet ring pkt) := isPacket_iff _ _
theorem knotRead (ring : BitVec 5) (pkt : List Word) : Statement (.knotRead ring pkt) := isPacket_iff _ _
theorem copyIn (ring : BitVec 5) (pkt : List Word) : Statement (.copyIn ring pkt) := isPacket_iff _ _
theorem copyOut (ring : BitVec 5) (pkt : List Word) : Statement (.copyOut ring pkt) := isPacket_iff _ _
theorem copyDone (ring : BitVec 5) (tag : BitVec 16) (data : List Byte) (stop : Option Nat) (fixed : List (BitVec 5)) : Statement (.copyDone ring tag data stop fixed) := iff_of_true rfl trivial
theorem invalidateTranslation (ring : BitVec 5) (pkt : List Word) : Statement (.invalidateTranslation ring pkt) := isPacket_iff _ _
theorem invalidationComplete (n : Nat) : Statement (.invalidationComplete n) := iff_of_true rfl trivial
theorem bufferAlloc (ring : BitVec 5) (pkt : List Word) : Statement (.bufferAlloc ring pkt) := isPacket_iff _ _
theorem bufferFree (ring : BitVec 5) (pkt : List Word) : Statement (.bufferFree ring pkt) := isPacket_iff _ _
theorem commitTopology (ring : BitVec 5) (pkt : List Word) (record : List Byte) : Statement (.commitTopology ring pkt record) := isPacket_iff _ _
theorem hstSqDoorbell (ring : BitVec 5) (value : Word) : Statement (.hstSqDoorbell ring value) := iff_of_true rfl trivial
theorem ringEnable (ring : BitVec 5) (w1c : Bool) : Statement (.ringEnable ring w1c) := iff_of_true rfl trivial
theorem ringDisable (ring : BitVec 5) (w1c : Bool) : Statement (.ringDisable ring w1c) := iff_of_true rfl trivial
theorem overrunClear (ring : BitVec 5) (enable : Bool) : Statement (.overrunClear ring enable) := iff_of_true rfl trivial
theorem ringPageSetupWrite (ring : BitVec 5) (reg : RingReg) (value : Word) : Statement (.ringPageSetupWrite ring reg value) := iff_of_true rfl trivial
theorem outputRingSetupWrite (reg : OutReg) (value : Word) : Statement (.outputRingSetupWrite reg value) := iff_of_true rfl trivial
theorem dbgBaseWrite (value : Word) : Statement (.dbgBaseWrite value) := iff_of_true rfl trivial
theorem fgSpeedClear (half : Half) : Statement (.fgSpeedClear half) := iff_of_true rfl trivial
theorem registerWrite (off : BitVec 24) (size : BitVec 4) (value : Word) : Statement (.registerWrite off size value) := iff_of_true rfl trivial
theorem statusBlockRefresh : Statement (.statusBlockRefresh) := iff_of_true rfl trivial
theorem paceTick (west east : BitVec 16) : Statement (.paceTick west east) := iff_of_true rfl trivial
theorem unpacedRelease (hoop : BitVec 4) : Statement (.unpacedRelease hoop) := iff_of_true rfl trivial
theorem argumentReadDone (hoop : BitVec 4) (ecc : Ecc) : Statement (.argumentReadDone hoop ecc) := iff_of_true rfl trivial
theorem passGroupCommit (hoop : BitVec 4) (step : BitVec 20) (pos : BitVec 3) (fixed : Corrected) : Statement (.passGroupCommit hoop step pos fixed) := iff_of_true rfl trivial
theorem passGroupAbandon (hoop : BitVec 4) (step : BitVec 20) (pos : BitVec 3) (cause : FaultClass) (pass : BitVec 8) (writeOut : Bool) (fixed : Corrected) : Statement (.passGroupAbandon hoop step pos cause pass writeOut fixed) := iff_of_true rfl trivial
theorem transformCommit (hoop : BitVec 4) (step : BitVec 20) (pos : BitVec 3) (fixed : Corrected) : Statement (.transformCommit hoop step pos fixed) := iff_of_true rfl trivial
theorem attendCommit (hoop : BitVec 4) (step : BitVec 20) (pos : BitVec 3) (fixed : Corrected) : Statement (.attendCommit hoop step pos fixed) := iff_of_true rfl trivial
theorem appendDone (hoop : BitVec 4) (step : BitVec 20) (pos : BitVec 3) (stop : Option (Nat × FaultClass)) (fixed : Corrected) : Statement (.appendDone hoop step pos stop fixed) := iff_of_true rfl trivial
theorem transferDone (hoop : BitVec 4) (step : BitVec 20) (pos : BitVec 3) (stop : Option (Nat × FaultClass)) (fixed : Corrected) : Statement (.transferDone hoop step pos stop fixed) := iff_of_true rfl trivial
theorem resultHandover (hoop : BitVec 4) (step : BitVec 20) : Statement (.resultHandover hoop step) := iff_of_true rfl trivial
theorem collectiveDone (hoop : BitVec 4) (step : BitVec 20) (stop : Option (Nat × FaultClass)) (fixed : List (BitVec 5)) : Statement (.collectiveDone hoop step stop fixed) := iff_of_true rfl trivial
theorem stepWatchdog (hoop : BitVec 4) (step : BitVec 20) : Statement (.stepWatchdog hoop step) := iff_of_true rfl trivial
theorem knotWaitTimeout (hoop : BitVec 4) : Statement (.knotWaitTimeout hoop) := iff_of_true rfl trivial
theorem translationWalk (unit : CacheUnit) (ctx : BitVec 12) (va : BitVec 48) (write : Bool) (level : BitVec 2) (ecc : Ecc) : Statement (.translationWalk unit ctx va write level ecc) := iff_of_true rfl trivial
theorem damperRequest (g : BitVec 6) (ended arrivals : List Requester) : Statement (.damperRequest g ended arrivals) := iff_of_true rfl trivial
theorem damperCutoff (g : BitVec 6) (victim : Victim) : Statement (.damperCutoff g victim) := iff_of_true rfl trivial
theorem damperShed (g : BitVec 6) (capacity : BitVec 9) : Statement (.damperShed g capacity) := iff_of_true rfl trivial
theorem dramRequest (ch : BitVec 5) (arrivals : List DramReq) (ecc : Ecc) (ns : BitVec 16) : Statement (.dramRequest ch arrivals ecc ns) := by
  simp only [Statement, Shape, Instr.wf, List.all_eq_true, DramReq.wf, Bool.or_eq_true, Bool.not_eq_true', beq_iff_eq]
  refine forall_congr' fun r => forall_congr' fun _ => ?_
  cases r.write <;> simp
theorem dramRefresh (ch : BitVec 5) (pair : BitVec 3) : Statement (.dramRefresh ch pair) := iff_of_true rfl trivial
theorem mr4Read (ch : BitVec 5) (report : BitVec 2) : Statement (.mr4Read ch report) := iff_of_true rfl trivial
theorem selfRefreshEntry (ch : BitVec 5) (winner : Option DramReq) : Statement (.selfRefreshEntry ch winner) := by
  cases winner with
  | none => exact iff_of_true rfl fun _ h => nomatch h
  | some r => simp only [Statement, Shape, Instr.wf, Option.all_some, DramReq.wf, Option.some.injEq, forall_eq']
              cases r.write <;> simp
theorem selfRefreshExit (ch : BitVec 5) : Statement (.selfRefreshExit ch) := iff_of_true rfl trivial
theorem frequencyChange (half : Half) : Statement (.frequencyChange half) := iff_of_true rfl trivial
theorem driftCheck (ch : BitVec 5) : Statement (.driftCheck ch) := iff_of_true rfl trivial
theorem zqCalibration (ch : BitVec 5) : Statement (.zqCalibration ch) := iff_of_true rfl trivial
theorem patrolScrub (ch : BitVec 5) (ecc : Ecc) : Statement (.patrolScrub ch ecc) := iff_of_true rfl trivial
theorem phyLockLoss (ch : BitVec 5) : Statement (.phyLockLoss ch) := iff_of_true rfl trivial
theorem aphyPartnerDetected (port : BitVec 5) : Statement (.aphyPartnerDetected port) := iff_of_true rfl trivial
theorem cameraDiscoveryDone (port : BitVec 5) (identity : List Byte) (acked : Nat) : Statement (.cameraDiscoveryDone port identity acked) := iff_of_true rfl trivial
theorem aphyLockLoss (port : BitVec 5) : Statement (.aphyLockLoss port) := iff_of_true rfl trivial
theorem frameStart (port : BitVec 5) (vc : BitVec 4) (header : Header) : Statement (.frameStart port vc header) := iff_of_true rfl trivial
theorem csi2LongPacket (port : BitVec 5) (vc : BitVec 4) (dt : BitVec 6) (payload : List Byte) (crcOk : Bool) (header : Header) : Statement (.csi2LongPacket port vc dt payload crcOk header) := iff_of_true rfl trivial
theorem embeddedData (port : BitVec 5) (vc : BitVec 4) (payload : List Byte) (crcOk : Bool) (header : Header) : Statement (.embeddedData port vc payload crcOk header) := iff_of_true rfl trivial
theorem frameEnd (port : BitVec 5) (vc : BitVec 4) (header : Header) : Statement (.frameEnd port vc header) := iff_of_true rfl trivial
theorem lidarPacket (port : BitVec 5) (frame : List Byte) : Statement (.lidarPacket port frame) := iff_of_true rfl trivial
theorem frameComplete (port : BitVec 5) (sel : BitVec 4) (ecc : Ecc) : Statement (.frameComplete port sel ecc) := iff_of_true rfl trivial
theorem networkLinkDown (port : BitVec 5) : Statement (.networkLinkDown port) := iff_of_true rfl trivial
theorem lidarSilence (port : BitVec 5) (sel : BitVec 4) : Statement (.lidarSilence port sel) := iff_of_true rfl trivial
theorem intakeStall (port : BitVec 5) (sel : BitVec 4) : Statement (.intakeStall port sel) := iff_of_true rfl trivial
theorem decoderEpochStart (d : BitVec 2) : Statement (.decoderEpochStart d) := iff_of_true rfl trivial
theorem decodedPicture (d : BitVec 2) : Statement (.decodedPicture d) := iff_of_true rfl trivial
theorem pilotDone (half : Half) (upset : Word) : Statement (.pilotDone half upset) := iff_of_true rfl trivial
theorem pilotOverrun (half : Half) : Statement (.pilotOverrun half) := iff_of_true rfl trivial
theorem keyDecision (half : Half) (stream : BitVec 6) (upset : Word) : Statement (.keyDecision half stream upset) := iff_of_true rfl trivial
theorem pilotMissing (half : Half) (stream : BitVec 6) : Statement (.pilotMissing half stream) := iff_of_true rfl trivial
theorem recordCompose (stream : BitVec 6) : Statement (.recordCompose stream) := iff_of_true rfl trivial
theorem keyAnswerTimeout (stream : BitVec 6) : Statement (.keyAnswerTimeout stream) := iff_of_true rfl trivial
theorem holdRecord (stream : BitVec 6) : Statement (.holdRecord stream) := iff_of_true rfl trivial
theorem outputWriter (silent : Bool) : Statement (.outputWriter silent) := iff_of_true rfl trivial
theorem heartbeatToggle (half : Half) : Statement (.heartbeatToggle half) := iff_of_true rfl trivial
theorem weightDigestCheck (half : Half) : Statement (.weightDigestCheck half) := iff_of_true rfl trivial
theorem halfReset (half : Half) : Statement (.halfReset half) := iff_of_true rfl trivial
theorem halfResetRelease (half : Half) : Statement (.halfResetRelease half) := iff_of_true rfl trivial
theorem halfRestart (half : Half) (trained : BitVec 16) (injections : Bool) (pass : BitVec 9) : Statement (.halfRestart half trained injections pass) := iff_of_true rfl trivial
theorem halfResetTimeout (half : Half) : Statement (.halfResetTimeout half) := iff_of_true rfl trivial
theorem faultCoalesceExpiry (key : FaultKey) : Statement (.faultCoalesceExpiry key) := iff_of_true rfl trivial
theorem faultRepeatExpiry (key : FaultKey) : Statement (.faultRepeatExpiry key) := iff_of_true rfl trivial
theorem faultRecordWrite : Statement (.faultRecordWrite) := iff_of_true rfl trivial
theorem retestDone (half : Half) (pos : BitVec 3) (pass : Bool) : Statement (.retestDone half pos pass) := iff_of_true rfl trivial
theorem fenceKnotSet (half : Half) (pos : BitVec 3) : Statement (.fenceKnotSet half pos) := iff_of_true rfl trivial
theorem staleResult (half : Half) (pos : BitVec 3) (generation : BitVec 16) : Statement (.staleResult half pos generation) := iff_of_true rfl trivial
theorem lateSpeech (p : BitVec 5) : Statement (.lateSpeech p) := iff_of_true rfl trivial
theorem claimExchange (upsetWest upsetEast : Bool) : Statement (.claimExchange upsetWest upsetEast) := iff_of_true rfl trivial
theorem claimSilence (half : Half) : Statement (.claimSilence half) := iff_of_true rfl trivial
theorem poll (frame : List Byte) : Statement (.poll frame) := beq_iff_eq
theorem confirm (frame : List Byte) : Statement (.confirm frame) := beq_iff_eq
theorem refuse (frame : List Byte) : Statement (.refuse frame) := beq_iff_eq
theorem nameLeader (frame : List Byte) : Statement (.nameLeader frame) := beq_iff_eq
theorem tallyBadFrame (frame : List Byte) : Statement (.tallyBadFrame frame) := iff_of_true rfl trivial
theorem agreementTimeout : Statement (.agreementTimeout) := iff_of_true rfl trivial
theorem ppsInEdge : Statement (.ppsInEdge) := iff_of_true rfl trivial
theorem setTimeNoPps : Statement (.setTimeNoPps) := iff_of_true rfl trivial
theorem linkSignalDetected (k : BitVec 3) : Statement (.linkSignalDetected k) := iff_of_true rfl trivial
theorem fecLock (k : BitVec 3) : Statement (.fecLock k) := iff_of_true rfl trivial
theorem identitySend (k : BitVec 3) : Statement (.identitySend k) := iff_of_true rfl trivial
theorem flitData (k : BitVec 3) (flit : List Byte) : Statement (.flitData k flit) := beq_iff_eq
theorem flitControl (k : BitVec 3) (flit : List Byte) : Statement (.flitControl k flit) := beq_iff_eq
theorem flitIdentity (k : BitVec 3) (flit : List Byte) : Statement (.flitIdentity k flit) := beq_iff_eq
theorem flitNak (k : BitVec 3) (flit : List Byte) : Statement (.flitNak k flit) := beq_iff_eq
theorem flitIdle (k : BitVec 3) (flit : List Byte) : Statement (.flitIdle k flit) := beq_iff_eq
theorem flitCorrupt (k : BitVec 3) (flit : List Byte) (fec : Bool) : Statement (.flitCorrupt k flit fec) := iff_of_true rfl trivial
theorem linkTimeout (k : BitVec 3) : Statement (.linkTimeout k) := iff_of_true rfl trivial
theorem laneLockLoss (k : BitVec 3) : Statement (.laneLockLoss k) := iff_of_true rfl trivial
theorem waitExceeded (hoop : BitVec 4) (step : BitVec 20) : Statement (.waitExceeded hoop step) := iff_of_true rfl trivial
theorem replicaRoundStart (entry : BitVec 4) : Statement (.replicaRoundStart entry) := iff_of_true rfl trivial
theorem replicaRoundTimeout (entry : BitVec 4) : Statement (.replicaRoundTimeout entry) := iff_of_true rfl trivial
theorem replayDeliver : Statement (.replayDeliver) := iff_of_true rfl trivial
theorem voltageFault (half : Half) (rail : BitVec 3) (trip : SupplyTrip) : Statement (.voltageFault half rail trip) := iff_of_true rfl trivial
theorem clockFault (half : Half) (refclk : Bool) (khz : BitVec 32) : Statement (.clockFault half refclk khz) := iff_of_true rfl trivial
theorem powerLoop (power : BitVec 16) (temp : BitVec 8) (mayRise : Bool) : Statement (.powerLoop power temp mayRise) := iff_of_true rfl trivial
theorem poresetAssert : Statement (.poresetAssert) := iff_of_true rfl trivial
theorem poresetRelease (mempop : BitVec 2) : Statement (.poresetRelease mempop) := iff_of_true rfl trivial
theorem bootPackageRead (slotB : Bool) (package : List Byte) : Statement (.bootPackageRead slotB package) := iff_of_true rfl trivial
theorem storesTested (pass : Bool) : Statement (.storesTested pass) := iff_of_true rfl trivial
theorem dramTrainingDone (density : List (BitVec 2)) (trained : BitVec 32) : Statement (.dramTrainingDone density trained) := beq_iff_eq
theorem checkerInjectionsDone (failedWest failedEast : Bool) : Statement (.checkerInjectionsDone failedWest failedEast) := iff_of_true rfl trivial
theorem kindlingDone (pass : BitVec 18) : Statement (.kindlingDone pass) := iff_of_true rfl trivial
theorem flashImageAutoload (img : List Byte) : Statement (.flashImageAutoload img) := iff_of_true rfl trivial
theorem lockstepMismatch (half : Half) : Statement (.lockstepMismatch half) := iff_of_true rfl trivial
theorem pathFailed (half : Half) : Statement (.pathFailed half) := iff_of_true rfl trivial
theorem aphyLinkTrained (port : BitVec 5) (gear : BitVec 3) : Statement (.aphyLinkTrained port gear) := iff_of_true rfl trivial
theorem networkLinkUp (port : BitVec 5) : Statement (.networkLinkUp port) := iff_of_true rfl trivial
theorem replicaDigestComputed (entry : BitVec 4) (ecc : Ecc) : Statement (.replicaDigestComputed entry ecc) := iff_of_true rfl trivial

end Sys2Proof.Laws.WellFormedFamily
end

