-- ==== Sys2Proof/Tests/Slice0.lean ====
section
/-! SUPPORT. The model's own tests: ill-formed commands are refused, single steps give the values the spec states, and the
hypotheses of the statements are met by small states. States are built by the helpers below. -/
namespace Sys2Proof.Tests

set_option Elab.async false

open Sys2Proof Sys2Proof.Machine

/-! ### Small states -/

/-- A packet's words, its LENGTH that of the list (R45). -/
def pk (op ctx hoop tag : Nat) (ps : List Nat) : List Word :=
  BitVec.ofNat 64 (op + at_ 16 (ps.length + 1) + at_ 22 ctx + at_ 34 hoop + at_ 48 tag) :: ps.map (BitVec.ofNat 64)

/-- A ring page that serves: 4096 words, 1024 records, words posted. -/
def ringUp : RingPage := { RingPage.init with sqSize := 4, rrBase := 0x10000, rrSize := 4, enable := true, doorbell := 200 }

/-- Words written into a table of the image. -/
def put (id off : Nat) (ws : List Nat) (s : State) : State :=
  { s with img := { s.img with tables := s.img.tables.set id ((s.img.tbl id).writeN off (ws.flatMap (toLE 8))) } }

/-- Bytes written into a table of the image. -/
def putB (id off : Nat) (bs : List Nat) (s : State) : State :=
  { s with img := { s.img with tables := s.img.tables.set id ((s.img.tbl id).writeN off (bs.map (BitVec.ofNat 8))) } }

/-- The device in BANKED: both halves in service, west leading, rings 0 and 1 enabled. -/
def up : State :=
  { State.reset with
    pins := { State.reset.pins with poresetN := true }, dev := { Dev.init with st := .banked },
    west := { HalfUnit.init with inService := true, claim := true, pathOk := true },
    east := { HalfUnit.init with inService := true, pathOk := true },
    host := { HostIf.init with rings := [(0, ringUp), (1, { ringUp with rrBase := 0x30000 })], statusBlock := 0x1000 } }

/-- An image: hoop 0 in the west on positions 0 and 1, hoop 1 in the east, contexts 1 and 2 of them, knots 5 of hoop 0 and 6
of the intake, pool 0 of hoop 0 with two buffers, pricking 7 of hoop 0 with the given steps, its descriptors after them. -/
def image (argWords : Nat) (steps descs : List (List Nat)) (s : State) : State :=
  let s := { s with dev := { s.dev with imageValid := true },
                    img := { s.img with confirmed := true, d0 := 77, digest := 77, counts := [(17, 1)] } }
  s |> put 1 0 [1 + at_ 5 3, 0] |> put 1 64 [1 + at_ 4 1 + at_ 5 1, 0]
    |> put 6 16 [1, 0] |> put 6 32 [1 + at_ 1 1, 0] |> putB 5 5 [1, 17] |> put 9 0 [1, 0, at_ 32 1, 0]
    |> put 17 0 [7 + at_ 24 steps.length, 64 + 64 * steps.length + at_ 32 descs.length, 0, 0, argWords]
    |> put 17 64 (steps.flatMap fun w => w ++ List.replicate (8 - w.length) 0)
    |> put 17 (64 + 64 * steps.length) (descs.flatMap fun w => w ++ List.replicate (8 - w.length) 0)

/-- A step: its kind, hearth mask and descriptor. -/
def stepOf (kind mask desc : Nat) : List Nat := [kind + at_ 8 mask, 0, 0, 0, 0, desc]

/-- A job of pricking 7 in hoop 0, with its released steps. -/
def jobOf (st : JobSt) (next : Nat) (rs : List Released) : Job :=
  { q := ⟨0, 9, 1, 7, 0, 0⟩, st := st, args := [], admitted := 0, t0 := 0, lastTick := 0, next := next, steps := rs,
    slips := 0, late := false, charge := 0, breached := false, fault := none }

/-- The state with a job in hoop 0 whose final reply is owed on ring 0. -/
def withJob (j : Job) (s : State) : State :=
  s |> updHoop 0 (fun u => { u with job := some j }) |> updRing 0 fun r => { r with outstanding := 1 }

/-- Step `n` released, with the parts that are open. -/
def rel (n : Nat) (parts : List Nat) : Released := ⟨n, 0, 0, parts, false, []⟩

/-- The image with one step, released and open at position 0. -/
def running (kind : Nat) (descs : List (List Nat)) : State :=
  up |> image 0 [stepOf kind 1 0] descs |> withJob (jobOf .running 1 [rel 0 [0]])

/-- A ring 0 packet is fetched and passes steps 1 to 8. -/
def ok0 (op : Nat) (pkt : List Word) (s : State) : Bool :=
  packetWf op pkt && ringReady 0 (headOf pkt) s && !queueFull (headOf pkt) s && inTurn 0 s && (examine 0 (headOf pkt) pkt s).isNone

/-- The check of `ok0` is the hypothesis of the statements about packets. -/
theorem admitted_of_ok0 {op : Nat} {pkt : List Word} {s : State} (h : ok0 op pkt s = true) : Admitted op 0 pkt s := by
  simp only [ok0, Bool.and_eq_true, Bool.not_eq_true', Option.isNone_iff_eq_none] at h
  exact ⟨h.1.1.1.1, ⟨h.1.1.1.2, h.1.1.2, h.1.2⟩, h.2⟩

/-- The state that a command answers. -/
def after (c : Instr) (s : State) : Option State :=
  match exec c s with
  | .next t => some t
  | _ => none

/-- The form that every step keeps, as a check. -/
def okCheck (s : State) : Bool :=
  let half (u : HalfUnit) : Bool := decide (u.slipCount ≤ 0xFFFF) && decide (u.minRate ≤ 0xFFFF) && decide (u.lost ≤ 0xFFFFFFFF)
  (s.host.mem.wf && decide (s.host.evrLost ≤ 0xFFFFFFFF) && s.host.rings.all fun e => decide (e.2.rejected ≤ 0xFFFF))
    && decide (s.dev.ignored ≤ 0xFFFF) && (decide (s.boot.stage ≤ 7) && decide (s.boot.fail ≤ 7) && decide (s.boot.slot ≤ 3))
    && half s.west && half s.east && (s.seq.hearths.all fun e => e.2.frames.wf)
    && [s.mem.dram, s.mem.shared, s.mem.local0, s.mem.local1, s.mem.check].all Store.wf

theorem ok_of_check {s : State} (h : okCheck s = true) : s.Ok := by
  simp only [okCheck, Bool.and_eq_true, List.all_eq_true, decide_eq_true_eq] at h
  obtain ⟨⟨⟨⟨⟨⟨⟨⟨h1, h2⟩, h3⟩, h4⟩, ⟨h5, h6⟩, h7⟩, ⟨h8, h9⟩, h10⟩, ⟨h11, h12⟩, h13⟩, h14⟩, h15⟩ := h
  simp only [List.mem_cons, List.not_mem_nil, or_false, forall_eq_or_imp, forall_eq] at h15
  exact ⟨⟨h1, h2, h3⟩, h4, ⟨h5, h6, h7⟩, ⟨h8, h9, h10⟩, ⟨h11, h12, h13⟩, h14, h15⟩

/-! ### Ill-formed commands -/

/-- A command that the checks refuse and exec refuses by name. -/
def refused (c : Instr) : Bool :=
  !c.wf && (match exec c up with
    | .refused (.illFormed _) => true
    | _ => false)

/-- Packets without words, with another row's opcode, or with a LENGTH that is not theirs. -/
theorem test_packets_ill_formed :
    ([.nop 0 [], .nop 0 (pk 1 0 0 0 []), .getStatus 0 (pk 0 0 0 0 []), .getStatus 0 (pk 1 0 0 0 [] ++ [0]),
      .readCounters 0 [], .loadImage 0 [], .openOutputs 0 [], .closeOutputs 0 [], .resetHalf 0 [], .resetDevice 0 [] 0,
      .setTime 0 [], .setRecordMode 0 [] [], .proposeProtection 0 [] [], .withdrawProposal 0 [], .setFrameRing 0 [],
      .commitRoutes 0 [], .startJob 0 [], .cancelJob 0 [], .knotSet 0 [], .knotRead 0 [], .copyIn 0 [], .copyOut 0 [],
      .invalidateTranslation 0 [], .bufferAlloc 0 [], .bufferFree 0 [], .commitTopology 0 [] []] : List Instr).all refused
      = true := by decide +kernel

/-- Frames and flits of another size, a write request without its 64 bytes, a density list of another length. -/
theorem test_operands_ill_formed :
    ([.poll [], .confirm [], .refuse [], .nameLeader (List.replicate 31 0), .flitData 0 [], .flitControl 0 [],
      .flitIdentity 0 [], .flitNak 0 [], .flitIdle 0 (List.replicate 255 0), .dramRequest 0 [⟨0, true, 0, 0, []⟩] .clean 0,
      .dramTrainingDone [] 0] : List Instr).all (fun c => !c.wf) = true := by decide +kernel

/-- The host's word numbering spells no command: no row of the table gives bits. -/
theorem test_no_words : decodeTableWord 16 0 = none ∧ decodeTableWord 64 0xFFFF = none := by decide +kernel

/-! ### Hypotheses of the statements, met: the queue and registers -/

theorem witness_StepRunsTheFrontCommand : { up with pending := [.statusBlockRefresh] }.pending = .statusBlockRefresh :: [] := rfl

theorem witness_EveryStepKeepsTheForm :
    (match step { up with pending := [.statusBlockRefresh] } with
      | .next t => t.pending.isEmpty
      | _ => false) = true := by decide +kernel

theorem witness_EmptyQueueLetsTimePass :
    State.reset.pending = [] ∧ State.reset.dev.st = .cold ∧ up.pending = [] ∧ up.dev.st ≠ .cold ∧ up.time.hp % 2 = 0
    ∧ up.time.slew = 0 ∧ up.time.slewAcc = 0 ∧ { up with time := { up.time with hp := 1 } }.time.hp % 2 = 1 := by
  decide +kernel

/-- A disabled, drained ring takes the largest sizes; one size more, or an enabled ring, does not. -/
theorem witness_RingSetupWrites :
    (State.reset.ring 31).enable = false ∧ (State.reset.ring 31).outstanding = 0 ∧ (12 : Word).toNat ≤ 12
    ∧ ¬ (13 : Word).toNat ≤ 12 ∧ (9 : Word).toNat ≤ 9 ∧ ¬ (10 : Word).toNat ≤ 9 ∧ (64 : Word).toNat % 64 = 0
    ∧ ¬ (63 : Word).toNat % 64 = 0 ∧ (up.ring 0).enable = true := by decide +kernel

/-- A tail 4096 words ahead of the head passes, one of 4097 sets OVERRUN, which its clearing holds. -/
theorem test_doorbell_bound :
    (after (.hstSqDoorbell 0 4096) up).any (fun t => !(t.ring 0).overrun) = true
    ∧ (after (.hstSqDoorbell 0 4097) up).any (fun t => (t.ring 0).overrun
        && (after (.overrunClear 0 true) t).any (fun t => !(t.ring 0).overrun && (t.ring 0).held)) = true := by decide +kernel

theorem witness_OutputSetupWrites :
    up.dev.st = .banked ∧ (128 : Word).toNat % 64 = 0 ∧ (9 : Word).toNat ≤ 9 ∧ ¬ (10 : Word).toNat ≤ 9
    ∧ State.reset.dev.st ≠ .banked ∧ (0x800000 : Word).toNat % 2 ^ 23 = 0 ∧ (0x800000 : Word).toNat < 2 ^ 40
    ∧ ¬ (0x400000 : Word).toNat % 2 ^ 23 = 0 ∧ ¬ (0x10000000000 : Word).toNat < 2 ^ 40 := by decide +kernel

theorem witness_SpeedClearedAndStatusCopied : up.host.mem.wf = true := by decide +kernel

theorem witness_RegisterWritesByAddress :
    (4 : BitVec 4) ≠ 8 ∧ (0x10014 : BitVec 24).toNat % 8 ≠ 0 ∧ (0x2F010 : BitVec 24).toNat = 0x10000 + 0x1000 * 31 + 0x10
    ∧ (0x10030 : BitVec 24).toNat = 0x10000 + 0x30 ∧ (1 : Word).getLsbD 0 = true ∧ (4 : Word).getLsbD 0 = false
    ∧ (0xFF8 : BitVec 24).toNat < 0x1000 ∧ (0xFF8 : BitVec 24).toNat % 8 = 0 ∧ 0x1000 ≤ (0xFFF8 : BitVec 24).toNat
    ∧ (0xFFF8 : BitVec 24).toNat < 0x10000 ∧ 0x30000 ≤ (0x30000 : BitVec 24).toNat
    ∧ (0x110000 : BitVec 24).toNat = 0x100000 + 0x10000 * Half.east.idx ∧ (BitVec.ofNat 64 (2 ^ 48) : Word).getLsbD 48 = true := by
  decide +kernel

/-- A HEAD count of an output ring takes 32 bits; an unlisted offset takes nothing. -/
theorem test_register_write_head :
    (after (.registerWrite 0x048 8 0x100000005) up).map (fun t => (t.host.fault.head, t.dev.ignored)) = some (5, 0)
    ∧ after (.registerWrite 0x088 8 7) up = some up := by decide +kernel

/-- The doorbell of ring 31 by its address. -/
theorem test_register_write_doorbell :
    (after (.registerWrite 0x2F010 8 77) up).any (fun t => (t.ring 31).doorbell == 77 && (t.ring 30).doorbell == 0) = true := by
  decide +kernel

/-! ### Packets -/

/-- Ring 0 was served last, and ring 1 has a packet waiting. -/
def turned : State := { up with pending := [.getStatus 1 (pk 1 0 0 3 [])], host := { up.host with adminLast := true } }

theorem witness_PacketWaitsInItsRing :
    packetOf (.getStatus 0 (pk 1 0 0 3 [])) = some (0, pk 1 0 0 3 []) ∧ (Instr.getStatus 0 (pk 1 0 0 3 [])).wf = true
    ∧ State.reset.dev.st = .cold ∧ (up.ring 2).enable = false
    ∧ ((up.ring 2).doorbell - (up.ring 2).head).toNat < (pk 1 0 0 3 []).length
    ∧ (updRing 0 (fun r => { r with rrHead := 0xFFFFFC00 }) up).dev.st = .banked
    ∧ ((updRing 0 (fun r => { r with rrHead := 0xFFFFFC00 }) up).ring 0).records
        < ((updRing 0 (fun r => { r with rrHead := 0xFFFFFC00 }) up).ring 0).rrUsed + repliesOf 1
    ∧ (headOf [0x10100]).fence = true ∧ (Instr.nop 0 [0x10100]).wf = true
    ∧ ((updRing 0 (fun r => { r with outstanding := 1 }) up).ring 0).outstanding ≠ 0
    ∧ inTurn 0 turned = false ∧ inTurn 1 turned = true ∧ queueFull (headOf (pk 1 0 0 3 [])) turned = false
    ∧ { up with dev := { up.dev with st := .quenched, dispute := true } }.dev.dispute = true
    ∧ { up with boot := { up.boot with flashDue := true } }.boot.flashDue = true := by decide +kernel

/-- A ready ring is served out of no turn: ring 0 after ring 1, and ring 1 after ring 0. -/
theorem test_turns :
    after (.getStatus 0 (pk 1 0 0 3 [])) turned = some turned
    ∧ (after (.getStatus 1 (pk 1 0 0 3 [])) turned).map (fun t => (t.host.adminLast, t.host.lastRing)) = some (false, 1) := by
  decide +kernel

/-- A START_JOB whose hoop has 255 jobs queued. -/
def fullQueue : State :=
  { (up |> image 0 [stepOf kEnd 0 0] []) with dev := { Dev.init with st := .damped, imageValid := true } }
    |> updHoop 0 fun u => { u with queue := List.replicate 255 ⟨0, 1, 1, 7, 0, 0⟩ }

theorem witness_PacketWaits_queue_full :
    ringReady 0 (headOf (pk 0x40 1 0 4 [7, 0, 0])) fullQueue = true ∧ (headOf (pk 0x40 1 0 4 [7, 0, 0])).opcode = 0x40
    ∧ 255 ≤ (fullQueue.hoop (headOf (pk 0x40 1 0 4 [7, 0, 0])).hoop).queue.length := by decide +kernel

/-- The image in DAMPED. -/
def damped (s : State) : State := { s with dev := { s.dev with st := .damped } }

/-- The image of one END step. -/
def plain : State := up |> image 0 [stepOf kEnd 0 0] []

/-- One packet for each check of R46, in its order, each meeting all the hypotheses of its clause. -/
theorem witness_PacketsAreExaminedInOrder :
    opInfo 0x99 = none ∧ examine 0 (headOf (pk 0x99 0 0 1 [])) (pk 0x99 0 0 1 []) up = some 0x10
    ∧ examine 0 (headOf (pk 1 0 0 1 [0])) (pk 1 0 0 1 [0]) up = some 0x11
    ∧ examine 0 (headOf (pk 2 0 0 1 [256, 0])) (pk 2 0 0 1 [256, 0]) up = some 0x12
    ∧ examine 1 (headOf (pk 2 0 0 1 [15, 0])) (pk 2 0 0 1 [15, 0]) up = some 0x15
    ∧ examine 1 (headOf (pk 0x50 1 0 1 [5, 0])) (pk 0x50 1 0 1 [5, 0]) plain = some 0x15
    ∧ examine 0 (headOf (pk 0x50 9 0 1 [5, 0])) (pk 0x50 9 0 1 [5, 0]) plain = some 0x14
    ∧ examine 0 (headOf (pk 0x50 1 0 1 [5, 0])) (pk 0x50 1 0 1 [5, 0]) { plain with west := HalfUnit.init } = some 0x19
    ∧ examine 0 (headOf (pk 0x31 1 0 1 [0])) (pk 0x31 1 0 1 [0]) plain = some 0x16
    ∧ examine 0 (headOf (pk 0x12 0 0 1 [])) (pk 0x12 0 0 1 []) up = some 0x16
    ∧ examine 0 (headOf (pk 0x50 1 0 1 [5, 0])) (pk 0x50 1 0 1 [5, 0]) plain = none
    ∧ examine 1 (headOf (pk 0x50 1 0 1 [5, 0])) (pk 0x50 1 0 1 [5, 0]) (put 7 8 [1] plain) = none := by decide +kernel

theorem witness_RejectedPacketGetsOneReply :
    packetOf (.closeOutputs 0 (pk 0x12 0 0 1 [])) = some (0, pk 0x12 0 0 1 [])
    ∧ (Instr.closeOutputs 0 (pk 0x12 0 0 1 [])).wf = true
    ∧ ringReady 0 (headOf (pk 0x12 0 0 1 [])) up = true ∧ queueFull (headOf (pk 0x12 0 0 1 [])) up = false
    ∧ examine 0 (headOf (pk 0x12 0 0 1 [])) (pk 0x12 0 0 1 []) up = some 0x16 := by decide +kernel

/-- Its reply has ST_BAD_STATE in bits [31:16] of its first word, KIND 1 and the tag. -/
theorem test_rejected_reply :
    (after (.closeOutputs 0 (pk 0x12 0 0 1 [])) up).map (fun t => wordAt (t.host.mem.readN 0x10000 32) 0)
      = some (BitVec.ofNat 64 (1 + at_ 16 0x16 + at_ 32 0x12 + at_ 40 1 + 2 ^ 47)) := by decide +kernel

theorem witness_PacketsThatReport :
    nopWf (pk 0 0 0 1 [5, 6]) = true ∧ ringReady 0 (headOf (pk 0 0 0 1 [5, 6])) up = true
    ∧ examine 0 (headOf (pk 0 0 0 1 [5, 6])) (pk 0 0 0 1 [5, 6]) up = none
    ∧ ok0 1 (pk 1 0 0 1 []) up = true ∧ ok0 0x51 (pk 0x51 1 0 1 [5]) plain = true
    ∧ plain.img.byte 5 5 = 1 ∧ plain.img.byte 5 6 = 17 ∧ plain.img.byte 5 4 = 0
    ∧ up.rec_.mode = .off ∧ up.host.mem.wf = true
    ∧ ok0 2 (pk 2 0 0 1 [0x10, 0x40000]) up = true ∧ up.counterBlock 0x10 ≠ none ∧ (0x40000 : Nat) % 64 = 0
    ∧ up.counterBlock 0x9C = none ∧ up.counterBlock 0x0F = none ∧ up.counterBlock 0x9B ≠ none := by decide +kernel

/-! ### Administrative packets -/

/-- The state of `plain` with outputs open. -/
def drawing : State := { plain with dev := { plain.dev with st := .drawing, outputsOpen := true } }

theorem witness_OutputsAndHalfResetsAreAsked :
    ok0 0x11 (pk 0x11 0 0 1 []) up = true ∧ up.dev.imageValid = false
    ∧ ok0 0x11 (pk 0x11 0 0 1 []) plain = true ∧ plain.dev.imageValid = true ∧ plain.img.confirmed = true
    ∧ { plain with img := { plain.img with confirmed := false } }.img.confirmed = false
    ∧ ok0 0x11 (pk 0x11 0 0 1 []) { plain with img := { plain.img with confirmed := false } } = true
    ∧ ok0 0x12 (pk 0x12 0 0 1 []) drawing = true
    ∧ ok0 0x13 (pk 0x13 0 0 1 [1]) up = true ∧ up.west.reset = .none ∧ up.west.inService = true
    ∧ ok0 0x13 (pk 0x13 0 0 1 [1]) { up with west := HalfUnit.init } = true := by decide +kernel

/-- OPEN_OUTPUTS with both halves in service draws; with one out it damps. -/
theorem test_open_outputs :
    (after (.openOutputs 0 (pk 0x11 0 0 1 [])) plain).map (·.dev.st) = some .drawing
    ∧ (after (.openOutputs 0 (pk 0x11 0 0 1 [])) { plain with east := HalfUnit.init }).map (·.dev.st) = some .damped := by
  decide +kernel

theorem witness_LoadsTimesAndRecordings :
    ok0 0x10 (pk 0x10 0 0 1 [64, 63]) up = true ∧ ok0 0x10 (pk 0x10 0 0 1 [64, 2 ^ 30]) up = true
    ∧ ok0 0x10 (pk 0x10 0 0 1 [63, 64]) up = true ∧ (BitVec.ofNat 64 63 : Word).toNat % 64 ≠ 0
    ∧ ok0 0x15 (pk 0x15 0 0 1 [9, 2000]) up = true ∧ ok0 0x15 (pk 0x15 0 0 1 [9, 2001]) up = true
    ∧ ok0 0x15 (pk 0x15 0 0 1 [9, 0xFFFFF830]) up = true ∧ ((0xFFFFF830 : Word).setWidth 32).toInt = -2000
    ∧ ok0 0x15 (pk 0x15 0 0 1 [9, 0xFFFFF82F]) up = true ∧ ((0xFFFFF82F : Word).setWidth 32).toInt = -2001
    ∧ ok0 0x16 (pk 0x16 0 0 1 [0, 0, 0]) up = true
    ∧ ok0 0x16 (pk 0x16 0 0 1 [64, 4096, 1]) plain = true ∧ ok0 0x16 (pk 0x16 0 0 1 [64, 4032, 1]) plain = true
    ∧ ok0 0x16 (pk 0x16 0 0 1 [64, 4096, 1]) up = true := by decide +kernel

/-- A recording of no entries that this device may replay: the header alone. -/
def emptySink : List Byte :=
  wordsBytes [0x155545243, plain.part.serial, plain.img.d0, 0, 0, 0, 0, 0]

theorem witness_RecordModeIsSet_replay :
    ok0 0x16 (pk 0x16 0 0 1 [64, 4096, 0]) plain = true ∧ sinkOk (slice emptySink 0 4096) plain = true
    ∧ sinkOk (slice [] 0 4096) plain = false := by decide +kernel

/-- A proposal that waits: agreement 1, asked for on ring 0. -/
def pendingProposal : Proposal := ⟨1, 55, [], 0, 3, 0⟩

/-- The state with it, its final reply owed. -/
def proposed : State :=
  { plain with img := { plain.img with proposal := some pendingProposal } } |> updRing 0 fun r => { r with outstanding := 1 }

/-- A proposal of one knot: header, section header of table 5 from entry 70, one byte padded. -/
def oneKnot : List Byte := toLE 4 1 ++ toLE 4 1 ++ toLE 8 0 ++ toLE 8 (5 + at_ 32 70) ++ toLE 8 1 ++ List.replicate 32 0

theorem witness_ProposalsWaitForTheMonitor :
    ok0 0x20 (pk 0x20 0 0 1 [64, 64]) plain = true ∧ plain.img.proposal = none
    ∧ (oneKnot.getD 0 0).toNat + 256 * (oneKnot.getD 1 0).toNat + 65536 * (oneKnot.getD 2 0).toNat
        + 16777216 * (oneKnot.getD 3 0).toNat = plain.img.agreed + 1
    ∧ ok0 0x20 (pk 0x20 0 0 1 [64, 63]) plain = true ∧ ok0 0x20 (pk 0x20 0 0 1 [64, 32769]) plain = true
    ∧ ok0 0x20 (pk 0x20 0 0 1 [64, 64]) proposed = true ∧ proposed.img.proposal.isSome = true
    ∧ ok0 0x21 (pk 0x21 0 0 1 []) plain = true ∧ ok0 0x21 (pk 0x21 0 0 1 []) proposed = true
    ∧ proposed.img.proposal = some pendingProposal ∧ plain.img.completed = false
    ∧ { plain with img := { plain.img with completed := true } }.img.completed = true := by decide +kernel

/-- A withdrawal after the CONFIRM comes too late. -/
theorem test_withdraw_too_late :
    (after (.withdrawProposal 0 (pk 0x21 0 0 1 [])) { plain with img := { plain.img with completed := true } }).map
      (fun t => (wordAt (t.host.mem.readN 0x10000 32) 0).toNat / 2 ^ 16 % 2 ^ 16) = some 0x18 := by decide +kernel

/-- Hoop 0 may use the first 4 MiB of the shared store, where context 1 maps its first 2 MiB by a leaf of that size. -/
def paged (s : State) : State :=
  let s := s |> put 2 0 [3 + 0xF000000000, 64] |> put 6 16 [1 + 0xF000000000, 0]
  { s with mem := { s.mem with shared := s.mem.shared |> (·.writeN 0 (toLE 8 0xF000001001))
      |> (·.writeN 0x1000 (toLE 8 0xF000002001)) |> (·.writeN 0x2000 (toLE 8 0xF00020000F))
      |> (·.writeN 0x200000 (toLE 8 42)) } }

/-- A valid route of key 16 to context 1 with recipe 0 and knot 6. -/
def routed : State := put 10 (16 * 32) [1 + at_ 1 1 + at_ 21 6, 0, 0, 0] plain

/-- Its camera is there, its ring pending. -/
def ringPending : State :=
  damped (updKey 16 (fun k => { k with pending := some (1, [0x10000]) }) routed)

/-- The port of a camera that was discovered with channel 0. -/
def cameraReady : State → State := updPort 1 fun p => { p with link := 3, found := [0] }

/-- The route's recipe is a COPY of 128 bytes, and its buffer lies where context 1 maps it. -/
def reached (s : State) : State := paged (put 12 0 [at_ 3 3, 0, 0, 128] s)

/-- The same, with the leading half's path down. -/
def pathless : State := cameraReady { ringPending with west := { ringPending.west with pathOk := false } }

theorem witness_FrameRingsReach :
    ok0 0x30 (pk 0x30 1 0 1 [1 + at_ 16 1, 0x10000]) (reached routed) = true
    ∧ (probeBuffers 1 1 128 [0x10000] (taken 0 (pk 0x30 1 0 1 [1 + at_ 16 1, 0x10000]) (reached routed))).1 = true
    ∧ rcpBytes ((reached routed).img.entry 12 (routeRecipe ((reached routed).img.entry 10 16))) = 128
    ∧ (probeBuffers 1 1 128 [0x200000] (taken 0 (pk 0x30 1 0 1 [1 + at_ 16 1, 0x200000]) (reached routed))).1 = false
    ∧ ((updKey 16 (fun k => { k with commit := some (⟨0, 1, 1, 0, 0⟩, []) }) routed).key 16).commitOwed = true
    ∧ ringPending.commitWaits 16 ⟨0, 1, 0x31, 1, 0⟩ = false ∧ (cameraReady ringPending).commitWaits 16 ⟨0, 1, 0x31, 1, 0⟩ = true
    ∧ ringPending.controlOk = true ∧ pathless.controlOk = false ∧ ok0 0x31 (pk 0x31 1 0 1 [1]) pathless = true := by
  decide +kernel

/-- A commit written while the leading half's path is down is dropped and counted by the other half, and waits. -/
theorem test_commit_path_down :
    (after (.commitRoutes 0 (pk 0x31 1 0 1 [1])) pathless).map (fun t => (t.east.ctrlDropped, (t.key 16).commit.isSome))
      = some (1, true) := by decide +kernel

theorem witness_FrameRingsWaitForAFrame :
    ok0 0x30 (pk 0x30 1 0 1 [1 + at_ 16 1, 0x10000]) routed = true ∧ (1 + at_ 16 1) / 32 % 2048 < 16
    ∧ (1 + at_ 16 1) / 65536 % 32 = (pk 0x30 1 0 1 [1 + at_ 16 1, 0x10000]).length - 2 ∧ routed.dev.imageValid = true
    ∧ routeValid (routed.img.entry 10 16) = true ∧ routeCtx (routed.img.entry 10 16) = 1 ∧ 0x10000 % 64 = 0
    ∧ routed.pendingElsewhere 1 0 1 = false ∧ (routed.key 16).commit = none
    ∧ ok0 0x30 (pk 0x30 1 0 1 [1 + at_ 5 16 + at_ 16 1, 0x10000]) routed = true ∧ ¬ (1 + at_ 5 16 + at_ 16 1) / 32 % 2048 < 16
    ∧ ok0 0x31 (pk 0x31 1 0 1 [1]) (damped routed) = true
    ∧ (∀ i, i < 16 → ((damped routed).key (16 * 1 + i)).pending = none)
    ∧ ok0 0x31 (pk 0x31 1 0 1 [1]) ringPending = true ∧ (ringPending.key (16 * 1 + 0)).pending = some (1, [0x10000])
    ∧ ringPending.sourcePresent 16 = false ∧ ringPending.rec_.mode ≠ .replay
    ∧ ok0 0x31 (pk 0x31 1 0 1 [1]) (cameraReady ringPending) = true
    ∧ (cameraReady ringPending).sourcePresent 16 = true ∧ ((cameraReady ringPending).key 16).pending = some (1, [0x10000]) := by
  decide +kernel

/-! ### Jobs, knots, buffers, copies -/

theorem witness_JobsAreQueuedAndAdmitted :
    ok0 0x40 (pk 0x40 1 0 9 [8, 0, 0]) (damped plain) = true ∧ (damped plain).prickOff 8 = none
    ∧ ok0 0x40 (pk 0x40 1 0 9 [7, 0, 0]) (damped plain) = true ∧ (damped plain).prickOff 7 ≠ none
    ∧ prkHoop ((damped plain).prick 7) = 0 ∧ ((damped plain).hoop 0).job = none ∧ ((damped plain).hoop 0).queue = []
    ∧ ((damped plain).hoop 0).roundHold = [] ∧ Tab.get [] (damped plain).img.heldHoops 0 = []
    ∧ (damped plain).rec_.mode = .off
    ∧ (∀ l ∈ (damped plain).hoopPositions 0, ((damped plain).place l).retest = none ∧ ((damped plain).place l).fence = false
        ∧ ((damped plain).place l).vacant = false)
    ∧ ok0 0x40 (pk 0x40 2 1 9 [7, 0, 0]) (damped plain) = true ∧ prkHoop ((damped plain).prick 7) ≠ 1
    ∧ ok0 0x40 (pk 0x40 1 0 9 [7, 0, 0]) (damped (running kWait [])) = true
    ∧ ((damped (running kWait [])).hoop 0).job ≠ none := by decide +kernel

/-- A job that reads one argument word is not READY at its admission, one of none is. -/
theorem test_admission :
    (after (.startJob 0 (pk 0x40 1 0 9 [7, 0, 0])) (damped plain)).map (fun t => ((t.hoop 0).job.map (·.st), (t.ring 0).outstanding))
      = some (some .ready, 1)
    ∧ (after (.startJob 0 (pk 0x40 1 0 9 [7, 0, 0])) (damped (up |> image 1 [stepOf kEnd 0 0] []))).map
        (fun t => (t.hoop 0).job.map (·.st)) = some (some .reading) := by decide +kernel

/-- The job of `jobOf` READY in hoop 0. -/
def readyJob : State := damped (withJob (jobOf .ready 0 []) plain)

/-- A job of tag 3 queued behind one of tag 2. -/
def queued : State :=
  damped (updHoop 0 (fun u => { u with queue := [⟨0, 2, 1, 7, 0, 0⟩, ⟨0, 3, 1, 7, 0, 0⟩] }) plain)
    |> updRing 0 fun r => { r with outstanding := 2 }

theorem witness_JobsAreCancelled :
    ok0 0x41 (pk 0x41 1 0 1 [3]) queued = true ∧ (queued.hoop 0).queue.head? = some ⟨0, 2, 1, 7, 0, 0⟩
    ∧ ok0 0x41 (pk 0x41 1 0 1 [4]) queued = true ∧ (queued.hoop 0).job = none
    ∧ (∀ q ∈ (queued.hoop 0).queue, q.tag ≠ 4)
    ∧ ok0 0x41 (pk 0x41 1 0 1 [9]) readyJob = true ∧ (readyJob.hoop 0).job = some (jobOf .ready 0 [])
    ∧ (readyJob.hoop 0).queue = [] ∧ (jobOf .ready 0 []).q.tag = 9
    ∧ ok0 0x41 (pk 0x41 1 0 1 [9]) (damped (running kWait [])) = true
    ∧ ((damped (running kWait [])).hoop 0).job = some (jobOf .running 1 [rel 0 [0]]) := by decide +kernel

theorem witness_KnotsAndBuffersChangeForTheirOwner :
    ok0 0x50 (pk 0x50 1 0 1 [5, 3]) plain = true ∧ plain.img.byte 5 5 = 0 + 1
    ∧ ok0 0x50 (pk 0x50 1 0 1 [6, 3]) plain = true ∧ plain.img.byte 5 6 ≠ 0 + 1
    ∧ ok0 0x63 (pk 0x63 1 0 1 [0]) plain = true ∧ poolValid (plain.img.entry 9 0) = true
    ∧ poolHoop (plain.img.entry 9 0) = 0 ∧ plain.poolQueue 0 = 0 :: [1]
    ∧ ok0 0x63 (pk 0x63 1 0 1 [1]) plain = true ∧ poolValid (plain.img.entry 9 1) = false
    ∧ ok0 0x63 (pk 0x63 2 1 1 [0]) plain = true
    ∧ ok0 0x63 (pk 0x63 1 0 1 [0]) { plain with pools := ⟨[], [(0, [])]⟩ } = true
    ∧ { plain with pools := ⟨[], [(0, [])]⟩ }.poolQueue 0 = [] := by decide +kernel

/-- Buffer 1 of pool 0 owned by context 1 under the last generation before the wrap. -/
def owned : State := { plain with pools := ⟨[(1, ⟨some 1, 0xFFFFFF⟩)], [(0, [0])]⟩ }

theorem witness_BuffersAreFreedByTheirOwner :
    ok0 0x64 (pk 0x64 1 0 1 [at_ 8 1 + at_ 24 0xFFFFFF]) owned = true ∧ 1 < poolCount (owned.img.entry 9 0)
    ∧ (owned.buffer 0 1).gen = 0xFFFFFF ∧ (owned.buffer 0 1).owner = some 1
    ∧ ok0 0x64 (pk 0x64 1 0 1 [at_ 8 1 + at_ 24 0xFFFFFE]) owned = true
    ∧ ok0 0x64 (pk 0x64 1 0 1 [at_ 8 2 + at_ 24 1]) owned = true ∧ ¬ 2 < poolCount (owned.img.entry 9 0) := by decide +kernel

/-- The generation after 0xFFFFFF is 1, and the handle holds pool, index and generation. -/
theorem test_buffer_generation_wraps :
    (after (.bufferAlloc 0 (pk 0x63 1 0 1 [0])) { plain with pools := ⟨[(0, ⟨none, 0xFFFFFF⟩)], []⟩ }).map
      (fun t => (t.buffer 0 0, t.poolQueue 0, wordAt (t.host.mem.readN 0x10000 32) 24)) = some (Buffer.mk (some 1) 1, [1], BitVec.ofNat 64 (at_ 24 1)) := by
  decide +kernel

theorem witness_CopiesAndInvalidationsStart :
    ok0 0x60 (pk 0x60 1 0 1 [64, 0, 64]) plain = true ∧ ok0 0x60 (pk 0x60 1 0 1 [63, 0, 64]) plain = true
    ∧ ok0 0x61 (pk 0x61 1 0 1 [64, 0, 64]) plain = true ∧ ok0 0x61 (pk 0x61 1 0 1 [64, 0, 0]) plain = true
    ∧ ok0 0x62 (pk 0x62 1 0 1 [0x10000, 1]) plain = true ∧ ok0 0x62 (pk 0x62 1 0 1 [0x10000, 0]) plain = true
    ∧ ok0 0x62 (pk 0x62 1 0 1 [0x10000, 1 + at_ 32 5 + 2 ^ 63]) plain = true
    ∧ (BitVec.ofNat 64 (1 + at_ 32 5 + 2 ^ 63)).getLsbD 63 = true ∧ plain.img.byte 5 5 = 0 + 1
    ∧ ok0 0x62 (pk 0x62 1 0 1 [0x10000, 1 + at_ 32 6 + 2 ^ 63]) plain = true ∧ plain.img.byte 5 6 ≠ 0 + 1 := by decide +kernel

/-! ### Work that ends later -/

/-- A load that waits, with nothing in its way; a flash image due. -/
def loadWaits : State := { up with img := { up.img with loads := [⟨0, 1, 0, 64, []⟩] } }
def flashWaits : State := { up with boot := { up.boot with flashDue := true, imageBytes := 64 } }

theorem witness_CopiesTranslate :
    (copyPieces 1 true (pieces 64 64) (accepted 0 (pk 0x60 1 0 1 [64, 64, 64]) 0 (paged plain))).1 = some [(0xF000200040, 64)]
    ∧ (copyPieces 1 true (pieces 64 64) (accepted 0 (pk 0x60 1 0 1 [64, 64, 64]) 0 plain)).1 = none
    ∧ ok0 0x60 (pk 0x60 1 0 1 [64, 64, 64]) (paged plain) = true ∧ ok0 0x61 (pk 0x61 1 0 1 [64, 64, 64]) (paged plain) = true := by
  decide +kernel

/-- A copy out of 64 bytes under way, and two invalidations. -/
def theCopy : Copy := ⟨false, 0, 1, 1, 0, 0, 0, 64, [(0, 0)]⟩
def copying : State :=
  { plain with img := { plain.img with copies := [theCopy], invals := [⟨1, 0, 1, .packet 0 2 0 (some 5), []⟩, ⟨1, 0, 1, .step 0 0, []⟩] } }
    |> updRing 0 fun r => { r with outstanding := 2 }

theorem witness_ImagesLoadWholeOrNot :
    loadWaits.img.loads = [⟨0, 1, 0, 64, []⟩] ∧ loadWaits.dev.st = .banked ∧ up.img.loads = [] ∧ State.reset.dev.st ≠ .banked
    ∧ { loadWaits with img := { loadWaits.img with loads := [⟨0, 1, 0, 64, [(0, 1)]⟩] } }.img.loads = [⟨0, 1, 0, 64, [(0, 1)]⟩]
    ∧ flashWaits.boot.flashDue = true ∧ flashWaits.dev.st = .banked := by decide +kernel

theorem witness_CopiesAndInvalidationsEnd :
    copying.img.copies.find? (fun c => c.ring == (0 : BitVec 5).toNat && c.tag == (1 : BitVec 16).toNat) = some theCopy
    ∧ theCopy.isIn = false ∧ copying.img.invals[0]? = some ⟨1, 0, 1, .packet 0 2 0 (some 5), []⟩
    ∧ copying.img.invals[1]? = some ⟨1, 0, 1, .step 0 0, []⟩ := by decide +kernel

/-- Every address lies in a cell of the device's own memory, and no cell comes twice. -/
def plainly (addr : Nat → Nat) (n : Nat) (s : State) : Bool :=
  let cells := (List.range n).map fun i => cellAt s (addr i)
  (cells.all fun c => c.any fun k => decide (k.1 < 2)) && decide cells.Nodup

theorem plain_of_plainly {addr : Nat → Nat} {n : Nat} {s : State} (h : plainly addr n s = true) : Plain addr n s := by
  simp only [plainly, Bool.and_eq_true, List.all_eq_true, List.mem_map, List.mem_range, decide_eq_true_eq] at h
  refine ⟨fun i hi => ?_, fun i j hi hj e => ?_⟩
  · have := h.1 _ ⟨i, hi, rfl⟩
    cases hc : cellAt s (addr i) with
    | none => simp [hc] at this
    | some k => exact ⟨k, rfl, by simpa [hc] using this⟩
  · have hn := List.pairwise_iff_getElem.mp h.2
    have apart (a b : Nat) (ha : a < n) (hb : b < n) (e : cellAt s (addr a) = cellAt s (addr b)) : ¬a < b := fun hab =>
      hn a b (by simpa using ha) (by simpa using hb) hab (by simpa using e)
    exact Nat.le_antisymm (Nat.le_of_not_lt (apart j i hj hi e.symm)) (Nat.le_of_not_lt (apart i j hi hj e))

/-- A copy of 64 bytes whose piece lies in the shared store. -/
def sharedCopy (isIn : Bool) : Copy := ⟨isIn, 0, 1, 1, 0, 0x80, 64, 64, [(0xF000200040, 64)]⟩
def copyingTo (isIn : Bool) : State :=
  let s := paged plain
  { s with img := { s.img with copies := [sharedCopy isIn] } } |> updRing 0 fun r => { r with outstanding := 1 }

theorem witness_CopiesMoveTheirBytes :
    (copyingTo true).img.copies.find? (fun c => c.ring == 0 && c.tag == 1) = some (sharedCopy true)
    ∧ ((sharedCopy true).pages.map (·.2)).sum = (sharedCopy true).bytes
    ∧ plainly (pieceAddr (sharedCopy true).pages) 64 (copyingTo true) = true
    ∧ (readPhysPieces (copyingTo false) 0 (sharedCopy false).pages).toOption.isSome = true
    ∧ (readPhysPieces (copyingTo false) 0 [(0, 64)]).toOption.isSome = false
    ∧ (copyingTo true).rec_.mode ≠ .record := by decide +kernel

theorem witness_CopiesMoveTheirBytes_ok : (copyingTo true).Ok ∧ Plain (pieceAddr (sharedCopy true).pages) 64 (copyingTo true) :=
  ⟨ok_of_check (by decide +kernel), plain_of_plainly witness_CopiesMoveTheirBytes.2.2.1⟩

/-- Context 1's first page translates, and its bytes lie in the shared store. -/
theorem witness_AccessesReachTheirBytes :
    (translate (.walker .west) 1 0 true (paged plain)).1 = some 0xF000200000
    ∧ (translate (.walker .west) 1 0 false (paged plain)).1 = some 0xF000200000 ∧ (0 : Nat) % 65536 + 64 ≤ 65536
    ∧ (paged plain).Ok ∧ Plain (0xF000200000 + ·) 64 (paged plain) :=
  ⟨by decide +kernel, by decide +kernel, by decide, ok_of_check (by decide +kernel), plain_of_plainly (by decide +kernel)⟩

/-- The bytes of a copy in stand where its piece lies. -/
theorem test_copy_in :
    (after (.copyDone 0 1 (List.replicate 64 7) none []) (copyingTo true)).map
      (fun t => (t.mem.shared.read 0x20003F, t.mem.shared.read 0x200040, t.mem.shared.read 0x20007F, t.mem.shared.read 0x200080))
      = some (0, 7, 7, 0) := by decide +kernel

theorem witness_TheDeviceResets :
    ok0 0x14 (pk 0x14 0 0 1 []) up = true ∧ up.pins.poresetN = true ∧ State.reset.pins.poresetN = false := by decide +kernel

/-- A topology record of one device at epoch 1: its serial at rank 0. -/
def alone (epoch : Nat) : List Byte := wordsBytes ((List.range 40).map fun i => if i = 0 then BitVec.ofNat 64 epoch else 0)

theorem witness_TopologyIsCommitted :
    let c (n e : Nat) := topoFault n ((List.range 40).map fun i => wordAt (alone e) (8 * i)) up
    ok0 0x70 (pk 0x70 0 0 1 [64, 320]) up = true ∧ ok0 0x70 (pk 0x70 0 0 1 [64, 319]) up = true
    ∧ c 319 1 = some 5 ∧ topoReserved ((List.range 40).map fun i => wordAt (alone 0) (8 * i)) = true
    ∧ topoEpoch ((List.range 40).map fun i => wordAt (alone 0) (8 * i)) ≤ up.link.epoch ∧ c 320 0 = some 1
    ∧ topoReserved ((List.range 40).map fun i => wordAt (wordsBytes (List.replicate 40 1)) (8 * i)) = false := by decide +kernel

/-- A device with serial 5, and a topology record of it alone that has no fault. -/
def serial5 : State := { up with part := { up.part with serial := 5 } }
def good5 : List Byte :=
  wordsBytes ((List.range 40).map fun i => if i = 0 then 1 else if i = 1 then BitVec.ofNat 64 (10 + at_ 20 1) else if i = 8 then 5 else 0)

theorem witness_TopologyIsCommitted_accepted :
    ok0 0x70 (pk 0x70 0 0 1 [64, 320]) serial5 = true
    ∧ topoFault 320 ((List.range 40).map fun i => wordAt good5 (8 * i)) serial5 = none := by decide +kernel

/-! ### Steps and their parts -/

theorem witness_PaceTickAdvancesTime :
    State.reset.dev.st = .cold ∧ up.dev.st ≠ .cold ∧ up.west.reset = .none
    ∧ { up with west := { up.west with reset := .asserted } }.west.reset ≠ .none := by decide +kernel

/-- A job with one END step to release. -/
def releasing : State := up |> image 0 [stepOf kEnd 0 0] [] |> withJob (jobOf .ready 0 [])

/-- A job that reads one argument word, which no context of the image maps. -/
def readingArgs : State := up |> image 1 [stepOf kEnd 0 0] [] |> withJob (jobOf .reading 0 [])

/-- The same, with context 1 mapping its first page to the shared store: four levels of table in a channel set of one channel. -/
theorem witness_StepsAreReleasedWithTheirArguments :
    hoopPaced (releasing.hoopEntry 0) = false ∧ (releasing.hoop 0).job = some (jobOf .ready 0 [])
    ∧ releasing.eligible 0 (jobOf .ready 0 []) false = true ∧ (releasing.hoop 1).job = none
    ∧ hoopPaced ((put 1 0 [1 + at_ 3 1 + at_ 5 3] releasing).hoopEntry 0) = true
    ∧ (readingArgs.hoop 0).job = some (jobOf .reading 0 []) ∧ (jobOf .reading 0 []).st = .reading
    ∧ (vread (.walker (readingArgs.hoopHome 0)) 1 0 8 readingArgs).1.toOption = none := by decide +kernel

theorem witness_ArgumentsAreRead :
    ((paged readingArgs).hoop 0).job = some (jobOf .reading 0 [])
    ∧ (vread (.walker ((paged readingArgs).hoopHome 0)) 1 0 8 (paged readingArgs)).1.toOption = some (toLE 8 42) := by
  decide +kernel

/-- The job is READY with the word that stands at the argument's address. -/
theorem test_argument_word :
    (after (.argumentReadDone 0 .clean) (paged readingArgs)).map (fun t => (t.hoop 0).job.map fun j => (j.st, j.args))
      = some (some (.ready, [42])) := by decide +kernel

/-- Bytes placed in the firebox of hearth 0. -/
def box (a : Nat) (ws : List Nat) : State → State := updHearth 0 fun x => x.write a (ws.flatMap (toLE 8))

/-- A pass group of one pass with one row, K and N 1, INT8 operands, an INT32 output; its scale record at offset 0x8000; the
landing range is page 2, the destination page 1. -/
def onePass : List (List Nat) :=
  [[1 + at_ 10 2 + at_ 14 2 + at_ 18 5 + at_ 32 1 + at_ 42 1, 1 + at_ 11 2 + at_ 22 1 + at_ 33 1, 0, 512],
   [0, 2, at_ 0 64], [at_ 0 128 + at_ 19 1, 0, at_ 32 1 + at_ 48 1, at_ 24 1]]

/-- That group running on hearth 0: a tile of 5 at 0x1000, a row of 7 at 0x2000, scales 1. -/
def passing : State :=
  running kPass onePass |> box 0x8000 [0x3F8000003F800000, 0x3F800000] |> box 0x1000 [5] |> box 0x2000 [7]

/-- The part of that step. -/
def thePart (s : State) : Part4 := ⟨0, 0, 0, .west, 0, 0, ((s.hoop 0).job.getD (jobOf .ready 0 []))⟩

theorem witness_PassGroupsCommit :
    passing.part4 [kPass, kAttend] 0 0 0 = some (thePart passing) ∧ groupOpen (thePart passing) passing = true
    ∧ isAppend (thePart passing) passing = false
    ∧ passResult (thePart passing) passing = .done [(0, toLE 4 35)] 0 0 0 [] := by decide +kernel

/-- No corrected error. -/
def noFix : Corrected := ⟨0, []⟩

/-- After the commit the destination page holds 5 x 7; one corrected error counts. -/
theorem test_pass_commit :
    (after (.passGroupCommit 0 0 0 ⟨1, []⟩) passing).map (fun t => (ofLE ((t.hearth 0).bytes 0x1000 4), (t.hearth 0).started,
      Tab.get 0 (t.hearth 0).ctr 0, Tab.get 0 (t.hearth 0).ctr 4)) = some (35, 1, 1, 1) := by decide +kernel

/-- Without a scale record the group is abandoned. -/
def badScale : State := running kPass onePass

theorem witness_PassGroupsAbandon :
    badScale.part4 [kPass, kAttend] 0 0 0 = some (thePart badScale) ∧ groupOpen (thePart badScale) badScale = true
    ∧ passResult (thePart badScale) badScale = .fault .scaleInvalid 0 0 0 0
    ∧ (∀ h, badScale.hoopOfPos (thePart badScale).log = some h → computeParts h ((thePart badScale).log % 8) (some 0) badScale = [])
    ∧ badScale.part4 [kPass, kTransform, kAttend] 0 0 0 = some (thePart badScale)
    ∧ physicalCause kPass true .arrayCheck = true ∧ isCheck .arrayCheck = true ∧ badScale.detectOnly 0 = false
    ∧ stopsBefore (thePart passing) 0 passing = false ∧ (put 24 0 [at_ 24 1] passing).detectOnly 0 = true
    ∧ passResult (thePart (put 24 0 [at_ 24 1] passing)) (put 24 0 [at_ 24 1] passing) = .done [(0, toLE 4 35)] 0 0 0 []
    ∧ physicalCause kPass true .storeUncorrectable = true ∧ isCheck .storeUncorrectable = false := by decide +kernel

/-- The same group as an APPEND's, its tokens one key and value of a cache that context 1 maps. -/
def appending : State :=
  up |> image 0 [stepOf kAttend 1 3] (onePass ++ [[1, 0, 0, 0, 0, 0, 0, 0]]) |> withJob (jobOf .running 1 [rel 0 [0]])
    |> box 0x8000 [0x3F8000003F800000, 0x3F800000] |> box 0x1000 [5] |> box 0x2000 [7]

/-- Its group has committed. -/
def grouped : State := withJob (jobOf .running 1 [{ rel 0 [0] with grouped := [0] }]) appending

theorem witness_Append :
    appending.part4 [kPass, kAttend] 0 0 0 = some (thePart appending) ∧ isAppend (thePart appending) appending = true
    ∧ groupOpen (thePart appending) appending = true ∧ groupedPart (thePart appending) appending = false
    ∧ (match passResult (thePart appending) appending with
        | .done .. => true
        | .fault .. => false) = true
    ∧ grouped.part4 [kAttend] 0 0 0 = some (thePart grouped) ∧ isAppend (thePart grouped) grouped = true
    ∧ groupedPart (thePart grouped) grouped = true := by decide +kernel

/-- One block of keys, one token; the leaf of context 1 where nothing lies. -/
def tokens : State :=
  withJob (jobOf .running 1 [{ rel 0 [0] with grouped := [0] }])
    (up |> image 0 [stepOf kAttend 1 3] (onePass ++ [[1 + at_ 6 2 + at_ 10 2, 1]])) |> box 0x1000 [5]
def holed (s : State) : State :=
  let s := paged s |> put 2 16 [3, 64]
  { s with mem := { s.mem with shared := s.mem.shared.writeN 0x2000 (toLE 8 0xF) } }

theorem witness_AppendsWriteTheirTokens :
    (paged tokens).part4 [kAttend] 0 0 0 = some (thePart (paged tokens)) ∧ isAppend (thePart (paged tokens)) (paged tokens) = true
    ∧ groupedPart (thePart (paged tokens)) (paged tokens) = true
    ∧ (let a := appendPhase (thePart (paged tokens)) (paged tokens); a.past = false ∧ a.reach = true ∧ a.fault = none ∧ a.tokens = 1)
    ∧ (let a := appendPhase (thePart tokens) tokens; a.past = false ∧ a.reach = false)
    ∧ (appendPhase (thePart grouped) grouped).past = true
    ∧ (let a := appendPhase (thePart (holed tokens)) (holed tokens); a.past = false ∧ a.reach = true ∧ a.fault ≠ none)
    ∧ (∀ h, (holed tokens).hoopOfPos 0 = some h → computeParts h (0 % 8) (some 0) (holed tokens) = []) := by decide +kernel

/-- A transform of one 16 x 16 tile with a 1 x 1 filter, INT8 in, INT32 out, one output position. -/
def oneTile : List (List Nat) :=
  [[at_ 12 1 + at_ 22 1 + at_ 32 2 + at_ 36 2 + at_ 40 5, 1, 64 + at_ 17 512, 0, 1 + at_ 11 2 + at_ 22 1 + at_ 33 1, 1 + at_ 16 1],
   [at_ 0 128 + at_ 19 1, 0, at_ 32 1 + at_ 48 1, at_ 24 1]]

def transforming : State :=
  running kTransform oneTile |> box 0x8000 [0x3F8000003F800000, 0x3F800000] |> box 0x1000 [5] |> box 0x2000 [7]

theorem witness_Transforms :
    transforming.part4 [kTransform] 0 0 0 = some (thePart transforming)
    ∧ transformResult (thePart transforming) transforming = .done [(0, toLE 4 35)] 0 0 0 []
    ∧ (running kTransform oneTile).part4 [kTransform] 0 0 0 = some (thePart (running kTransform oneTile))
    ∧ transformResult (thePart (running kTransform oneTile)) (running kTransform oneTile) = .fault .scaleInvalid 0 0 0 0 := by
  decide +kernel

/-- FORWARD on one query row of 32 INT8 values whose window excludes every key of its one block. -/
def emptyWindow : List (List Nat) :=
  [[at_ 6 2 + at_ 10 2 + at_ 14 3 + at_ 18 2, 1 + at_ 30 1, at_ 17 256 + at_ 34 512, 0, 0, 0, 1 + at_ 11 2 + at_ 22 1, 0]]

def attending : State :=
  running kAttend emptyWindow |> box 0x8000 [0x3F8000003F800000, 0x3F8000003F800000, 0x3F800000]
    |> box 0x4000 [0, 0, 1000, 0]

theorem witness_Attention :
    attending.part4 [kAttend] 0 0 0 = some (thePart attending) ∧ isAppend (thePart attending) attending = false
    ∧ (match (runAttend (thePart attending) attending).1 with
        | .ok o => o.empty == 1 && !o.checked
        | .error _ => false) = true
    ∧ (running kAttend emptyWindow).part4 [kAttend] 0 0 0 = some (thePart (running kAttend emptyWindow))
    ∧ (match (runAttend (thePart (running kAttend emptyWindow)) (running kAttend emptyWindow)).1 with
        | .error .scaleInvalid => true
        | _ => false) = true := by decide +kernel

/-- A TRANSFER, a RESULT and a COLLECTIVE step running; the last of a device that stands alone. -/
def moving : State := running kTransfer [[0, 0, 0, 0, 0, at_ 0 1 + at_ 16 1]]
def handing : State := damped (paged (running kResult [[at_ 6 1, 0, 64]]))
def collecting : State := running kCollective [[0, 0, 0, 0]]

/-- An uncompressed 2 x 2 rectangle of INT8 positions moved within the firebox of hearth 0. -/
def boxing : State :=
  running kTransfer [[3 + at_ 2 2 + at_ 4 2 + at_ 6 2, 0x1000, 0x2000, 128 + at_ 32 64, 128 + at_ 32 64, 2 + at_ 16 2]]
    |> box 0x1000 [5] |> box 0x10C0 [6]

theorem witness_TransfersMoveTheirRectangle :
    boxing.part4 [kTransfer] 0 0 0 = some (thePart boxing) ∧ (moveOf (thePart boxing) boxing).1.srcF = none
    ∧ (writeList (thePart boxing) (moveOf (thePart boxing) boxing).1.dst 0 (moveOf (thePart boxing) boxing).1.us 0
        (moveOf (thePart boxing) boxing).2).2.1 = none
    ∧ (moveOf (thePart boxing) boxing).1.dst.box = true ∧ (moveOf (thePart boxing) boxing).1.src.box = true
    ∧ (moveOf (thePart boxing) boxing).1.src.lay ≠ 3 ∧ (moveOf (thePart boxing) boxing).1.dst.lay ≠ 3
    ∧ (moveOf (thePart boxing) boxing).1.us.map (fun u => (u.addr, u.bytes)) = [(0x2000, [5]), (0x2040, [0]), (0x2080, [0]), (0x20C0, [6])]
    ∧ (boxing.hearth 0).frames.wf = true ∧ (boxing.hearth 0).pageMap = []
    ∧ (moveOf (thePart moving) moving).1.srcF ≠ none := by decide +kernel

/-- The corners of the rectangle stand in the destination. -/
theorem test_transfer_box :
    (after (.transferDone 0 0 0 none noFix) boxing).map (fun t => ((t.hearth 0).byte 0x2000, (t.hearth 0).byte 0x2001,
      (t.hearth 0).byte 0x20C0, (t.hearth 0).byte 0x10C0)) = some (5, 0, 6, 6) := by decide +kernel

/-- The collective of `collecting`. -/
def theColl (s : State) : Coll :=
  ⟨0, 0, (s.hoop 0).job.getD (jobOf .ready 0 []), s.stepAt 7 0, s.descUnit 7 0⟩

theorem witness_TransfersHandoversAndCollectivesEnd :
    moving.part4 [kTransfer] 0 0 0 = some (thePart moving)
    ∧ handing.openPart 0 0 0 = some (jobOf .running 1 [rel 0 [0]], rel 0 [0]) ∧ stepKind (handing.stepAt 7 0) = kResult
    ∧ handing.harmless = false
    ∧ (vread (.walker (handing.hoopHome 0)) 1 0 64 handing).1.toOption = some (toLE 8 42 ++ List.replicate 56 0)
    ∧ ((readFrames .west 1 (handing.descUnit 7 0) [] (List.range 1) handing).1.all fun x => !x.isEmpty) = true
    ∧ collecting.coll 0 0 = some (theColl collecting) ∧ collecting.gathered (theColl collecting) .west = some []
    ∧ collecting.collJoined (theColl collecting) = true ∧ clOp (theColl collecting).desc ≠ 5 := by decide +kernel

/-- All-reduce of one INT8 element: mapped, from an unmapped source, to an unmapped destination. -/
def reducing (src dst : Nat) : State := paged (running kCollective [[at_ 5 2, src, dst, 1]])

theorem witness_CollectivesReduce :
    let run (s : State) : CollRun := collRun (theColl s) [] s
    (reducing 0 64).coll 0 0 = some (theColl (reducing 0 64)) ∧ (reducing 0 64).gathered (theColl (reducing 0 64)) .west = some []
    ∧ (reducing 0 64).collJoined (theColl (reducing 0 64)) = true
    ∧ (run (reducing 0 64)).own.toOption = some [42] ∧ (run (reducing 0 64)).wrote.toOption = some ()
    ∧ ((run (reducing 0x200000 64)).own).toOption = none
    ∧ (run (reducing 0 0x200000)).own.toOption = some [42] ∧ ((run (reducing 0 0x200000)).wrote).toOption = none := by decide +kernel

/-- INT8 sums within the format, below and above it; the greatest and the least. -/
theorem test_reductions :
    reduceOne 0 2 [1, 0xFE] = (0xFF, false) ∧ reduceOne 0 2 [156, 156] = (128, true) ∧ reduceOne 0 2 [100, 100] = (127, true)
    ∧ (reduceOne 1 2 [100, 156]).1 = 100 ∧ (reduceOne 2 2 [100, 156]).1 = 156 ∧ fmtInt 2 = true := by decide +kernel

/-- The stop of a step past its watchdog, and the step before it is due. -/
def overdue : State := { running kPass onePass with west := { up.west with ticks := 1 } }

theorem witness_WatchdogWedgesTheHalf :
    (overdue.hoop 0).job = some (jobOf .running 1 [rel 0 [0]])
    ∧ [rel 0 [0]].find? (fun r => r.step == (0 : BitVec 20).toNat) = some (rel 0 [0]) ∧ (overdue.half .west).danger = false
    ∧ (rel 0 [0]).tick + wdogTicks overdue (jobOf .running 1 [rel 0 [0]]) 0 ≤ (overdue.half (overdue.hoopHome 0)).ticks
    ∧ (jobOf .running 1 [rel 0 [0]]).st ≠ .wedged
    ∧ ((withJob (jobOf .wedged 1 [rel 0 [0]]) overdue).hoop 0).job = some (jobOf .wedged 1 [rel 0 [0]])
    ∧ { running kPass onePass with west := { up.west with ticks := 0 } }.west.ticks
        < (rel 0 [0]).tick + wdogTicks (put 17 16 [at_ 48 1] overdue) (jobOf .running 1 [rel 0 [0]]) 0 := by decide +kernel

/-- A READY job whose first step waits for knot 5, WAIT_LIMIT 3 ticks. -/
def waitStep : List Nat := [kWait, 5 + 2 ^ 14 + at_ 32 1]
def waiting (ticks : Nat) : State :=
  let s := up |> image 0 [waitStep] [] |> put 17 24 [3] |> withJob (jobOf .ready 0 [])
  { s with west := { s.west with ticks := ticks } }

theorem witness_KnotWaitsTimeOut :
    ((waiting 4).hoop 0).job = some (jobOf .ready 0 []) ∧ prkWaitLimit ((waiting 4).prick 7) = 3
    ∧ (jobOf .ready 0 []).next < prkSteps ((waiting 4).prick 7)
    ∧ (jobOf .ready 0 []).admitted + 1 + 3 ≤ ((waiting 4).half ((waiting 4).hoopHome 0)).ticks
    ∧ (waiting 4).waitsReached ((waiting 4).stepAt 7 0) [] = false ∧ (jobOf .ready 0 []).steps = []
    ∧ ((waiting 4).hoop 0).queue = [] ∧ ((waiting 3).half ((waiting 3).hoopHome 0)).ticks < (jobOf .ready 0 []).admitted + 1 + 3
    ∧ (withJob { jobOf .running 0 [rel 0 []] with lastTick := 0 } (waiting 4)).waitsReached ((waiting 4).stepAt 7 0) [] = false := by
  decide +kernel

/-- The job ends ST_JOB_FAULTED at its first step, one tick after the last in time. -/
theorem test_wait_limit :
    (after (.knotWaitTimeout 0) (waiting 3)).map (fun t => (t.hoop 0).job.isSome) = some true
    ∧ (after (.knotWaitTimeout 0) (waiting 4)).map (fun t => ((t.hoop 0).job.isSome, wordAt (t.host.mem.readN 0x10000 32) 8))
      = some (false, 0) := by decide +kernel

/-! ### Translation, dampers, channels -/

theorem witness_WalksFillTheCache :
    up.unitWalks (.hearth 17) = true ∧ up.unitWalks (.port 27) = true ∧ up.unitWalks .copyEngine = true
    ∧ up.unitWalks (.hearth 18) = false ∧ (updHearth 17 (fun x => { x with closed := true }) up).unitWalks (.hearth 17) = false
    ∧ (paged plain).walk 1 0 = some ⟨1, 0, 21, 0xF000200000, true, true⟩
    ∧ (paged plain).grant ⟨1, 0, 21, 0xF000200000, true, true⟩ 0 true = some 0xF000200000
    ∧ plain.walk 1 0 = none
    ∧ 0 < ((paged plain).walkReads 1 0).length
    ∧ (put 2 0 [1 + 0xF000000000, 64] (paged plain)).grant ⟨1, 0, 21, 0xF000200000, true, true⟩ 0 true = none := by
  decide +kernel

/-- A request of hearth 0 and one of hearth 1 of the west, in their jobs' hoop 0, and one of the scrubber. -/
def atHearth : Requester := .hearth 0
def pend0 : Pend := ⟨0, 0, 1⟩
def pend1 : Pend := ⟨1, 1, 1⟩
def scrub0 : Pend := ⟨14, 14, 18⟩

/-- Damper 0 with slot 0 owned by hoop 0, its limit 5 ticks, a grant of hearth 0 held since tick 0, hearth 1 in position 1. -/
def damper0 (ticks : Nat) : State :=
  let s := passing |> putB 3 0 [1] |> put 1 0 [1 + at_ 5 3, 0, at_ 24 5] |> updPlace 1 (fun p => { p with physical := 1 })
    |> updDamper 0 fun x => { x with held := [⟨pend0, 0⟩] }
  { s with west := { s.west with ticks := ticks } }

theorem witness_DampersGrantAndShed :
    damperExists 55 = true ∧ damperExists 24 = false ∧ damperExists 56 = false
    ∧ (damper0 0).slotOwner 0 0 = 1 ∧ (damper0 0).pendOf 0 atHearth = some pend0 ∧ (damper0 0).pendOf 0 (.hearth 1) = some pend1
    ∧ (damper0 0).pendOf 0 (.scrubber .west) = some scrub0 ∧ (damper0 0).pendOf 0 (.scrubber .east) = some ⟨30, 13, 18⟩
    ∧ (damper0 0).pendOf 0 (.hearth 5) = none
    ∧ ({ (damper0 0).damper 0 with waiting := [scrub0, pend0] }).choose 1 ((damper0 0).fixedMode 0) = some (pend0, true)
    ∧ ({ (damper0 0).damper 0 with waiting := [scrub0] }).choose 1 ((damper0 0).fixedMode 0) = some (scrub0, false)
    ∧ ((damper0 0).damper 0).choose 1 ((damper0 0).fixedMode 0) = none ∧ ((damper0 0).half .west).reset = .none
    ∧ { damper0 0 with west := { up.west with reset := .asserted } }.west.reset ≠ .none ∧ shedCause 0 255 = true ∧ shedCause 16 255 = false
    ∧ ((damper0 0).damper 0).capacity = 256 ∧ (255 : BitVec 9).toNat < ((damper0 0).damper 0).capacity := by decide +kernel

/-- The owner of the slot is granted before an earlier request of another; the grant whose transfer has ended leaves. -/
theorem test_damper_slot :
    (after (.damperRequest 0 [atHearth] [.scrubber .west, .hearth 1]) (damper0 0)).map (fun t =>
      ((t.damper 0).held, (t.damper 0).waiting, (t.damper 0).slotPtr)) = some ([⟨pend1, 0⟩], [scrub0], 1) := by decide +kernel

/-- Of one source port the earlier request goes first, though the later one owns the slot. -/
theorem test_damper_source_order :
    ({ Damper.init with waiting := [⟨12, 12, 2⟩, ⟨12, 12, 1⟩] } : Damper).choose 1 false = some (⟨12, 12, 2⟩, false) := by
  decide +kernel

/-- An ATTEND step, a copy and an intake frame that hold a grant beyond the limit; a pass has none to lose. -/
def holding (ticks : Nat) : State :=
  let s := attending |> putB 3 0 [1] |> put 1 0 [1 + at_ 5 3, 0, at_ 24 5]
    |> updDamper 0 fun x => { x with held := [⟨pend0, 0⟩, ⟨⟨12, 12, 1⟩, 0⟩, ⟨⟨12, 12, 17⟩, 0⟩] }
  { s with west := { s.west with ticks := ticks }, img := { s.img with copies := [theCopy] } }
    |> updRing 0 fun r => { r with outstanding := 2 }

theorem witness_HoldLimitsCutOff :
    (holding 6).victimSource (.step 0 0 0) = some atHearth ∧ (holding 6).pendOf 0 atHearth = some pend0
    ∧ (holding 6).holdLimit .west 1 = some 5 ∧ (holding 6).victimSince (.step 0 0 0) = 0
    ∧ ((holding 6).damper 0).held.find? (fun x => x.pend == pend0 && decide (0 ≤ x.tick)) = some ⟨pend0, 0⟩
    ∧ 5 < ((holding 6).half .west).ticks - 0 ∧ ((holding 5).half .west).ticks - 0 ≤ 5
    ∧ (holding 6).victimSource (.copy 0 1) = some (.copyEngine 0) ∧ (holding 6).pendOf 0 (.copyEngine 0) = some ⟨12, 12, 1⟩
    ∧ ((holding 6).damper 0).held.find? (fun x => x.pend == ⟨12, 12, 1⟩ && decide (0 ≤ x.tick)) = some ⟨⟨12, 12, 1⟩, 0⟩
    ∧ (holding 6).victimSource (.intake 1 2) = some .intake ∧ (holding 6).pendOf 0 .intake = some ⟨12, 12, 17⟩
    ∧ (holding 6).holdLimit .west 17 = some 0
    ∧ ((holding 6).damper 0).held.find? (fun x => x.pend == ⟨12, 12, 17⟩ && decide (0 ≤ x.tick)) = some ⟨⟨12, 12, 17⟩, 0⟩
    ∧ ((holding 6).part4 [kAttend, kTransfer] 0 0 0).isSome = true ∧ (damper0 6).cutGrant 0 (.step 0 0 0) = none := by
  decide +kernel

/-- A grant held past its limit can be taken; a pass runs on. -/
theorem test_cutoff :
    (holding 6).cutGrant 0 (.step 0 0 0) = some (⟨pend0, 0⟩, 6) ∧ (holding 5).cutGrant 0 (.step 0 0 0) = none
    ∧ (after (.damperCutoff 0 (.step 0 0 0)) (damper0 6)).map (fun t => ((t.openPart 0 0 0).isSome, (t.damper 0).cutoffs))
      = some (true, 0) := by decide +kernel

/-- Channel 0 ACTIVE. -/
def active (s : State) : State := updChan 0 (fun x => { x with populated := true, st := .active, density := 1 }) s

/-- A full write, a partial write and a read of block 3. -/
def fullWrite : DramReq := ⟨2, true, 3, BitVec.allOnes 64, List.replicate 64 9⟩
def byteWrite : DramReq := ⟨2, true, 3, 1, List.replicate 64 8⟩
def blockRead : DramReq := ⟨2, false, 3, 0, []⟩

/-- The queue of channel 0 after one arrival. -/
def arrived (q : DramReq) : Channel := [q].foldl (enterQueue up.time.hp) ((active up).chan 0)

theorem witness_ChannelsServeOneRequest :
    ((active up).chan 0).st = .active ∧ (up.chan 0).st = .off
    ∧ (active up).setLost 0 = false
    ∧ ((fun (x : Channel) => pickRequest false up.time.hp x (x.ready (x.drains up.time.hp))) (arrived fullWrite)).isSome = true
    ∧ ((fun (x : Channel) => pickRequest false up.time.hp x (x.ready (x.drains up.time.hp))) (arrived blockRead)).isSome = true
    ∧ pickRequest false up.time.hp ((active up).chan 0) (((active up).chan 0).ready (((active up).chan 0).drains up.time.hp)) = none
    ∧ reqFull fullWrite = true ∧ reqFull byteWrite = false ∧ (active up).mem.dram.wf = true
    ∧ ((updChan 0 (fun x => { x with st := .selfRefresh }) (active up)).chan 0).st = .selfRefresh
    ∧ (updChan 0 (fun x => { x with st := .lost }) (active up)).setLost 0 = true
    ∧ ((updChan 0 (fun x => { x with st := .training }) (active up)).chan 0).st = .training := by decide +kernel

/-- A full write, then a write of one byte into it. -/
theorem test_dram_write :
    ((after (.dramRequest 0 [fullWrite] .clean 0) (active up)).bind fun s => after (.dramRequest 0 [byteWrite] .clean 0) s).map
      (fun t => (t.mem.dram.read 192, t.mem.dram.read 193, t.mem.dram.read 255, (t.chan 0).replies.map (·.answer)))
      = some (8, 9, 9, [.ack]) := by decide +kernel

/-- A read of a source waits for its earlier write to the same block; a set with a LOST channel answers with the fault. -/
theorem test_dram_order :
    (after (.dramRequest 0 [fullWrite, blockRead] .clean 0) (active up)).map (fun t => ((t.chan 0).queue.map (·.req.write),
      t.mem.dram.read 192)) = some ([false], 9)
    ∧ (after (.dramRequest 0 [blockRead] .clean 0) (updChan 0 (fun x => { x with st := .lost }) (active up))).map
        (fun t => (t.chan 0).replies.map (·.answer)) = some [.fault .dramChannelLost] := by decide +kernel

theorem witness_ChannelsKeepThemselves :
    ((active up).half (halfOfChan 0)).srIdle ≠ 0 ∧ ((active up).chan 0).queue = [] ∧ (active up).chanUp 0 = true
    ∧ ((updChan 0 (fun x => { x with st := .selfRefresh }) (active up)).chan 0).st = .selfRefresh
    ∧ ((active up).chan 0).tempAt = none ∧ (up.chan 0).st ≠ .active ∧ (up.chan 0).st ≠ .selfRefresh
    ∧ ((active up).chan 0).fsp = 0 ∧ { active up with west := { up.west with dramFsp := 2 } }.west.dramFsp = 2
    ∧ ((active up).chan 0).holds blockRead = true ∧ (active plain).mayChange .west = true ∧ up.mayChange .west = false ∧ damperExists (damperOfChan 0) = true
    ∧ { active up with dev := { up.dev with st := .drawing } }.mayChange .west = false
    ∧ (∀ d ∈ (active up).setMates 0, ((active up).damper (damperOfChan d)).capacity ≠ 0) := by decide +kernel

/-- The request that wins against the entry waits in the queue of an ACTIVE channel; a lost lock takes the damper's capacity. -/
theorem test_self_refresh_and_loss :
    (after (.selfRefreshEntry 0 (some blockRead)) (active up)).map (fun t => ((t.chan 0).st, (t.chan 0).queue.map (·.req)))
      = some (.active, [blockRead])
    ∧ (after (.phyLockLoss 0) (active up)).map (fun t => ((t.chan 0).st, (t.damper (damperOfChan 0)).capacity)) = some (.lost, 0) := by
  decide +kernel

/-- With nothing in the page map, pages lie where their numbers say. -/
theorem flat_inj {x : Hearth} (hx : x.pageMap = []) (a b : Nat) (h : x.frameAddr (4096 * a) = x.frameAddr (4096 * b)) : a = b := by
  have e (n : Nat) : x.frameAddr (4096 * n) = 4096 * n := by
    simp only [Hearth.frameAddr, hx, Tab.get]
    omega
  rw [e, e] at h
  omega

theorem witness_TransfersMoveTheirRectangle_apart :
    UnitsApart (moveOf (thePart boxing) boxing).1.us
    ∧ ∀ a b, (boxing.hearth 0).frameAddr (4096 * a) = (boxing.hearth 0).frameAddr (4096 * b) → a = b :=
  ⟨by unfold UnitsApart ApartRange; decide +kernel, flat_inj (by decide +kernel)⟩

/-- A box that is all cleared, landing page 2 and destination page 1. -/
theorem witness_CommitExchangesThePages :
    Hearth.init.frames.wf = true ∧ (∀ a b, Hearth.init.frameAddr (4096 * a) = Hearth.init.frameAddr (4096 * b) → a = b)
    ∧ (1 + 1 ≤ 2) ∧ ([(0, [(5 : Byte)])].all fun w => decide (w.1 + w.2.length ≤ 4096 * 1)) = true := by
  exact ⟨by decide +kernel, flat_inj rfl, by decide, by decide +kernel⟩

/-! ### The intake -/

theorem witness_PortsAndCamerasComeAndGo :
    up.intakeUp = true ∧ (23 : BitVec 5).toNat < 24 ∧ 24 ≤ (24 : BitVec 5).toNat ∧ (up.port 23).link = 0
    ∧ ((updPort 1 (fun p => { p with link := 1 }) up).port 1).link = 1 ∧ 1 ≤ (5 : BitVec 3).toNat ∧ (5 : BitVec 3).toNat ≤ 5
    ∧ ((updPort 1 (fun p => { p with link := 2 }) up).port 1).link = 2 ∧ (cameraReady up).camReceives 1 = true
    ∧ ((updKey 384 (fun k => { k with lidar := some 9 }) up).key (keyOf 24 0)).lidar ≠ none
    ∧ identityOk (slice [] 0 256) = false := by decide +kernel

/-- An identity block of one channel: magic, version, size, serial and CRC. -/
def identityBlock : List Byte :=
  let b := slice (toLE 8 (0x55554944 + at_ 32 1 + at_ 48 256) ++ toLE 8 0 ++ toLE 8 77) 0 252
  b ++ toLE 4 (crc32c b).toNat

set_option maxRecDepth 20000 in
theorem witness_CamerasAreDiscovered : identityOk (slice identityBlock 0 256) = true := by decide +kernel

/-- A camera in training whose route has a script of two writes: 1 byte at address 7, 2 bytes at address 9. -/
def scripted : State :=
  put 13 0 [7 + at_ 32 0xAB, 9 + at_ 16 1 + at_ 32 0xCDEF] (put 10 (16 * 32 + 24) [at_ 10 2] (updPort 1 (fun p => { p with link := 2 }) routed))

theorem witness_CamerasAreDiscovered_script :
    scripted.intakeUp = true ∧ (scripted.port 1).link = 2 ∧ (1 : BitVec 5).toNat < 24
    ∧ scripted.portScript 1 = [(7, [0xAB]), (9, [0xEF, 0xCD])] ∧ (scripted.portScript 1).length ≤ 2
    ∧ 1 < (scripted.portScript 1).length := by decide +kernel

set_option maxRecDepth 20000 in
/-- With one write acknowledged the second has gone out and the port trains anew; with both the camera is found. -/
theorem test_camera_script :
    (after (.cameraDiscoveryDone 1 identityBlock 1) scripted).map (fun t => ((t.port 1).link, (t.port 1).script.length)) = some (0, 2)
    ∧ (after (.cameraDiscoveryDone 1 identityBlock 2) scripted).map (fun t => ((t.port 1).link, (t.port 1).script.length)) = some (3, 2) := by
  decide +kernel

/-- Decoder 0 of key 16 with a credit of one sample in knot 5, its control block where context 1 maps it. -/
def decoding (ctrl : List Nat) : State :=
  let s := paged plain |> put 14 0 [1 + at_ 1 1 + at_ 10 1 + at_ 22 5 + at_ 36 6, 0x40] |> setKnot 5 1
  { s with mem := { s.mem with shared := s.mem.shared.writeN 0x200040 (ctrl.flatMap (toLE 8)) } }

/-- A frame that is open on key 16, not routed. -/
def frameOpen : State :=
  ((after (.frameStart 1 0 .good) (cameraReady up)).getD up)

/-- Its frame. -/
def theFrame : Option Frame := (frameOpen.key 16).frame

/-- A change that takes the key from its decoder waits for the next frame start. -/
def leaving : State := cameraReady (updKey 16 (fun k => { k with heldRoute := some ([], [], [], some 0) }) routed)

theorem witness_CameraFramesAreTakenIn :
    (cameraReady up).intakeUp = true ∧ (cameraReady up).camReceives 1 = true ∧ (cameraReady up).stray 16 = false
    ∧ { cameraReady up with rec_ := { Recorder.init with mode := .replay } }.stray 16 = true
    ∧ theFrame.isSome = true ∧ (theFrame.map (·.routed)) = some false ∧ (theFrame.map (·.seq)) = some 1
    ∧ csiType 0x24 ≠ none ∧ csiType 0x3F = none ∧ (frameOpen.port 1).link = 3
    ∧ (cameraReady (decoding [])).stray 16 = true ∧ (cameraReady (decoding [])).ownerLeaves 16 = false
    ∧ leaving.stray 16 = true ∧ leaving.ownerLeaves 16 = true ∧ leaving.controlOk = true ∧ (leaving.key 16).heldRoute ≠ none := by
  decide +kernel

/-- A packet whose header is lost counts and flags the open frame. -/
theorem test_header_lost :
    (after (.frameEnd 1 0 .uncorrectable) frameOpen).map (fun t => (Tab.get 0 (t.port 1).ctr 4, (t.key 16).frame.map (·.flags)))
      = some (1, theFrame.map fun f => f.flags ||| 16) := by decide +kernel

/-- The key takes in frames of its route, to a mapped or an unmapped buffer; a frame of it is open. -/
def taking (buffer : Nat) : State := cameraReady (updKey 16 (fun k => { k with ring := [buffer], ringCtx := 1 }) (reached routed))
def routedFrame (f : Frame) : Frame :=
  { f with routed := true, route := routed.img.entry 10 16, recipe := (reached routed).img.entry 12 0, ctx := 1, buffer := 0x10000 }
def taken1 : State := updKey 16 (fun k => { k with frame := theFrame.map routedFrame }) (taking 0x10000)

theorem witness_FramesAreWritten :
    (taking 0x10000).camReceives 1 = true ∧ (taking 0x10000).takesIn 16 .live = true ∧ ((taking 0x10000).key 16).commit = none
    ∧ ((taken1.key 16).frame.map fun f => (f.routed, f.buffer, f.flags.testBit 7, f.bytes)) = some (true, 0x10000, false, 0)
    ∧ ((taken1.key 16).frame.map fun f => (putBytes 1 f (lineWrites f [1, 2, 3]) taken1).1) = some true
    ∧ ((taken1.key 16).frame.map fun f => (lineWrites f [1, 2, 3]).any fun w => decide (w.2 ≠ [])) = some true
    ∧ (((after (.frameStart 1 0 .good) (taking 0x200000)).bind fun t => (t.key 16).frame).map fun f =>
        (putBytes 1 f [(64, List.replicate 64 0)] (taking 0x200000)).1) = some false
    ∧ ({ taken1 with west := { taken1.west with pathOk := false } }.half (taken1.ctxHalf 1)).pathOk = false := by decide +kernel

/-- A COPY line stands at the head of the buffer; with the path down nothing is written, and the flag says so. -/
theorem test_copy_line :
    (after (.csi2LongPacket 1 0 0x24 [1, 2, 3] true .good) taken1).map (fun t => t.mem.shared.readN 0x210000 3) = some [1, 2, 3]
    ∧ (after (.csi2LongPacket 1 0 0x24 [1, 2, 3] true .good) { taken1 with west := { taken1.west with pathOk := false } }).map
        (fun t => (t.mem.shared.readN 0x210000 3, (t.key 16).frame.map (·.flags.testBit 8))) = some ([0, 0, 0], some true) := by
  decide +kernel

/-- A frame of four lines, closed by its end. -/
theorem test_frame_counts_lines :
    ((after (.csi2LongPacket 1 0 0x24 [1, 2, 3] true .good) frameOpen).bind fun s => after (.frameEnd 1 0 .good) s).map
      (fun t => ((t.key 16).frame.isSome, (t.key 16).closed.map (·.units))) = some (false, [1]) := by decide +kernel

/-- Embedded data of a camera whose counter, time and CRC stand at 0, 4 and 12 of its leading line. -/
def embedding : State :=
  updPort 1 (fun p => { p with identity := slice (List.replicate 24 0 ++ toLE 8 (at_ 16 4 + at_ 32 12 + at_ 48 1)) 0 256 }) frameOpen

theorem witness_EmbeddedData :
    (embedding.port 1).link = 3 ∧ (embedding.key 16).frame.isSome = true
    ∧ (wordAt (embedding.port 1).identity 24).getLsbD 48 = true
    ∧ (theFrame.map fun f => (f.units, f.embedded)) = some (0, none) ∧ 12 + 4 ≤ (List.replicate 16 (7 : Byte)).length := by
  decide +kernel

theorem test_embedded_counter :
    (after (.embeddedData 1 0 ([1, 2, 0, 0] ++ toLE 8 99 ++ [5, 0, 0, 0]) true .good) embedding).map
      (fun t => (t.key 16).frame.map fun f => (f.counter, f.time, f.crcRx)) = some (some (some 513, some 99, some 5)) := by
  decide +kernel

/-- A closed frame that was not routed; one that was, with its knot. -/
def closedFrame : State := ((after (.frameEnd 1 0 .good) frameOpen).getD up)
def closedRouted : State :=
  updKey 16 (fun k => { k with closed := k.closed.map fun f => { f with routed := true, route := routed.img.entry 10 16, knot := some 1 } })
    { closedFrame with img := routed.img, dev := routed.dev }

theorem witness_FramesComplete :
    closedFrame.intakeUp = true ∧ (up.key 16).closed = [] ∧ ((closedFrame.key 16).closed.map (·.routed)) = [false]
    ∧ ((closedRouted.key 16).closed.map fun f => (f.routed, f.knot)) = [(true, some 1)] := by decide +kernel

/-- The routed frame closed, with nothing missing but its counter. -/
def routedDone : State := ((after (.frameEnd 1 0 .good) taken1).getD up)

theorem witness_FramesComplete_record :
    ((routedDone.key 16).closed.map fun f => (f.routed, f.buffer, rcpBytes f.recipe)) = [(true, 0x10000, 128)]
    ∧ (translate (.unit (.port 1)) 1 0x10040 true routedDone).1 = some 0xF000210040 ∧ (0x10040 : Nat) % 65536 + 64 ≤ 65536
    ∧ routedDone.rec_.mode ≠ .record ∧ routedDone.Ok ∧ Plain (0xF000210040 + ·) 64 routedDone :=
  ⟨by decide +kernel, by decide +kernel, by decide, by decide +kernel, ok_of_check (by decide +kernel), plain_of_plainly (by decide +kernel)⟩

theorem test_frame_knot :
    (after (.frameComplete 1 0 .clean) closedRouted).map (fun t => (t.knot 6, (t.key 16).closed.length)) = some (1, 0) := by
  decide +kernel

/-- Network port 24 up, with a classifier for IP address 9, UDP port 5. -/
def netUp (expected : Nat) : State :=
  put 11 0 [1 + at_ 1 expected + at_ 16 0xA, 9 + at_ 32 5] (updPort 24 (fun p => { p with link := 2 }) plain)

/-- An Ethernet frame from MAC 0xA with an IPv4 UDP packet from address 9 to port 5 and 64 bytes of payload: a lidar packet of
sensor 3, frame counter 7, the first and last of its frame. -/
def lidarHead (flags : Byte) : List Byte := [1, flags] ++ toLE 2 24 ++ toLE 4 7 ++ toLE 8 0 ++ toLE 8 99 ++ toLE 8 3 ++ toLE 8 0
def etherFrame (crc : List Byte) (flags : Byte) : List Byte :=
  List.replicate 6 0 ++ toLE 6 0xA ++ [8, 0] ++ [0x45, 0, 0, 92, 0, 0, 0, 0, 64, 17] ++ crc ++ toLE 4 9 ++ toLE 4 1
    ++ [0, 1, 0, 5, 0, 72, 0, 0] ++ lidarHead flags ++ List.replicate 24 6

/-- A routed frame of its key is open, its sensor known. -/
def lidarOpen : State :=
  let s := netUp 1
  updKey 384 (fun k => { k with lidar := some 3, frame := theFrame.map routedFrame })
    { s with mem := (reached s).mem, img := { s.img with tables := (reached s).img.tables.set 11 (s.img.tbl 11) } }

theorem witness_LidarPacketsAreClassified :
    (netUp 1).intakeUp = true ∧ 24 ≤ (24 : BitVec 5).toNat ∧ ((netUp 1).port 24).link = 2
    ∧ parseEther [] = .unmatched ∧ parseEther (etherFrame [0, 0] 3) = .badChecksum
    ∧ (match parseEther (etherFrame [0x70, 0x92] 3) with
        | .packet p => p.payload == lidarHead 3 ++ List.replicate 24 6 && ldOk p.payload && ldFirst p.payload && ldLast p.payload
            && ((List.range 16).find? fun i => (netUp 1).dev.imageValid
                  && clsMatch ((netUp 1).clsOf (keyOf 24 i) (ldFirst p.payload)) p) == some 0
            && ((List.range 16).find? fun i => plain.dev.imageValid
                  && clsMatch (plain.clsOf (keyOf 24 i) (ldFirst p.payload)) p) == none
        | _ => false) = true
    ∧ clsExpected ((netUp 1).clsOf (keyOf 24 0) true) = true ∧ clsExpected ((netUp 0).clsOf (keyOf 24 0) true) = false
    ∧ ldOk [] = false ∧ (netUp 1).stray (keyOf 24 0) = false
    ∧ (match parseEther (etherFrame [0x70, 0x92] 0) with
        | .packet p => ldOk p.payload && !ldFirst p.payload && !ldLast p.payload && clsMatch (lidarOpen.clsOf (keyOf 24 0) false) p
            && (ldPoints p.payload).length == 24 && (crc32c (p.payload.take 32 ++ ldPoints p.payload)).toNat != ldCrc p.payload
        | _ => false) = true
    ∧ ((lidarOpen.key 384).frame.map fun f => (f.routed, f.counter)) = some (true, none) ∧ (lidarOpen.key 384).lidar = some 3
    ∧ { netUp 1 with rec_ := { Recorder.init with mode := .replay } }.stray (keyOf 24 0) = true
    ∧ { netUp 1 with rec_ := { Recorder.init with mode := .replay } }.ownerLeaves (keyOf 24 0) = false := by decide +kernel

/-- A later packet of another FRAME with a wrong CRC is checked whole, and its points join the buffer. -/
theorem test_lidar_later :
    (after (.lidarPacket 24 (etherFrame [0x70, 0x92] 0)) lidarOpen).map (fun t => ((t.key 384).frame.map fun f =>
      (f.flags.testBit 0, f.flags.testBit 5, f.units, f.bytes), t.mem.shared.readN 0x21000F 2)) = some (some (true, true, 1, 24), [6, 6]) := by
  decide +kernel

/-- The packet is the whole frame of its sensor. -/
theorem test_lidar_frame :
    (after (.lidarPacket 24 (etherFrame [0x70, 0x92] 3)) (netUp 1)).any (fun t => (t.key 384).lidar == some 3 && (t.key 384).seq == 1
      && (t.key 384).closed.all (fun f => f.counter == some 7 && f.time == some 99 && f.units == 1)
      && (t.key 384).closed.length == 1) = true := by decide +kernel

/-- It has begun epoch 3 of two samples. -/
def decodes : State := ((after (.decoderEpochStart 0) (decoding [1, 3 + at_ 32 2, 0x80])).getD up)

/-- An agreement took the decoder's entry out of the table, from the next frame start on. -/
def removed : State := updDec 0 (fun x => { x with held := some (decodes.img.entry 14 0) }) (put 14 0 [0] decodes)

theorem witness_DecodersDeliverSamples :
    (decoding []).intakeUp = true ∧ (decoding []).decUsed 0 = true ∧ (decoding []).decCredit 0 = true
    ∧ ((decoding []).dec 0).running = false ∧ ((decoding []).dec 0).ctrlBad ≠ some 1
    ∧ ((decRead 0 0x40 64 (decoding [1, 3 + at_ 32 2, 0x80])).1.map ctrlOk) = some true
    ∧ ((decRead 0 0x40 64 (decoding [])).1.map ctrlOk) = some false
    ∧ (decodes.dec 0).running = true ∧ (decodes.dec 0).epoch = 3 ∧ (decodes.dec 0).n = 2 ∧ decodes.decUsed 0 = true
    ∧ decodes.decCredit 0 = true ∧ (decodes.dec 0).t = 0 ∧ plain.decUsed 0 = false
    ∧ (openSample 0 (updDec 0 (fun x => { x with table := 0x200000 }) decodes)).1 = none ∧ (decodes.dec 0).picture = 0
    ∧ decValid (decodes.decEntry 0) = true ∧ decodes.changeDue 16 1 = true
    ∧ decValid (removed.img.entry 14 0) = false ∧ removed.decUsed 0 = true := by decide +kernel

/-- A sample whose entry cannot be read is skipped; what a bitstream decodes to is a free value (log 11), so no test names one. -/
theorem test_sample_skipped :
    (after (.decodedPicture 0) (updDec 0 (fun x => { x with table := 0x200000 }) decodes)).map (fun t =>
      ((t.dec 0).t, (t.dec 0).picture, Tab.get 0 (t.dec 0).ctr 2, (t.dec 0).running)) = some (1, 0, 1, true) := by decide +kernel

/-- A route with a stall limit of 9 ticks whose last frame started at once. -/
def stalling : State := updKey 16 (fun k => { k with lastStart := some 0 }) (put 10 520 [at_ 22 9] routed)

theorem witness_StallsAndFailedPathsAreRecorded :
    stalling.intakeUp = true ∧ stalling.dev.imageValid = true ∧ routeValid (stalling.routeOf 16) = true
    ∧ routeStall (stalling.routeOf 16) ≠ 0 ∧ (stalling.key 16).lastStart = some 0 ∧ (stalling.key 16).stalled = false
    ∧ ((updKey 16 (fun k => { k with stalled := true }) stalling).key 16).stalled = true
    ∧ (up.half .west).pathOk = true ∧ (State.reset.half .west).pathOk = false := by decide +kernel

/-! ### Pilots, keys and records -/

/-- A run of program 0, which has no groups, on key 16, another behind it, and its result in the other pilot. -/
def theRun : PilotRun := ⟨0, 16, 1, [], 0⟩
def piloting (digest : Word) : State :=
  updPilot .east (fun p => { p with outs := [⟨0, 1, digest, [], false⟩] })
    (updPilot .west (fun p => { p with run := some theRun, queue := [{ theRun with seq := 2 }] }) plain)

theorem witness_PilotRunsEndOrOverrun :
    ((piloting 0).pilot .west).run = some theRun ∧ ((piloting 0).pilot .west).queue = [{ theRun with seq := 2 }]
    ∧ ((piloting 0).half .west).inService = true ∧ (up.pilot .west).run = none
    ∧ ((piloting 0).pilot .east).result 0 1 = some ⟨0, 1, 0, [], false⟩
    ∧ (updPilot .west (fun p => { p with queue := [] }) (piloting 0)).out.pilot0.queue = []
    ∧ (runGroups ((piloting 0).img.entry 18 0) (slotShift ((piloting 0).img.entry 18 0) [] [] true)
        (progGroups ((piloting 0).img.entry 18 0)) 0 .zero).isSome = true
    ∧ (runGroups ((put 18 8 [at_ 32 1] (piloting 0)).img.entry 18 0) (slotShift ((piloting 0).img.entry 18 0) [] [] true)
        1 0 .zero).isNone = true
    ∧ (runPilot ((piloting 0).img.entry 18 0) ((piloting 0).routeOf 16) ((piloting 0).recipeOf 16) theRun 0
        ((piloting 0).local .west)).isSome = true
    ∧ (runPilot ((put 18 8 [at_ 32 1] (piloting 0)).img.entry 18 0) ((piloting 0).routeOf 16) ((piloting 0).recipeOf 16) theRun 0
        ((piloting 0).local .west)).isSome = false
    ∧ ((updPilot .east (fun p => { p with outs := [] }) (piloting 0)).pilot .east).result 0 1 = none
    ∧ ((updPilot .east (fun p => { p with outs := [] }) (piloting 0)).pilot .east).expects 0 1 = false
    ∧ ((updPilot .east (fun p => { p with outs := [], due := [theRun] }) (piloting 0)).pilot .east).expects 0 1 = true := by
  decide +kernel

/-- The other pilot's result may have the run's digest, and any other. -/
theorem witness_PilotRunsAgree (d : Word) : ((piloting d).pilot .east).result 0 1 = some ⟨0, 1, d, [], false⟩ := rfl

/-- A handover of stream 2 with the answers given. -/
def handover (w e : Option Answer) : Handover :=
  ⟨2, 1, 0, 0, .west, 0, 9, 1, [], [], 0, w, e, some 0, none, false⟩
def handed (w e : Option Answer) : State := { damped plain with out := { plain.out with hands := [handover w e] } }

/-- Both pilots agree on its frame, with nothing to compare. -/
def agreedPilots : State :=
  { handed none none with out := { (handed none none).out with pilot0 := { Pilot.init with outs := [⟨0, 0, 5, [], true⟩] } } }

theorem witness_KeysAreGivenOrRefused :
    (handed none none).hand 2 (fun x => (x.answer .west).isNone) = some (handover none none)
    ∧ ((handed none none).half .west).reset = .none
    ∧ (decideKey .west (handover none none) 0 (handed none none)).1 = none
    ∧ { handed none none with west := { up.west with reset := .asserted } }.west.reset ≠ .none
    ∧ ({ handed none none with dev := plain.dev }.keyCauses (handover none none)).any (·.1) = true
    ∧ ((handed none none).keyCauses (handover none none)).any (·.1) = false
    ∧ agreedPilots.hand 2 (fun x => (x.answer .west).isNone) = some (handover none none)
    ∧ ((agreedPilots.pilot .west).result 0 (frSeq (handover none none).frame)).map (·.agreed) = some true
    ∧ (compareStream agreedPilots 2 (fun _ => 0) (fun _ => 0)).1 = true := by decide +kernel

theorem witness_ResultRecordsAreComposed :
    (handed (some (.key 1 0)) (some (.key 2 0))).hand 2 (fun x => (handed (some (.key 1 0)) (some (.key 2 0))).harmless
        || (x.west.isSome && x.east.isSome)) = some (handover (some (.key 1 0)) (some (.key 2 0)))
    ∧ (handed (some (.key 1 0)) (some (.key 2 0))).harmless = false
    ∧ plain.harmless = true ∧ (handed (some (.key 1 0)) none).hand 2 (fun x => x.west.isSome != x.east.isSome)
        = some (handover (some (.key 1 0)) none)
    ∧ strValid ((put 20 64 [1, 0, 0, at_ 40 50] plain).img.entry 20 2) = true
    ∧ strHoldUs ((put 20 64 [1, 0, 0, at_ 40 50] plain).img.entry 20 2) = 50
    ∧ (put 20 64 [1, 0, 0, at_ 40 50] plain).harmless = true ∧ plain.dev.imageValid = true
    ∧ strValid (plain.img.entry 20 2) = false := by decide +kernel

/-- An image with heartbeats every 10 us. -/
def beating : State := put 24 0 [10] drawing

theorem witness_WriterHeartbeatAndWeights :
    up.dev.st ≠ .cold ∧ up.dev.st ≠ .kindling ∧ up.out.writer = none
    ∧ { up with out := { up.out with writer := some .west } }.out.writer ≠ none
    ∧ 50 * safHbUs (beating.img.entry 24 0) ≠ 0 ∧ beating.hbActive .west = true ∧ beating.time.slew = 0
    ∧ beating.time.ts.toNat + 500 < 2 ^ 64 ∧ up.hbActive .west = false
    ∧ { up with west := { up.west with released := 64 } }.west.released = 64 ∧ up.west.released < 64
    ∧ up.weightChunks .west = [] := by decide +kernel

/-- The first toggle stands at the first multiple of 500 counts after now. -/
theorem test_heartbeat :
    (after (.heartbeatToggle .west) { beating with time := { beating.time with hp := 2, ts := 1 } }).map
      (fun t => (t.pins.hbWest, t.pins.hbEast, t.time.ts)) = some (true, false, 500) := by decide +kernel

/-! ### Resets, faults and leadership -/

/-- The west half under an asserted reset, released, and with a RESET_HALF owed. -/
def resetting (p : ResetPhase) : State :=
  { up with west := { up.west with reset := p, inService := false, resetOwed := [(0, 3)] } } |> updRing 0 fun r => { r with outstanding := 1 }

theorem witness_HalfResetsRun :
    up.resetDue .west = none ∧ { up with west := { up.west with resetAsked := true } }.resetDue .west = some (0, false)
    ∧ ({ up with west := { up.west with autoDue := true, danger := true, latchClass := 0x38 } }.resetDue .west).isSome = true
    ∧ (resetting .asserted).west.reset = .asserted ∧ up.west.reset ≠ .asserted ∧ (resetting .released).west.reset = .released
    ∧ up.west.resetOwed = [] ∧ (resetting .none).west.resetOwed ≠ [] ∧ Tab.wf up.seq.knots = true
    ∧ (up.half .east).inService = true ∧ up.dev.leader = .west ∧ up.dev.dispute = false
    ∧ ((active up).chan 0).populated = true ∧ ((active up).chan 0).st ≠ .lost := by decide +kernel

/-- The final replies owed come 90 ms after the request. -/
theorem test_reset_bound :
    (after (.halfResetTimeout .west) (resetting .asserted)).map (fun t => (t.time.hp, t.west.resetOwed, (t.ring 0).tail))
      = some (9000000, [], 1) := by decide +kernel

/-- A report of LATE_SPEECH of hearth 3 with its entry open, repeating with and without reports. -/
def lateKey : FaultKey := ⟨.west, 1, 3, .lateSpeech⟩
def coalescing (repeats : Bool) (count : Nat) : State :=
  setEntry lateKey (some ⟨lateKey, faultOf .west 1 3 .lateSpeech, 0, repeats, count⟩) up

theorem witness_FaultsAreReportedAndRecorded :
    findEntry lateKey (coalescing false 2) = some ⟨lateKey, faultOf .west 1 3 .lateSpeech, 0, false, 2⟩
    ∧ (faultOf .west 1 3 .lateSpeech).key = lateKey
    ∧ findEntry lateKey (coalescing true 0) = some ⟨lateKey, faultOf .west 1 3 .lateSpeech, 0, true, 0⟩
    ∧ findEntry lateKey (coalescing true 1) = some ⟨lateKey, faultOf .west 1 3 .lateSpeech, 0, true, 1⟩
    ∧ up.host.fault.full = false ∧ { up with host := { up.host with fault := { up.host.fault with tail := 64 } } }.host.fault.full = true
    ∧ { up with east := { up.east with bufs := [faultOf .east 1 8 .lateSpeech] } }.east.bufs = [faultOf .east 1 8 .lateSpeech]
    ∧ up.west.bufs ++ up.west.pendq = [] ∧ up.host.mem.wf = true
    ∧ (up.host.fault.base.toNat + 64 ≤ up.host.statusBlock.toNat + 0x18) := by decide +kernel

/-- Position 0 in retest for an array check, and after a second fault; a fence to be set. -/
def retesting (second : Bool) : State := updPlace 0 (fun p => { p with retest := some 1, second := second }) plain
def fenced : State := updPlace 0 (fun p => { p with fence := true, gen := 65535 }) plain

theorem witness_HearthsAreRetiredAndFenced :
    ((retesting false).place (posOf .west 0)).retest ≠ none ∧ ((retesting false).place (posOf .west 0)).second = false
    ∧ ((retesting true).place (posOf .west 0)).second = true ∧ (up.place (posOf .west 0)).retest = none
    ∧ (fenced.place (posOf .west 0)).fence = true ∧ fenced.transferOpen (posOf .west 0) = false
    ∧ (up.place (posOf .west 0)).fence = false
    ∧ olderThan 65535 ((setKnot 8184 1 up).knot (fenceKnot (posOf .west 0))).toNat = true
    ∧ olderThan 1 ((setKnot 8184 1 up).knot (fenceKnot (posOf .west 0))).toNat = false
    ∧ findEntry (faultOf .east ukHearth 17 .lateSpeech).key up = none ∧ up.east.table.length < 256
    ∧ (up.hearth 17).closed = false ∧ ((updHearth 17 (fun x => { x with closed := true }) up).hearth 17).closed = true := by
  decide +kernel

/-- A retest that fails brings the spare in with the next generation; the fence knot takes a generation of 16 bits. -/
theorem test_retirement :
    (after (.retestDone .west 0 false) (retesting false)).map (fun t => ((t.place 0).physical, (t.place 0).gen, (t.place 0).fence))
      = some (16, 2, true)
    ∧ (after (.fenceKnotSet .west 0) fenced).map (fun t => t.knot 8184) = some 65535 := by decide +kernel

/-- Both halves claim, for the fourth exchange in a row; the leader has left service. -/
def disputing : State :=
  { up with west := { up.west with disputed := 3 }, east := { up.east with claim := true, disputed := 3 } }
def leaderless : State := { up with west := { up.west with claim := false, inService := false } }

theorem witness_LeadershipIsExchangedAndDisputed :
    up.exchanges = true ∧ State.reset.exchanges = false ∧ disputing.exchanges = true ∧ disputing.dev.dispute = false
    ∧ disputing.west.reset = .none ∧ disputing.east.reset = .none ∧ 3 ≤ disputing.west.disputed
    ∧ disputing.west.latched = disputing.east.latched ∧ leaderless.exchanges = true
    ∧ (leaderless.half leaderless.dev.leader.other).inService = true ∧ (leaderless.half leaderless.dev.leader).inService = false
    ∧ { disputing with west := { disputing.west with danger := true, latchClass := 0x38 } }.west.latched = true
    ∧ { disputing with west := { disputing.west with danger := true, latchClass := 0x38 } }.east.latched = false
    ∧ (up.half .west).inService = true ∧ (up.half .east).latched = false
    ∧ { up with west := { up.west with claim := false } }.west.inService = true ∧ up.east.claim = false
    ∧ (up.recentResets .east).length < 3 := by decide +kernel

/-- The dispute waits for the monitor; the leader that has gone is followed by the other half. -/
theorem test_dispute :
    (after (.claimExchange false false) disputing).map (fun t => (t.dev.dispute, t.dev.awaitMonitor, t.dev.st))
      = some (true, true, .quenched)
    ∧ (after (.claimExchange false false) leaderless).map (fun t => (t.dev.leader, t.east.claim)) = some (.east, true) := by
  decide +kernel

/-- The core rail at 750 mV, its last request 200 us and nine ticks of 1 us ago. -/
def adaptive : State :=
  { up with west := { up.west with vcoreMv := 750 }, time := { up.time with hp := 20900, tickHp := 100 } }

/-- A list of equal samples. -/
def samples (n : Nat) (mv : BitVec 16) : SupplyTrip := .samples (List.replicate n mv)

/-- An image of 100 W, 100 degrees and 750 mV in force, with the core at a voltage and both halves at a stretch. -/
def throttled (core stretch : Nat) : State :=
  let u (x : HalfUnit) : HalfUnit := { x with vcoreMv := core, stretch := stretch }
  { put 15 0 [0, 750 + at_ 20 100 + at_ 29 100] plain with west := u plain.west, east := u plain.east }

theorem witness_SuppliesClocksAndPowerAreWatched :
    up.dev.st ≠ .cold ∧ up.west.reset = .none ∧ State.reset.dev.st = .cold
    ∧ up.railOut .west 2 759 = true ∧ up.railOut .west 2 760 = false ∧ up.railOut .west 2 840 = false
    ∧ up.railOut .west 2 841 = true ∧ adaptive.railOut .west 0 720 = false ∧ adaptive.railOut .west 0 719 = true
    ∧ adaptive.railOut .west 0 780 = false ∧ adaptive.railOut .west 0 781 = true
    ∧ adaptive.supplyTrip .west 0 (samples 10 719) = some 719 ∧ adaptive.supplyTrip .west 0 (samples 9 719) = none
    ∧ adaptive.supplyTrip .west 0 (.samples (List.replicate 9 719 ++ [720])) = none
    ∧ { adaptive with time := { adaptive.time with hp := 20899 } }.supplyTrip .west 0 (samples 10 719) = none
    ∧ adaptive.supplyTrip .west 0 (.avsBus 700) = some 700 ∧ adaptive.supplyTrip .west 2 (.avsBus 700) = none
    ∧ clockOut true 99899 = true ∧ clockOut true 99900 = false ∧ clockOut false 50050 = false ∧ clockOut false 50051 = true
    ∧ plain.dev.imageValid = true ∧ up.dev.imageValid = false ∧ (110 : BitVec 8).toInt ≤ 110
    ∧ (let s := put 15 0 [0, 750 + at_ 20 100 + at_ 29 100] plain
       devPower (s.img.entry 15 0) < (101 : BitVec 16).toNat ∧ 100 * (94 : BitVec 16).toNat < 95 * devPower (s.img.entry 15 0)
       ∧ (96 : BitVec 8).toInt < (devTherm (s.img.entry 15 0) : Int) - 3 ∧ devVcore (s.img.entry 15 0) = 750)
    ∧ (throttled 725 3).west.vcoreMv = 725 ∧ (throttled 720 3).west.vcoreMv ≤ 720 ∧ (throttled 720 3).west.rateSpare = true
    ∧ (throttled 720 15).west.stretch = 15 ∧ (throttled 745 0).west.stretch = 0 ∧ (throttled 720 3).west.thermalAt = none
    ∧ { (throttled 720 3).west with measured := true, liveRate := 1700 }.rateSpare = false
    ∧ { (throttled 720 3).west with measured := true, liveRate := 1701 }.rateSpare = true := by decide +kernel

/-- Above the limit 725 mV goes to 720 and no lower, then the stretch rises; below it 745 mV rises to VCORE_MV. -/
theorem test_power_loop :
    (after (.powerLoop 101 20 true) (throttled 725 3)).map (fun t => (t.west.vcoreMv, t.east.stretch)) = some (720, 3)
    ∧ (after (.powerLoop 101 20 true) (throttled 720 3)).map (fun t => (t.west.vcoreMv, t.east.stretch)) = some (720, 4)
    ∧ (after (.powerLoop 94 20 true) (throttled 745 0)).map (fun t => (t.west.vcoreMv, t.east.stretch)) = some (750, 0) := by
  decide +kernel

/-! ### Boot -/

/-- KINDLING, stage by stage. -/
def kindling (b : Boot) : State := { State.reset with pins := { State.reset.pins with poresetN := true }, dev := { Dev.init with st := .kindling }, boot := b }

theorem witness_KindlingRuns :
    (kindling Boot.init).bootReads false = true ∧ (kindling Boot.init).bootReads true = false
    ∧ (kindling { Boot.init with slotATried := true }).bootReads true = true
    ∧ (match packageRes State.reset.part [] with
        | .fails _ _ => true
        | .ok _ => false) = true
    ∧ (kindling Boot.init).bootRuns = false
    ∧ (kindling { Boot.init with slot := 0, stage := 3 }).bootRuns = true
    ∧ (kindling { Boot.init with slot := 0, stage := 3 }).pins.mempop ≠ 3
    ∧ { kindling { Boot.init with slot := 0, stage := 3 } with pins := { State.reset.pins with poresetN := true, mempop := 3 } }.pins.mempop = 3
    ∧ (kindling { Boot.init with slot := 0, stage := 5, storesDone := true, dramDone := true }).bootRuns = true
    ∧ (kindling { Boot.init with slot := 0, stage := 6, storesDone := true, dramDone := true, injectDone := true }).bootRuns = true := by
  decide +kernel

/-- The end of KINDLING leaves BANKED, both halves in service, at the supplies without an image. -/
theorem test_kindling_done :
    (after (.kindlingDone (BitVec.allOnes 18))
        (kindling { Boot.init with slot := 0, stage := 6, storesDone := true, dramDone := true, injectDone := true })).map
      (fun t => (t.dev.st, t.west.inService, t.east.inService, t.west.vcoreMv)) = some (.banked, true, true, 600) := by
  decide +kernel

/-! ### The safety monitor and time -/

/-- A tally frame: TYPE, SEQ 9, digest, number, half, CRC. -/
def tally (ty digest number half : Nat) : List Byte :=
  let b := toLE 4 (ty + at_ 8 9) ++ toLE 8 digest ++ toLE 4 number ++ toLE 1 half ++ List.replicate 13 0
  b ++ toLE 2 (crc16 b).toNat

theorem witness_TheMonitorConfirmsOrRefuses :
    parseTally (tally 1 0 0 0) = .good .poll ∧ parseTally (tally 2 55 1 0) = .good .confirm
    ∧ parseTally (tally 3 55 1 0) = .good .refuse ∧ parseTally (tally 4 0 0 1) = .good .nameLeader
    ∧ parseTally (tally 9 0 0 0) = .form ∧ parseTally ((tally 1 0 0 0).set 4 1) = .crc
    ∧ proposed.dev.st ≠ .cold ∧ proposed.rec_.mode ≠ .replay ∧ proposed.img.proposal = some pendingProposal
    ∧ ofLE (slice (tally 2 55 1 0) 12 4) = pendingProposal.number ∧ wordAt (tally 2 55 1 0) 4 = pendingProposal.digest
    ∧ plain.img.proposal = none ∧ { plain with img := { plain.img with confirmed := false } }.img.confirmed = false
    ∧ ofLE (slice (tally 2 77 0 0) 12 4) = 0 ∧ wordAt (tally 2 77 0 0) 4 = plain.img.d0
    ∧ ofLE (slice (tally 2 77 2 0) 12 4) ≠ pendingProposal.number ∧ ofLE (slice (tally 2 77 2 0) 12 4) ≠ 0
    ∧ { up with dev := { up.dev with dispute := true, awaitMonitor := true } }.dev.awaitMonitor = true := by decide +kernel

/-- With nothing that could be confirmed the answer is 4, with another number pending it is 5. -/
theorem test_confirm_nothing :
    (after (.confirm (tally 2 77 0 0)) plain).map (·.tally.answer) = some [0x82, 9, 4]
    ∧ (after (.confirm (tally 2 77 2 0)) proposed).map (·.tally.answer) = some [0x82, 9, 5] := by decide +kernel

/-- D0 is confirmed by its digest under number 0. -/
theorem test_confirm :
    (after (.confirm (tally 2 77 0 0)) { plain with img := { plain.img with confirmed := false } }).map
      (fun t => (t.img.confirmed, t.tally.answer)) = some (true, [0x82, 9, 0]) := by decide +kernel

/-- A SET_TIME to 1000 armed at once. -/
def arming (load : Word) : State :=
  { up with time := { up.time with ts := 500, armed := [⟨0, 1, load, 3, 0⟩] } } |> updRing 0 fun r => { r with outstanding := 1 }

theorem witness_TimeIsSetAtTheEdge :
    up.time.armed = [] ∧ (arming 1000).time.armed = [⟨0, 1, 1000, 3, 0⟩]
    ∧ ((arming 1000).time.addPeriods 1).ts.toNat ≤ (1000 : Word).toNat
    ∧ (500 : Word).toNat < ((arming 500).time.addPeriods 1).ts.toNat := by decide +kernel

/-- A load of the time at the edge is taken, one below it is not. -/
theorem test_time_load :
    (after .ppsInEdge (arming 501)).map (fun t => (t.time.ts, t.time.slew)) = some (501, 3)
    ∧ (after .ppsInEdge (arming 500)).map (fun t => (t.time.ts, t.time.slew)) = some (501, 0) := by decide +kernel

/-! ### Kreong links -/

/-- Link 0 in a state with its lanes locked. -/
def linked (st : LinkSt) : State := updLink 0 (fun x => { x with st := st, lanesOk := true }) up

/-- A system of two devices. -/
def pair : List Word := [BitVec.ofNat 64 (1 + at_ 32 1), BitVec.ofNat 64 (10 + at_ 20 1), 0, 0, 0, 0, 0, 0, 5, 6] ++ List.replicate 30 0
def twoDevices (s : State) : State := { s with link := { s.link with valid := true, record := pair } }

/-- A flit of a type in order at SEQ 0, ACK 0, of an epoch. -/
def flit (ty seq epoch : Nat) (payload : List Byte) : List Byte := flitBytes ty seq 0 epoch payload

set_option maxRecDepth 20000 in
theorem witness_flits_in_order :
    (linked .member).receives 0 = true ∧ flCrcOk (flit 1 0 0 [7]) = true ∧ flType (flit 1 0 0 [7]) = 1
    ∧ flSeq (flit 1 0 0 [7]) = ((linked .member).klink 0).rxSeq := by decide +kernel

/-- The identity record of a device at link 1, and link 0 in training with a check that a commit left owed. -/
def peerRecord (serial : Nat) : List Byte :=
  { up with part := { up.part with serial := BitVec.ofNat 64 serial } }.identity 1
def owing : State := let s := twoDevices (linked .identified); { s with link := { s.link with owed := [0] } }

set_option maxRecDepth 20000 in
theorem witness_LinksTrainAndIdentify :
    up.linkLive 0 = true ∧ (up.klink 0).st = .down ∧ State.reset.linkLive 0 = false
    ∧ ((updLink 0 (fun x => { x with st := .training }) up).klink 0).lanesOk = false ∧ (linked .training).receives 0 = true
    ∧ up.receives 0 = false ∧ ((linked .training).klink 0).unacked.length < 64 ∧ ((linked .training).klink 0).waiting = []
    ∧ flCrcOk (flit 3 0 0 (up.identity 0)) = true ∧ flType (flit 3 0 0 (up.identity 0)) = 3
    ∧ peerIdOk (flPayload (flit 3 0 0 (up.identity 0))) = true ∧ peerIdOk (flPayload (flit 3 0 0 [])) = false
    ∧ ((linked .training).klink 0).st = .training
    ∧ 0 ∈ owing.link.owed ∧ (owing.klink 0).found = none
    ∧ partnerFits owing.topo 0 (slice (flPayload (flit 3 0 0 (peerRecord 6))) 0 64) = true
    ∧ partnerFits owing.topo 0 (slice (flPayload (flit 3 0 0 (peerRecord 7))) 0 64) = false
    ∧ flCrcOk (flit 3 0 0 (peerRecord 6)) = true ∧ peerIdOk (flPayload (flit 3 0 0 (peerRecord 7))) = true := by decide +kernel

set_option maxRecDepth 20000 in
/-- The right partner makes an owed link MEMBER whatever its state; another leaves it IDENTIFIED. -/
theorem test_owed_identity :
    (after (.flitIdentity 0 (flit 3 0 0 (peerRecord 6))) owing).map (fun t => ((t.klink 0).st, t.link.owed)) = some (.member, [])
    ∧ (after (.flitIdentity 0 (flit 3 0 0 (peerRecord 7))) owing).map (fun t => (t.klink 0).st) = some .identified := by
  decide +kernel

/-- One flit not yet acknowledged, and its eighth replay due. -/
def replaying (n : Nat) : State := updLink 0 (fun x => { x with unacked := [flit 1 0 0 []], replays := n }) (linked .member)

set_option maxRecDepth 20000 in
theorem witness_FlitsAreAcknowledgedAndDelivered :
    heldAfter 0 ((replaying 7).klink 0) = [flit 1 0 0 []] ∧ heldAfter 1 ((replaying 7).klink 0) = []
    ∧ ((replaying 7).klink 0).waiting = [] ∧ 7 ≤ ((replaying 7).klink 0).replays ∧ ((replaying 7).klink 0).st = .member
    ∧ flCrcOk (flit 4 0 0 []) = true ∧ flType (flit 4 0 0 []) = 4 ∧ flCrcOk ((flit 1 0 0 []).set 9 1) = false
    ∧ flEpoch (flit 1 0 1 []) = 1 ∧ (linked .member).link.epoch < flEpoch (flit 1 0 1 []) ∧ (linked .fenced).receives 0 = true
    ∧ ((linked .fenced).klink 0).st = .fenced ∧ flEpoch (flit 1 0 0 [7]) = (linked .member).link.epoch := by decide +kernel

set_option maxRecDepth 20000 in
/-- A corrupt flit draws one NAK and moves no number. -/
theorem test_corrupt :
    (after (.flitCorrupt 0 ((flit 1 0 0 []).set 9 1) true) (linked .member)).map
      (fun t => ((t.klink 0).rxSeq, (t.klink 0).nakWait, (t.klink 0).sent.map flType)) = some (0, true, [4]) := by decide +kernel

/-- A SEND waiting for its partner's link; a round of digests due. -/
def gathering : State := twoDevices collecting
def rounds (hold : List Nat) (r : List Round) : State :=
  let s := put 25 0 [1 + at_ 32 1, at_ 48 1, 64, 7] (paged plain) |> updHoop 0 fun u => { u with steps := 1, roundHold := hold }
  let s := twoDevices s
  { s with link := { s.link with rounds := r } }

theorem witness_SilenceFencesAndReplicasCompare :
    (linked .member).linkLive 0 = true ∧ ((linked .member).klink 0).st = .member ∧ (linked .training).receives 0 = true
    ∧ gathering.coll 0 0 = some (theColl gathering) ∧ gathering.openPart 0 0 0 = some (jobOf .running 1 [rel 0 [0]], rel 0 [0])
    ∧ gathering.link.valid = true ∧ gathering.rec_.mode ≠ .replay ∧ gathering.gathered (theColl gathering) (gathering.hoopHome 0) = none
    ∧ collecting.link.valid = false
    ∧ (rounds [0] []).roundDue 0 = true ∧ 0 ∈ ((rounds [0] []).hoop (repHoop ((rounds [0] []).img.entry 25 0))).roundHold
    ∧ ((rounds [0] []).hoop 0).job = none ∧ (rounds [0] []).round 0 = none ∧ ((rounds [0] []).half ((rounds [0] []).repHalf 0)).reset = .none
    ∧ (∀ e ∈ (rounds [0] []).link.early, e.1 = 0 → e.2.1 ≠ 1)
    ∧ (rounds [0] [⟨0, 1, 0, []⟩]).round 0 = some ⟨0, 1, 0, []⟩
    ∧ topoRank (rounds [0] [⟨0, 1, 0, []⟩]).topo ∈ groupRanks (rounds [0] [⟨0, 1, 0, []⟩]).topo 0
    ∧ (∃ k ∈ groupRanks (rounds [0] [⟨0, 1, 0, []⟩]).topo 0, k ≠ topoRank (rounds [0] [⟨0, 1, 0, []⟩]).topo)
    ∧ (vread (.walker .west) 1 0 64 (rounds [0] [⟨0, 1, 0, []⟩])).1.toOption = some (toLE 8 42 ++ List.replicate 56 0) := by
  decide +kernel

/-- A round of three devices in which the other two digests are in: rank 1 agrees with this device, rank 2 does not. -/
def trio : List Word := [BitVec.ofNat 64 (1 + at_ 32 2), BitVec.ofNat 64 (10 + at_ 20 1), 0, 0, 0, 0, 0, 0, 5, 6, 7] ++ List.replicate 29 0
def ownDigest : List Byte := (sha384 (toLE 8 42 ++ List.replicate 56 0)).take 32
def threeRound : State :=
  let s := rounds [0] [⟨0, 1, 0, [(1, ownDigest), (2, [])]⟩]
  { s with link := { s.link with record := trio } }

set_option maxRecDepth 100000 in
theorem witness_ReplicaRoundsExpel :
    threeRound.round 0 = some ⟨0, 1, 0, [(1, ownDigest), (2, [])]⟩ ∧ topoRank threeRound.topo = 0
    ∧ groupRanks threeRound.topo (repGroup (threeRound.img.entry 25 0)) = [0, 1, 2]
    ∧ (let ds := Tab.set [(1, ownDigest), (2, [])] 0 ownDigest
       (∀ k ∈ [0, 1, 2], ∃ d ∈ ds, d.1 = k) ∧ 3 ≤ ds.length ∧ oddRank ds = some 2)
    ∧ (vread (.walker (threeRound.repHalf 0)) 1 0 64 threeRound).1.toOption = some (toLE 8 42 ++ List.replicate 56 0)
    ∧ (usedLinks threeRound.topo).any (fun l => partnerRank threeRound.topo l == 2) = true := by decide +kernel

/-- A RECV that finds only a stale message waits; so does a collective whose message is missing. -/
def receiving : State :=
  let s := twoDevices (running kCollective [[5 + at_ 11 1, 0, 64, 1]])
  { s with link := { s.link with inbox := [⟨.west, 0, 1, [5 + at_ 11 1, 0, 64, 1], []⟩] } }

theorem witness_WaitExceeded :
    gathering.collJoined (theColl gathering) = true ∧ clOp (theColl gathering).desc ≠ 5
    ∧ receiving.coll 0 0 = some (theColl receiving) ∧ clOp (theColl receiving).desc = 5
    ∧ receiving.link.inbox.length = 1 := by decide +kernel

/-- A PEER entry of a recording that is due at once, and one that is not due. -/
def peerEntry (fetches : Nat) : List Byte :=
  entryBytesOf 0x07 false 1 ⟨0, fetches, [], none⟩ (wordsBytes [0] ++ slice (up.identity 0) 0 64)
def replays (e : List Byte) : State := { up with rec_ := { Recorder.init with mode := .replay, fed := [e] } }

set_option maxRecDepth 20000 in
theorem witness_ReplayDeliversInOrder :
    up.rec_.mode ≠ .replay ∧ (replays (peerEntry 0)).rec_.mode = .replay ∧ (replays (peerEntry 0)).rec_.fed = [peerEntry 0]
    ∧ enDue (peerEntry 0) (replays (peerEntry 0)).rec_ = true ∧ enDue (peerEntry 1) (replays (peerEntry 1)).rec_ = false
    ∧ enKind (peerEntry 0) = 0x07 := by decide +kernel

/-! ### All commands -/

theorem witness_WellFormedCommandsComplete :
    (Instr.nop 0 (pk 0 0 0 0 [])).wf = true ∧ (Instr.nop 0 []).wf = false ∧ packetOf (.nop 0 []) ≠ none
    ∧ packetOf .statusBlockRefresh = none ∧ (after .statusBlockRefresh up).isSome = true := by decide +kernel

theorem witness_CommandsStayInTheirUnits : exec .statusBlockRefresh up = .next ((after .statusBlockRefresh up).getD up) := rfl

theorem witness_ok : up.Ok := ok_of_check (by decide +kernel)

end Sys2Proof.Tests
end

section
/-! The statements about every step: what a step keeps, which units each command may change, the queue, and the reset state. -/
namespace Sys2Proof.Machine

/-! ### What an answer of `exec` keeps -/

/-- Where the outcome is a next state, it keeps the form of `s` and differs from `s` in the units of `l` alone. -/
def StaysIn (l : List DevUnit) (s : State) (o : Host.Outcome State Fault Refusal) : Prop :=
  ∀ t, o = .next t → (s.Ok → t.Ok) ∧ OnlyUnits l s t

/-- Every unit that a mask of `Keeps` lets change is listed. -/
def unitsCover (l : List DevUnit) (m : Nat) : Bool := allUnits.all fun u => l.contains u || !m.testBit u.bit

/-- The mask of `packetUnits`. -/
def packetMask : Nat := 0x8190

theorem land_lor_self (a b : Nat) : a &&& (a ||| b) = a :=
  Nat.eq_of_testBit_eq fun i => by rw [Nat.testBit_and, Nat.testBit_or]; exact inf_sup_self

theorem StaysIn.next {l : List DevUnit} {m : Nat} {s t : State} (k : Keeps m s t) (h : unitsCover l m = true := by rfl) :
    StaysIn l s (.next t) := by
  rintro _ ⟨⟩
  exact ⟨k.ok, k.units l h⟩

/-- A row whose event may have no occasion (log 2). -/
theorem StaysIn.guarded {l : List DevUnit} {m : Nat} {s t : State} {c : Prop} [Decidable c] (k : Keeps m s t)
    (h : unitsCover l m = true := by rfl) : StaysIn l s (.next (if c then t else s)) := .next (k.ite (.refl s)) h

theorem StaysIn.intake {l : List DevUnit} {m : Nat} {s : State} {f : State → State} (k : Keeps m s (f s))
    (h : unitsCover l m = true := by rfl) : StaysIn l s (intake f s) := .guarded k h

/-- A packet row changes what its own effect changes, and the units of every packet. -/
theorem StaysIn.packet {l : List DevUnit} {m : Nat} {s : State} {name : String} {wf : Bool} {ring : Nat} {pkt : List Word}
    {body : Tagged → State → State} (hb : ∀ t u, Keeps m u (body t u))
    (h : unitsCover l (m ||| packetMask) = true := by rfl) : StaysIn l s (packet name wf ring pkt body s) := by
  have hbody (t : Tagged) (u : State) : Keeps (m ||| packetMask) u (body t u) := (hb t u).up (land_lor_self m packetMask)
  have hmask : packetMask &&& (m ||| packetMask) = packetMask := by rw [Nat.lor_comm]; exact land_lor_self packetMask m
  unfold Machine.packet
  cases wf
  · exact fun _ hn => nomatch hn
  · exact .next (packetStep_keeps ring pkt body s hbody hmask) h

/-! ### Rows whose meaning is written in the row itself -/

/-- DRIFT_CHECK and ZQ_CALIBRATION: time moves to the due instant, and the channel notes it. -/
theorem updChan_after_advanceTo_keeps (hp c : Nat) (f : Channel → Channel) (s : State) :
    Keeps 0x401 s (updChan c f (advanceTo hp s)) := (advanceTo_keeps hp s).up.trans (updChan_keeps ..).up

theorem execPassGroupCommit_staysIn (hoop : BitVec 4) (step : BitVec 20) (pos : BitVec 3) (fixed : Corrected) (s : State) :
    StaysIn workUnits s (execPassGroupCommit hoop step pos fixed s) := by
  refine .next (m := 0x197B8) ?_
  split
  · exact .ite ((countFixed_keeps ..).up.trans (passCommit_keeps ..)) (.refl s)
  · exact .refl s

theorem execTransformCommit_staysIn (hoop : BitVec 4) (step : BitVec 20) (pos : BitVec 3) (fixed : Corrected) (s : State) :
    StaysIn workUnits s (execTransformCommit hoop step pos fixed s) := by
  refine .next (m := 0x197B8) ?_
  split
  · exact (countFixed_keeps ..).up.trans (transformCommit_keeps ..)
  · exact .refl s

theorem execAttendCommit_staysIn (hoop : BitVec 4) (step : BitVec 20) (pos : BitVec 3) (fixed : Corrected) (s : State) :
    StaysIn workUnits s (execAttendCommit hoop step pos fixed s) := by
  refine .next (m := 0x197B8) ?_
  split
  · exact .ite (.refl s) ((countFixed_keeps ..).up.trans (attendCommit_keeps ..))
  · exact .refl s

theorem execAppendDone_staysIn (hoop : BitVec 4) (step : BitVec 20) (pos : BitVec 3) (stop : Option (Nat × FaultClass))
    (fixed : Corrected) (s : State) : StaysIn workUnits s (execAppendDone hoop step pos stop fixed s) := by
  have hrun (q : Part4) : Keeps 0x197B8 s (appendRun q stop (countFixed q.phys fixed s)) :=
    (countFixed_keeps ..).up.trans (appendRun_keeps ..)
  refine .next (m := 0x197B8) ?_
  split
  · exact .refl s
  · refine .ite (.refl s) ?_
    cases stop with
    | none => exact hrun _
    | some cause => exact .ite (hrun _) (.refl s)

/-! ### Every command -/

/-- Every command keeps the form of the state and stays within its own units. -/
theorem exec_staysIn (c : Instr) (s : State) : StaysIn (commandUnits c) s (exec c s) :=
  match c with
  | .nop .. => .packet fun _ _ => answer_keeps ..
  | .getStatus .. => .packet fun _ _ => answer_keeps ..
  | .readCounters .. => .packet fun _ _ => readCounters_keeps ..
  | .loadImage .. => .packet fun _ _ => loadImage_keeps ..
  | .imageLoad .. => .next (imageLoad_keeps ..)
  | .openOutputs .. => .packet fun _ _ => openOutputs_keeps ..
  | .closeOutputs .. => .packet fun _ _ => closeOutputs_keeps ..
  | .resetHalf .. => .packet fun _ _ => resetHalf_keeps ..
  | .resetDevice .. => .packet fun _ _ => resetDevice_keeps ..
  | .setTime .. => .packet fun _ _ => setTime_keeps ..
  | .setRecordMode .. => .packet fun _ _ => setRecordMode_keeps ..
  | .proposeProtection .. => .packet fun _ _ => propose_keeps ..
  | .withdrawProposal .. => .packet fun _ _ => withdraw_keeps ..
  | .setFrameRing .. => .packet fun _ _ => setFrameRing_keeps ..
  | .commitRoutes .. => .packet fun _ _ => commitRoutes_keeps ..
  | .startJob .. => .packet fun _ _ => startJob_keeps ..
  | .cancelJob .. => .packet fun _ _ => cancelJob_keeps ..
  | .knotSet .. => .packet fun _ _ => knotSet_keeps ..
  | .knotRead .. => .packet fun _ _ => knotRead_keeps ..
  | .copyIn .. => .packet fun _ _ => startCopy_keeps ..
  | .copyOut .. => .packet fun _ _ => startCopy_keeps ..
  | .copyDone .. => .next (copyDone_keeps ..)
  | .invalidateTranslation .. => .packet fun _ _ => startInvalidate_keeps ..
  | .invalidationComplete .. => .next (invalidationComplete_keeps ..)
  | .bufferAlloc .. => .packet fun _ _ => bufferAlloc_keeps ..
  | .bufferFree .. => .packet fun _ _ => bufferFree_keeps ..
  | .commitTopology .. => .packet fun _ _ => commitTopology_keeps ..
  | .hstSqDoorbell .. => .next (writeDoorbell_keeps ..)
  | .ringEnable .. => .next (writeRingCtrl_keeps ..)
  | .ringDisable .. => .next (writeRingCtrl_keeps ..)
  | .overrunClear .. => .next (writeRingCtrl_keeps ..)
  | .ringPageSetupWrite .. => .next (writeRingReg_keeps ..)
  | .outputRingSetupWrite .. => .next (writeOutReg_keeps ..)
  | .dbgBaseWrite .. => .next (writeDbgBase_keeps ..)
  | .fgSpeedClear .. => .next (writeSpeed_keeps ..)
  | .registerWrite .. => .next (writeBar0_keeps ..)
  | .statusBlockRefresh => .next (statusCopy_keeps ..)
  | .paceTick .. => .next (paceTick_keeps ..)
  | .unpacedRelease .. => .next (.ite (.refl s) ((releaseHoop_keeps ..).up.trans (startCollectives_keeps ..)))
  | .argumentReadDone .. => .next (argumentRead_keeps ..)
  | .passGroupCommit hoop step pos fixed => execPassGroupCommit_staysIn hoop step pos fixed s
  | .passGroupAbandon .. => .next (passAbandon_keeps ..)
  | .transformCommit hoop step pos fixed => execTransformCommit_staysIn hoop step pos fixed s
  | .attendCommit hoop step pos fixed => execAttendCommit_staysIn hoop step pos fixed s
  | .appendDone hoop step pos stop fixed => execAppendDone_staysIn hoop step pos stop fixed s
  | .transferDone .. => .next (transferDone_keeps ..)
  | .resultHandover .. => .next (resultHandover_keeps ..)
  | .collectiveDone .. => .next (collectiveDone_keeps ..)
  | .stepWatchdog .. => .next (stepWatchdog_keeps ..)
  | .knotWaitTimeout .. => .next (waitTimeout_keeps ..)
  | .translationWalk .. => .guarded (translationWalk_keeps ..)
  | .damperRequest .. => .next (damperRequest_keeps ..)
  | .damperCutoff .. => .next (damperCutoff_keeps ..)
  | .damperShed .. => .next (damperShed_keeps ..)
  | .dramRequest .. => .next (dramRequest_keeps ..)
  | .dramRefresh .. => .next (dramRefresh_keeps ..)
  | .mr4Read .. => .next (mr4Read_keeps ..)
  | .selfRefreshEntry .. => .next (selfRefreshEntry_keeps ..)
  | .selfRefreshExit .. => .guarded (updChan_keeps ..)
  | .frequencyChange .. => .guarded (frequencyChange_keeps ..)
  | .driftCheck .. => .guarded (updChan_after_advanceTo_keeps ..)
  | .zqCalibration .. => .guarded (updChan_after_advanceTo_keeps ..)
  | .patrolScrub .. => .next (patrolScrub_keeps ..)
  | .phyLockLoss .. => .guarded (loseChannel_keeps ..)
  | .aphyPartnerDetected .. => .intake (partnerDetected_keeps ..)
  | .cameraDiscoveryDone .. => .intake (discoveryDone_keeps ..)
  | .aphyLockLoss .. => .intake (lockLoss_keeps ..)
  | .frameStart .. => .intake (camFrameStart_keeps ..)
  | .csi2LongPacket .. => .intake (longPacket_keeps ..)
  | .embeddedData .. => .intake (embeddedData_keeps ..)
  | .frameEnd .. => .intake (camFrameEnd_keeps ..)
  | .lidarPacket .. => .intake (lidarPacket_keeps ..)
  | .frameComplete .. => .intake (frameComplete_keeps ..)
  | .networkLinkDown .. => .intake (networkDown_keeps ..)
  | .lidarSilence .. => .intake (lidarSilence_keeps ..)
  | .intakeStall .. => .intake (intakeStall_keeps ..)
  | .decoderEpochStart .. => .intake (epochStart_keeps ..)
  | .decodedPicture .. => .intake (decodedPicture_keeps ..)
  | .pilotDone .. => .next (pilotDone_keeps ..)
  | .pilotOverrun .. => .next (pilotOverrun_keeps ..)
  | .keyDecision .. => .next (keyDecision_keeps ..)
  | .pilotMissing .. => .next (pilotMissing_keeps ..)
  | .recordCompose .. => .next (recordCompose_keeps ..)
  | .keyAnswerTimeout .. => .next (keyTimeout_keeps ..)
  | .holdRecord .. => .next (holdDue_keeps ..)
  | .outputWriter .. => .next (writerSwitch_keeps ..)
  | .heartbeatToggle .. => .next (heartbeat_keeps ..)
  | .weightDigestCheck .. => .next (weightCheck_keeps ..)
  | .halfReset .. => .next (halfReset_keeps ..)
  | .halfResetRelease .. => .next (releaseReset_keeps ..)
  | .halfRestart .. => .next (halfRestart_keeps ..)
  | .halfResetTimeout .. => .next (resetTimeout_keeps ..)
  | .faultCoalesceExpiry .. => .next (coalesceEnd_keeps ..)
  | .faultRepeatExpiry .. => .next (repeatEnd_keeps ..)
  | .faultRecordWrite => .next (faultWrite_keeps ..)
  | .retestDone .. => .next (retestDone_keeps ..)
  | .fenceKnotSet .. => .next (fenceSet_keeps ..)
  | .staleResult .. => .next (staleResult_keeps ..)
  | .lateSpeech .. => .next (lateSpeech_keeps ..)
  | .claimExchange .. => .next (claimExchange_keeps ..)
  | .claimSilence .. => .next (claimSilence_keeps ..)
  | .poll .. => .next (tallyOf_keeps ..)
  | .confirm .. => .next (tallyOf_keeps ..)
  | .refuse .. => .next (tallyOf_keeps ..)
  | .nameLeader .. => .next (tallyOf_keeps ..)
  | .tallyBadFrame .. => .next ((tallyOf_keeps ..).trans (tallyOf_keeps ..))
  | .agreementTimeout => .next (agreementTimeout_keeps ..)
  | .ppsInEdge => .next (ppsEdge_keeps ..)
  | .setTimeNoPps => .next (noPps_keeps ..)
  | .linkSignalDetected .. => .guarded (updLink_keeps ..)
  | .fecLock .. => .next (fecLock_keeps ..)
  | .identitySend .. => .guarded (sendIdentity_keeps ..)
  | .flitData .. => .next (acceptFlit_keeps _ _ _ _ _ (fun _ => payloadFlit_keeps ..) rfl)
  | .flitControl .. => .next (acceptFlit_keeps _ _ _ _ _ (fun _ => payloadFlit_keeps ..) rfl)
  | .flitIdentity .. => .next (acceptFlit_keeps _ _ _ _ _ (fun _ => identityPayload_keeps ..) rfl)
  | .flitNak .. => .next (acceptFlit_keeps _ _ _ _ _ (fun _ => replayFlits_keeps ..) rfl)
  | .flitIdle .. => .next (acceptFlit_keeps (m := 0x4000) _ _ _ _ _ .refl rfl)
  | .flitCorrupt .. => .next (flitCorrupt_keeps ..)
  | .linkTimeout .. => .next (linkTimeout_keeps ..)
  | .laneLockLoss .. => .next (laneLoss_keeps ..)
  | .waitExceeded .. => .next (waitExceeded_keeps ..)
  | .replicaRoundStart .. => .next (roundStart_keeps ..)
  | .replicaRoundTimeout .. => .next (roundTimeout_keeps ..)
  | .replayDeliver => .next (replayDeliver_keeps ..)
  | .voltageFault .. => .next (voltageFault_keeps ..)
  | .clockFault .. => .guarded (supplyFault_keeps ..)
  | .powerLoop .. => .next (powerLoop_keeps ..)
  | .poresetAssert => .next ((Keeps.setPins (.refl s)).trans (resetAll_keeps _))
  | .poresetRelease .. => .next (poresetRelease_keeps ..)
  | .bootPackageRead .. => .next (bootPackage_keeps ..)
  | .storesTested .. => .next (storesTested_keeps ..)
  | .dramTrainingDone .. => .next (dramTrained_keeps ..)
  | .checkerInjectionsDone .. => .next (injectionsDone_keeps ..)
  | .kindlingDone .. => .next (kindlingDone_keeps ..)
  | .flashImageAutoload .. => .next (flashLoad_keeps ..)
  | .lockstepMismatch .. => .next (lockstepFault_keeps ..)
  | .pathFailed .. => .intake (pathFailed_keeps ..)
  | .aphyLinkTrained .. => .intake (linkTrained_keeps ..)
  | .networkLinkUp .. => .intake (networkUp_keeps ..)
  | .replicaDigestComputed .. => .next (digestComputed_keeps ..)
/-- Settles O58: `exec_staysIn` says of every command that its answer stays within the command's units. -/
theorem commandsStayInTheirUnits : Obligations.CommandsStayInTheirUnits :=
  fun c s t h => (exec_staysIn c s t h).2

/-! ### A step -/

theorem step_of_empty {s : State} (hp : s.pending = []) : step s = .next (idle s) := by rw [step, hp]

theorem step_of_front {s : State} {c : Instr} {rest : List Instr} (hp : s.pending = c :: rest) :
    step s = exec c { s with pending := rest } := by rw [step, hp]

/-- A step that answers a next state was the idle step, or the front command on the queue's rest. -/
theorem step_cases {s t : State} (h : step s = .next t) :
    (s.pending = [] ∧ t = idle s) ∨ ∃ c rest, s.pending = c :: rest ∧ exec c { s with pending := rest } = .next t := by
  cases hp : s.pending with
  | nil => rw [step_of_empty hp] at h; cases h; exact .inl ⟨rfl, rfl⟩
  | cons c rest => exact .inr ⟨c, rest, rfl, step_of_front hp ▸ h⟩

/-- The form of a state does not speak of the queue. -/
theorem State.Ok.withPending {s : State} (o : s.Ok) (rest : List Instr) : ({ s with pending := rest } : State).Ok :=
  ⟨o.host, o.dev, o.boot, o.west, o.east, o.seq, o.mem⟩

/-- Settles O3: the idle step and every command keep the form. -/
theorem everyStepKeepsTheForm : Obligations.EveryStepKeepsTheForm := by
  intro s t o h
  obtain ⟨-, rfl⟩ | ⟨c, rest, -, hexec⟩ := step_cases h
  · exact (idle_keeps s).ok o
  · exact (exec_staysIn c _ t hexec).1 (o.withPending rest)

theorem stepTakesOneCommand : StepTakesOneCommand := by
  intro s t h
  obtain ⟨hp, rfl⟩ | ⟨c, rest, hp, hexec⟩ := step_cases h
  · rw [hp]; exact ⟨(idle_keeps s).pending.trans hp, (idle_keeps s).part⟩
  · obtain ⟨hpending, hpart, -⟩ := (exec_staysIn c _ t hexec).2
    rw [hp]; exact ⟨hpending, hpart⟩

/-! ### The idle step -/

theorem idle_of_cold {s : State} (hc : s.dev.st = .cold) : idle s = s := if_pos hc

theorem idle_of_running {s : State} (hc : s.dev.st ≠ .cold) :
    idle s = { s with time := { s.time.addPeriods ((s.time.hp + 1) / 2 - s.time.hp / 2) with hp := s.time.hp + 1 } } := by
  rw [idle, if_neg hc, advanceTo, if_neg (Nat.not_succ_le_self _)]

/-- No period ends and the slew carries no whole count: the timestamp stands. -/
theorem addPeriods_zero_ts (t : Time) (h0 : 0 ≤ t.slewAcc) (h1 : t.slewAcc < 1000000000) : (t.addPeriods 0).ts = t.ts := by
  simp [Time.addPeriods, Int.ediv_eq_zero_of_lt h0 h1]

theorem addPeriods_one_ts (t : Time) (hs : t.slew = 0) (ha : t.slewAcc = 0) : (t.addPeriods 1).ts = t.ts + 1 := by
  simp [Time.addPeriods, hs, ha]

/-- `EmptyQueueLetsTimePass` of the states whose slew remainder lies below one count, as every update of it leaves it (R50). -/
theorem emptyQueueLetsTimePass_of_slewAcc_lt (s : State) (hp : s.pending = []) (h0 : 0 ≤ s.time.slewAcc)
    (h1 : s.time.slewAcc < 1000000000) :
    (s.dev.st = .cold → step s = .next s)
    ∧ (s.dev.st ≠ .cold →
      ∃ t, step s = .next t ∧ OnlyUnits [.time] s t ∧ t.time.hp = s.time.hp + 1
        ∧ (s.time.hp % 2 = 0 → t.time.ts = s.time.ts)
        ∧ (s.time.hp % 2 = 1 → s.time.slew = 0 → s.time.slewAcc = 0 → t.time.ts = s.time.ts + 1)) := by
  refine ⟨fun hc => by rw [step_of_empty hp, idle_of_cold hc], fun hc => ?_⟩
  refine ⟨idle s, step_of_empty hp, (idle_keeps s).units _ rfl, ?_⟩
  rw [idle_of_running hc]
  refine ⟨rfl, fun heven => ?_, fun hodd hs ha => ?_⟩
  · rw [show (s.time.hp + 1) / 2 - s.time.hp / 2 = 0 by omega]
    exact addPeriods_zero_ts s.time h0 h1
  · rw [show (s.time.hp + 1) / 2 - s.time.hp / 2 = 1 by omega]
    exact addPeriods_one_ts s.time hs ha

/-- A device in BANKED right after its reset: the first half-period ends no period of the timestamp. -/
theorem idle_banked_after_reset :
    ∃ t, step { State.reset with dev := { Dev.init with st := .banked } } = .next t ∧ t.time.hp = 1 ∧ t.time.ts = 0 := by
  obtain ⟨-, hrun⟩ := emptyQueueLetsTimePass_of_slewAcc_lt { State.reset with dev := { Dev.init with st := .banked } } rfl
    (Int.le_refl 0) (by decide)
  obtain ⟨t, hstep, -, hhp, heven, -⟩ := hrun (by decide)
  exact ⟨t, hstep, hhp, heven rfl⟩

/-- BANKED with an empty queue at an even half-period, and one whole count left in the slew remainder. -/
def slewCarries : State :=
  { State.reset with dev := { Dev.init with st := .banked }, time := { Time.init with slewAcc := 1000000000 } }

theorem idle_slewCarries_ts : (idle slewCarries).time.ts = 1 := by decide

/-- Refutes O2: the statement takes any remainder `slewAcc`, and from `slewCarries`, whose remainder of 10^9 no update of R50
leaves, an idle half-period that ends no period still moves the timestamp from 0 to 1. What it says of the queue and the part is
`stepTakesOneCommand`; what it says of time holds where the remainder is below one count
(`emptyQueueLetsTimePass_of_slewAcc_lt`). -/
theorem not_queueIsServedInOrder : ¬ Obligations.QueueIsServedInOrder := by
  rintro ⟨-, hidle⟩
  obtain ⟨t, hstep, -, -, heven, -⟩ := (hidle slewCarries rfl).2 (by decide)
  rw [step_of_empty rfl] at hstep
  cases hstep
  exact absurd ((idle_slewCarries_ts.symm.trans (heven rfl) : (1 : Word) = 0)) (by decide)

/-! ### The state after reset -/

/-- Settles O4: no table of the reset state lists an entry, and each of its stores is cleared or wholly unspecified. -/
theorem resetHasTheForm : Obligations.ResetHasTheForm where
  host := ⟨Store.zero_wf, Nat.zero_le _, fun _ he => absurd he List.not_mem_nil⟩
  dev := Nat.zero_le _
  boot := ⟨Nat.zero_le _, Nat.zero_le _, Nat.le_refl 3⟩
  west := ⟨Nat.zero_le _, Nat.le_refl _, Nat.zero_le _⟩
  east := ⟨Nat.zero_le _, Nat.le_refl _, Nat.zero_le _⟩
  seq := fun _ he => absurd he List.not_mem_nil
  mem := ⟨Store.unspecified_wf 1, Store.zero_wf, Store.zero_wf, Store.zero_wf, Store.unspecified_wf 1⟩

theorem Store.zero_read (a : Nat) : Store.zero.read a = 0 := rfl

/-- The units of either half at their reset values. -/
theorem reset_half (h : Half) : State.reset.half h = HalfUnit.init := by cases h <;> rfl

/-- Settles O60: a table of the reset state lists no entry, so it reads its unit's reset value at every index. -/
theorem resetValues : Obligations.ResetValues := by
  have hhalf (h : Half) : (State.reset.half h).minRate = 0xFFFF ∧ (State.reset.half h).slipCount = 0
      ∧ (State.reset.half h).ticks = 0 ∧ (State.reset.half h).reset = .none := by
    rw [reset_half]; exact ⟨rfl, rfl, rfl, rfl⟩
  have hfirebox (p a : Nat) : (State.reset.hearth p).byte a = 0 := Store.zero_read _
  exact ⟨rfl, rfl, rfl, rfl, rfl, rfl, rfl, rfl, rfl, rfl, rfl, rfl, rfl, fun _ => rfl, rfl, rfl, rfl, hhalf, fun _ => rfl,
    fun _ => rfl, fun _ _ => rfl, fun _ => ⟨rfl, rfl⟩, fun _ => rfl, hfirebox, Store.zero_read, fun _ => rfl, rfl, rfl, rfl, rfl⟩

end Sys2Proof.Machine
end

section
/-! The speed monitor and the status block (R27, R43), and what a damper grants and sheds (R18, R265 to R274). -/
namespace Sys2Proof.Machine

/-! ### The speed monitor and the status block (R27, R43) -/

theorem statusCopy_hostMem (s : State) :
    (statusCopy s).host.mem = s.host.mem.writeN s.host.statusBlock.toNat (wordsBytes [s.hstStatus, s.now]) := by
  unfold statusCopy; generalize wordsBytes _ = bs; rfl

theorem speedMonitorCleared : SpeedMonitorCleared := fun _ => ⟨rfl, rfl⟩

theorem statusBlockRefreshed : StatusBlockRefreshed := by
  intro s hwf
  have hlen : (wordsBytes [s.hstStatus, s.now]).length = 16 := wordsBytes_length _
  have hbytes : wordsBytes [s.hstStatus, s.now] = toLE 8 s.hstStatus.toNat ++ toLE 8 s.time.ts.toNat := by
    simp [wordsBytes, State.now]
  refine ⟨statusCopy s, rfl, statusCopy_eq s, ?_, fun a ha => ?_⟩
  · rw [statusCopy_hostMem, ← hlen, Store.readN_writeN _ _ _ hwf, hbytes]
  · rw [statusCopy_hostMem]
    exact Store.read_writeN_out _ _ _ _ hwf (by rwa [hlen])

/-- Settles O7: CLEAR is the update of the two registers by definition, and the copy is one write of 16 bytes. -/
theorem speedClearedAndStatusCopied : Obligations.SpeedClearedAndStatusCopied :=
  ⟨speedMonitorCleared, statusBlockRefreshed⟩

/-! ### The decision (R18, R267) -/

/-- The requests that a decision weighs are, of each source, the oldest that waits. -/
theorem mem_heads_iff (l : List Pend) (r : Pend) : r ∈ heads l ↔ l.find? (fun y => y.port == r.port) = some r := by
  induction l with
  | nil => simp [heads]
  | cons a t ih =>
    by_cases hp : a.port = r.port
    · simp [heads, hp, eq_comm]
    · have hne : r ≠ a := fun h => hp (h ▸ rfl)
      have hp' : r.port ≠ a.port := Ne.symm hp
      simp [heads, hp, hp', hne, ih]

theorem heads_eq_nil_iff (l : List Pend) : heads l = [] ↔ l = [] := by
  cases l <;> simp [heads]

theorem mem_waiting_of_mem_heads {l : List Pend} {r : Pend} (h : r ∈ heads l) : r ∈ l :=
  List.mem_of_find?_eq_some ((mem_heads_iff l r).1 h)

/-- The first request of `l` in an order of input numbers. -/
def firstByInput (order : List Nat) (l : List Pend) : Option Pend :=
  order.findSome? fun i => l.find? fun r => r.input == i

theorem mem_of_firstByInput {order : List Nat} {l : List Pend} {r : Pend} (h : firstByInput order l = some r) : r ∈ l := by
  obtain ⟨i, -, hi⟩ := List.exists_of_findSome?_eq_some h
  exact List.mem_of_find?_eq_some hi

/-- An order that names every input of `l` misses none of its requests. -/
theorem firstByInput_eq_none_iff {order : List Nat} {l : List Pend} (hcover : ∀ r ∈ l, r.input ∈ order) :
    firstByInput order l = none ↔ l = [] := by
  constructor
  · intro h
    refine List.eq_nil_iff_forall_not_mem.2 fun r hr => ?_
    have hnone := List.findSome?_eq_none_iff.1 h r.input (hcover r hr)
    exact absurd (List.find?_eq_none.1 hnone r hr) (by simp)
  · rintro rfl
    simp [firstByInput]

theorem mem_rotation (last : Nat) {i : Nat} (h : i < 16) : i ∈ rotation last :=
  List.mem_map.2 ⟨(i + 15 * (last + 1)) % 16, List.mem_range.2 (Nat.mod_lt _ (by decide)), by omega⟩

/-- The requests weighed that carry an owner. -/
def ownHeads (l : List Pend) (owner : Nat) : List Pend := (heads l).filter fun r => r.owner == owner

theorem mem_ownHeads {l : List Pend} {owner : Nat} {r : Pend} : r ∈ ownHeads l owner ↔ r ∈ heads l ∧ r.owner = owner := by
  simp [ownHeads]

/-- The order of inputs in which a slot without a waiting owner goes. -/
def Damper.backgroundOrder (x : Damper) (fixed : Bool) : List Nat :=
  if fixed then (List.range 16).reverse else rotation x.lastBg

theorem Damper.mem_backgroundOrder (x : Damper) (fixed : Bool) {i : Nat} (h : i < 16) : i ∈ x.backgroundOrder fixed := by
  cases fixed
  · exact mem_rotation _ h
  · simpa [backgroundOrder] using h

theorem Damper.choose_eq (x : Damper) (owner : Nat) (fixed : Bool) :
    x.choose owner fixed =
      if !(ownHeads x.waiting owner).isEmpty then
        (firstByInput (rotation (Tab.get 15 x.lastOf owner)) (ownHeads x.waiting owner)).map fun r => (r, true)
      else (firstByInput (x.backgroundOrder fixed) (heads x.waiting)).map fun r => (r, false) := rfl

theorem Damper.choose_of_owner_waits {x : Damper} {owner : Nat} {fixed : Bool} (h : ownHeads x.waiting owner ≠ []) :
    x.choose owner fixed =
      (firstByInput (rotation (Tab.get 15 x.lastOf owner)) (ownHeads x.waiting owner)).map fun r => (r, true) := by
  rw [choose_eq, if_pos (by simpa using h)]

theorem Damper.choose_of_no_owner_waits {x : Damper} {owner : Nat} {fixed : Bool} (h : ownHeads x.waiting owner = []) :
    x.choose owner fixed = (firstByInput (x.backgroundOrder fixed) (heads x.waiting)).map fun r => (r, false) := by
  rw [choose_eq, if_neg (by simp [h])]

/-- No grant is made exactly where no request waits. -/
theorem Damper.choose_eq_none_iff {x : Damper} {owner : Nat} {fixed : Bool} (hin : ∀ r ∈ x.waiting, r.input < 16) :
    x.choose owner fixed = none ↔ x.waiting = [] := by
  have hheads : ∀ r ∈ heads x.waiting, r.input < 16 := fun r hr => hin r (mem_waiting_of_mem_heads hr)
  by_cases hown : ownHeads x.waiting owner = []
  · rw [choose_of_no_owner_waits hown, Option.map_eq_none_iff,
      firstByInput_eq_none_iff fun r hr => x.mem_backgroundOrder fixed (hheads r hr), heads_eq_nil_iff]
  · rw [choose_of_owner_waits hown, Option.map_eq_none_iff,
      firstByInput_eq_none_iff fun r hr => mem_rotation _ (hheads r (mem_ownHeads.1 hr).1)]
    refine iff_of_false hown fun hw => hown ?_
    rw [hw]; rfl

/-- A decision takes an oldest request, and a slot's owner goes first. -/
theorem Damper.choose_some {x : Damper} {owner : Nat} {fixed slot : Bool} {r : Pend}
    (h : x.choose owner fixed = some (r, slot)) :
    r ∈ heads x.waiting ∧ (slot = true ↔ ∃ y ∈ heads x.waiting, y.owner = owner) ∧ (slot = true → r.owner = owner) := by
  by_cases hown : ownHeads x.waiting owner = []
  · rw [choose_of_no_owner_waits hown, Option.map_eq_some_iff] at h
    obtain ⟨q, hq, ⟨⟩⟩ := h
    have hno : ¬∃ y ∈ heads x.waiting, y.owner = owner := fun ⟨y, hy⟩ => by
      have hmem := mem_ownHeads.2 hy
      rw [hown] at hmem
      exact List.not_mem_nil hmem
    exact ⟨mem_of_firstByInput hq, iff_of_false Bool.false_ne_true hno, fun hf => absurd hf Bool.false_ne_true⟩
  · rw [choose_of_owner_waits hown, Option.map_eq_some_iff] at h
    obtain ⟨q, hq, ⟨⟩⟩ := h
    obtain ⟨hmem, howner⟩ := mem_ownHeads.1 (mem_of_firstByInput hq)
    exact ⟨hmem, iff_of_true rfl ⟨_, hmem, howner⟩, fun _ => howner⟩

/-! ### One damper and its counters (R285) -/

theorem damper_of_mem {s t : State} (h : t.mem = s.mem) (g : Nat) : t.damper g = s.damper g := by
  unfold State.damper; rw [h]

/-- Of the stores, dampers and channels only damper `g` may differ. -/
structure OnlyDamper (g : Nat) (s t : State) : Prop where
  mem   : t.mem = { s.mem with dampers := t.mem.dampers }
  other : ∀ k, k ≠ g → t.damper k = s.damper k

theorem OnlyDamper.of_mem {g : Nat} {s t : State} (h : t.mem = s.mem) : OnlyDamper g s t :=
  ⟨by rw [h], fun k _ => damper_of_mem h k⟩

theorem OnlyDamper.trans {g : Nat} {s t u : State} (h : OnlyDamper g s t) (k : OnlyDamper g t u) : OnlyDamper g s u :=
  ⟨by rw [k.mem, h.mem], fun n hn => (k.other n hn).trans (h.other n hn)⟩

theorem updDamper_onlyDamper (g : Nat) (f : Damper → Damper) (s : State) : OnlyDamper g s (updDamper g f s) :=
  ⟨rfl, fun _ hk => updDamper_ne _ _ _ hk⟩

@[simp] theorem updDamper_half (g : Nat) (f : Damper → Damper) (s : State) (h : Half) :
    (updDamper g f s).half h = s.half h := by cases h <;> rfl

@[simp] theorem bumpDamp_mem (h : Half) (w k : Nat) (s : State) : (bumpDamp h w k s).mem = s.mem := updHalf_mem ..
@[simp] theorem bumpDamp_img (h : Half) (w k : Nat) (s : State) : (bumpDamp h w k s).img = s.img := updHalf_img ..
@[simp] theorem bumpDamp_seq (h : Half) (w k : Nat) (s : State) : (bumpDamp h w k s).seq = s.seq := updHalf_seq ..

/-- A damper counter of a half. -/
def State.dampCount (s : State) (h : Half) (w : Nat) : Nat := Tab.get 0 (s.half h).dampCtr w

theorem get_bump_self (t : Tab Nat) (w k : Nat) : Tab.get 0 (bump t w k) w = (Tab.get 0 t w + k) % 2 ^ 64 :=
  Tab.get_upd_self ..

theorem get_bump_ne (t : Tab Nat) {v w : Nat} (k : Nat) (h : v ≠ w) : Tab.get 0 (bump t w k) v = Tab.get 0 t v :=
  Tab.get_upd_ne _ _ _ h

theorem bumpDamp_dampCount_self (h : Half) (w k : Nat) (s : State) :
    (bumpDamp h w k s).dampCount h w = (s.dampCount h w + k) % 2 ^ 64 := by
  rw [State.dampCount, bumpDamp, updHalf_self]; exact get_bump_self ..

theorem bumpDamp_dampCount_ne (h k : Half) {v w : Nat} (n : Nat) (s : State) (hv : v ≠ w) :
    (bumpDamp h w n s).dampCount k v = s.dampCount k v := by
  unfold State.dampCount bumpDamp
  cases h <;> cases k
  case west.west | east.east => exact get_bump_ne _ _ hv
  case west.east | east.west => rfl

/-! ### Grants (R266, R267) -/

/-- A damper that has granted request `r` at tick `now`. -/
def Damper.granted (x : Damper) (r : Pend) (slot : Bool) (now : Nat) : Damper :=
  { x with slotPtr := (x.slotPtr + 1) % 256, lastOf := x.lastOf.set r.owner r.input,
           lastBg := if slot then x.lastBg else r.input, waiting := x.waiting.erase r, held := x.held ++ [⟨r, now⟩] }

/-- What a damper decides next. -/
def State.decision (s : State) (g : Nat) : Option (Pend × Bool) :=
  (s.damper g).choose (s.slotOwner g (s.damper g).slotPtr) (s.fixedMode g)

theorem grantOne_of_none {g : Nat} {s : State} (h : s.decision g = none) : grantOne g s = s := by
  unfold State.decision at h
  simp only [grantOne, h]

theorem grantOne_of_some {g : Nat} {s : State} {r : Pend} {slot : Bool} (h : s.decision g = some (r, slot)) :
    grantOne g s = bumpDamp (halfOfDamper g) (if slot then 0 else 1) 1
      (updDamper g (fun x => x.granted r slot (s.half (halfOfDamper g)).ticks) s) := by
  unfold State.decision at h
  simp only [grantOne, h, Damper.granted]

theorem grantOne_onlyDamper (g : Nat) (s : State) : OnlyDamper g s (grantOne g s) := by
  cases h : s.decision g with
  | none => rw [grantOne_of_none h]; exact .of_mem rfl
  | some p => rw [grantOne_of_some h]; exact (updDamper_onlyDamper ..).trans (.of_mem (bumpDamp_mem ..))

theorem grantOne_damper_of_some {g : Nat} {s : State} {r : Pend} {slot : Bool} (h : s.decision g = some (r, slot)) :
    (grantOne g s).damper g = (s.damper g).granted r slot (s.half (halfOfDamper g)).ticks := by
  rw [grantOne_of_some h, damper_of_mem (bumpDamp_mem ..), updDamper_self]

theorem grantOne_dampCount_of_some {g : Nat} {s : State} {r : Pend} {slot : Bool} (h : s.decision g = some (r, slot)) :
    (grantOne g s).dampCount (halfOfDamper g) (if slot then 0 else 1) =
      (s.dampCount (halfOfDamper g) (if slot then 0 else 1) + 1) % 2 ^ 64 := by
  rw [grantOne_of_some h, bumpDamp_dampCount_self]
  simp only [State.dampCount, updDamper_half]

/-- A damper that has taken grants back and requests in, before it decides. -/
def Damper.tookIn (done new : List Pend) (x : Damper) : Damper := { endHeld done x with waiting := x.waiting ++ new }

theorem damperRequest_of_down {g : Nat} {ended arrivals : List Requester} {s : State}
    (h : damperExists g = false ∨ (s.half (halfOfDamper g)).reset ≠ .none) : damperRequest g ended arrivals s = s := by
  refine if_pos ?_
  rcases h with h | h <;> simp [h, HalfUnit.underReset]

theorem damperRequest_of_up {g : Nat} {ended arrivals : List Requester} {s : State} (hg : damperExists g = true)
    (hr : (s.half (halfOfDamper g)).reset = .none) :
    damperRequest g ended arrivals s =
      grantOne g (updDamper g (.tookIn (ended.filterMap (s.pendOf g)) (arrivals.filterMap (s.pendOf g))) s) :=
  if_neg (by simp [hg, hr, HalfUnit.underReset])

/-- Taking in changes neither the slot table nor the slot pointer. -/
theorem decision_tookIn (g : Nat) (done new : List Pend) (s : State) :
    (updDamper g (.tookIn done new) s).decision g =
      ((s.damper g).tookIn done new).choose (s.slotOwner g (s.damper g).slotPtr) (s.fixedMode g) := by
  simp only [State.decision, State.slotOwner, State.fixedMode, updDamper_self, updDamper_img]
  rfl

theorem damperRequest_onlyDamper (g : Nat) (ended arrivals : List Requester) (s : State) :
    OnlyDamper g s (damperRequest g ended arrivals s) := by
  unfold damperRequest
  split
  · exact .of_mem rfl
  · exact (updDamper_onlyDamper ..).trans (grantOne_onlyDamper ..)

theorem dampersGrantBySlot : DampersGrantBySlot := by
  intro g ended arrivals s n h x0 x owner
  refine ⟨fun hdown => congrArg _ (damperRequest_of_down hdown), fun hg hr => ?_⟩
  have hframe := damperRequest_onlyDamper n ended arrivals s
  have hunits : OnlyUnits [.west, .east, .mem] s (damperRequest n ended arrivals s) :=
    (damperRequest_keeps ..).units _ rfl
  refine ⟨damperRequest n ended arrivals s, rfl, hunits, hframe.mem, hframe.other, Damper.choose_eq_none_iff, ?_⟩
  rw [damperRequest_of_up hg hr]
  have hx := updDamper_self n (.tookIn (ended.filterMap (s.pendOf n)) (arrivals.filterMap (s.pendOf n))) s
  have hd := decision_tookIn n (ended.filterMap (s.pendOf n)) (arrivals.filterMap (s.pendOf n)) s
  refine ⟨fun hnone => ?_, fun r slot hsome => ?_⟩
  · rw [grantOne_of_none (hd.trans hnone)]; exact hx
  · have hgrant := hd.trans hsome
    obtain ⟨hmem, hslot, howner⟩ := Damper.choose_some hsome
    refine ⟨(mem_heads_iff _ _).1 hmem, hslot, howner, ?_, ?_⟩
    · rw [grantOne_damper_of_some hgrant, hx, updDamper_half]; rfl
    · have hcount := grantOne_dampCount_of_some hgrant
      simp only [State.dampCount, updDamper_half] at hcount
      exact hcount

/-! ### A report and the damper counters (R316) -/

/-- An update of a half that leaves its damper counters. -/
theorem updHalf_dampCount (h k : Half) (w : Nat) (f : HalfUnit → HalfUnit) (s : State)
    (hf : ∀ u, (f u).dampCtr = u.dampCtr) : (updHalf h f s).dampCount k w = s.dampCount k w := by
  unfold State.dampCount
  cases h <;> cases k
  case west.west | east.east => exact congrArg (Tab.get 0 · w) (hf _)
  case west.east | east.west => rfl

theorem queueRecord_dampCount (r : FaultRec) (s : State) (k : Half) (w : Nat) :
    (queueRecord r s).dampCount k w = s.dampCount k w := by
  unfold queueRecord
  extract_lets
  split
  · exact updHalf_dampCount _ _ _ _ _ fun _ => rfl
  · split <;> exact updHalf_dampCount _ _ _ _ _ fun _ => rfl

theorem setEntry_dampCount (key : FaultKey) (c : Option Coalesce) (s : State) (k : Half) (w : Nat) :
    (setEntry key c s).dampCount k w = s.dampCount k w := updHalf_dampCount _ _ _ _ _ fun _ => rfl

theorem bumpFg_dampCount (h : Half) (v n : Nat) (s : State) (k : Half) (w : Nat) :
    (bumpFg h v n s).dampCount k w = s.dampCount k w := updHalf_dampCount _ _ _ _ _ fun _ => rfl

theorem coalesceExpire_dampCount (c : Coalesce) (s : State) (k : Half) (w : Nat) :
    (coalesceExpire c s).dampCount k w = s.dampCount k w :=
  (setEntry_dampCount ..).trans (queueRecord_dampCount ..)

theorem repeatExpire_dampCount (c : Coalesce) (s : State) (k : Half) (w : Nat) :
    (repeatExpire c s).dampCount k w = s.dampCount k w := by
  unfold repeatExpire
  split
  · exact setEntry_dampCount ..
  · exact (setEntry_dampCount ..).trans (queueRecord_dampCount ..)

theorem settleKey_dampCount (key : FaultKey) (n : Nat) (s : State) (k : Half) (w : Nat) :
    (settleKey key n s).dampCount k w = s.dampCount k w := by
  induction n generalizing s with
  | zero => rfl
  | succ n ih =>
    unfold settleKey
    split
    · rfl
    · split <;> split
      · exact (ih _).trans (repeatExpire_dampCount ..)
      · rfl
      · exact (ih _).trans (coalesceExpire_dampCount ..)
      · rfl

theorem gather_dampCount (r : FaultRec) (s : State) (k : Half) (w : Nat) :
    (gather r s).dampCount k w = s.dampCount k w := by
  unfold gather
  extract_lets s1 r1 s2
  have h2 : s2.dampCount k w = s.dampCount k w := (bumpFg_dampCount ..).trans (settleKey_dampCount ..)
  split
  · extract_lets src rec_ s3
    have h3 : s3.dampCount k w = s2.dampCount k w := by
      unfold s3
      split
      · rfl
      · exact bumpFg_dampCount ..
    exact (setEntry_dampCount ..).trans (h3.trans h2)
  · split
    · exact (setEntry_dampCount ..).trans h2
    · refine .trans ?_ h2
      exact updHalf_dampCount _ _ _ _ _ fun _ => rfl

/-- A report of a class that is not DANGEROUS latches nothing. -/
theorem report_of_severity_ne {r : FaultRec} (h : severity r.key.cls ≠ 2) (s : State) : report r s = gather r s := if_neg h

/-! ### Breaches (R274) -/

/-- The step of `reshed` for an owner that has lost slots. -/
def breachOwner (g : Nat) (x : Nat × Nat × Nat) (s : State) : State :=
  if x.1 = 18 then
    report { faultOf (halfOfDamper g) ukDamper g .guaranteeBreach with d0 := 18, d1 := w64 (x.2.1 + at_ 32 x.2.2) }
      (bumpDamp (halfOfDamper g) 4 1 s)
  else breach g x s

theorem breachOwner_keeps (g : Nat) (x : Nat × Nat × Nat) (s : State) : Keeps 0x398 s (breachOwner g x s) :=
  .ite ((bumpDamp_keeps ..).up.trans (report_keeps ..).up) (breach_keeps ..)

/-- The hoop table entry that carries the breach of an owner: the hoop's, or the intake's of the half. -/
def breachedEntry (g o : Nat) : Nat := if o ≤ 16 then o - 1 else 16 + (halfOfDamper g).idx

/-- A hoop and its job, breached. -/
def HoopUnit.breach (u : HoopUnit) : HoopUnit :=
  { u with breached := true, job := u.job.map fun j => { j with breached := true } }

/-- The record of a breach: the hoop, and the owner with its need and its slots. -/
def breachRecord (g : Nat) (x : Nat × Nat × Nat) : FaultRec :=
  { faultOf (halfOfDamper g) ukDamper g .guaranteeBreach with
    hoop := if x.1 ≤ 16 then breachedEntry g x.1 else 0, d0 := w64 x.1, d1 := w64 (x.2.1 + at_ 32 x.2.2) }

theorem breach_eq_report (g : Nat) (x : Nat × Nat × Nat) (s : State) :
    breach g x s = report (breachRecord g x)
      (updHoop (breachedEntry g x.1) .breach (bumpDamp (halfOfDamper g) 4 1 s)) := rfl

/-- A breach is counted and reported, and marks the entry of an owner other than SYSTEM. -/
theorem breachOwner_cases (g : Nat) (x : Nat × Nat × Nat) (s : State) :
    ∃ r : FaultRec, r.key.cls = .guaranteeBreach
      ∧ ((x.1 = 18 ∧ breachOwner g x s = report r (bumpDamp (halfOfDamper g) 4 1 s))
        ∨ (x.1 ≠ 18
          ∧ breachOwner g x s = report r (updHoop (breachedEntry g x.1) .breach (bumpDamp (halfOfDamper g) 4 1 s)))) := by
  by_cases h : x.1 = 18
  · exact ⟨_, rfl, .inl ⟨h, if_pos h⟩⟩
  · exact ⟨breachRecord g x, rfl, .inr ⟨h, (if_neg h).trans (breach_eq_report g x s)⟩⟩

/-- A breach counts in BREACHES alone. -/
theorem breachOwner_dampCount_ne (g : Nat) (x : Nat × Nat × Nat) (s : State) (k : Half) {w : Nat} (hw : w ≠ 4) :
    (breachOwner g x s).dampCount k w = s.dampCount k w := by
  obtain ⟨r, hcls, hcase⟩ := breachOwner_cases g x s
  have hgather (t : State) : (report r t).dampCount k w = t.dampCount k w := by
    rw [report_of_severity_ne (by rw [hcls]; decide), gather_dampCount]
  obtain ⟨-, heq⟩ | ⟨-, heq⟩ := hcase <;> rw [heq, hgather]
  · exact bumpDamp_dampCount_ne _ _ _ _ hw
  · exact bumpDamp_dampCount_ne _ _ _ _ hw

theorem hoop_of_seq {s t : State} (h : t.seq = s.seq) (n : Nat) : t.hoop n = s.hoop n := by
  unfold State.hoop; rw [h]

@[simp] theorem report_hoop (r : FaultRec) (s : State) (n : Nat) : (report r s).hoop n = s.hoop n :=
  hoop_of_seq ((report_keeps r s).seq (by decide)) n

@[simp] theorem bumpDamp_hoop (h : Half) (w k : Nat) (s : State) (n : Nat) : (bumpDamp h w k s).hoop n = s.hoop n :=
  hoop_of_seq (bumpDamp_seq ..) n

/-- A breach of a hoop marks it. -/
theorem breachOwner_breaches {x : Nat × Nat × Nat} (g : Nat) (s : State) (h : x.1 ≤ 16) :
    ((breachOwner g x s).hoop (x.1 - 1)).breached = true := by
  obtain ⟨r, -, ⟨h18, -⟩ | ⟨-, heq⟩⟩ := breachOwner_cases g x s
  · omega
  · rw [heq, report_hoop, breachedEntry, if_pos h, updHoop_self]; rfl

/-- No breach takes another's mark away. -/
theorem breachOwner_keeps_breached (g : Nat) (x : Nat × Nat × Nat) (s : State) (n : Nat) (h : (s.hoop n).breached = true) :
    ((breachOwner g x s).hoop n).breached = true := by
  obtain ⟨r, -, ⟨-, heq⟩ | ⟨-, heq⟩⟩ := breachOwner_cases g x s <;> rw [heq, report_hoop]
  · rwa [bumpDamp_hoop]
  · by_cases hn : n = breachedEntry g x.1
    · rw [hn, updHoop_self]; rfl
    · rwa [updHoop_ne _ _ _ hn, bumpDamp_hoop]

/-! ### Folds of state updates -/

theorem forEach_invariant {α : Type} {P : State → Prop} {f : α → State → State} (hf : ∀ a s, P s → P (f a s)) (l : List α)
    (s : State) (h : P s) : P (forEach l f s) := by
  induction l generalizing s with
  | nil => exact h
  | cons a l ih => exact ih _ (hf a s h)

/-- What one member's update brings about and no update takes away holds at the end. -/
theorem forEach_establishes {α : Type} {P : State → Prop} {f : α → State → State} (hf : ∀ a s, P s → P (f a s)) {a : α}
    (ha : ∀ s, P (f a s)) {l : List α} (hl : a ∈ l) (s : State) : P (forEach l f s) := by
  induction l generalizing s with
  | nil => exact absurd hl List.not_mem_nil
  | cons b l ih =>
    rcases List.mem_cons.1 hl with rfl | hl
    · exact forEach_invariant hf l _ (ha s)
    · exact ih hl _

/-! ### Shedding (R273) -/

theorem placeSlots_length (n : Nat → Nat) (fuel : Nat) (credit : List Int) : (placeSlots n fuel credit).length = fuel := by
  induction fuel generalizing credit with
  | zero => rfl
  | succ fuel ih => rw [placeSlots, List.length_cons, ih]

theorem shedTable_length (order table : List Nat) (cap : Nat) : (shedTable order table cap).1.length = 256 :=
  placeSlots_length ..

theorem shedOrder_of_img {s t : State} (h : t.img = s.img) : t.shedOrder = s.shedOrder := by
  unfold State.shedOrder State.hoopEntry; rw [h]

/-- The effective table of a damper's live capacity, with every owner's need and slots. -/
def State.shedPlan (s : State) (g : Nat) : List Nat × List (Nat × Nat × Nat) :=
  shedTable s.shedOrder (s.img.slots g) (s.damper g).capacity

theorem reshed_of_full {g : Nat} {s : State} (h : 256 ≤ (s.damper g).capacity) :
    reshed g s = updDamper g (fun x => { x with table := none }) s := if_pos h

theorem reshed_of_reduced {g : Nat} {s : State} (h : (s.damper g).capacity < 256) :
    reshed g s = forEach ((s.shedPlan g).2.filter fun x => decide (x.2.2 < x.2.1)) (breachOwner g)
      (updDamper g (fun x => { x with table := some (s.shedPlan g).1 }) s) := if_neg (Nat.not_le.2 h)

/-- The effective table in force after a change of live capacity: none at full capacity. -/
def State.effectiveTable (s : State) (g : Nat) : Option (List Nat) :=
  if 256 ≤ (s.damper g).capacity then none else some (s.shedPlan g).1

/-- Rebuilding a table changes the damper's own table alone among the stores, dampers and channels. -/
theorem reshed_mem (g : Nat) (s : State) :
    (reshed g s).mem = (updDamper g (fun x => { x with table := s.effectiveTable g }) s).mem := by
  by_cases h : 256 ≤ (s.damper g).capacity
  · rw [reshed_of_full h, State.effectiveTable, if_pos h]
  · rw [reshed_of_reduced (Nat.lt_of_not_le h), State.effectiveTable, if_neg h]
    exact (forEach_keeps _ _ _ fun a t => breachOwner_keeps g a t).mem (by decide)

theorem reshed_damper (g : Nat) (s : State) :
    (reshed g s).damper g = { s.damper g with table := s.effectiveTable g } := by
  rw [damper_of_mem (reshed_mem g s), updDamper_self]

theorem reshed_onlyDamper (g : Nat) (s : State) : OnlyDamper g s (reshed g s) :=
  (updDamper_onlyDamper ..).trans (.of_mem (reshed_mem g s))

/-- Of the counters only BREACHES may move. -/
theorem reshed_dampCount_ne (g : Nat) (s : State) (k : Half) {w : Nat} (hw : w ≠ 4) :
    (reshed g s).dampCount k w = s.dampCount k w := by
  have hupd (f : Damper → Damper) : (updDamper g f s).dampCount k w = s.dampCount k w := by
    simp only [State.dampCount, updDamper_half]
  by_cases h : 256 ≤ (s.damper g).capacity
  · rw [reshed_of_full h]; exact hupd _
  · rw [reshed_of_reduced (Nat.lt_of_not_le h)]
    exact forEach_invariant (P := fun t => t.dampCount k w = s.dampCount k w)
      (fun a t ht => (breachOwner_dampCount_ne g a t k hw).trans ht) _ _ (hupd _)

/-- A hoop that gets fewer slots than it needs is breached. -/
theorem reshed_breaches {g : Nat} {s : State} (hcap : (s.damper g).capacity < 256) {x : Nat × Nat × Nat}
    (hx : x ∈ (s.shedPlan g).2) (hlt : x.2.2 < x.2.1) (h16 : x.1 ≤ 16) : ((reshed g s).hoop (x.1 - 1)).breached = true := by
  rw [reshed_of_reduced hcap]
  exact forEach_establishes (P := fun t => (t.hoop (x.1 - 1)).breached = true)
    (fun a t => breachOwner_keeps_breached g a t _) (fun t => breachOwner_breaches g t h16)
    (List.mem_filter.2 ⟨hx, decide_eq_true hlt⟩) _

/-- The live capacity has fallen and is counted; the table is not yet rebuilt. -/
def capacityFell (g cap : Nat) (s : State) : State :=
  bumpDamp (halfOfDamper g) 3 1 (updDamper g (fun x => { x with capacity := cap }) s)

theorem capacityFell_damper (g cap : Nat) (s : State) :
    (capacityFell g cap s).damper g = { s.damper g with capacity := cap } := by
  rw [capacityFell, damper_of_mem (bumpDamp_mem ..), updDamper_self]

theorem capacityFell_onlyDamper (g cap : Nat) (s : State) : OnlyDamper g s (capacityFell g cap s) :=
  (updDamper_onlyDamper ..).trans (.of_mem (bumpDamp_mem ..))

theorem capacityFell_dampCount (g cap : Nat) (s : State) :
    (capacityFell g cap s).dampCount (halfOfDamper g) 3 = (s.dampCount (halfOfDamper g) 3 + 1) % 2 ^ 64 := by
  rw [capacityFell, bumpDamp_dampCount_self]
  simp only [State.dampCount, updDamper_half]

theorem capacityFell_shedPlan (g cap : Nat) (s : State) :
    (capacityFell g cap s).shedPlan g = shedTable s.shedOrder (s.img.slots g) cap := by
  have himg : (capacityFell g cap s).img = s.img := bumpDamp_img ..
  rw [State.shedPlan, shedOrder_of_img himg, himg, capacityFell_damper]

theorem lowerCapacity_of_falls {g cap : Nat} {s : State} (hg : damperExists g = true) (h : cap < (s.damper g).capacity) :
    lowerCapacity g cap s = reshed g (capacityFell g cap s) := if_neg (by simp [hg, h])

theorem lowerCapacity_of_stays {g cap : Nat} {s : State} (h : ¬(damperExists g = true ∧ cap < (s.damper g).capacity)) :
    lowerCapacity g cap s = s :=
  if_pos (by simpa [Decidable.imp_iff_not_or] using h)

theorem damperShed_of_cause {g cap : Nat} (h : shedCause g cap = true) (s : State) :
    damperShed g cap s = lowerCapacity g cap s := if_pos h

theorem damperShed_of_no_cause {g cap : Nat} (h : shedCause g cap ≠ true) (s : State) : damperShed g cap s = s := if_neg h

theorem sheddingRebuildsTheTable : SheddingRebuildsTheTable := by
  intro g capacity s n h plan falls
  refine ⟨fun hstays => ?_, fun ⟨hg, hcause, hlt⟩ => ?_⟩
  · refine congrArg Host.Outcome.next ?_
    by_cases hcause : shedCause n capacity.toNat = true
    · rw [damperShed_of_cause hcause]
      exact lowerCapacity_of_stays fun ⟨hg, hlt⟩ => hstays ⟨hg, hcause, hlt⟩
    · exact damperShed_of_no_cause hcause s
  · have hunits : OnlyUnits [.dev, .host, .west, .east, .seq, .mem] s (damperShed n capacity.toNat s) :=
      (damperShed_keeps ..).units _ rfl
    refine ⟨damperShed n capacity.toNat s, rfl, hunits, ?_⟩
    rw [damperShed_of_cause hcause, lowerCapacity_of_falls hg hlt]
    have hdamper := reshed_damper n (capacityFell n capacity.toNat s)
    rw [State.effectiveTable, capacityFell_damper, capacityFell_shedPlan] at hdamper
    have hframe := (capacityFell_onlyDamper n capacity.toNat s).trans (reshed_onlyDamper ..)
    have hcount : (reshed n (capacityFell n capacity.toNat s)).dampCount h 3 = (s.dampCount h 3 + 1) % 2 ^ 64 :=
      (reshed_dampCount_ne _ _ _ (by decide)).trans (capacityFell_dampCount ..)
    refine ⟨by rw [hdamper], hframe.other, hframe.mem, hcount, fun hreduced => ⟨?_, shedTable_length .., ?_⟩⟩
    · rw [hdamper]; exact if_neg (Nat.not_le.2 hreduced)
    · intro x hx hless _ h16
      refine reshed_breaches ?_ ?_ hless h16
      · rw [capacityFell_damper]; exact hreduced
      · rw [capacityFell_shedPlan]; exact hx

/-- Settles O33: a grant is the decision of `Damper.choose`, made on the damper that has taken ended and arriving requests in; a fall
of capacity rebuilds the table and breaches each owner of the plan in turn. -/
theorem dampersGrantAndShed : Obligations.DampersGrantAndShed :=
  ⟨dampersGrantBySlot, sheddingRebuildsTheTable⟩

end Sys2Proof.Machine
end

section
/-! The queue's front (R29), what every command answers (R45, R46), and the writes of BAR0 registers (R27 to R36). -/
namespace Sys2Proof.Machine

/-! ### The front of the queue -/

/-- Settles O1: a step is the front command on the queue's rest by definition. -/
theorem stepRunsTheFrontCommand : Obligations.StepRunsTheFrontCommand := fun _ _ _ => step_of_front

/-! ### Packet rows and other rows (log 2) -/

/-- A packet row checks its words and acts as `packet` says, whatever its opcode's meaning is. -/
theorem exec_of_packetOf {c : Instr} {ring : BitVec 5} {pkt : List Word} (h : packetOf c = some (ring, pkt)) :
    ∃ name body, ∀ s, exec c s = packet name c.wf ring.toNat pkt body s := by
  cases c <;> cases h <;> exact ⟨_, _, fun _ => rfl⟩

theorem exec_of_not_packet {c : Instr} (h : packetOf c = none) (s : State) : ∃ t, exec c s = .next t := by
  cases c <;> cases h <;> exact ⟨_, rfl⟩

theorem packet_of_wf {name : String} {wf : Bool} {ring : Nat} {pkt : List Word} {body : Tagged → State → State} {s : State}
    (h : wf = true) : packet name wf ring pkt body s = .next (packetStep ring pkt body s) := if_pos h

theorem packet_of_not_wf {name : String} {wf : Bool} {ring : Nat} {pkt : List Word} {body : Tagged → State → State} {s : State}
    (h : wf = false) : packet name wf ring pkt body s = .refused (.illFormed name) := if_neg (by simp [h])

/-- Settles O59: a packet row is the check of its words before `packetStep`, and every other row answers a next state. -/
theorem wellFormedCommandsComplete : Obligations.WellFormedCommandsComplete := by
  intro c s
  cases hc : packetOf c with
  | none => exact ⟨fun _ => exec_of_not_packet hc s, fun _ hne => absurd rfl hne⟩
  | some p =>
    obtain ⟨name, body, hexec⟩ := exec_of_packetOf (ring := p.1) (pkt := p.2) hc
    refine ⟨fun h => ?_, fun hwf _ => ⟨name, (hexec s).trans (packet_of_not_wf hwf)⟩⟩
    have hwf : c.wf = true := h.resolve_right (by simp)
    exact ⟨_, (hexec s).trans (packet_of_wf hwf)⟩

/-! ### Fields of a register value (R10) -/

theorem fld_eq (w : Word) (hi lo : Nat) : fld w hi lo = w.toNat / 2 ^ lo % 2 ^ (hi + 1 - lo) := by
  rw [fld, Nat.shiftRight_eq_div_pow]

theorem fld_low (w : Word) (hi : Nat) : fld w hi 0 = w.toNat % 2 ^ (hi + 1) := by
  rw [fld_eq, Nat.pow_zero, Nat.div_one, Nat.sub_zero]

theorem bitAt_eq (w : Word) (i : Nat) : bitAt w i = w.getLsbD i := rfl

/-! ### Ring pages (R34 to R36) -/

/-- HST_STATUS is composed of the device's state, the halves, the pending proposal and the epoch (R33). -/
theorem hstStatus_congr {s t : State} (hd : t.dev = s.dev) (hw : t.west = s.west) (he : t.east = s.east) (hi : t.img = s.img)
    (hl : t.link = s.link) : t.hstStatus = s.hstStatus := by
  unfold State.hstStatus; rw [hd, hw, he, hi, hl]

theorem statusCopy_hstStatus (s : State) : (statusCopy s).hstStatus = s.hstStatus :=
  hstStatus_congr (statusCopy_dev s) (statusCopy_west s) (statusCopy_east s) (statusCopy_img s) (statusCopy_link s)

/-- The status copy in the bytes of R43. -/
theorem statusCopy_bytes (s : State) :
    (statusCopy s).host.mem = s.host.mem.writeN s.host.statusBlock.toNat
      (toLE 8 (statusCopy s).hstStatus.toNat ++ toLE 8 s.time.ts.toNat) := by
  rw [statusCopy_hostMem, statusCopy_hstStatus]
  simp only [wordsBytes, List.flatMap_cons, List.flatMap_nil, List.append_nil, State.now]

/-- A register write that is refused (R32, R33, R35). -/
theorem ignoreWrite_ignored (s : State) : Ignored s (ignoreWrite s) := by
  have hmem : (ignoreWrite s).host.mem = s.host.mem.writeN s.host.statusBlock.toNat
      (toLE 8 (ignoreWrite s).hstStatus.toNat ++ toLE 8 s.time.ts.toNat) := statusCopy_bytes _
  have heq := ignoreWrite_eq s
  rw [hmem] at heq
  exact heq

theorem updRing_onlyRing (n : Nat) (f : RingPage → RingPage) (s : State) : OnlyRing n s (updRing n f s) :=
  ⟨rfl, fun _ hk => updRing_ne n f s hk⟩

theorem doorbellIsChecked : DoorbellIsChecked := by
  intro ring v s
  refine ⟨_, rfl, updRing_onlyRing .., ?_⟩
  rw [show v.setWidth 32 = low32 v from rfl]
  simp only [writeDoorbell, updRing_self]
  generalize s.ring ring.toNat = r
  by_cases hserves : r.enable = true ∧ r.overrun = false
  · rw [if_neg (by simp [hserves]), if_pos hserves]
    by_cases hpast : r.words < (low32 v - r.head).toNat
    · rw [if_pos hpast, decide_eq_true hpast, Bool.true_and]
    · rw [if_neg hpast, decide_eq_false hpast, Bool.false_and, hserves.2]
  · rw [if_neg hserves, if_pos (by cases he : r.enable <;> simp_all)]

/-- A ring page after a write of HST_RING_CTRL. -/
theorem writeRingCtrl_ring (n : Nat) (enable w1c : Bool) (s : State) :
    (writeRingCtrl n enable w1c s).ring n =
      let r := s.ring n
      if enable = true ∧ r.enable = false then
        { r with enable := true, head := r.doorbell, tail := r.rrHead, held := false, overrun := r.overrun && !w1c }
      else { r with enable := enable, overrun := r.overrun && !w1c, held := r.held || (w1c && r.overrun) } := by
  simp only [writeRingCtrl, updRing_self]
  generalize s.ring n = r
  cases r with
  | mk sqBase sqSize doorbell rrBase rrSize rrHead on overrun =>
    cases enable <;> cases on <;> cases w1c <;> cases overrun <;> simp

theorem ringControlWrites : RingControlWrites := by
  intro ring w1c enable s r
  refine ⟨⟨_, rfl, updRing_onlyRing .., ?_⟩, ⟨_, rfl, updRing_onlyRing .., ?_⟩, ⟨_, rfl, updRing_onlyRing .., ?_⟩⟩
  · rw [writeRingCtrl_ring]
    by_cases he : r.enable = true
    · rw [if_pos he, if_neg (by simp [r, he])]
      simp [r, ← he]
    · rw [if_neg he, if_pos (by simpa using he)]
  · rw [writeRingCtrl_ring, if_neg (by simp)]
  · rw [writeRingCtrl_ring]
    by_cases hstart : enable = true ∧ r.enable = false
    · rw [if_pos hstart]
      exact ⟨by simp, hstart.1.symm, fun he => absurd (he.symm.trans hstart.1) (by simp [hstart.2])⟩
    · rw [if_neg hstart]
      exact ⟨by simp, rfl, fun he => by simp [he, r]⟩

theorem ringRegOk_iff (reg : RingReg) (v : Word) : ringRegOk reg v = true ↔ RingValueFits reg v := by
  cases reg
  case sqBase | rrBase => simp [ringRegOk, RingValueFits, fld_low]
  case sqSize | rrSize => simp [ringRegOk, RingValueFits]

/-- Where a setup write of a ring page is refused (R35). -/
theorem ringReg_accepted_iff (r : RingPage) (reg : RingReg) (v : Word) :
    (!r.drained || !ringRegOk reg v) = false ↔ r.enable = false ∧ r.outstanding = 0 ∧ RingValueFits reg v := by
  simp [RingPage.drained, ← ringRegOk_iff, and_assoc]

theorem ringSetupWrites : RingSetupWrites := by
  intro ring reg v s r
  refine ⟨fun h => ⟨writeRingReg ring.toNat reg v s, rfl, ?_⟩, fun h => ⟨writeRingReg ring.toNat reg v s, rfl, ?_⟩⟩
  · rw [writeRingReg, if_neg (by simpa using (ringReg_accepted_iff r reg v).2 h)]
    exact ⟨updRing_onlyRing .., updRing_self ..⟩
  · rw [writeRingReg, if_pos (Bool.eq_true_of_not_eq_false (mt (ringReg_accepted_iff r reg v).1 h))]
    exact ignoreWrite_ignored s

/-- Settles O5: each write of a ring page is an update of that page alone, or `ignoreWrite`. -/
theorem ringRegistersTakeWrites : Obligations.RingRegistersTakeWrites :=
  ⟨doorbellIsChecked, ringControlWrites, ringSetupWrites⟩

/-! ### Output rings and DBG_BASE (R31, R32) -/

theorem outRegOk_iff (reg : OutReg) (v : Word) : outRegOk reg v = true ↔ OutValueFits reg v := by
  cases reg
  case statusBlock | base => simp [outRegOk, OutValueFits, fld_low]
  case size => simp [outRegOk, OutValueFits]

theorem writeOutReg_of_fits {reg : OutReg} {v : Word} {s : State} (hb : s.dev.st = .banked) (hv : OutValueFits reg v) :
    writeOutReg reg v s = { s with host := setOutReg reg v s.host } := by
  have hpass : (s.dev.st != .banked || !outRegOk reg v) ≠ true := by simp [hb, (outRegOk_iff reg v).2 hv]
  refine (if_neg hpass).trans ?_
  cases reg with
  | statusBlock => rfl
  | base r => cases r <;> rfl
  | size r => cases r <;> rfl

theorem writeOutReg_of_not_fits {reg : OutReg} {v : Word} {s : State} (h : ¬(s.dev.st = .banked ∧ OutValueFits reg v)) :
    writeOutReg reg v s = ignoreWrite s := by
  rw [← outRegOk_iff, not_and_or] at h
  exact if_pos (by simpa using h)

/-- A write to DBG_BASE is refused exactly where a bit outside [39:23] is set. -/
theorem dbgBase_refused_iff (v : Word) :
    (fld v 22 0 != 0 || fld v 63 40 != 0) = true ↔ ¬(v.toNat % 2 ^ 23 = 0 ∧ v.toNat < 2 ^ 40) := by
  have hv := v.isLt
  simp only [fld_eq, Bool.or_eq_true, bne_iff_ne]
  omega

theorem writeDbgBase_of_fits {v : Word} (h : v.toNat % 2 ^ 23 = 0 ∧ v.toNat < 2 ^ 40) (s : State) :
    writeDbgBase v s = { s with host := { s.host with dbgBase := v } } :=
  if_neg (mt (dbgBase_refused_iff v).1 (not_not_intro h))

theorem writeDbgBase_of_not_fits {v : Word} (h : ¬(v.toNat % 2 ^ 23 = 0 ∧ v.toNat < 2 ^ 40)) (s : State) :
    writeDbgBase v s = ignoreWrite s := if_pos ((dbgBase_refused_iff v).2 h)

/-- Settles O6: a setup write is the update of its register where its check passes, and `ignoreWrite` elsewhere. -/
theorem outputSetupWrites : Obligations.OutputSetupWrites := by
  intro reg v s
  have hout : exec (.outputRingSetupWrite reg v) s = .next (writeOutReg reg v s) := rfl
  have hdbg : exec (.dbgBaseWrite v) s = .next (writeDbgBase v s) := rfl
  rw [hout, hdbg]
  refine ⟨fun ⟨hb, hv⟩ => ?_, fun h => ?_, fun h => ?_, fun h => ?_⟩
  · rw [writeOutReg_of_fits hb hv]
  · exact ⟨_, rfl, writeOutReg_of_not_fits h ▸ ignoreWrite_ignored s⟩
  · rw [writeDbgBase_of_fits h]
  · exact ⟨_, rfl, writeDbgBase_of_not_fits h s ▸ ignoreWrite_ignored s⟩

/-! ### Writes by address (R29 to R31) -/

theorem writeBar0_of_narrow {off size : Nat} (h : size ≠ 8 ∨ off % 8 ≠ 0) (v : Word) (s : State) :
    writeBar0 off size v s = ignoreWrite s := if_pos h

theorem writeBar0_global {off : Nat} (h8 : off % 8 = 0) (h : off < 0x1000) (v : Word) (s : State) :
    writeBar0 off 8 v s = writeGlobal off v s := by
  rw [writeBar0, if_neg (by omega), if_pos h]

theorem writeBar0_ringPage {n k : Nat} (hn : n < 32) (h8 : k % 8 = 0) (hk : k < 0x1000) (v : Word) (s : State) :
    writeBar0 (0x10000 + 0x1000 * n + k) 8 v s = writeRingPage n k v s := by
  have hpage : (0x10000 + 0x1000 * n + k - 0x10000) / 0x1000 = n := by omega
  have hoff : (0x10000 + 0x1000 * n + k) % 0x1000 = k := by omega
  rw [writeBar0, if_neg (by omega), if_neg (by omega), if_pos (by omega), hpage, hoff]

theorem writeBar0_speed (h : Half) (v : Word) (s : State) :
    writeBar0 (0x100000 + 0x10000 * h.idx) 8 v s = writeSpeed h (bitAt v 48) s := by
  cases h <;> rfl

theorem writeBar0_elsewhere {off : Nat} (hlow : 0x1000 ≤ off) (hring : off < 0x10000 ∨ 0x30000 ≤ off) (hwest : off ≠ 0x100000)
    (heast : off ≠ 0x110000) (h8 : off % 8 = 0) (v : Word) (s : State) : writeBar0 off 8 v s = s := by
  rw [writeBar0, if_neg (by omega), if_neg (by omega), if_neg (by omega), if_neg hwest, if_neg heast]

theorem writeRingPage_ctrl (n : Nat) (v : Word) (s : State) :
    writeRingPage n 0x30 v s = writeRingCtrl n (v.getLsbD 0) (v.getLsbD 2) s := rfl

/-- Past its last register a ring page ignores a write. -/
theorem writeRingPage_high {k : Nat} (h : 0x38 ≤ k) (n : Nat) (v : Word) (s : State) : writeRingPage n k v s = s := by
  unfold writeRingPage
  split
  case h_8 => rfl
  all_goals omega

/-- Past DBG_BASE no global register is listed. -/
theorem writeGlobal_high {off : Nat} (h : 0x88 ≤ off) (v : Word) (s : State) : writeGlobal off v s = s := by
  unfold writeGlobal
  split
  case h_15 => rfl
  all_goals omega

theorem exec_registerWrite (off : BitVec 24) (v : Word) (s : State) :
    exec (.registerWrite off 8 v) s = .next (writeBar0 off.toNat 8 v s) := rfl

/-- A write at offset `k` of a ring page. -/
theorem exec_registerWrite_ringPage {off : BitVec 24} {ring : BitVec 5} {k : Nat} (h8 : k % 8 = 0) (hk : k < 0x1000)
    (hoff : off.toNat = 0x10000 + 0x1000 * ring.toNat + k) (v : Word) (s : State) :
    exec (.registerWrite off 8 v) s = .next (writeRingPage ring.toNat k v s) := by
  rw [exec_registerWrite, hoff, writeBar0_ringPage ring.isLt h8 hk]

/-- A write at a global offset. -/
theorem exec_registerWrite_global {off : BitVec 24} {k : Nat} (hoff : off.toNat = k) (h8 : k % 8 = 0) (hk : k < 0x1000)
    (v : Word) (s : State) : exec (.registerWrite off 8 v) s = .next (writeGlobal k v s) := by
  rw [exec_registerWrite, hoff, writeBar0_global h8 hk]

/-- The HEAD counts take the low 32 bits of the value (R11, R31). -/
theorem low32_toNat (v : Word) : (low32 v).toNat = v.toNat % 2 ^ 32 := BitVec.toNat_setWidth ..

theorem globalRegisterWrites (off : BitVec 24) (v : Word) (s : State) : GlobalRegisterWrites off v s := by
  have hat {k : Nat} (hoff : off.toNat = k) (h8 : k % 8 = 0 := by rfl) (hk : k < 0x1000 := by decide) :=
    exec_registerWrite_global hoff h8 hk v s
  unfold GlobalRegisterWrites
  rw [← low32_toNat]
  refine ⟨(hat ·), (hat ·), (hat ·), (hat ·), (hat ·), (hat ·), (hat ·), (hat ·), (hat ·), (hat ·), (hat ·), (hat ·),
    (hat ·), (hat ·), ?_, fun hlow hhigh h8 => ?_⟩
  · rintro (h | h | h) <;> exact hat h
  · rw [exec_registerWrite_global rfl h8 hhigh, writeGlobal_high hlow]

theorem otherRegisterWrites (off : BitVec 24) (v : Word) (s : State) : OtherRegisterWrites off v s := by
  refine ⟨fun h hoff => ?_, fun hlow hring hwest heast h8 => ?_⟩
  · rw [exec_registerWrite, hoff, writeBar0_speed, bitAt_eq]
    exact ⟨fun hb => by rw [hb]; rfl, fun hb => by rw [hb]; rfl⟩
  · rw [exec_registerWrite, writeBar0_elsewhere hlow hring hwest heast h8]

/-- Settles O8: `writeBar0` finds the page by the offset's range and the register by the offset in its page. -/
theorem registerWritesByAddress : Obligations.RegisterWritesByAddress := by
  intro off size v s
  refine ⟨fun h => ?_, fun ring hsize => ?_, fun _ => globalRegisterWrites off v s, fun _ => otherRegisterWrites off v s⟩
  · have hnarrow : size.toNat ≠ 8 ∨ off.toNat % 8 ≠ 0 := h.imp_left fun hs ht => hs (BitVec.eq_of_toNat_eq ht)
    exact ⟨_, rfl, writeBar0_of_narrow hnarrow v s ▸ ignoreWrite_ignored s⟩
  · subst hsize
    have hat {k : Nat} (hoff : off.toNat = 0x10000 + 0x1000 * ring.toNat + k) (h8 : k % 8 = 0 := by rfl)
        (hk : k < 0x1000 := by decide) := exec_registerWrite_ringPage h8 hk hoff v s
    refine ⟨(hat ·), (hat ·), (hat ·), (hat ·), (hat ·), fun h => ⟨_, hat h, updRing_onlyRing .., updRing_self ..⟩,
      fun h hb => ?_, fun h hb => ?_, fun hlow hhigh h8 => ?_⟩
    · rw [hat h, writeRingPage_ctrl, hb]; rfl
    · rw [hat h, writeRingPage_ctrl, hb]; rfl
    · obtain ⟨k, hoff⟩ := Nat.le.dest (Nat.le_of_add_right_le hlow)
      rw [exec_registerWrite_ringPage (k := k) (by omega) (by omega) hoff.symm, writeRingPage_high (by omega)]

end Sys2Proof.Machine
end

section
/-! Ring packets: what taking one leaves (R36, R38, R361), and what its replies leave in its ring page and in host memory (R34, R39
to R43). -/
namespace Sys2Proof.Machine

/-! ### Bytes of host memory -/

theorem Store.readN_add (m : Store) (a n k : Nat) : m.readN a (n + k) = m.readN a n ++ m.readN (a + n) k := by
  simp [Store.readN, List.range_add, List.map_append, Nat.add_assoc]

/-- A store with a ring's two words of the status block, tail first (R43). -/
def Store.copyRing (m : Store) (a : Nat) (r : RingPage) : Store :=
  (m.writeN (a + 8) (toLE 8 r.tail.toNat)).writeN a (toLE 8 r.head.toNat)

theorem Store.copyRing_wf {m : Store} (h : m.wf = true) (a : Nat) (r : RingPage) : (m.copyRing a r).wf = true :=
  Store.writeN_wf _ _ _ (Store.writeN_wf _ _ _ h)

theorem Store.copyRing_read {m : Store} (h : m.wf = true) {a j : Nat} (r : RingPage) (hj : Apart j a 16) :
    (m.copyRing a r).read j = m.read j := by
  have h8 (v : Nat) : (toLE 8 v).length = 8 := toLE_length 8 v
  rw [copyRing, Store.read_writeN_out _ _ _ _ (Store.writeN_wf _ _ _ h) (by rw [h8]; unfold Apart at hj; omega),
    Store.read_writeN_out _ _ _ _ h (by rw [h8]; unfold Apart at hj; omega)]

theorem Store.readN_congr {m n : Store} {a k : Nat} (h : ∀ j, a ≤ j → j < a + k → m.read j = n.read j) :
    m.readN a k = n.readN a k :=
  List.map_congr_left fun _ hi => h _ (Nat.le_add_right ..) (Nat.add_lt_add_left (List.mem_range.1 hi) a)

theorem Store.copyRing_readN {m : Store} (h : m.wf = true) {a b n : Nat} (r : RingPage) (hb : ApartRange b n a 16) :
    (m.copyRing a r).readN b n = m.readN b n :=
  Store.readN_congr fun _ _ _ => Store.copyRing_read h r (by unfold Apart; unfold ApartRange at hb; omega)

theorem Store.readN_writeN_self {m : Store} (h : m.wf = true) {bs : List Byte} {n : Nat} (hlen : bs.length = n) (a : Nat) :
    (m.writeN a bs).readN a n = bs := hlen ▸ Store.readN_writeN m a bs h

theorem Store.copyRing_head {m : Store} (h : m.wf = true) (a : Nat) (r : RingPage) :
    (m.copyRing a r).readN a 8 = toLE 8 r.head.toNat :=
  Store.readN_writeN_self (Store.writeN_wf _ _ _ h) (toLE_length ..) a

theorem Store.copyRing_self {m : Store} (h : m.wf = true) (a : Nat) (r : RingPage) :
    (m.copyRing a r).readN a 16 = toLE 8 r.head.toNat ++ toLE 8 r.tail.toNat := by
  have hm := Store.writeN_wf m (a + 8) (toLE 8 r.tail.toNat) h
  rw [show (16 : Nat) = 8 + 8 from rfl, Store.readN_add, Store.copyRing_head h, copyRing,
    Store.readN_writeN_out _ _ _ _ _ hm (.inr (by rw [toLE_length])), Store.readN_writeN_self h (toLE_length ..)]

/-! ### The sink of a recording (R359, R361) -/

/-- Of the host interface only bytes of the sink differ, and the sink is the same. -/
structure SinkOnly (s t : State) : Prop where
  host  : t.host = { s.host with mem := t.host.mem }
  sink  : t.rec_.sink = s.rec_.sink
  bytes : t.rec_.bytes = s.rec_.bytes
  wf    : s.host.mem.wf = true → t.host.mem.wf = true
  read  : s.host.mem.wf = true → ∀ a, Apart a s.rec_.sink.toNat (max 64 s.rec_.bytes) → t.host.mem.read a = s.host.mem.read a

theorem SinkOnly.of_host {s t : State} (h : t.host = s.host) (hs : t.rec_.sink = s.rec_.sink) (hb : t.rec_.bytes = s.rec_.bytes) :
    SinkOnly s t := by
  have hm : t.host.mem = s.host.mem := congrArg HostIf.mem h
  exact ⟨by rw [h], hs, hb, fun hwf => hm ▸ hwf, fun _ _ _ => by rw [hm]⟩

theorem SinkOnly.trans {s t u : State} (h : SinkOnly s t) (k : SinkOnly t u) : SinkOnly s u where
  host := by rw [k.host, h.host]
  sink := k.sink.trans h.sink
  bytes := k.bytes.trans h.bytes
  wf hwf := k.wf (h.wf hwf)
  read hwf a ha := (k.read (h.wf hwf) a (by rw [h.sink, h.bytes]; exact ha)).trans (h.read hwf a ha)

theorem hostWrite_sinkOnly {s : State} {off : Nat} {bs : List Byte} (h : off + bs.length ≤ max 64 s.rec_.bytes) :
    SinkOnly s (hostWrite (s.rec_.sink.toNat + off) bs s) where
  host := rfl
  sink := rfl
  bytes := rfl
  wf hwf := Store.writeN_wf _ _ _ hwf
  read hwf a ha := Store.read_writeN_out _ _ _ _ hwf (by unfold Apart at ha; omega)

theorem writeSinkHead_sinkOnly (s : State) : SinkOnly s (writeSinkHead s) := by
  have hlen : (wordsBytes s.rec_.headWords).length = 64 := wordsBytes_length _
  exact hostWrite_sinkOnly (off := 0) (by rw [hlen]; omega)

theorem placeEntry_sinkOnly {s : State} {bs : List Byte} (h : 64 + s.rec_.written + bs.length ≤ s.rec_.bytes) :
    SinkOnly s (placeEntry bs s) := by
  have hwrite : SinkOnly s (hostWrite (s.rec_.sink.toNat + (64 + s.rec_.written)) bs s) := hostWrite_sinkOnly (by omega)
  rw [← Nat.add_assoc] at hwrite
  unfold placeEntry
  dsimp only
  generalize hostWrite _ bs s = u at hwrite ⊢
  exact ⟨hwrite.host, rfl, rfl, hwrite.wf, hwrite.read⟩

theorem recordEntryAt_of_not_recording {s : State} (h : s.rec_.mode ≠ .record) (g : Gate) (kind : Nat) (digest : Bool)
    (body : List Byte) : recordEntryAt g kind digest body s = s := by
  unfold recordEntryAt; simp [h]

theorem loseEntry_sinkOnly (s : State) : SinkOnly s (loseEntry s) := .of_host rfl rfl rfl

theorem endSink_sinkOnly (s : State) : SinkOnly s { s with rec_ := { s.rec_ with ended := true } } := .of_host rfl rfl rfl

/-- An entry goes to the sink alone, and where it does not fit only the sink's header changes, or the END entry is added. -/
theorem recordEntryAt_sinkOnly (g : Gate) (kind : Nat) (digest : Bool) (body : List Byte) (s : State) :
    SinkOnly s (recordEntryAt g kind digest body s) := by
  unfold recordEntryAt
  extract_lets r bs lost e placed ended
  have hlost : SinkOnly s lost := .of_host rfl rfl rfl
  have hwritten : lost.rec_.written = r.written := rfl
  have hbytes : lost.rec_.bytes = r.bytes := rfl
  clear_value bs e lost
  split
  · exact .of_host rfl rfl rfl
  · split
    · exact (loseEntry_sinkOnly s).trans (writeSinkHead_sinkOnly _)
    · split
      · next hfits => exact (placeEntry_sinkOnly hfits.2).trans (writeSinkHead_sinkOnly _)
      · split
        · next hfits =>
          have hplaced : SinkOnly lost placed := placeEntry_sinkOnly (by rw [hwritten, hbytes]; exact hfits.2)
          clear_value placed
          exact (hlost.trans (hplaced.trans (endSink_sinkOnly placed))).trans (writeSinkHead_sinkOnly _)
        · exact hlost.trans (writeSinkHead_sinkOnly _)

/-! ### A packet taken (R36, R38, R361) -/

/-- A packet's parts that its replies echo. -/
def tagOf (ring : BitVec 5) (pkt : List Word) : Tagged := Tagged.of ring.toNat (headOf pkt)

@[simp] theorem tagOf_ring (ring : BitVec 5) (pkt : List Word) : (tagOf ring pkt).ring = ring.toNat := rfl

theorem accepted_eq (ring : BitVec 5) (pkt : List Word) (detail : Word) (s : State) :
    accepted ring pkt detail s = accept (tagOf ring pkt) detail (taken ring pkt s) := rfl

theorem taken_keeps (ring : BitVec 5) (pkt : List Word) (s : State) : Keeps 0x8010 s (taken ring pkt s) := fetch_keeps ..

section
variable (ring : BitVec 5) (pkt : List Word) (s : State)

theorem taken_dev : (taken ring pkt s).dev = s.dev := (taken_keeps ..).dev rfl
theorem taken_img : (taken ring pkt s).img = s.img := (taken_keeps ..).img rfl
theorem taken_west : (taken ring pkt s).west = s.west := (taken_keeps ..).west rfl
theorem taken_east : (taken ring pkt s).east = s.east := (taken_keeps ..).east rfl
theorem taken_seq : (taken ring pkt s).seq = s.seq := (taken_keeps ..).seq rfl
theorem taken_link : (taken ring pkt s).link = s.link := (taken_keeps ..).link rfl
theorem taken_time : (taken ring pkt s).time = s.time := (taken_keeps ..).time rfl

theorem taken_half (h : Half) : (taken ring pkt s).half h = s.half h := by
  cases h
  · exact taken_west ..
  · exact taken_east ..

theorem taken_hstStatus : (taken ring pkt s).hstStatus = s.hstStatus :=
  hstStatus_congr (taken_dev ..) (taken_west ..) (taken_east ..) (taken_img ..) (taken_link ..)

theorem taken_ring_self : (taken ring pkt s).ring ring.toNat =
    { s.ring ring.toNat with
      head := (s.ring ring.toNat).head + BitVec.ofNat 32 (headOf pkt).length, fetched := (s.ring ring.toNat).fetched + 1 } :=
  (fetch_ring ..).trans (if_pos rfl)

theorem taken_ring_ne {n : Nat} (h : n ≠ ring.toNat) : (taken ring pkt s).ring n = s.ring n :=
  (fetch_ring ..).trans (if_neg h)

end

/-- Before the packet's entry is recorded, taking it changes its ring page, the turn and the count of fetches. -/
theorem taken_eq_recordEntry (ring : BitVec 5) (pkt : List Word) (s : State) :
    ∃ u, taken ring pkt s = recordEntry 0x01 false (wordsBytes (BitVec.ofNat 64 ring.toNat :: pkt)) u ∧ HostKept ring s u
      ∧ u.host.mem = s.host.mem ∧ u.rec_.mode = s.rec_.mode ∧ u.rec_.sink = s.rec_.sink ∧ u.rec_.bytes = s.rec_.bytes
      ∧ (s.rec_.mode = .off → u.rec_ = s.rec_) := by
  have hhost : HostKept ring s
      { s with host := { s.host with
          rings := s.host.rings.upd .init ring.toNat fun r =>
            { r with head := r.head + BitVec.ofNat 32 (headOf pkt).length, fetched := r.fetched + 1 },
          adminLast := ring.toNat == 0, lastRing := if ring.toNat = 0 then s.host.lastRing else ring.toNat } } := by
    unfold HostKept; rw [beq_eq_decide]
  unfold taken fetch
  extract_lets s1 host s2 rec s3
  refine ⟨s3, rfl, ?_⟩
  unfold s3
  split
  · exact ⟨hhost, rfl, rfl, rfl, rfl, fun _ => rfl⟩
  · next hmode => exact ⟨hhost, rfl, rfl, rfl, rfl, fun hoff => absurd (by simp [s2, s1, hoff]) hmode⟩

theorem hostKept_of_mem {ring : BitVec 5} {s t u : State} (h : HostKept ring s t) (k : u.host = { t.host with mem := u.host.mem }) :
    HostKept ring s u := by
  unfold HostKept at h ⊢; rw [k, h]

theorem taken_hostKept (ring : BitVec 5) (pkt : List Word) (s : State) : HostKept ring s (taken ring pkt s) := by
  obtain ⟨u, heq, hkept, -⟩ := taken_eq_recordEntry ring pkt s
  rw [heq]; exact hostKept_of_mem hkept (recordEntryAt_sinkOnly ..).host

theorem taken_rec_off {s : State} (h : s.rec_.mode = .off) (ring : BitVec 5) (pkt : List Word) :
    (taken ring pkt s).rec_ = s.rec_ := by
  obtain ⟨u, heq, -, -, hmode, -, -, hrec⟩ := taken_eq_recordEntry ring pkt s
  rw [heq, recordEntry_off _ _ _ _ (hmode.trans h), hrec h]

theorem taken_mem_wf {s : State} (h : s.host.mem.wf = true) (ring : BitVec 5) (pkt : List Word) :
    (taken ring pkt s).host.mem.wf = true := by
  obtain ⟨u, heq, -, hmem, -⟩ := taken_eq_recordEntry ring pkt s
  rw [heq]; exact (recordEntryAt_sinkOnly ..).wf (hmem ▸ h)

/-- Taking a packet writes to the sink of a recording alone. -/
theorem taken_mem_read {s : State} (h : s.host.mem.wf = true) (ring : BitVec 5) (pkt : List Word) {a : Nat} (ha : ¬SinkByte s a) :
    (taken ring pkt s).host.mem.read a = s.host.mem.read a := by
  obtain ⟨u, heq, -, hmem, hmode, hsink, hbytes, -⟩ := taken_eq_recordEntry ring pkt s
  rw [heq, ← hmem]
  by_cases hrec : s.rec_.mode = .record
  · refine (recordEntryAt_sinkOnly ..).read (hmem ▸ h) a ?_
    rw [hsink, hbytes]
    exact not_not.1 fun hin => ha ⟨hrec, hin⟩
  · rw [recordEntry, recordEntryAt_of_not_recording (hmode ▸ hrec)]

/-! ### Replies: the host interface -/

/-- Of the host interface only the ring pages and memory differ. -/
def RingsAndMem (s t : State) : Prop := t.host = { s.host with rings := t.host.rings, mem := t.host.mem }

theorem RingsAndMem.trans {s t u : State} (h : RingsAndMem s t) (k : RingsAndMem t u) : RingsAndMem s u := by
  unfold RingsAndMem at *; rw [k, h]

theorem RingsAndMem.kept {ring : BitVec 5} {s t u : State} (h : HostKept ring s t) (k : RingsAndMem t u) : HostKept ring s u := by
  unfold HostKept RingsAndMem at *; rw [k, h]

theorem hostWrite_ringsAndMem (a : Nat) (bs : List Byte) (s : State) : RingsAndMem s (hostWrite a bs s) := rfl

theorem statusWord_ringsAndMem (o v : Nat) (s : State) : RingsAndMem s (statusWord o v s) := hostWrite_ringsAndMem ..

theorem headCopy_ringsAndMem (n : Nat) (s : State) : RingsAndMem s (headCopy n s) := hostWrite_ringsAndMem ..

theorem updRing_ringsAndMem (n : Nat) (f : RingPage → RingPage) (s : State) : RingsAndMem s (updRing n f s) := rfl

theorem writeReply_ringsAndMem (t : Tagged) (kind status : Nat) (eff detail : Word) (s : State) :
    RingsAndMem s (writeReply t kind status eff detail s) :=
  ((hostWrite_ringsAndMem ..).trans (updRing_ringsAndMem ..)).trans (statusWord_ringsAndMem ..)

theorem replyOne_ringsAndMem (t : Tagged) (status : Nat) (eff detail : Word) (s : State) :
    RingsAndMem s (replyOne t status eff detail s) := (writeReply_ringsAndMem ..).trans (updRing_ringsAndMem ..)

theorem replyAccept_ringsAndMem (t : Tagged) (detail : Word) (s : State) : RingsAndMem s (replyAccept t detail s) :=
  (writeReply_ringsAndMem ..).trans (updRing_ringsAndMem ..)

theorem replyFinal_ringsAndMem (t : Tagged) (status : Nat) (eff detail : Word) (s : State) :
    RingsAndMem s (replyFinal t status eff detail s) := (writeReply_ringsAndMem ..).trans (updRing_ringsAndMem ..)

theorem answer_ringsAndMem (t : Tagged) (status : Nat) (eff detail : Word) (s : State) :
    RingsAndMem s (answer t status eff detail s) := (replyOne_ringsAndMem ..).trans (headCopy_ringsAndMem ..)

theorem accept_ringsAndMem (t : Tagged) (detail : Word) (s : State) : RingsAndMem s (accept t detail s) :=
  (replyAccept_ringsAndMem ..).trans (headCopy_ringsAndMem ..)

/-! ### Replies: the ring pages -/

/-- A packet with a single reply, whatever else it did before the reply but to ring pages. -/
theorem answered_answer {ring : BitVec 5} {pkt : List Word} {s u : State} (hlen : (headOf pkt).length = pkt.length)
    (hu : ∀ n, u.ring n = (taken ring pkt s).ring n) (status : Nat) (eff detail : Word) :
    Sys2Proof.Answered ring pkt 1 0 (decide (0x10 ≤ status)) s (answer (tagOf ring pkt) status eff detail u) := by
  refine ⟨?_, fun n hn => ?_⟩
  · rw [answer_ring, tagOf_ring, if_pos rfl, hu, taken_ring_self, hlen]
    simp only [decide_eq_true_eq]
    rfl
  · rw [answer_ring, tagOf_ring, if_neg hn, hu, taken_ring_ne _ _ _ hn]

/-- A packet that is accepted, and whose final reply is owed. -/
theorem answered_accept {ring : BitVec 5} {pkt : List Word} {s t : State} (hlen : (headOf pkt).length = pkt.length)
    (detail : Word) (ht : ∀ n, t.ring n = (accepted ring pkt detail s).ring n) : Sys2Proof.Answered ring pkt 1 1 false s t := by
  refine ⟨?_, fun n hn => ?_⟩
  · rw [ht, accepted_eq, accept_ring, tagOf_ring, if_pos rfl, ← hlen]
    exact congrArg (fun r : RingPage => { r with tail := r.tail + 1, outstanding := r.outstanding + 1 }) (taken_ring_self ring pkt s)
  · rw [ht, accepted_eq, accept_ring, tagOf_ring, if_neg hn, taken_ring_ne _ _ _ hn]

/-- A packet that is accepted and gets its final reply at once. -/
theorem answered_final {ring : BitVec 5} {pkt : List Word} {s u : State} (hlen : (headOf pkt).length = pkt.length) {first : Word}
    (hu : ∀ n, u.ring n = (accepted ring pkt first s).ring n) (status : Nat) (eff detail : Word) :
    Sys2Proof.Answered ring pkt 2 0 false s (replyFinal (tagOf ring pkt) status eff detail u) := by
  obtain ⟨hself, hother⟩ := answered_accept hlen first hu
  refine ⟨?_, fun n hn => ?_⟩
  · rw [replyFinal_ring, tagOf_ring, if_pos rfl]
    rw [hself]
    simp [BitVec.add_assoc]
  · rw [replyFinal_ring, tagOf_ring, if_neg hn, hother n hn]

end Sys2Proof.Machine
end

section
/-! What the replies of a packet leave in host memory (R41, R43): the single reply of a packet, and the two of one that ends at once. -/
namespace Sys2Proof.Machine

/-! ### One reply record -/

/-- A state in which reply record `k` of a packet that was fetched in `s` is the next of its ring. -/
structure AtRecord (ring : BitVec 5) (k : Nat) (s u : State) : Prop where
  tail        : (u.ring ring.toNat).tail = (s.ring ring.toNat).tail + BitVec.ofNat 32 k
  rrBase      : (u.ring ring.toNat).rrBase = (s.ring ring.toNat).rrBase
  rrSize      : (u.ring ring.toNat).rrSize = (s.ring ring.toNat).rrSize
  statusBlock : u.host.statusBlock = s.host.statusBlock
  ts          : u.time.ts = s.time.ts

theorem taken_atRecord (ring : BitVec 5) (pkt : List Word) (s : State) : AtRecord ring 0 s (taken ring pkt s) where
  tail := by rw [taken_ring_self]; exact (BitVec.add_zero _).symm
  rrBase := by rw [taken_ring_self]
  rrSize := by rw [taken_ring_self]
  statusBlock := by rw [taken_hostKept]
  ts := by rw [taken_time]

theorem accepted_atRecord (ring : BitVec 5) (pkt : List Word) (first : Word) (s : State) :
    AtRecord ring 1 s (accepted ring pkt first s) := by
  have h := taken_atRecord ring pkt s
  have hring := accept_ring (tagOf ring pkt) first (taken ring pkt s) ring.toNat
  rw [tagOf_ring, if_pos rfl, ← accepted_eq] at hring
  refine ⟨?_, ?_, ?_, ?_, ?_⟩
  · rw [hring]; exact congrArg (· + 1) (h.tail.trans (BitVec.add_zero _))
  · rw [hring]; exact h.rrBase
  · rw [hring]; exact h.rrSize
  · rw [accepted_eq, accept_ringsAndMem]; exact h.statusBlock
  · rw [accepted_eq, (accept_keeps ..).time rfl]; exact h.ts

/-- A unit but the timestamp and the host interface may have changed before a reply. -/
theorem AtRecord.of_host {ring : BitVec 5} {k : Nat} {s t u : State} (h : AtRecord ring k s t) (hrings : u.host.rings = t.host.rings)
    (hsb : u.host.statusBlock = t.host.statusBlock) (hts : u.time.ts = t.time.ts) : AtRecord ring k s u := by
  have hring := ring_of_rings hrings ring.toNat
  exact ⟨hring ▸ h.tail, hring ▸ h.rrBase, hring ▸ h.rrSize, hsb.trans h.statusBlock, hts.trans h.ts⟩

/-- A reply record goes to its slot, and the new tail to the ring's second word of the status block. -/
theorem AtRecord.writeReply_mem {ring : BitVec 5} {k : Nat} {s u : State} (h : AtRecord ring k s u) (pkt : List Word)
    (kind status : Nat) (eff detail : Word) :
    (writeReply (tagOf ring pkt) kind status eff detail u).host.mem =
      (u.host.mem.writeN (replySlot ring k s) (replyBytes ring pkt k kind status eff detail s)).writeN
        (ringStatus ring s + 8) (toLE 8 ((u.ring ring.toNat).tail + 1).toNat) := by
  have hrecords : (u.ring ring.toNat).records = (s.ring ring.toNat).records := by unfold RingPage.records; rw [h.rrSize]
  have haddr : s.host.statusBlock.toNat + (0x48 + 16 * ring.toNat) = ringStatus ring s + 8 := by unfold ringStatus; omega
  rw [writeReply_hostMem, tagOf_ring, hrecords, h.rrBase, h.statusBlock, haddr, h.tail, State.now, h.ts]
  rfl

theorem headCopy_writes {ring : BitVec 5} {s u : State} (h : u.host.statusBlock = s.host.statusBlock) :
    (headCopy ring.toNat u).host.mem = u.host.mem.writeN (ringStatus ring s) (toLE 8 (u.ring ring.toNat).head.toNat) := by
  have haddr : s.host.statusBlock.toNat + (0x40 + 16 * ring.toNat) = ringStatus ring s := (Nat.add_assoc ..).symm
  rw [headCopy_hostMem, h, haddr]

/-- A packet's single reply, and its head copy. -/
theorem AtRecord.answer_mem {ring : BitVec 5} {k : Nat} {s u : State} (h : AtRecord ring k s u) (pkt : List Word)
    (status : Nat) (eff detail : Word) :
    (answer (tagOf ring pkt) status eff detail u).host.mem =
      (u.host.mem.writeN (replySlot ring k s) (replyBytes ring pkt k 1 status eff detail s)).copyRing (ringStatus ring s)
        ((answer (tagOf ring pkt) status eff detail u).ring ring.toNat) := by
  have hsb : (replyOne (tagOf ring pkt) status eff detail u).host.statusBlock = s.host.statusBlock := by
    rw [replyOne_ringsAndMem]; exact h.statusBlock
  have hmem : (replyOne (tagOf ring pkt) status eff detail u).host.mem
      = (writeReply (tagOf ring pkt) 1 status eff detail u).host.mem := updRing_host_mem ..
  rw [answer_ring, tagOf_ring, if_pos rfl, answer, tagOf_ring, headCopy_writes hsb, replyOne_ring, tagOf_ring, if_pos rfl, hmem,
    h.writeReply_mem]
  rfl

/-- The reply ST_ACCEPTED, and its head copy. -/
theorem accepted_mem (ring : BitVec 5) (pkt : List Word) (first : Word) (s : State) :
    (accepted ring pkt first s).host.mem =
      ((taken ring pkt s).host.mem.writeN (replySlot ring 0 s) (replyBytes ring pkt 0 0 0x0001 0 first s)).copyRing
        (ringStatus ring s) ((accepted ring pkt first s).ring ring.toNat) := by
  have h := taken_atRecord ring pkt s
  have hsb : (replyAccept (tagOf ring pkt) first (taken ring pkt s)).host.statusBlock = s.host.statusBlock := by
    rw [replyAccept_ringsAndMem]; exact h.statusBlock
  have hmem : (replyAccept (tagOf ring pkt) first (taken ring pkt s)).host.mem
      = (writeReply (tagOf ring pkt) 0 stAccepted 0 first (taken ring pkt s)).host.mem := updRing_host_mem ..
  rw [accepted_eq, accept_ring, tagOf_ring, if_pos rfl, accept, tagOf_ring, headCopy_writes hsb, replyAccept_ring, tagOf_ring,
    if_pos rfl, hmem, h.writeReply_mem]
  rfl

/-- The final reply of an accepted packet. -/
theorem AtRecord.replyFinal_mem {ring : BitVec 5} {k : Nat} {s u : State} (h : AtRecord ring k s u) (pkt : List Word)
    (status : Nat) (eff detail : Word) :
    (replyFinal (tagOf ring pkt) status eff detail u).host.mem =
      (u.host.mem.writeN (replySlot ring k s) (replyBytes ring pkt k 1 status eff detail s)).writeN
        (ringStatus ring s + 8) (toLE 8 ((replyFinal (tagOf ring pkt) status eff detail u).ring ring.toNat).tail.toNat) := by
  rw [replyFinal_ring, tagOf_ring, if_pos rfl]
  exact (updRing_host_mem ..).trans (h.writeReply_mem ..)

theorem replyBytes_length (ring : BitVec 5) (pkt : List Word) (k kind status : Nat) (eff detail : Word) (s : State) :
    (replyBytes ring pkt k kind status eff detail s).length = 32 := wordsBytes_length _

/-! ### The single reply -/

/-- The single reply of a packet that has changed nothing but what a fetch changes, and units that no reply reads. -/
theorem singleReply_answer {ring : BitVec 5} {pkt : List Word} {s u : State} (hu : u.host = (taken ring pkt s).host)
    (hts : u.time.ts = s.time.ts) (hwf : s.host.mem.wf = true) (status : Nat) (eff detail : Word) :
    SingleReply ring pkt status eff detail s (answer (tagOf ring pkt) status eff detail u) := by
  have hat : AtRecord ring 0 s u := (taken_atRecord ring pkt s).of_host (by rw [hu]) (by rw [hu])
    (hts.trans (taken_atRecord ring pkt s).ts.symm)
  have hmem := hat.answer_mem pkt status eff detail
  have hlen := replyBytes_length ring pkt 0 1 status eff detail s
  rw [hu] at hmem
  have hwf0 := taken_mem_wf hwf ring pkt
  have hwf1 := Store.writeN_wf _ (replySlot ring 0 s) (replyBytes ring pkt 0 1 status eff detail s) hwf0
  unfold SingleReply RingCopied
  rw [hmem]
  refine ⟨fun hapart => ?_, Store.copyRing_self hwf1 _ _, fun a hslot hcopy hsink => ?_⟩
  · rw [Store.copyRing_readN hwf1 _ hapart, Store.readN_writeN_self hwf0 hlen]
  · rw [Store.copyRing_read hwf1 _ hcopy, Store.read_writeN_out _ _ _ _ hwf0 (by rw [hlen]; exact hslot),
      taken_mem_read hwf ring pkt hsink]

/-! ### Two replies -/

theorem RingPage.records_pos (r : RingPage) : 1 < r.records := Nat.one_lt_two_pow (by omega)

theorem RingPage.records_dvd (r : RingPage) : r.records ∣ 2 ^ 32 := by
  refine Nat.pow_dvd_pow 2 ?_
  have hlt : fld r.rrSize 3 0 < 2 ^ 4 := by rw [fld_low]; exact Nat.mod_lt _ (by decide)
  omega

/-- The slots of a packet's two replies differ. -/
theorem replySlots_apart (ring : BitVec 5) (s : State) : ApartRange (replySlot ring 0 s) 32 (replySlot ring 1 s) 32 := by
  unfold ApartRange replySlot
  generalize s.ring ring.toNat = r
  have hne : (r.tail + BitVec.ofNat 32 0).toNat % r.records ≠ (r.tail + BitVec.ofNat 32 1).toNat % r.records := by
    rw [BitVec.toNat_add, BitVec.toNat_add, Nat.mod_mod_of_dvd _ r.records_dvd, Nat.mod_mod_of_dvd _ r.records_dvd]
    intro h
    have h01 : 0 % r.records = 1 % r.records := Nat.ModEq.add_left_cancel' r.tail.toNat h
    rw [Nat.zero_mod, Nat.mod_eq_of_lt r.records_pos] at h01
    exact absurd h01 (by decide)
  omega

/-- Host memory after a packet that is accepted, writes `bs` to `dest` and gets its final reply at once: the writes in their order. -/
theorem final_mem (ring : BitVec 5) (pkt : List Word) (first : Word) (status : Nat) (eff detail : Word) (dest : Nat)
    (bs : List Byte) (s : State) :
    (replyFinal (tagOf ring pkt) status eff detail (hostWrite dest bs (accepted ring pkt first s))).host.mem =
      (((((taken ring pkt s).host.mem.writeN (replySlot ring 0 s) (replyBytes ring pkt 0 0 0x0001 0 first s)).copyRing
        (ringStatus ring s) ((accepted ring pkt first s).ring ring.toNat)).writeN dest bs).writeN (replySlot ring 1 s)
        (replyBytes ring pkt 1 1 status eff detail s)).writeN (ringStatus ring s + 8)
          (toLE 8 ((replyFinal (tagOf ring pkt) status eff detail (hostWrite dest bs (accepted ring pkt first s))).ring
            ring.toNat).tail.toNat) := by
  have hat : AtRecord ring 1 s (hostWrite dest bs (accepted ring pkt first s)) :=
    (accepted_atRecord ring pkt first s).of_host (hostWrite_host_rings ..) (hostWrite_host_statusBlock ..)
      (congrArg Time.ts (hostWrite_time ..))
  have hwrite : (hostWrite dest bs (accepted ring pkt first s)).host.mem = (accepted ring pkt first s).host.mem.writeN dest bs := rfl
  rw [hat.replyFinal_mem pkt status eff detail, hwrite, accepted_mem]

/-- The two replies of a packet that is accepted, writes `bs` to `dest` and ends at once. -/
theorem twoReplies_final {ring : BitVec 5} {pkt : List Word} {s : State} (hwf : s.host.mem.wf = true) (first : Word)
    (status : Nat) (eff detail : Word) (dest : Nat) (bs : List Byte) :
    TwoReplies ring pkt first status eff detail dest bs s
      (replyFinal (tagOf ring pkt) status eff detail (hostWrite dest bs (accepted ring pkt first s))) := by
  have hlen0 := replyBytes_length ring pkt 0 0 0x0001 0 first s
  have hlen1 := replyBytes_length ring pkt 1 1 status eff detail s
  have hslots := replySlots_apart ring s
  have hread (a : Nat) (ha : ¬SinkByte s a) := taken_mem_read hwf ring pkt ha
  have hwf0 := taken_mem_wf hwf ring pkt
  unfold TwoReplies
  rw [final_mem]
  generalize (taken ring pkt s).host.mem = m at hread hwf0 ⊢
  generalize replyBytes ring pkt 0 0 0x0001 0 first s = b0 at hlen0 ⊢
  generalize replyBytes ring pkt 1 1 status eff detail s = b1 at hlen1 ⊢
  generalize htail : toLE 8 (BitVec.toNat _) = tail
  have hlen8 : tail.length = 8 := htail ▸ toLE_length ..
  have hwf1 := Store.writeN_wf m (replySlot ring 0 s) b0 hwf0
  have hwf2 := Store.copyRing_wf hwf1 (ringStatus ring s) ((accepted ring pkt first s).ring ring.toNat)
  have hwf3 := Store.writeN_wf _ dest bs hwf2
  have hwf4 := Store.writeN_wf _ (replySlot ring 1 s) b1 hwf3
  unfold ApartRange at hslots
  refine ⟨fun hcopy => ?_, fun hcopy hdest => ?_, fun hslot hcopy => ?_, fun a h0 h1 hcopy hdest hsink => ?_⟩
  · unfold ApartRange at hcopy
    rw [Store.readN_writeN_out _ _ _ _ _ hwf4 (by omega), Store.readN_writeN_self hwf3 hlen1]
  · rw [Store.readN_writeN_out _ _ _ _ _ hwf4 (by unfold ApartRange at hcopy; omega),
      Store.readN_writeN_out _ _ _ _ _ hwf3 (by omega), Store.readN_writeN_out _ _ _ _ _ hwf2 hdest,
      Store.copyRing_readN hwf1 _ hcopy, Store.readN_writeN_self hwf0 hlen0]
  · unfold ApartRange at hslot hcopy
    rw [Store.readN_writeN_out _ _ _ _ _ hwf4 (by omega), Store.readN_writeN_out _ _ _ _ _ hwf3 (by omega),
      Store.readN_writeN_self hwf2 rfl]
  · rw [Store.read_writeN_out _ _ _ _ hwf4 (by unfold Apart at hcopy; omega),
      Store.read_writeN_out _ _ _ _ hwf3 (by rw [hlen1]; exact h1), Store.read_writeN_out _ _ _ _ hwf2 hdest,
      Store.copyRing_read hwf1 _ hcopy, Store.read_writeN_out _ _ _ _ hwf0 (by rw [hlen0]; exact h0), hread a hsink]

/-- The ring's words of the status block after a packet that ends at once, where neither what it wrote nor its final reply lies
over them. -/
theorem ringCopied_final {ring : BitVec 5} {pkt : List Word} {s : State} (hwf : s.host.mem.wf = true) (first : Word)
    (status : Nat) (eff detail : Word) {dest : Nat} {bs : List Byte} (hdest : ApartRange (ringStatus ring s) 16 dest bs.length)
    (hslot : ApartRange (ringStatus ring s) 16 (replySlot ring 1 s) 32) :
    RingCopied ring s (replyFinal (tagOf ring pkt) status eff detail (hostWrite dest bs (accepted ring pkt first s))) := by
  have hlen1 := replyBytes_length ring pkt 1 1 status eff detail s
  have hhead : ((replyFinal (tagOf ring pkt) status eff detail (hostWrite dest bs (accepted ring pkt first s))).ring ring.toNat).head
      = ((accepted ring pkt first s).ring ring.toNat).head := by
    rw [replyFinal_ring, tagOf_ring, if_pos rfl, hostWrite_ring]
  have hwf1 := Store.writeN_wf _ (replySlot ring 0 s) (replyBytes ring pkt 0 0 0x0001 0 first s) (taken_mem_wf hwf ring pkt)
  have hwf2 := Store.copyRing_wf hwf1 (ringStatus ring s) ((accepted ring pkt first s).ring ring.toNat)
  have hwf3 := Store.writeN_wf _ dest bs hwf2
  have hwf4 := Store.writeN_wf _ (replySlot ring 1 s) (replyBytes ring pkt 1 1 status eff detail s) hwf3
  unfold ApartRange at hdest hslot
  unfold RingCopied
  rw [final_mem, hhead, show (16 : Nat) = 8 + 8 from rfl, Store.readN_add, Store.readN_writeN_self hwf4 (toLE_length ..),
    Store.readN_writeN_out _ _ _ _ _ hwf4 (by omega), Store.readN_writeN_out _ _ _ _ _ hwf3 (by omega),
    Store.readN_writeN_out _ _ _ _ _ hwf2 (by omega), Store.copyRing_head hwf1]

end Sys2Proof.Machine
end

section
/-! How a packet is fetched, examined and turned away (R36 to R39, R45, R46, R262, R322, R380), and the packets that only report
(R48, R49, R65). -/
namespace Sys2Proof.Machine

/-! ### Words of a packet (R37, R45) -/

theorem packetWf_length {op : Nat} {pkt : List Word} (h : packetWf op pkt = true) : (headOf pkt).length = pkt.length := by
  cases pkt with
  | nil => cases h
  | cons w l => exact beq_iff_eq.1 (Bool.and_eq_true_iff.1 h).2

theorem nopWf_length {pkt : List Word} (h : nopWf pkt = true) : (headOf pkt).length = pkt.length := by
  cases pkt with
  | nil => cases h
  | cons w l => exact beq_iff_eq.1 (Bool.and_eq_true_iff.1 h).2

theorem packetWf_opcode {op : Nat} {pkt : List Word} (h : packetWf op pkt = true) : (headOf pkt).opcode = op := by
  cases pkt with
  | nil => cases h
  | cons w l => exact beq_iff_eq.1 (Bool.and_eq_true_iff.1 h).1

/-- A packet row's check is that of NOP or of its own opcode. -/
theorem wf_of_packetOf {c : Instr} {ring : BitVec 5} {pkt : List Word} (h : packetOf c = some (ring, pkt)) :
    c.wf = nopWf pkt ∨ ∃ op, c.wf = packetWf op pkt := by
  cases c
  case nop => cases h; exact .inl rfl
  all_goals cases h <;> exact .inr ⟨_, rfl⟩

theorem headOf_length {c : Instr} {ring : BitVec 5} {pkt : List Word} (h : packetOf c = some (ring, pkt)) (hwf : c.wf = true) :
    (headOf pkt).length = pkt.length := by
  obtain hnop | ⟨op, hop⟩ := wf_of_packetOf h
  · exact nopWf_length (hnop ▸ hwf)
  · exact packetWf_length (hop ▸ hwf)

/-! ### A packet row that fetches -/

section
variable {name : String} {wf : Bool} {ring : BitVec 5} {pkt : List Word} {body : Tagged → State → State} {s : State}

/-- A packet that passes the examination acts on the state after its fetch. -/
theorem packet_admitted (hwf : wf = true) (hf : Fetched ring pkt s) (he : examine ring.toNat (headOf pkt) pkt s = none) :
    packet name wf ring.toNat pkt body s = .next (body (tagOf ring pkt) (taken ring pkt s)) := by
  obtain ⟨hready, hqueue, hturn⟩ := hf
  rw [packet_of_wf hwf, packetStep_fetched _ _ _ _ hready hqueue hturn]
  unfold headOf at he
  rw [he]
  rfl

/-- A packet that fails a check gets its single reply. -/
theorem packet_rejected {st : Nat} (hwf : wf = true) (hf : Fetched ring pkt s)
    (he : examine ring.toNat (headOf pkt) pkt s = some st) :
    packet name wf ring.toNat pkt body s = .next (answer (tagOf ring pkt) st 0 0 (taken ring pkt s)) := by
  obtain ⟨hready, hqueue, hturn⟩ := hf
  rw [packet_of_wf hwf, packetStep_fetched _ _ _ _ hready hqueue hturn]
  unfold headOf at he
  rw [he]
  rfl

theorem packet_of_admitted {op : Nat} (h : Admitted op ring pkt s) :
    packet name (packetWf op pkt) ring.toNat pkt body s = .next (body (tagOf ring pkt) (taken ring pkt s)) :=
  packet_admitted h.1 h.2.1 h.2.2

end

/-- A single reply on the state after the fetch. -/
theorem onlyAnswers_answer {ring : BitVec 5} {pkt : List Word} {s : State} (hlen : (headOf pkt).length = pkt.length)
    (status : Nat) (eff detail : Word) :
    OnlyAnswers status eff detail (decide (0x10 ≤ status)) ring pkt s
      (answer (tagOf ring pkt) status eff detail (taken ring pkt s)) := by
  have hkeeps : Keeps 0x8010 s (answer (tagOf ring pkt) status eff detail (taken ring pkt s)) :=
    (taken_keeps ring pkt s).trans (answer_keeps ..).up
  refine ⟨hkeeps.units _ rfl, answered_answer hlen (fun _ => rfl) .., (answer_ringsAndMem ..).kept (taken_hostKept ring pkt s),
    fun hoff => ?_, fun hwf => singleReply_answer rfl (congrArg Time.ts (taken_time ..)) hwf ..⟩
  exact ((answer_keeps ..).rec_ rfl).trans (taken_rec_off hoff ring pkt)

theorem turned_answer {ring : BitVec 5} {pkt : List Word} {s : State} {status : Nat} (hlen : (headOf pkt).length = pkt.length)
    (hstatus : 0x10 ≤ status) : Turned status ring pkt s (answer (tagOf ring pkt) status 0 0 (taken ring pkt s)) := by
  have h := onlyAnswers_answer (ring := ring) (s := s) hlen status 0 0
  rwa [decide_eq_true hstatus] at h

/-! ### The examination (R46) -/

theorem examine_of_unknown {h : Head} (ho : opInfo h.opcode = none) (ring : Nat) (pkt : List Word) (s : State) :
    examine ring h pkt s = some stBadOpcode := by
  unfold examine; rw [ho]

/-- Steps 4 to 8 of R46, for a packet whose form is right. -/
def permission (ring : Nat) (h : Head) (o : OpInfo) (s : State) : Option Nat :=
  if o.admin ∧ ring ≠ 0 then some stNotPermitted
  else if !o.wide ∧ ring ≠ 0 ∧ !(s.dev.imageValid && (Entry.f (s.img.entry 7 ring) 0 15 0).testBit h.hoop) then some stNotPermitted
  else if !o.wide ∧ !(ctxValid (s.img.entry 6 h.ctx) && ctxHoop (s.img.entry 6 h.ctx) == h.hoop) then some stBadContext
  else if !o.wide ∧ halfDown h.hoop s then some stHalfDown
  else if !o.permits s.dev.st then some stBadState
  else none

section
variable {h : Head} {o : OpInfo} (ho : opInfo h.opcode = some o)
include ho

theorem examine_of_bad_length {pkt : List Word} (hl : pkt.length < o.minWords ∨ o.maxWords < pkt.length) (ring : Nat) (s : State) :
    examine ring h pkt s = some stBadLength := by
  simp only [examine, ho, if_pos hl]

theorem examine_of_bad_reserved {pkt : List Word} (hmin : o.minWords ≤ pkt.length) (hmax : pkt.length ≤ o.maxWords)
    (hr : badReserved o h pkt = true) (ring : Nat) (s : State) : examine ring h pkt s = some stBadReserved := by
  simp only [examine, ho, if_neg (show ¬(pkt.length < o.minWords ∨ o.maxWords < pkt.length) by omega), if_pos hr]

theorem examine_of_good_form {pkt : List Word} (hmin : o.minWords ≤ pkt.length) (hmax : pkt.length ≤ o.maxWords)
    (hr : badReserved o h pkt = false) (ring : Nat) (s : State) : examine ring h pkt s = permission ring h o s := by
  simp only [examine, ho, if_neg (show ¬(pkt.length < o.minWords ∨ o.maxWords < pkt.length) by omega), hr]
  rfl

end

/-- Step 5: ring 0, or a ring whose mask in a valid image names the hoop. -/
def mayUse (ring : Nat) (h : Head) (s : State) : Prop :=
  ring = 0 ∨ (s.dev.imageValid = true ∧ (Entry.f (s.img.entry 7 ring) 0 15 0).testBit h.hoop = true)

theorem not_mayUse_iff (ring : Nat) (h : Head) (s : State) :
    (ring ≠ 0 ∧ (!(s.dev.imageValid && (Entry.f (s.img.entry 7 ring) 0 15 0).testBit h.hoop)) = true) ↔ ¬mayUse ring h s := by
  rw [mayUse, not_or, Bool.not_eq_true', Bool.and_eq_false_iff, not_and_or, Bool.not_eq_true, Bool.not_eq_true]

theorem permission_of_foreign_ring {ring : Nat} {o : OpInfo} (ha : o.admin = true) (hr : ring ≠ 0) (h : Head) (s : State) :
    permission ring h o s = some stNotPermitted := if_pos ⟨ha, hr⟩

theorem permission_of_wide {ring : Nat} {o : OpInfo} (hw : o.wide = true) (ha : o.admin = true → ring = 0) (h : Head) (s : State) :
    permission ring h o s = if o.permits s.dev.st = true then none else some stBadState := by
  unfold permission
  rw [if_neg fun ⟨hadmin, hr⟩ => hr (ha hadmin), if_neg (by simp [hw]), if_neg (by simp [hw]), if_neg (by simp [hw])]
  cases o.permits s.dev.st <;> rfl

section
variable {ring : Nat} {h : Head} {o : OpInfo} {s : State} (ha : o.admin = false) (hw : o.wide = false)
include ha hw

theorem permission_of_not_mayUse (hm : ¬mayUse ring h s) : permission ring h o s = some stNotPermitted := by
  unfold permission
  rw [if_neg (by simp [ha]), if_pos ⟨by simp [hw], (not_mayUse_iff ring h s).2 hm⟩]

theorem permission_of_bad_context (hm : mayUse ring h s)
    (hc : ctxValid (s.img.entry 6 h.ctx) = false ∨ ctxHoop (s.img.entry 6 h.ctx) ≠ h.hoop) :
    permission ring h o s = some stBadContext := by
  unfold permission
  have hctx : (!(ctxValid (s.img.entry 6 h.ctx) && ctxHoop (s.img.entry 6 h.ctx) == h.hoop)) = true := by
    rw [Bool.not_eq_true', Bool.and_eq_false_iff, beq_eq_false_iff_ne]; exact hc
  rw [if_neg (by simp [ha]), if_neg fun hno => (not_mayUse_iff ring h s).1 hno.2 hm, if_pos ⟨by simp [hw], hctx⟩]

theorem permission_of_context (hm : mayUse ring h s) (hv : ctxValid (s.img.entry 6 h.ctx) = true)
    (hh : ctxHoop (s.img.entry 6 h.ctx) = h.hoop) :
    permission ring h o s = if halfDown h.hoop s = true then some stHalfDown
      else if o.permits s.dev.st = true then none else some stBadState := by
  unfold permission
  rw [if_neg (by simp [ha]), if_neg fun hno => (not_mayUse_iff ring h s).1 hno.2 hm, if_neg (by simp [hv, hh])]
  cases halfDown h.hoop s <;> cases o.permits s.dev.st <;> simp [hw]

end

theorem firstFailingCheckDecides : FirstFailingCheckDecides := by
  intro ring h pkt s result mayUse
  refine ⟨fun hnone => examine_of_unknown hnone ring pkt s, fun o ho => ⟨fun hl => examine_of_bad_length ho hl ring s,
    fun hmin hmax => ⟨fun hr => examine_of_bad_reserved ho hmin hmax hr ring s, fun hr => ?_⟩⟩⟩
  have hresult : result = permission ring h o s := examine_of_good_form ho hmin hmax hr ring s
  rw [hresult]
  exact ⟨fun ha hring => permission_of_foreign_ring ha hring h s, fun hw ha => permission_of_wide hw ha h s,
    fun ha hw hm => permission_of_not_mayUse ha hw hm, fun ha hw hm =>
      ⟨fun hc => permission_of_bad_context ha hw hm hc, fun hv hh => permission_of_context ha hw hm hv hh⟩⟩

/-- Every status of the examination counts in REJECTED (R34). -/
theorem examine_status {ring : Nat} {h : Head} {pkt : List Word} {s : State} {st : Nat} (he : examine ring h pkt s = some st) :
    0x10 ≤ st := by
  unfold examine at he
  repeat' split at he
  all_goals cases he <;> decide

theorem rejectedPacketGetsOneReply : RejectedPacketGetsOneReply := by
  intro c ring pkt s st hc hwf hf he
  obtain ⟨name, body, hexec⟩ := exec_of_packetOf hc
  exact ⟨_, (hexec s).trans (packet_rejected hwf hf he), turned_answer (headOf_length hc hwf) (examine_status he)⟩

/-- Settles O9: the checks of R46 are decided in their order, and one that fails leaves the single reply on the state after the
fetch. -/
theorem packetsAreExaminedInOrder : Obligations.PacketsAreExaminedInOrder :=
  ⟨firstFailingCheckDecides, rejectedPacketGetsOneReply⟩

end Sys2Proof.Machine
end

section
/-! When a packet waits in its ring, and whose turn it is (R36 to R39, R45, R262, R322, R380). -/
namespace Sys2Proof.Machine

/-! ### A packet that waits -/

section
variable {ring : Nat} {pkt : List Word} {body : Tagged → State → State} {s : State}

theorem packetStep_of_not_ready (h : ringReady ring (headOf pkt) s = false) : packetStep ring pkt body s = s :=
  if_pos (congrArg not h)

theorem packetStep_of_queue_full (hready : ringReady ring (headOf pkt) s = true) (hfull : queueFull (headOf pkt) s = true) :
    packetStep ring pkt body s = bumpDamp (s.hoopHome (headOf pkt).hoop) 7 1 s := by
  have hpass : ¬(!ringReady ring (headOf pkt) s) = true := by simp [hready]
  exact (if_neg hpass).trans (if_pos hfull)

theorem packetStep_of_not_turn (hqueue : queueFull (headOf pkt) s = false) (hturn : inTurn ring s = false) :
    packetStep ring pkt body s = s := by
  cases hready : ringReady ring (headOf pkt) s with
  | false => exact packetStep_of_not_ready hready
  | true =>
    have hpass : ¬(!ringReady ring (headOf pkt) s) = true := by simp [hready]
    exact (if_neg hpass).trans ((if_neg (Bool.eq_false_iff.1 hqueue)).trans (if_pos (congrArg not hturn)))

end

theorem serves_eq_false_iff (s : State) :
    s.serves = false ↔ s.dev.st = .cold ∨ s.dev.st = .kindling ∨ (s.dev.st = .quenched ∧ s.dev.dispute = true)
      ∨ (s.dev.st = .banked ∧ s.boot.flashDue = true) := by
  unfold State.serves
  cases s.dev.st <;> simp

theorem ringReady_iff (ring : Nat) (h : Head) (s : State) :
    ringReady ring h s = true ↔ s.serves = true ∧ (s.ring ring).enable = true ∧ (s.ring ring).overrun = false
      ∧ (s.ring ring).held = false ∧ h.length ≤ ((s.ring ring).doorbell - (s.ring ring).head).toNat
      ∧ (s.ring ring).rrUsed + repliesOf h.opcode ≤ (s.ring ring).records ∧ (h.fence = false ∨ (s.ring ring).outstanding = 0) := by
  unfold ringReady
  simp only [Bool.and_eq_true, Bool.or_eq_true, Bool.not_eq_true', decide_eq_true_eq, beq_iff_eq, and_assoc]

theorem unfetchedPacketsChangeNothing : UnfetchedPacketsChangeNothing := by
  intro c ring pkt s hc hwf r h
  obtain ⟨name, body, hexec⟩ := exec_of_packetOf hc
  have hlen : h.length = pkt.length := headOf_length hc hwf
  rw [hexec, packet_of_wf hwf]
  refine ⟨fun hwaits => ?_, fun hturn hqueue => ?_, fun hready hop hfull => ?_⟩
  · refine congrArg _ (packetStep_of_not_ready (Bool.eq_false_iff.2 fun hready => ?_))
    obtain ⟨hserves, henable, hoverrun, hheld, hwords, hroom, hfence⟩ := (ringReady_iff _ _ _).1 hready
    have hstate := mt (serves_eq_false_iff s).2 (by simp [hserves])
    obtain ⟨hcold, hkindling, hquenched, hbanked⟩ : _ ∧ _ ∧ _ ∧ _ := by simpa only [not_or] using hstate
    rcases hwaits with hw | hw | hw | hw | hw | hw | hw | hw | hw | hw
    · exact hcold hw
    · exact hkindling hw
    · exact hquenched hw
    · exact hbanked hw
    · exact Bool.false_ne_true (hw.symm.trans henable)
    · exact Bool.false_ne_true (hoverrun.symm.trans hw)
    · exact Bool.false_ne_true (hheld.symm.trans hw)
    · exact Nat.not_le.2 hw (hlen ▸ hwords)
    · exact Nat.not_le.2 hw hroom
    · exact hfence.elim (fun hf => Bool.false_ne_true (hf.symm.trans hw.1)) hw.2
  · rw [packetStep_of_not_turn hqueue hturn]
  · have hqueue : queueFull h s = true := by simp [queueFull, hop, hfull]
    refine ⟨_, congrArg _ (packetStep_of_queue_full hready hqueue), (bumpDamp_keeps ..).units _ rfl, ?_⟩
    exact bumpDamp_dampCount_self ..

/-! ### Turns (R38) -/

/-- The rings 1 to 31 in the order of the rotation after ring `last`. -/
def rotated (last i : Nat) : Nat := (last + i) % 31 + 1

/-- Where a ring stands in the rotation. -/
def placeOf (last n : Nat) : Nat := (n + 30 - last % 31) % 31

theorem placeOf_rotated (last : Nat) {i : Nat} (h : i < 31) : placeOf last (rotated last i) = i := by
  unfold placeOf rotated; omega

theorem rotated_placeOf (last : Nat) {n : Nat} (h1 : 1 ≤ n) (h31 : n ≤ 31) : rotated last (placeOf last n) = n := by
  unfold placeOf rotated; omega

theorem placeOf_lt (last n : Nat) : placeOf last n < 31 := Nat.mod_lt _ (by decide)

theorem rotated_bounds (last i : Nat) : 1 ≤ rotated last i ∧ rotated last i ≤ 31 := by unfold rotated; omega

/-- The first ready ring of the rotation. -/
def firstReady (ready : Nat → Bool) (last : Nat) : Option Nat := ((List.range 31).map (rotated last)).find? ready

theorem firstReady_eq_none_iff (ready : Nat → Bool) (last : Nat) :
    firstReady ready last = none ↔ ∀ n, 1 ≤ n → n ≤ 31 → ready n = false := by
  simp only [firstReady, List.find?_eq_none, List.mem_map, List.mem_range, Bool.not_eq_true]
  refine ⟨fun h n h1 h31 => h n ⟨placeOf last n, placeOf_lt .., rotated_placeOf last h1 h31⟩, ?_⟩
  rintro h _ ⟨i, -, rfl⟩
  exact h _ (rotated_bounds last i).1 (rotated_bounds last i).2

/-- A ready ring is the first exactly where no other ready ring stands before it. -/
theorem firstReady_eq_some_iff {ready : Nat → Bool} {last k : Nat} (h1 : 1 ≤ k) (h31 : k ≤ 31) (hk : ready k = true) :
    firstReady ready last = some k ↔ ∀ n, 1 ≤ n → n ≤ 31 → ready n = true → placeOf last k ≤ placeOf last n := by
  simp only [firstReady, List.find?_map, Option.map_eq_some_iff, List.find?_range_eq_some, Function.comp_apply, Bool.not_eq_true',
    List.mem_range]
  constructor
  · rintro ⟨i, ⟨-, hi, hbefore⟩, rfl⟩ n hn1 hn31 hn
    rw [placeOf_rotated last hi]
    refine Nat.not_lt.1 fun hlt => ?_
    have hno := hbefore _ hlt
    rw [rotated_placeOf last hn1 hn31, hn] at hno
    exact Bool.false_ne_true hno.symm
  · intro hleast
    refine ⟨placeOf last k, ⟨?_, placeOf_lt .., fun j hj => ?_⟩, rotated_placeOf last h1 h31⟩
    · rwa [rotated_placeOf last h1 h31]
    · refine Bool.eq_false_iff.2 fun hready => ?_
      have hle := hleast _ (rotated_bounds last j).1 (rotated_bounds last j).2 hready
      rw [placeOf_rotated last (Nat.lt_trans hj (placeOf_lt last k))] at hle
      exact Nat.not_le.2 hj hle

/-- The next turn: ring 0 after another ring, and the rotation after ring 0, each where it is ready. -/
theorem nextTurn_eq (ready : Nat → Bool) (s : State) :
    nextTurn ready s =
      if s.host.adminLast = true then
        (match firstReady ready s.host.lastRing with
          | some n => some n
          | none => if ready 0 = true then some 0 else none)
      else if ready 0 = true then some 0 else firstReady ready s.host.lastRing := rfl

/-- The rings that compete with ring `k` for the turn, and itself. -/
def readyWith (s : State) (k n : Nat) : Bool := n == k || waitingReady s n

theorem inTurn_iff (k : Nat) (s : State) : inTurn k s = true ↔ nextTurn (readyWith s k) s = some k := beq_iff_eq

theorem readyWith_self (s : State) (k : Nat) : readyWith s k k = true := by simp [readyWith]

theorem readyWith_of_ne (s : State) {k n : Nat} (h : n ≠ k) : readyWith s k n = waitingReady s n := by simp [readyWith, h]

theorem inTurn_admin_iff (s : State) :
    inTurn 0 s = true ↔ s.host.adminLast = false ∨ ∀ n, 1 ≤ n → n ≤ 31 → waitingReady s n = false := by
  have hothers : firstReady (readyWith s 0) s.host.lastRing = none ↔ ∀ n, 1 ≤ n → n ≤ 31 → waitingReady s n = false := by
    rw [firstReady_eq_none_iff]
    exact forall₃_congr fun n h1 _ => by rw [readyWith_of_ne s (Nat.ne_of_gt h1)]
  rw [inTurn_iff, nextTurn_eq, readyWith_self, if_pos rfl, if_pos rfl, ← hothers]
  cases hadmin : s.host.adminLast with
  | false => simp
  | true =>
    cases hfirst : firstReady (readyWith s 0) s.host.lastRing with
    | none => simp
    | some n =>
      have hready : n ≠ 0 := by
        obtain ⟨i, -, rfl⟩ := List.mem_map.1 (List.mem_of_find?_eq_some hfirst)
        exact Nat.ne_of_gt (rotated_bounds _ i).1
      simpa using hready

theorem inTurn_other_iff {k : Nat} (h1 : 1 ≤ k) (h31 : k ≤ 31) (s : State) :
    inTurn k s = true ↔ (s.host.adminLast = true ∨ waitingReady s 0 = false)
      ∧ ∀ n, 1 ≤ n → n ≤ 31 → waitingReady s n = true → placeOf s.host.lastRing k ≤ placeOf s.host.lastRing n := by
  have hfirst : firstReady (readyWith s k) s.host.lastRing = some k
      ↔ ∀ n, 1 ≤ n → n ≤ 31 → waitingReady s n = true → placeOf s.host.lastRing k ≤ placeOf s.host.lastRing n := by
    rw [firstReady_eq_some_iff h1 h31 (readyWith_self s k)]
    refine forall₃_congr fun n _ _ => ?_
    by_cases hn : n = k
    · simp [hn]
    · rw [readyWith_of_ne s hn]
  have hsome : firstReady (readyWith s k) s.host.lastRing ≠ none := fun hnone =>
    Bool.false_ne_true (((firstReady_eq_none_iff _ _).1 hnone k h1 h31).symm.trans (readyWith_self s k))
  rw [inTurn_iff, nextTurn_eq, readyWith_of_ne s (Nat.ne_of_lt h1), ← hfirst]
  cases hadmin : s.host.adminLast with
  | false => cases waitingReady s 0 <;> simp [Nat.ne_of_lt h1]
  | true =>
    obtain ⟨n, hn⟩ := Option.ne_none_iff_exists'.1 hsome
    simp [hn]

theorem ringsTakeTurns : RingsTakeTurns := fun ring s =>
  ⟨fun _ => inTurn_admin_iff s, fun hring => inTurn_other_iff
    (Nat.one_le_iff_ne_zero.2 fun h0 => hring (BitVec.eq_of_toNat_eq h0)) (Nat.le_of_lt_succ ring.isLt) s⟩

/-- Settles O10: a packet that is not ready, or out of its turn, ends `packetStep` at once, and the turn is the first ready ring of
the rotation. -/
theorem packetWaitsInItsRing : Obligations.PacketWaitsInItsRing :=
  ⟨unfetchedPacketsChangeNothing, ringsTakeTurns⟩

end Sys2Proof.Machine
end

section
/-! The packets that only report, and READ_COUNTERS (R48, R49, R65). -/
namespace Sys2Proof.Machine

/-! ### NOP, GET_STATUS and KNOT_READ -/

/-- An admitted packet whose meaning is a refusal gets that status, and nothing else. -/
theorem packet_turned {name : String} {op : Nat} {ring : BitVec 5} {pkt : List Word} {body : Tagged → State → State} {s : State}
    (h : Admitted op ring pkt s) {status : Nat} (hstatus : 0x10 ≤ status)
    (hbody : body (tagOf ring pkt) (taken ring pkt s) = answer (tagOf ring pkt) status 0 0 (taken ring pkt s)) :
    ∃ t, packet name (packetWf op pkt) ring.toNat pkt body s = .next t ∧ Turned status ring pkt s t :=
  ⟨_, (packet_of_admitted h).trans (congrArg _ hbody), turned_answer (packetWf_length h.1) hstatus⟩

/-- An admitted packet whose meaning is ST_OK with a DETAIL gets that reply, and nothing else. -/
theorem packet_reports {name : String} {op : Nat} {ring : BitVec 5} {pkt : List Word} {body : Tagged → State → State} {s : State}
    (h : Admitted op ring pkt s) {detail : Word}
    (hbody : body (tagOf ring pkt) (taken ring pkt s) = answer (tagOf ring pkt) 0 0 detail (taken ring pkt s)) :
    ∃ t, packet name (packetWf op pkt) ring.toNat pkt body s = .next t ∧ OnlyAnswers 0 0 detail false ring pkt s t :=
  ⟨_, (packet_of_admitted h).trans (congrArg _ hbody), onlyAnswers_answer (packetWf_length h.1) 0 0 detail⟩

/-- Taking a packet changes the host interface and the recorder alone. -/
theorem taken_eq (ring : BitVec 5) (pkt : List Word) (s : State) :
    ∃ host rec, taken ring pkt s = { s with host := host, rec_ := rec } := by
  have h := taken_keeps ring pkt s
  generalize taken ring pkt s = t at h
  obtain ⟨hpending, hpart, -, htime, hpins, hboot, hdev, -, himg, hpools, hwest, heast, hseq, hmem, hintake, hout, htally, hlink,
    -, hfree⟩ := h
  cases t
  cases hpending; cases hpart; cases htime rfl; cases hpins rfl; cases hboot rfl; cases hdev rfl; cases himg rfl
  cases hpools rfl; cases hwest rfl; cases heast rfl; cases hseq rfl; cases hmem rfl; cases hintake rfl; cases hout rfl
  cases htally rfl; cases hlink rfl; cases hfree rfl
  exact ⟨_, _, rfl⟩

theorem taken_knot (ring : BitVec 5) (pkt : List Word) (s : State) (k : Nat) : (taken ring pkt s).knot k = s.knot k :=
  congrArg (fun q : Seq => Tab.get 0 q.knots k) (taken_seq ring pkt s)

theorem knotRead_taken (ring : BitVec 5) (pkt : List Word) (t : Tagged) (s : State) :
    knotRead pkt t (taken ring pkt s) =
      if s.img.byte 5 ((pkt.getD 1 0).toNat % 2 ^ 14) ≠ t.hoop + 1 ∧ s.img.byte 5 ((pkt.getD 1 0).toNat % 2 ^ 14) ≠ 17 then
        answer t stBadParam 0 0 (taken ring pkt s)
      else answer t stOk 0 ((s.knot ((pkt.getD 1 0).toNat % 2 ^ 14)).setWidth 64) (taken ring pkt s) := by
  unfold knotRead
  rw [fld_low, taken_img]
  dsimp only
  rw [taken_knot]

theorem packetsThatOnlyReport : PacketsThatOnlyReport := by
  intro ring pkt s
  refine ⟨fun hwf hf he => ?_, fun h => ?_, fun h => ⟨fun hother => ?_, fun hmine => ?_⟩⟩
  · exact ⟨_, packet_admitted hwf hf he, onlyAnswers_answer (nopWf_length hwf) 0 0 0⟩
  · exact packet_reports h (congrArg (answer _ 0 0 · _) (taken_hstStatus ..))
  · exact packet_turned h (by decide) ((knotRead_taken ..).trans (if_pos (not_or.1 hother)))
  · exact packet_reports h ((knotRead_taken ..).trans (if_neg fun hno => hmine.elim hno.1 hno.2))

/-! ### READ_COUNTERS -/

theorem taken_counterBlock (ring : BitVec 5) (pkt : List Word) (s : State) (n : Nat) :
    (taken ring pkt s).counterBlock n = s.counterBlock n := by
  obtain ⟨host, rec, heq⟩ := taken_eq ring pkt s
  have hhalf := taken_half ring pkt s
  have hchan (c : Nat) : (taken ring pkt s).chan c = s.chan c := by rw [heq]; rfl
  rw [heq] at hhalf hchan ⊢
  simp only [State.counterBlock, State.hearth, State.port, State.dec, State.klink, hhalf, hchan]

theorem blockBytes_length (b : Tab Nat) : (blockBytes b).length = 64 := wordsBytes_length _

theorem readCounters_of_no_block {pkt : List Word} {s : State} (h : s.counterBlock ((pkt.getD 1 0).toNat % 256) = none)
    (t : Tagged) : readCounters pkt t s = answer t stBadParam 0 0 s := by
  have hblock : s.counterBlock (fld (pkt.getD 1 0) 7 0) = none := (congrArg _ (fld_low ..)).trans h
  simp only [readCounters, hblock]

theorem readCounters_of_block {pkt : List Word} {s : State} {b : Tab Nat}
    (h : s.counterBlock ((pkt.getD 1 0).toNat % 256) = some b) (t : Tagged) :
    readCounters pkt t s = if (pkt.getD 2 0).toNat % 64 ≠ 0 then answer t stBadParam 0 0 s
      else replyFinal t stOk 0 0 (hostWrite (pkt.getD 2 0).toNat (blockBytes b) (accept t 0 s)) := by
  have hblock : s.counterBlock (fld (pkt.getD 1 0) 7 0) = some b := (congrArg _ (fld_low ..)).trans h
  have hfld : fld (pkt.getD 2 0) 5 0 = (pkt.getD 2 0).toNat % 64 := fld_low ..
  simp only [readCounters, hblock, hfld]

/-- READ_COUNTERS of a block that the map does not name, or with a DEST off its alignment. -/
theorem readCounters_turned {ring : BitVec 5} {pkt : List Word} {s : State} (h : Admitted 0x02 ring pkt s)
    (hbad : s.counterBlock ((pkt.getD 1 0).toNat % 256) = none ∨ (pkt.getD 2 0).toNat % 64 ≠ 0) :
    ∃ t, exec (.readCounters ring pkt) s = .next t ∧ Turned 0x0013 ring pkt s t := by
  refine packet_turned h (by decide) ?_
  have htaken := taken_counterBlock ring pkt s
  cases hblock : s.counterBlock ((pkt.getD 1 0).toNat % 256) with
  | none => exact readCounters_of_no_block ((htaken _).trans hblock) _
  | some b =>
    have hdest := hbad.resolve_left (by rw [hblock]; exact Option.some_ne_none b)
    exact (readCounters_of_block ((htaken _).trans hblock) _).trans (if_pos hdest)

/-- READ_COUNTERS of a block that the map names: the state it leaves. -/
theorem readCounters_writes {ring : BitVec 5} {pkt : List Word} {s : State} (h : Admitted 0x02 ring pkt s) {b : Tab Nat}
    (hb : s.counterBlock ((pkt.getD 1 0).toNat % 256) = some b) (hdest : (pkt.getD 2 0).toNat % 64 = 0) :
    exec (.readCounters ring pkt) s = .next (replyFinal (tagOf ring pkt) 0 0 0
      (hostWrite (pkt.getD 2 0).toNat (blockBytes b) (accepted ring pkt 0 s))) :=
  (packet_of_admitted h).trans (congrArg _ ((readCounters_of_block ((taken_counterBlock ..).trans hb) _).trans
    (if_neg (not_not.2 hdest))))

/-- READ_COUNTERS meets the statement O11 makes of it where DEST and the final reply's slot lie apart from the ring's words of the
status block. -/
theorem countersAreReadApart {ring : BitVec 5} {pkt : List Word} {s : State} (h : Admitted 0x02 ring pkt s) {b : Tab Nat}
    (hb : s.counterBlock ((pkt.getD 1 0).toNat % 256) = some b) (hdest : (pkt.getD 2 0).toNat % 64 = 0) :
    ∃ t, exec (.readCounters ring pkt) s = .next t ∧ OnlyUnits [.host, .recorder] s t ∧ Sys2Proof.Answered ring pkt 2 0 false s t
      ∧ HostKept ring s t ∧ (s.rec_.mode = .off → t.rec_ = s.rec_)
      ∧ (s.host.mem.wf = true → TwoReplies ring pkt 0 0 0 0 (pkt.getD 2 0).toNat (blockBytes b) s t
        ∧ (ApartRange (ringStatus ring s) 16 (pkt.getD 2 0).toNat 64 → ApartRange (ringStatus ring s) 16 (replySlot ring 1 s) 32 →
          RingCopied ring s t)) := by
  have hlast : Keeps 0x10 (taken ring pkt s) (replyFinal (tagOf ring pkt) 0 0 0
      (hostWrite (pkt.getD 2 0).toNat (blockBytes b) (accepted ring pkt 0 s))) :=
    (accept_keeps ..).trans ((hostWrite_keeps ..).trans (replyFinal_keeps ..))
  refine ⟨_, readCounters_writes h hb hdest, ((taken_keeps ring pkt s).trans hlast.up).units _ rfl,
    answered_final (packetWf_length h.1) (fun _ => hostWrite_ring ..) 0 0 0, RingsAndMem.kept (taken_hostKept ring pkt s) ?_,
    fun hoff => (hlast.rec_ rfl).trans (taken_rec_off hoff ring pkt), fun hwf => ⟨twoReplies_final hwf 0 0 0 0 _ _,
    fun hd hslot => ringCopied_final hwf 0 0 0 0 (by rwa [blockBytes_length]) hslot⟩⟩
  exact (accept_ringsAndMem ..).trans ((hostWrite_ringsAndMem ..).trans (replyFinal_ringsAndMem ..))

/-! ### READ_COUNTERS over the ring's words of the status block -/

/-- READ_COUNTERS of block 0x10 into the ring 0 words of the status block of the tests' state in BANKED. -/
def readOverStatus : List Word := Tests.pk 2 0 0 1 [0x10, 0x1040]

theorem readOverStatus_admitted : Admitted 0x02 0 readOverStatus Tests.up :=
  Tests.admitted_of_ok0 (by decide +kernel)

/-- The counters lie over the ring's head, which no later write of the packet copies again. -/
theorem readOverStatus_result : ∃ t, exec (.readCounters 0 readOverStatus) Tests.up = .next t
    ∧ t.host.mem.readN 0x1040 8 = toLE 8 0 ∧ (t.ring 0).head = 3 := by
  have hb : Tests.up.counterBlock 0x10 = some [] := by decide +kernel
  exact ⟨_, readCounters_writes readOverStatus_admitted hb rfl, by decide +kernel, by decide +kernel⟩

theorem not_countersAreReadToHostMemory : ¬CountersAreReadToHostMemory := by
  intro h
  obtain ⟨t, hexec, hread, hhead⟩ := readOverStatus_result
  obtain ⟨u, hexec', -, -, -, -, hcopied⟩ := (h 0 readOverStatus Tests.up readOverStatus_admitted).2 [] (by decide +kernel) rfl
  cases hexec.symm.trans hexec'
  have hcopy : t.host.mem.readN 0x1040 16 = toLE 8 (t.ring 0).head.toNat ++ toLE 8 (t.ring 0).tail.toNat :=
    (hcopied (by decide +kernel)).1
  rw [show (16 : Nat) = 8 + 8 from rfl, Store.readN_add, hread, hhead] at hcopy
  exact absurd (List.append_inj_left hcopy (by decide)) (by decide)

/-- Refutes O11: a DEST over the ring's own words of the status block, which the model permits, leaves counters there and not the
ring's head, so the status block is no copy of the ring's counts. The parts that hold are `packetsThatOnlyReport`,
`readCounters_turned` and `countersAreReadApart`. -/
theorem not_packetsThatReport : ¬ Obligations.PacketsThatReport := fun h => not_countersAreReadToHostMemory h.2

end Sys2Proof.Machine
end

section
/-! SET_TIME at the PPS edge and without one (R50, R408; log 43). -/
namespace Sys2Proof.Machine

theorem advanceTo_of_lt {hp : Nat} {s : State} (h : s.time.hp < hp) :
    advanceTo hp s = { s with time := { s.time.addPeriods (hp / 2 - s.time.hp / 2) with hp := hp } } :=
  if_neg (Nat.not_le.2 h)

theorem advanceTo_hp (hp : Nat) (s : State) : (advanceTo hp s).time.hp = max s.time.hp hp := by
  unfold advanceTo
  split
  · next h => exact (Nat.max_eq_left h).symm
  · next h => exact (Nat.max_eq_right (Nat.le_of_not_le h)).symm

theorem advanceTo_slew (hp : Nat) (s : State) : (advanceTo hp s).time.slew = s.time.slew := by
  unfold advanceTo; split <;> rfl

theorem advanceTo_ring (hp : Nat) (s : State) (n : Nat) : (advanceTo hp s).ring n = s.ring n :=
  ring_of_rings (congrArg HostIf.rings ((advanceTo_keeps ..).host rfl)) n

/-! ### The final reply of a SET_TIME -/

theorem timeReply_time (a : SetTime) (status : Nat) (eff : Word) (s : State) : (timeReply a status eff s).time = s.time :=
  (timeReply_keeps ..).time rfl

theorem timeReply_ring_self (a : SetTime) (status : Nat) (eff : Word) (s : State) :
    (timeReply a status eff s).ring a.ring =
      { s.ring a.ring with tail := (s.ring a.ring).tail + 1, outstanding := (s.ring a.ring).outstanding - 1 } :=
  (replyFinal_ring ..).trans (if_pos rfl)

/-! ### One SET_TIME at its edge -/

theorem applySetTime_time (a : SetTime) (s : State) :
    (applySetTime a s).time =
      if a.load.toNat < s.time.ts.toNat then s.time
      else { s.time with ts := if a.load = BitVec.allOnes 64 then s.time.ts else a.load, slew := a.slew, slewAcc := 0 } := by
  unfold applySetTime
  dsimp only [State.now]
  split <;> rw [timeReply_time]

theorem applySetTime_ring_self (a : SetTime) (s : State) :
    (applySetTime a s).ring a.ring =
      { s.ring a.ring with tail := (s.ring a.ring).tail + 1, outstanding := (s.ring a.ring).outstanding - 1 } := by
  unfold applySetTime
  dsimp only
  split <;> exact timeReply_ring_self ..

/-- Of the time base only timestamp and slew differ. -/
def ClockKept (s t : State) : Prop :=
  t.time = { s.time with ts := t.time.ts, slew := t.time.slew, slewAcc := t.time.slewAcc }

theorem ClockKept.trans {s t u : State} (h : ClockKept s t) (k : ClockKept t u) : ClockKept s u := by
  unfold ClockKept at *; rw [k, h]

theorem applySetTime_clockKept (a : SetTime) (s : State) : ClockKept s (applySetTime a s) := by
  unfold ClockKept; rw [applySetTime_time]; split <;> rfl

theorem forEach_applySetTime_clockKept (l : List SetTime) (s : State) : ClockKept s (forEach l applySetTime s) := by
  induction l generalizing s with
  | nil => rfl
  | cons a l ih => exact (applySetTime_clockKept a s).trans (ih _)

/-! ### The edge -/

/-- The state in which the armed SET_TIME packets act: the next rising edge of PACECLK, with none armed. -/
def atEdge (s : State) : State :=
  { s with time := { s.time.addPeriods 1 with hp := (s.time.hp / 2 + 1) * 2, armed := [] } }

theorem ppsEdge_of_armed {s : State} (h : s.time.armed ≠ []) : ppsEdge s = forEach s.time.armed applySetTime (atEdge s) := by
  have hperiod : (s.time.hp / 2 + 1) * 2 / 2 - s.time.hp / 2 = 1 := by omega
  have hadvance := advanceTo_of_lt (s := s) (hp := (s.time.hp / 2 + 1) * 2) (by omega)
  rw [hperiod] at hadvance
  unfold ppsEdge
  split
  · next hnil => exact absurd hnil h
  · dsimp only [State.hp]
    rw [hadvance]
    rfl

theorem armedTimesAct {s : State} (h : s.time.armed ≠ []) :
    ∃ t, exec .ppsInEdge s = .next t ∧ OnlyUnits [.time, .host] s t ∧ t.time.armed = []
      ∧ t.time.hp = (s.time.hp / 2 + 1) * 2 ∧ t.time.tickHp = s.time.tickHp ∧ t.time.nextTick = s.time.nextTick
      ∧ ∀ a, s.time.armed = [a] →
        let now := (s.time.addPeriods 1).ts
        (t.ring a.ring).outstanding = (s.ring a.ring).outstanding - 1 ∧ (t.ring a.ring).tail = (s.ring a.ring).tail + 1
        ∧ (a.load.toNat < now.toNat → t.time.ts = now ∧ t.time.slew = s.time.slew)
        ∧ (now.toNat ≤ a.load.toNat → t.time.slew = a.slew
            ∧ t.time.ts = if a.load = BitVec.allOnes 64 then now else a.load) := by
  have hkept := forEach_applySetTime_clockKept s.time.armed (atEdge s)
  unfold ClockKept at hkept
  refine ⟨ppsEdge s, rfl, (ppsEdge_keeps s).units _ rfl, ?_⟩
  rw [ppsEdge_of_armed h]
  refine ⟨by rw [hkept]; rfl, by rw [hkept]; rfl, by rw [hkept]; rfl, by rw [hkept]; rfl, fun a ha => ?_⟩
  have hone : forEach s.time.armed applySetTime (atEdge s) = applySetTime a (atEdge s) := by rw [ha]; rfl
  have hring := applySetTime_ring_self a (atEdge s)
  have htime := applySetTime_time a (atEdge s)
  have hnow : (atEdge s).time.ts = (s.time.addPeriods 1).ts := rfl
  rw [hnow] at htime
  rw [hone]
  refine ⟨by rw [hring]; rfl, by rw [hring]; rfl, fun hlt => ?_, fun hle => ?_⟩
  · rw [htime, if_pos hlt]; exact ⟨rfl, rfl⟩
  · rw [htime, if_neg (Nat.not_lt.2 hle)]; exact ⟨rfl, rfl⟩

/-! ### No edge within 2 s -/

/-- The oldest armed SET_TIME gives up when its wait has passed. -/
def giveUp (a : SetTime) (rest : List SetTime) (due : Nat) (s : State) : State :=
  timeReply a stNoPps 0 { advanceTo due s with time := { (advanceTo due s).time with armed := rest } }

theorem noPps_of_armed {s : State} {a : SetTime} {rest : List SetTime} (h : s.time.armed = a :: rest) :
    noPps s = giveUp a rest (a.since + usHp 2000000) s := by
  unfold noPps giveUp
  rw [h]

theorem giveUp_time (a : SetTime) (rest : List SetTime) (due : Nat) (s : State) :
    (giveUp a rest due s).time.armed = rest ∧ (giveUp a rest due s).time.hp = max s.time.hp due
      ∧ (giveUp a rest due s).time.slew = s.time.slew := by
  unfold giveUp
  rw [timeReply_time]
  exact ⟨rfl, advanceTo_hp due s, advanceTo_slew due s⟩

theorem giveUp_ring_self (a : SetTime) (rest : List SetTime) (due : Nat) (s : State) :
    (giveUp a rest due s).ring a.ring =
      { s.ring a.ring with tail := (s.ring a.ring).tail + 1, outstanding := (s.ring a.ring).outstanding - 1 } := by
  rw [← advanceTo_ring due s a.ring]; exact timeReply_ring_self ..

theorem oldestTimeGivesUp {s : State} {a : SetTime} {rest : List SetTime} (h : s.time.armed = a :: rest) :
    ∃ t, exec .setTimeNoPps s = .next t ∧ OnlyUnits [.time, .host] s t ∧ t.time.armed = rest
      ∧ t.time.hp = max s.time.hp (a.since + usHp 2000000) ∧ t.time.slew = s.time.slew
      ∧ (t.ring a.ring).outstanding = (s.ring a.ring).outstanding - 1 ∧ (t.ring a.ring).tail = (s.ring a.ring).tail + 1 := by
  have hkeeps := noPps_keeps s
  obtain ⟨harmed, hhp, hslew⟩ := giveUp_time a rest (a.since + usHp 2000000) s
  have hring := giveUp_ring_self a rest (a.since + usHp 2000000) s
  rw [← noPps_of_armed h] at harmed hhp hslew hring
  exact ⟨noPps s, rfl, hkeeps.units _ rfl, harmed, hhp, hslew, by rw [hring], by rw [hring]⟩

/-- Settles O53: the edge is one PACECLK period at which each armed packet acts in turn; without one the oldest gets its reply. -/
theorem timeIsSetAtTheEdge : Obligations.TimeIsSetAtTheEdge := by
  intro s
  refine ⟨fun hnone => ?_, armedTimesAct, fun a rest h => oldestTimeGivesUp h⟩
  have hedge : ppsEdge s = s := by unfold ppsEdge; rw [hnone]
  have hno : noPps s = s := by unfold noPps; rw [hnone]
  exact ⟨congrArg _ hedge, congrArg _ hno⟩

end Sys2Proof.Machine
end

section
/-! OPEN_OUTPUTS, CLOSE_OUTPUTS and RESET_HALF (R51, R301, R303, R311, R385; logs 41 and 47). -/
namespace Sys2Proof.Machine

/-! ### A change of the device's state (R311) -/

theorem postEvent_of_full {s : State} (h : s.host.event.full = true) (code ctx hoop : Nat) (eff detail : Word) :
    postEvent code ctx hoop eff detail s = { s with host := { s.host with evrLost := satAdd 0xFFFFFFFF s.host.evrLost 1 } } :=
  if_pos h

/-- An event that finds room is written, counted in the ring's tail, and the tail copied. -/
theorem postEvent_of_room {s : State} (h : ¬s.host.event.full = true) (code ctx hoop : Nat) (eff detail : Word) :
    ∃ a bs, postEvent code ctx hoop eff detail s = statusWord 0x10 (s.host.event.tail + 1).toNat
      { hostWrite a bs s with
        host := { (hostWrite a bs s).host with event := { s.host.event with tail := s.host.event.tail + 1 } } } := by
  unfold postEvent
  dsimp only
  rw [if_neg h]
  exact ⟨_, _, rfl⟩

theorem postEvent_rings (code ctx hoop : Nat) (eff detail : Word) (s : State) :
    (postEvent code ctx hoop eff detail s).host.rings = s.host.rings := by
  by_cases h : s.host.event.full = true
  · rw [postEvent_of_full h]
  · obtain ⟨a, bs, heq⟩ := postEvent_of_room h code ctx hoop eff detail
    rw [heq, statusWord_host_rings, hostWrite_host_rings]

theorem postEvent_tail (code ctx hoop : Nat) (eff detail : Word) (s : State) :
    (postEvent code ctx hoop eff detail s).host.event.tail =
      if s.host.event.full = true then s.host.event.tail else s.host.event.tail + 1 := by
  by_cases h : s.host.event.full = true
  · rw [postEvent_of_full h, if_pos h]
  · obtain ⟨a, bs, heq⟩ := postEvent_of_room h code ctx hoop eff detail
    rw [heq, if_neg h, statusWord_host_event]

theorem setDevState_ring (st : DevState) (s : State) (n : Nat) : (setDevState st s).ring n = s.ring n := by
  refine ring_of_rings ?_ n
  rw [setDevState, statusCopy_host_rings, postEvent_rings]

theorem setDevState_tail (st : DevState) (s : State) :
    (setDevState st s).host.event.tail = if s.host.event.full = true then s.host.event.tail else s.host.event.tail + 1 := by
  rw [setDevState, statusCopy_host_event, postEvent_tail]

/-- Only the way into QUENCHED sets `fromBanked`. -/
theorem setDevState_dev {st : DevState} (h : (st == .quenched) = false) (s : State) :
    (setDevState st s).dev = { s.dev with st := st } := by
  have hkeeps : Keeps 0x10 _ (setDevState st s) := (postEvent_keeps ..).trans (statusCopy_keeps _)
  rw [hkeeps.dev rfl, h]
  rfl

/-! ### OPEN_OUTPUTS and CLOSE_OUTPUTS -/

/-- The state after an output command that is granted: the switch, the device's new state with its event, the reply. -/
def outputsSet (ring : BitVec 5) (pkt : List Word) (isOpen : Bool) (st : DevState) (s : State) : State :=
  answer (tagOf ring pkt) stOk 0 0
    (setDevState st { taken ring pkt s with dev := { (taken ring pkt s).dev with outputsOpen := isOpen } })

theorem outputsSet_answered {ring : BitVec 5} {pkt : List Word} (hlen : (headOf pkt).length = pkt.length) (isOpen : Bool)
    (st : DevState) (s : State) : Sys2Proof.Answered ring pkt 1 0 false s (outputsSet ring pkt isOpen st s) := by
  have hring (n : Nat) : (setDevState st { taken ring pkt s with dev := { (taken ring pkt s).dev with outputsOpen := isOpen } }).ring n
      = (taken ring pkt s).ring n := setDevState_ring ..
  exact answered_answer hlen hring stOk 0 0

theorem outputsSet_units (ring : BitVec 5) (pkt : List Word) (isOpen : Bool) (st : DevState) (s : State) :
    OnlyUnits [.dev, .host, .recorder] s (outputsSet ring pkt isOpen st s) := by
  have hdev : Keeps 0x8018 (taken ring pkt s) { taken ring pkt s with dev := { (taken ring pkt s).dev with outputsOpen := isOpen } } :=
    Keeps.setDev (.refl _) id
  exact (((taken_keeps ring pkt s).up.trans hdev).trans ((setDevState_keeps ..).up.trans (answer_keeps ..).up)).units _ rfl

theorem outputsSet_dev {st : DevState} (h : (st == .quenched) = false) (ring : BitVec 5) (pkt : List Word) (isOpen : Bool)
    (s : State) : (outputsSet ring pkt isOpen st s).dev = { s.dev with outputsOpen := isOpen, st := st } := by
  rw [outputsSet, (answer_keeps ..).dev rfl, setDevState_dev h, taken_dev]

theorem outputsSet_tail (ring : BitVec 5) (pkt : List Word) (isOpen : Bool) (st : DevState) (s : State) :
    (outputsSet ring pkt isOpen st s).host.event.tail =
      if s.host.event.full = true then s.host.event.tail else s.host.event.tail + 1 := by
  have hevent : (taken ring pkt s).host.event = s.host.event := by rw [taken_hostKept]
  rw [outputsSet, answer_ringsAndMem]
  dsimp only
  rw [setDevState_tail, hevent]

theorem taken_openState (ring : BitVec 5) (pkt : List Word) (s : State) : (taken ring pkt s).openState = s.openState := by
  unfold State.openState; rw [taken_west, taken_east]

theorem openState_eq (s : State) : s.openState =
    if s.west.inService = true ∧ s.east.inService = true ∧ s.west.mainOut = false ∧ s.east.mainOut = false then .drawing
    else .damped := by
  unfold State.openState
  simp only [Bool.and_eq_true, Bool.not_eq_true', and_assoc]

theorem openState_not_quenched (s : State) : (s.openState == .quenched) = false := by
  unfold State.openState; split <;> rfl

theorem openOutputs_taken (ring : BitVec 5) (pkt : List Word) (s : State) :
    openOutputs (tagOf ring pkt) (taken ring pkt s) =
      if s.dev.imageValid = false then answer (tagOf ring pkt) stNoImage 0 0 (taken ring pkt s)
      else if s.img.confirmed = false then answer (tagOf ring pkt) stAgreePending 0 0 (taken ring pkt s)
      else outputsSet ring pkt true s.openState s := by
  unfold openOutputs outputsSet
  simp only [Bool.not_eq_true', taken_dev, taken_img, taken_openState]

theorem outputsOpenAndClose : OutputsOpenAndClose := by
  intro ring pkt s
  refine ⟨fun h => ⟨fun himage => ?_, fun himage hconf => ?_, fun himage hconf => ?_⟩, fun h => ?_⟩
  · exact packet_turned h (by decide) ((openOutputs_taken ..).trans (if_pos himage))
  · refine packet_turned h (by decide) ?_
    rw [openOutputs_taken, if_neg (by rw [himage]; decide), if_pos hconf]; rfl
  · refine ⟨outputsSet ring pkt true s.openState s, (packet_of_admitted h).trans (congrArg _ ?_), outputsSet_units ..,
      outputsSet_answered (packetWf_length h.1) .., ?_, outputsSet_tail ..⟩
    · rw [openOutputs_taken, if_neg (by rw [himage]; decide), if_neg (by rw [hconf]; decide)]
    · rw [outputsSet_dev (openState_not_quenched s), openState_eq]
  · have hdev := outputsSet_dev (st := .banked) rfl ring pkt false s
    have hgate (k : Half) : (outputsSet ring pkt false .banked s).gateOpen k = false := by
      unfold State.gateOpen State.keysState; rw [hdev]; rfl
    exact ⟨outputsSet ring pkt false .banked s, packet_of_admitted h, outputsSet_units .., outputsSet_answered (packetWf_length h.1) ..,
      hdev, by unfold State.harmless; rw [hdev]; rfl, hgate .west, hgate .east⟩

/-! ### RESET_HALF -/

/-- A half that is under reset or out of service. -/
theorem cannotServe_iff (u : HalfUnit) : (u.underReset || !u.inService) = true ↔ u.reset ≠ .none ∨ u.inService = false := by
  unfold HalfUnit.underReset
  simp

/-- What RESET_HALF asks of its half (R385; log 41). -/
def askReset (t : Tagged) (hp : Nat) (u : HalfUnit) : HalfUnit :=
  if u.reset ≠ .none then { u with resetOwed := u.resetOwed ++ [(t.ring, t.tag)], autoResets := [] }
  else { u with resetOwed := u.resetOwed ++ [(t.ring, t.tag)], resetAsked := true, resetSince := hp, autoResets := [] }

theorem tagOf_tag (ring : BitVec 5) (pkt : List Word) : (tagOf ring pkt).tag = (headOf pkt).tag := rfl

theorem updHalf_askReset (h : Half) (t : Tagged) (hp : Nat) (s : State) :
    updHalf h (askReset t hp) s =
      if (s.half h).underReset = true then
        updHalf h (fun u => { u with resetOwed := u.resetOwed ++ [(t.ring, t.tag)], autoResets := [] }) s
      else updHalf h (fun u => { u with
        resetOwed := u.resetOwed ++ [(t.ring, t.tag)], resetAsked := true, resetSince := hp, autoResets := [] }) s := by
  cases h <;> simp only [updHalf, askReset, State.half, HalfUnit.underReset, bne_iff_ne] <;> split <;> rfl

theorem accepted_half (ring : BitVec 5) (pkt : List Word) (first : Word) (s : State) (h : Half) :
    (accepted ring pkt first s).half h = s.half h := by
  have hkeeps : Keeps 0x10 (taken ring pkt s) (accepted ring pkt first s) := accept_keeps ..
  rw [← taken_half ring pkt s h]
  cases h
  · exact hkeeps.west rfl
  · exact hkeeps.east rfl

theorem accepted_time (ring : BitVec 5) (pkt : List Word) (first : Word) (s : State) :
    (accepted ring pkt first s).time = s.time := ((accept_keeps ..).time rfl).trans (taken_time ..)

theorem accepted_hostKept (ring : BitVec 5) (pkt : List Word) (first : Word) (s : State) :
    HostKept ring s (accepted ring pkt first s) := RingsAndMem.kept (taken_hostKept ring pkt s) (accept_ringsAndMem ..)

theorem hostKept_of_host {ring : BitVec 5} {s t u : State} (h : HostKept ring s t) (hu : u.host = t.host) : HostKept ring s u := by
  unfold HostKept; rw [hu]; exact h

theorem resetHalf_taken {ring : BitVec 5} {pkt : List Word} {s : State} {h : Half}
    (hh : h = Half.sel ((pkt.getD 1 0).toNat % 2)) :
    resetHalf pkt (tagOf ring pkt) (taken ring pkt s) =
      if (s.half h.other).reset ≠ .none ∨ (s.half h.other).inService = false then
        replyFinal (tagOf ring pkt) stHalfDown 0 0 (accepted ring pkt 0 s)
      else updHalf h (askReset (tagOf ring pkt) s.time.hp) (accepted ring pkt 0 s) := by
  have hsel : Half.sel (fld (pkt.getD 1 0) 0 0) = h := (congrArg Half.sel (fld_low ..)).trans hh.symm
  have hp : (accepted ring pkt 0 s).hp = s.time.hp := congrArg Time.hp (accepted_time ..)
  unfold resetHalf
  dsimp only
  rw [hsel, ← accepted_eq, taken_half, hp, updHalf_askReset]
  exact ite_congr (propext (cannotServe_iff _)) (fun _ => rfl) fun _ => rfl

theorem hostWrite_nil (a : Nat) (s : State) : hostWrite a [] s = s := rfl

/-- A packet that is accepted and ends at once, and does nothing else. -/
theorem acceptedAndEnded_final {ring : BitVec 5} {pkt : List Word} {s : State} (hlen : (headOf pkt).length = pkt.length)
    (first : Word) (status : Nat) (eff detail : Word) :
    AcceptedAndEnded first status eff detail ring pkt s
      (replyFinal (tagOf ring pkt) status eff detail (accepted ring pkt first s)) := by
  have hlast : Keeps 0x10 (taken ring pkt s) (replyFinal (tagOf ring pkt) status eff detail (accepted ring pkt first s)) :=
    (accept_keeps ..).trans (replyFinal_keeps ..)
  refine ⟨((taken_keeps ring pkt s).trans hlast.up).units _ rfl,
    answered_final (u := accepted ring pkt first s) hlen (fun _ => rfl) status eff detail,
    RingsAndMem.kept (accepted_hostKept ..) (replyFinal_ringsAndMem ..),
    fun hoff => (hlast.rec_ rfl).trans (taken_rec_off hoff ring pkt), fun hwf => ?_⟩
  have htwo := twoReplies_final (ring := ring) (pkt := pkt) hwf first status eff detail 0 []
  rwa [hostWrite_nil] at htwo

theorem halfResetIsAsked : HalfResetIsAsked := by
  intro ring pkt s hadm h
  have hh : h = Half.sel ((pkt.getD 1 0).toNat % 2) := rfl
  clear_value h
  refine ⟨fun hdown => ?_, fun hreset hserves => ?_⟩
  · refine ⟨_, (packet_of_admitted hadm).trans (congrArg _ ((resetHalf_taken hh).trans (if_pos hdown))),
      acceptedAndEnded_final (packetWf_length hadm.1) ..⟩
  · have hup : ¬((s.half h.other).reset ≠ .none ∨ (s.half h.other).inService = false) := by rw [hreset, hserves]; decide
    have hkeeps : Keeps 0x8190 s (resetHalf pkt (tagOf ring pkt) (taken ring pkt s)) :=
      (taken_keeps ring pkt s).up.trans (resetHalf_keeps ..).up
    rw [resetHalf_taken hh, if_neg hup] at hkeeps
    refine ⟨_, (packet_of_admitted hadm).trans (congrArg _ ((resetHalf_taken hh).trans (if_neg hup))), hkeeps.units _ rfl,
      answered_accept (packetWf_length hadm.1) 0 fun n => ring_of_rings (by rw [updHalf_host]) n,
      hostKept_of_host (accepted_hostKept ring pkt 0 s) (updHalf_host ..), (updHalf_other ..).trans (accepted_half ..), ?_⟩
    simp only [updHalf_self, accepted_half, askReset, tagOf_ring, tagOf_tag]

/-- Settles O12: what a granted output command sets is `outputsSet`, and what RESET_HALF asks of its half is `askReset`. -/
theorem outputsAndHalfResetsAreAsked : Obligations.OutputsAndHalfResetsAreAsked := ⟨outputsOpenAndClose, halfResetIsAsked⟩

end Sys2Proof.Machine
end

section
/-! START_JOB and CANCEL_JOB: the queues of jobs, admission and cancelling (R52, R57, R60, R61, R262, R411). -/
namespace Sys2Proof.Machine

/-! ### Words and tables that a job's packet reads -/

theorem tagOf_hoop (ring : BitVec 5) (pkt : List Word) : (tagOf ring pkt).hoop = (headOf pkt).hoop := rfl
theorem tagOf_ctx (ring : BitVec 5) (pkt : List Word) : (tagOf ring pkt).ctx = (headOf pkt).ctx := rfl

section
variable {s t : State}

theorem prickOff_congr (h : t.img = s.img) (n : Nat) : t.prickOff n = s.prickOff n := by unfold State.prickOff; rw [h]

theorem prick_congr (h : t.img = s.img) (n : Nat) : t.prick n = s.prick n := by
  unfold State.prick; rw [prickOff_congr h, h]

theorem hoopEntry_congr (h : t.img = s.img) (n : Nat) : t.hoopEntry n = s.hoopEntry n := by unfold State.hoopEntry; rw [h]

theorem hoop_of_hoops (h : t.seq.hoops = s.seq.hoops) (n : Nat) : t.hoop n = s.hoop n := by unfold State.hoop; rw [h]

theorem place_of_places (h : t.seq.places = s.seq.places) (l : Nat) : t.place l = s.place l := by unfold State.place; rw [h]

end

theorem taken_hoop (ring : BitVec 5) (pkt : List Word) (s : State) (n : Nat) : (taken ring pkt s).hoop n = s.hoop n :=
  hoop_of_hoops (congrArg Seq.hoops (taken_seq ..)) n

theorem accepted_seq (ring : BitVec 5) (pkt : List Word) (first : Word) (s : State) : (accepted ring pkt first s).seq = s.seq :=
  ((accept_keeps ..).seq rfl).trans (taken_seq ..)

/-! ### The half of a packet that is not device-wide serves (R46 step 7) -/

theorem permission_none_serves {ring : Nat} {h : Head} {o : OpInfo} {s : State} (hp : permission ring h o s = none)
    (hw : o.wide = false) : halfDown h.hoop s = false := by
  refine Bool.eq_false_iff.2 fun hdown => ?_
  unfold permission at hp
  split at hp
  · cases hp
  · split at hp
    · cases hp
    · split at hp
      · cases hp
      · rw [if_pos ⟨by rw [hw]; rfl, hdown⟩] at hp
        cases hp

theorem examine_none_serves {ring : Nat} {h : Head} {o : OpInfo} {pkt : List Word} {s : State}
    (he : examine ring h pkt s = none) (ho : opInfo h.opcode = some o) (hw : o.wide = false) : halfDown h.hoop s = false := by
  by_cases hl : pkt.length < o.minWords ∨ o.maxWords < pkt.length
  · rw [examine_of_bad_length ho hl] at he; cases he
  · obtain ⟨hmin, hmax⟩ := not_or.1 hl
    cases hr : badReserved o h pkt with
    | true => rw [examine_of_bad_reserved ho (by omega) (by omega) hr] at he; cases he
    | false =>
      rw [examine_of_good_form ho (by omega) (by omega) hr] at he
      exact permission_none_serves he hw

theorem startJob_serves {ring : BitVec 5} {pkt : List Word} {s : State} (h : Admitted 0x40 ring pkt s) :
    halfDown (headOf pkt).hoop s = false := by
  obtain ⟨hwf, -, he⟩ := h
  have ho : opInfo (headOf pkt).opcode = opInfo 0x40 := congrArg _ (packetWf_opcode hwf)
  exact examine_none_serves he ho rfl

/-! ### Queues (R262) -/

/-- The virtual time of a context raised as its first job joins (R262). -/
def raiseTime (hoop : Nat) (q : QJob) (s : State) : State :=
  if ((s.hoop hoop).queue.map (·.ctx)).contains q.ctx then s
  else match leastV s ((s.hoop hoop).queue.map (·.ctx)) with
    | none => s
    | some c =>
      if (Tab.get 0 s.seq.vtime q.ctx).toNat < (Tab.get 0 s.seq.vtime c).toNat then
        { s with seq := { s.seq with vtime := s.seq.vtime.set q.ctx (Tab.get 0 s.seq.vtime c) } } else s

/-- A job at the end of its hoop's queue. -/
def joinQueue (hoop : Nat) (q : QJob) (s : State) : State :=
  updHoop hoop (fun u => { u with queue := u.queue ++ [q] }) (raiseTime hoop q s)

theorem raiseTime_eq (hoop : Nat) (q : QJob) (s : State) :
    ∃ v, raiseTime hoop q s = { s with seq := { s.seq with vtime := v } } := by
  unfold raiseTime
  split
  · exact ⟨_, rfl⟩
  · split
    · exact ⟨_, rfl⟩
    · split
      · exact ⟨_, rfl⟩
      · exact ⟨_, rfl⟩

theorem joinQueue_keeps (hoop : Nat) (q : QJob) (s : State) : Keeps 0x200 s (joinQueue hoop q s) := by
  obtain ⟨v, heq⟩ := raiseTime_eq hoop q s
  have hraise : Keeps 0x200 s (raiseTime hoop q s) := by rw [heq]; exact Keeps.setSeq (.refl s) id
  exact hraise.trans (updHoop_keeps ..)

theorem joinQueue_hoop (hoop : Nat) (q : QJob) (s : State) :
    (joinQueue hoop q s).hoop hoop = { s.hoop hoop with queue := (s.hoop hoop).queue ++ [q] } := by
  obtain ⟨v, heq⟩ := raiseTime_eq hoop q s
  rw [joinQueue, updHoop_self, heq]
  rfl

theorem joinQueue_places (hoop : Nat) (q : QJob) (s : State) : (joinQueue hoop q s).seq.places = s.seq.places := by
  obtain ⟨v, heq⟩ := raiseTime_eq hoop q s
  rw [joinQueue, updHoop_seq_places, heq]

/-! ### Admission (R60, R262) -/

theorem mayAdmit_iff (s : State) (hoop : Nat) :
    s.mayAdmit hoop = true ↔ (s.hoop hoop).job = none ∧ (s.hoop hoop).queue ≠ [] ∧ (s.hoop hoop).roundHold = []
      ∧ halfDown hoop s = false ∧ ∀ l ∈ s.hoopPositions hoop, (s.place l).retest = none ∧ (s.place l).fence = false := by
  unfold State.mayAdmit
  simp [and_assoc]

theorem admitUpTo_of_not_mayAdmit {s : State} {hoop : Nat} (h : s.mayAdmit hoop = false) (n : Nat) : admitUpTo hoop n s = s := by
  cases n with
  | zero => rfl
  | succ n => exact if_pos (congrArg not h)

theorem tryAdmit_of_job {s : State} {hoop : Nat} (h : (s.hoop hoop).job ≠ none) : tryAdmit hoop s = s :=
  admitUpTo_of_not_mayAdmit (Bool.eq_false_iff.2 fun hm => h ((mayAdmit_iff s hoop).1 hm).1) _

theorem tryAdmit_of_empty {s : State} {hoop : Nat} (h : (s.hoop hoop).queue = []) : tryAdmit hoop s = s :=
  admitUpTo_of_not_mayAdmit (Bool.eq_false_iff.2 fun hm => ((mayAdmit_iff s hoop).1 hm).2.1 h) _

/-! ### START_JOB -/

/-- The job that a START_JOB packet asks for (R411). -/
def askedJob (ring : BitVec 5) (pkt : List Word) : QJob :=
  ⟨ring.toNat, (headOf pkt).tag, (headOf pkt).ctx, (pkt.getD 1 0).toNat % 65536, pkt.getD 2 0, (pkt.getD 3 0).toNat % 2 ^ 48⟩

theorem startJob_taken (ring : BitVec 5) (pkt : List Word) (s : State) :
    startJob pkt (tagOf ring pkt) (taken ring pkt s) =
      if s.prickOff ((pkt.getD 1 0).toNat % 65536) = none
          ∨ prkHoop (s.prick ((pkt.getD 1 0).toNat % 65536)) ≠ (headOf pkt).hoop then
        answer (tagOf ring pkt) stBadParam 0 0 (taken ring pkt s)
      else tryAdmit (headOf pkt).hoop (joinQueue (headOf pkt).hoop (askedJob ring pkt) (accepted ring pkt 0 s)) := by
  have hnumber : fld (pkt.getD 1 0) 15 0 = (pkt.getD 1 0).toNat % 65536 := fld_low ..
  have hargs : fld (pkt.getD 3 0) 47 0 = (pkt.getD 3 0).toNat % 2 ^ 48 := fld_low ..
  unfold startJob
  rw [hnumber, hargs]
  dsimp only
  rw [prickOff_congr (taken_img ..), prick_congr (taken_img ..), tagOf_hoop, tagOf_ctx, tagOf_tag, tagOf_ring, ← accepted_eq]
  cases hoff : s.prickOff ((pkt.getD 1 0).toNat % 65536) with
  | none => exact (if_pos (.inl rfl)).symm
  | some o => exact ite_congr (propext (by simp)) (fun _ => rfl) fun _ => rfl

theorem startJob_refused {ring : BitVec 5} {pkt : List Word} {s : State} (h : Admitted 0x40 ring pkt s)
    (hbad : s.prickOff ((pkt.getD 1 0).toNat % 65536) = none
      ∨ prkHoop (s.prick ((pkt.getD 1 0).toNat % 65536)) ≠ (headOf pkt).hoop) :
    ∃ t, exec (.startJob ring pkt) s = .next t ∧ Turned 0x0013 ring pkt s t :=
  packet_turned h (by decide) ((startJob_taken ..).trans (if_pos hbad))

/-- The state in which an asked job has joined its queue. -/
def joined (ring : BitVec 5) (pkt : List Word) (s : State) : State :=
  joinQueue (headOf pkt).hoop (askedJob ring pkt) (accepted ring pkt 0 s)

theorem startJob_joins {ring : BitVec 5} {pkt : List Word} {s : State} (h : Admitted 0x40 ring pkt s)
    (hoff : s.prickOff ((pkt.getD 1 0).toNat % 65536) ≠ none)
    (hhoop : prkHoop (s.prick ((pkt.getD 1 0).toNat % 65536)) = (headOf pkt).hoop) :
    exec (.startJob ring pkt) s = .next (tryAdmit (headOf pkt).hoop (joined ring pkt s)) :=
  (packet_of_admitted h).trans (congrArg _ ((startJob_taken ..).trans (if_neg fun hno => hno.elim hoff (· hhoop))))

section
variable (ring : BitVec 5) (pkt : List Word) (s : State)

theorem joined_keeps : Keeps 0x8210 s (joined ring pkt s) :=
  (taken_keeps ring pkt s).up.trans (Keeps.trans (t := accepted ring pkt 0 s) (accept_keeps ..).up (joinQueue_keeps ..).up)

theorem joined_host : (joined ring pkt s).host = (accepted ring pkt 0 s).host := (joinQueue_keeps ..).host rfl

theorem joined_rec : (joined ring pkt s).rec_ = (taken ring pkt s).rec_ :=
  ((joinQueue_keeps ..).rec_ rfl).trans ((accept_keeps ..).rec_ rfl)

theorem joined_hoop : (joined ring pkt s).hoop (headOf pkt).hoop =
    { s.hoop (headOf pkt).hoop with queue := (s.hoop (headOf pkt).hoop).queue ++ [askedJob ring pkt] } := by
  rw [joined, joinQueue_hoop, hoop_of_hoops (congrArg Seq.hoops (accepted_seq ..))]

theorem joined_place (l : Nat) : (joined ring pkt s).place l = s.place l :=
  place_of_places ((joinQueue_places ..).trans (congrArg Seq.places (accepted_seq ..))) l

end

/-- START_JOB for a hoop that has a job. -/
theorem startJob_queues {ring : BitVec 5} {pkt : List Word} {s : State} (h : Admitted 0x40 ring pkt s)
    (hoff : s.prickOff ((pkt.getD 1 0).toNat % 65536) ≠ none)
    (hhoop : prkHoop (s.prick ((pkt.getD 1 0).toNat % 65536)) = (headOf pkt).hoop) (hjob : (s.hoop (headOf pkt).hoop).job ≠ none) :
    ∃ t, exec (.startJob ring pkt) s = .next t ∧ OnlyUnits [.host, .seq, .recorder] s t ∧ Sys2Proof.Answered ring pkt 1 1 false s t
      ∧ t.hoop (headOf pkt).hoop =
        { s.hoop (headOf pkt).hoop with queue := (s.hoop (headOf pkt).hoop).queue ++ [askedJob ring pkt] } := by
  have hstill : ((joined ring pkt s).hoop (headOf pkt).hoop).job ≠ none := by rw [joined_hoop]; exact hjob
  refine ⟨joined ring pkt s, ?_, (joined_keeps ring pkt s).units _ rfl, answered_accept (packetWf_length h.1) 0 fun n =>
    ring_of_rings (congrArg HostIf.rings (joined_host ring pkt s)) n, joined_hoop ring pkt s⟩
  rw [startJob_joins h hoff hhoop, tryAdmit_of_job hstill]

/-! ### A free hoop admits (R60, R264) -/

/-- The only job of a queue is picked, outside a replay. -/
theorem pickJob_single {s : State} {hoop : Nat} {q : QJob} (hq : (s.hoop hoop).queue = [q]) (hmode : s.rec_.mode = .off) :
    pickJob s hoop = some q := by
  unfold pickJob
  rw [hq, hmode]
  simp [sharePick, leastV]

/-- The job that a hoop admits with all its positions in place. -/
def admitted (s : State) (hoop : Nat) (q : QJob) : Job :=
  { q := q, st := if prkArgWords (s.prick q.pricking) = 0 then .ready else .reading, args := [],
    admitted := (s.half (s.hoopHome hoop)).ticks, t0 := 0, lastTick := 0, next := 0, steps := [], slips := 0, late := false,
    charge := 0, breached := (s.hoop hoop).breached, fault := none }

/-- A job taken from its queue, with the hoop's entry renewed and the admission counted (R264, R285). -/
def takeJob (hoop : Nat) (q : QJob) (s : State) : State :=
  bumpDamp (({ s with img := { s.img with heldHoops := s.img.heldHoops.set hoop [] } } : State).hoopHome hoop) 5 1
    (updHoop hoop (fun u => { u with queue := u.queue.erase q })
      { s with img := { s.img with heldHoops := s.img.heldHoops.set hoop [] } })

section
variable {s : State} {hoop : Nat}

theorem takeJob_img (q : QJob) : (takeJob hoop q s).img = { s.img with heldHoops := s.img.heldHoops.set hoop [] } := bumpDamp_img ..

theorem takeJob_host (q : QJob) : (takeJob hoop q s).host = s.host := updHalf_host ..

theorem takeJob_hoop (q : QJob) :
    (takeJob hoop q s).hoop hoop = { s.hoop hoop with queue := (s.hoop hoop).queue.erase q } := by
  rw [takeJob, bumpDamp_hoop, updHoop_self]
  rfl

theorem takeJob_place (q : QJob) (l : Nat) : (takeJob hoop q s).place l = s.place l :=
  place_of_places (congrArg Seq.places (bumpDamp_seq ..)) l

/-- Where no entry of the hoop is held, renewing it changes nothing of it. -/
theorem takeJob_hoopEntry (hheld : Tab.get [] s.img.heldHoops hoop = []) (q : QJob) :
    (takeJob hoop q s).hoopEntry hoop = s.hoopEntry hoop := by
  unfold State.hoopEntry
  rw [takeJob_img, Tab.get_set_self, hheld]
  rfl

theorem bumpDamp_ticks (h k : Half) (w n : Nat) (s : State) : ((bumpDamp h w n s).half k).ticks = (s.half k).ticks := by
  cases h <;> cases k <;> rfl

theorem admitJob_eq (hmode : s.rec_.mode = .off) (q : QJob) :
    admitJob hoop q s =
      if ((takeJob hoop q s).hoopPositions hoop).any (fun l => ((takeJob hoop q s).place l).vacant) = true then
        closeJob hoop q none 0 stNoHearth 0 0 (takeJob hoop q s)
      else updHoop hoop (fun u => { u with job := some (admitted (takeJob hoop q s) hoop q) }) (takeJob hoop q s) := by
  unfold admitJob
  extract_lets img s1 h s2 rec s3 s4 ticks st j
  have hmode2 : s2.rec_.mode = .off := hmode
  have hnoreplay : ¬(s2.rec_.mode == .replay) = true := by rw [hmode2]; decide
  have hs3 : s3 = s2 := (if_neg hnoreplay).trans (recordEntry_off _ _ _ _ hmode2)
  have hs4 : s4 = takeJob hoop q s := congrArg (bumpDamp h 5 1) hs3
  have hhome : h = (takeJob hoop q s).hoopHome hoop :=
    congrArg hoopHalf (hoopEntry_congr (s := takeJob hoop q s) (t := s1) (takeJob_img q).symm hoop)
  have hj : j = admitted s4 hoop q := by simp only [admitted, j, ticks, st, hs4, ← hhome]
  rw [hj, hs4]

end

theorem any_vacant_eq_false {s : State} {l : List Nat} (h : ∀ p ∈ l, (s.place p).vacant = false) :
    l.any (fun p => (s.place p).vacant) = false := List.any_eq_false.2 fun p hp => by rw [h p hp]; decide

theorem admitJob_of_placed {s : State} {hoop : Nat} {q : QJob} (hheld : Tab.get [] s.img.heldHoops hoop = [])
    (hmode : s.rec_.mode = .off) (hplaced : ∀ l ∈ s.hoopPositions hoop, (s.place l).vacant = false) :
    (admitJob hoop q s).host = s.host
      ∧ (admitJob hoop q s).hoop hoop =
        { s.hoop hoop with queue := (s.hoop hoop).queue.erase q, job := some (admitted s hoop q) } := by
  have hentry := takeJob_hoopEntry hheld q
  have hhome : (takeJob hoop q s).hoopHome hoop = s.hoopHome hoop := congrArg hoopHalf hentry
  have hpositions : (takeJob hoop q s).hoopPositions hoop = s.hoopPositions hoop := by
    unfold State.hoopPositions; rw [hentry, hhome]
  have hprick : (takeJob hoop q s).prick q.pricking = s.prick q.pricking := by
    unfold State.prick State.prickOff; rw [takeJob_img]; rfl
  have hticks : ((takeJob hoop q s).half (s.hoopHome hoop)).ticks = (s.half (s.hoopHome hoop)).ticks := bumpDamp_ticks ..
  have hjob : admitted (takeJob hoop q s) hoop q = admitted s hoop q := by
    unfold admitted; rw [hprick, hhome, hticks, takeJob_hoop]
  have hnone : (s.hoopPositions hoop).any (fun l => ((takeJob hoop q s).place l).vacant) = false :=
    any_vacant_eq_false fun l hl => by rw [takeJob_place]; exact hplaced l hl
  rw [admitJob_eq hmode, hpositions, if_neg (Bool.eq_false_iff.1 hnone), hjob]
  exact ⟨(updHoop_host ..).trans (takeJob_host q), by rw [updHoop_self, takeJob_hoop]⟩

/-- A free hoop with one queued job and all its positions in place admits that job. -/
theorem tryAdmit_of_free {s : State} {hoop : Nat} {q : QJob} (hjob : (s.hoop hoop).job = none)
    (hqueue : (s.hoop hoop).queue = [q]) (hround : (s.hoop hoop).roundHold = []) (hserves : halfDown hoop s = false)
    (hheld : Tab.get [] s.img.heldHoops hoop = []) (hmode : s.rec_.mode = .off)
    (hplaced : ∀ l ∈ s.hoopPositions hoop, (s.place l).retest = none ∧ (s.place l).fence = false ∧ (s.place l).vacant = false) :
    (tryAdmit hoop s).host = s.host
      ∧ (tryAdmit hoop s).hoop hoop = { s.hoop hoop with queue := [], job := some (admitted s hoop q) } := by
  have hmay : s.mayAdmit hoop = true := (mayAdmit_iff s hoop).2
    ⟨hjob, by rw [hqueue]; simp, hround, hserves, fun l hl => ⟨(hplaced l hl).1, (hplaced l hl).2.1⟩⟩
  obtain ⟨hhost, hhoop⟩ := admitJob_of_placed (q := q) hheld hmode fun l hl => (hplaced l hl).2.2
  have hstop : (admitJob hoop q s).mayAdmit hoop = false :=
    Bool.eq_false_iff.2 fun hm => by have := ((mayAdmit_iff _ _).1 hm).1; rw [hhoop] at this; cases this
  have hadmit : tryAdmit hoop s = admitJob hoop q s := by
    unfold tryAdmit admitUpTo
    rw [hmay, pickJob_single hqueue hmode]
    exact admitUpTo_of_not_mayAdmit hstop _
  rw [hadmit, hhost, hhoop, hqueue, List.erase_cons_head]
  exact ⟨rfl, rfl⟩

theorem joined_img (ring : BitVec 5) (pkt : List Word) (s : State) : (joined ring pkt s).img = s.img := (joined_keeps ..).img rfl

theorem joined_half (ring : BitVec 5) (pkt : List Word) (s : State) (h : Half) : (joined ring pkt s).half h = s.half h := by
  cases h
  · exact (joined_keeps ..).west rfl
  · exact (joined_keeps ..).east rfl

theorem joined_hoopPositions (ring : BitVec 5) (pkt : List Word) (s : State) (n : Nat) :
    (joined ring pkt s).hoopPositions n = s.hoopPositions n := by
  unfold State.hoopPositions State.hoopHome; rw [hoopEntry_congr (joined_img ..)]

theorem joined_halfDown (ring : BitVec 5) (pkt : List Word) (s : State) (n : Nat) :
    halfDown n (joined ring pkt s) = halfDown n s := by
  unfold halfDown State.hoopHome; rw [hoopEntry_congr (joined_img ..), joined_half]

theorem joined_admitted (ring : BitVec 5) (pkt : List Word) (s : State) (q : QJob) :
    admitted (joined ring pkt s) (headOf pkt).hoop q = admitted s (headOf pkt).hoop q := by
  unfold admitted State.hoopHome
  rw [hoopEntry_congr (joined_img ..), prick_congr (joined_img ..), joined_half, joined_hoop]

/-- START_JOB for a free hoop with an empty queue and its positions in place. -/
theorem startJob_admits {ring : BitVec 5} {pkt : List Word} {s : State} (h : Admitted 0x40 ring pkt s)
    (hoff : s.prickOff ((pkt.getD 1 0).toNat % 65536) ≠ none)
    (hhoop : prkHoop (s.prick ((pkt.getD 1 0).toNat % 65536)) = (headOf pkt).hoop)
    (hjob : (s.hoop (headOf pkt).hoop).job = none) (hqueue : (s.hoop (headOf pkt).hoop).queue = [])
    (hround : (s.hoop (headOf pkt).hoop).roundHold = []) (hheld : Tab.get [] s.img.heldHoops (headOf pkt).hoop = [])
    (hmode : s.rec_.mode = .off)
    (hplaced : ∀ l ∈ s.hoopPositions (headOf pkt).hoop,
      (s.place l).retest = none ∧ (s.place l).fence = false ∧ (s.place l).vacant = false) :
    ∃ t, exec (.startJob ring pkt) s = .next t ∧ Sys2Proof.Answered ring pkt 1 1 false s t
      ∧ (t.hoop (headOf pkt).hoop).queue = []
      ∧ (t.hoop (headOf pkt).hoop).job = some (admitted s (headOf pkt).hoop (askedJob ring pkt)) := by
  have hjoined := joined_hoop ring pkt s
  have hrec : (joined ring pkt s).rec_.mode = .off := by rw [joined_rec, taken_rec_off hmode]; exact hmode
  obtain ⟨hhost, hend⟩ := tryAdmit_of_free (s := joined ring pkt s) (hoop := (headOf pkt).hoop) (q := askedJob ring pkt)
    (by rw [hjoined]; exact hjob) (by rw [hjoined, hqueue]; rfl) (by rw [hjoined]; exact hround)
    (by rw [joined_halfDown]; exact startJob_serves h) (by rw [joined_img]; exact hheld) hrec
    (by rw [joined_hoopPositions]; intro l hl; rw [joined_place]; exact hplaced l hl)
  refine ⟨_, startJob_joins h hoff hhoop, answered_accept (packetWf_length h.1) 0 fun n =>
    ring_of_rings (by rw [hhost, joined_host]) n, by rw [hend], by rw [hend, joined_admitted]⟩

theorem jobsAreQueuedAndAdmitted : JobsAreQueuedAndAdmitted := by
  intro ring pkt s h number hoop q
  exact ⟨startJob_refused h, startJob_queues h, fun hoff hhoop hjob hqueue hround hheld hmode hplaced =>
    startJob_admits h hoff hhoop hjob hqueue hround hheld hmode hplaced⟩

end Sys2Proof.Machine
end

section
/-! CANCEL_JOB (R52, R61). -/
namespace Sys2Proof.Machine

/-! ### A cancelled job's final reply (R52, R285) -/

/-- Hoops and ring pages are the same. -/
def HoopsAndRings (s t : State) : Prop := t.seq.hoops = s.seq.hoops ∧ t.host.rings = s.host.rings

theorem HoopsAndRings.trans {s t u : State} (h : HoopsAndRings s t) (k : HoopsAndRings t u) : HoopsAndRings s u :=
  ⟨k.1.trans h.1, k.2.trans h.2⟩

theorem HoopsAndRings.ite {s t u : State} {c : Prop} [Decidable c] (h : HoopsAndRings s t) (k : HoopsAndRings s u) :
    HoopsAndRings s (if c then t else u) := by split <;> assumption

theorem updHalf_hoopsAndRings (h : Half) (f : HalfUnit → HalfUnit) (s : State) : HoopsAndRings s (updHalf h f s) :=
  ⟨congrArg Seq.hoops (updHalf_seq ..), congrArg HostIf.rings (updHalf_host ..)⟩

theorem recordEntry_hoopsAndRings (kind : Nat) (digest : Bool) (body : List Byte) (s : State) :
    HoopsAndRings s (recordEntry kind digest body s) :=
  ⟨congrArg Seq.hoops ((recordEntry_keeps ..).seq rfl), recordEntry_rings ..⟩

/-- Before its reply, the end of a job leaves hoops and ring pages. -/
theorem finalReply_eq (hoop : Nat) (q : QJob) (status eff charge : Nat) (s : State) :
    ∃ u, finalReply hoop q status eff charge s
      = replyFinal ⟨q.ring, q.tag, 0x40, q.ctx, hoop⟩ status (w64 eff) (w64 charge) u ∧ HoopsAndRings s u := by
  unfold finalReply
  extract_lets h shares v seq s1 s2 s3 rec s4 s5
  have h1 : HoopsAndRings s s1 := ⟨rfl, rfl⟩
  have h2 : HoopsAndRings s1 s2 :=
    .ite (updHalf_hoopsAndRings ..) (.ite (updHalf_hoopsAndRings ..) (.ite (updHalf_hoopsAndRings ..) ⟨rfl, rfl⟩))
  have h3 : HoopsAndRings s2 s3 := updHalf_hoopsAndRings ..
  have h4 : HoopsAndRings s3 s4 := .ite ⟨rfl, rfl⟩ ⟨rfl, rfl⟩
  exact ⟨s5, rfl, h1.trans (h2.trans (h3.trans (h4.trans (recordEntry_hoopsAndRings ..))))⟩

theorem finalReply_hoop (hoop : Nat) (q : QJob) (status eff charge : Nat) (s : State) (n : Nat) :
    (finalReply hoop q status eff charge s).hoop n = s.hoop n := by
  obtain ⟨u, heq, hkept⟩ := finalReply_eq hoop q status eff charge s
  rw [heq]
  exact hoop_of_hoops ((congrArg Seq.hoops ((replyFinal_keeps ..).seq rfl)).trans hkept.1) n

theorem finalReply_outstanding (hoop : Nat) (q : QJob) (status eff charge : Nat) (s : State) :
    ((finalReply hoop q status eff charge s).ring q.ring).outstanding = (s.ring q.ring).outstanding - 1 := by
  obtain ⟨u, heq, hkept⟩ := finalReply_eq hoop q status eff charge s
  rw [heq, replyFinal_ring, if_pos rfl, ring_of_rings hkept.2]

/-- A cancelled job has no HOLD records, only its final reply. -/
theorem closeJob_cancelled (hoop : Nat) (q : QJob) (args : Option (List Word)) (next eff charge : Nat) (s : State) :
    closeJob hoop q args next stCancelled eff charge s =
      finalReply hoop q stCancelled eff charge (sealHands hoop q stCancelled s) := rfl

theorem closeJob_cancelled_hoop (hoop : Nat) (q : QJob) (args : Option (List Word)) (next eff charge : Nat) (s : State) (n : Nat) :
    (closeJob hoop q args next stCancelled eff charge s).hoop n = s.hoop n := by
  rw [closeJob_cancelled, finalReply_hoop]; rfl

theorem closeJob_cancelled_outstanding (hoop : Nat) (q : QJob) (args : Option (List Word)) (next eff charge : Nat) (s : State) :
    ((closeJob hoop q args next stCancelled eff charge s).ring q.ring).outstanding = (s.ring q.ring).outstanding - 1 := by
  rw [closeJob_cancelled, finalReply_outstanding]; rfl

/-! ### An admitted job that is cancelled (R61) -/

theorem holdRounds_hoop (hoop : Nat) (s : State) :
    ∃ l, (holdRounds hoop s).hoop hoop = { s.hoop hoop with roundHold := l } := ⟨_, updHoop_self ..⟩

theorem endJob_cancelled {s : State} {hoop : Nat} {j : Job} (hjob : (s.hoop hoop).job = some j) (hqueue : (s.hoop hoop).queue = []) :
    ((endJob hoop stCancelled 0 s).hoop hoop).job = none ∧ ((endJob hoop stCancelled 0 s).hoop hoop).queue = []
      ∧ ((endJob hoop stCancelled 0 s).ring j.q.ring).outstanding = (s.ring j.q.ring).outstanding - 1 := by
  unfold endJob
  rw [hjob]
  dsimp only
  have hhoop := closeJob_cancelled_hoop hoop j.q j.argsRead j.next 0 j.charge s hoop
  have hring := closeJob_cancelled_outstanding hoop j.q j.argsRead j.next 0 j.charge s
  generalize closeJob hoop j.q j.argsRead j.next stCancelled 0 j.charge s = u at hhoop hring ⊢
  obtain ⟨l, hhold⟩ := holdRounds_hoop hoop (updHoop hoop (fun x => { x with job := none }) u)
  rw [updHoop_self, hhoop] at hhold
  rw [tryAdmit_of_empty (by rw [hhold]; exact hqueue), hhold]
  exact ⟨rfl, hqueue, hring⟩

/-! ### The job that a packet names -/

/-- The packet names this job by its ring, tag and context (R52). -/
def namesJob (pkt : List Word) (q : QJob) : Bool :=
  q.ring == fld (pkt.getD 1 0) 20 16 && q.tag == fld (pkt.getD 1 0) 15 0 && q.ctx == (headOf pkt).ctx

theorem namesJob_iff (pkt : List Word) (q : QJob) :
    namesJob pkt q = true ↔
      q.ring = (pkt.getD 1 0).toNat / 65536 % 32 ∧ q.tag = (pkt.getD 1 0).toNat % 65536 ∧ q.ctx = (headOf pkt).ctx := by
  have hring : fld (pkt.getD 1 0) 20 16 = (pkt.getD 1 0).toNat / 65536 % 32 := fld_eq ..
  have htag : fld (pkt.getD 1 0) 15 0 = (pkt.getD 1 0).toNat % 65536 := fld_low ..
  unfold namesJob
  rw [hring, htag, Bool.and_eq_true, Bool.and_eq_true, beq_iff_eq, beq_iff_eq, beq_iff_eq, and_assoc]

/-- CANCEL_JOB of a queued job. -/
theorem cancelJob_of_queued {ring : BitVec 5} {pkt : List Word} {s : State} {q : QJob}
    (h : (s.hoop (headOf pkt).hoop).queue.find? (namesJob pkt) = some q) :
    cancelJob pkt (tagOf ring pkt) s = answer (tagOf ring pkt) stOk 0 0
      (closeJob (headOf pkt).hoop q none 0 stCancelled 0 0
        (updHoop (headOf pkt).hoop (fun u => { u with queue := u.queue.erase q }) s)) := by
  unfold namesJob at h
  unfold cancelJob
  dsimp only
  rw [tagOf_hoop, tagOf_ctx, h]

/-- What CANCEL_JOB does with an admitted job in a state: it wins before the release (R61). -/
def cancelByState (t : Tagged) (st : JobSt) (s : State) : State :=
  match st with
  | .reading | .ready => answer t stOk 0 0 (endJob t.hoop stCancelled 0 s)
  | .running | .ending => answer t stTooLate 0 0 s
  | .wedged => answer t stBadParam 0 0 s

section
variable {ring : BitVec 5} {pkt : List Word} {s : State}
  (h : (s.hoop (headOf pkt).hoop).queue.find? (namesJob pkt) = none)
include h

/-- CANCEL_JOB of no job that can be cancelled. -/
theorem cancelJob_of_unnamed (hjob : ∀ j, (s.hoop (headOf pkt).hoop).job = some j → namesJob pkt j.q = false ∨ j.st = .wedged) :
    cancelJob pkt (tagOf ring pkt) s = answer (tagOf ring pkt) stBadParam 0 0 s := by
  unfold namesJob at h hjob
  unfold cancelJob
  dsimp only
  rw [tagOf_hoop, tagOf_ctx, h]
  cases hj : (s.hoop (headOf pkt).hoop).job with
  | none => rfl
  | some j =>
    dsimp only
    split
    · rfl
    · next hnamed =>
      have hwedged := (hjob j hj).resolve_left fun hno => hnamed (congrArg not hno)
      rw [hwedged]

variable {j : Job} (hjob : (s.hoop (headOf pkt).hoop).job = some j) (hnames : namesJob pkt j.q = true)
include hjob hnames

/-- CANCEL_JOB of an admitted job goes by the job's state (R61). -/
theorem cancelJob_of_job : cancelJob pkt (tagOf ring pkt) s = cancelByState (tagOf ring pkt) j.st s := by
  unfold namesJob at h hnames
  unfold cancelJob
  dsimp only
  rw [tagOf_hoop, tagOf_ctx, h, hjob]
  dsimp only
  rw [if_neg (by rw [hnames]; decide)]
  rfl

theorem cancelJob_of_released (hst : j.st = .running ∨ j.st = .ending) :
    cancelJob pkt (tagOf ring pkt) s = answer (tagOf ring pkt) stTooLate 0 0 s := by
  rw [cancelJob_of_job h hjob hnames]
  obtain hst | hst := hst <;> rw [hst] <;> rfl

theorem cancelJob_of_admitted (hst : j.st = .ready ∨ j.st = .reading) :
    cancelJob pkt (tagOf ring pkt) s = answer (tagOf ring pkt) stOk 0 0 (endJob (headOf pkt).hoop stCancelled 0 s) := by
  rw [cancelJob_of_job h hjob hnames]
  obtain hst | hst := hst <;> rw [hst] <;> rfl

end

/-! ### What CANCEL_JOB leaves -/

theorem find?_namesJob_eq_none {pkt : List Word} {l : List QJob} (h : ∀ q ∈ l, ¬namesJob pkt q = true) :
    l.find? (namesJob pkt) = none := List.find?_eq_none.2 h

/-- The first job of a queue under a name is the one found, and the one erased. -/
theorem find?_append_cons {pkt : List Word} {a b : List QJob} {q : QJob} (ha : ∀ x ∈ a, ¬namesJob pkt x = true)
    (hq : namesJob pkt q = true) :
    (a ++ q :: b).find? (namesJob pkt) = some q ∧ (a ++ q :: b).erase q = a ++ b := by
  have hmem : q ∉ a := fun hin => ha q hin hq
  rw [List.find?_append, find?_namesJob_eq_none ha, List.find?_cons_of_pos hq, List.erase_append_right _ hmem,
    List.erase_cons_head]
  exact ⟨rfl, rfl⟩

theorem taken_outstanding (ring : BitVec 5) (pkt : List Word) (s : State) (n : Nat) :
    ((taken ring pkt s).ring n).outstanding = (s.ring n).outstanding := by
  by_cases h : n = ring.toNat
  · rw [h, taken_ring_self]
  · rw [taken_ring_ne _ _ _ h]

theorem answer_outstanding (t : Tagged) (status : Nat) (eff detail : Word) (s : State) (n : Nat) :
    ((answer t status eff detail s).ring n).outstanding = (s.ring n).outstanding := by
  rw [answer_ring]; split <;> rfl

theorem answer_hoop (t : Tagged) (status : Nat) (eff detail : Word) (s : State) (n : Nat) :
    (answer t status eff detail s).hoop n = s.hoop n := hoop_of_hoops (congrArg Seq.hoops ((answer_keeps ..).seq rfl)) n

section
variable {ring : BitVec 5} {pkt : List Word} {s : State} (h : Admitted 0x41 ring pkt s)
include h

theorem queuedJobIsCancelled {a b : List QJob} {q : QJob} (hqueue : (s.hoop (headOf pkt).hoop).queue = a ++ q :: b)
    (ha : ∀ x ∈ a, ¬namesJob pkt x = true) (hq : namesJob pkt q = true) :
    ∃ t, exec (.cancelJob ring pkt) s = .next t ∧ t.hoop (headOf pkt).hoop = { s.hoop (headOf pkt).hoop with queue := a ++ b }
      ∧ (t.ring q.ring).outstanding = (s.ring q.ring).outstanding - 1 := by
  obtain ⟨hfind, herase⟩ := find?_append_cons (b := b) ha hq
  have hfound : ((taken ring pkt s).hoop (headOf pkt).hoop).queue.find? (namesJob pkt) = some q := by
    rw [taken_hoop, hqueue, hfind]
  refine ⟨_, (packet_of_admitted h).trans (congrArg _ (cancelJob_of_queued hfound)), ?_, ?_⟩
  · rw [answer_hoop, closeJob_cancelled_hoop, updHoop_self, taken_hoop, hqueue, herase]
  · rw [answer_outstanding, closeJob_cancelled_outstanding, ring_of_rings (congrArg HostIf.rings (updHoop_host ..)),
      taken_outstanding]

theorem admittedJobIsCancelled {j : Job} (hjob : (s.hoop (headOf pkt).hoop).job = some j)
    (hqueue : (s.hoop (headOf pkt).hoop).queue = []) (hnames : namesJob pkt j.q = true) (hst : j.st = .ready ∨ j.st = .reading) :
    ∃ t, exec (.cancelJob ring pkt) s = .next t ∧ (t.hoop (headOf pkt).hoop).job = none
      ∧ (t.hoop (headOf pkt).hoop).queue = [] ∧ (t.ring j.q.ring).outstanding = (s.ring j.q.ring).outstanding - 1 := by
  have hhoop := taken_hoop ring pkt s (headOf pkt).hoop
  obtain ⟨hnone, hempty, hpaid⟩ := endJob_cancelled (s := taken ring pkt s) (hoop := (headOf pkt).hoop) (j := j)
    (by rw [hhoop]; exact hjob) (by rw [hhoop]; exact hqueue)
  refine ⟨_, (packet_of_admitted h).trans (congrArg _ (cancelJob_of_admitted (by rw [hhoop, hqueue]; rfl)
    (by rw [hhoop]; exact hjob) hnames hst)), ?_, ?_, ?_⟩
  · rw [answer_hoop]; exact hnone
  · rw [answer_hoop]; exact hempty
  · rw [answer_outstanding, hpaid, taken_outstanding]

end

theorem jobsAreCancelled : JobsAreCancelled := by
  intro ring pkt s h hoop names u
  have hnames (q : QJob) : namesJob pkt q = true ↔ names q := namesJob_iff pkt q
  have hnotQueued (hq : ∀ q ∈ u.queue, ¬names q) :
      ((taken ring pkt s).hoop (headOf pkt).hoop).queue.find? (namesJob pkt) = none := by
    rw [taken_hoop]; exact find?_namesJob_eq_none fun q hin hn => hq q hin ((hnames q).1 hn)
  refine ⟨fun hq hjob => ?_, fun hq j hjob hn hst => ?_, fun a q b hqueue ha hn => ?_, fun j hjob hqueue hn hst => ?_⟩
  · refine packet_turned h (by decide) (cancelJob_of_unnamed (hnotQueued hq) fun j hj => ?_)
    rw [taken_hoop] at hj
    exact (hjob j hj).imp_left fun hno => Bool.eq_false_iff.2 fun hn => hno ((hnames _).1 hn)
  · exact packet_turned h (by decide) (cancelJob_of_released (hnotQueued hq) (by rw [taken_hoop]; exact hjob) ((hnames _).2 hn) hst)
  · exact queuedJobIsCancelled h hqueue (fun x hx hn => ha x hx ((hnames x).1 hn)) ((hnames q).2 hn)
  · exact admittedJobIsCancelled h hjob hqueue ((hnames _).2 hn) hst

/-- Settles O16: START_JOB joins its queue by `joinQueue`, a free hoop admits by `tryAdmit_of_free`, and what is cancelled leaves by
`closeJob` with its final reply. -/
theorem jobsAreQueuedAdmittedAndCancelled : Obligations.JobsAreQueuedAdmittedAndCancelled :=
  ⟨jobsAreQueuedAndAdmitted, jobsAreCancelled⟩

end Sys2Proof.Machine
end

section
/-! KNOT_SET, BUFFER_ALLOC and BUFFER_FREE (R65, R194 to R196). -/
namespace Sys2Proof.Machine

/-! ### KNOT_SET -/

theorem knotSet_taken (ring : BitVec 5) (pkt : List Word) (s : State) :
    knotSet pkt (tagOf ring pkt) (taken ring pkt s) =
      if s.img.byte 5 ((pkt.getD 1 0).toNat % 2 ^ 14) ≠ (headOf pkt).hoop + 1 then
        answer (tagOf ring pkt) stBadParam 0 0 (taken ring pkt s)
      else answer (tagOf ring pkt) stOk 0 0
        (setKnot ((pkt.getD 1 0).toNat % 2 ^ 14) ((pkt.getD 2 0).toNat % 2 ^ 32) (taken ring pkt s)) := by
  unfold knotSet
  rw [fld_low, fld_low, taken_img]
  rfl

theorem answer_seq (t : Tagged) (status : Nat) (eff detail : Word) (s : State) : (answer t status eff detail s).seq = s.seq :=
  (answer_keeps ..).seq rfl

theorem answer_knot (t : Tagged) (status : Nat) (eff detail : Word) (s : State) (k : Nat) :
    (answer t status eff detail s).knot k = s.knot k := congrArg (fun q : Seq => Tab.get 0 q.knots k) (answer_seq ..)

theorem ofNat_mod_eq_setWidth (w : Word) : BitVec.ofNat 32 (w.toNat % 2 ^ 32) = w.setWidth 32 :=
  BitVec.eq_of_toNat_eq (by simp)

/-- The state after a KNOT_SET of a knot of the packet's hoop. -/
def knotWritten (ring : BitVec 5) (pkt : List Word) (k v : Nat) (s : State) : State :=
  answer (tagOf ring pkt) stOk 0 0 (setKnot k v (taken ring pkt s))

section
variable (ring : BitVec 5) (pkt : List Word) (k v : Nat) (s : State)

theorem knotWritten_units : OnlyUnits [.host, .seq, .recorder] s (knotWritten ring pkt k v s) :=
  (((taken_keeps ring pkt s).up (m := 0x8210)).trans ((setKnot_keeps ..).up.trans (answer_keeps ..).up)).units _ rfl

theorem knotWritten_answered (hlen : (headOf pkt).length = pkt.length) :
    Sys2Proof.Answered ring pkt 1 0 false s (knotWritten ring pkt k v s) := by
  have hring (n : Nat) : (setKnot k v (taken ring pkt s)).ring n = (taken ring pkt s).ring n := ring_of_rings rfl n
  exact answered_answer hlen hring stOk 0 0

theorem knotWritten_self : (knotWritten ring pkt k v s).knot k = BitVec.ofNat 32 v := by
  rw [knotWritten, answer_knot, setKnot_self]

theorem knotWritten_ne {j : Nat} (h : j ≠ k) : (knotWritten ring pkt k v s).knot j = s.knot j := by
  rw [knotWritten, answer_knot, setKnot_ne _ _ _ h, taken_knot]

theorem knotWritten_seq :
    (knotWritten ring pkt k v s).seq = { s.seq with knots := (knotWritten ring pkt k v s).seq.knots } := by
  have hseq : (knotWritten ring pkt k v s).seq = (setKnot k v (taken ring pkt s)).seq := answer_seq ..
  rw [hseq, ← taken_seq ring pkt s]
  rfl

end

theorem knotsAreSet : KnotsAreSet := by
  intro ring pkt s h k
  refine ⟨fun hother => packet_turned h (by decide) ((knotSet_taken ..).trans (if_pos hother)), fun hmine => ?_⟩
  refine ⟨knotWritten ring pkt k ((pkt.getD 2 0).toNat % 2 ^ 32) s,
    (packet_of_admitted h).trans (congrArg _ ((knotSet_taken ..).trans (if_neg (not_not.2 hmine)))), knotWritten_units ..,
    knotWritten_answered (hlen := packetWf_length h.1) .., ?_, fun j hj => knotWritten_ne (h := hj) .., knotWritten_seq ..⟩
  rw [knotWritten_self, ofNat_mod_eq_setWidth]

/-! ### A pool after an update of one of its buffers -/

theorem setBuffer_buffer_self (pool i : Nat) (b : Buffer) (q : List Nat) (s : State) :
    (setBuffer pool i b q s).buffer pool i = b := Tab.get_set_self ..

/-- Indices of 16 bits keep the buffers of a pool apart from another's. -/
theorem setBuffer_buffer_ne {pool i p j : Nat} (h : (p, j) ≠ (pool, i)) (hi : i < 65536) (hj : j < 65536) (b : Buffer)
    (q : List Nat) (s : State) : (setBuffer pool i b q s).buffer p j = s.buffer p j := by
  refine Tab.get_set_ne _ _ _ fun hkey => h ?_
  unfold bufKey at hkey
  rw [Prod.mk.injEq]
  omega

theorem setBuffer_poolQueue_self (pool i : Nat) (b : Buffer) (q : List Nat) (s : State) :
    (setBuffer pool i b q s).poolQueue pool = q := Tab.get_set_self ..

theorem setBuffer_poolQueue_ne {p pool : Nat} (h : p ≠ pool) (i : Nat) (b : Buffer) (q : List Nat) (s : State) :
    (setBuffer pool i b q s).poolQueue p = s.poolQueue p := Tab.get_set_ne _ _ _ h

section
variable {s t : State} (hpools : t.pools = s.pools)
include hpools

theorem buffer_congr (p i : Nat) : t.buffer p i = s.buffer p i := by unfold State.buffer; rw [hpools]

theorem poolQueue_congr (himg : t.img = s.img) (p : Nat) : t.poolQueue p = s.poolQueue p := by
  unfold State.poolQueue; rw [hpools, himg]

end

theorem taken_pools (ring : BitVec 5) (pkt : List Word) (s : State) : (taken ring pkt s).pools = s.pools :=
  (taken_keeps ..).pools rfl

theorem taken_buffer (ring : BitVec 5) (pkt : List Word) (s : State) (p i : Nat) :
    (taken ring pkt s).buffer p i = s.buffer p i := buffer_congr (taken_pools ..) p i

theorem taken_poolQueue (ring : BitVec 5) (pkt : List Word) (s : State) (p : Nat) :
    (taken ring pkt s).poolQueue p = s.poolQueue p := poolQueue_congr (taken_pools ..) (taken_img ..) p

/-! ### A packet that sets a buffer -/

/-- The state after a packet that sets a buffer and counts it at the pool's half. -/
def bufferSet (ring : BitVec 5) (pkt : List Word) (detail : Word) (w pool i : Nat) (b : Buffer) (q : List Nat) (s : State) :
    State :=
  answer (tagOf ring pkt) stOk 0 detail
    (bumpXlat ((taken ring pkt s).hoopHome (headOf pkt).hoop) w 1 (setBuffer pool i b q (taken ring pkt s)))

section
variable (ring : BitVec 5) (pkt : List Word) (detail : Word) (w pool i : Nat) (b : Buffer) (q : List Nat) (s : State)

theorem bufferSet_units : OnlyUnits [.host, .pools, .west, .east, .recorder] s (bufferSet ring pkt detail w pool i b q s) :=
  (((taken_keeps ring pkt s).up (m := 0x81D0)).trans
    ((setBuffer_keeps ..).up.trans ((bumpXlat_keeps ..).up.trans (answer_keeps ..).up))).units _ rfl

theorem bufferSet_host :
    (bumpXlat ((taken ring pkt s).hoopHome (headOf pkt).hoop) w 1 (setBuffer pool i b q (taken ring pkt s))).host
      = (taken ring pkt s).host := updHalf_host ..

theorem bufferSet_answered (hlen : (headOf pkt).length = pkt.length) :
    Sys2Proof.Answered ring pkt 1 0 false s (bufferSet ring pkt detail w pool i b q s) :=
  answered_answer hlen (fun n => ring_of_rings (congrArg HostIf.rings (bufferSet_host ..)) n) stOk 0 detail

theorem bufferSet_hostKept : HostKept ring s (bufferSet ring pkt detail w pool i b q s) :=
  (answer_ringsAndMem ..).kept (hostKept_of_host (taken_hostKept ring pkt s) (bufferSet_host ..))

theorem bufferSet_singleReply (hwf : s.host.mem.wf = true) :
    SingleReply ring pkt stOk 0 detail s (bufferSet ring pkt detail w pool i b q s) :=
  singleReply_answer (bufferSet_host ..)
    (congrArg Time.ts ((updHalf_time ..).trans (taken_time ring pkt s))) hwf ..

theorem bufferSet_pools :
    (bufferSet ring pkt detail w pool i b q s).pools = (setBuffer pool i b q (taken ring pkt s)).pools :=
  ((answer_keeps ..).pools rfl).trans (updHalf_pools ..)

theorem bufferSet_buffer (p j : Nat) :
    (bufferSet ring pkt detail w pool i b q s).buffer p j = (setBuffer pool i b q (taken ring pkt s)).buffer p j :=
  buffer_congr (bufferSet_pools ..) p j

theorem bufferSet_poolQueue (p : Nat) :
    (bufferSet ring pkt detail w pool i b q s).poolQueue p = (setBuffer pool i b q (taken ring pkt s)).poolQueue p :=
  poolQueue_congr (bufferSet_pools ..) (((answer_keeps ..).img rfl).trans (updHalf_img ..)) p

theorem bufferSet_buffer_self : (bufferSet ring pkt detail w pool i b q s).buffer pool i = b := by
  rw [bufferSet_buffer, setBuffer_buffer_self]

theorem bufferSet_buffer_ne {p j : Nat} (h : (p, j) ≠ (pool, i)) (hi : i < 65536) (hj : j < 65536) :
    (bufferSet ring pkt detail w pool i b q s).buffer p j = s.buffer p j := by
  rw [bufferSet_buffer, setBuffer_buffer_ne h hi hj, taken_buffer]

theorem bufferSet_poolQueue_self : (bufferSet ring pkt detail w pool i b q s).poolQueue pool = q := by
  rw [bufferSet_poolQueue, setBuffer_poolQueue_self]

theorem bufferSet_poolQueue_ne {p : Nat} (h : p ≠ pool) :
    (bufferSet ring pkt detail w pool i b q s).poolQueue p = s.poolQueue p := by
  rw [bufferSet_poolQueue, setBuffer_poolQueue_ne h, taken_poolQueue]

end

/-! ### BUFFER_ALLOC (R194, R195) -/

/-- A pool of a hoop other than the packet's, or no pool. -/
theorem foreignPool_iff (e : Entry) (hoop : Nat) :
    (!poolValid e || poolHoop e != hoop) = true ↔ poolValid e = false ∨ poolHoop e ≠ hoop := by simp

theorem w64_handleOf (pool i g : Nat) : w64 (handleOf pool i g) = BitVec.ofNat 64 (pool + 2 ^ 8 * i + 2 ^ 24 * g) := by
  unfold w64 handleOf at_
  rw [Nat.mul_comm i, Nat.mul_comm g]

/-- What BUFFER_ALLOC does with the free queue of a pool of its hoop. -/
def allocFrom (ring : BitVec 5) (pkt : List Word) (pool : Nat) (s : State) : List Nat → State
  | [] => answer (tagOf ring pkt) stNoBuffer 0 0 (taken ring pkt s)
  | i :: rest =>
    bufferSet ring pkt (w64 (handleOf pool i (nextGen (s.buffer pool i).gen))) 5 pool i
      ⟨some (headOf pkt).ctx, nextGen (s.buffer pool i).gen⟩ rest s

theorem bufferAlloc_taken {ring : BitVec 5} {pkt : List Word} {s : State} {pool : Nat} (hpool : pool = (pkt.getD 1 0).toNat % 256) :
    bufferAlloc pkt (tagOf ring pkt) (taken ring pkt s) =
      if poolValid (s.img.entry 9 pool) = false ∨ poolHoop (s.img.entry 9 pool) ≠ (headOf pkt).hoop then
        answer (tagOf ring pkt) stBadParam 0 0 (taken ring pkt s)
      else allocFrom ring pkt pool s (s.poolQueue pool) := by
  have hfld : fld (pkt.getD 1 0) 7 0 = pool := (fld_low ..).trans hpool.symm
  unfold bufferAlloc
  dsimp only
  rw [hfld, taken_img, tagOf_hoop, tagOf_ctx, taken_poolQueue]
  refine ite_congr (propext (foreignPool_iff ..)) (fun _ => rfl) fun _ => ?_
  cases s.poolQueue pool with
  | nil => rfl
  | cons i rest =>
    dsimp only
    rw [taken_buffer]
    rfl

theorem buffersAreTakenInOrder : BuffersAreTakenInOrder := by
  intro ring pkt s h pool e
  have hbody := bufferAlloc_taken (ring := ring) (pkt := pkt) (s := s) (pool := pool) rfl
  refine ⟨fun hno => packet_turned h (by decide) (hbody.trans (if_pos hno)), fun hvalid hhoop hempty => ?_,
    fun i rest hvalid hhoop hqueue => ?_⟩
  · rw [if_neg (by simp [e, hvalid, hhoop]), hempty] at hbody
    exact packet_turned h (by decide) hbody
  · rw [if_neg (by simp [e, hvalid, hhoop]), hqueue] at hbody
    refine ⟨_, (packet_of_admitted h).trans (congrArg _ hbody), ?_⟩
    rw [allocFrom, w64_handleOf]
    exact ⟨bufferSet_units .., bufferSet_answered (hlen := packetWf_length h.1) .., bufferSet_buffer_self ..,
      bufferSet_poolQueue_self .., fun p j hne hj hi => bufferSet_buffer_ne (h := hne) (hi := hi) (hj := hj) ..,
      fun p hp => bufferSet_poolQueue_ne (h := hp) .., bufferSet_hostKept .., fun hwf => bufferSet_singleReply (hwf := hwf) ..⟩

/-! ### BUFFER_FREE (R196) -/

/-- The handle names a buffer that the packet's context owns under the handle's generation. -/
def OwnsHandle (pkt : List Word) (s : State) : Prop :=
  let w := (pkt.getD 1 0).toNat
  let e := s.img.entry 9 (w % 256)
  let b := s.buffer (w % 256) (w / 2 ^ 8 % 2 ^ 16)
  (w / 2 ^ 48 = 0 ∧ poolValid e = true ∧ poolHoop e = (headOf pkt).hoop ∧ w / 2 ^ 8 % 2 ^ 16 < poolCount e
      ∧ w / 2 ^ 24 % 2 ^ 24 ≠ 0)
    ∧ b.gen = w / 2 ^ 24 % 2 ^ 24 ∧ b.owner = some (headOf pkt).ctx

theorem freeStatus_eq_ok_iff (pkt : List Word) (s : State) :
    freeStatus s (headOf pkt).hoop (headOf pkt).ctx (pkt.getD 1 0) = stOk ↔ OwnsHandle pkt s := by
  have hhigh : fld (pkt.getD 1 0) 63 48 = (pkt.getD 1 0).toNat / 2 ^ 48 := by
    rw [fld_eq]; exact Nat.mod_eq_of_lt (Nat.div_lt_of_lt_mul (pkt.getD 1 0).isLt)
  unfold freeStatus OwnsHandle
  rw [hhigh, fld_low, fld_eq, fld_eq]
  generalize (pkt.getD 1 0).toNat = w
  dsimp only
  generalize s.img.entry 9 (w % 256) = e
  generalize s.buffer (w % 256) (w / 2 ^ 8 % 2 ^ 16) = b
  split
  · next hbad =>
    refine iff_of_false (by decide) fun ⟨⟨hzero, hvalid, hhoop, hindex, hgen⟩, _⟩ => ?_
    rcases hbad with hbad | hbad | hbad | hbad | hbad
    · exact hbad hzero
    · rw [hvalid] at hbad; exact absurd hbad (by decide)
    · exact hbad hhoop
    · exact Nat.not_le.2 hindex hbad
    · exact hgen hbad
  · next hgood =>
    have ours : w / 2 ^ 48 = 0 ∧ poolValid e = true ∧ poolHoop e = (headOf pkt).hoop ∧ w / 2 ^ 8 % 2 ^ 16 < poolCount e
        ∧ w / 2 ^ 24 % 2 ^ 24 ≠ 0 := by
      simpa only [not_or, not_not, Bool.not_eq_true', Bool.not_eq_false, Nat.not_le] using hgood
    split
    · next hfree => exact iff_of_false (by decide) fun ⟨_, hgen, howner⟩ => by simp [hgen, howner] at hfree
    · next hheld =>
      split
      · next hother => exact iff_of_false (by decide) fun ⟨_, _, howner⟩ => hother howner
      · next hown => exact iff_of_true rfl ⟨ours, not_not.1 (not_or.1 hheld).2, not_not.1 hown⟩

/-- A free that is refused has a status of refusal. -/
theorem freeStatus_refusal {s : State} {hoop ctx : Nat} {handle : Word} (h : freeStatus s hoop ctx handle ≠ stOk) :
    0x10 ≤ freeStatus s hoop ctx handle := by
  unfold freeStatus at h ⊢
  dsimp only at h ⊢
  split
  · decide
  · split
    · decide
    · split
      · decide
      · next h1 h2 h3 => exact absurd (by rw [if_neg h1, if_neg h2, if_neg h3]) h

theorem taken_freeStatus (ring : BitVec 5) (pkt : List Word) (s : State) (hoop ctx : Nat) (handle : Word) :
    freeStatus (taken ring pkt s) hoop ctx handle = freeStatus s hoop ctx handle := by
  unfold freeStatus; dsimp only; rw [taken_img, taken_buffer]

/-- BUFFER_FREE of a buffer that its context owns. -/
theorem bufferFree_of_owned {ring : BitVec 5} {pkt : List Word} {s : State} (h : OwnsHandle pkt s) :
    bufferFree pkt (tagOf ring pkt) (taken ring pkt s) =
      bufferSet ring pkt 0 6 ((pkt.getD 1 0).toNat % 256) ((pkt.getD 1 0).toNat / 2 ^ 8 % 2 ^ 16)
        ⟨none, (pkt.getD 1 0).toNat / 2 ^ 24 % 2 ^ 24⟩
        (s.poolQueue ((pkt.getD 1 0).toNat % 256) ++ [(pkt.getD 1 0).toNat / 2 ^ 8 % 2 ^ 16]) s := by
  unfold bufferFree
  dsimp only
  rw [tagOf_hoop, tagOf_ctx, taken_freeStatus, if_pos ((freeStatus_eq_ok_iff pkt s).2 h), taken_poolQueue, fld_low, fld_eq, fld_eq]
  rfl

/-- The state after a BUFFER_FREE that is refused: counted at a half, reported, and answered. -/
def misused (ring : BitVec 5) (pkt : List Word) (h : Half) (r : FaultRec) (status : Nat) (s : State) : State :=
  answer (tagOf ring pkt) status 0 0 (gather r (bumpXlat h 7 1 (taken ring pkt s)))

/-- BUFFER_FREE of any other handle: POOL_MISUSE is no DANGEROUS class, so its report latches nothing. -/
theorem bufferFree_of_not_owned {pkt : List Word} {s : State} (h : ¬OwnsHandle pkt s) (ring : BitVec 5) :
    ∃ k r, bufferFree pkt (tagOf ring pkt) (taken ring pkt s) =
      misused ring pkt k r (freeStatus s (headOf pkt).hoop (headOf pkt).ctx (pkt.getD 1 0)) s := by
  unfold bufferFree
  dsimp only
  rw [tagOf_hoop, tagOf_ctx, taken_freeStatus, if_neg (mt (freeStatus_eq_ok_iff pkt s).1 h),
    report_of_severity_ne (by dsimp only [faultOf]; decide)]
  exact ⟨_, _, rfl⟩

theorem misused_units (ring : BitVec 5) (pkt : List Word) (h : Half) (r : FaultRec) (status : Nat) (s : State) :
    OnlyUnits [.host, .west, .east, .recorder] s (misused ring pkt h r status s) :=
  (((taken_keeps ring pkt s).up (m := 0x8190)).trans
    ((bumpXlat_keeps ..).up.trans ((gather_keeps ..).up.trans (answer_keeps ..).up))).units _ rfl

theorem misused_answered {ring : BitVec 5} {pkt : List Word} (hlen : (headOf pkt).length = pkt.length) (h : Half)
    (r : FaultRec) (status : Nat) (s : State) :
    Sys2Proof.Answered ring pkt 1 0 (decide (0x10 ≤ status)) s (misused ring pkt h r status s) := by
  have hhost : (gather r (bumpXlat h 7 1 (taken ring pkt s))).host = (taken ring pkt s).host :=
    ((gather_keeps ..).host rfl).trans (updHalf_host ..)
  exact answered_answer hlen (fun n => ring_of_rings (congrArg HostIf.rings hhost) n) status 0 0

theorem buffersAreFreedByTheirOwner : BuffersAreFreedByTheirOwner := by
  intro ring pkt s h w pool i g e ours b
  have hlen := packetWf_length h.1
  refine ⟨fun hours hgen howner => ?_, fun hno => ?_⟩
  · have hi : i < 65536 := Nat.mod_lt _ (by decide)
    exact ⟨_, (packet_of_admitted h).trans (congrArg _ (bufferFree_of_owned ⟨hours, hgen, howner⟩)), bufferSet_units ..,
      bufferSet_answered (hlen := hlen) .., bufferSet_buffer_self .., bufferSet_poolQueue_self ..,
      fun p j hne hj => bufferSet_buffer_ne (h := hne) (hi := hi) (hj := hj) .., fun p hp => bufferSet_poolQueue_ne (h := hp) ..⟩
  · obtain ⟨k, r, hbody⟩ := bufferFree_of_not_owned (pkt := pkt) (s := s) hno ring
    have hanswered := misused_answered (ring := ring) hlen k r (freeStatus s (headOf pkt).hoop (headOf pkt).ctx (pkt.getD 1 0)) s
    rw [decide_eq_true (freeStatus_refusal (mt (freeStatus_eq_ok_iff pkt s).1 hno))] at hanswered
    exact ⟨_, (packet_of_admitted h).trans (congrArg _ hbody), misused_units .., hanswered⟩

/-- Settles O17: a KNOT_SET is one `setKnot`, a granted BUFFER_ALLOC or BUFFER_FREE one `setBuffer`, and a refused free only counts
and reports. -/
theorem knotsAndBuffersChangeForTheirOwner : Obligations.KnotsAndBuffersChangeForTheirOwner :=
  ⟨knotsAreSet, buffersAreTakenInOrder, buffersAreFreedByTheirOwner⟩

end Sys2Proof.Machine
end

section
/-! What the work of a hoop leaves: the halves but for their fault records and their counters of reports, translations and charges,
the other hoops, and the ring pages. -/
namespace Sys2Proof.Machine

/-! ### What is kept of the halves -/

/-- The device's state is the same, and what is observed of each half. -/
structure HalvesKept {α : Type} (obs : HalfUnit → α) (s t : State) : Prop where
  dev  : t.dev = s.dev
  half : ∀ h, obs (t.half h) = obs (s.half h)

/-- A half without its fault records and without its counters of reports, translations and charges. -/
def HalfUnit.core (u : HalfUnit) : HalfUnit :=
  { u with xlatCtr := [], dampCtr := [], fgCtr := [], table := [], bufs := [], pendq := [], lost := 0 }

/-- The reset, the tick count and the speed monitor of a half (R27, R67). -/
def HalfUnit.meters (u : HalfUnit) : ResetPhase × Nat × Nat × Nat := (u.reset, u.ticks, u.liveRate, u.minRate)

section
variable {α : Type} {obs : HalfUnit → α} {s t u : State}

theorem Keeps.half {m : Nat} (k : Keeps m s t) (h7 : m.testBit 7 = false := by rfl) (h8 : m.testBit 8 = false := by rfl)
    (h : Half) : t.half h = s.half h := by
  cases h
  · exact k.west h7
  · exact k.east h8

theorem HalvesKept.refl (s : State) : HalvesKept obs s s := ⟨rfl, fun _ => rfl⟩

theorem HalvesKept.trans (h : HalvesKept obs s t) (k : HalvesKept obs t u) : HalvesKept obs s u :=
  ⟨k.dev.trans h.dev, fun x => (k.half x).trans (h.half x)⟩

theorem HalvesKept.of_eq (hdev : t.dev = s.dev) (hwest : t.west = s.west) (heast : t.east = s.east) : HalvesKept obs s t :=
  ⟨hdev, fun h => by cases h <;> exact congrArg obs ‹_›⟩

theorem HalvesKept.of_keeps {m : Nat} (k : Keeps m s t) (h3 : m.testBit 3 = false := by rfl) (h7 : m.testBit 7 = false := by rfl)
    (h8 : m.testBit 8 = false := by rfl) : HalvesKept obs s t := .of_eq (k.dev h3) (k.west h7) (k.east h8)

theorem HalvesKept.updHalf (h : Half) (f : HalfUnit → HalfUnit) (s : State) (hf : ∀ u, obs (f u) = obs u) :
    HalvesKept obs s (updHalf h f s) := by
  refine ⟨updHalf_dev .., fun k => ?_⟩
  cases h <;> cases k
  case west.west | east.east => exact hf _
  case west.east | east.west => rfl

/-- The meters are part of the core. -/
theorem HalvesKept.meters (h : HalvesKept HalfUnit.core s t) : HalvesKept HalfUnit.meters s t :=
  ⟨h.dev, fun x => (congrArg HalfUnit.meters (h.half x) : _)⟩

end

/-! ### Work beside the hoops -/

/-- Hoops and ring pages are the same, and the halves but for records and counters that no job reads. -/
structure Aside (s t : State) : Prop extends HalvesKept HalfUnit.core s t where
  hoops : t.seq.hoops = s.seq.hoops
  rings : t.host.rings = s.host.rings

section
variable {s t u : State}

theorem Aside.refl (s : State) : Aside s s := ⟨.refl s, rfl, rfl⟩

theorem Aside.trans (h : Aside s t) (k : Aside t u) : Aside s u :=
  ⟨h.toHalvesKept.trans k.toHalvesKept, k.hoops.trans h.hoops, k.rings.trans h.rings⟩

theorem Aside.ite {c : Prop} [Decidable c] (h : Aside s t) (k : Aside s u) : Aside s (if c then t else u) := by
  split <;> assumption

/-- The state of a pair that an operation answers. -/
theorem Aside.of_pair {α : Type} {p : α × State} {a : α} (h : p = (a, t)) (k : Aside s p.2) : Aside s t := by subst h; exact k

theorem Aside.of_eq (hdev : t.dev = s.dev) (hwest : t.west = s.west) (heast : t.east = s.east) (hhoops : t.seq.hoops = s.seq.hoops)
    (hrings : t.host.rings = s.host.rings) : Aside s t := ⟨.of_eq hdev hwest heast, hhoops, hrings⟩

theorem Aside.of_keeps {m : Nat} (k : Keeps m s t) (h3 : m.testBit 3 = false := by rfl) (h4 : m.testBit 4 = false := by rfl)
    (h7 : m.testBit 7 = false := by rfl) (h8 : m.testBit 8 = false := by rfl) (h9 : m.testBit 9 = false := by rfl) : Aside s t :=
  .of_eq (k.dev h3) (k.west h7) (k.east h8) (congrArg Seq.hoops (k.seq h9)) (congrArg HostIf.rings (k.host h4))

/-- An operation of the host interface or the recorder that leaves the ring pages. -/
theorem Aside.of_rings {m : Nat} (k : Keeps m s t) (hrings : t.host.rings = s.host.rings) (h3 : m.testBit 3 = false := by rfl)
    (h7 : m.testBit 7 = false := by rfl) (h8 : m.testBit 8 = false := by rfl) (h9 : m.testBit 9 = false := by rfl) : Aside s t :=
  .of_eq (k.dev h3) (k.west h7) (k.east h8) (congrArg Seq.hoops (k.seq h9)) hrings

theorem Aside.updHalf (h : Half) (f : HalfUnit → HalfUnit) (s : State) (hf : ∀ u, (f u).core = u.core) :
    Aside s (updHalf h f s) :=
  ⟨.updHalf h f s hf, congrArg Seq.hoops (updHalf_seq ..), congrArg HostIf.rings (updHalf_host ..)⟩

theorem Aside.forEach {α : Type} {l : List α} {f : α → State → State} (hf : ∀ a t, Aside t (f a t)) (s : State) :
    Aside s (forEach l f s) := forEach_invariant (P := Aside s) (fun a t h => h.trans (hf a t)) l s (.refl s)

theorem Aside.hoop (h : Aside s t) (n : Nat) : t.hoop n = s.hoop n := hoop_of_hoops h.hoops n

end

/-! ### Reports (R316) -/

theorem bumpXlat_aside (h : Half) (w k : Nat) (s : State) : Aside s (bumpXlat h w k s) := .updHalf h _ s fun _ => rfl
theorem bumpDamp_aside (h : Half) (w k : Nat) (s : State) : Aside s (bumpDamp h w k s) := .updHalf h _ s fun _ => rfl
theorem bumpFg_aside (h : Half) (w k : Nat) (s : State) : Aside s (bumpFg h w k s) := .updHalf h _ s fun _ => rfl

theorem queueRecord_aside (r : FaultRec) (s : State) : Aside s (queueRecord r s) :=
  .ite (.updHalf _ _ s fun _ => rfl) (.ite (.updHalf _ _ s fun _ => rfl) (.updHalf _ _ s fun _ => rfl))

theorem setEntry_aside (key : FaultKey) (c : Option Coalesce) (s : State) : Aside s (setEntry key c s) :=
  .updHalf key.half _ s fun _ => rfl

theorem coalesceExpire_aside (c : Coalesce) (s : State) : Aside s (coalesceExpire c s) :=
  (queueRecord_aside ..).trans (setEntry_aside ..)

theorem repeatExpire_aside (c : Coalesce) (s : State) : Aside s (repeatExpire c s) :=
  .ite (setEntry_aside ..) ((queueRecord_aside ..).trans (setEntry_aside ..))

theorem settleKey_aside (key : FaultKey) (n : Nat) (s : State) : Aside s (settleKey key n s) := by
  induction n generalizing s with
  | zero => exact .refl s
  | succ n ih =>
    unfold settleKey
    split
    · exact .refl s
    · exact .ite (.ite ((repeatExpire_aside ..).trans (ih _)) (.refl s)) (.ite ((coalesceExpire_aside ..).trans (ih _)) (.refl s))

theorem gather_aside (r : FaultRec) (s : State) : Aside s (gather r s) := by
  unfold gather
  extract_lets s1 r1 s2
  have h2 : Aside s s2 := (settleKey_aside ..).trans (bumpFg_aside ..)
  split
  · exact h2.trans ((Aside.ite (.refl s2) (bumpFg_aside ..)).trans (setEntry_aside ..))
  · exact h2.trans (.ite (setEntry_aside ..) (.updHalf _ _ s2 fun _ => rfl))

/-- The report of a class that is not DANGEROUS latches nothing. -/
theorem report_aside {r : FaultRec} (h : severity r.key.cls ≠ 2) (s : State) : Aside s (report r s) := by
  rw [report_of_severity_ne h]; exact gather_aside ..

/-! ### Reads through translation (R181 to R185) -/

theorem setCache_aside (u : CacheUnit) (c : List Leaf) (s : State) : Aside s (setCache u c s) := by
  cases u <;> exact .of_eq rfl rfl rfl rfl rfl

theorem fresh_aside (s : State) : Aside s (fresh s).2 := .of_keeps (fresh_keeps s)

theorem cacheInsert_aside (u : CacheUnit) (l : Leaf) (s : State) : Aside s (cacheInsert u l s) :=
  .ite (setCache_aside ..) ((fresh_aside s).trans (setCache_aside ..))

theorem countAccess_aside (write : Bool) (a n : Nat) (s : State) : Aside s (countAccess write a n s) :=
  .of_keeps (countAccess_keeps ..)

theorem countWalk_aside (r : Reader) (ctx va : Nat) (s : State) : Aside s (countWalk r ctx va s) :=
  ((fresh_aside s).trans (bumpXlat_aside ..)).trans (.forEach (fun _ _ => countAccess_aside ..) _)

theorem walkFor_aside (r : Reader) (ctx va : Nat) (write : Bool) (s : State) : Aside s (walkFor r ctx va write s).2 := by
  have hwalk := countWalk_aside r ctx va s
  unfold walkFor
  dsimp only
  split
  · exact hwalk.trans (bumpXlat_aside ..)
  · split
    · exact hwalk.trans (bumpXlat_aside ..)
    · split
      · exact hwalk.trans (cacheInsert_aside ..)
      · exact hwalk

theorem translate_aside (r : Reader) (ctx va : Nat) (write : Bool) (s : State) : Aside s (translate r ctx va write s).2 := by
  unfold translate
  split
  · exact walkFor_aside ..
  · split
    · split
      · exact .refl s
      · exact bumpXlat_aside ..
    · exact (bumpXlat_aside ..).trans (walkFor_aside ..)

theorem noteUnmapped_aside (r : Reader) (c : FaultClass) (s : State) : Aside s (noteUnmapped r c s) :=
  .ite (bumpXlat_aside ..) (.refl s)

theorem readPieces_aside (r : Reader) (ctx : Nat) (l : List (Nat × Nat)) (s : State) : Aside s (readPieces r ctx l s).2 := by
  induction l generalizing s with
  | nil => exact .refl s
  | cons x l ih =>
    unfold readPieces
    have htrans := translate_aside r ctx x.1 false s
    split
    · exact .of_pair ‹_› htrans
    · next pa s1 heq =>
      have h2 : Aside s (fresh s1).2 := (Aside.of_pair heq htrans).trans (fresh_aside s1)
      dsimp only
      split
      · exact h2.trans (noteUnmapped_aside ..)
      · have hrest := (h2.trans (countAccess_aside ..)).trans (ih (countAccess false pa x.2 (fresh s1).2))
        split
        · exact .of_pair ‹_› hrest
        · exact .of_pair ‹_› hrest

theorem vread_aside (r : Reader) (ctx va n : Nat) (s : State) : Aside s (vread r ctx va n s).2 := readPieces_aside ..

theorem readFrames_aside (h : Half) (ctx : Nat) (d : Entry) (args : List Word) (l : List Nat) (s : State) :
    Aside s (readFrames h ctx d args l s).2 := by
  induction l generalizing s with
  | nil => exact .refl s
  | cons k l ih => exact (vread_aside ..).trans (ih _)

/-! ### Records of the output writer (R297 to R299) -/

theorem hostWrite_aside (a : Nat) (bs : List Byte) (s : State) : Aside s (hostWrite a bs s) := .of_rings (hostWrite_keeps ..) rfl

theorem recordEntry_aside (kind : Nat) (digest : Bool) (body : List Byte) (s : State) : Aside s (recordEntry kind digest body s) :=
  .of_rings (recordEntry_keeps ..) (recordEntry_rings ..)

theorem updStream_aside (n : Nat) (f : Stream → Stream) (s : State) : Aside s (updStream n f s) := .of_keeps (updStream_keeps ..)

theorem setOutPage_aside (r : OutRing) (o : OutPage) (s : State) : Aside s (setOutPage r o s) := by
  cases r <;> exact .of_eq rfl rfl rfl rfl rfl

theorem pushRecord_aside (ring : OutRing) (off : Nat) (bs : List Byte) (s : State) : Aside s (pushRecord ring off bs s) :=
  ((hostWrite_aside ..).trans (setOutPage_aside ..)).trans (hostWrite_aside ..)

theorem loseRecord_aside (main : Bool) (r : OutRec) (s : State) : Aside s (loseRecord main r s) := by
  unfold loseRecord
  extract_lets s1 s2 full out s3 base
  have h2 : Aside s s2 := (updStream_aside ..).trans (.of_keeps (bumpOut_keeps ..))
  have h3 : Aside s s3 := h2.trans (.ite (.of_eq rfl rfl rfl rfl rfl) (.of_eq rfl rfl rfl rfl rfl))
  exact .ite h2 (h3.trans (report_aside (show severity .outputRingFull ≠ 2 by decide) s3))

theorem emitRecord_aside (main : Bool) (r : OutRec) (s : State) : Aside s (emitRecord main r s) := by
  unfold emitRecord
  extract_lets s1 s2 st lost bus bs s3
  have h2 : Aside s s2 := (Aside.of_keeps (countRecord_keeps ..)).trans (updStream_aside ..)
  split
  extract_lets s4 s5 out s6
  have h3 : Aside s2 s3 := .ite (.refl s2) (hostWrite_aside ..)
  have h4 : Aside s2 s4 := h3.trans (pushRecord_aside ..)
  have h5 : Aside s2 s5 := h4.trans (updStream_aside ..)
  clear_value s5
  have h6 : Aside s5 s6 := .ite (.of_eq rfl rfl rfl rfl rfl) (.of_eq rfl rfl rfl rfl rfl)
  exact h2.trans (.ite (loseRecord_aside ..) ((h5.trans h6).trans (recordEntry_aside ..)))

theorem takeSeq_aside (main : Bool) (n : Nat) (s : State) : Aside s (takeSeq main n s).2 := .of_keeps (takeSeq_keeps ..)

theorem holdRecord_aside (n cause : Nat) (s : State) : Aside s (holdRecord n cause s) := by
  unfold holdRecord
  split
  next q s1 heq => exact (Aside.of_pair heq (takeSeq_aside ..)).trans (emitRecord_aside ..)

theorem holdForStep_aside (hoop : Nat) (q : QJob) (args : Option (List Word)) (n : Nat) (s : State) :
    Aside s (holdForStep hoop q args n s) := by
  unfold holdForStep
  cases args with
  | none => exact holdRecord_aside ..
  | some a => exact (readFrames_aside ..).trans (holdRecord_aside ..)

theorem jobHolds_aside (hoop : Nat) (q : QJob) (args : Option (List Word)) (next : Nat) (s : State) :
    Aside s (jobHolds hoop q args next s) := .forEach (fun _ _ => holdForStep_aside ..) s

theorem sealHands_aside (hoop : Nat) (q : QJob) (status : Nat) (s : State) : Aside s (sealHands hoop q status s) :=
  .of_keeps (sealHands_keeps ..)

end Sys2Proof.Machine
end

section
/-! What the ends and admissions of jobs leave: the steps that each hoop has released, the counters of the halves but those of
ends, and the meters (R57 to R63, R75, R77, R262). -/
namespace Sys2Proof.Machine

/-! ### Steps released -/

/-- What is observed of the halves is the same, and every hoop has released as many steps. -/
structure CountsKept {α : Type} (obs : HalfUnit → α) (s t : State) : Prop extends HalvesKept obs s t where
  steps : ∀ n, (t.hoop n).steps = (s.hoop n).steps

section
variable {α : Type} {obs : HalfUnit → α} {s t u : State}

theorem CountsKept.refl (s : State) : CountsKept obs s s := ⟨.refl s, fun _ => rfl⟩

theorem CountsKept.trans (h : CountsKept obs s t) (k : CountsKept obs t u) : CountsKept obs s u :=
  ⟨h.toHalvesKept.trans k.toHalvesKept, fun n => (k.steps n).trans (h.steps n)⟩

theorem CountsKept.ite {c : Prop} [Decidable c] (h : CountsKept obs s t) (k : CountsKept obs s u) :
    CountsKept obs s (if c then t else u) := by split <;> assumption

theorem CountsKept.forEach {β : Type} {l : List β} {f : β → State → State} (hf : ∀ a t, CountsKept obs t (f a t))
    (s : State) : CountsKept obs s (forEach l f s) :=
  forEach_invariant (P := CountsKept obs s) (fun a t h => h.trans (hf a t)) l s (.refl s)

theorem CountsKept.meters (h : CountsKept HalfUnit.core s t) : CountsKept HalfUnit.meters s t :=
  ⟨h.toHalvesKept.meters, h.steps⟩

theorem Aside.counts (h : Aside s t) : CountsKept HalfUnit.core s t :=
  ⟨h.toHalvesKept, fun n => congrArg HoopUnit.steps (h.hoop n)⟩

theorem CountsKept.of_eq (hdev : t.dev = s.dev) (hwest : t.west = s.west) (heast : t.east = s.east)
    (hhoops : t.seq.hoops = s.seq.hoops) : CountsKept obs s t :=
  ⟨.of_eq hdev hwest heast, fun n => congrArg HoopUnit.steps (hoop_of_hoops hhoops n)⟩

theorem CountsKept.of_keeps {m : Nat} (k : Keeps m s t) (h3 : m.testBit 3 = false := by rfl) (h7 : m.testBit 7 = false := by rfl)
    (h8 : m.testBit 8 = false := by rfl) (h9 : m.testBit 9 = false := by rfl) : CountsKept obs s t :=
  .of_eq (k.dev h3) (k.west h7) (k.east h8) (congrArg Seq.hoops (k.seq h9))

theorem CountsKept.updHalf (h : Half) (f : HalfUnit → HalfUnit) (s : State) (hf : ∀ u, obs (f u) = obs u) :
    CountsKept obs s (updHalf h f s) := ⟨.updHalf h f s hf, fun n => congrArg HoopUnit.steps (hoop_of_seq (updHalf_seq ..) n)⟩

theorem CountsKept.updHoop (n : Nat) (f : HoopUnit → HoopUnit) (s : State) (hf : ∀ u, (f u).steps = u.steps) :
    CountsKept obs s (updHoop n f s) := by
  refine ⟨.of_eq rfl rfl rfl, fun k => ?_⟩
  by_cases hk : k = n
  · rw [hk, updHoop_self, hf]
  · rw [updHoop_ne _ _ _ hk]

end

theorem updJob_counts {α : Type} {obs : HalfUnit → α} (hoop : Nat) (f : Job → Job) (s : State) :
    CountsKept obs s (updJob hoop f s) := .updHoop hoop _ s fun _ => rfl

/-! ### Counters of the sequencer (R77) -/

/-- A sequencer counter of a half. -/
def State.seqCount (s : State) (h : Half) (w : Nat) : Nat := Tab.get 0 (s.half h).seqCtr w

theorem HalvesKept.seqCount {s t : State} (k : HalvesKept HalfUnit.core s t) (h : Half) (w : Nat) :
    t.seqCount h w = s.seqCount h w := (congrArg (fun u : HalfUnit => Tab.get 0 u.seqCtr w) (k.half h) : _)

theorem bumpSeq_seqCount_self (h : Half) (w k : Nat) (s : State) :
    (bumpSeq h w k s).seqCount h w = (s.seqCount h w + k) % 2 ^ 64 := by
  rw [State.seqCount, bumpSeq, updHalf_self]; exact get_bump_self ..

theorem bumpSeq_seqCount_ne (h k : Half) {v w : Nat} (n : Nat) (s : State) (hv : v ≠ w) :
    (bumpSeq h w n s).seqCount k v = s.seqCount k v := by
  unfold State.seqCount bumpSeq
  cases h <;> cases k
  case west.west | east.east => exact get_bump_ne _ _ hv
  case west.east | east.west => rfl

theorem bumpSeq_meters (h : Half) (w k : Nat) (s : State) : CountsKept HalfUnit.meters s (bumpSeq h w k s) :=
  .updHalf h _ s fun _ => rfl

/-- Counting the end of a job does not depend on what `CountsKept` leaves open. -/
theorem CountsKept.bumpSeq {s t : State} (k : CountsKept HalfUnit.core s t) (h : Half) (w n : Nat) :
    CountsKept HalfUnit.core (bumpSeq h w n s) (bumpSeq h w n t) := by
  have hcount (x : Half) : ({ t.half x with seqCtr := bump (t.half x).seqCtr w n } : HalfUnit).core
      = ({ s.half x with seqCtr := bump (s.half x).seqCtr w n } : HalfUnit).core :=
    congrArg (fun u : HalfUnit => { u with seqCtr := bump u.seqCtr w n }) (k.half x)
  refine ⟨⟨?_, fun x => ?_⟩, fun i => ?_⟩
  · exact (updHalf_dev ..).trans (k.dev.trans (updHalf_dev ..).symm)
  · cases h <;> cases x
    case west.west => exact hcount .west
    case east.east => exact hcount .east
    case west.east => exact k.half .east
    case east.west => exact k.half .west
  · have hseq (v : State) : (Machine.bumpSeq h w n v).hoop i = v.hoop i := hoop_of_seq (updHalf_seq ..) i
    rw [hseq, hseq]; exact k.steps i

/-- How a job ended, counted (R77). -/
def countEnd (h : Half) (status : Nat) (s : State) : State :=
  if status = stJobDone then bumpSeq h 1 1 s else if status = stJobFaulted then bumpSeq h 2 1 s
  else if status = stCancelled then bumpSeq h 3 1 s else s

/-- A status under which no counter of ends moves. -/
abbrev EndsUncounted (status : Nat) : Prop := status ≠ stJobDone ∧ status ≠ stJobFaulted ∧ status ≠ stCancelled

theorem countEnd_of_uncounted {status : Nat} (h : EndsUncounted status) (k : Half) (s : State) : countEnd k status s = s := by
  obtain ⟨h1, h2, h3⟩ := h
  rw [countEnd, if_neg h1, if_neg h2, if_neg h3]

theorem countEnd_meters (h : Half) (status : Nat) (s : State) : CountsKept HalfUnit.meters s (countEnd h status s) :=
  .ite (bumpSeq_meters ..) (.ite (bumpSeq_meters ..) (.ite (bumpSeq_meters ..) (.refl s)))

theorem CountsKept.countEnd {s t : State} (k : CountsKept HalfUnit.core s t) (h : Half) (status : Nat) :
    CountsKept HalfUnit.core (countEnd h status s) (countEnd h status t) := by
  unfold Machine.countEnd
  split
  · exact k.bumpSeq ..
  · split
    · exact k.bumpSeq ..
    · split
      · exact k.bumpSeq ..
      · exact k

/-! ### A job that ends (R77, R285, R299) -/

/-- The final reply of a job counts its end, and of the halves and the released steps no more. -/
theorem finalReply_counts (hoop : Nat) (q : QJob) (status eff charge : Nat) (s : State) :
    CountsKept HalfUnit.core (countEnd (s.hoopHome hoop) status s) (finalReply hoop q status eff charge s) := by
  unfold finalReply
  extract_lets h shares v seq s1 s2 s3 rec s4 s5
  have h1 : CountsKept HalfUnit.core s s1 := .of_eq rfl rfl rfl rfl
  have h2 : CountsKept HalfUnit.core (countEnd h status s) s2 := h1.countEnd h status
  have h3 : CountsKept HalfUnit.core s2 s3 := (bumpDamp_aside ..).counts
  have h4 : CountsKept HalfUnit.core s3 s4 := .ite (.refl s3) (.of_eq rfl rfl rfl rfl)
  have h5 : CountsKept HalfUnit.core s4 s5 := (recordEntry_aside ..).counts
  exact h2.trans (h3.trans (h4.trans (h5.trans (.of_keeps (replyFinal_keeps ..)))))

/-- The state in which a job's final reply is written: its HOLD records are out, and its handovers know of its end. -/
def jobSealed (hoop : Nat) (q : QJob) (args : Option (List Word)) (next status : Nat) (s : State) : State :=
  sealHands hoop q status (if holdsAfter status then jobHolds hoop q args next s else s)

theorem closeJob_eq (hoop : Nat) (q : QJob) (args : Option (List Word)) (next status eff charge : Nat) (s : State) :
    closeJob hoop q args next status eff charge s =
      finalReply hoop q status eff charge (jobSealed hoop q args next status s) := rfl

section
variable (hoop : Nat) (q : QJob) (args : Option (List Word)) (next status eff charge : Nat) (s : State)

theorem jobSealed_aside : Aside s (jobSealed hoop q args next status s) :=
  (Aside.ite (jobHolds_aside ..) (.refl s)).trans (sealHands_aside ..)

theorem jobSealed_img : (jobSealed hoop q args next status s).img = s.img := by
  have hholds : Keeps 0x19798 s (if holdsAfter status then jobHolds hoop q args next s else s) := .ite (jobHolds_keeps ..) (.refl s)
  exact ((sealHands_keeps ..).img rfl).trans (hholds.img rfl)

theorem closeJob_counts :
    CountsKept HalfUnit.core (countEnd (s.hoopHome hoop) status s) (closeJob hoop q args next status eff charge s) := by
  have hhome : (jobSealed hoop q args next status s).hoopHome hoop = s.hoopHome hoop :=
    congrArg hoopHalf (hoopEntry_congr (jobSealed_img ..) hoop)
  have hreply := finalReply_counts hoop q status eff charge (jobSealed hoop q args next status s)
  rw [hhome] at hreply
  exact ((jobSealed_aside ..).counts.countEnd _ status).trans hreply

theorem closeJob_hoop (n : Nat) : (closeJob hoop q args next status eff charge s).hoop n = s.hoop n := by
  rw [closeJob_eq, finalReply_hoop, (jobSealed_aside ..).hoop]

theorem closeJob_outstanding :
    ((closeJob hoop q args next status eff charge s).ring q.ring).outstanding = (s.ring q.ring).outstanding - 1 := by
  rw [closeJob_eq, finalReply_outstanding, ring_of_rings (jobSealed_aside ..).rings]

end

theorem closeJob_uncounted {status : Nat} (h : EndsUncounted status) (hoop : Nat) (q : QJob) (args : Option (List Word))
    (next eff charge : Nat) (s : State) : CountsKept HalfUnit.core s (closeJob hoop q args next status eff charge s) := by
  have hclose := closeJob_counts hoop q args next status eff charge s
  rwa [countEnd_of_uncounted h] at hclose

/-! ### Admission (R60, R262) -/

theorem admitJob_counts (hoop : Nat) (q : QJob) (s : State) : CountsKept HalfUnit.core s (admitJob hoop q s) := by
  unfold admitJob
  extract_lets img s1 h s2 rec s3 s4 ticks st j
  have h1 : CountsKept HalfUnit.core s s1 := .of_eq rfl rfl rfl rfl
  have h2 : CountsKept HalfUnit.core s1 s2 := .updHoop hoop _ s1 fun _ => rfl
  have h3 : CountsKept HalfUnit.core s2 s3 := by
    unfold s3
    refine .ite ?_ (recordEntry_aside ..).counts
    split
    · exact .of_eq rfl rfl rfl rfl
    · exact .refl s2
  have h4 : CountsKept HalfUnit.core s1 s4 := (h2.trans h3).trans (bumpDamp_aside ..).counts
  have hvacant := closeJob_uncounted (show EndsUncounted stNoHearth by decide) hoop q none 0 0 0 s4
  exact h1.trans (.ite (h4.trans hvacant) (h4.trans (.updHoop hoop _ s4 fun _ => rfl)))

theorem tryAdmit_counts (hoop : Nat) (s : State) : CountsKept HalfUnit.core s (tryAdmit hoop s) := by
  unfold tryAdmit
  generalize (s.hoop hoop).queue.length + 1 = n
  induction n generalizing s with
  | zero => exact .refl s
  | succ n ih =>
    unfold admitUpTo
    refine .ite (.refl s) ?_
    split
    · exact .refl s
    · exact (admitJob_counts ..).trans (ih _)

/-! ### Ends of steps and jobs (R63, R73, R75) -/

theorem holdRounds_counts {α : Type} {obs : HalfUnit → α} (hoop : Nat) (s : State) : CountsKept obs s (holdRounds hoop s) :=
  .updHoop hoop _ s fun _ => rfl

/-- The end of a hoop's job counts the end, and of the halves and the released steps no more. -/
theorem endJob_counts {hoop : Nat} {s : State} (hjob : (s.hoop hoop).job ≠ none) (status eff : Nat) :
    CountsKept HalfUnit.core (countEnd (s.hoopHome hoop) status s) (endJob hoop status eff s) := by
  unfold endJob
  split
  · exact absurd ‹_› hjob
  · next j _ =>
    have hclose := closeJob_counts hoop j.q j.argsRead j.next status eff j.charge s
    generalize closeJob hoop j.q j.argsRead j.next status eff j.charge s = t at hclose ⊢
    have hidle : CountsKept HalfUnit.core t (updHoop hoop (fun u => { u with job := none }) t) := .updHoop hoop _ t fun _ => rfl
    exact hclose.trans (hidle.trans ((holdRounds_counts ..).trans (tryAdmit_counts ..)))

theorem endJob_of_idle {hoop : Nat} {s : State} (hjob : (s.hoop hoop).job = none) (status eff : Nat) :
    endJob hoop status eff s = s := by unfold endJob; rw [hjob]

theorem endJob_meters (hoop status eff : Nat) (s : State) : CountsKept HalfUnit.meters s (endJob hoop status eff s) := by
  by_cases hjob : (s.hoop hoop).job = none
  · rw [endJob_of_idle hjob]; exact .refl s
  · exact (countEnd_meters ..).trans (endJob_counts hjob status eff).meters

theorem settleJob_meters (hoop : Nat) (s : State) : CountsKept HalfUnit.meters s (settleJob hoop s) := by
  unfold settleJob
  split
  · exact .refl s
  · refine .ite (.refl s) ?_
    split
    · exact .ite (endJob_meters ..) (.refl s)
    · exact endJob_meters ..
    all_goals exact .refl s

theorem setKnot_counts {α : Type} {obs : HalfUnit → α} (k v : Nat) (s : State) : CountsKept obs s (setKnot k v s) :=
  .of_eq rfl rfl rfl rfl

theorem applyPost_counts {α : Type} {obs : HalfUnit → α} (e : Entry) (args : List Word) (i : Nat) (s : State) :
    CountsKept obs s (applyPost e args i s) :=
  .ite (.refl s) (.ite (setKnot_counts ..) (setKnot_counts ..))

theorem stepEnd_meters (hoop n : Nat) (faulted : Bool) (s : State) : CountsKept HalfUnit.meters s (stepEnd hoop n faulted s) := by
  unfold stepEnd
  split
  · exact .refl s
  · have hposts (e : Entry) (args : List Word) (t : State) :
        CountsKept HalfUnit.meters t (applyPost e args 1 (applyPost e args 0 t)) :=
      (applyPost_counts ..).trans (applyPost_counts ..)
    exact ((updJob_counts ..).trans (.ite (hposts ..) (.refl _))).trans (settleJob_meters ..)

theorem updStep_counts {α : Type} {obs : HalfUnit → α} (hoop n : Nat) (f : Released → Released) (s : State) :
    CountsKept obs s (updStep hoop n f s) := updJob_counts ..

theorem partEnd_meters (hoop n pos : Nat) (s : State) : CountsKept HalfUnit.meters s (partEnd hoop n pos s) := by
  unfold partEnd
  extract_lets s1
  have h1 : CountsKept HalfUnit.meters s s1 := updStep_counts ..
  split
  · exact h1.trans (.ite (stepEnd_meters ..) (.refl s1))
  · exact h1

theorem noteFault_counts {α : Type} {obs : HalfUnit → α} (hoop n : Nat) (s : State) : CountsKept obs s (noteFault hoop n s) :=
  updJob_counts ..

theorem partFault_meters (hoop n pos : Nat) (s : State) : CountsKept HalfUnit.meters s (partFault hoop n pos s) :=
  ((updStep_counts ..).trans (noteFault_counts ..)).trans (partEnd_meters ..)

end Sys2Proof.Machine
end

section
/-! What releases leave: the meters of the halves, and the steps of every hoop but those that the release itself counts (R59,
R70 to R72, R187, R340 to R345). -/
namespace Sys2Proof.Machine

/-! ### Faults of reads -/

/-- No address is refused with a DANGEROUS class (R177). -/
theorem locate_error_severity {s : State} {a : Nat} {c : FaultClass} (h : s.locate a = .error c) : severity c ≠ 2 := by
  unfold State.locate at h
  split at h
  · split at h
    · cases h; decide
    · split at h
      · cases h; decide
      · cases h
  · split at h
    · cases h
    · split at h
      · cases h
      · split at h
        · cases h
        · cases h; decide

/-- A walk over a list fails with an error of one of its elements. -/
theorem mapM_error {α β ε : Type} {f : α → Except ε β} {e : ε} {l : List α} (h : l.mapM f = .error e) :
    ∃ a, f a = .error e := by
  induction l with
  | nil => cases h
  | cons a l ih =>
    rw [List.mapM_cons] at h
    cases ha : f a with
    | error e' => rw [ha] at h; cases h; exact ⟨a, ha⟩
    | ok b =>
      cases hl : l.mapM f with
      | error e' => rw [ha, hl] at h; cases h; exact ih hl
      | ok bs => rw [ha, hl] at h; cases h

theorem physBytes_error_severity {s : State} {salt a n : Nat} {c : FaultClass} (h : s.physBytes salt a n = .error c) :
    severity c ≠ 2 := by
  obtain ⟨i, hi⟩ := mapM_error h
  cases hloc : s.locate (a + i) with
  | error e => rw [hloc] at hi; cases hi; exact locate_error_severity hloc
  | ok l => rw [hloc] at hi; cases hi

theorem readPieces_error_severity {r : Reader} {ctx : Nat} {l : List (Nat × Nat)} {s : State} {c : FaultClass}
    (h : (readPieces r ctx l s).1 = .error c) : severity c ≠ 2 := by
  induction l generalizing s with
  | nil => cases h
  | cons x l ih =>
    unfold readPieces at h
    split at h
    · cases h; decide
    · dsimp only at h
      split at h
      · next hbytes => cases h; exact physBytes_error_severity hbytes
      · split at h
        · cases h
        · next hrest => cases h; exact ih (congrArg Prod.fst hrest)

/-- A read through translation never fails with a DANGEROUS class. -/
theorem vread_error_severity {r : Reader} {ctx va n : Nat} {s : State} {c : FaultClass} (h : (vread r ctx va n s).1 = .error c) :
    severity c ≠ 2 := readPieces_error_severity h

/-! ### Parts that end with a release (R15, R55) -/

theorem endEmpty_meters (hoop : Nat) (s : State) : CountsKept HalfUnit.meters s (endEmpty hoop s) := by
  unfold endEmpty
  split
  · exact .refl s
  · exact .forEach (fun _ _ => stepEnd_meters ..) s

theorem dropParts_meters (hoop pos : Nat) (s : State) : CountsKept HalfUnit.meters s (dropParts hoop pos s) := by
  unfold dropParts
  split
  · exact .refl s
  · exact .forEach (fun _ _ => partFault_meters ..) s

theorem dropVacant_meters (hoop : Nat) (s : State) : CountsKept HalfUnit.meters s (dropVacant hoop s) :=
  .forEach (fun _ _ => dropParts_meters ..) s

/-! ### Collectives that begin (R340 to R345) -/

theorem collStop_meters (c : Coll) {cls : FaultClass} (hcls : severity cls ≠ 2) (link cause : Nat) (s : State) :
    CountsKept HalfUnit.meters s (collStop c cls link cause s) := by
  unfold collStop
  extract_lets f s1 s2
  have h1 : Aside s s1 := report_aside hcls s
  have h2 : CountsKept HalfUnit.meters s s2 := h1.counts.meters.trans (.of_keeps (bumpSys_keeps ..))
  split
  · exact h2.trans (partFault_meters ..)
  · exact h2

theorem dropStale_counts (c : Coll) (h : Half) (n : Nat) (s : State) : CountsKept HalfUnit.core s (dropStale c h n s) := by
  induction n generalizing s with
  | zero => exact .refl s
  | succ n ih =>
    unfold dropStale
    split
    · exact .refl s
    · next x _ =>
      extract_lets link s1 f
      have h1 : Aside s s1 := .of_eq rfl rfl rfl rfl rfl
      exact .ite ((h1.trans (report_aside (show severity .staleResult ≠ 2 by decide) s1)).counts.trans (ih _)) (.refl s)

theorem dropContribution_counts {α : Type} {obs : HalfUnit → α} (x : Contribution) (s : State) :
    CountsKept obs s { s with link := { s.link with inbox := s.link.inbox.erase x } } := .of_eq rfl rfl rfl rfl

theorem checkHeaders_meters (h : Half) (s : State) : CountsKept HalfUnit.meters s (checkHeaders h s) := by
  refine .forEach (fun c t => ?_) s
  extract_lets t1
  have h1 : CountsKept HalfUnit.meters t t1 := .ite (dropStale_counts ..).meters (.refl t)
  split
  · exact h1
  · exact h1.trans (.trans (dropContribution_counts ..) (collStop_meters c (show severity .peerAbsent ≠ 2 by decide) ..))

theorem sendPayloads_counts {α : Type} {obs : HalfUnit → α} (h : Half) (ty : Nat) (ps : List (Nat × List Byte)) (s : State) :
    CountsKept obs s (sendPayloads h ty ps s) :=
  .ite (.refl s) (.forEach (fun _ t => .ite (.of_keeps (sendFlit_keeps ..)) (.refl t)) s)

theorem beginCollective_meters (c : Coll) (s : State) : CountsKept HalfUnit.meters s (beginCollective c s) := by
  unfold beginCollective
  extract_lets h r n s1
  have h1 : CountsKept HalfUnit.meters s s1 := updStep_counts ..
  have habsent (cause : Nat) : CountsKept HalfUnit.meters s1 (collStop c .peerAbsent (lowLink h) cause s1) :=
    collStop_meters c (show severity .peerAbsent ≠ 2 by decide) ..
  refine h1.trans (.ite (habsent _) (.ite (habsent _) (.ite (.refl s1) (.ite (checkHeaders_meters ..) ?_))))
  split
  next x s2 heq =>
    have h2 : CountsKept HalfUnit.meters s1 s2 := (Aside.of_pair heq (vread_aside ..)).counts.meters
    split
    · exact h2.trans (collStop_meters c (vread_error_severity (congrArg Prod.fst heq)) ..)
    · exact (h2.trans (sendPayloads_counts ..)).trans (checkHeaders_meters ..)

theorem startCollectives_meters (hoop : Nat) (s : State) : CountsKept HalfUnit.meters s (startCollectives hoop s) := by
  unfold startCollectives
  split
  · exact .refl s
  · exact .forEach beginCollective_meters s

/-! ### One step released (R59, R71, R72, R187) -/

theorem updHearth_counts {α : Type} {obs : HalfUnit → α} (p : Nat) (f : Hearth → Hearth) (s : State) :
    CountsKept obs s (updHearth p f s) := .of_eq rfl rfl rfl rfl

theorem filterCaches_counts {α : Type} {obs : HalfUnit → α} (l : List Nat) (keep : Leaf → Bool) (s : State) :
    CountsKept obs s (filterCaches l keep s) := by
  unfold filterCaches
  extract_lets s1
  have h1 : CountsKept obs s s1 := .forEach (fun p t => updHearth_counts p _ t) s
  exact h1.trans (.of_eq rfl rfl rfl rfl)

theorem beginInvalidate_counts {α : Type} {obs : HalfUnit → α} (hoop : Nat) (j : Job) (n : Nat) (s : State) :
    CountsKept obs s (beginInvalidate hoop j n s) :=
  .ite (.refl s) ((filterCaches_counts ..).trans (.of_keeps (queueInval_keeps ..)))

theorem noteSlip_meters (hoop : Nat) (j : Job) (n late : Nat) (s : State) :
    CountsKept HalfUnit.meters s (noteSlip hoop j n late s) := by
  unfold noteSlip
  extract_lets h p base s1 s2 s3 s4 f
  have h1 : CountsKept HalfUnit.meters s s1 := .updHalf h _ s fun _ => rfl
  have h3 : Aside s2 s3 := report_aside (show severity .paceSlip ≠ 2 by decide) s2
  have h4 : CountsKept HalfUnit.meters s s4 :=
    ((h1.trans (bumpSeq_meters ..)).trans h3.counts.meters).trans (updJob_counts ..)
  have h5 : Aside s4 (report { f with ctx := j.q.ctx, hoop := hoop, step := n } s4) :=
    report_aside (show severity .paceFault ≠ 2 by decide) s4
  exact .ite (((h4.trans h5.counts.meters).trans (updJob_counts ..)).trans (.of_keeps (lateHands_keeps ..))) h4

/-- One more step released in a hoop. -/
def countStep (hoop : Nat) : State → State := updHoop hoop fun u => { u with steps := u.steps + 1 }

theorem countStep_steps_self (hoop : Nat) (s : State) : ((countStep hoop s).hoop hoop).steps = (s.hoop hoop).steps + 1 := by
  rw [countStep, updHoop_self]

theorem CountsKept.countStep {α : Type} {obs : HalfUnit → α} {s t : State} (k : CountsKept obs s t) (hoop : Nat) :
    CountsKept obs (countStep hoop s) (countStep hoop t) := by
  refine ⟨⟨k.dev, k.half⟩, fun n => ?_⟩
  by_cases hn : n = hoop
  · rw [hn, countStep_steps_self, countStep_steps_self, k.steps]
  · have hother (u : State) : (Machine.countStep hoop u).hoop n = u.hoop n := updHoop_ne _ _ _ hn
    rw [hother, hother, k.steps]

/-- The release of a step counts it in its hoop, and of the meters and the other hoops' steps changes nothing. -/
theorem releaseOne_counts (hoop : Nat) (j : Job) (s : State) :
    CountsKept HalfUnit.meters (countStep hoop s) (releaseOne hoop j s) := by
  unfold releaseOne
  extract_lets h tick n e t0 r s1 s2 s3 s4 s5 s6
  have h1 : CountsKept HalfUnit.meters s s1 := updJob_counts ..
  have h2 : CountsKept HalfUnit.meters s1 s2 := .ite (bumpSeq_meters ..) (.refl s1)
  have h3 : CountsKept HalfUnit.meters s2 s3 := bumpSeq_meters ..
  have h4 : CountsKept HalfUnit.meters s3 s4 := .updHalf h _ s3 fun _ => rfl
  have h5 : CountsKept HalfUnit.meters (countStep hoop s) s5 := (((h1.trans h2).trans h3).trans h4).countStep hoop
  have h6 : CountsKept HalfUnit.meters s5 s6 := .ite (noteSlip_meters ..) (.refl s5)
  exact (h5.trans h6).trans (beginInvalidate_counts ..)

theorem releaseOne_steps (hoop : Nat) (j : Job) (s : State) :
    ((releaseOne hoop j s).hoop hoop).steps = (s.hoop hoop).steps + 1 := by
  rw [(releaseOne_counts hoop j s).steps, countStep_steps_self]

theorem countStep_meters (hoop : Nat) (s : State) : HalvesKept HalfUnit.meters s (countStep hoop s) := .of_eq rfl rfl rfl

/-! ### The releases of a hoop (R59, R70) -/

/-- A job from which a step may leave: it is READY or RUNNING and its next step is eligible. -/
def Releasable (s : State) (hoop : Nat) (j : Job) (paced : Bool) : Prop :=
  (j.st = .ready ∨ j.st = .running) ∧ s.eligible hoop j paced = true

section
variable {hoop : Nat} {paced : Bool} {s : State} {j : Job}

theorem releaseLoop_of_idle (hjob : (s.hoop hoop).job = none) (n : Nat) : releaseLoop hoop paced n s = s := by
  cases n with
  | zero => rfl
  | succ n => unfold releaseLoop; rw [hjob]

theorem releaseLoop_of_not_releasable (hjob : (s.hoop hoop).job = some j) (hr : ¬ Releasable s hoop j paced) (n : Nat) :
    releaseLoop hoop paced n s = s := by
  cases n with
  | zero => rfl
  | succ n => unfold releaseLoop; rw [hjob]; exact if_neg hr

theorem releaseLoop_of_releasable (hjob : (s.hoop hoop).job = some j) (hr : Releasable s hoop j paced) (n : Nat) :
    releaseLoop hoop paced (n + 1) s = releaseLoop hoop paced n (releaseOne hoop j s) := by
  rw [releaseLoop, hjob]; exact if_pos hr

end

/-- In `n` turns a hoop releases `n` steps at the most, and takes none back. -/
theorem releaseLoop_steps (hoop : Nat) (paced : Bool) (n : Nat) (s : State) :
    (s.hoop hoop).steps ≤ ((releaseLoop hoop paced n s).hoop hoop).steps
      ∧ ((releaseLoop hoop paced n s).hoop hoop).steps ≤ (s.hoop hoop).steps + n := by
  induction n generalizing s with
  | zero => exact ⟨le_rfl, le_rfl⟩
  | succ n ih =>
    cases hjob : (s.hoop hoop).job with
    | none => rw [releaseLoop_of_idle hjob]; omega
    | some j =>
      by_cases hr : Releasable s hoop j paced
      · rw [releaseLoop_of_releasable hjob hr]
        have hrest := ih (releaseOne hoop j s)
        rw [releaseOne_steps] at hrest
        omega
      · rw [releaseLoop_of_not_releasable hjob hr]; omega

theorem releaseLoop_meters (hoop : Nat) (paced : Bool) (n : Nat) (s : State) :
    HalvesKept HalfUnit.meters s (releaseLoop hoop paced n s) := by
  induction n generalizing s with
  | zero => exact .refl s
  | succ n ih =>
    cases hjob : (s.hoop hoop).job with
    | none => rw [releaseLoop_of_idle hjob]; exact .refl s
    | some j =>
      by_cases hr : Releasable s hoop j paced
      · rw [releaseLoop_of_releasable hjob hr]
        exact ((countStep_meters ..).trans (releaseOne_counts ..).toHalvesKept).trans (ih _)
      · rw [releaseLoop_of_not_releasable hjob hr]; exact .refl s

/-- The releases of a hoop and the collectives that they start, in one handshake. -/
def releaseAll (hoop : Nat) (paced : Bool) (s : State) : State := startCollectives hoop (releaseHoop hoop paced s)

/-- After its steps are released, a handshake counts no further one and leaves the meters. -/
theorem releaseAll_counts (hoop : Nat) (paced : Bool) (s : State) :
    CountsKept HalfUnit.meters (releaseLoop hoop paced 8 s) (releaseAll hoop paced s) :=
  ((endEmpty_meters ..).trans (dropVacant_meters ..)).trans (startCollectives_meters ..)

theorem releaseAll_meters (hoop : Nat) (paced : Bool) (s : State) : HalvesKept HalfUnit.meters s (releaseAll hoop paced s) :=
  (releaseLoop_meters ..).trans (releaseAll_counts ..).toHalvesKept

theorem releaseAll_keeps (hoop : Nat) (paced : Bool) (s : State) : Keeps 0x1D7B8 s (releaseAll hoop paced s) :=
  .trans ((releaseHoop_keeps ..).up (by decide)) (startCollectives_keeps ..)

/-! #### A hoop without a job -/

theorem endEmpty_of_idle {hoop : Nat} {s : State} (hjob : (s.hoop hoop).job = none) : endEmpty hoop s = s := by
  unfold endEmpty; rw [hjob]

theorem startCollectives_of_idle {hoop : Nat} {s : State} (hjob : (s.hoop hoop).job = none) : startCollectives hoop s = s := by
  unfold startCollectives; rw [hjob]

theorem dropVacant_of_idle {hoop : Nat} {s : State} (hjob : (s.hoop hoop).job = none) : dropVacant hoop s = s := by
  have hdrop (pos : Nat) : dropParts hoop pos s = s := by unfold dropParts; rw [hjob]
  exact forEach_invariant (P := (· = s)) (fun l t ht => by rw [ht, hdrop]) _ s rfl

theorem releaseAll_of_idle {hoop : Nat} {s : State} (paced : Bool) (hjob : (s.hoop hoop).job = none) :
    releaseAll hoop paced s = s := by
  rw [releaseAll, releaseHoop, releaseLoop_of_idle hjob, endEmpty_of_idle hjob, dropVacant_of_idle hjob,
    startCollectives_of_idle hjob]

/-! ### Unpaced releases (R58, R59, R70) -/

theorem exec_unpacedRelease (hoop : BitVec 4) (s : State) :
    exec (.unpacedRelease hoop) s =
      .next (if hoopPaced (s.hoopEntry hoop.toNat) then s else releaseAll hoop.toNat false s) := rfl

/-- An unpaced hoop releases its eligible steps, eight at the most. -/
theorem eligibleStepsAreReleased : EligibleStepsAreReleased := by
  intro hoop s h u
  rw [exec_unpacedRelease]
  refine ⟨fun hnone => ?_, fun j hpaced hjob => ?_⟩
  · obtain hpaced | hjob := hnone
    · rw [if_pos hpaced]
    · rw [releaseAll_of_idle _ hjob, ite_self]
  · have hsteps := releaseLoop_steps h false 8 s
    rw [if_neg (by rw [hpaced]; decide)]
    refine ⟨_, rfl, (releaseAll_keeps ..).units _ rfl, ?_⟩
    rw [(releaseAll_counts h false s).steps]
    refine ⟨hsteps.1, hsteps.2, fun hst helig => ?_, fun hnot => ?_⟩
    · have hrest := releaseLoop_steps h false 7 (releaseOne h j s)
      rw [releaseOne_steps] at hrest
      rw [releaseLoop_of_releasable hjob ⟨hst, helig⟩]
      exact hrest.1
    · rw [releaseLoop_of_not_releasable hjob]
      rintro ⟨hst, helig⟩
      obtain hst' | helig' := hnot
      · exact hst' hst
      · rw [helig] at helig'; cases helig'

end Sys2Proof.Machine
end

section
/-! A pace tick: its time, and its tick count and speed monitor in each half (R27, R67, R76). -/
namespace Sys2Proof.Machine

/-! ### The half at a tick -/

theorem tickHalf_half_self (h : Half) (rate : Nat) (s : State) : (tickHalf h rate s).half h =
    if (s.half h).underReset then s.half h
    else { s.half h with ticks := (s.half h).ticks + 1, liveRate := rate, minRate := min (s.half h).minRate rate,
                         measured := true } :=
  updHalf_self ..

theorem meters_eq_iff {u : HalfUnit} {r : ResetPhase} {ticks live least : Nat} :
    u.meters = (r, ticks, live, least) ↔ u.reset = r ∧ u.ticks = ticks ∧ u.liveRate = live ∧ u.minRate = least := by
  simp only [HalfUnit.meters, Prod.mk.injEq]

theorem tickHalf_meters_of_running {h : Half} {s : State} (hr : (s.half h).reset = .none) (rate : Nat) :
    ((tickHalf h rate s).half h).meters = (.none, (s.half h).ticks + 1, rate, min (s.half h).minRate rate) := by
  rw [tickHalf_half_self, if_neg (by rw [HalfUnit.underReset, hr]; decide), HalfUnit.meters, hr]

theorem tickHalf_meters_of_reset {h : Half} {s : State} (hr : (s.half h).reset ≠ .none) (rate : Nat) :
    ((tickHalf h rate s).half h).meters = (s.half h).meters := by
  rw [tickHalf_half_self, if_pos (show (s.half h).underReset = true from bne_iff_ne.2 hr)]

/-- Both halves at a tick. -/
def tickHalves (west east : Nat) (s : State) : State := tickHalf .east east (tickHalf .west west s)

/-- The rate that a tick measures in a half. -/
def rateAt (west east : Nat) : Half → Nat
  | .west => west
  | .east => east

theorem tickHalves_meters (west east : Nat) (s : State) (h : Half) :
    ((tickHalves west east s).half h).meters = ((tickHalf h (rateAt west east h) s).half h).meters := by cases h <;> rfl

theorem tickHalves_keeps (west east : Nat) (s : State) : Keeps 0x180 s (tickHalves west east s) :=
  (tickHalf_keeps ..).trans (tickHalf_keeps ..)

/-! ### The time at a tick -/

theorem advanceTo_nextTick (hp : Nat) (s : State) : (advanceTo hp s).time.nextTick = s.time.nextTick := by
  unfold advanceTo; split <;> rfl

theorem advanceTo_tickHp (hp : Nat) (s : State) : (advanceTo hp s).time.tickHp = s.time.tickHp := by
  unfold advanceTo; split <;> rfl

theorem advanceTo_schedule (hp : Nat) (s : State) : (advanceTo hp s).time.schedule = s.time.schedule := by
  unfold advanceTo; split <;> rfl

theorem tickTime_hp (s : State) : (tickTime s).time.hp = max s.time.hp s.time.nextTick := advanceTo_hp ..

theorem tickTime_nextTick (s : State) : (tickTime s).time.nextTick = s.time.nextTick + s.time.tickHp := by
  change (advanceTo s.time.nextTick s).time.nextTick + (advanceTo s.time.nextTick s).time.tickHp = _
  rw [advanceTo_nextTick, advanceTo_tickHp]

theorem tickTime_tickHp (s : State) : (tickTime s).time.tickHp = s.time.tickHp := advanceTo_tickHp ..

theorem tickTime_schedule (s : State) : (tickTime s).time.schedule = s.time.schedule := advanceTo_schedule ..

/-! ### Pilots and releases (R59, R69, R257) -/

/-- What a tick does once time and the halves have moved: the pilots' records and the releases of the paced hoops. -/
def tickWork (s : State) : State := forEach (List.range 16) releasePaced (pilotTick .east (pilotTick .west s))

/-- The time is the same, and the meters of the halves. -/
structure TickKept (s t : State) : Prop extends HalvesKept HalfUnit.meters s t where
  time : t.time = s.time

theorem TickKept.trans {s t u : State} (h : TickKept s t) (k : TickKept t u) : TickKept s u :=
  ⟨h.toHalvesKept.trans k.toHalvesKept, k.time.trans h.time⟩

theorem pilotTick_tickKept (h : Half) (s : State) : TickKept s (pilotTick h s) :=
  ⟨.of_keeps (pilotTick_keeps ..), (pilotTick_keeps ..).time rfl⟩

theorem releasePaced_tickKept (hoop : Nat) (s : State) : TickKept s (releasePaced hoop s) := by
  unfold releasePaced
  split
  · exact ⟨releaseAll_meters hoop true s, (releaseAll_keeps hoop true s).time rfl⟩
  · exact ⟨.refl s, rfl⟩

theorem tickWork_tickKept (s : State) : TickKept s (tickWork s) :=
  forEach_invariant (P := TickKept s) (fun hoop _ h => h.trans (releasePaced_tickKept hoop _)) _ _
    ((pilotTick_tickKept ..).trans (pilotTick_tickKept ..))

/-! ### The whole tick -/

theorem paceTick_of_cold {s : State} (h : s.dev.st = .cold) (west east : Nat) : paceTick west east s = s := if_pos h

theorem paceTick_of_not_cold {s : State} (h : s.dev.st ≠ .cold) (west east : Nat) :
    paceTick west east s = countTick (tickWork (tickHalves west east (tickTime s))) := if_neg h

theorem countTick_half (s : State) (h : Half) : (countTick s).half h = s.half h := by unfold countTick; split <;> cases h <;> rfl

theorem countTick_time (s : State) :
    (countTick s).time = { s.time with schedule := if s.dev.imageValid = true then s.time.schedule + 1 else s.time.schedule } := by
  unfold countTick; split <;> rfl

/-- The time after a tick is the time of its first part, with the schedule counted while an image is valid. -/
theorem paceTick_time {s : State} (h : s.dev.st ≠ .cold) (west east : Nat) : (paceTick west east s).time =
    { (tickTime s).time with schedule := if s.dev.imageValid = true then s.time.schedule + 1 else s.time.schedule } := by
  have hwork := tickWork_tickKept (tickHalves west east (tickTime s))
  have hhalves := tickHalves_keeps west east (tickTime s)
  have hdev : (tickWork (tickHalves west east (tickTime s))).dev = s.dev :=
    (hwork.dev.trans (hhalves.dev rfl)).trans ((tickTime_keeps s).dev rfl)
  rw [paceTick_of_not_cold h, countTick_time, hdev, hwork.time, hhalves.time rfl, tickTime_schedule]

/-- The meters of a half after a tick are those of the half that has ticked. -/
theorem paceTick_meters {s : State} (hcold : s.dev.st ≠ .cold) (west east : Nat) (h : Half) :
    ((paceTick west east s).half h).meters = ((tickHalf h (rateAt west east h) (tickTime s)).half h).meters := by
  rw [paceTick_of_not_cold hcold, countTick_half, (tickWork_tickKept _).half, tickHalves_meters]

theorem tickTime_half (s : State) (h : Half) : (tickTime s).half h = s.half h := (tickTime_keeps s).half rfl rfl h

/-- Settles O24: nothing after the halves' own tick moves time or the meters, and no release reports a DANGEROUS fault. -/
theorem paceTickAdvancesTime : Obligations.PaceTickAdvancesTime := by
  intro west east s
  refine ⟨fun hcold => congrArg _ (paceTick_of_cold hcold ..), fun hcold => ?_⟩
  have htime := paceTick_time hcold west.toNat east.toNat
  refine ⟨_, rfl, (paceTick_keeps ..).units _ rfl, ?_, ?_, ?_, ?_, fun h => ?_⟩
  · rw [htime]; exact tickTime_hp s
  · rw [htime]; exact tickTime_nextTick s
  · rw [htime]; exact tickTime_tickHp s
  · rw [htime]
  · have hmeters := paceTick_meters hcold west.toNat east.toNat h
    constructor
    · intro hr
      rw [tickHalf_meters_of_running (by rwa [tickTime_half]), tickTime_half] at hmeters
      obtain ⟨-, hticks, hlive, hmin⟩ := meters_eq_iff.1 hmeters
      cases h <;> exact ⟨hticks, hlive, hmin⟩
    · intro hr
      rw [tickHalf_meters_of_reset (by rwa [tickTime_half]), tickTime_half] at hmeters
      obtain ⟨-, hticks, hlive, hmin⟩ := meters_eq_iff.1 hmeters
      exact ⟨hticks, hlive, hmin⟩

end Sys2Proof.Machine
end

section
/-! The argument read of a job (R57, R60, R211, R219). -/
namespace Sys2Proof.Machine

/-! ### What an uncorrectable error leaves of the jobs (R211, R219, R274) -/

/-- Counters of the sequencer and released steps are kept, and no job comes or goes. -/
structure JobsStand (s t : State) : Prop extends CountsKept HalfUnit.core s t where
  job : ∀ n, (t.hoop n).job = none ↔ (s.hoop n).job = none

section
variable {s t u : State}

theorem JobsStand.refl (s : State) : JobsStand s s := ⟨.refl s, fun _ => .rfl⟩

theorem JobsStand.trans (h : JobsStand s t) (k : JobsStand t u) : JobsStand s u :=
  ⟨h.toCountsKept.trans k.toCountsKept, fun n => (k.job n).trans (h.job n)⟩

theorem JobsStand.ite {c : Prop} [Decidable c] (h : JobsStand s t) (k : JobsStand s u) : JobsStand s (if c then t else u) := by
  split <;> assumption

theorem JobsStand.forEach {α : Type} {l : List α} {f : α → State → State} (hf : ∀ a t, JobsStand t (f a t)) (s : State) :
    JobsStand s (forEach l f s) := forEach_invariant (P := JobsStand s) (fun a t h => h.trans (hf a t)) l s (.refl s)

theorem Aside.jobsStand (h : Aside s t) : JobsStand s t := ⟨h.counts, fun n => by rw [h.hoop n]⟩

end

theorem updHoop_breach_jobsStand (n : Nat) (s : State) : JobsStand s (updHoop n .breach s) := by
  refine ⟨.updHoop n _ s fun _ => rfl, fun k => ?_⟩
  by_cases hk : k = n
  · rw [hk, updHoop_self]; exact Option.map_eq_none_iff
  · rw [updHoop_ne _ _ _ hk]

theorem breachOwner_jobsStand (g : Nat) (x : Nat × Nat × Nat) (s : State) : JobsStand s (breachOwner g x s) := by
  obtain ⟨r, hcls, hcase⟩ := breachOwner_cases g x s
  have hreport (t : State) : JobsStand t (report r t) := (report_aside (by rw [hcls]; decide) t).jobsStand
  have hbump := (bumpDamp_aside (halfOfDamper g) 4 1 s).jobsStand
  obtain ⟨-, heq⟩ | ⟨-, heq⟩ := hcase <;> rw [heq]
  · exact hbump.trans (hreport _)
  · exact (hbump.trans (updHoop_breach_jobsStand ..)).trans (hreport _)

theorem reshed_jobsStand (g : Nat) (s : State) : JobsStand s (reshed g s) := by
  have htable (f : Damper → Damper) : JobsStand s (updDamper g f s) := (Aside.of_keeps (updDamper_keeps ..)).jobsStand
  by_cases hfull : 256 ≤ (s.damper g).capacity
  · rw [reshed_of_full hfull]; exact htable _
  · rw [reshed_of_reduced (Nat.not_le.1 hfull)]
    exact (htable _).trans (.forEach (breachOwner_jobsStand g) _)

theorem capacityFell_aside (g cap : Nat) (s : State) : Aside s (capacityFell g cap s) :=
  (Aside.of_keeps (updDamper_keeps ..)).trans (bumpDamp_aside ..)

theorem lowerCapacity_jobsStand (g cap : Nat) (s : State) : JobsStand s (lowerCapacity g cap s) := by
  by_cases h : damperExists g = true ∧ cap < (s.damper g).capacity
  · rw [lowerCapacity_of_falls h.1 h.2]
    exact (capacityFell_aside ..).jobsStand.trans (reshed_jobsStand ..)
  · rw [lowerCapacity_of_stays h]; exact .refl s

theorem loseChannel_jobsStand (c : Nat) (s : State) : JobsStand s (loseChannel c s) := by
  unfold loseChannel
  extract_lets s1 s2 f s3
  have h1 : Aside s s1 := .of_keeps (updChan_keeps ..)
  have h2 : Aside s1 s2 := .forEach (fun _ _ => .of_keeps (loseQueue_keeps ..)) s1
  have h3 : Aside s2 s3 := report_aside (show severity .dramChannelLost ≠ 2 by decide) s2
  exact .ite (.refl s) (((h1.trans h2).trans h3).jobsStand.trans (.forEach (fun _ _ => lowerCapacity_jobsStand ..) s3))

theorem dramUncorrectable_jobsStand (c : Nat) (s : State) : JobsStand s (dramUncorrectable c s) := by
  unfold dramUncorrectable
  extract_lets s1 recent s2 s3
  have h1 : Aside s s1 := .of_keeps (bumpChan_keeps ..)
  have h2 : Aside s1 s2 := .of_keeps (updChan_keeps ..)
  have h3 : Aside s2 s3 := report_aside (show severity .dramUncorrectable ≠ 2 by decide) s2
  have h := ((h1.trans h2).trans h3).jobsStand
  exact .ite (h.trans (loseChannel_jobsStand ..)) h

theorem eccFaultAt_jobsStand (a : Nat) (s : State) : JobsStand s (eccFaultAt a s) := by
  unfold eccFaultAt
  split
  · exact dramUncorrectable_jobsStand ..
  · exact (report_aside (show severity .storeUncorrectable ≠ 2 by decide) s).jobsStand
  · exact .refl s

theorem accessEcc_jobsStand (r : Reader) (ctx va : Nat) (ecc : Ecc) (s : State) : JobsStand s (accessEcc r ctx va ecc s) := by
  unfold accessEcc
  split
  · exact eccFaultAt_jobsStand ..
  · exact (Aside.of_keeps (eccFixedAt_keeps ..)).jobsStand
  · exact .refl s

/-- An access without an uncorrectable error leaves the hoops whole. -/
theorem accessEcc_aside {ecc : Ecc} (h : ecc ≠ .uncorrectable) (r : Reader) (ctx va : Nat) (s : State) :
    Aside s (accessEcc r ctx va ecc s) := by
  unfold accessEcc
  split
  · exact absurd rfl h
  · exact .of_keeps (eccFixedAt_keeps ..)
  · exact .refl s

/-! ### A job that ends faulted (R75, R77) -/

/-- The end of a faulted job counts one in JOBS_FAULTED of its hoop's half. -/
theorem endJob_faulted_seqCount {hoop : Nat} {s : State} (hjob : (s.hoop hoop).job ≠ none) (eff : Nat) :
    (endJob hoop stJobFaulted eff s).seqCount (s.hoopHome hoop) 2 = (s.seqCount (s.hoopHome hoop) 2 + 1) % 2 ^ 64 := by
  rw [(endJob_counts hjob stJobFaulted eff).seqCount]
  exact bumpSeq_seqCount_self ..

/-- As `endJob_faulted_seqCount`, from a state before the fault. -/
theorem JobsStand.endJob_faulted {s t : State} (k : JobsStand s t) (himg : t.img = s.img) {hoop : Nat}
    (hjob : (s.hoop hoop).job ≠ none) (eff : Nat) :
    (endJob hoop stJobFaulted eff t).seqCount (s.hoopHome hoop) 2 = (s.seqCount (s.hoopHome hoop) 2 + 1) % 2 ^ 64 := by
  have hhome : t.hoopHome hoop = s.hoopHome hoop := congrArg hoopHalf (hoopEntry_congr himg hoop)
  have hend := endJob_faulted_seqCount (mt (k.job hoop).1 hjob) eff
  rwa [hhome, k.seqCount] at hend

/-! ### The argument read -/

/-- The bytes of a job's argument block, or the fault of their read. -/
def argumentBytes (hoop : Nat) (j : Job) (s : State) : Except FaultClass (List Byte) × State :=
  vread (.walker (s.hoopHome hoop)) j.q.ctx j.q.args (8 * prkArgWords (s.prick j.q.pricking)) s

/-- The argument words that a block of bytes holds. -/
def argumentWords (s : State) (j : Job) (bs : List Byte) : List Word :=
  (List.range (prkArgWords (s.prick j.q.pricking))).map fun i => wordAt bs (8 * i)

theorem argumentBytes_aside (hoop : Nat) (j : Job) (s : State) : Aside s (argumentBytes hoop j s).2 := vread_aside ..

theorem argumentBytes_img (hoop : Nat) (j : Job) (s : State) : (argumentBytes hoop j s).2.img = s.img := (vread_keeps ..).img rfl

/-- The state after the argument read has met the ECC of its block. -/
def argumentEcc (hoop : Nat) (j : Job) (ecc : Ecc) (s : State) : State :=
  let s := (argumentBytes hoop j s).2
  accessEcc (.walker (s.hoopHome hoop)) j.q.ctx j.q.args ecc s

theorem argumentEcc_img (hoop : Nat) (j : Job) (ecc : Ecc) (s : State) : (argumentEcc hoop j ecc s).img = s.img :=
  ((accessEcc_keeps ..).img rfl).trans (argumentBytes_img hoop j s)

theorem argumentEcc_jobsStand (hoop : Nat) (j : Job) (ecc : Ecc) (s : State) : JobsStand s (argumentEcc hoop j ecc s) :=
  (argumentBytes_aside ..).jobsStand.trans (accessEcc_jobsStand ..)

theorem argumentEcc_aside {ecc : Ecc} (h : ecc ≠ .uncorrectable) (hoop : Nat) (j : Job) (s : State) :
    Aside s (argumentEcc hoop j ecc s) := (argumentBytes_aside ..).trans (accessEcc_aside h ..)

/-- A fault of the argument read is reported under its class and ends the job. -/
theorem argumentFault_eq (hoop : Nat) (j : Job) (c : FaultClass) (s : State) :
    ∃ r : FaultRec, r.key.cls = c ∧ argumentFault hoop j c s = endJob hoop stJobFaulted 0 (report r s) := ⟨_, rfl, rfl⟩

section
variable {hoop : Nat} {j : Job} {s : State}

theorem argumentRead_of_idle (h : ∀ j, (s.hoop hoop).job = some j → j.st ≠ .reading) (ecc : Ecc) :
    argumentRead hoop ecc s = s := by
  unfold argumentRead
  split
  · rfl
  · next j hjob => exact if_pos (h j hjob)

variable (hjob : (s.hoop hoop).job = some j) (hst : j.st = .reading)
include hjob hst

theorem argumentRead_of_fault {c : FaultClass} (hread : (argumentBytes hoop j s).1 = .error c) (ecc : Ecc) :
    argumentRead hoop ecc s = argumentFault hoop j c (argumentBytes hoop j s).2 := by
  have hpair : argumentBytes hoop j s = (.error c, (argumentBytes hoop j s).2) := Prod.ext hread rfl
  rw [argumentRead, hjob]
  dsimp only
  rw [if_neg (not_not.2 hst), ← argumentBytes, hpair]

theorem argumentRead_of_bytes {bs : List Byte} (hread : (argumentBytes hoop j s).1 = .ok bs) (ecc : Ecc) :
    argumentRead hoop ecc s =
      if ecc = .uncorrectable then endJob hoop stJobFaulted 0 (argumentEcc hoop j ecc s)
      else updJob hoop (fun j' => { j' with st := .ready, args := argumentWords s j bs }) (argumentEcc hoop j ecc s) := by
  have hpair : argumentBytes hoop j s = (.ok bs, (argumentBytes hoop j s).2) := Prod.ext hread rfl
  rw [argumentRead, hjob]
  dsimp only
  rw [if_neg (not_not.2 hst), ← argumentBytes, hpair]
  rfl

/-- A read that fails, or meets an uncorrectable error, ends the job as faulted. -/
theorem argumentRead_seqCount {ecc : Ecc}
    (hbad : (∀ bs, (argumentBytes hoop j s).1 ≠ .ok bs) ∨ ecc = .uncorrectable) :
    (argumentRead hoop ecc s).seqCount (s.hoopHome hoop) 2 = (s.seqCount (s.hoopHome hoop) 2 + 1) % 2 ^ 64 := by
  have hsome : (s.hoop hoop).job ≠ none := by rw [hjob]; exact Option.some_ne_none j
  cases hread : (argumentBytes hoop j s).1 with
  | error c =>
    obtain ⟨r, hcls, hfault⟩ := argumentFault_eq hoop j c (argumentBytes hoop j s).2
    rw [argumentRead_of_fault hjob hst hread, hfault]
    have hreport := report_aside (r := r) (hcls ▸ vread_error_severity hread) (argumentBytes hoop j s).2
    exact ((argumentBytes_aside ..).trans hreport).jobsStand.endJob_faulted
      (((report_keeps ..).img rfl).trans (argumentBytes_img hoop j s)) hsome 0
  | ok bs =>
    obtain hread' | hecc := hbad
    · exact absurd hread (hread' bs)
    · rw [argumentRead_of_bytes hjob hst hread, if_pos hecc]
      exact (argumentEcc_jobsStand ..).endJob_faulted (argumentEcc_img ..) hsome 0

/-- A block that is read makes the job READY with its words. -/
theorem argumentRead_hoop_self {ecc : Ecc} {bs : List Byte} (hread : (argumentBytes hoop j s).1 = .ok bs)
    (hecc : ecc ≠ .uncorrectable) : (argumentRead hoop ecc s).hoop hoop =
      { s.hoop hoop with job := some { j with st := .ready, args := argumentWords s j bs } } := by
  rw [argumentRead_of_bytes hjob hst hread, if_neg hecc, updJob, updHoop_self, (argumentEcc_aside hecc ..).hoop, hjob]
  rfl

theorem argumentRead_hoop_ne {ecc : Ecc} {bs : List Byte} (hread : (argumentBytes hoop j s).1 = .ok bs)
    (hecc : ecc ≠ .uncorrectable) {i : Nat} (hi : i ≠ hoop) : (argumentRead hoop ecc s).hoop i = s.hoop i := by
  rw [argumentRead_of_bytes hjob hst hread, if_neg hecc, updJob, updHoop_ne _ _ _ hi, (argumentEcc_aside hecc ..).hoop]

end

/-- A job is READY with its argument words, or ends where they cannot be read. -/
theorem argumentsAreReadBeforeReady : ArgumentsAreReadBeforeReady := by
  intro hoop ecc s
  refine ⟨fun hidle => congrArg _ (argumentRead_of_idle hidle ecc), fun j hjob hst => ?_⟩
  intro n half r
  have honly : OnlyUnits workUnits s (argumentRead hoop.toNat ecc s) := (argumentRead_keeps ..).units _ rfl
  exact ⟨fun bs hread hecc => ⟨_, rfl, honly, argumentRead_hoop_self hjob hst hread hecc,
      fun i hi => argumentRead_hoop_ne hjob hst hread hecc hi⟩,
    fun hbad => ⟨_, rfl, honly, argumentRead_seqCount hjob hst hbad⟩⟩

/-- Settles O25: each turn of a release frees one step, and only the end of a faulted job counts in JOBS_FAULTED. -/
theorem stepsAreReleasedWithTheirArguments : Obligations.StepsAreReleasedWithTheirArguments :=
  ⟨eligibleStepsAreReleased, argumentsAreReadBeforeReady⟩

end Sys2Proof.Machine
end

section
/-! The latch of a half by a DANGEROUS fault (R312), and the end of every job of a half (R73). -/
namespace Sys2Proof.Machine

/-! ### The latch (R312) -/

theorem leaveService_half_self (h : Half) (s : State) :
    (leaveService h s).half h = { s.half h with inService := false, claim := false } := by
  rw [leaveService, (settleState_keeps ..).half, (statusCopy_keeps _).half, updHalf_self]

theorem oweReset_half_self (h : Half) (s : State) : ∃ due, (oweReset h s).half h = { s.half h with autoDue := due } := by
  unfold oweReset
  split
  · exact ⟨true, updHalf_self ..⟩
  · exact ⟨(s.half h).autoDue, rfl⟩

/-- A half that a fault of a class has latched. -/
def HalfUnit.latchedBy (cls : FaultClass) (u : HalfUnit) : HalfUnit :=
  { u with danger := true, latchClass := if u.danger then u.latchClass else classCode cls, inService := false, claim := false }

theorem latch_half_self (h : Half) (cls : FaultClass) (s : State) :
    ∃ due, (latch h cls s).half h = { (s.half h).latchedBy cls with autoDue := due } := by
  unfold latch
  obtain ⟨due, hdue⟩ := oweReset_half_self h
    (updHalf h (fun u => { u with danger := true, latchClass := if u.danger then u.latchClass else classCode cls }) s)
  rw [updHalf_self] at hdue
  exact ⟨due, by rw [leaveService_half_self, hdue]; rfl⟩

/-- The report of a DANGEROUS class latches its half, and of its core changes the latch alone. -/
theorem report_core_of_severity {r : FaultRec} (h : severity r.key.cls = 2) (s : State) :
    ∃ due, ((report r s).half r.key.half).core = { ((s.half r.key.half).core.latchedBy r.key.cls) with autoDue := due } := by
  rw [report, if_pos h]
  obtain ⟨due, hlatch⟩ := latch_half_self r.key.half r.key.cls (gather r s)
  refine ⟨due, ?_⟩
  rw [hlatch, ← (gather_aside r s).half]
  rfl

/-! ### The end of a half's jobs (R73) -/

/-- The job of a hoop that outlasts the end of its half's jobs: a WEDGED one stands until the half's reset. -/
def HoopUnit.standing (u : HoopUnit) : Option Job := u.job.filter fun j => j.st == .wedged

theorem HoopUnit.standing_of_wedged {u : HoopUnit} {j : Job} (hjob : u.job = some j) (hst : j.st = .wedged) :
    u.standing = some j := by
  rw [HoopUnit.standing, hjob]; exact Option.filter_some_pos (beq_iff_eq.2 hst)

theorem HoopUnit.standing_of_not_wedged {u : HoopUnit} (h : ∀ j, u.job = some j → j.st ≠ .wedged) : u.standing = none := by
  cases hjob : u.job with
  | none => rw [HoopUnit.standing, hjob, Option.filter_none]
  | some j => rw [HoopUnit.standing, hjob]; exact Option.filter_some_neg (beq_eq_false_iff_ne.2 (h j hjob))

/-- A hoop whose jobs have ended. -/
def HoopUnit.halt (u : HoopUnit) : HoopUnit := { u with job := u.standing, queue := [] }

theorem HoopUnit.halt_halt (u : HoopUnit) : u.halt.halt = u.halt := by
  simp [HoopUnit.halt, HoopUnit.standing, Option.filter_filter]

/-- The jobs of one hoop end with a status: the admitted one unless it is WEDGED, then the queued ones. -/
def haltHoop (status hoop : Nat) (s : State) : State :=
  let u := s.hoop hoop
  let s := match u.job with
    | some j => if j.st = .wedged then s
        else updHoop hoop (fun u => { u with job := none })
          (closeJob hoop j.q j.argsRead j.next status 0 j.charge s)
    | none => s
  let s := forEach u.queue (fun q => closeJob hoop q none 0 status 0 0) s
  updHoop hoop (fun u => { u with queue := [] }) s

/-- The hoops of a half (R52). -/
def State.hoopsOf (s : State) (h : Half) : List Nat :=
  (List.range 16).filter fun i => hoopValid (s.hoopEntry i) && s.hoopHome i == h

theorem endHalfJobs_eq (h : Half) (status : Nat) (s : State) :
    endHalfJobs h status s = forEach (s.hoopsOf h) (haltHoop status) s := rfl

theorem mem_hoopsOf {s : State} {h : Half} {i : Nat} :
    i ∈ s.hoopsOf h ↔ i < 16 ∧ hoopValid (s.hoopEntry i) = true ∧ s.hoopHome i = h := by
  simp [State.hoopsOf]

theorem haltHoop_counts {status : Nat} (hs : EndsUncounted status) (hoop : Nat) (s : State) :
    CountsKept HalfUnit.core s (haltHoop status hoop s) := by
  unfold haltHoop
  extract_lets u s1 s2
  have h1 : CountsKept HalfUnit.core s s1 := by
    unfold s1
    split
    · exact .ite (.refl s) ((closeJob_uncounted hs ..).trans (.updHoop hoop _ _ fun _ => rfl))
    · exact .refl s
  have h2 : CountsKept HalfUnit.core s1 s2 := .forEach (fun _ _ => closeJob_uncounted hs ..) s1
  exact (h1.trans h2).trans (.updHoop hoop _ s2 fun _ => rfl)

theorem forEach_closeJob_hoop (hoop status : Nat) (l : List QJob) (s : State) (n : Nat) :
    (forEach l (fun q => closeJob hoop q none 0 status 0 0) s).hoop n = s.hoop n :=
  forEach_invariant (P := fun t => t.hoop n = s.hoop n) (fun _ _ h => (closeJob_hoop ..).trans h) l s rfl

theorem haltHoop_self (status hoop : Nat) (s : State) : (haltHoop status hoop s).hoop hoop = (s.hoop hoop).halt := by
  unfold haltHoop
  extract_lets u s1 s2
  have h1 : s1.hoop hoop = { u with job := u.standing } := by
    unfold s1
    cases hjob : u.job with
    | none =>
      have hnone : u.standing = u.job := (HoopUnit.standing_of_not_wedged (by simp [hjob])).trans hjob.symm
      rw [hnone]
    | some j =>
      dsimp only
      by_cases hst : j.st = .wedged
      · rw [if_pos hst, HoopUnit.standing_of_wedged hjob hst, ← hjob]
      · rw [if_neg hst, updHoop_self, closeJob_hoop, HoopUnit.standing_of_not_wedged (by simp [hjob, hst])]
  rw [updHoop_self, forEach_closeJob_hoop, h1]
  rfl

theorem haltHoop_ne (status : Nat) {hoop n : Nat} (hn : n ≠ hoop) (s : State) : (haltHoop status hoop s).hoop n = s.hoop n := by
  unfold haltHoop
  extract_lets u s1 s2
  have h1 : s1.hoop n = s.hoop n := by
    unfold s1
    split
    · split
      · rfl
      · rw [updHoop_ne _ _ _ hn, closeJob_hoop]
    · rfl
  rw [updHoop_ne _ _ _ hn, forEach_closeJob_hoop, h1]

/-- Of a list of hoops each is halted, and no other. -/
theorem forEach_haltHoop_hoop (status : Nat) (l : List Nat) (s : State) (i : Nat) :
    (forEach l (haltHoop status) s).hoop i = if i ∈ l then (s.hoop i).halt else s.hoop i := by
  induction l generalizing s with
  | nil => rfl
  | cons a l ih =>
    change (forEach l (haltHoop status) (haltHoop status a s)).hoop i = _
    rw [ih]
    by_cases hia : i = a
    · rw [hia, haltHoop_self, HoopUnit.halt_halt, ite_self, if_pos List.mem_cons_self]
    · simp only [haltHoop_ne status hia, List.mem_cons, hia, false_or]

/-- The end of a half's jobs halts each valid hoop of the half, and no other hoop. -/
theorem endHalfJobs_hoop (h : Half) (status : Nat) (s : State) (i : Nat) :
    (endHalfJobs h status s).hoop i = if i ∈ s.hoopsOf h then (s.hoop i).halt else s.hoop i := by
  rw [endHalfJobs_eq, forEach_haltHoop_hoop]

theorem endHalfJobs_counts {status : Nat} (hs : EndsUncounted status) (h : Half) (s : State) :
    CountsKept HalfUnit.core s (endHalfJobs h status s) := by
  rw [endHalfJobs_eq]; exact .forEach (haltHoop_counts hs) s

end Sys2Proof.Machine
end

section
/-! The step watchdog and the wait limit (R73 to R75). -/
namespace Sys2Proof.Machine

/-! ### The step watchdog (R73) -/

/-- The state in which a watchdog overrun is reported: the job is WEDGED and counted, and its final reply is out. -/
def wedgeClosed (hoop n : Nat) (j : Job) (s : State) : State :=
  closeJob hoop j.q j.argsRead j.next stWatchdog n j.charge
    (bumpSeq (s.hoopHome hoop) 4 1 (updJob hoop (fun j => { j with st := .wedged }) s))

theorem wedge_eq (hoop n : Nat) (j : Job) (s : State) :
    ∃ r : FaultRec, r.key.cls = .stepWatchdog ∧ r.key.half = s.hoopHome hoop
      ∧ wedge hoop n j s = endHalfJobs (s.hoopHome hoop) stHalfDown (report r (wedgeClosed hoop n j s)) := ⟨_, rfl, rfl, rfl⟩

theorem wedgeClosed_hoop (hoop n : Nat) (j : Job) (s : State) (i : Nat) :
    (wedgeClosed hoop n j s).hoop i = (updJob hoop (fun j => { j with st := .wedged }) s).hoop i := by
  rw [wedgeClosed, closeJob_hoop, bumpSeq, hoop_of_seq (updHalf_seq ..)]

theorem wedgeClosed_keeps (hoop n : Nat) (j : Job) (s : State) : Keeps 0x19798 s (wedgeClosed hoop n j s) :=
  (((updJob_keeps ..).up).trans (bumpSeq_keeps ..).up).trans (closeJob_keeps ..)

/-- The core of a half that counts one job wedged. -/
def HalfUnit.countWedged (u : HalfUnit) : HalfUnit := { u with seqCtr := bump u.seqCtr 4 1 }

theorem wedgeClosed_core (hoop n : Nat) (j : Job) (s : State) :
    ((wedgeClosed hoop n j s).half (s.hoopHome hoop)).core = ((s.half (s.hoopHome hoop)).core).countWedged := by
  rw [wedgeClosed, (closeJob_uncounted (show EndsUncounted stWatchdog by decide) ..).half, bumpSeq, updHalf_self]
  rfl

/-- A watchdog overrun counts its job and latches its half, and of the half's core changes no more. -/
theorem wedge_core (hoop n : Nat) (j : Job) (s : State) :
    ∃ due, ((wedge hoop n j s).half (s.hoopHome hoop)).core =
      { (((s.half (s.hoopHome hoop)).core).countWedged.latchedBy .stepWatchdog) with autoDue := due } := by
  obtain ⟨r, hcls, hhalf, heq⟩ := wedge_eq hoop n j s
  obtain ⟨due, hlatch⟩ := report_core_of_severity (r := r) (by rw [hcls]; rfl) (wedgeClosed hoop n j s)
  rw [hhalf, wedgeClosed_core, hcls] at hlatch
  exact ⟨due, by rw [heq, (endHalfJobs_counts (show EndsUncounted stHalfDown by decide) ..).half, hlatch]⟩

theorem hoopsOf_congr {s t : State} (h : t.img = s.img) (x : Half) : t.hoopsOf x = s.hoopsOf x := by
  unfold State.hoopsOf State.hoopHome State.hoopEntry
  rw [h]

/-- After a watchdog overrun every valid hoop of the half is halted, and the job of the overrun is WEDGED. -/
theorem wedge_hoop (hoop n : Nat) (j : Job) (s : State) (i : Nat) :
    (wedge hoop n j s).hoop i =
      let u := (updJob hoop (fun j => { j with st := .wedged }) s).hoop i
      if i ∈ s.hoopsOf (s.hoopHome hoop) then u.halt else u := by
  obtain ⟨r, -, -, heq⟩ := wedge_eq hoop n j s
  have himg : (report r (wedgeClosed hoop n j s)).img = s.img := ((report_keeps ..).img rfl).trans ((wedgeClosed_keeps ..).img rfl)
  rw [heq, endHalfJobs_hoop, hoopsOf_congr himg, report_hoop, wedgeClosed_hoop]

section
variable {hoop n : Nat} {j : Job} {r : Released} {s : State}
variable (hjob : (s.hoop hoop).job = some j)
include hjob

theorem wedge_job_self : ((wedge hoop n j s).hoop hoop).job = some { j with st := .wedged } := by
  have hwedged : ((updJob hoop (fun j => { j with st := .wedged }) s).hoop hoop).job = some { j with st := .wedged } := by
    rw [updJob, updHoop_self, hjob]; rfl
  rw [wedge_hoop]
  dsimp only
  split
  · exact HoopUnit.standing_of_wedged hwedged rfl
  · exact hwedged

theorem stepWatchdog_of_released (hstep : j.steps.find? (fun r => r.step == n) = some r) :
    stepWatchdog hoop n s =
      if j.st ≠ .wedged ∧ r.tick + wdogTicks s j n ≤ (s.half (s.hoopHome hoop)).ticks then wedge hoop n j s else s := by
  rw [stepWatchdog, hjob]
  dsimp only
  rw [hstep]

end

/-- A watchdog overrun leaves no job in another hoop of the half, but a WEDGED one. -/
theorem wedge_hoop_other {hoop n i : Nat} {j : Job} {s : State} (hi : i ≠ hoop) (hin : i ∈ s.hoopsOf (s.hoopHome hoop))
    (hnot : ∀ k, (s.hoop i).job = some k → k.st ≠ .wedged) :
    ((wedge hoop n j s).hoop i).job = none ∧ ((wedge hoop n j s).hoop i).queue = [] := by
  rw [wedge_hoop, updJob, updHoop_ne _ _ _ hi]
  dsimp only
  rw [if_pos hin]
  exact ⟨HoopUnit.standing_of_not_wedged hnot, rfl⟩

/-- A step past its watchdog wedges its job and latches its half. -/
theorem watchdogWedgesTheHalf : WatchdogWedgesTheHalf := by
  intro hoop step j r s hjob hstep h due
  have hexec : exec (.stepWatchdog hoop step) s = .next (stepWatchdog hoop.toNat step.toNat s) := rfl
  rw [hexec, stepWatchdog_of_released hjob hstep]
  refine ⟨fun hnot => ?_, fun hst hdue => ?_⟩
  · rw [if_neg]
    rintro ⟨hst, hdue⟩
    obtain hwedged | hearly := hnot
    · exact hst hwedged
    · exact absurd hdue (Nat.not_le.2 hearly)
  · rw [if_pos ⟨hst, hdue⟩]
    obtain ⟨owed, hcore⟩ := wedge_core hoop.toNat step.toNat j s
    refine ⟨_, rfl, (wedge_keeps ..).units _ rfl, wedge_job_self hjob, congrArg HalfUnit.danger hcore,
      congrArg HalfUnit.inService hcore, fun hdanger => ?_, ?_, fun i h16 hi hvalid hhome hnot => ?_⟩
    · exact (congrArg HalfUnit.latchClass hcore).trans (if_neg (by rw [Bool.not_eq_true]; exact hdanger))
    · exact (congrArg (fun u : HalfUnit => Tab.get 0 u.seqCtr 4) hcore).trans (get_bump_self ..)
    · exact wedge_hoop_other hi (mem_hoopsOf.2 ⟨h16, hvalid, hhome⟩) hnot

/-! ### The wait limit (R74, R75) -/

/-- The next step of a job has waited WAIT_LIMIT ticks for its knots. -/
def WaitDue (s : State) (hoop : Nat) (j : Job) : Prop :=
  (j.st = .ready ∨ j.st = .running) ∧ prkWaitLimit (s.prick j.q.pricking) ≠ 0 ∧ j.next < prkSteps (s.prick j.q.pricking)
    ∧ (if j.next = 0 then j.admitted + 1 else j.lastTick) + prkWaitLimit (s.prick j.q.pricking)
      ≤ (s.half (s.hoopHome hoop)).ticks
    ∧ s.waitsReached (s.stepAt j.q.pricking j.next) j.args = false

/-- A job that has faulted at its next step. -/
def Job.faultedNext (j : Job) : Job :=
  { j with st := .ending, fault := some (match j.fault with
      | some f => min f j.next
      | none => j.next) }

section
variable {hoop : Nat} {j : Job} {s : State}
variable (hjob : (s.hoop hoop).job = some j)
include hjob

theorem waitTimeout_of_not_due (hnot : ¬ WaitDue s hoop j) : waitTimeout hoop s = s := by
  rw [waitTimeout, hjob]
  dsimp only
  refine if_neg fun hdue => hnot ?_
  rwa [Bool.not_eq_true'] at hdue

/-- A wait that is due is reported and counted, and its job settles as faulted at its next step. -/
theorem waitTimeout_of_due (hdue : WaitDue s hoop j) :
    ∃ r : FaultRec, r.key.cls = .knotWaitTimeout
      ∧ waitTimeout hoop s = settleJob hoop (noteFault hoop j.next (bumpSeq (s.hoopHome hoop) 5 1 (report r s))) := by
  rw [waitTimeout, hjob]
  dsimp only
  rw [if_pos (by rwa [Bool.not_eq_true'])]
  exact ⟨_, rfl, rfl⟩

theorem noteFault_hoop_self (hst : j.st ≠ .wedged) :
    (noteFault hoop j.next s).hoop hoop = { s.hoop hoop with job := some j.faultedNext } := by
  rw [noteFault, updJob, updHoop_self, hjob, Option.map_some, if_neg hst]
  rfl

theorem settleJob_of_open (hsteps : j.steps ≠ []) : settleJob hoop s = s := by
  rw [settleJob, hjob]
  dsimp only
  exact if_pos (by simpa using hsteps)

theorem settleJob_of_faulted (hsteps : j.steps = []) (hst : j.st = .ending) :
    settleJob hoop s = endJob hoop stJobFaulted (j.fault.getD 0) s := by
  rw [settleJob, hjob]
  dsimp only
  rw [hsteps, hst]
  rfl

/-- A job behind which nothing is queued ends with its final reply and leaves its hoop idle. -/
theorem endJob_of_empty (hqueue : (s.hoop hoop).queue = []) (status eff : Nat) :
    ((endJob hoop status eff s).hoop hoop).job = none
      ∧ ((endJob hoop status eff s).ring j.q.ring).outstanding = (s.ring j.q.ring).outstanding - 1 := by
  unfold endJob
  rw [hjob]
  dsimp only
  have hhoop := closeJob_hoop hoop j.q j.argsRead j.next status eff j.charge s hoop
  have hring := closeJob_outstanding hoop j.q j.argsRead j.next status eff j.charge s
  generalize closeJob hoop j.q j.argsRead j.next status eff j.charge s = u at hhoop hring ⊢
  obtain ⟨l, hhold⟩ := holdRounds_hoop hoop (updHoop hoop (fun x => { x with job := none }) u)
  rw [updHoop_self, hhoop] at hhold
  rw [tryAdmit_of_empty (by rw [hhold]; exact hqueue), hhold]
  exact ⟨rfl, hring⟩

/-- The end of a job counts nowhere but among the ends. -/
theorem endJob_faulted_seqCount_ne (k : Half) {w : Nat} (hw : w ≠ 2) (eff : Nat) :
    (endJob hoop stJobFaulted eff s).seqCount k w = s.seqCount k w := by
  rw [(endJob_counts (by rw [hjob]; exact Option.some_ne_none j) stJobFaulted eff).seqCount]
  exact bumpSeq_seqCount_ne _ _ _ _ hw

/-- Settling a faulted job moves no counter but that of the ends. -/
theorem settleJob_seqCount_of_ending (hst : j.st = .ending) (k : Half) {w : Nat} (hw : w ≠ 2) :
    (settleJob hoop s).seqCount k w = s.seqCount k w := by
  by_cases hsteps : j.steps = []
  · rw [settleJob_of_faulted hjob hsteps hst, endJob_faulted_seqCount_ne hjob k hw]
  · rw [settleJob_of_open hjob hsteps]

end

/-- The state in which a job that has waited too long settles: the wait is reported and counted, and the job faulted. -/
def waitNoted (hoop : Nat) (j : Job) (r : FaultRec) (s : State) : State :=
  noteFault hoop j.next (bumpSeq (s.hoopHome hoop) 5 1 (report r s))

section
variable {hoop : Nat} {j : Job} {r : FaultRec} {s : State}

theorem waitNoted_hoop_self (hjob : (s.hoop hoop).job = some j) (hst : j.st = .ready ∨ j.st = .running) :
    (waitNoted hoop j r s).hoop hoop = { s.hoop hoop with job := some j.faultedNext } := by
  have hhoop : (bumpSeq (s.hoopHome hoop) 5 1 (report r s)).hoop hoop = s.hoop hoop := by
    rw [bumpSeq, hoop_of_seq (updHalf_seq ..), report_hoop]
  rw [waitNoted, noteFault_hoop_self (by rw [hhoop, hjob]) (by rintro hw; rw [hw] at hst; simp at hst), hhoop]

theorem waitNoted_seqCount (hcls : r.key.cls = .knotWaitTimeout) :
    (waitNoted hoop j r s).seqCount (s.hoopHome hoop) 5 = (s.seqCount (s.hoopHome hoop) 5 + 1) % 2 ^ 64 := by
  have hreport : Aside s (report r s) := report_aside (by rw [hcls]; decide) s
  rw [waitNoted, (noteFault_counts ..).seqCount, bumpSeq_seqCount_self, hreport.seqCount]

theorem waitNoted_ring (hcls : r.key.cls = .knotWaitTimeout) (n : Nat) : (waitNoted hoop j r s).ring n = s.ring n := by
  have hreport : Aside s (report r s) := report_aside (by rw [hcls]; decide) s
  exact ring_of_rings ((congrArg HostIf.rings (updHalf_host ..)).trans hreport.rings) n

end

/-- A step that waits beyond WAIT_LIMIT faults its job. -/
theorem knotWaitsTimeOut : KnotWaitsTimeOut := by
  intro hoop j s hjob h p base due
  refine ⟨fun hnot => congrArg _ (waitTimeout_of_not_due hjob hnot), fun hdue => ?_⟩
  obtain ⟨r, hcls, heq⟩ := waitTimeout_of_due hjob hdue
  have hnoted := waitNoted_hoop_self (r := r) hjob hdue.1
  have hjob' : ((waitNoted hoop.toNat j r s).hoop hoop.toNat).job = some j.faultedNext := by rw [hnoted]
  refine ⟨waitTimeout hoop.toNat s, rfl, (waitTimeout_keeps ..).units _ rfl, ?_, fun hsteps => ?_, fun hsteps hqueue => ?_⟩
  all_goals rw [heq, ← waitNoted]
  · exact (settleJob_seqCount_of_ending hjob' rfl h (by decide)).trans (waitNoted_seqCount hcls)
  · rw [settleJob_of_open hjob' hsteps, hnoted]; rfl
  · have hend := endJob_of_empty hjob' (by rw [hnoted]; exact hqueue) stJobFaulted (j.faultedNext.fault.getD 0)
    rw [waitNoted_ring hcls] at hend
    rw [settleJob_of_faulted hjob' hsteps rfl]
    exact hend

/-- Settles O31: the watchdog's report alone is DANGEROUS, and every final reply leaves the hoops as they stand. -/
theorem jobsThatOverrunAreStopped : Obligations.JobsThatOverrunAreStopped := ⟨watchdogWedgesTheHalf, knotWaitsTimeOut⟩

end Sys2Proof.Machine
end

section
/-! The exchange of pages (R92): frames of a firebox's pages, its writes, its unspecified pages, and the exchange of two ranges. -/
namespace Sys2Proof.Machine

/-! ### Frames and pages (R178) -/

/-- The frame that a page of a firebox stands in. -/
def Hearth.frameNo (x : Hearth) (page : Nat) : Nat := Tab.get page x.pageMap page

/-- No two pages of a firebox stand in one frame. -/
def Hearth.MapInjective (x : Hearth) : Prop := ∀ a b, x.frameNo a = x.frameNo b → a = b

section
variable {x : Hearth}

theorem Hearth.frameAddr_div (x : Hearth) (off : Nat) : x.frameAddr off / 4096 = x.frameNo (off / 4096) := by
  unfold Hearth.frameAddr Hearth.frameNo; omega

theorem Hearth.frameAddr_mod (x : Hearth) (off : Nat) : x.frameAddr off % 4096 = off % 4096 := by
  unfold Hearth.frameAddr; omega

theorem Hearth.frameAddr_page (x : Hearth) (page : Nat) : x.frameAddr (4096 * page) = x.frameNo page * 4096 := by
  have hpage : 4096 * page / 4096 = page := by omega
  rw [Hearth.frameAddr, hpage, Nat.mul_mod_right, Nat.add_zero, Hearth.frameNo]

theorem Hearth.mapInjective_iff : x.MapInjective ↔ ∀ a b, x.frameAddr (4096 * a) = x.frameAddr (4096 * b) → a = b := by
  simp only [Hearth.MapInjective, Hearth.frameAddr_page]
  exact forall₂_congr fun a b => ⟨fun h e => h (by omega), fun h e => h (by rw [e])⟩

theorem Hearth.MapInjective.frameAddr_inj (h : x.MapInjective) {a b : Nat} (hab : x.frameAddr a = x.frameAddr b) : a = b := by
  have hpage : a / 4096 = b / 4096 := h _ _ (by rw [← frameAddr_div, ← frameAddr_div, hab])
  have hoff : a % 4096 = b % 4096 := by rw [← frameAddr_mod x a, ← frameAddr_mod x b, hab]
  omega

/-- Two fireboxes with one page map have their bytes at the same addresses. -/
theorem Hearth.frameAddr_congr {y : Hearth} (h : y.pageMap = x.pageMap) (off : Nat) : y.frameAddr off = x.frameAddr off := by
  rw [Hearth.frameAddr, Hearth.frameAddr, h]

theorem Hearth.MapInjective.congr {y : Hearth} (hx : x.MapInjective) (h : y.pageMap = x.pageMap) : y.MapInjective := by
  unfold Hearth.MapInjective Hearth.frameNo
  rw [h]; exact hx

end

/-! ### Writes to a firebox -/

theorem Hearth.write_pageMap (x : Hearth) (off : Nat) (bs : List Byte) : (x.write off bs).pageMap = x.pageMap := by
  induction bs generalizing x off with
  | nil => rfl
  | cons b t ih => exact (ih ..).trans rfl

/-- One byte written to a firebox. -/
def Hearth.putByte (x : Hearth) (off : Nat) (b : Byte) : Hearth := { x with frames := x.frames.write (x.frameAddr off) b }

theorem Hearth.write_cons (x : Hearth) (off : Nat) (b : Byte) (t : List Byte) :
    x.write off (b :: t) = (x.putByte off b).write (off + 1) t := rfl

section
variable {x : Hearth} (hwf : x.frames.wf = true) (hinj : x.MapInjective)
include hwf

theorem Hearth.byte_putByte_self (off : Nat) (b : Byte) : (x.putByte off b).byte off = b := Store.read_write_self _ _ _ hwf

theorem Hearth.putByte_wf (off : Nat) (b : Byte) : (x.putByte off b).frames.wf = true := Store.write_wf _ _ _ hwf

include hinj

theorem Hearth.byte_putByte_ne {off a : Nat} (b : Byte) (h : a ≠ off) : (x.putByte off b).byte a = x.byte a :=
  Store.read_write_ne _ _ hwf fun heq => h (hinj.frameAddr_inj heq)

theorem Hearth.byte_write_out {off a : Nat} (bs : List Byte) (ha : a < off ∨ off + bs.length ≤ a) :
    (x.write off bs).byte a = x.byte a := by
  induction bs generalizing x off with
  | nil => rfl
  | cons b t ih =>
    rw [List.length_cons] at ha
    rw [Hearth.write_cons, ih (Hearth.putByte_wf hwf off b) (hinj.congr rfl) (by omega), Hearth.byte_putByte_ne hwf hinj b (by omega)]

theorem Hearth.byte_write_in {off i : Nat} {bs : List Byte} (hi : i < bs.length) :
    (x.write off bs).byte (off + i) = bs[i] := by
  induction bs generalizing x off i with
  | nil => cases hi
  | cons b t ih =>
    have hwf' := Hearth.putByte_wf hwf off b
    rw [Hearth.write_cons]
    cases i with
    | zero =>
      rw [Hearth.byte_write_out hwf' (hinj.congr rfl) _ (by omega)]
      exact Hearth.byte_putByte_self hwf off b
    | succ i =>
      have hrest := ih hwf' (hinj.congr rfl) (off := off + 1) (Nat.lt_of_succ_lt_succ hi)
      rwa [Nat.add_assoc, Nat.add_comm 1 i] at hrest

theorem Hearth.bytes_write (off : Nat) (bs : List Byte) : (x.write off bs).bytes off bs.length = bs := by
  refine List.ext_getElem (by simp [Hearth.bytes]) fun i h1 h2 => ?_
  simp [Hearth.bytes, Hearth.byte_write_in hwf hinj h2]

end

/-- The writes of a group into its landing range, each at its offset there. -/
def Hearth.landed (x : Hearth) (land : Nat) (writes : List (Nat × List Byte)) : Hearth :=
  writes.foldl (fun x w => x.write (land * 4096 + w.1) w.2) x

theorem Hearth.landed_pageMap (x : Hearth) (land : Nat) (writes : List (Nat × List Byte)) :
    (x.landed land writes).pageMap = x.pageMap := by
  induction writes generalizing x with
  | nil => rfl
  | cons w t ih => exact (ih _).trans (Hearth.write_pageMap ..)

theorem Hearth.byte_landed_out {x : Hearth} (hwf : x.frames.wf = true) (hinj : x.MapInjective) {land n a : Nat}
    {writes : List (Nat × List Byte)} (hfit : ∀ w ∈ writes, w.1 + w.2.length ≤ 4096 * n)
    (ha : a < land * 4096 ∨ (land + n) * 4096 ≤ a) : (x.landed land writes).byte a = x.byte a := by
  induction writes generalizing x with
  | nil => rfl
  | cons w t ih =>
    obtain ⟨o, bs⟩ := w
    have hw : o + bs.length ≤ 4096 * n := hfit (o, bs) List.mem_cons_self
    have hrest := ih (Hearth.write_wf x (land * 4096 + o) bs hwf) (hinj.congr (Hearth.write_pageMap ..))
      fun v hv => hfit v (List.mem_cons_of_mem _ hv)
    have hout : a < land * 4096 + o ∨ land * 4096 + o + bs.length ≤ a := ha.imp (Nat.lt_add_right o) (by omega)
    exact hrest.trans (Hearth.byte_write_out hwf hinj bs hout)

/-! ### Pages made unspecified -/

theorem Hearth.scramble_succ (x : Hearth) (first n salt : Nat) : x.scramble first (n + 1) salt =
    { x.scramble first n salt with frames :=
        (x.scramble first n salt).frames.setPage ((x.scramble first n salt).frameNo (first + n)) salt } := by
  simp only [Hearth.scramble, List.range_succ, List.foldl_append, List.foldl_cons, List.foldl_nil, Hearth.frameNo]

theorem Hearth.scramble_pageMap (x : Hearth) (first n salt : Nat) : (x.scramble first n salt).pageMap = x.pageMap := by
  induction n with
  | zero => rfl
  | succ n ih => rw [Hearth.scramble_succ]; exact ih

/-- Pages made unspecified leave every byte that stands in none of their frames. -/
theorem Hearth.byte_scramble_out {x : Hearth} (hwf : x.frames.wf = true) {first n a : Nat} (salt : Nat)
    (ha : ∀ i, i < n → x.frameNo (a / 4096) ≠ x.frameNo (first + i)) : (x.scramble first n salt).byte a = x.byte a := by
  induction n with
  | zero => rfl
  | succ n ih =>
    have hmap := Hearth.scramble_pageMap x first n salt
    rw [← ih fun i hi => ha i (by omega), Hearth.scramble_succ]
    refine Store.read_setPage_ne _ _ _ _ (Hearth.scramble_wf _ _ _ _ hwf) ?_
    rw [Hearth.frameAddr_div, Hearth.frameNo, Hearth.frameNo, hmap]
    exact ha n (by omega)

/-! ### Page-map entries exchanged (R92) -/

/-- The page whose frame a page takes when two ranges are exchanged. -/
def swappedPage (a b n page : Nat) : Nat :=
  if a ≤ page ∧ page < a + n then page - a + b else if b ≤ page ∧ page < b + n then page - b + a else page

theorem Hearth.swapPages_frames (x : Hearth) (a b n : Nat) : (x.swapPages a b n).frames = x.frames := by
  induction n with
  | zero => rfl
  | succ n ih =>
    simp only [Hearth.swapPages, List.range_succ, List.foldl_append, List.foldl_cons, List.foldl_nil] at ih ⊢
    exact ih

theorem Hearth.swapPages_succ_frameNo (x : Hearth) (a b n page : Nat) : (x.swapPages a b (n + 1)).frameNo page =
    if page = b + n then (x.swapPages a b n).frameNo (a + n)
    else if page = a + n then (x.swapPages a b n).frameNo (b + n) else (x.swapPages a b n).frameNo page := by
  simp only [Hearth.swapPages, List.range_succ, List.foldl_append, List.foldl_cons, List.foldl_nil, Hearth.frameNo, Tab.get_set]

section
variable {a b n : Nat} (hapart : a + n ≤ b ∨ b + n ≤ a)
include hapart

theorem Hearth.swapPages_frameNo (x : Hearth) (page : Nat) : (x.swapPages a b n).frameNo page = x.frameNo (swappedPage a b n page) := by
  induction n generalizing page with
  | zero =>
    have hpage : swappedPage a b 0 page = page := by unfold swappedPage; split_ifs <;> omega
    rw [hpage]; rfl
  | succ n ih =>
    have ih := ih (by omega)
    rw [Hearth.swapPages_succ_frameNo, ih, ih, ih, ← apply_ite, ← apply_ite, ← apply_ite, ← apply_ite]
    congr 1
    unfold swappedPage
    split_ifs <;> omega

theorem swappedPage_inj {p q : Nat} (h : swappedPage a b n p = swappedPage a b n q) : p = q := by
  unfold swappedPage at h
  split_ifs at h <;> omega

theorem Hearth.MapInjective.swapPages {x : Hearth} (h : x.MapInjective) : (x.swapPages a b n).MapInjective := by
  intro p q hpq
  rw [Hearth.swapPages_frameNo hapart, Hearth.swapPages_frameNo hapart] at hpq
  exact swappedPage_inj hapart (h _ _ hpq)

/-- After an exchange an offset reads what the page it took over held at that place. -/
theorem Hearth.byte_swapPages (x : Hearth) (off : Nat) :
    (x.swapPages a b n).byte off = x.byte (swappedPage a b n (off / 4096) * 4096 + off % 4096) := by
  have hdiv : (swappedPage a b n (off / 4096) * 4096 + off % 4096) / 4096 = swappedPage a b n (off / 4096) := by omega
  have hmod : (swappedPage a b n (off / 4096) * 4096 + off % 4096) % 4096 = off % 4096 := by omega
  rw [Hearth.byte, Hearth.byte, Hearth.swapPages_frames, Hearth.frameAddr, Hearth.frameAddr, hdiv, hmod]
  exact congrArg (fun f => x.frames.read (f * 4096 + off % 4096)) (Hearth.swapPages_frameNo hapart x (off / 4096))

theorem Hearth.byte_swapPages_fst (x : Hearth) {o : Nat} (ho : o < 4096 * n) :
    (x.swapPages a b n).byte (a * 4096 + o) = x.byte (b * 4096 + o) := by
  have hpage : swappedPage a b n ((a * 4096 + o) / 4096) * 4096 + (a * 4096 + o) % 4096 = b * 4096 + o := by
    unfold swappedPage; split_ifs <;> omega
  rw [Hearth.byte_swapPages hapart, hpage]

theorem Hearth.byte_swapPages_snd (x : Hearth) {o : Nat} (ho : o < 4096 * n) :
    (x.swapPages a b n).byte (b * 4096 + o) = x.byte (a * 4096 + o) := by
  have hpage : swappedPage a b n ((b * 4096 + o) / 4096) * 4096 + (b * 4096 + o) % 4096 = a * 4096 + o := by
    unfold swappedPage; split_ifs <;> omega
  rw [Hearth.byte_swapPages hapart, hpage]

theorem Hearth.byte_swapPages_out (x : Hearth) {off : Nat} (ha : off < a * 4096 ∨ (a + n) * 4096 ≤ off)
    (hb : off < b * 4096 ∨ (b + n) * 4096 ≤ off) : (x.swapPages a b n).byte off = x.byte off := by
  have hpage : swappedPage a b n (off / 4096) * 4096 + off % 4096 = off := by
    unfold swappedPage; split_ifs <;> omega
  rw [Hearth.byte_swapPages hapart, hpage]

end

/-- Settles O26: the exchange permutes pages, so an offset reads what the page it took over held, and the landing writes touch no
byte outside their range. -/
theorem commitExchangesThePages : Obligations.CommitExchangesThePages := by
  intro x land dest n salt writes hwf hmap hapart hfit z y
  have hinj : x.MapInjective := Hearth.mapInjective_iff.2 hmap
  have hinj' : (x.scramble land n salt).MapInjective := hinj.congr (Hearth.scramble_pageMap ..)
  have hwf' : (x.scramble land n salt).frames.wf = true := Hearth.scramble_wf _ _ _ _ hwf
  have hz : z = (x.scramble land n salt).landed land writes := rfl
  have hzinj : z.MapInjective := hinj'.congr (Hearth.landed_pageMap ..)
  have hout : ∀ a, (a < land * 4096 ∨ (land + n) * 4096 ≤ a) → z.byte a = x.byte a := fun a ha => by
    rw [hz, Hearth.byte_landed_out hwf' hinj' hfit ha]
    refine Hearth.byte_scramble_out hwf salt fun i hi heq => ?_
    have hpage := hinj _ _ heq
    omega
  refine ⟨hout, fun o ho => ⟨Hearth.byte_swapPages_snd hapart z ho, ?_⟩, fun a hl hd => ?_, ?_, fun o bs hone => ?_⟩
  · exact (Hearth.byte_swapPages_fst hapart z ho).trans (hout _ (by omega))
  · exact (Hearth.byte_swapPages_out hapart z hl hd).trans (hout a hl)
  · exact Hearth.mapInjective_iff.1 (hzinj.swapPages hapart)
  · have hlen : o + bs.length ≤ 4096 * n := hfit (o, bs) (by rw [hone]; exact List.mem_singleton_self _)
    have hwritten : z = (x.scramble land n salt).write (land * 4096 + o) bs := by rw [hz, hone]; rfl
    calc y.bytes (dest * 4096 + o) bs.length
        = z.bytes (land * 4096 + o) bs.length := List.map_congr_left fun i hi => by
          rw [Nat.add_assoc, Nat.add_assoc]
          exact Hearth.byte_swapPages_snd hapart z (by have := List.mem_range.1 hi; omega)
      _ = bs := by rw [hwritten]; exact Hearth.bytes_write hwf' hinj' _ _

end Sys2Proof.Machine
end

section
/-! What the work of a part leaves of the image, the positions, the jobs and the counters of its hearth (R75, R99, R102). -/
namespace Sys2Proof.Machine

/-! ### Jobs, positions and the image -/

/-- A job but for what it is charged (R263). -/
def Job.uncharged (j : Job) : Job := { j with charge := 0 }

/-- The image, the positions and the job of every hoop are the same, but for what the jobs are charged. -/
structure PartsStand (s t : State) : Prop where
  img    : t.img = s.img
  places : t.seq.places = s.seq.places
  jobs   : ∀ n, (t.hoop n).job.map Job.uncharged = (s.hoop n).job.map Job.uncharged

section
variable {s t u : State}

theorem PartsStand.refl (s : State) : PartsStand s s := ⟨rfl, rfl, fun _ => rfl⟩

theorem PartsStand.trans (h : PartsStand s t) (k : PartsStand t u) : PartsStand s u :=
  ⟨k.img.trans h.img, k.places.trans h.places, fun n => (k.jobs n).trans (h.jobs n)⟩

theorem PartsStand.symm (h : PartsStand s t) : PartsStand t s := ⟨h.img.symm, h.places.symm, fun n => (h.jobs n).symm⟩

theorem PartsStand.of_hoops (himg : t.img = s.img) (hplaces : t.seq.places = s.seq.places) (hhoops : t.seq.hoops = s.seq.hoops) :
    PartsStand s t := ⟨himg, hplaces, fun n => by rw [hoop_of_hoops hhoops]⟩

theorem PartsStand.of_keeps {m : Nat} (k : Keeps m s t) (h5 : m.testBit 5 = false := by rfl) (h9 : m.testBit 9 = false := by rfl) :
    PartsStand s t := .of_hoops (k.img h5) (congrArg Seq.places (k.seq h9)) (congrArg Seq.hoops (k.seq h9))

theorem updHearth_partsStand (p : Nat) (f : Hearth → Hearth) (s : State) : PartsStand s (updHearth p f s) := .of_hoops rfl rfl rfl

theorem addCharge_partsStand (hoop k : Nat) (s : State) : PartsStand s (addCharge hoop k s) := by
  refine ⟨rfl, rfl, fun n => ?_⟩
  by_cases hn : n = hoop
  · rw [hn, addCharge, updJob, updHoop_self, Option.map_map]; rfl
  · rw [addCharge, updJob, updHoop_ne _ _ _ hn]

/-! #### What depends on the image alone -/

theorem stepAt_congr (h : t.img = s.img) (number n : Nat) : t.stepAt number n = s.stepAt number n := by
  unfold State.stepAt State.prickOff; rw [h]

theorem descUnit_congr (h : t.img = s.img) (number : Nat) : t.descUnit number = s.descUnit number := by
  funext i; unfold State.descUnit State.prickOff; rw [h]

theorem groupOf_congr (h : t.img = s.img) (number desc : Nat) : t.groupOf number desc = s.groupOf number desc := by
  unfold State.groupOf State.descWords State.prickOff; rw [descUnit_congr h, h]

theorem hoopHome_congr (h : t.img = s.img) (n : Nat) : t.hoopHome n = s.hoopHome n := congrArg hoopHalf (hoopEntry_congr h n)

theorem hoopOfPos_congr (h : t.img = s.img) (l : Nat) : t.hoopOfPos l = s.hoopOfPos l := by
  unfold State.hoopOfPos State.hoopPositions State.hoopHome State.hoopEntry; rw [h]

theorem detectOnly_congr (h : t.img = s.img) (hoop : Nat) : t.detectOnly hoop = s.detectOnly hoop := by
  unfold State.detectOnly; rw [h]

theorem groupDesc_congr (h : t.img = s.img) (q : Part4) : groupDesc q t = groupDesc q s := by
  unfold groupDesc; rw [stepAt_congr h, descUnit_congr h]

theorem isAppend_congr (h : t.img = s.img) (q : Part4) : isAppend q t = isAppend q s := by
  unfold isAppend; rw [stepAt_congr h, descUnit_congr h]

/-! #### Open parts -/

/-- An open part stays open, of the same step of the same job. -/
theorem PartsStand.openPart (k : PartsStand s t) {hoop n pos : Nat} {j : Job} {r : Released}
    (h : s.openPart hoop n pos = some (j, r)) : ∃ j', t.openPart hoop n pos = some (j', r) ∧ j'.uncharged = j.uncharged := by
  have hjobs := k.jobs hoop
  unfold State.openPart at h ⊢
  cases hs : (s.hoop hoop).job with
  | none => rw [hs] at h; cases h
  | some a =>
    cases ht : (t.hoop hoop).job with
    | none => rw [hs, ht] at hjobs; cases hjobs
    | some b =>
      rw [hs, ht] at hjobs
      have hab : b.uncharged = a.uncharged := Option.some.inj hjobs
      have hsteps : b.uncharged.steps = a.uncharged.steps := congrArg Job.steps hab
      rw [hs] at h
      simp only [Option.bind_eq_bind, Option.bind_some, Option.bind_eq_some_iff, Option.some.injEq, Prod.mk.injEq] at h ⊢
      obtain ⟨x, hx, rfl, rfl⟩ := h
      exact ⟨b, ⟨x, (congrArg (List.find? _) hsteps).trans hx, rfl, rfl⟩, hab⟩

theorem PartsStand.openPart_eq_none (k : PartsStand s t) {hoop n pos : Nat} (h : s.openPart hoop n pos = none) :
    t.openPart hoop n pos = none := by
  cases ht : t.openPart hoop n pos with
  | none => rfl
  | some o =>
    obtain ⟨j', hs, -⟩ := k.symm.openPart ht
    rw [h] at hs; cases hs

theorem PartsStand.groupedPart (k : PartsStand s t) (q : Part4) : groupedPart q t = groupedPart q s := by
  unfold Machine.groupedPart
  cases hs : s.openPart q.hoop q.step q.pos with
  | none => rw [k.openPart_eq_none hs]
  | some o =>
    obtain ⟨j', ht, -⟩ := k.openPart hs
    rw [ht]

theorem PartsStand.groupOpen (k : PartsStand s t) (q : Part4) : groupOpen q t = groupOpen q s := by
  unfold Machine.groupOpen; rw [k.groupedPart, isAppend_congr k.img, stepAt_congr k.img]

/-! #### Parts on hearths -/

theorem part4_eq_some_iff {kinds : List Nat} {hoop step pos : Nat} {q : Part4} : s.part4 kinds hoop step pos = some q ↔
    ∃ j r, s.openPart hoop step pos = some (j, r) ∧ kinds.contains (stepKind (s.stepAt j.q.pricking step)) = true
      ∧ (s.place (posOf (s.hoopHome hoop) pos)).vacant = false
      ∧ ⟨hoop, step, pos, s.hoopHome hoop, posOf (s.hoopHome hoop) pos, (s.place (posOf (s.hoopHome hoop) pos)).physical, j⟩ = q := by
  unfold State.part4
  simp only [Option.bind_eq_bind, Option.bind_eq_some_iff, Option.guard_eq_some', Bool.not_eq_true', Prod.exists, Option.some.injEq, exists_const]

/-- A hearth stands at the position of a part. -/
structure Seated (q : Part4) (s : State) : Prop where
  place    : ∃ h i, i < 8 ∧ q.log = posOf h i
  phys     : q.phys = (s.place q.log).physical
  occupied : (s.place q.log).vacant = false

theorem Seated.stands {q : Part4} (h : Seated q s) (k : PartsStand s t) : Seated q t :=
  ⟨h.place, by rw [place_of_places k.places]; exact h.phys, by rw [place_of_places k.places]; exact h.occupied⟩

/-- The part that a command names: the hearth that stands at its position, and its open step. -/
structure PartAt (s : State) (h n i : Nat) (q : Part4) : Prop extends Seated q s where
  hoop   : q.hoop = h
  step   : q.step = n
  pos    : q.pos = i
  opened : ∃ r, s.openPart h n i = some (q.job, r)

theorem partAt_of_part4 {kinds : List Nat} {hoop step pos : Nat} {q : Part4} (hpos : pos < 8)
    (h : s.part4 kinds hoop step pos = some q) : PartAt s hoop step pos q := by
  obtain ⟨j, r, hopen, -, hseat, rfl⟩ := part4_eq_some_iff.1 h
  exact ⟨⟨⟨_, _, hpos, rfl⟩, rfl, hseat⟩, rfl, rfl, rfl, r, hopen⟩

theorem kind_of_part4 {kinds : List Nat} {hoop step pos : Nat} {q : Part4} (h : s.part4 kinds hoop step pos = some q) :
    kinds.contains (stepKind (s.stepAt q.job.q.pricking q.step)) = true := by
  obtain ⟨j, r, -, hkind, -, rfl⟩ := part4_eq_some_iff.1 h
  exact hkind

theorem PartsStand.part4_eq_none (k : PartsStand s t) {kinds : List Nat} {hoop step pos : Nat}
    (h : s.part4 kinds hoop step pos = none) : t.part4 kinds hoop step pos = none := by
  cases ht : t.part4 kinds hoop step pos with
  | none => rfl
  | some q =>
    obtain ⟨j, r, hopen, hkind, hseat, -⟩ := part4_eq_some_iff.1 ht
    obtain ⟨j', hopen', hj⟩ := k.symm.openPart hopen
    have hq : j'.uncharged.q = j.uncharged.q := congrArg Job.q hj
    have hq' : j'.q = j.q := hq
    rw [stepAt_congr k.img, ← hq'] at hkind
    rw [place_of_places k.places, hoopHome_congr k.img] at hseat
    rw [part4_eq_some_iff.2 ⟨j', r, hopen', hkind, hseat, rfl⟩] at h
    cases h

/-- No part works in a position's array, also after bookkeeping. -/
theorem PartsStand.computeParts_eq_nil (k : PartsStand s t) {hoop pos : Nat} {skip : Option Nat}
    (h : computeParts hoop pos skip s = []) : computeParts hoop pos skip t = [] := by
  have hjobs := k.jobs hoop
  unfold computeParts at h ⊢
  cases hs : (s.hoop hoop).job with
  | none =>
    rw [hs] at hjobs
    rw [Option.map_eq_none_iff.1 hjobs]
  | some a =>
    cases ht : (t.hoop hoop).job with
    | none => rfl
    | some b =>
      rw [hs, ht] at hjobs
      have hsteps : b.uncharged.steps = a.uncharged.steps := congrArg Job.steps (Option.some.inj hjobs)
      have hsteps' : b.steps = a.steps := hsteps
      rw [hs] at h
      dsimp only at h ⊢
      rw [List.filterMap_eq_nil_iff] at h ⊢
      rw [hsteps']
      exact fun r hr => k.part4_eq_none (h r hr)

theorem PartsStand.alone (k : PartsStand s t) {q : Part4} (h : Alone q s) : Alone q t := fun hoop hh =>
  k.computeParts_eq_nil (h hoop (by rwa [hoopOfPos_congr k.img] at hh))

end
end Sys2Proof.Machine
end

section
/-! How the counters of a hearth grow (R102), and what the bookkeeping of a part leaves of its firebox. -/
namespace Sys2Proof.Machine

/-! ### Counters of a hearth -/

/-- Each counter of a hearth has grown by what `n` names; where that is 0 it may also be the same number. -/
structure Grown (p : Nat) (n : Nat → Nat) (s t : State) : Prop where
  ctr : ∀ w, Tab.get 0 (t.hearth p).ctr w = (Tab.get 0 (s.hearth p).ctr w + n w) % 2 ^ 64
    ∨ (n w = 0 ∧ Tab.get 0 (t.hearth p).ctr w = Tab.get 0 (s.hearth p).ctr w)

section
variable {p : Nat} {n m : Nat → Nat} {s t u : State}

theorem Grown.of_ctr (h : (t.hearth p).ctr = (s.hearth p).ctr) : Grown p 0 s t := ⟨fun _ => .inr ⟨rfl, by rw [h]⟩⟩

theorem Grown.trans (h : Grown p n s t) (k : Grown p m t u) : Grown p (n + m) s u := by
  refine ⟨fun w => ?_⟩
  rw [Pi.add_apply]
  obtain ht | ⟨hn, ht⟩ := h.ctr w <;> obtain hu | ⟨hm, hu⟩ := k.ctr w
  · left; rw [hu, ht]; omega
  · left; rw [hu, ht]; omega
  · left; rw [hu, ht]; omega
  · exact .inr ⟨by omega, by rw [hu, ht]⟩

theorem Grown.congr (h : Grown p n s t) (hnm : ∀ w, n w = m w) : Grown p m s t := (funext hnm : n = m) ▸ h

theorem bumpHearth_grown (p w k : Nat) (s : State) : Grown p (Pi.single w k) s (bumpHearth p w k s) := by
  refine ⟨fun v => ?_⟩
  rw [bumpHearth, updHearth_self]
  by_cases hv : v = w
  · rw [hv, Pi.single_eq_same]; exact .inl (get_bump_self ..)
  · rw [Pi.single_eq_of_ne hv]; exact .inr ⟨rfl, get_bump_ne _ _ hv⟩

theorem Grown.counted (h : Grown p n s t) (w : Nat) : Counted p w (n w) s t := by
  unfold Counted
  obtain ht | ⟨hn, ht⟩ := h.ctr w
  · rw [ht, Nat.mod_mod]
  · rw [ht, hn, Nat.add_zero]

/-- A counter that grew by a number other than 0 is the sum modulo 2^64. -/
theorem Grown.get_eq (h : Grown p n s t) {w : Nat} (hw : n w ≠ 0) :
    Tab.get 0 (t.hearth p).ctr w = (Tab.get 0 (s.hearth p).ctr w + n w) % 2 ^ 64 := (h.ctr w).resolve_right fun h0 => hw h0.1

end

/-! ### Bookkeeping -/

/-- The firebox of a hearth and the passes it has started (R98, R178). -/
def Hearth.box (x : Hearth) : Store × Tab Nat × Nat := (x.frames, x.pageMap, x.started)

/-- Bookkeeping of a part on a hearth: it leaves positions, jobs and firebox, and its counters grow by what `n` names. -/
structure Booked (p : Nat) (n : Nat → Nat) (s t : State) : Prop extends PartsStand s t where
  box   : (t.hearth p).box = (s.hearth p).box
  grown : Grown p n s t

section
variable {p : Nat} {n m : Nat → Nat} {s t u : State}

theorem hearth_of_hearths (h : t.seq.hearths = s.seq.hearths) (k : Nat) : t.hearth k = s.hearth k := by unfold State.hearth; rw [h]

theorem Booked.refl (p : Nat) (s : State) : Booked p 0 s s := ⟨.refl s, rfl, .of_ctr rfl⟩

theorem Booked.trans (h : Booked p n s t) (k : Booked p m t u) : Booked p (n + m) s u :=
  ⟨h.toPartsStand.trans k.toPartsStand, k.box.trans h.box, h.grown.trans k.grown⟩

theorem Booked.congr (h : Booked p n s t) (hnm : ∀ w, n w = m w) : Booked p m s t := (funext hnm : n = m) ▸ h

theorem Booked.of_hearths (k : PartsStand s t) (h : t.seq.hearths = s.seq.hearths) : Booked p 0 s t :=
  ⟨k, by rw [hearth_of_hearths h], .of_ctr (by rw [hearth_of_hearths h])⟩

theorem Booked.of_keeps {k : Nat} (h : Keeps k s t) (h5 : k.testBit 5 = false := by rfl) (h9 : k.testBit 9 = false := by rfl) :
    Booked p 0 s t := .of_hearths (.of_keeps h h5 h9) (congrArg Seq.hearths (h.seq h9))

theorem bumpHearth_booked (p w k : Nat) (s : State) : Booked p (Pi.single w k) s (bumpHearth p w k s) :=
  ⟨updHearth_partsStand .., by rw [bumpHearth, updHearth_self]; rfl, bumpHearth_grown ..⟩

theorem addCharge_booked (p hoop k : Nat) (s : State) : Booked p 0 s (addCharge hoop k s) :=
  .of_hearths (addCharge_partsStand ..) rfl

theorem partRecord_booked (p : Nat) (q : Part4) (cls : FaultClass) (pass : Nat) (detect : Bool) (s : State) :
    Booked p 0 s (partRecord q cls pass detect s) := .of_keeps (partRecord_keeps ..)

theorem countFixed_booked (p : Nat) (c : Corrected) (s : State) : Booked p (Pi.single 4 c.store.toNat) s (countFixed p c s) := by
  have hchans : Keeps 0x400 (bumpHearth p 4 c.store.toNat s) (countFixed p c s) :=
    forEach_keeps _ _ _ fun _ _ => bumpChan_keeps ..
  exact ((bumpHearth_booked p 4 c.store.toNat s).trans (.of_keeps hchans)).congr fun w => Nat.add_zero _

theorem countValues_booked (p sats esc nonfin : Nat) (s : State) :
    Booked p (Pi.single 7 nonfin + Pi.single 6 esc + Pi.single 5 sats) s (countValues p sats esc nonfin s) :=
  ((bumpHearth_booked ..).trans (bumpHearth_booked ..)).trans (bumpHearth_booked ..)

theorem freeRounds_booked (p bound : Nat) (s : State) : Booked p 0 s (freeRounds bound s).2 := .of_keeps (freeRounds_keeps ..)

/-- The record of a check let through, counted where it is one of the hearth (R102, R304). -/
def noteCheck (q : Part4) (e : FaultClass × Nat) (s : State) : State :=
  partRecord q e.1 e.2 true (if isCheck e.1 then bumpHearth q.phys 3 1 s else s)

theorem noteCheck_booked (q : Part4) (e : FaultClass × Nat) (s : State) :
    Booked q.phys (Pi.single 3 (checksIn [e])) s (noteCheck q e s) := by
  unfold noteCheck checksIn
  by_cases he : isCheck e.1 = true
  · rw [if_pos he, List.filter_cons_of_pos (by exact he)]
    exact ((bumpHearth_booked ..).trans (partRecord_booked ..)).congr fun w => Nat.add_zero _
  · rw [if_neg he, List.filter_cons_of_neg (by exact he)]
    exact (partRecord_booked ..).congr fun w => by rw [List.filter_nil, List.length_nil, Pi.single_zero]

theorem checksIn_cons (e : FaultClass × Nat) (l : List (FaultClass × Nat)) : checksIn (e :: l) = checksIn [e] + checksIn l := by
  unfold checksIn
  rw [← List.singleton_append, List.filter_append, List.length_append]

theorem noteChecks_booked (q : Part4) (l : List (FaultClass × Nat)) (s : State) :
    Booked q.phys (Pi.single 3 (checksIn l)) s (forEach l (noteCheck q) s) := by
  induction l generalizing s with
  | nil => exact (Booked.refl q.phys s).congr fun w => by simp [checksIn]
  | cons e l ih =>
    rw [checksIn_cons, Pi.single_add]
    exact (noteCheck_booked q e s).trans (ih _)

/-- What the commit of a part adds to the counters of its hearth, but for the single-bit errors of its reads (R102). -/
def commitCounts (rounds checks sats esc nonfin : Nat) : Nat → Nat :=
  Pi.single 2 rounds + Pi.single 0 1 + (Pi.single 7 nonfin + Pi.single 6 esc + Pi.single 5 sats) + Pi.single 3 checks

theorem commitPart_booked (q : Part4) (rounds sats esc nonfin : Nat) (checks : List (FaultClass × Nat)) (s : State) :
    Booked q.phys (commitCounts rounds (checksIn checks) sats esc nonfin) s (commitPart q rounds sats esc nonfin checks s) := by
  have hcommit := ((addCharge_booked q.phys q.hoop rounds s).trans (bumpHearth_booked q.phys 2 rounds _)).trans
    (bumpHearth_booked q.phys 0 1 _)
  have hall := (hcommit.trans (countValues_booked q.phys sats esc nonfin _)).trans (noteChecks_booked q checks _)
  exact hall.congr fun w => by simp only [commitCounts, Pi.add_apply, Pi.zero_apply, Nat.zero_add]

end

/-! ### Other hearths -/

/-- Every hearth but one is the same. -/
structure Elsewhere (p : Nat) (s t : State) : Prop where
  hearth : ∀ k, k ≠ p → t.hearth k = s.hearth k

section
variable {p : Nat} {s t u : State}

theorem Elsewhere.trans (h : Elsewhere p s t) (k : Elsewhere p t u) : Elsewhere p s u := ⟨fun i hi => (k.hearth i hi).trans (h.hearth i hi)⟩

theorem Elsewhere.of_hearths (h : t.seq.hearths = s.seq.hearths) : Elsewhere p s t := ⟨fun k _ => hearth_of_hearths h k⟩

theorem Elsewhere.of_keeps {m : Nat} (k : Keeps m s t) (h9 : m.testBit 9 = false := by rfl) : Elsewhere p s t :=
  .of_hearths (congrArg Seq.hearths (k.seq h9))

theorem updHearth_elsewhere (p : Nat) (f : Hearth → Hearth) (s : State) : Elsewhere p s (updHearth p f s) :=
  ⟨fun _ hk => updHearth_ne _ _ _ hk⟩

theorem Elsewhere.forEach {α : Type} {l : List α} {f : α → State → State} (hf : ∀ a t, Elsewhere p t (f a t)) (s : State) :
    Elsewhere p s (forEach l f s) := forEach_invariant (P := Elsewhere p s) (fun a t h => h.trans (hf a t)) l s ⟨fun _ _ => rfl⟩

theorem countFixed_elsewhere (p : Nat) (c : Corrected) (s : State) : Elsewhere p s (countFixed p c s) :=
  (updHearth_elsewhere ..).trans (.forEach (fun _ _ => .of_keeps (bumpChan_keeps ..)) _)

theorem countValues_elsewhere (p sats esc nonfin : Nat) (s : State) : Elsewhere p s (countValues p sats esc nonfin s) :=
  ((updHearth_elsewhere ..).trans (updHearth_elsewhere ..)).trans (updHearth_elsewhere ..)

theorem noteCheck_elsewhere (q : Part4) (e : FaultClass × Nat) (s : State) : Elsewhere q.phys s (noteCheck q e s) := by
  unfold noteCheck
  split
  · exact (updHearth_elsewhere ..).trans (.of_keeps (partRecord_keeps ..))
  · exact .of_keeps (partRecord_keeps ..)

theorem commitPart_elsewhere (q : Part4) (rounds sats esc nonfin : Nat) (checks : List (FaultClass × Nat)) (s : State) :
    Elsewhere q.phys s (commitPart q rounds sats esc nonfin checks s) := by
  have hcharge : Elsewhere q.phys s (addCharge q.hoop rounds s) := .of_hearths rfl
  exact ((hcharge.trans ((updHearth_elsewhere ..).trans (updHearth_elsewhere ..))).trans (countValues_elsewhere ..)).trans
    (.forEach (noteCheck_elsewhere q) _)

end

end Sys2Proof.Machine
end

section
/-! What the end of a part leaves: every hearth as it was, and no open part of its step at its position (R63, R75). -/
namespace Sys2Proof.Machine

/-! ### Hearths at the ends and admissions of jobs -/

/-- Every hearth is the same. -/
structure HearthsKept (s t : State) : Prop where
  hearths : t.seq.hearths = s.seq.hearths

section
variable {s t u : State}

theorem HearthsKept.refl (s : State) : HearthsKept s s := ⟨rfl⟩

theorem HearthsKept.trans (h : HearthsKept s t) (k : HearthsKept t u) : HearthsKept s u := ⟨k.hearths.trans h.hearths⟩

theorem HearthsKept.ite {c : Prop} [Decidable c] (h : HearthsKept s t) (k : HearthsKept s u) :
    HearthsKept s (if c then t else u) := by split <;> assumption

theorem HearthsKept.of_keeps {m : Nat} (k : Keeps m s t) (h9 : m.testBit 9 = false := by rfl) : HearthsKept s t :=
  ⟨congrArg Seq.hearths (k.seq h9)⟩

theorem HearthsKept.forEach {α : Type} {l : List α} {f : α → State → State} (hf : ∀ a t, HearthsKept t (f a t)) (s : State) :
    HearthsKept s (forEach l f s) := forEach_invariant (P := HearthsKept s) (fun a t h => h.trans (hf a t)) l s (.refl s)

theorem HearthsKept.hearth (h : HearthsKept s t) (p : Nat) : t.hearth p = s.hearth p := hearth_of_hearths h.hearths p

end

theorem updHoop_hearths (n : Nat) (f : HoopUnit → HoopUnit) (s : State) : HearthsKept s (updHoop n f s) := ⟨rfl⟩

theorem updJob_hearths (n : Nat) (f : Job → Job) (s : State) : HearthsKept s (updJob n f s) := ⟨rfl⟩

/-- A unit that walks each time fills no cache of a hearth. -/
theorem translate_walker_keeps (h : Half) (ctx va : Nat) (write : Bool) (s : State) :
    Keeps 0x10580 s (translate (.walker h) ctx va write s).2 := by
  have hwalk := countWalk_keeps (.walker h) ctx va s
  unfold translate walkFor
  dsimp only
  split
  · exact hwalk.trans (bumpXlat_keeps ..).up
  · split
    · exact hwalk.trans (bumpXlat_keeps ..).up
    · exact hwalk

theorem readPieces_walker_keeps (h : Half) (ctx : Nat) (l : List (Nat × Nat)) (s : State) :
    Keeps 0x10580 s (readPieces (.walker h) ctx l s).2 := by
  induction l generalizing s with
  | nil => exact .refl s
  | cons x l ih =>
    have htrans := translate_walker_keeps h ctx x.1 false s
    unfold readPieces
    split
    · exact .of1 ‹_› htrans
    · next pa s1 heq =>
      have hfresh : Keeps 0x10580 s (fresh s1).2 := (Keeps.of1 heq htrans).trans (fresh_keeps s1).up
      dsimp only
      split
      · exact hfresh.trans (noteUnmapped_keeps ..).up
      · have hrest := (hfresh.trans (countAccess_keeps ..).up).trans (ih (countAccess false pa x.2 (fresh s1).2))
        split
        · exact .of1 ‹_› hrest
        · exact .of1 ‹_› hrest

theorem readFrames_hearths (h : Half) (ctx : Nat) (d : Entry) (args : List Word) (l : List Nat) (s : State) :
    HearthsKept s (readFrames h ctx d args l s).2 := by
  induction l generalizing s with
  | nil => exact .refl s
  | cons k l ih => exact (HearthsKept.of_keeps (readPieces_walker_keeps ..)).trans (ih _)

theorem holdForStep_hearths (hoop : Nat) (q : QJob) (args : Option (List Word)) (n : Nat) (s : State) :
    HearthsKept s (holdForStep hoop q args n s) := by
  unfold holdForStep
  cases args with
  | none => exact .of_keeps (holdRecord_keeps ..)
  | some a => exact (readFrames_hearths ..).trans (.of_keeps (holdRecord_keeps ..))

theorem countEnd_hearths (h : Half) (status : Nat) (s : State) : HearthsKept s (countEnd h status s) :=
  .ite (.of_keeps (bumpSeq_keeps ..)) (.ite (.of_keeps (bumpSeq_keeps ..)) (.ite (.of_keeps (bumpSeq_keeps ..)) (.refl s)))

theorem finalReply_hearths (hoop : Nat) (q : QJob) (status eff charge : Nat) (s : State) :
    HearthsKept s (finalReply hoop q status eff charge s) := by
  unfold finalReply
  extract_lets h shares v seq s1 s2 s3 rec s4 s5
  have h1 : HearthsKept s s1 := ⟨rfl⟩
  have h2 : HearthsKept s1 s2 := countEnd_hearths h status s1
  have h3 : HearthsKept s2 s3 := .of_keeps (bumpDamp_keeps ..)
  have h4 : HearthsKept s3 s4 := .ite (.refl s3) ⟨rfl⟩
  have h5 : HearthsKept s4 s5 := .of_keeps (recordEntry_keeps ..)
  exact h1.trans (h2.trans (h3.trans (h4.trans (h5.trans (.of_keeps (replyFinal_keeps ..))))))

theorem closeJob_hearths (hoop : Nat) (q : QJob) (args : Option (List Word)) (next status eff charge : Nat) (s : State) :
    HearthsKept s (closeJob hoop q args next status eff charge s) := by
  have hholds : HearthsKept s (if holdsAfter status then jobHolds hoop q args next s else s) :=
    .ite (.forEach (fun _ _ => holdForStep_hearths ..) s) (.refl s)
  exact (hholds.trans (.of_keeps (sealHands_keeps ..))).trans (finalReply_hearths ..)

theorem admitJob_hearths (hoop : Nat) (q : QJob) (s : State) : HearthsKept s (admitJob hoop q s) := by
  unfold admitJob
  extract_lets img s1 h s2 rec s3 s4 ticks st j
  have h2 : HearthsKept s s2 := ⟨rfl⟩
  have h3 : HearthsKept s2 s3 := by
    unfold s3
    refine .ite ?_ (.of_keeps (recordEntry_keeps ..))
    split
    · exact ⟨rfl⟩
    · exact .refl s2
  have h4 : HearthsKept s s4 := (h2.trans h3).trans (.of_keeps (bumpDamp_keeps ..))
  exact .ite (h4.trans (closeJob_hearths ..)) (h4.trans (updHoop_hearths ..))

theorem tryAdmit_hearths (hoop : Nat) (s : State) : HearthsKept s (tryAdmit hoop s) := by
  unfold tryAdmit
  generalize (s.hoop hoop).queue.length + 1 = n
  induction n generalizing s with
  | zero => exact .refl s
  | succ n ih =>
    unfold admitUpTo
    refine .ite (.refl s) ?_
    split
    · exact .refl s
    · exact (admitJob_hearths ..).trans (ih _)

theorem endJob_hearths (hoop status eff : Nat) (s : State) : HearthsKept s (endJob hoop status eff s) := by
  unfold endJob
  split
  · exact .refl s
  · next j _ =>
    have hclose := closeJob_hearths hoop j.q j.argsRead j.next status eff j.charge s
    generalize closeJob hoop j.q j.argsRead j.next status eff j.charge s = t at hclose ⊢
    exact (hclose.trans (updHoop_hearths hoop _ t)).trans ((updHoop_hearths ..).trans (tryAdmit_hearths ..))

theorem settleJob_hearths (hoop : Nat) (s : State) : HearthsKept s (settleJob hoop s) := by
  unfold settleJob
  split
  · exact .refl s
  · refine .ite (.refl s) ?_
    split
    · exact .ite (endJob_hearths ..) (.refl s)
    · exact endJob_hearths ..
    all_goals exact .refl s

theorem applyPost_hearths (e : Entry) (args : List Word) (i : Nat) (s : State) : HearthsKept s (applyPost e args i s) :=
  .ite (.refl s) (.ite ⟨rfl⟩ ⟨rfl⟩)

theorem stepEnd_hearths (hoop n : Nat) (faulted : Bool) (s : State) : HearthsKept s (stepEnd hoop n faulted s) := by
  unfold stepEnd
  split
  · exact .refl s
  · have hposts (e : Entry) (args : List Word) (t : State) : HearthsKept t (applyPost e args 1 (applyPost e args 0 t)) :=
      (applyPost_hearths ..).trans (applyPost_hearths ..)
    exact ((updJob_hearths ..).trans (.ite (hposts ..) (.refl _))).trans (settleJob_hearths ..)

theorem partEnd_hearths (hoop n pos : Nat) (s : State) : HearthsKept s (partEnd hoop n pos s) := by
  unfold partEnd
  extract_lets s1
  have h1 : HearthsKept s s1 := updJob_hearths ..
  split
  · exact h1.trans (.ite (stepEnd_hearths ..) (.refl s1))
  · exact h1

theorem partFault_hearths (hoop n pos : Nat) (s : State) : HearthsKept s (partFault hoop n pos s) :=
  ((updJob_hearths ..).trans (updJob_hearths ..)).trans (partEnd_hearths ..)

theorem dropParts_hearths (hoop pos : Nat) (s : State) : HearthsKept s (dropParts hoop pos s) := by
  unfold dropParts
  split
  · exact .refl s
  · exact .forEach (fun _ _ => partFault_hearths ..) s

/-! ### Parts that have ended -/

/-- No released step `n` of the hoop's job has an open part at the position. -/
def PartClosed (hoop n pos : Nat) (s : State) : Prop :=
  ∀ j, (s.hoop hoop).job = some j → ∀ r ∈ j.steps, r.step = n → pos ∉ r.open_

section
variable {hoop n pos : Nat} {s : State}

theorem partClosed_iff : PartClosed hoop n pos s ↔ s.openPart hoop n pos = none := by
  unfold PartClosed State.openPart
  cases (s.hoop hoop).job with
  | none => simp
  | some j =>
    have hfind : (j.steps.find? fun r => r.step == n && r.open_.contains pos) = none ↔ ∀ r ∈ j.steps, r.step = n → pos ∉ r.open_ := by
      simp [List.find?_eq_none]
    simp only [Option.some.injEq, forall_eq', ← hfind, Option.bind_eq_bind, Option.bind_some]
    generalize (j.steps.find? fun r => r.step == n && r.open_.contains pos) = o
    cases o <;> simp

theorem partClosed_of_hoops {t : State} (h : t.seq.hoops = s.seq.hoops) (hs : PartClosed hoop n pos s) : PartClosed hoop n pos t := by
  unfold PartClosed; rw [hoop_of_hoops h]; exact hs

/-- A change of the job that opens no part leaves a closed part closed. -/
theorem partClosed_updJob {f : Job → Job} (hf : ∀ j, (f j).steps ⊆ j.steps) (hs : PartClosed hoop n pos s) :
    PartClosed hoop n pos (updJob hoop f s) := by
  intro j hj r hr
  rw [updJob, updHoop_self] at hj
  obtain ⟨i, hi, rfl⟩ := Option.map_eq_some_iff.1 hj
  exact hs i hi r (hf i hr)

/-- The part of a step is closed where its position is taken out of the step's open ones. -/
theorem partClosed_updStep : PartClosed hoop n pos (updStep hoop n (fun r => { r with open_ := r.open_.filter (· != pos) }) s) := by
  intro j hj r hr hn
  rw [updStep, updJob, updHoop_self] at hj
  obtain ⟨i, hi, rfl⟩ := Option.map_eq_some_iff.1 hj
  obtain ⟨x, hx, rfl⟩ := List.mem_map.1 hr
  by_cases hstep : x.step = n
  · rw [if_pos hstep]; simp
  · rw [if_neg hstep] at hn; exact absurd hn hstep

/-- The job of a hoop, if it has one, has released no step. -/
def Unreleased (hoop : Nat) (s : State) : Prop := ∀ j, (s.hoop hoop).job = some j → j.steps = []

theorem Unreleased.partClosed (h : Unreleased hoop s) : PartClosed hoop n pos s :=
  fun j hj r hr => by rw [h j hj] at hr; cases hr

theorem Unreleased.of_job {t : State} (h : (t.hoop hoop).job = (s.hoop hoop).job) (hs : Unreleased hoop s) : Unreleased hoop t := by
  unfold Unreleased; rw [h]; exact hs

theorem admitJob_unreleased (q : QJob) (hs : Unreleased hoop s) : Unreleased hoop (admitJob hoop q s) := by
  unfold admitJob
  extract_lets img s1 h s2 rec s3 s4 ticks st j
  have h2 : (s2.hoop hoop).job = (s.hoop hoop).job := by unfold s2; rw [updHoop_self]; rfl
  have h3 : s3.hoop hoop = s2.hoop hoop := by
    unfold s3
    split
    · split <;> rfl
    · exact hoop_of_seq ((recordEntry_keeps ..).seq rfl) _
  have h4 : (s4.hoop hoop).job = (s.hoop hoop).job := by unfold s4; rw [bumpDamp_hoop, h3, h2]
  split
  · exact hs.of_job (by rw [closeJob_hoop, h4])
  · intro i hi
    rw [updHoop_self] at hi
    cases hi; rfl

theorem tryAdmit_unreleased (hs : Unreleased hoop s) : Unreleased hoop (tryAdmit hoop s) := by
  unfold tryAdmit
  generalize (s.hoop hoop).queue.length + 1 = k
  induction k generalizing s with
  | zero => exact hs
  | succ k ih =>
    unfold admitUpTo
    split
    · exact hs
    · split
      · exact hs
      · exact ih (admitJob_unreleased _ hs)

/-- After the end of its job a hoop has at most a job that has not begun. -/
theorem endJob_unreleased (status eff : Nat) (s : State) : Unreleased hoop (endJob hoop status eff s) := by
  unfold endJob
  split
  · next hnone => intro j hj; rw [hnone] at hj; cases hj
  · refine tryAdmit_unreleased fun j hj => ?_
    rw [holdRounds, updHoop_self, updHoop_self] at hj
    cases hj

theorem settleJob_partClosed (hs : PartClosed hoop n pos s) : PartClosed hoop n pos (settleJob hoop s) := by
  unfold settleJob
  split
  · exact hs
  · split
    · exact hs
    · split
      · split
        · exact Unreleased.partClosed (endJob_unreleased _ _ s)
        · exact hs
      · exact Unreleased.partClosed (endJob_unreleased _ _ s)
      all_goals exact hs

theorem applyPost_hoops (e : Entry) (args : List Word) (i : Nat) (s : State) : (applyPost e args i s).seq.hoops = s.seq.hoops := by
  unfold applyPost; split
  · rfl
  · split <;> rfl

theorem stepEnd_partClosed (k : Nat) (faulted : Bool) (hs : PartClosed hoop n pos s) :
    PartClosed hoop n pos (stepEnd hoop k faulted s) := by
  unfold stepEnd
  split
  · exact hs
  · extract_lets e posts s1 s2
    have h1 : PartClosed hoop n pos s1 := partClosed_updJob (fun _ => List.filter_subset_self _) hs
    refine settleJob_partClosed ?_
    unfold s2
    split
    · exact partClosed_of_hoops ((applyPost_hoops ..).trans (applyPost_hoops ..)) h1
    · exact h1

/-- The part of a step that has ended is open no more. -/
theorem partEnd_partClosed (s : State) : PartClosed hoop n pos (partEnd hoop n pos s) := by
  unfold partEnd
  extract_lets s1
  have h1 : PartClosed hoop n pos s1 := partClosed_updStep
  split
  · split
    · exact stepEnd_partClosed _ _ h1
    · exact h1
  · exact h1

theorem partEnd_openPart (s : State) : (partEnd hoop n pos s).openPart hoop n pos = none := partClosed_iff.1 (partEnd_partClosed s)

theorem partFault_openPart (s : State) : (partFault hoop n pos s).openPart hoop n pos = none := partEnd_openPart _

end

end Sys2Proof.Machine
end

section
/-! A part that is abandoned (R75, R99, R318): what it leaves of its firebox and its counters, and that it is open no more. -/
namespace Sys2Proof.Machine

/-! ### Landing pages made unspecified (R99) -/

/-- Two hearths with the same bytes at the same pages. -/
structure Hearth.SameBox (x y : Hearth) : Prop where
  frames  : y.frames = x.frames
  pageMap : y.pageMap = x.pageMap

theorem Hearth.SameBox.byte {x y : Hearth} (h : x.SameBox y) : y.byte = x.byte := by
  funext a; rw [Hearth.byte, Hearth.byte, Hearth.frameAddr_congr h.pageMap, h.frames]

theorem Hearth.sameBox_of_box {x y : Hearth} (h : y.box = x.box) : x.SameBox y :=
  ⟨congrArg Prod.fst h, congrArg (fun b => b.2.1) h⟩

theorem Hearth.started_of_box {x y : Hearth} (h : y.box = x.box) : y.started = x.started := congrArg (fun b => b.2.2) h

theorem Booked.started {p : Nat} {n : Nat → Nat} {s t : State} (h : Booked p n s t) :
    (t.hearth p).started = (s.hearth p).started := Hearth.started_of_box h.box

theorem Hearth.scramble_kept (x : Hearth) (first n salt : Nat) :
    (x.scramble first n salt).started = x.started ∧ (x.scramble first n salt).ctr = x.ctr := by
  induction n with
  | zero => exact ⟨rfl, rfl⟩
  | succ n ih => rw [Hearth.scramble_succ]; exact ih

/-- What a part that stops leaves of its hearth's firebox: nothing changes outside its landing pages (R99). -/
structure BoxStopped (p : Nat) (g : Landing) (s t : State) : Prop where
  pageMap : (t.hearth p).pageMap = (s.hearth p).pageMap
  byte    : (s.hearth p).frames.wf = true → ∀ a,
    (∀ i, i < g.pages → (s.hearth p).frameAddr a / 4096 ≠ (s.hearth p).frameAddr ((g.land + i) * 4096) / 4096) →
    (t.hearth p).byte a = (s.hearth p).byte a

section
variable {p : Nat} {g : Landing} {s t u : State}

theorem BoxStopped.after (h : BoxStopped p g s t) (hbox : (t.hearth p).SameBox (u.hearth p)) : BoxStopped p g s u :=
  ⟨hbox.pageMap.trans h.pageMap, fun hwf a ha => by rw [hbox.byte, h.byte hwf a ha]⟩

theorem BoxStopped.before (hbox : (s.hearth p).SameBox (t.hearth p)) (h : BoxStopped p g t u) : BoxStopped p g s u := by
  refine ⟨h.pageMap.trans hbox.pageMap, fun hwf a ha => ?_⟩
  rw [h.byte (by rw [hbox.frames]; exact hwf) a (by simpa only [Hearth.frameAddr_congr hbox.pageMap] using ha), hbox.byte]

/-- The landing pages made unspecified. -/
def spoil (p : Nat) (g : Landing) (k : Nat) : State → State := updHearth p fun x => x.scramble g.land g.pages k

theorem spoil_boxStopped (p : Nat) (g : Landing) (k : Nat) (s : State) : BoxStopped p g s (spoil p g k s) := by
  unfold spoil
  refine ⟨?_, fun hwf a ha => ?_⟩ <;> rw [updHearth_self]
  · exact Hearth.scramble_pageMap ..
  · refine Hearth.byte_scramble_out hwf k fun i hi => ?_
    have hne := ha i hi
    rwa [Hearth.frameAddr_div, Hearth.frameAddr_div, Nat.mul_div_cancel _ (by decide)] at hne

theorem spoil_started (p : Nat) (g : Landing) (k : Nat) (s : State) : ((spoil p g k s).hearth p).started = (s.hearth p).started := by
  rw [spoil, updHearth_self]; exact (Hearth.scramble_kept ..).1

theorem spoil_grown (p : Nat) (g : Landing) (k : Nat) (s : State) : Grown p 0 s (spoil p g k s) :=
  .of_ctr (by rw [spoil, updHearth_self]; exact (Hearth.scramble_kept ..).2)

end

/-- What a part that stops adds to the counters of its hearth (R102). -/
def stopCounts (cls : FaultClass) (rounds : Nat) : Nat → Nat :=
  Pi.single 2 rounds + Pi.single 1 1 + Pi.single 3 (if isCheck cls then 1 else 0)

theorem discardPart_eq (q : Part4) (g : Landing) (cls : FaultClass) (rounds : Nat) (s : State) :
    discardPart q g cls rounds s =
      let t := bumpHearth q.phys 1 1 (bumpHearth q.phys 2 rounds (addCharge q.hoop rounds (spoil q.phys g (fresh s).1 (fresh s).2)))
      if isCheck cls then bumpHearth q.phys 3 1 t else t := rfl

/-- A part that stops spoils its landing pages and counts. -/
theorem discardPart_spoils (q : Part4) (g : Landing) (cls : FaultClass) (rounds : Nat) (s : State) :
    Booked q.phys (stopCounts cls rounds) (spoil q.phys g (fresh s).1 (fresh s).2) (discardPart q g cls rounds s) := by
  rw [discardPart_eq]
  have hstop := ((addCharge_booked q.phys q.hoop rounds (spoil q.phys g (fresh s).1 (fresh s).2)).trans
    (bumpHearth_booked q.phys 2 rounds _)).trans (bumpHearth_booked q.phys 1 1 _)
  unfold stopCounts
  dsimp only
  by_cases hc : isCheck cls = true
  · rw [if_pos hc, if_pos hc]
    exact (hstop.trans (bumpHearth_booked ..)).congr fun w => by rw [zero_add]
  · rw [if_neg hc, if_neg hc]
    exact hstop.congr fun w => by rw [zero_add, Pi.single_zero, add_zero]

/-! ### The consequences for the hearth and the step (R75, R318) -/

/-- Firebox, passes started and counters of a hearth. -/
def Hearth.core (x : Hearth) : (Store × Tab Nat × Nat) × Tab Nat := (x.box, x.ctr)

/-- The retirement of a position in whose array nothing else works leaves the firebox and the counters of the hearth that stood
there: the spare that is cleared is another. -/
theorem retire_core {l : Nat} {cls : FaultClass} {skip : Option Nat} {s : State} (hl : ∃ h i, i < 8 ∧ l = posOf h i)
    (hseat : (s.place l).vacant = false) (halone : ∀ hoop, s.hoopOfPos l = some hoop → computeParts hoop (l % 8) skip s = []) :
    ((retire l cls skip s).hearth (s.place l).physical).core = (s.hearth (s.place l).physical).core := by
  obtain ⟨h, i, hi, hl⟩ := hl
  have hhalf : halfOfPos l = h := by rw [hl]; cases h <;> simp [halfOfPos, posOf, Half.idx, hi]
  have hspare : s.spareFree (halfOfPos l) = true → (s.place l).physical ≠ spareOf (halfOfPos l) := by
    intro hfree
    rw [hhalf] at hfree ⊢
    have hall := (List.all_eq_true.1 (Bool.and_eq_true_iff.1 hfree).2) i (List.mem_range.2 hi)
    rw [← hl, hseat, Bool.false_or] at hall
    exact bne_iff_ne.1 hall
  unfold retire
  extract_lets h' pl p spare new qs
  have hqs : qs = [] := by
    unfold qs
    split
    · exact halone _ ‹_›
    · rfl
  clear_value qs
  subst hqs
  cases hfresh : fresh s with
  | mk salt s1 =>
    dsimp -zeta only
    extract_lets rec s2 s3 s4 s5 s6 s7
    have h1 : HearthsKept s s1 := .of_keeps (.of1 hfresh (fresh_keeps s))
    have h3 : (s3.hearth p).core = (s2.hearth p).core := by unfold s3; rw [updHearth_self]; rfl
    have h4 : s4.hearth p = s3.hearth p := by
      unfold s4
      split
      · exact updHearth_ne _ _ _ (hspare ‹_›)
      · rfl
    have h5 : HearthsKept s4 s5 := ⟨rfl⟩
    have h7 : HearthsKept s5 s7 := (HearthsKept.of_keeps (bumpFg_keeps ..)).trans (.of_keeps (report_keeps ..))
    have hend : ((s7.hearth p).core) = (s.hearth p).core := by
      rw [(h5.trans h7).hearth, h4, h3]
      exact congrArg Hearth.core (h1.hearth p)
    clear_value s7
    split
    · rw [(dropParts_hearths ..).hearth]; exact hend
    · exact hend

section
variable {q : Part4} {s : State} (hseat : Seated q s) (halone : Alone q s)
include hseat halone

theorem noteHearthFault_core (cls : FaultClass) : ((noteHearthFault q cls s).hearth q.phys).core = (s.hearth q.phys).core := by
  unfold noteHearthFault
  extract_lets pl again s1
  have h1 : (s1.hearth q.phys).core = (s.hearth q.phys).core := by unfold s1; rw [updHearth_self]; rfl
  have hs1 : PartsStand s s1 := updHearth_partsStand ..
  have hplace (f : Place → Place) (t : State) : HearthsKept t (updPlace q.log f t) := ⟨rfl⟩
  split
  · rfl
  · split
    · rw [(hplace ..).hearth]
    · have hseat1 := hseat.stands hs1
      rw [← h1]
      split
      · rw [hseat1.phys]
        exact retire_core hseat1.place hseat1.occupied (hs1.alone halone)
      · exact congrArg Hearth.core (((hplace ..).trans (.of_keeps (bumpFg_keeps ..))).hearth _)

theorem faultPart_core (cls : FaultClass) : ((faultPart q cls s).hearth q.phys).core = (s.hearth q.phys).core := by
  have hnote := noteHearthFault_core hseat halone cls
  unfold faultPart
  extract_lets s1
  split
  · rw [(partFault_hearths ..).hearth]; exact hnote
  · exact hnote

end

theorem faultPart_openPart (q : Part4) (cls : FaultClass) (s : State) :
    (faultPart q cls s).openPart q.hoop q.step q.pos = none := by
  unfold faultPart
  extract_lets s1
  cases hopen : s1.openPart q.hoop q.step q.pos with
  | some o => exact partFault_openPart s1
  | none => exact hopen

/-! ### Abandonment (R99) -/

/-- What a part that stops leaves (R99): nothing outside its landing pages, `k` more passes started, `n` added to the counters, and
the part closed. -/
structure Stopped (q : Part4) (g : Landing) (k : Nat) (n : Nat → Nat) (s t : State) : Prop where
  box     : BoxStopped q.phys g s t
  started : (t.hearth q.phys).started = (s.hearth q.phys).started + k
  grown   : Grown q.phys n s t
  closed  : t.openPart q.hoop q.step q.pos = none

theorem abandonPart_stopped {q : Part4} {s : State} (hseat : Seated q s) (halone : Alone q s) (g : Landing) (cls : FaultClass)
    (pass rounds : Nat) : Stopped q g 0 (stopCounts cls rounds) s (abandonPart q g cls pass rounds s) := by
  have hfresh : PartsStand s (fresh s).2 := .of_keeps (fresh_keeps s)
  have hspoil : PartsStand (fresh s).2 (spoil q.phys g (fresh s).1 (fresh s).2) := updHearth_partsStand ..
  have hnoted := (discardPart_spoils q g cls rounds s).trans (partRecord_booked q.phys q cls pass false _)
  have hstand := (hfresh.trans hspoil).trans hnoted.toPartsStand
  have hend := faultPart_core (hseat.stands hstand) (hstand.alone halone) cls
  have hbox := (congrArg Prod.fst hend).trans hnoted.box
  have hgrown := (spoil_grown q.phys g (fresh s).1 (fresh s).2).trans (hnoted.grown.trans (.of_ctr (congrArg Prod.snd hend)))
  have hstopped : BoxStopped q.phys g s (spoil q.phys g (fresh s).1 (fresh s).2) :=
    .before (t := (fresh s).2) ⟨rfl, rfl⟩ (spoil_boxStopped ..)
  refine ⟨hstopped.after (Hearth.sameBox_of_box hbox), ?_, ⟨(hgrown.congr fun w => ?_).ctr⟩, faultPart_openPart ..⟩
  · exact (Hearth.started_of_box hbox).trans (spoil_started ..)
  · simp only [Pi.add_apply, Pi.zero_apply, Nat.zero_add, Nat.add_zero]

section
variable {q : Part4} {g : Landing} {k : Nat} {n m : Nat → Nat} {s t u : State}

/-- Bookkeeping before a part stops. -/
theorem Stopped.after_booked (h : Booked q.phys n s t) (hs : Stopped q g k m t u) : Stopped q g k (n + m) s u :=
  ⟨hs.box.before (Hearth.sameBox_of_box h.box), by rw [hs.started, h.started], h.grown.trans hs.grown, hs.closed⟩

theorem startPasses_partsStand (p j : Nat) (s : State) : PartsStand s (startPasses p j s) := updHearth_partsStand ..

/-- Passes started before a part stops. -/
theorem Stopped.after_started {j : Nat} (hs : Stopped q g k m (startPasses q.phys j s) u) : Stopped q g (j + k) m s u := by
  have hbox : (s.hearth q.phys).SameBox ((startPasses q.phys j s).hearth q.phys) := by
    rw [startPasses, updHearth_self]; exact ⟨rfl, rfl⟩
  have hctr : ((startPasses q.phys j s).hearth q.phys).ctr = (s.hearth q.phys).ctr := by rw [startPasses, updHearth_self]
  have hstart : ((startPasses q.phys j s).hearth q.phys).started = (s.hearth q.phys).started + j := by
    rw [startPasses, updHearth_self]
  refine ⟨hs.box.before hbox, by rw [hs.started, hstart, Nat.add_assoc], ?_, hs.closed⟩
  exact ((Grown.of_ctr hctr).trans hs.grown).congr fun w => Nat.zero_add _

theorem Stopped.congr (h : Stopped q g k n s t) (hnm : ∀ w, n w = m w) : Stopped q g k m s t := (funext hnm : n = m) ▸ h

/-- A part that stops, counted once among ABANDONED, keeps its box. -/
theorem Stopped.boxKept (h : Stopped q g k n s t) (h1 : n 1 = 1) : BoxKept q.phys g s t :=
  ⟨h.box.pageMap, h.box.byte, by rw [h.grown.get_eq (by rw [h1]; decide), h1]⟩

end

end Sys2Proof.Machine
end

section
/-! A part that commits (R92, R102, R153): the exchange of its pages, its counters, and its end. -/
namespace Sys2Proof.Machine

/-! ### The exchange depends on the box alone -/

section
variable {x y : Hearth}

theorem Hearth.SameBox.write (h : x.SameBox y) (off : Nat) (bs : List Byte) : (x.write off bs).SameBox (y.write off bs) := by
  induction bs generalizing x y off with
  | nil => exact h
  | cons b t ih =>
    have hput : (x.putByte off b).SameBox (y.putByte off b) :=
      ⟨by rw [Hearth.putByte, Hearth.putByte, h.frames, Hearth.frameAddr_congr h.pageMap], h.pageMap⟩
    exact ih hput _

theorem Hearth.SameBox.landed (h : x.SameBox y) (land : Nat) (ws : List (Nat × List Byte)) :
    (x.landed land ws).SameBox (y.landed land ws) := by
  induction ws generalizing x y with
  | nil => exact h
  | cons w t ih => exact ih (h.write ..)

theorem Hearth.SameBox.scramble (h : x.SameBox y) (first n salt : Nat) :
    (x.scramble first n salt).SameBox (y.scramble first n salt) := by
  induction n with
  | zero => exact h
  | succ n ih =>
    rw [Hearth.scramble_succ, Hearth.scramble_succ]
    refine ⟨?_, ih.pageMap⟩
    dsimp only
    rw [ih.frames, Hearth.frameNo, Hearth.frameNo, ih.pageMap]

/-- A hearth with the page-map entries of two pages exchanged. -/
def Hearth.swapPage (x : Hearth) (a b : Nat) : Hearth :=
  { x with pageMap := (x.pageMap.set a (x.frameNo b)).set b (x.frameNo a) }

theorem Hearth.swapPages_succ (x : Hearth) (a b n : Nat) :
    x.swapPages a b (n + 1) = (x.swapPages a b n).swapPage (a + n) (b + n) := by
  simp only [Hearth.swapPages, List.range_succ, List.foldl_append, List.foldl_cons, List.foldl_nil, Hearth.swapPage, Hearth.frameNo]

theorem Hearth.SameBox.swapPages (h : x.SameBox y) (a b n : Nat) : (x.swapPages a b n).SameBox (y.swapPages a b n) := by
  induction n with
  | zero => exact h
  | succ n ih =>
    rw [Hearth.swapPages_succ, Hearth.swapPages_succ]
    exact ⟨ih.frames, by simp only [Hearth.swapPage, Hearth.frameNo, ih.pageMap]⟩

/-! ### The exchange leaves counters and passes started -/

/-- The counters and the passes started of a hearth. -/
def Hearth.tally (x : Hearth) : Tab Nat × Nat := (x.ctr, x.started)

theorem Hearth.write_tally (x : Hearth) (off : Nat) (bs : List Byte) : (x.write off bs).tally = x.tally := by
  induction bs generalizing x off with
  | nil => rfl
  | cons b t ih => exact (ih ..).trans rfl

theorem Hearth.landed_tally (x : Hearth) (land : Nat) (ws : List (Nat × List Byte)) : (x.landed land ws).tally = x.tally := by
  induction ws generalizing x with
  | nil => rfl
  | cons w t ih => exact (ih _).trans (Hearth.write_tally ..)

theorem Hearth.swapPages_tally (x : Hearth) (a b n : Nat) : (x.swapPages a b n).tally = x.tally := by
  induction n with
  | zero => rfl
  | succ n ih => rw [Hearth.swapPages_succ]; exact ih

/-- A hearth after a commit (R92). -/
def Hearth.committed (x : Hearth) (g : Landing) (ws : List (Nat × List Byte)) (salt : Nat) : Hearth :=
  ((x.scramble g.land g.pages salt).landed g.land ws).swapPages g.land g.dest g.pages

theorem Hearth.committed_tally (x : Hearth) (g : Landing) (ws : List (Nat × List Byte)) (salt : Nat) :
    (x.committed g ws salt).tally = x.tally := by
  rw [Hearth.committed, Hearth.swapPages_tally, Hearth.landed_tally]
  exact Prod.ext (Hearth.scramble_kept ..).2 (Hearth.scramble_kept ..).1

theorem Hearth.SameBox.committed (h : x.SameBox y) (g : Landing) (ws : List (Nat × List Byte)) (salt : Nat) :
    (x.committed g ws salt).SameBox (y.committed g ws salt) := ((h.scramble ..).landed ..).swapPages ..

end

theorem boxCommitted_iff {p : Nat} {g : Landing} {ws : List (Nat × List Byte)} {s t : State} :
    BoxCommitted p g ws s t ↔ ∃ salt, ((s.hearth p).committed g ws salt).SameBox (t.hearth p) :=
  exists_congr fun _ => ⟨fun h => ⟨h.1, h.2⟩, fun h => ⟨h.frames, h.pageMap⟩⟩

theorem Hearth.SameBox.trans {x y z : Hearth} (h : x.SameBox y) (k : y.SameBox z) : x.SameBox z :=
  ⟨k.frames.trans h.frames, k.pageMap.trans h.pageMap⟩

/-! ### What a commit leaves -/

/-- What a part that commits leaves (R92): its writes exchanged into the destination, `k` more passes started, `n` added to the counters,
and every other hearth as it was. -/
structure Commits (q : Part4) (g : Landing) (ws : List (Nat × List Byte)) (k : Nat) (n : Nat → Nat) (s t : State) : Prop where
  box       : BoxCommitted q.phys g ws s t
  started   : (t.hearth q.phys).started = (s.hearth q.phys).started + k
  grown     : Grown q.phys n s t
  elsewhere : Elsewhere q.phys s t

section
variable {q : Part4} {g : Landing} {ws : List (Nat × List Byte)} {k : Nat} {n m : Nat → Nat} {s t u : State}

theorem Commits.congr (h : Commits q g ws k n s t) (hnm : ∀ w, n w = m w) : Commits q g ws k m s t := (funext hnm : n = m) ▸ h

/-- Bookkeeping before a commit. -/
theorem Commits.after_booked (h : Booked q.phys n s t) (he : Elsewhere q.phys s t) (hc : Commits q g ws k m t u) :
    Commits q g ws k (n + m) s u := by
  obtain ⟨salt, hsalt⟩ := boxCommitted_iff.1 hc.box
  exact ⟨boxCommitted_iff.2 ⟨salt, ((Hearth.sameBox_of_box h.box).committed ..).trans hsalt⟩, by rw [hc.started, h.started],
    h.grown.trans hc.grown, he.trans hc.elsewhere⟩

/-- Passes started before a commit. -/
theorem Commits.after_started {j : Nat} (hc : Commits q g ws k m (startPasses q.phys j s) u) : Commits q g ws (j + k) m s u := by
  obtain ⟨salt, hsalt⟩ := boxCommitted_iff.1 hc.box
  have hstart := updHearth_self q.phys (fun x => { x with started := x.started + j }) s
  have hbox : (s.hearth q.phys).SameBox ((startPasses q.phys j s).hearth q.phys) := by rw [startPasses, hstart]; exact ⟨rfl, rfl⟩
  have hgrown : Grown q.phys 0 s (startPasses q.phys j s) := .of_ctr (by rw [startPasses, hstart])
  refine ⟨boxCommitted_iff.2 ⟨salt, (hbox.committed ..).trans hsalt⟩, ?_, (hgrown.trans hc.grown).congr fun w => Nat.zero_add _,
    (updHearth_elsewhere ..).trans hc.elsewhere⟩
  rw [hc.started, startPasses, hstart, Nat.add_assoc]

/-- What follows a commit and leaves the hearths. -/
theorem Commits.before_hearths (hc : Commits q g ws k n s t) (h : HearthsKept t u) : Commits q g ws k n s u := by
  obtain ⟨salt, hsalt⟩ := boxCommitted_iff.1 hc.box
  refine ⟨boxCommitted_iff.2 ⟨salt, by rw [h.hearth]; exact hsalt⟩, by rw [h.hearth]; exact hc.started, ?_,
    hc.elsewhere.trans (.of_hearths h.hearths)⟩
  exact (hc.grown.trans (.of_ctr (by rw [h.hearth]))).congr fun w => Nat.add_zero _

theorem commitPages_partsStand (p : Nat) (g : Landing) (ws : List (Nat × List Byte)) (s : State) :
    PartsStand s (commitPages p g ws s) := (PartsStand.of_keeps (fresh_keeps s)).trans (updHearth_partsStand ..)

theorem commitPages_hearth (p : Nat) (g : Landing) (ws : List (Nat × List Byte)) (s : State) :
    (commitPages p g ws s).hearth p = (s.hearth p).committed g ws s.freeCtr := updHearth_self ..

/-- The commit of a part: the pages exchanged, then counted. -/
theorem commitPages_commits (q : Part4) (g : Landing) (ws : List (Nat × List Byte)) (rounds sats esc nonfin : Nat)
    (checks : List (FaultClass × Nat)) (s : State) :
    Commits q g ws 0 (commitCounts rounds (checksIn checks) sats esc nonfin) s
      (commitPart q rounds sats esc nonfin checks (commitPages q.phys g ws s)) := by
  have hpages := commitPages_hearth q.phys g ws s
  have htally := Hearth.committed_tally (s.hearth q.phys) g ws s.freeCtr
  have hbooked := commitPart_booked q rounds sats esc nonfin checks (commitPages q.phys g ws s)
  have helse : Elsewhere q.phys s (commitPages q.phys g ws s) :=
    (Elsewhere.of_keeps (fresh_keeps s)).trans (updHearth_elsewhere ..)
  refine ⟨boxCommitted_iff.2 ⟨s.freeCtr, ?_⟩, ?_, ?_, helse.trans (commitPart_elsewhere ..)⟩
  · rw [← hpages]; exact Hearth.sameBox_of_box hbooked.box
  · rw [hbooked.started, hpages]; exact congrArg Prod.snd htally
  · have hctr : Grown q.phys 0 s (commitPages q.phys g ws s) := .of_ctr (by rw [hpages]; exact congrArg Prod.fst htally)
    exact (hctr.trans hbooked.grown).congr fun w => Nat.zero_add _

theorem commitParts_partsStand (q : Part4) (g : Landing) (ws : List (Nat × List Byte)) (rounds sats esc nonfin : Nat)
    (checks : List (FaultClass × Nat)) (s : State) :
    PartsStand s (commitPart q rounds sats esc nonfin checks (commitPages q.phys g ws s)) :=
  (commitPages_partsStand ..).trans (commitPart_booked ..).toPartsStand

/-- The counters of a commit, with the single-bit errors of its reads (R102). -/
theorem Commits.counted {fixed rounds checks sats esc nonfin : Nat}
    (h : Commits q g ws k (Pi.single 4 fixed + commitCounts rounds checks sats esc nonfin) s t) :
    CommitCounted q.phys rounds checks fixed sats esc nonfin s t := by
  have hw := h.grown.counted
  refine ⟨?_, ?_, ?_, ?_, ?_, ?_, ?_, ?_⟩
  · simpa [commitCounts, Pi.single_apply] using hw 0
  · simpa [commitCounts, Pi.single_apply] using hw 1
  · simpa [commitCounts, Pi.single_apply] using hw 2
  · simpa [commitCounts, Pi.single_apply] using hw 3
  · simpa [commitCounts, Pi.single_apply] using hw 4
  · simpa [commitCounts, Pi.single_apply] using hw 5
  · simpa [commitCounts, Pi.single_apply] using hw 6
  · simpa [commitCounts, Pi.single_apply] using hw 7

end

/-! ### The end of a group (R92, R153) -/

theorem groupDone_of_append {q : Part4} {s : State} (h : isAppend q s = true) :
    groupDone q s = updStep q.hoop q.step (fun r => { r with grouped := r.grouped ++ [q.pos] }) s := if_pos h

theorem groupDone_of_pass {q : Part4} {s : State} (h : isAppend q s = false) : groupDone q s = partEnd q.hoop q.step q.pos s :=
  if_neg (by rw [h]; decide)

theorem groupDone_hearths (q : Part4) (s : State) : HearthsKept s (groupDone q s) :=
  .ite (updJob_hearths ..) (partEnd_hearths ..)

/-- A change of a released step that leaves its number and its open parts changes the open part by itself alone. -/
theorem openPart_updStep {hoop n pos : Nat} {f : Released → Released} (hstep : ∀ r, (f r).step = r.step)
    (hopen : ∀ r, (f r).open_ = r.open_) {s : State} {j : Job} {r : Released} (h : s.openPart hoop n pos = some (j, r)) :
    ∃ j', (updStep hoop n f s).openPart hoop n pos = some (j', f r) := by
  unfold State.openPart at h ⊢
  rw [updStep, updJob, updHoop_self]
  cases hjob : (s.hoop hoop).job with
  | none => rw [hjob] at h; cases h
  | some i =>
    simp only [hjob, Option.bind_eq_bind, Option.bind_some, Option.bind_eq_some_iff, Option.some.injEq, Prod.mk.injEq] at h
    obtain ⟨x, hx, rfl, rfl⟩ := h
    have hnum : x.step = n := by
      have hfound := List.find?_some hx
      simp only [Bool.and_eq_true, beq_iff_eq] at hfound
      exact hfound.1
    have hsame : (fun r : Released => r.step == n && r.open_.contains pos) ∘ (fun r => if r.step = n then f r else r)
        = fun r => r.step == n && r.open_.contains pos := by
      funext r
      rw [Function.comp_apply]
      split <;> simp only [hstep, hopen]
    simp only [Option.map_some, Option.bind_eq_bind, Option.bind_some, List.find?_map, hsame, hx, if_pos hnum]
    exact ⟨_, rfl⟩

/-- An open part of an APPEND whose group is done is noted as grouped. -/
theorem groupedPart_groupDone {q : Part4} {s : State} {j : Job} {r : Released} (happ : isAppend q s = true)
    (hopen : s.openPart q.hoop q.step q.pos = some (j, r)) : groupedPart q (groupDone q s) = true := by
  obtain ⟨j', hopen'⟩ := openPart_updStep (f := fun r => { r with grouped := r.grouped ++ [q.pos] }) (fun _ => rfl) (fun _ => rfl) hopen
  rw [groupDone_of_append happ, groupedPart, hopen']
  simp

end Sys2Proof.Machine
end

section
/-! Pass groups and transforms that commit or stop on their own values (R92, R99, R141). -/
namespace Sys2Proof.Machine

/-! ### Values that bookkeeping leaves -/

section
variable {q : Part4} {n : Nat → Nat} {s t : State} (h : Booked q.phys n s t)
include h

theorem Booked.byte : (t.hearth q.phys).byte = (s.hearth q.phys).byte := (Hearth.sameBox_of_box h.box).byte

theorem Booked.passesResult (k : Nat) : passesResult k q t = passesResult k q s := by
  unfold Machine.passesResult
  dsimp only
  rw [groupDesc_congr h.img, groupOf_congr h.img, h.byte, h.started, descUnit_congr h.img, detectOnly_congr h.img]

theorem Booked.passResult : passResult q t = passResult q s := by
  rw [Machine.passResult, h.passesResult, groupDesc_congr h.img, groupOf_congr h.img]; rfl

theorem Booked.transformResult : transformResult q t = transformResult q s := by
  unfold Machine.transformResult
  rw [h.byte, descUnit_congr h.img, stepAt_congr h.img]

end

/-! ### Pass groups (R92, R99) -/

/-- The header and the pass entries of a part's group (R88). -/
def partGroup (q : Part4) (s : State) : Entry × List Entry := s.groupOf q.job.q.pricking (groupDesc q s)

theorem partGroup_congr {s t : State} (h : t.img = s.img) (q : Part4) : partGroup q t = partGroup q s := by
  unfold partGroup; rw [groupDesc_congr h, groupOf_congr h]

/-- The landing range of a part's group. -/
def groupLanding (q : Part4) (s : State) : Landing := landingOf (partGroup q s).1

section
variable {q : Part4} {upset : Option (FaultClass × Nat)} {s : State} {ws : List (Nat × List Byte)} {sats esc nonfin : Nat}
  {checks : List (FaultClass × Nat)}

/-- A group that commits, but for its end: its passes started, its pages exchanged, its counters moved. -/
def groupCounted (q : Part4) (upset : Option (FaultClass × Nat)) (ws : List (Nat × List Byte)) (sats esc nonfin : Nat)
    (checks : List (FaultClass × Nat)) (s : State) : State :=
  commitPart q (groupRounds (partGroup q s).1 (partGroup q s).2) sats esc nonfin (withUpset checks upset)
    (commitPages q.phys (groupLanding q s) (upsetWrites ws upset) (startPasses q.phys (partGroup q s).2.length s))

theorem passCommit_of_done (h : passResult q s = .done ws sats esc nonfin checks) :
    passCommit q upset s = groupDone q (groupCounted q upset ws sats esc nonfin checks s) := by
  unfold passCommit; rw [h]; rfl

theorem passCommit_of_fault {c : FaultClass} {p : Nat} (h : passResult q s = .fault c p sats esc nonfin) :
    passCommit q upset s = passFault q c p sats esc nonfin s := by
  unfold passCommit; rw [h]

theorem groupCounted_partsStand : PartsStand s (groupCounted q upset ws sats esc nonfin checks s) :=
  (startPasses_partsStand ..).trans (commitParts_partsStand ..)

theorem passCommit_commits (h : passResult q s = .done ws sats esc nonfin checks) :
    Commits q (groupLanding q s) (upsetWrites ws upset) (partGroup q s).2.length
      (commitCounts (groupRounds (partGroup q s).1 (partGroup q s).2) (checksIn (withUpset checks upset)) sats esc nonfin) s
      (passCommit q upset s) := by
  rw [passCommit_of_done h]
  exact ((commitPages_commits ..).after_started).before_hearths (groupDone_hearths ..)

theorem passCommit_closed (h : passResult q s = .done ws sats esc nonfin checks) (happ : isAppend q s = false) :
    (passCommit q upset s).openPart q.hoop q.step q.pos = none := by
  rw [passCommit_of_done h, groupDone_of_pass (by rw [isAppend_congr groupCounted_partsStand.img, happ])]
  exact partEnd_openPart _

theorem passCommit_grouped (h : passResult q s = .done ws sats esc nonfin checks) (happ : isAppend q s = true) {j : Job}
    {r : Released} (hopen : s.openPart q.hoop q.step q.pos = some (j, r)) : groupedPart q (passCommit q upset s) = true := by
  have hstand : PartsStand s (groupCounted q upset ws sats esc nonfin checks s) := groupCounted_partsStand
  obtain ⟨j', hopen', -⟩ := hstand.openPart hopen
  rw [passCommit_of_done h]
  exact groupedPart_groupDone (by rw [isAppend_congr hstand.img, happ]) hopen'

/-- The passes of a group that had started when one stopped it (R98, R114). -/
def passesBegun (c : FaultClass) (p : Nat) : Nat := if c = .scaleInvalid then 0 else p + 1

/-- What a part that its own values stop adds to the counters of its hearth. -/
def faultCounts (sats esc nonfin : Nat) (c : FaultClass) (rounds : Nat) : Nat → Nat :=
  Pi.single 7 nonfin + Pi.single 6 esc + Pi.single 5 sats + stopCounts c rounds

theorem passFault_stopped (hseat : Seated q s) (halone : Alone q s) (c : FaultClass) (p sats esc nonfin : Nat) :
    ∃ rounds, Stopped q (groupLanding q s) (passesBegun c p) (faultCounts sats esc nonfin c rounds) s
      (passFault q c p sats esc nonfin s) := by
  have hstop (rounds : Nat) (t : State) (k : PartsStand s t) :
      Stopped q (groupLanding q s) 0 (faultCounts sats esc nonfin c rounds) t
        (abandonPart q (groupLanding q s) c p rounds (countValues q.phys sats esc nonfin t)) := by
    have hvalues := countValues_booked q.phys sats esc nonfin t
    have hstand := k.trans hvalues.toPartsStand
    exact (abandonPart_stopped (hseat.stands hstand) (hstand.alone halone) _ c p rounds).after_booked hvalues
  unfold passFault passesBegun
  by_cases hc : c = .scaleInvalid
  · rw [if_pos hc, if_pos hc]
    exact ⟨_, hstop _ s (.refl s)⟩
  · rw [if_neg hc, if_neg hc]
    exact ⟨_, (hstop _ _ (startPasses_partsStand ..)).after_started⟩

end

theorem exec_passGroupCommit {hoop : BitVec 4} {step : BitVec 20} {pos : BitVec 3} {q : Part4} {s : State} (fixed : Corrected)
    (hq : s.part4 [kPass, kAttend] hoop.toNat step.toNat pos.toNat = some q) (hopen : groupOpen q s = true) :
    exec (.passGroupCommit hoop step pos fixed) s = .next (passCommit q none (countFixed q.phys ⟨fixed.store, []⟩ s)) := by
  change execPassGroupCommit hoop step pos fixed s = _
  rw [execPassGroupCommit, hq]
  exact congrArg _ (if_pos hopen)

/-- A pass group commits whole or is abandoned whole. -/
theorem passGroupsCommitWholeOrNot : PassGroupsCommitWholeOrNot := by
  intro hoop step pos fixed q s hq hopen g ps
  have hat := partAt_of_part4 pos.isLt hq
  have hfixed := countFixed_booked q.phys ⟨fixed.store, []⟩ s
  have hunits : OnlyUnits workUnits s (passCommit q none (countFixed q.phys ⟨fixed.store, []⟩ s)) :=
    ((countFixed_keeps ..).up.trans (passCommit_keeps ..)).units _ rfl
  rw [exec_passGroupCommit fixed hq hopen]
  have helse := countFixed_elsewhere q.phys ⟨fixed.store, []⟩ s
  generalize countFixed q.phys ⟨fixed.store, []⟩ s = t at hfixed hunits helse ⊢
  have hhead : partGroup q t = (g, ps) := partGroup_congr hfixed.img q
  refine ⟨fun ws sats esc nonfin checks hdone => ?_, fun c p sats esc nonfin hfault halone => ?_⟩
  · have hdone' := hfixed.passResult.trans hdone
    have hcommit := (passCommit_commits (upset := none) hdone').after_booked hfixed helse
    rw [groupLanding, hhead] at hcommit
    refine ⟨_, rfl, hunits, hcommit.box, hcommit.elsewhere.hearth, hcommit.started, ?_, fun happ => ?_, fun happ => ?_⟩
    · rw [withUpset, Option.toList_none, List.append_nil] at hcommit
      exact hcommit.counted
    · rw [← hat.hoop, ← hat.step, ← hat.pos]
      exact passCommit_closed hdone' (by rw [isAppend_congr hfixed.img, happ])
    · obtain ⟨r, hopened⟩ := hat.opened
      obtain ⟨j, hopened', -⟩ := hfixed.openPart hopened
      rw [← hat.hoop, ← hat.step, ← hat.pos] at hopened'
      exact passCommit_grouped hdone' (by rw [isAppend_congr hfixed.img, happ]) hopened'
  · have hstand := hfixed.toPartsStand
    obtain ⟨rounds, hstop⟩ := passFault_stopped (hat.toSeated.stands hstand) (hstand.alone halone) c p sats esc nonfin
    rw [groupLanding, hhead] at hstop
    have hall := hstop.after_booked hfixed
    have hclosed := hall.closed
    have hcount := hall.grown.counted
    rw [hat.hoop, hat.step, hat.pos] at hclosed
    rw [passCommit_of_fault (hfixed.passResult.trans hfault)] at hunits ⊢
    refine ⟨_, rfl, hunits, hall.boxKept ?_, hclosed, hall.started, ?_, ?_, ?_, ?_, ?_⟩
    · simp [faultCounts, stopCounts]
    · simpa [faultCounts, stopCounts, Pi.single_apply] using hcount 0
    · simpa [faultCounts, stopCounts, Pi.single_apply] using hcount 4
    · simpa [faultCounts, stopCounts, Pi.single_apply] using hcount 5
    · simpa [faultCounts, stopCounts, Pi.single_apply] using hcount 6
    · simpa [faultCounts, stopCounts, Pi.single_apply] using hcount 7

/-! ### Transforms (R92, R99, R141) -/

/-- The descriptor of a part's step. -/
def partDesc (q : Part4) (s : State) : Entry := s.descUnit q.job.q.pricking (stepDesc (s.stepAt q.job.q.pricking q.step))

theorem partDesc_congr {s t : State} (h : t.img = s.img) (q : Part4) : partDesc q t = partDesc q s := by
  unfold partDesc; rw [descUnit_congr h, stepAt_congr h]

section
variable {q : Part4} {upset : Option (FaultClass × Nat)} {s : State} {ws : List (Nat × List Byte)} {sats esc nonfin : Nat}
  {checks : List (FaultClass × Nat)}

theorem transformCommit_of_done (h : transformResult q s = .done ws sats esc nonfin checks) :
    transformCommit q upset s = partEnd q.hoop q.step q.pos
      (commitPart q (transformRounds (partDesc q s)) sats esc nonfin (withUpset checks upset)
        (commitPages q.phys (trLanding (partDesc q s)) (upsetWrites ws upset) s)) := by
  unfold transformCommit; rw [h]; rfl

theorem transformCommit_of_fault {c : FaultClass} {p : Nat} (h : transformResult q s = .fault c p sats esc nonfin) :
    transformCommit q upset s = transformFault q (partDesc q s) c sats esc s := by
  unfold transformCommit; rw [h]; rfl

theorem transformCommit_commits (h : transformResult q s = .done ws sats esc nonfin checks) :
    Commits q (trLanding (partDesc q s)) (upsetWrites ws upset) 0
      (commitCounts (transformRounds (partDesc q s)) (checksIn (withUpset checks upset)) sats esc nonfin) s
      (transformCommit q upset s) := by
  rw [transformCommit_of_done h]
  exact (commitPages_commits ..).before_hearths (partEnd_hearths ..)

theorem transformCommit_closed (h : transformResult q s = .done ws sats esc nonfin checks) :
    (transformCommit q upset s).openPart q.hoop q.step q.pos = none := by
  rw [transformCommit_of_done h]; exact partEnd_openPart _

theorem transformFault_stopped (hseat : Seated q s) (halone : Alone q s) (d : Entry) (c : FaultClass) (sats esc : Nat) :
    ∃ rounds, Stopped q (trLanding d) 0 (faultCounts sats esc 0 c rounds) s (transformFault q d c sats esc s) := by
  have hvalues := countValues_booked q.phys sats esc 0 s
  have hstand := hvalues.toPartsStand
  exact ⟨_, (abandonPart_stopped (hseat.stands hstand) (hstand.alone halone) _ c 0 _).after_booked hvalues⟩

end

theorem exec_transformCommit {hoop : BitVec 4} {step : BitVec 20} {pos : BitVec 3} {q : Part4} {s : State} (fixed : Corrected)
    (hq : s.part4 [kTransform] hoop.toNat step.toNat pos.toNat = some q) :
    exec (.transformCommit hoop step pos fixed) s = .next (transformCommit q none (countFixed q.phys ⟨fixed.store, []⟩ s)) := by
  change execTransformCommit hoop step pos fixed s = _
  rw [execTransformCommit, hq]

/-- A transform commits whole or is abandoned whole. -/
theorem transformsCommitWholeOrNot : TransformsCommitWholeOrNot := by
  intro hoop step pos fixed q s hq d
  have hat := partAt_of_part4 pos.isLt hq
  have hfixed := countFixed_booked q.phys ⟨fixed.store, []⟩ s
  have hunits : OnlyUnits workUnits s (transformCommit q none (countFixed q.phys ⟨fixed.store, []⟩ s)) :=
    ((countFixed_keeps ..).up.trans (transformCommit_keeps ..)).units _ rfl
  rw [exec_transformCommit fixed hq]
  have helse := countFixed_elsewhere q.phys ⟨fixed.store, []⟩ s
  generalize countFixed q.phys ⟨fixed.store, []⟩ s = t at hfixed hunits helse ⊢
  have hdesc : partDesc q t = d := partDesc_congr hfixed.img q
  refine ⟨fun ws sats esc nonfin checks hdone => ?_, fun c p sats esc nonfin hfault halone => ?_⟩
  · have hdone' := hfixed.transformResult.trans hdone
    have hcommit := (transformCommit_commits (upset := none) hdone').after_booked hfixed helse
    rw [hdesc] at hcommit
    refine ⟨_, rfl, hunits, hcommit.box, hcommit.elsewhere.hearth, ?_, ?_⟩
    · rw [withUpset, Option.toList_none, List.append_nil] at hcommit
      exact hcommit.counted
    · rw [← hat.hoop, ← hat.step, ← hat.pos]
      exact transformCommit_closed hdone'
  · have hstand := hfixed.toPartsStand
    obtain ⟨rounds, hstop⟩ := transformFault_stopped (hat.toSeated.stands hstand) (hstand.alone halone) d c sats esc
    have hall := hstop.after_booked hfixed
    have hclosed := hall.closed
    have hcount := hall.grown.counted
    rw [hat.hoop, hat.step, hat.pos] at hclosed
    rw [transformCommit_of_fault (hfixed.transformResult.trans hfault), hdesc] at hunits ⊢
    refine ⟨_, rfl, hunits, hall.boxKept ?_, hclosed, ?_, ?_, ?_⟩
    · simp [faultCounts, stopCounts]
    · simpa [faultCounts, stopCounts, Pi.single_apply] using hcount 4
    · simpa [faultCounts, stopCounts, Pi.single_apply] using hcount 5
    · simpa [faultCounts, stopCounts, Pi.single_apply] using hcount 6

/-- Settles O27: a commit exchanges the pages and counts, an abandonment spoils the landing pages alone, and both close the part. -/
theorem groupsAndTransformsCommitWholeOrNot : Obligations.GroupsAndTransformsCommitWholeOrNot :=
  ⟨passGroupsCommitWholeOrNot, transformsCommitWholeOrNot⟩

end Sys2Proof.Machine
end

section
/-! What the reads of an ATTEND step leave (R145, R146, R181 to R185): jobs, positions, fireboxes and the counters of R102. -/
namespace Sys2Proof.Machine

/-! ### Reads of a hearth through its cache -/

/-- Jobs and positions stand, and of every hearth the firebox, the passes started and the counters of R102. -/
structure ReadsOnly (s t : State) : Prop extends PartsStand s t where
  core : ∀ p, (t.hearth p).core = (s.hearth p).core

section
variable {s t u : State}

theorem ReadsOnly.refl (s : State) : ReadsOnly s s := ⟨.refl s, fun _ => rfl⟩

theorem ReadsOnly.trans (h : ReadsOnly s t) (k : ReadsOnly t u) : ReadsOnly s u :=
  ⟨h.toPartsStand.trans k.toPartsStand, fun p => (k.core p).trans (h.core p)⟩

theorem ReadsOnly.ite {c : Prop} [Decidable c] (h : ReadsOnly s t) (k : ReadsOnly s u) : ReadsOnly s (if c then t else u) := by
  split <;> assumption

/-- The state of a pair that an operation answers. -/
theorem ReadsOnly.of_pair {α : Type} {p : α × State} {a : α} (h : p = (a, t)) (k : ReadsOnly s p.2) : ReadsOnly s t := by
  subst h; exact k

theorem ReadsOnly.of_keeps {m : Nat} (k : Keeps m s t) (h5 : m.testBit 5 = false := by rfl) (h9 : m.testBit 9 = false := by rfl) :
    ReadsOnly s t := ⟨.of_keeps k h5 h9, fun p => by rw [hearth_of_hearths (congrArg Seq.hearths (k.seq h9))]⟩

theorem ReadsOnly.updHearth (p : Nat) (f : Hearth → Hearth) (s : State) (hf : ∀ x, (f x).core = x.core) :
    ReadsOnly s (updHearth p f s) := by
  refine ⟨updHearth_partsStand .., fun k => ?_⟩
  by_cases hk : k = p
  · rw [hk, updHearth_self, hf]
  · rw [updHearth_ne _ _ _ hk]

theorem ReadsOnly.booked (h : ReadsOnly s t) (p : Nat) : Booked p 0 s t :=
  ⟨h.toPartsStand, congrArg Prod.fst (h.core p), .of_ctr (congrArg Prod.snd (h.core p))⟩

end

theorem setCache_readsOnly (u : CacheUnit) (c : List Leaf) (s : State) : ReadsOnly s (setCache u c s) := by
  cases u with
  | hearth p => exact .updHearth _ _ s fun _ => rfl
  | port n => exact ⟨.of_hoops rfl rfl rfl, fun _ => rfl⟩
  | copyEngine => exact ⟨.of_hoops rfl rfl rfl, fun _ => rfl⟩

theorem cacheInsert_readsOnly (u : CacheUnit) (l : Leaf) (s : State) : ReadsOnly s (cacheInsert u l s) :=
  .ite (setCache_readsOnly ..) ((ReadsOnly.of_keeps (fresh_keeps s)).trans (setCache_readsOnly ..))

theorem bumpXlat_readsOnly (h : Half) (w k : Nat) (s : State) : ReadsOnly s (bumpXlat h w k s) := .of_keeps (bumpXlat_keeps ..)

theorem walkFor_readsOnly (r : Reader) (ctx va : Nat) (write : Bool) (s : State) : ReadsOnly s (walkFor r ctx va write s).2 := by
  have hwalk : ReadsOnly s (countWalk r ctx va s) := .of_keeps (countWalk_keeps ..)
  unfold walkFor
  dsimp only
  split
  · exact hwalk.trans (bumpXlat_readsOnly ..)
  · split
    · exact hwalk.trans (bumpXlat_readsOnly ..)
    · split
      · exact hwalk.trans (cacheInsert_readsOnly ..)
      · exact hwalk

theorem translate_readsOnly (r : Reader) (ctx va : Nat) (write : Bool) (s : State) :
    ReadsOnly s (translate r ctx va write s).2 := by
  unfold translate
  split
  · exact walkFor_readsOnly ..
  · split
    · split
      · exact .refl s
      · exact bumpXlat_readsOnly ..
    · exact (bumpXlat_readsOnly ..).trans (walkFor_readsOnly ..)

theorem readPieces_readsOnly (r : Reader) (ctx : Nat) (l : List (Nat × Nat)) (s : State) :
    ReadsOnly s (readPieces r ctx l s).2 := by
  induction l generalizing s with
  | nil => exact .refl s
  | cons x l ih =>
    have htrans := translate_readsOnly r ctx x.1 false s
    unfold readPieces
    split
    · exact .of_pair ‹_› htrans
    · next pa s1 heq =>
      have hfresh : ReadsOnly s (fresh s1).2 := (ReadsOnly.of_pair heq htrans).trans (.of_keeps (fresh_keeps s1))
      dsimp only
      split
      · exact hfresh.trans (.of_keeps (noteUnmapped_keeps ..))
      · have hrest := (hfresh.trans (.of_keeps (countAccess_keeps ..))).trans (ih (countAccess false pa x.2 (fresh s1).2))
        split
        · exact .of_pair ‹_› hrest
        · exact .of_pair ‹_› hrest

theorem vread_readsOnly (r : Reader) (ctx va n : Nat) (s : State) : ReadsOnly s (vread r ctx va n s).2 := readPieces_readsOnly ..

/-! ### Blocks of keys and values -/

theorem bumpAtt_readsOnly (p w k : Nat) (s : State) : ReadsOnly s (bumpAtt p w k s) := .updHearth p _ s fun _ => rfl

theorem cacheRead_readsOnly (c : AtJob) (va n : Nat) (s : State) : ReadsOnly s (cacheRead c va n s).2 := by
  have hread := vread_readsOnly c.unit c.ctx va n s
  unfold cacheRead
  split
  · exact (ReadsOnly.of_pair ‹_› hread).trans (bumpAtt_readsOnly ..)
  · exact .of_pair ‹_› hread

theorem blockAllowed_readsOnly (c : AtJob) (b : Nat) (s : State) : ReadsOnly s (blockAllowed c b s).2 := by
  have hread := cacheRead_readsOnly c (c.sq.s + 256 * b) 256 s
  unfold blockAllowed
  split
  · exact .refl s
  · split
    · exact .of_pair ‹_› hread
    · exact .of_pair ‹_› hread

theorem readBlock_readsOnly (c : AtJob) (b : Nat) (rows : List (List Bool)) (s : State) :
    ReadsOnly s (readBlock c b rows s).2 := by
  have hkeys := cacheRead_readsOnly c (keyAddr c.e c.sq (atKvhead c.e) (128 * b)) (keyBlock c.e) s
  unfold readBlock
  split
  · exact .of_pair ‹_› hkeys
  · next ks s1 heq =>
    have hvals := (ReadsOnly.of_pair heq hkeys).trans
      (cacheRead_readsOnly c (valAddr c.e c.sq (atKvhead c.e) (128 * b) 0) (valBlock c.e) s1)
    split
    · exact .of_pair ‹_› hvals
    · exact .of_pair ‹_› hvals

theorem fetchBlock_readsOnly (c : AtJob) (b : Nat) (s : State) : ReadsOnly s (fetchBlock c b s).2 := by
  have hallowed := blockAllowed_readsOnly c b s
  unfold fetchBlock
  split
  · exact .of_pair ‹_› hallowed
  · next rows s1 heq =>
    have h1 := ReadsOnly.of_pair heq hallowed
    split
    · exact h1.trans (bumpAtt_readsOnly ..)
    · exact h1.trans (readBlock_readsOnly ..)

theorem foldBlocks_readsOnly {α : Type} (c : AtJob) (f : Blk → α → Except FaultClass α) (skip : Nat → α → α) (l : List Nat)
    (a : α) (s : State) : ReadsOnly s (foldBlocks c f skip l a s).2 := by
  induction l generalizing a s with
  | nil => exact .refl s
  | cons b l ih =>
    have hfetch := fetchBlock_readsOnly c b s
    unfold foldBlocks
    split
    · exact .of_pair ‹_› hfetch
    · exact (ReadsOnly.of_pair ‹_› hfetch).trans (ih ..)
    · next blk s1 heq =>
      have h1 := ReadsOnly.of_pair heq hfetch
      split
      · exact h1
      · exact (h1.trans (bumpAtt_readsOnly ..)).trans (ih ..)

/-- One block of the search for live rows: the rows that it adds, and the state where its segments cannot be read. -/
def liveStep (c : AtJob) (acc : Except FaultClass (List Bool) × State) (b : Nat) : Except FaultClass (List Bool) × State :=
  match acc with
  | (.error f, s) => (.error f, s)
  | (.ok l, s) =>
    match blockAllowed c b s with
    | (.error f, s) => (.error f, s)
    | (.ok rows, _) => (.ok ((l.zip rows).map fun t => t.1 || t.2.any id), s)

theorem liveRows_eq (c : AtJob) (s : State) :
    liveRows c s = (List.range (atKblocks c.e)).foldl (liveStep c) (.ok (List.replicate (atNq c.e) false), s) := rfl

theorem liveStep_readsOnly (c : AtJob) (acc : Except FaultClass (List Bool) × State) (b : Nat) :
    ReadsOnly acc.2 (liveStep c acc b).2 := by
  obtain ⟨a, s⟩ := acc
  cases a with
  | error f => exact .refl s
  | ok l =>
    have hallowed := blockAllowed_readsOnly c b s
    unfold liveStep
    dsimp only
    split
    · exact .of_pair ‹_› hallowed
    · exact .refl s

theorem liveRows_readsOnly (c : AtJob) (s : State) : ReadsOnly s (liveRows c s).2 := by
  have hfold (l : List Nat) (acc : Except FaultClass (List Bool) × State) (h : ReadsOnly s acc.2) :
      ReadsOnly s (l.foldl (liveStep c) acc).2 := by
    induction l generalizing acc with
    | nil => exact h
    | cons b l ih => exact ih _ (h.trans (liveStep_readsOnly c acc b))
  rw [liveRows_eq]
  exact hfold _ _ (.refl s)

theorem forward_readsOnly (c : AtJob) (sc : AtScale) (blocks : List Nat) (s : State) : ReadsOnly s (forward c sc blocks s).2 := by
  have hfold := foldBlocks_readsOnly c (forwardBlock c sc (queryRows c.rd c.e)) (fun _ a => a) blocks (forwardInit c.e, false) s
  unfold forward
  split
  · exact .of_pair ‹_› hfold
  · exact .of_pair ‹_› hfold

theorem backBlocks_readsOnly (c : AtJob) (sc : AtScale) (live : List Bool) (i : BackIn) (blocks : List Nat) (s : State) :
    ReadsOnly s (backBlocks c sc live i blocks s).2 := by
  have hfold := foldBlocks_readsOnly c (backBlock c sc i) (backSkip c.e i) blocks (backInit c) s
  unfold backBlocks
  split
  · exact .of_pair ‹_› hfold
  · exact .of_pair ‹_› hfold

theorem backward_readsOnly (c : AtJob) (sc : AtScale) (blocks : List Nat) (s : State) : ReadsOnly s (backward c sc blocks s).2 := by
  have hlive := liveRows_readsOnly c s
  unfold backward
  split
  · exact .of_pair ‹_› hlive
  · exact (ReadsOnly.of_pair ‹_› hlive).trans (backBlocks_readsOnly ..)

/-- FORWARD and BACKWARD leave every job, every firebox and every counter of R102. -/
theorem runBlocks_readsOnly (q : Part4) (n : Nat) (s : State) : ReadsOnly s (runBlocks q n s).2 := by
  unfold runBlocks
  extract_lets c
  split
  · exact .refl s
  · split
    · exact backward_readsOnly ..
    · exact forward_readsOnly ..

end Sys2Proof.Machine
end

section
/-! What a read through translation and its caches can see of a state (R177 to R185, R201): counters are not among it. -/
namespace Sys2Proof.Machine

/-! ### What reads see -/

/-- What a channel shows to an access: its state and its density (R201, R219). -/
def Channel.face (x : Channel) : ChanSt × Nat := (x.st, x.density)

/-- What a hearth shows to a read: its firebox and its cache (R178, R185). -/
def Hearth.face (x : Hearth) : Store × Tab Nat × List Leaf := (x.frames, x.pageMap, x.cache)

/-- Two states that every read sees alike: image, free values, memories, caches, and what channels and hearths show. -/
structure Alike (s t : State) : Prop where
  img     : t.img = s.img
  free    : t.freeCtr = s.freeCtr
  dram    : t.mem.dram = s.mem.dram
  shared  : t.mem.shared = s.mem.shared
  port    : t.mem.portCache = s.mem.portCache
  copy    : t.mem.copyCache = s.mem.copyCache
  chan    : ∀ c, (t.chan c).face = (s.chan c).face
  hearth  : ∀ p, (t.hearth p).face = (s.hearth p).face

section
variable {s t u : State}

theorem Alike.refl (s : State) : Alike s s := ⟨rfl, rfl, rfl, rfl, rfl, rfl, fun _ => rfl, fun _ => rfl⟩

theorem Alike.trans (h : Alike s t) (k : Alike t u) : Alike s u :=
  ⟨k.img.trans h.img, k.free.trans h.free, k.dram.trans h.dram, k.shared.trans h.shared, k.port.trans h.port, k.copy.trans h.copy,
    fun c => (k.chan c).trans (h.chan c), fun p => (k.hearth p).trans (h.hearth p)⟩

theorem Alike.symm (h : Alike s t) : Alike t s :=
  ⟨h.img.symm, h.free.symm, h.dram.symm, h.shared.symm, h.port.symm, h.copy.symm, fun c => (h.chan c).symm, fun p => (h.hearth p).symm⟩

/-- Steps that no read sees, on both sides. -/
theorem Alike.around {s' t' : State} (h : Alike s t) (hs : Alike s s') (ht : Alike t t') : Alike s' t' := (hs.symm.trans h).trans ht

theorem Alike.of_keeps {m : Nat} (k : Keeps m s t) (h5 : m.testBit 5 = false := by rfl) (h9 : m.testBit 9 = false := by rfl)
    (h10 : m.testBit 10 = false := by rfl) (h16 : m.testBit 16 = false := by rfl) : Alike s t := by
  have hmem := k.mem h10
  have hseq := k.seq h9
  refine ⟨k.img h5, k.freeCtr h16, by rw [hmem], by rw [hmem], by rw [hmem], by rw [hmem], fun c => ?_, fun p => ?_⟩
  · unfold State.chan; rw [hmem]
  · unfold State.hearth; rw [hseq]

/-! #### Changes that no read sees -/

theorem updHearth_alike (p : Nat) (f : Hearth → Hearth) (s : State) (hf : (f (s.hearth p)).face = (s.hearth p).face) :
    Alike s (updHearth p f s) := by
  refine ⟨rfl, rfl, rfl, rfl, rfl, rfl, fun _ => rfl, fun k => ?_⟩
  by_cases hk : k = p
  · rw [hk, updHearth_self, hf]
  · rw [updHearth_ne _ _ _ hk]

theorem updChan_alike (c : Nat) (f : Channel → Channel) (s : State) (hf : (f (s.chan c)).face = (s.chan c).face) :
    Alike s (updChan c f s) := by
  refine ⟨rfl, rfl, rfl, rfl, rfl, rfl, fun k => ?_, fun _ => rfl⟩
  by_cases hk : k = c
  · rw [hk, updChan_self, hf]
  · rw [updChan_ne _ _ _ hk]

theorem bumpHearth_alike (p w k : Nat) (s : State) : Alike s (bumpHearth p w k s) := updHearth_alike p _ s rfl

theorem bumpAtt_alike (p w k : Nat) (s : State) : Alike s (bumpAtt p w k s) := updHearth_alike p _ s rfl

theorem bumpChan_alike (c w k : Nat) (s : State) : Alike s (bumpChan c w k s) := updChan_alike c _ s rfl

theorem bumpXlat_alike (h : Half) (w k : Nat) (s : State) : Alike s (bumpXlat h w k s) := .of_keeps (bumpXlat_keeps ..)

theorem noteUnmapped_alike (r : Reader) (c : FaultClass) (s : State) : Alike s (noteUnmapped r c s) := .of_keeps (noteUnmapped_keeps ..)

theorem touchBlock_alike (c block : Nat) (s : State) : Alike s (touchBlock c block s) := by
  unfold touchBlock
  dsimp only
  split
  · exact bumpChan_alike ..
  · exact (updChan_alike c _ s rfl).trans (bumpChan_alike ..)

theorem countFixed_alike (p : Nat) (c : Corrected) (s : State) : Alike s (countFixed p c s) :=
  (bumpHearth_alike ..).trans (forEach_invariant (P := Alike (bumpHearth p 4 c.store.toNat s))
    (fun _ _ h => h.trans (bumpChan_alike ..)) _ _ (.refl _))

/-! #### Functions of what reads see -/

section
variable (h : Alike s t)
include h

theorem Alike.st (c : Nat) : (t.chan c).st = (s.chan c).st := congrArg Prod.fst (h.chan c)

theorem Alike.density (c : Nat) : (t.chan c).density = (s.chan c).density := congrArg Prod.snd (h.chan c)

theorem Alike.byte (p : Nat) : (t.hearth p).byte = (s.hearth p).byte :=
  Hearth.SameBox.byte ⟨congrArg Prod.fst (h.hearth p), congrArg (fun x => x.2.1) (h.hearth p)⟩

theorem Alike.locate (a : Nat) : t.locate a = s.locate a := by
  have hset : t.setOf a = s.setOf a := by unfold State.setOf; simp only [h.img, h.density]
  unfold State.locate State.hostBus State.setChans
  simp only [hset, h.img, h.st]

theorem Alike.locByte (salt : Nat) : t.locByte salt = s.locByte salt := by
  funext l
  cases l with
  | dram c co => exact congrArg (Store.read · _) h.dram
  | shared o => exact congrArg (Store.read · _) h.shared
  | host b => rfl
  | fire p o => exact congrFun (h.byte p) o

theorem Alike.physBytes (salt a n : Nat) : t.physBytes salt a n = s.physBytes salt a n := by
  unfold State.physBytes; simp only [h.locate, h.locByte]

theorem Alike.blocksOf (a n : Nat) : t.blocksOf a n = s.blocksOf a n := by
  unfold State.blocksOf; simp only [h.locate]

theorem Alike.windowGrants (hoop a : Nat) (write : Bool) : t.windowGrants hoop a write = s.windowGrants hoop a write := by
  unfold State.windowGrants; rw [h.img]

theorem Alike.walkPath (ctx va : Nat) : t.walkPath ctx va = s.walkPath ctx va := by
  have hread : t.walkRead = s.walkRead := by
    funext hoop a; unfold State.walkRead; rw [h.windowGrants, h.free, h.physBytes]
  unfold State.walkPath; rw [h.img, hread]

theorem Alike.grant (l : Leaf) (va : Nat) (write : Bool) : t.grant l va write = s.grant l va write := by
  unfold State.grant; rw [h.img]; simp only [h.windowGrants]

theorem Alike.cache (u : CacheUnit) : t.cache u = s.cache u := by
  cases u with
  | hearth p => exact congrArg (fun x => x.2.2) (h.hearth p.toNat)
  | port n => exact congrArg (Tab.get [] · n.toNat) h.port
  | copyEngine => exact h.copy

end
end

/-! ### The same step on both sides -/

section
variable {s t : State} (h : Alike s t)
include h

theorem Alike.updHearth (p : Nat) {f g : Hearth → Hearth} (hfg : (g (t.hearth p)).face = (f (s.hearth p)).face) :
    Alike (updHearth p f s) (updHearth p g t) := by
  refine ⟨h.img, h.free, h.dram, h.shared, h.port, h.copy, h.chan, fun k => ?_⟩
  by_cases hk : k = p
  · rw [hk, updHearth_self, updHearth_self, hfg]
  · rw [updHearth_ne _ _ _ hk, updHearth_ne _ _ _ hk, h.hearth]

theorem Alike.updChan (c : Nat) {f g : Channel → Channel} (hfg : (g (t.chan c)).face = (f (s.chan c)).face) :
    Alike (updChan c f s) (updChan c g t) := by
  refine ⟨h.img, h.free, h.dram, h.shared, h.port, h.copy, fun k => ?_, h.hearth⟩
  by_cases hk : k = c
  · rw [hk, updChan_self, updChan_self, hfg]
  · rw [updChan_ne _ _ _ hk, updChan_ne _ _ _ hk, h.chan]

theorem Alike.fresh : Alike (fresh s).2 (fresh t).2 :=
  ⟨h.img, congrArg (· + 1) h.free, h.dram, h.shared, h.port, h.copy, h.chan, h.hearth⟩

theorem Alike.setCache (u : CacheUnit) (c : List Leaf) : Alike (setCache u c s) (setCache u c t) := by
  cases u with
  | hearth p =>
    have hface := h.hearth p.toNat
    simp only [Hearth.face, Prod.mk.injEq] at hface
    exact h.updHearth p.toNat (by simp only [Hearth.face, hface])
  | port n => exact ⟨h.img, h.free, h.dram, h.shared, congrArg (Tab.set · n.toNat c) h.port, h.copy, h.chan, h.hearth⟩
  | copyEngine => exact ⟨h.img, h.free, h.dram, h.shared, h.port, rfl, h.chan, h.hearth⟩

theorem Alike.cacheInsert (u : CacheUnit) (l : Leaf) : Alike (cacheInsert u l s) (cacheInsert u l t) := by
  unfold Machine.cacheInsert
  simp only [h.cache]
  split
  · exact h.setCache ..
  · have hpick : (Machine.fresh t).1 = (Machine.fresh s).1 := h.free
    rw [hpick]
    exact h.fresh.setCache ..

end

/-- A channel woken by an access at a time (R214, R215). -/
def Channel.woken (now : Nat) (x : Channel) : Channel :=
  { x with st := if x.st == .selfRefresh then .active else x.st, emptyAt := if x.queue.isEmpty then now else x.emptyAt }

theorem accessBlock_eq (write : Bool) (e : Nat × Nat) (s : State) : accessBlock write e s =
    bumpChan e.1 (if write then 1 else 0) 1 (touchBlock e.1 e.2 (updChan e.1 (Channel.woken s.hp) s)) := rfl

/-- A counted access to a block wakes its channel, or leaves it, on both sides. -/
theorem Alike.accessBlock {s t : State} (h : Alike s t) (write : Bool) (e : Nat × Nat) :
    Alike (accessBlock write e s) (accessBlock write e t) := by
  have hwake : Alike (Machine.updChan e.1 (Channel.woken s.hp) s) (Machine.updChan e.1 (Channel.woken t.hp) t) :=
    h.updChan e.1 (by simp only [Channel.face, Channel.woken, h.st, h.density])
  rw [accessBlock_eq, accessBlock_eq]
  exact hwake.around ((touchBlock_alike ..).trans (bumpChan_alike ..)) ((touchBlock_alike ..).trans (bumpChan_alike ..))

theorem Alike.forEach {α : Type} {l : List α} {f : α → State → State} (hf : ∀ a s t, Alike s t → Alike (f a s) (f a t)) {s t : State}
    (h : Alike s t) : Alike (forEach l f s) (forEach l f t) := by
  induction l generalizing s t with
  | nil => exact h
  | cons a l ih => exact ih (hf a s t h)

section
variable {s t : State} (h : Alike s t)
include h

theorem Alike.countAccess (write : Bool) (a n : Nat) : Alike (countAccess write a n s) (countAccess write a n t) := by
  unfold Machine.countAccess
  rw [h.blocksOf]
  exact h.forEach fun e _ _ k => k.accessBlock write e

theorem Alike.countWalk (r : Reader) (ctx va : Nat) : Alike (countWalk r ctx va s) (countWalk r ctx va t) := by
  unfold Machine.countWalk State.walkReads
  rw [h.walkPath]
  have hstart : Alike (bumpXlat (s.readerHalf r) 1 1 (Machine.fresh s).2) (bumpXlat (t.readerHalf r) 1 1 (Machine.fresh t).2) :=
    h.fresh.around (bumpXlat_alike ..) (bumpXlat_alike ..)
  exact hstart.forEach fun a _ _ k => k.countAccess false a 8

end

/-! ### Operations that answer the same -/

/-- Two runs of an operation with the same answer, that leave states alike. -/
structure SameAnswer {α : Type} (x y : α × State) : Prop where
  answer : y.1 = x.1
  alike  : Alike x.2 y.2

theorem SameAnswer.of_alike {α : Type} {a : α} {s t : State} (h : Alike s t) : SameAnswer (a, s) (a, t) := ⟨rfl, h⟩

theorem SameAnswer.exists_eq {α : Type} {x y : α × State} (h : SameAnswer x y) :
    ∃ a s t, x = (a, s) ∧ y = (a, t) ∧ Alike s t := ⟨x.1, x.2, y.2, rfl, Prod.ext h.answer rfl, h.alike⟩

section
variable {s t : State} (h : Alike s t)
include h

theorem Alike.walkFor (r : Reader) (ctx va : Nat) (write : Bool) : SameAnswer (walkFor r ctx va write s) (walkFor r ctx va write t) := by
  have hwalk := h.countWalk r ctx va
  have hfound : t.walk ctx va = s.walk ctx va := congrArg Prod.fst (h.walkPath ctx va)
  unfold Machine.walkFor
  dsimp only
  rw [hfound]
  cases s.walk ctx va with
  | none => exact .of_alike (hwalk.around (bumpXlat_alike ..) (bumpXlat_alike ..))
  | some l =>
    dsimp only
    rw [hwalk.grant]
    cases (Machine.countWalk r ctx va s).grant l va write with
    | none => exact .of_alike (hwalk.around (bumpXlat_alike ..) (bumpXlat_alike ..))
    | some pa =>
      cases r with
      | unit u => exact .of_alike (hwalk.cacheInsert ..)
      | walker _ => exact .of_alike hwalk

theorem Alike.translate (r : Reader) (ctx va : Nat) (write : Bool) :
    SameAnswer (translate r ctx va write s) (translate r ctx va write t) := by
  cases r with
  | walker _ => exact h.walkFor ..
  | unit u =>
    unfold Machine.translate
    dsimp only
    rw [h.cache]
    cases findLeaf (s.cache u) ctx va with
    | none => exact (h.around (bumpXlat_alike ..) (bumpXlat_alike ..)).walkFor ..
    | some l =>
      dsimp only
      rw [h.grant]
      cases s.grant l va write with
      | none => exact .of_alike (h.around (bumpXlat_alike ..) (bumpXlat_alike ..))
      | some pa => exact .of_alike h

end

theorem Alike.readPieces {s t : State} (h : Alike s t) (r : Reader) (ctx : Nat) (l : List (Nat × Nat)) :
    SameAnswer (readPieces r ctx l s) (readPieces r ctx l t) := by
  induction l generalizing s t with
  | nil => exact .of_alike h
  | cons x l ih =>
    obtain ⟨pa, s1, t1, hs, ht, h1⟩ := (h.translate r ctx x.1 false).exists_eq
    unfold Machine.readPieces
    rw [hs, ht]
    cases pa with
    | none => exact .of_alike h1
    | some pa =>
      have hsalt : (Machine.fresh t1).1 = (Machine.fresh s1).1 := h1.free
      dsimp only
      rw [hsalt, h1.fresh.physBytes]
      cases (Machine.fresh s1).2.physBytes (Machine.fresh s1).1 pa x.2 with
      | error c => exact .of_alike (h1.fresh.around (noteUnmapped_alike ..) (noteUnmapped_alike ..))
      | ok bs =>
        obtain ⟨rest, s2, t2, hs2, ht2, h2⟩ := (ih (h1.fresh.countAccess false pa x.2)).exists_eq
        dsimp only
        rw [hs2, ht2]
        cases rest <;> exact .of_alike h2

/-! ### Blocks of keys and values -/

section
variable {s t : State} (h : Alike s t) (c : AtJob)
include h

theorem Alike.cacheRead (va n : Nat) : SameAnswer (cacheRead c va n s) (cacheRead c va n t) := by
  have hread : SameAnswer (vread c.unit c.ctx va n s) (vread c.unit c.ctx va n t) := h.readPieces ..
  obtain ⟨bs, s1, t1, hs, ht, h1⟩ := hread.exists_eq
  unfold Machine.cacheRead
  rw [hs, ht]
  cases bs with
  | error f => exact .of_alike h1
  | ok bs => exact .of_alike (h1.around (bumpAtt_alike ..) (bumpAtt_alike ..))

theorem Alike.blockAllowed (b : Nat) : SameAnswer (blockAllowed c b s) (blockAllowed c b t) := by
  obtain ⟨bs, s1, t1, hs, ht, h1⟩ := (h.cacheRead c (c.sq.s + 256 * b) 256).exists_eq
  unfold Machine.blockAllowed
  rw [hs, ht]
  split
  · exact .of_alike h
  · cases bs <;> exact .of_alike h1

theorem Alike.readBlock (b : Nat) (rows : List (List Bool)) : SameAnswer (readBlock c b rows s) (readBlock c b rows t) := by
  obtain ⟨ks, s1, t1, hs, ht, h1⟩ := (h.cacheRead c (keyAddr c.e c.sq (atKvhead c.e) (128 * b)) (keyBlock c.e)).exists_eq
  unfold Machine.readBlock
  rw [hs, ht]
  cases ks with
  | error f => exact .of_alike h1
  | ok ks =>
    obtain ⟨vs, s2, t2, hs2, ht2, h2⟩ := (h1.cacheRead c (valAddr c.e c.sq (atKvhead c.e) (128 * b) 0) (valBlock c.e)).exists_eq
    dsimp only
    rw [hs2, ht2]
    cases vs <;> exact .of_alike h2

theorem Alike.fetchBlock (b : Nat) : SameAnswer (fetchBlock c b s) (fetchBlock c b t) := by
  obtain ⟨rows, s1, t1, hs, ht, h1⟩ := (h.blockAllowed c b).exists_eq
  unfold Machine.fetchBlock
  rw [hs, ht]
  cases rows with
  | error f => exact .of_alike h1
  | ok rows =>
    dsimp only
    split
    · exact .of_alike (h1.around (bumpAtt_alike ..) (bumpAtt_alike ..))
    · exact h1.readBlock ..

end

theorem Alike.foldBlocks {s t : State} (h : Alike s t) {α : Type} (c : AtJob) (f : Blk → α → Except FaultClass α)
    (skip : Nat → α → α) (l : List Nat) (a : α) : SameAnswer (foldBlocks c f skip l a s) (foldBlocks c f skip l a t) := by
  induction l generalizing a s t with
  | nil => exact .of_alike h
  | cons b l ih =>
    obtain ⟨blk, s1, t1, hs, ht, h1⟩ := (h.fetchBlock c b).exists_eq
    unfold Machine.foldBlocks
    rw [hs, ht]
    match blk with
    | .error e => exact .of_alike h1
    | .ok none => exact ih h1 _
    | .ok (some blk) =>
      dsimp only
      cases f blk a with
      | error e => exact .of_alike h1
      | ok a => exact ih (h1.around (bumpAtt_alike ..) (bumpAtt_alike ..)) _

theorem SameAnswer.liveStep {x y : Except FaultClass (List Bool) × State} (h : SameAnswer x y) (c : AtJob) (b : Nat) :
    SameAnswer (liveStep c x b) (liveStep c y b) := by
  obtain ⟨l, s, t, rfl, rfl, hst⟩ := h.exists_eq
  cases l with
  | error f => exact .of_alike hst
  | ok l =>
    obtain ⟨rows, s1, t1, hs, ht, h1⟩ := (hst.blockAllowed c b).exists_eq
    unfold Machine.liveStep
    dsimp only
    rw [hs, ht]
    cases rows with
    | error f => exact .of_alike h1
    | ok rows => exact .of_alike hst

section
variable {s t : State} (h : Alike s t) (c : AtJob)
include h

theorem Alike.liveRows : SameAnswer (liveRows c s) (liveRows c t) := by
  have hfold (l : List Nat) (x y : Except FaultClass (List Bool) × State) (hxy : SameAnswer x y) :
      SameAnswer (l.foldl (liveStep c) x) (l.foldl (liveStep c) y) := by
    induction l generalizing x y with
    | nil => exact hxy
    | cons b l ih => exact ih _ _ (hxy.liveStep c b)
  rw [liveRows_eq, liveRows_eq]
  exact hfold _ _ _ (.of_alike h)

theorem Alike.forward (sc : AtScale) (blocks : List Nat) : SameAnswer (forward c sc blocks s) (forward c sc blocks t) := by
  obtain ⟨xs, s1, t1, hs, ht, h1⟩ :=
    (h.foldBlocks c (forwardBlock c sc (queryRows c.rd c.e)) (fun _ a => a) blocks (forwardInit c.e, false)).exists_eq
  unfold Machine.forward
  rw [hs, ht]
  cases xs <;> exact .of_alike h1

theorem Alike.backBlocks (sc : AtScale) (live : List Bool) (i : BackIn) (blocks : List Nat) :
    SameAnswer (backBlocks c sc live i blocks s) (backBlocks c sc live i blocks t) := by
  obtain ⟨x, s1, t1, hs, ht, h1⟩ := (h.foldBlocks c (backBlock c sc i) (backSkip c.e i) blocks (backInit c)).exists_eq
  unfold Machine.backBlocks
  rw [hs, ht]
  cases x <;> exact .of_alike h1

theorem Alike.backward (sc : AtScale) (blocks : List Nat) : SameAnswer (backward c sc blocks s) (backward c sc blocks t) := by
  obtain ⟨live, s1, t1, hs, ht, h1⟩ := (h.liveRows c).exists_eq
  unfold Machine.backward
  rw [hs, ht]
  cases live with
  | error f => exact .of_alike h1
  | ok live => exact h1.backBlocks ..

theorem Alike.atJobOf (q : Part4) : atJobOf q t = atJobOf q s := by
  unfold Machine.atJobOf
  rw [descUnit_congr h.img, stepAt_congr h.img, h.byte, detectOnly_congr h.img]

/-- FORWARD and BACKWARD answer the same in states that every read sees alike. -/
theorem Alike.runBlocks (q : Part4) (n : Nat) : SameAnswer (runBlocks q n s) (runBlocks q n t) := by
  unfold Machine.runBlocks
  rw [h.atJobOf]
  dsimp only
  cases readAtScale (Machine.atJobOf q s).rd (Machine.atJobOf q s).e with
  | none => exact .of_alike h
  | some sc =>
    dsimp only
    split
    · exact h.backward ..
    · exact h.forward ..

end

end Sys2Proof.Machine
end

section
/-! A physical cause in a part (R99, R304): the part stops at it or at an earlier fault of its own, or a check is let through. -/
namespace Sys2Proof.Machine

/-! ### The landing range by kind of part -/

section
variable {q : Part4} {s t : State}

theorem kind_of_groupOpen (h : groupOpen q s = true) : stepKind (s.stepAt q.job.q.pricking q.step) ≠ kTransform := by
  intro hk
  have happ : isAppend q s = false := by
    unfold isAppend
    dsimp only
    rw [hk]; rfl
  unfold groupOpen at h
  rw [hk, happ, Bool.false_and] at h
  exact absurd h (by decide)

theorem openLanding_of_group (h : groupOpen q s = true) : openLanding q s = groupLanding q s :=
  (if_neg (kind_of_groupOpen h)).trans (if_pos h)

theorem openLanding_of_transform (h : stepKind (s.stepAt q.job.q.pricking q.step) = kTransform) :
    openLanding q s = trLanding (partDesc q s) := if_pos h

theorem openLanding_of_attend (hg : groupOpen q s ≠ true) (hk : stepKind (s.stepAt q.job.q.pricking q.step) ≠ kTransform) :
    openLanding q s = atLanding (partDesc q s) := (if_neg hk).trans (if_neg hg)

theorem PartsStand.openLanding (k : PartsStand s t) (q : Part4) : openLanding q t = openLanding q s := by
  unfold Machine.openLanding
  rw [stepAt_congr k.img, descUnit_congr k.img, k.groupOpen, groupDesc_congr k.img, groupOf_congr k.img]

/-! ### What stops a part before the cause -/

theorem stopsBefore_of_groupFault {pass p sats esc nonfin : Nat} {c : FaultClass} (hg : groupOpen q s = true)
    (h : passesResult (min pass ((partGroup q s).2.length - 1)) q s = .fault c p sats esc nonfin) : stopsBefore q pass s = true := by
  unfold partGroup at h
  unfold stopsBefore
  rw [if_pos hg, h]

theorem stopsBefore_of_transformFault {pass p sats esc nonfin : Nat} {c : FaultClass}
    (hk : stepKind (s.stepAt q.job.q.pricking q.step) = kTransform) (h : transformResult q s = .fault c p sats esc nonfin) :
    stopsBefore q pass s = true := by
  unfold stopsBefore
  rw [if_neg fun hg => kind_of_groupOpen hg hk, if_pos hk, h]

/-- The blocks that ran before a physical cause, and the state after them. -/
def stopRun (q : Part4) (s : State) : AtRes × State :=
  runBlocks q (freeRounds (atKblocks (atJobOf q s).e) s).1 (freeRounds (atKblocks (atJobOf q s).e) s).2

theorem stopsBefore_of_attend (pass : Nat) (hg : groupOpen q s ≠ true)
    (hk : stepKind (s.stepAt q.job.q.pricking q.step) ≠ kTransform) : stopsBefore q pass s = (stopRun q s).1.toOption.isNone := by
  unfold stopsBefore
  rw [if_neg hg, if_neg hk]
  rfl

theorem Alike.stopRun (h : Alike s t) (q : Part4) : (stopRun q t).1 = (stopRun q s).1 := by
  have hsame (n : Nat) : freeRounds n t = ((freeRounds n s).1, (freeRounds n t).2) :=
    Prod.ext (congrArg (fun k => Config.freePick k % (n + 1)) h.free) rfl
  unfold Machine.stopRun
  rw [h.atJobOf, hsame]
  exact (h.fresh.runBlocks q _).answer

/-- What stops a part before the cause is the same after bookkeeping that no read sees. -/
theorem Booked.stopsBefore {n : Nat → Nat} (h : Booked q.phys n s t) (ha : Alike s t) (pass : Nat) :
    stopsBefore q pass t = stopsBefore q pass s := by
  by_cases hg : Machine.groupOpen q s = true
  · have hgt := (h.groupOpen q).trans hg
    unfold Sys2Proof.stopsBefore
    rw [if_pos hg, if_pos hgt, h.passesResult, groupDesc_congr h.img, groupOf_congr h.img]
  · have hgt : Machine.groupOpen q t ≠ true := by rwa [h.groupOpen]
    by_cases hk : stepKind (s.stepAt q.job.q.pricking q.step) = kTransform
    · have hkt : stepKind (t.stepAt q.job.q.pricking q.step) = kTransform := by rwa [stepAt_congr h.img]
      unfold Sys2Proof.stopsBefore
      rw [if_neg hg, if_neg hgt, if_pos hk, if_pos hkt, h.transformResult]
    · have hkt : stepKind (t.stepAt q.job.q.pricking q.step) ≠ kTransform := by rwa [stepAt_congr h.img]
      rw [stopsBefore_of_attend pass hg hk, stopsBefore_of_attend pass hgt hkt, ha.stopRun]

end

/-! ### Parts that a cause stops -/

/-- A part stops at a cause, or, where something stops it `before` the cause, at a fault of its own. -/
def StopsAt (q : Part4) (g : Landing) (cause : FaultClass) (before : Bool) (s t : State) : Prop :=
  ∃ k sats esc nonfin c rounds, Stopped q g k (faultCounts sats esc nonfin c rounds) s t ∧ (before = false → c = cause)

theorem faultCounts_zero (c : FaultClass) (rounds : Nat) : faultCounts 0 0 0 c rounds = stopCounts c rounds := by
  simp [faultCounts]

section
variable {q : Part4} {s : State} (hseat : Seated q s) (halone : Alone q s)
include hseat halone

theorem stopGroup_stopsAt (cause : FaultClass) (pass : Nat) (hg : groupOpen q s = true) :
    StopsAt q (groupLanding q s) cause (stopsBefore q pass s) s (stopGroup q cause pass s) := by
  have hhead : stopGroup q cause pass s = match passesResult (min pass ((partGroup q s).2.length - 1)) q s with
      | .fault c p sats esc nonfin => passFault q c p sats esc nonfin s
      | .done _ sats esc nonfin _ =>
        let p := min pass ((partGroup q s).2.length - 1)
        let f := freeRounds (groupRounds (partGroup q s).1 (partGroup q s).2) (startPasses q.phys (p + 1) s)
        abandonPart q (groupLanding q s) cause p f.1 (countValues q.phys sats esc nonfin f.2) := rfl
  rw [hhead]
  cases hres : passesResult (min pass ((partGroup q s).2.length - 1)) q s with
  | fault c p sats esc nonfin =>
    obtain ⟨rounds, hstop⟩ := passFault_stopped hseat halone c p sats esc nonfin
    exact ⟨_, _, _, _, _, _, hstop, fun h => absurd (stopsBefore_of_groupFault hg hres) (by rw [h]; decide)⟩
  | done ws sats esc nonfin checks =>
    dsimp only
    generalize min pass ((partGroup q s).2.length - 1) = p
    have hstart := startPasses_partsStand q.phys (p + 1) s
    generalize groupRounds (partGroup q s).1 (partGroup q s).2 = bound
    have hbooked := (freeRounds_booked q.phys bound (startPasses q.phys (p + 1) s)).trans (countValues_booked q.phys sats esc nonfin _)
    have hstand := hstart.trans hbooked.toPartsStand
    have hstop := (abandonPart_stopped (hseat.stands hstand) (hstand.alone halone) (groupLanding q s) cause p
      (freeRounds bound (startPasses q.phys (p + 1) s)).1).after_booked hbooked
    exact ⟨_, sats, esc, nonfin, cause, _, (hstop.after_started).congr fun w => by rw [zero_add]; rfl, fun _ => rfl⟩

theorem stopTransform_stopsAt (cause : FaultClass) (pass : Nat) (hk : stepKind (s.stepAt q.job.q.pricking q.step) = kTransform) :
    StopsAt q (trLanding (partDesc q s)) cause (stopsBefore q pass s) s (stopTransform q cause s) := by
  have hhead : stopTransform q cause s = match transformResult q s with
      | .fault c _ sats esc _ => transformFault q (partDesc q s) c sats esc s
      | .done _ sats esc _ _ =>
        let r := freeRounds (transformRounds (partDesc q s)) s
        let a := freeRounds sats r.2
        let b := freeRounds esc a.2
        abandonPart q (trLanding (partDesc q s)) cause 0 r.1 (countValues q.phys a.1 b.1 0 b.2) := rfl
  rw [hhead]
  cases hres : transformResult q s with
  | fault c p sats esc nonfin =>
    obtain ⟨rounds, hstop⟩ := transformFault_stopped hseat halone (partDesc q s) c sats esc
    exact ⟨_, _, _, _, _, _, hstop, fun h => absurd (stopsBefore_of_transformFault hk hres) (by rw [h]; decide)⟩
  | done ws sats esc nonfin checks =>
    dsimp only
    generalize hr : freeRounds (transformRounds (partDesc q s)) s = r
    generalize ha : freeRounds sats r.2 = a
    generalize hb : freeRounds esc a.2 = b
    have hfree : Booked q.phys 0 s b.2 := by
      subst hb ha hr
      exact ((freeRounds_booked ..).trans (freeRounds_booked ..)).trans (freeRounds_booked ..)
    have hbooked := hfree.trans (countValues_booked q.phys a.1 b.1 0 b.2)
    have hstand := hbooked.toPartsStand
    have hstop := (abandonPart_stopped (hseat.stands hstand) (hstand.alone halone) (trLanding (partDesc q s)) cause 0 r.1).after_booked
      hbooked
    exact ⟨_, a.1, b.1, 0, cause, r.1, hstop.congr fun w => by rw [zero_add]; rfl, fun _ => rfl⟩

theorem stopAttend_stopsAt (cause : FaultClass) :
    StopsAt q (atLanding (partDesc q s)) cause (stopRun q s).1.toOption.isNone s (stopAttend q cause s) := by
  have hhead : stopAttend q cause s = match stopRun q s with
      | (.error f, t) => attendFault q (partDesc q s) f t
      | (.ok _, t) => abandonPart q (atLanding (partDesc q s)) cause 0 (freeRounds attendBound t).1 (freeRounds attendBound t).2 := rfl
  have hrun : Booked q.phys 0 s (stopRun q s).2 :=
    (freeRounds_booked q.phys _ s).trans ((runBlocks_readsOnly ..).booked q.phys)
  have habandon (c : FaultClass) (rounds : Nat) (t : State) (h : Booked q.phys 0 s t) :
      Stopped q (atLanding (partDesc q s)) 0 (faultCounts 0 0 0 c rounds) s
        (abandonPart q (atLanding (partDesc q s)) c 0 rounds t) := by
    have hstop := (abandonPart_stopped (hseat.stands h.toPartsStand) (h.toPartsStand.alone halone) (atLanding (partDesc q s)) c 0
      rounds).after_booked h
    exact hstop.congr fun w => by rw [zero_add, faultCounts_zero]
  rw [hhead]
  generalize stopRun q s = run at hrun ⊢
  obtain ⟨res, t⟩ := run
  cases res with
  | error f => exact ⟨_, _, _, _, f, _, habandon f _ t hrun, fun h => by cases h⟩
  | ok o => exact ⟨_, _, _, _, cause, _, habandon cause _ _ (hrun.trans (freeRounds_booked ..)), fun _ => rfl⟩

/-- A physical cause stops a part of any kind. -/
theorem stopPart_stopsAt (cause : FaultClass) (pass : Nat) :
    StopsAt q (openLanding q s) cause (stopsBefore q pass s) s (stopPart q cause pass s) := by
  unfold stopPart
  by_cases hg : groupOpen q s = true
  · rw [if_pos hg, openLanding_of_group hg]
    exact stopGroup_stopsAt hseat halone cause pass hg
  · rw [if_neg hg]
    by_cases hk : stepKind (s.stepAt q.job.q.pricking q.step) = kTransform
    · rw [if_pos hk, openLanding_of_transform hk]
      exact stopTransform_stopsAt hseat halone cause pass hk
    · rw [if_neg hk, openLanding_of_attend hg hk, stopsBefore_of_attend pass hg hk]
      exact stopAttend_stopsAt hseat halone cause

/-- Counters of single-bit errors before the stop change nothing of it (R99, R211). -/
theorem stopPart_countFixed_stopped (cause : FaultClass) (pass : Nat) (fixed : Corrected) :
    ∃ k sats esc nonfin c rounds, Stopped q (openLanding q s) k (Pi.single 4 fixed.store.toNat + faultCounts sats esc nonfin c rounds) s
        (stopPart q cause pass (countFixed q.phys fixed s)) ∧ (stopsBefore q pass s = false → c = cause) := by
  have hfixed := countFixed_booked q.phys fixed s
  have halike := countFixed_alike q.phys fixed s
  generalize countFixed q.phys fixed s = t at hfixed halike
  have hstand := hfixed.toPartsStand
  obtain ⟨k, sats, esc, nonfin, c, rounds, hstop, hc⟩ := stopPart_stopsAt (hseat.stands hstand) (hstand.alone halone) cause pass
  rw [hstand.openLanding] at hstop
  rw [hfixed.stopsBefore halike] at hc
  exact ⟨k, sats, esc, nonfin, c, rounds, hstop.after_booked hfixed, hc⟩

end

/-! ### The command PASS_GROUP_ABANDON -/

section
variable {hoop : BitVec 4} {step : BitVec 20} {pos : BitVec 3} {cause : FaultClass} {pass : BitVec 8} {q : Part4} {s : State}
  (fixed : Corrected)

theorem partFixed_store (q : Part4) (s : State) : (partFixed q fixed s).store = fixed.store := by
  unfold partFixed; split <;> rfl

theorem exec_passGroupAbandon (hq : s.part4 [kPass, kTransform, kAttend] hoop.toNat step.toNat pos.toNat = some q) (writeOut : Bool)
    (happ : isAppend q s = true → groupedPart q s = false)
    (hcause : physicalCause (stepKind (s.stepAt q.job.q.pricking q.step)) (groupOpen q s) cause = true) :
    exec (.passGroupAbandon hoop step pos cause pass writeOut fixed) s = .next (
      let t := countFixed q.phys (partFixed q fixed s) s
      if letThrough q cause writeOut t then partCommit q (some (cause, pass.toNat)) t else stopPart q cause pass.toNat t) := by
  have hat := partAt_of_part4 pos.isLt hq
  have happ' : ¬ (isAppend q s && groupedPart q s) = true := by
    rw [Bool.and_eq_true]
    exact fun h => by rw [happ h.1] at h; exact absurd h.2 (by decide)
  rw [hat.step] at hcause
  change Host.Outcome.next (passAbandon _ _ _ _ _ _ _ _) = _
  unfold passAbandon
  rw [hq]
  exact congrArg Host.Outcome.next ((if_neg happ').trans (if_pos hcause))

theorem letThrough_eq_false {writeOut : Bool}
    (h : isCheck cause = false ∨ s.detectOnly q.hoop = false ∨ (writeOut = true ∧ groupOpen q s = true)) :
    letThrough q cause writeOut s = false := by
  unfold letThrough
  obtain h | h | ⟨hwrite, hopen⟩ := h
  · rw [h, Bool.false_and, Bool.false_and]
  · rw [h, Bool.and_false, Bool.false_and]
  · rw [hwrite, hopen]; exact Bool.and_false _

/-- A physical cause that is not let through abandons the part. -/
theorem exec_passGroupAbandon_stops (hq : s.part4 [kPass, kTransform, kAttend] hoop.toNat step.toNat pos.toNat = some q)
    (writeOut : Bool) (happ : isAppend q s = true → groupedPart q s = false)
    (hcause : physicalCause (stepKind (s.stepAt q.job.q.pricking q.step)) (groupOpen q s) cause = true)
    (hheld : letThrough q cause writeOut s = false) :
    exec (.passGroupAbandon hoop step pos cause pass writeOut fixed) s =
      .next (stopPart q cause pass.toNat (countFixed q.phys (partFixed q fixed s) s)) := by
  have hfixed := countFixed_booked q.phys (partFixed q fixed s) s
  rw [exec_passGroupAbandon fixed hq writeOut happ hcause]
  refine congrArg Host.Outcome.next (if_neg ?_)
  unfold letThrough at hheld ⊢
  rw [detectOnly_congr hfixed.img, hfixed.groupOpen, hheld]
  decide

/-- A failed check in a pass group of a detect-only hoop is let through, the duplicated write-out apart (R304). -/
theorem exec_passGroupAbandon_commits (hq : s.part4 [kPass, kTransform, kAttend] hoop.toNat step.toNat pos.toNat = some q)
    {writeOut : Bool} (happ : isAppend q s = true → groupedPart q s = false)
    (hcause : physicalCause (stepKind (s.stepAt q.job.q.pricking q.step)) (groupOpen q s) cause = true) (hcheck : isCheck cause = true)
    (hdetect : s.detectOnly hoop.toNat = true) (hopen : groupOpen q s = true) (hwrite : writeOut = false) :
    exec (.passGroupAbandon hoop step pos cause pass writeOut fixed) s =
      .next (passCommit q (some (cause, pass.toNat)) (countFixed q.phys (partFixed q fixed s) s)) := by
  have hat := partAt_of_part4 pos.isLt hq
  have hfixed := countFixed_booked q.phys (partFixed q fixed s) s
  have hlet : letThrough q cause writeOut (countFixed q.phys (partFixed q fixed s) s) = true := by
    unfold letThrough
    rw [hcheck, detectOnly_congr hfixed.img, hat.hoop, hdetect, hwrite]; rfl
  rw [exec_passGroupAbandon fixed hq writeOut happ hcause]
  exact congrArg Host.Outcome.next ((if_pos hlet).trans (if_pos ((hfixed.groupOpen q).trans hopen)))

/-- A check let through is one check more. -/
theorem checksIn_withUpset {checks : List (FaultClass × Nat)} {p : Nat} (hcheck : isCheck cause = true) :
    checksIn (withUpset checks (some (cause, p))) = checksIn checks + 1 := by
  unfold checksIn withUpset
  simp [hcheck]

end

/-- Settles O29: outside detect-only mode the part stops at the cause or at its own earlier fault; within it a pass group commits. -/
theorem physicalCausesStopParts : Obligations.PhysicalCausesStopParts := by
  intro hoop step pos cause pass writeOut fixed q s hq happ hcause
  have hat := partAt_of_part4 pos.isLt hq
  have hunits (t : State) (h : exec (.passGroupAbandon hoop step pos cause pass writeOut fixed) s = .next t) :
      OnlyUnits workUnits s t := by
    cases h
    exact (passAbandon_keeps ..).units _ rfl
  refine ⟨fun hheld halone => ?_, fun hcheck hdetect hopen hwrite => ?_⟩
  · have hlet := letThrough_eq_false (hat.hoop ▸ hheld)
    have hexec := exec_passGroupAbandon_stops fixed (pass := pass) hq writeOut happ hcause hlet
    obtain ⟨_, _, _, _, c, _, hall, hc⟩ :=
      stopPart_countFixed_stopped hat.toSeated halone cause pass.toNat (partFixed q fixed s)
    rw [partFixed_store] at hall
    have hclosed := hall.closed
    have hcount := hall.grown.counted
    rw [hat.hoop, hat.step, hat.pos] at hclosed
    refine ⟨_, hexec, hunits _ hexec, hall.boxKept ?_, hclosed, ?_, ?_, fun hcheck hearly => ?_⟩
    · simp [faultCounts, stopCounts]
    · simpa [faultCounts, stopCounts, Pi.single_apply] using hcount 0
    · simpa [faultCounts, stopCounts, Pi.single_apply] using hcount 4
    · rw [hc hearly] at hcount
      simpa [faultCounts, stopCounts, hcheck, Pi.single_apply] using hcount 3
  · intro g ps ws sats esc nonfin checks hdone
    have hexec := exec_passGroupAbandon_commits fixed (pass := pass) hq happ hcause hcheck hdetect hopen hwrite
    have hfixed := countFixed_booked q.phys (partFixed q fixed s) s
    have helse := countFixed_elsewhere q.phys (partFixed q fixed s) s
    rw [partFixed_store] at hfixed
    generalize countFixed q.phys (partFixed q fixed s) s = t at hexec hfixed helse
    have hhead : partGroup q t = (g, ps) := partGroup_congr hfixed.img q
    have hdone' := hfixed.passResult.trans hdone
    have hcommit := (passCommit_commits (upset := some (cause, pass.toNat)) hdone').after_booked hfixed helse
    rw [groupLanding, hhead, checksIn_withUpset hcheck] at hcommit
    refine ⟨_, hexec, hunits _ hexec, hcommit.box, hcommit.started, fun hpass => ?_, hcommit.counted⟩
    rw [← hat.hoop, ← hat.step, ← hat.pos]
    exact passCommit_closed hdone' (by rw [isAppend_congr hfixed.img, hpass])

end Sys2Proof.Machine
end

section
/-! What translations, reads and the ends of parts leave: the bytes of memory and the attention counters (R63, R161, R185). -/
namespace Sys2Proof.Machine

/-- DRAM, the shared stores and the attention counters of every hearth are the same. -/
structure Quiet (s t : State) : Prop where
  dram   : t.mem.dram = s.mem.dram
  shared : t.mem.shared = s.mem.shared
  att    : ∀ p, (t.hearth p).attCtr = (s.hearth p).attCtr

section
variable {s t u : State}

theorem Quiet.refl (s : State) : Quiet s s := ⟨rfl, rfl, fun _ => rfl⟩

theorem Quiet.trans (h : Quiet s t) (k : Quiet t u) : Quiet s u :=
  ⟨k.dram.trans h.dram, k.shared.trans h.shared, fun p => (k.att p).trans (h.att p)⟩

theorem Quiet.ite {c : Prop} [Decidable c] (h : Quiet s t) (k : Quiet s u) : Quiet s (if c then t else u) := by
  split <;> assumption

theorem Quiet.of_pair {α : Type} {p : α × State} {a : α} (h : p = (a, t)) (k : Quiet s p.2) : Quiet s t := by
  subst h; exact k

/-- What leaves every hearth and the memory. -/
theorem Quiet.of_hearths {m : Nat} (h : HearthsKept s t) (k : Keeps m s t) (h10 : m.testBit 10 = false := by rfl) : Quiet s t :=
  ⟨by rw [k.mem h10], by rw [k.mem h10], fun p => by rw [h.hearth]⟩

theorem Quiet.of_keeps {m : Nat} (k : Keeps m s t) (h9 : m.testBit 9 = false := by rfl) (h10 : m.testBit 10 = false := by rfl) :
    Quiet s t := .of_hearths (.of_keeps k h9) k h10

theorem Quiet.forEach {α : Type} {l : List α} {f : α → State → State} (hf : ∀ a t, Quiet t (f a t)) (s : State) :
    Quiet s (forEach l f s) := forEach_invariant (P := Quiet s) (fun a t h => h.trans (hf a t)) l s (.refl s)

theorem Quiet.updHearth (p : Nat) (f : Hearth → Hearth) (s : State) (hf : ∀ x, (f x).attCtr = x.attCtr) :
    Quiet s (updHearth p f s) := by
  refine ⟨rfl, rfl, fun k => ?_⟩
  by_cases hk : k = p
  · rw [hk, updHearth_self, hf]
  · rw [updHearth_ne _ _ _ hk]

theorem updHoop_quiet (n : Nat) (f : HoopUnit → HoopUnit) (s : State) : Quiet s (updHoop n f s) := ⟨rfl, rfl, fun _ => rfl⟩

theorem updJob_quiet (n : Nat) (f : Job → Job) (s : State) : Quiet s (updJob n f s) := updHoop_quiet ..

theorem updChan_quiet (n : Nat) (f : Channel → Channel) (s : State) : Quiet s (updChan n f s) := ⟨rfl, rfl, fun _ => rfl⟩

end

/-! ### Translations and reads -/

theorem touchBlock_quiet (c block : Nat) (s : State) : Quiet s (touchBlock c block s) :=
  .ite (updChan_quiet ..) ((updChan_quiet ..).trans (updChan_quiet ..))

theorem countAccess_quiet (write : Bool) (a n : Nat) (s : State) : Quiet s (countAccess write a n s) :=
  .forEach (fun _ _ => ((updChan_quiet ..).trans (touchBlock_quiet ..)).trans (updChan_quiet ..)) s

theorem bumpXlat_quiet (h : Half) (w k : Nat) (s : State) : Quiet s (bumpXlat h w k s) := .of_keeps (bumpXlat_keeps ..)

theorem countWalk_quiet (r : Reader) (ctx va : Nat) (s : State) : Quiet s (countWalk r ctx va s) :=
  ((Quiet.of_keeps (fresh_keeps s)).trans (bumpXlat_quiet ..)).trans (.forEach (fun _ _ => countAccess_quiet ..) _)

theorem setCache_quiet (u : CacheUnit) (c : List Leaf) (s : State) : Quiet s (setCache u c s) := by
  cases u with
  | hearth p => exact .updHearth _ _ s fun _ => rfl
  | port n => exact ⟨rfl, rfl, fun _ => rfl⟩
  | copyEngine => exact ⟨rfl, rfl, fun _ => rfl⟩

theorem cacheInsert_quiet (u : CacheUnit) (l : Leaf) (s : State) : Quiet s (cacheInsert u l s) :=
  .ite (setCache_quiet ..) ((Quiet.of_keeps (fresh_keeps s)).trans (setCache_quiet ..))

theorem walkFor_quiet (r : Reader) (ctx va : Nat) (write : Bool) (s : State) : Quiet s (walkFor r ctx va write s).2 := by
  have hwalk := countWalk_quiet r ctx va s
  unfold walkFor
  dsimp only
  split
  · exact hwalk.trans (bumpXlat_quiet ..)
  · split
    · exact hwalk.trans (bumpXlat_quiet ..)
    · split
      · exact hwalk.trans (cacheInsert_quiet ..)
      · exact hwalk

theorem translate_quiet (r : Reader) (ctx va : Nat) (write : Bool) (s : State) : Quiet s (translate r ctx va write s).2 := by
  unfold translate
  split
  · exact walkFor_quiet ..
  · split
    · split
      · exact .refl s
      · exact bumpXlat_quiet ..
    · exact (bumpXlat_quiet ..).trans (walkFor_quiet ..)

theorem readPieces_quiet (r : Reader) (ctx : Nat) (l : List (Nat × Nat)) (s : State) : Quiet s (readPieces r ctx l s).2 := by
  induction l generalizing s with
  | nil => exact .refl s
  | cons x l ih =>
    have htrans := translate_quiet r ctx x.1 false s
    unfold readPieces
    split
    · exact .of_pair ‹_› htrans
    · next pa s1 heq =>
      have hfresh : Quiet s (fresh s1).2 := (Quiet.of_pair heq htrans).trans (.of_keeps (fresh_keeps s1))
      dsimp only
      split
      · exact hfresh.trans (.of_keeps (noteUnmapped_keeps ..))
      · have hrest := (hfresh.trans (countAccess_quiet false pa x.2 _)).trans (ih _)
        split
        · exact .of_pair ‹_› hrest
        · exact .of_pair ‹_› hrest

theorem vread_quiet (r : Reader) (ctx va n : Nat) (s : State) : Quiet s (vread r ctx va n s).2 := readPieces_quiet ..

/-! ### Ends of parts and jobs -/

theorem readFrames_quiet (h : Half) (ctx : Nat) (d : Entry) (args : List Word) (l : List Nat) (s : State) :
    Quiet s (readFrames h ctx d args l s).2 := by
  induction l generalizing s with
  | nil => exact .refl s
  | cons k l ih => exact (vread_quiet ..).trans (ih _)

theorem holdForStep_quiet (hoop : Nat) (q : QJob) (args : Option (List Word)) (n : Nat) (s : State) :
    Quiet s (holdForStep hoop q args n s) := by
  unfold holdForStep
  cases args with
  | none => exact .of_keeps (holdRecord_keeps ..)
  | some a => exact (readFrames_quiet ..).trans (.of_keeps (holdRecord_keeps ..))

theorem closeJob_quiet (hoop : Nat) (q : QJob) (args : Option (List Word)) (next status eff charge : Nat) (s : State) :
    Quiet s (closeJob hoop q args next status eff charge s) := by
  have hholds : Quiet s (if holdsAfter status then jobHolds hoop q args next s else s) :=
    .ite (.forEach (fun _ _ => holdForStep_quiet ..) s) (.refl s)
  exact (hholds.trans (.of_keeps (sealHands_keeps ..))).trans (.of_hearths (finalReply_hearths ..) (finalReply_keeps ..))

theorem admitJob_quiet (hoop : Nat) (q : QJob) (s : State) : Quiet s (admitJob hoop q s) := by
  unfold admitJob
  extract_lets img s1 h s2 rec s3 s4 ticks st j
  have h2 : Quiet s s2 := ⟨rfl, rfl, fun _ => rfl⟩
  have h3 : Quiet s2 s3 := by
    refine .ite ?_ (.of_keeps (recordEntry_keeps ..))
    split
    · exact ⟨rfl, rfl, fun _ => rfl⟩
    · exact .refl s2
  have h4 : Quiet s s4 := (h2.trans h3).trans (.of_keeps (bumpDamp_keeps ..))
  exact .ite (h4.trans (closeJob_quiet ..)) (h4.trans (updHoop_quiet ..))

theorem tryAdmit_quiet (hoop : Nat) (s : State) : Quiet s (tryAdmit hoop s) := by
  unfold tryAdmit
  generalize (s.hoop hoop).queue.length + 1 = n
  induction n generalizing s with
  | zero => exact .refl s
  | succ n ih =>
    unfold admitUpTo
    refine .ite (.refl s) ?_
    split
    · exact .refl s
    · exact (admitJob_quiet ..).trans (ih _)

theorem endJob_quiet (hoop status eff : Nat) (s : State) : Quiet s (endJob hoop status eff s) := by
  unfold endJob
  split
  · exact .refl s
  · exact (((closeJob_quiet ..).trans (updHoop_quiet ..)).trans (updHoop_quiet ..)).trans (tryAdmit_quiet ..)

theorem settleJob_quiet (hoop : Nat) (s : State) : Quiet s (settleJob hoop s) := by
  unfold settleJob
  split
  · exact .refl s
  · refine .ite (.refl s) ?_
    split
    · exact .ite (endJob_quiet ..) (.refl s)
    · exact endJob_quiet ..
    all_goals exact .refl s

theorem applyPost_quiet (e : Entry) (args : List Word) (i : Nat) (s : State) : Quiet s (applyPost e args i s) :=
  .of_hearths (applyPost_hearths ..) (applyPost_keeps ..)

theorem stepEnd_quiet (hoop n : Nat) (faulted : Bool) (s : State) : Quiet s (stepEnd hoop n faulted s) := by
  unfold stepEnd
  split
  · exact .refl s
  · exact ((updJob_quiet ..).trans (.ite ((applyPost_quiet ..).trans (applyPost_quiet ..)) (.refl _))).trans (settleJob_quiet ..)

theorem partEnd_quiet (hoop n pos : Nat) (s : State) : Quiet s (partEnd hoop n pos s) := by
  unfold partEnd
  extract_lets s1
  have h1 : Quiet s s1 := updJob_quiet ..
  split
  · exact h1.trans (.ite (stepEnd_quiet ..) (.refl s1))
  · exact h1

theorem partFault_quiet (hoop n pos : Nat) (s : State) : Quiet s (partFault hoop n pos s) :=
  ((updJob_quiet ..).trans (updJob_quiet ..)).trans (partEnd_quiet ..)

/-! ### Counters of a commit -/

theorem bumpHearth_quiet (p w k : Nat) (s : State) : Quiet s (bumpHearth p w k s) := .updHearth p _ s fun _ => rfl

theorem countFixed_quiet (p : Nat) (c : Corrected) (s : State) : Quiet s (countFixed p c s) :=
  (bumpHearth_quiet ..).trans (.forEach (fun _ _ => updChan_quiet ..) _)

theorem noteCheck_quiet (q : Part4) (e : FaultClass × Nat) (s : State) : Quiet s (noteCheck q e s) :=
  (Quiet.ite (bumpHearth_quiet ..) (.refl s)).trans (.of_keeps (partRecord_keeps ..))

theorem commitPart_quiet (q : Part4) (rounds sats esc nonfin : Nat) (checks : List (FaultClass × Nat)) (s : State) :
    Quiet s (commitPart q rounds sats esc nonfin checks s) := by
  have hcounts : Quiet s (bumpHearth q.phys 0 1 (bumpHearth q.phys 2 rounds (addCharge q.hoop rounds s))) :=
    ((updJob_quiet ..).trans (bumpHearth_quiet ..)).trans (bumpHearth_quiet ..)
  have hvalues (t : State) : Quiet t (countValues q.phys sats esc nonfin t) :=
    ((bumpHearth_quiet ..).trans (bumpHearth_quiet ..)).trans (bumpHearth_quiet ..)
  exact (hcounts.trans (hvalues _)).trans (.forEach (noteCheck_quiet q) _)

end Sys2Proof.Machine
end

section
/-! Runs of FORWARD and BACKWARD that read alike count the same blocks (R151, R161). -/
namespace Sys2Proof.Machine

/-- Two states that every read sees alike, with the same attention counters at a hearth. -/
structure Twin (p : Nat) (s t : State) : Prop extends Alike s t where
  att : (t.hearth p).attCtr = (s.hearth p).attCtr

theorem Twin.bumpAtt {p : Nat} {s t : State} (h : Twin p s t) (n w k : Nat) : Twin p (bumpAtt n w k s) (bumpAtt n w k t) := by
  refine ⟨h.around (bumpAtt_alike ..) (bumpAtt_alike ..), ?_⟩
  unfold Machine.bumpAtt
  by_cases hn : p = n
  · rw [hn, updHearth_self, updHearth_self, ← hn, h.att]
  · rw [updHearth_ne _ _ _ hn, updHearth_ne _ _ _ hn, h.att]

/-- Two runs with the same answer, that leave twins. -/
structure SameRun (p : Nat) {α : Type} (x y : α × State) : Prop where
  answer : y.1 = x.1
  twin   : Twin p x.2 y.2

theorem SameRun.of_twin {p : Nat} {α : Type} {a : α} {s t : State} (h : Twin p s t) : SameRun p (a, s) (a, t) := ⟨rfl, h⟩

theorem SameRun.exists_eq {p : Nat} {α : Type} {x y : α × State} (h : SameRun p x y) :
    ∃ a s t, x = (a, s) ∧ y = (a, t) ∧ Twin p s t := ⟨x.1, x.2, y.2, rfl, Prod.ext h.answer rfl, h.twin⟩

/-! ### Blocks of keys and values -/

section
variable {p : Nat} {s t : State} (h : Twin p s t)
include h

theorem Twin.vread (r : Reader) (ctx va n : Nat) : SameRun p (vread r ctx va n s) (vread r ctx va n t) := by
  have hread : SameAnswer (Machine.vread r ctx va n s) (Machine.vread r ctx va n t) := h.toAlike.readPieces ..
  have hatt := ((vread_quiet r ctx va n t).att p).trans (h.att.trans ((vread_quiet r ctx va n s).att p).symm)
  exact ⟨hread.answer, hread.alike, hatt⟩

variable (c : AtJob)

theorem Twin.cacheRead (va n : Nat) : SameRun p (cacheRead c va n s) (cacheRead c va n t) := by
  obtain ⟨bs, s1, t1, hs, ht, h1⟩ := (h.vread c.unit c.ctx va n).exists_eq
  unfold Machine.cacheRead
  rw [hs, ht]
  cases bs with
  | error f => exact .of_twin h1
  | ok bs => exact .of_twin (h1.bumpAtt ..)

theorem Twin.blockAllowed (b : Nat) : SameRun p (blockAllowed c b s) (blockAllowed c b t) := by
  obtain ⟨bs, s1, t1, hs, ht, h1⟩ := (h.cacheRead c (c.sq.s + 256 * b) 256).exists_eq
  unfold Machine.blockAllowed
  rw [hs, ht]
  split
  · exact .of_twin h
  · cases bs <;> exact .of_twin h1

theorem Twin.readBlock (b : Nat) (rows : List (List Bool)) : SameRun p (readBlock c b rows s) (readBlock c b rows t) := by
  obtain ⟨ks, s1, t1, hs, ht, h1⟩ := (h.cacheRead c (keyAddr c.e c.sq (atKvhead c.e) (128 * b)) (keyBlock c.e)).exists_eq
  unfold Machine.readBlock
  rw [hs, ht]
  cases ks with
  | error f => exact .of_twin h1
  | ok ks =>
    obtain ⟨vs, s2, t2, hs2, ht2, h2⟩ := (h1.cacheRead c (valAddr c.e c.sq (atKvhead c.e) (128 * b) 0) (valBlock c.e)).exists_eq
    dsimp only
    rw [hs2, ht2]
    cases vs <;> exact .of_twin h2

theorem Twin.fetchBlock (b : Nat) : SameRun p (fetchBlock c b s) (fetchBlock c b t) := by
  obtain ⟨rows, s1, t1, hs, ht, h1⟩ := (h.blockAllowed c b).exists_eq
  unfold Machine.fetchBlock
  rw [hs, ht]
  cases rows with
  | error f => exact .of_twin h1
  | ok rows =>
    dsimp only
    split
    · exact .of_twin (h1.bumpAtt ..)
    · exact h1.readBlock c b rows

end

theorem Twin.foldBlocks {p : Nat} {s t : State} (h : Twin p s t) {α : Type} (c : AtJob) (f : Blk → α → Except FaultClass α)
    (skip : Nat → α → α) (l : List Nat) (a : α) : SameRun p (foldBlocks c f skip l a s) (foldBlocks c f skip l a t) := by
  induction l generalizing a s t with
  | nil => exact .of_twin h
  | cons b l ih =>
    obtain ⟨blk, s1, t1, hs, ht, h1⟩ := (h.fetchBlock c b).exists_eq
    unfold Machine.foldBlocks
    rw [hs, ht]
    match blk with
    | .error e => exact .of_twin h1
    | .ok none => exact ih h1 _
    | .ok (some blk) =>
      dsimp only
      cases f blk a with
      | error e => exact .of_twin h1
      | ok a => exact ih (h1.bumpAtt ..) _

/-! ### FORWARD and BACKWARD -/

theorem SameRun.liveStep {p : Nat} {x y : Except FaultClass (List Bool) × State} (h : SameRun p x y) (c : AtJob) (b : Nat) :
    SameRun p (liveStep c x b) (liveStep c y b) := by
  obtain ⟨l, s, t, rfl, rfl, hst⟩ := h.exists_eq
  cases l with
  | error f => exact .of_twin hst
  | ok l =>
    obtain ⟨rows, s1, t1, hs, ht, h1⟩ := (hst.blockAllowed c b).exists_eq
    unfold Machine.liveStep
    dsimp only
    rw [hs, ht]
    cases rows with
    | error f => exact .of_twin h1
    | ok rows => exact .of_twin hst

section
variable {p : Nat} {s t : State} (h : Twin p s t) (c : AtJob)
include h

theorem Twin.liveRows : SameRun p (liveRows c s) (liveRows c t) := by
  rw [liveRows_eq, liveRows_eq]
  exact List.foldl_rel (SameRun.of_twin h) fun b _ _ _ hxy => hxy.liveStep c b

theorem Twin.forward (sc : AtScale) (blocks : List Nat) : SameRun p (forward c sc blocks s) (forward c sc blocks t) := by
  obtain ⟨xs, s1, t1, hs, ht, h1⟩ :=
    (h.foldBlocks c (forwardBlock c sc (queryRows c.rd c.e)) (fun _ a => a) blocks (forwardInit c.e, false)).exists_eq
  unfold Machine.forward
  rw [hs, ht]
  cases xs <;> exact .of_twin h1

theorem Twin.backBlocks (sc : AtScale) (live : List Bool) (i : BackIn) (blocks : List Nat) :
    SameRun p (backBlocks c sc live i blocks s) (backBlocks c sc live i blocks t) := by
  obtain ⟨x, s1, t1, hs, ht, h1⟩ := (h.foldBlocks c (backBlock c sc i) (backSkip c.e i) blocks (backInit c)).exists_eq
  unfold Machine.backBlocks
  rw [hs, ht]
  cases x <;> exact .of_twin h1

theorem Twin.backward (sc : AtScale) (blocks : List Nat) : SameRun p (backward c sc blocks s) (backward c sc blocks t) := by
  obtain ⟨live, s1, t1, hs, ht, h1⟩ := (h.liveRows c).exists_eq
  unfold Machine.backward
  rw [hs, ht]
  cases live with
  | error f => exact .of_twin h1
  | ok live => exact h1.backBlocks c sc live _ blocks

/-- FORWARD and BACKWARD answer the same in twins, and count the same. -/
theorem Twin.runAttend (q : Part4) : SameRun p (runAttend q s) (runAttend q t) := by
  unfold Machine.runAttend Machine.runBlocks
  rw [h.toAlike.atJobOf]
  dsimp only
  cases readAtScale (atJobOf q s).rd (atJobOf q s).e with
  | none => exact .of_twin h
  | some sc =>
    dsimp only
    split
    · exact h.backward ..
    · exact h.forward ..

end

/-- The counts of single-bit errors make a twin. -/
theorem countFixed_twin (p : Nat) (c : Corrected) (s : State) : Twin p s (countFixed p c s) :=
  ⟨countFixed_alike p c s, (countFixed_quiet p c s).att p⟩

end Sys2Proof.Machine
end

section
/-! FORWARD and BACKWARD commit whole or stop (R92, R99, R158, R159, R161). -/
namespace Sys2Proof.Machine

/-! ### A commit leaves the attention counters -/

theorem Hearth.write_attCtr (x : Hearth) (off : Nat) (bs : List Byte) : (x.write off bs).attCtr = x.attCtr := by
  induction bs generalizing x off with
  | nil => rfl
  | cons b t ih => exact (ih ..).trans rfl

/-- Steps that each leave the attention counters leave them together. -/
theorem Hearth.foldl_attCtr {α : Type} {f : Hearth → α → Hearth} (hf : ∀ x a, (f x a).attCtr = x.attCtr) (l : List α) (x : Hearth) :
    (l.foldl f x).attCtr = x.attCtr :=
  List.foldlRecOn (motive := fun y => y.attCtr = x.attCtr) l f rfl fun y hy a _ => (hf y a).trans hy

theorem Hearth.committed_attCtr (x : Hearth) (g : Landing) (ws : List (Nat × List Byte)) (salt : Nat) :
    (x.committed g ws salt).attCtr = x.attCtr := by
  have hswap (y : Hearth) : (y.swapPages g.land g.dest g.pages).attCtr = y.attCtr := by
    unfold Hearth.swapPages; exact foldl_attCtr (by intro _ _; rfl) _ y
  have hland (y : Hearth) : (y.landed g.land ws).attCtr = y.attCtr := foldl_attCtr (fun _ _ => write_attCtr ..) _ y
  have hscramble : (x.scramble g.land g.pages salt).attCtr = x.attCtr := by
    unfold Hearth.scramble; exact foldl_attCtr (by intro _ _; rfl) _ x
  exact (hswap _).trans ((hland _).trans hscramble)

theorem commitPages_attCtr (p : Nat) (g : Landing) (ws : List (Nat × List Byte)) (s : State) :
    ((commitPages p g ws s).hearth p).attCtr = (s.hearth p).attCtr := by
  rw [commitPages_hearth]; exact Hearth.committed_attCtr ..

/-! ### Commits among bookkeeping -/

section
variable {q : Part4} {g : Landing} {ws : List (Nat × List Byte)} {k : Nat} {n m : Nat → Nat} {s t u : State}

/-- Bookkeeping after a commit. -/
theorem Commits.before_booked (hc : Commits q g ws k n s t) (h : Booked q.phys m t u) (he : Elsewhere q.phys t u) :
    Commits q g ws k (n + m) s u := by
  obtain ⟨salt, hsalt⟩ := boxCommitted_iff.1 hc.box
  exact ⟨boxCommitted_iff.2 ⟨salt, hsalt.trans (Hearth.sameBox_of_box h.box)⟩, by rw [h.started, hc.started],
    hc.grown.trans h.grown, hc.elsewhere.trans he⟩

/-- A commit exchanges the same bytes, seen from before bookkeeping of its hearth. -/
theorem Booked.boxCommitted {p : Nat} (h : Booked p n s t) (hc : BoxCommitted p g ws t u) : BoxCommitted p g ws s u := by
  obtain ⟨salt, hsalt⟩ := boxCommitted_iff.1 hc
  exact boxCommitted_iff.2 ⟨salt, ((Hearth.sameBox_of_box h.box).committed ..).trans hsalt⟩

/-- What a commit counts, from the growth of its hearth's counters. -/
theorem Grown.commitCounted {p fixed rounds checks sats esc nonfin : Nat}
    (h : Grown p (Pi.single 4 fixed + commitCounts rounds checks sats esc nonfin) s t) :
    CommitCounted p rounds checks fixed sats esc nonfin s t := by
  have hw := h.counted
  simp only [commitCounts, Pi.add_apply, Pi.single_apply] at hw
  exact ⟨by simpa using hw 0, by simpa using hw 1, by simpa using hw 2, by simpa using hw 3, by simpa using hw 4,
    by simpa using hw 5, by simpa using hw 6, by simpa using hw 7⟩

end

/-! ### The end of FORWARD and BACKWARD -/

/-- Checks that a run let through (R304). -/
def AtOut.checks (o : AtOut) : List (FaultClass × Nat) := if o.checked then [(.attendCheck, 0)] else []

theorem AtOut.checksIn_checks (o : AtOut) : checksIn o.checks = if o.checked = true then 1 else 0 := by
  unfold AtOut.checks checksIn
  cases o.checked <;> rfl

/-- The rows without an allowed key and the BACKWARD step of a run counted (R161). -/
def noteAttend (q : Part4) (e : Entry) (o : AtOut) (s : State) : State :=
  let t := bumpAtt q.phys 2 o.empty s
  if atMode e = 2 then bumpAtt q.phys 7 1 t else t

/-- Blocks that a part's run computes (R161). -/
def blocksRun (q : Part4) (s : State) : Nat :=
  Tab.get 0 ((runAttend q s).2.hearth q.phys).attCtr 0 - Tab.get 0 (s.hearth q.phys).attCtr 0

/-- A run that commits, but for its end: its pages exchanged, its rounds and rows counted. -/
def attendCounted (q : Part4) (e : Entry) (blocks : Nat) (o : AtOut) (s : State) : State :=
  noteAttend q e o (commitPart q (attendRounds e blocks + Config.attendWait e blocks) o.sats 0 0 o.checks
    (commitPages q.phys (atLanding e) o.writes s))

section
variable {q : Part4} {s t : State} {o : AtOut} (e : Entry) (blocks : Nat)

theorem attendCommit_of_ok (h : (runAttend q s).1 = .ok o) : attendCommit q none s =
    partEnd q.hoop q.step q.pos (attendCounted q (atJobOf q s).e (blocksRun q s) o (runAttend q s).2) := by
  have hchecks : withUpset o.checks none = o.checks := List.append_nil _
  unfold attendCommit attendCounted blocksRun
  rw [← hchecks]
  generalize runAttend q s = run at h ⊢
  obtain ⟨res, u⟩ := run
  cases h
  rfl

theorem attendCommit_of_error {c : FaultClass} (h : (runAttend q s).1 = .error c) :
    attendCommit q none s = attendFault q (atJobOf q s).e c (runAttend q s).2 := by
  unfold attendCommit
  generalize runAttend q s = run at h ⊢
  obtain ⟨res, u⟩ := run
  cases h
  rfl

theorem noteAttend_attCtr : ((noteAttend q e o s).hearth q.phys).attCtr =
    if atMode e = 2 then bump (bump (s.hearth q.phys).attCtr 2 o.empty) 7 1 else bump (s.hearth q.phys).attCtr 2 o.empty := by
  unfold noteAttend bumpAtt
  split
  · rw [updHearth_self, updHearth_self]
  · rw [updHearth_self]

theorem noteAttend_booked : Booked q.phys 0 s (noteAttend q e o s) :=
  ((bumpAtt_readsOnly ..).trans (.ite (bumpAtt_readsOnly ..) (.refl _))).booked q.phys

theorem noteAttend_elsewhere : Elsewhere q.phys s (noteAttend q e o s) := by
  unfold noteAttend
  split
  · exact (updHearth_elsewhere ..).trans (updHearth_elsewhere ..)
  · exact updHearth_elsewhere ..

/-- A run that commits exchanges its writes and counts its rounds. -/
theorem attendCounted_commits : Commits q (atLanding e) o.writes 0
    (commitCounts (attendRounds e blocks + Config.attendWait e blocks) (checksIn o.checks) o.sats 0 0) s
    (attendCounted q e blocks o s) :=
  ((commitPages_commits ..).before_booked (noteAttend_booked e) (noteAttend_elsewhere e)).congr fun _ => Nat.add_zero _

theorem attendCounted_attCtr : ((attendCounted q e blocks o s).hearth q.phys).attCtr =
    if atMode e = 2 then bump (bump (s.hearth q.phys).attCtr 2 o.empty) 7 1 else bump (s.hearth q.phys).attCtr 2 o.empty := by
  unfold attendCounted
  rw [noteAttend_attCtr, (commitPart_quiet ..).att, commitPages_attCtr]

end

/-- The attention counters of R161 that a run's end leaves or moves. -/
structure RunCounted (p : Nat) (e : Entry) (o : AtOut) (s t : State) : Prop where
  blocks   : Tab.get 0 (t.hearth p).attCtr 0 = Tab.get 0 (s.hearth p).attCtr 0
  empty    : AttCounted p 2 o.empty s t
  backward : AttCounted p 7 (if atMode e = 2 then 1 else 0) s t

theorem RunCounted.of_attCtr {p : Nat} {e : Entry} {o : AtOut} {s t : State} (h : (t.hearth p).attCtr =
    if atMode e = 2 then bump (bump (s.hearth p).attCtr 2 o.empty) 7 1 else bump (s.hearth p).attCtr 2 o.empty) :
    RunCounted p e o s t := by
  by_cases hm : atMode e = 2
  · rw [if_pos hm] at h
    refine ⟨?_, ?_, ?_⟩
    · rw [h, get_bump_ne _ _ (by decide), get_bump_ne _ _ (by decide)]
    · rw [AttCounted, h, get_bump_ne _ _ (by decide), get_bump_self, Nat.mod_mod]
    · rw [AttCounted, h, get_bump_self, get_bump_ne _ _ (by decide), Nat.mod_mod, if_pos hm]
  · rw [if_neg hm] at h
    refine ⟨?_, ?_, ?_⟩
    · rw [h, get_bump_ne _ _ (by decide)]
    · rw [AttCounted, h, get_bump_self, Nat.mod_mod]
    · rw [AttCounted, h, get_bump_ne _ _ (by decide), if_neg hm, Nat.add_zero]

/-- A run that its own values or its memory stop keeps its destination. -/
theorem attendFault_stopped {q : Part4} {s : State} (hseat : Seated q s) (halone : Alone q s) (e : Entry) (c : FaultClass) :
    ∃ rounds, Stopped q (atLanding e) 0 (stopCounts c rounds) s (attendFault q e c s) :=
  ⟨_, abandonPart_stopped hseat halone (atLanding e) c 0 _⟩

theorem exec_attendCommit {hoop : BitVec 4} {step : BitVec 20} {pos : BitVec 3} {q : Part4} {s : State} (fixed : Corrected)
    (hq : s.part4 [kAttend] hoop.toNat step.toNat pos.toNat = some q) (happ : isAppend q s = false) :
    exec (.attendCommit hoop step pos fixed) s = .next (attendCommit q none (countFixed q.phys fixed s)) := by
  change execAttendCommit hoop step pos fixed s = _
  rw [execAttendCommit, hq]
  exact congrArg _ (if_neg (by rw [happ]; decide))

/-- FORWARD and BACKWARD commit whole or are abandoned whole. -/
theorem attentionRunsWholeOrNot : AttentionRunsWholeOrNot := by
  intro hoop step pos fixed q s hq happ e run blocks
  have hat := partAt_of_part4 pos.isLt hq
  have hunits : OnlyUnits workUnits s (attendCommit q none (countFixed q.phys fixed s)) :=
    ((countFixed_keeps ..).up.trans (attendCommit_keeps ..)).units _ rfl
  rw [exec_attendCommit fixed hq happ]
  have hfixed := countFixed_booked q.phys fixed s
  have htwin := countFixed_twin q.phys fixed s
  generalize countFixed q.phys fixed s = t at hunits hfixed htwin ⊢
  have hdesc : (atJobOf q t).e = e := congrArg AtJob.e (htwin.atJobOf q)
  have hrun : SameRun q.phys run (runAttend q t) := htwin.runAttend q
  have hblocks : blocksRun q t = blocks := by rw [blocksRun, hrun.twin.att, htwin.att]
  have hreads : ReadsOnly t (runAttend q t).2 := runBlocks_readsOnly ..
  have hbooked := hfixed.trans (hreads.booked q.phys)
  refine ⟨fun o hok => ?_, fun c hfault halone => ?_⟩
  · have hend := attendCommit_of_ok (hrun.answer.trans hok)
    rw [hdesc, hblocks] at hend
    rw [hend] at hunits ⊢
    have hcommit := (attendCounted_commits (q := q) (s := (runAttend q t).2) (o := o) e blocks).before_hearths
      (partEnd_hearths q.hoop q.step q.pos _)
    have hctr := (partEnd_quiet q.hoop q.step q.pos _).att q.phys |>.trans
      (attendCounted_attCtr (q := q) (s := (runAttend q t).2) (o := o) e blocks)
    rw [hrun.twin.att] at hctr
    have hcounted := RunCounted.of_attCtr hctr
    rw [← o.checksIn_checks, ← hat.hoop, ← hat.step, ← hat.pos]
    exact ⟨_, rfl, hunits, hbooked.boxCommitted hcommit.box, ((hbooked.grown.trans hcommit.grown).congr fun _ => rfl).commitCounted,
      hcounted.blocks, hcounted.empty, hcounted.backward, partEnd_openPart _⟩
  · have hend := attendCommit_of_error (hrun.answer.trans hfault)
    rw [hdesc] at hend
    rw [hend] at hunits ⊢
    have hstand := hbooked.toPartsStand
    obtain ⟨rounds, hstop⟩ := attendFault_stopped (hat.toSeated.stands hstand) (hstand.alone halone) e c
    have hall := hstop.after_booked hbooked
    have hclosed := hall.closed
    rw [hat.hoop, hat.step, hat.pos] at hclosed
    exact ⟨_, rfl, hunits, hall.boxKept (by simp [stopCounts]), hclosed⟩

end Sys2Proof.Machine
end

section
/-! Writes through translation (R154, R182, R192): what they leave, and that they act alike on states that reads see alike. -/
namespace Sys2Proof.Machine

/-! ### What probes and writes leave -/

/-- What a translation leaves: jobs, positions, the bytes of memory, and of every hearth all but its cache. -/
structure LooksOnly (s t : State) : Prop extends ReadsOnly s t, Quiet s t

/-- What a write through translation leaves: jobs, positions, and of every hearth all but its cache (R178). -/
structure WritesOnly (s t : State) : Prop extends ReadsOnly s t where
  att : ∀ p, (t.hearth p).attCtr = (s.hearth p).attCtr

section
variable {s t u : State}

theorem LooksOnly.refl (s : State) : LooksOnly s s := ⟨.refl s, .refl s⟩

theorem LooksOnly.trans (h : LooksOnly s t) (k : LooksOnly t u) : LooksOnly s u :=
  ⟨h.toReadsOnly.trans k.toReadsOnly, h.toQuiet.trans k.toQuiet⟩

theorem LooksOnly.of_pair {α : Type} {p : α × State} {a : α} (h : p = (a, t)) (k : LooksOnly s p.2) : LooksOnly s t := by
  subst h; exact k

theorem LooksOnly.writesOnly (h : LooksOnly s t) : WritesOnly s t := ⟨h.toReadsOnly, h.att⟩

theorem WritesOnly.refl (s : State) : WritesOnly s s := ⟨.refl s, fun _ => rfl⟩

theorem WritesOnly.trans (h : WritesOnly s t) (k : WritesOnly t u) : WritesOnly s u :=
  ⟨h.toReadsOnly.trans k.toReadsOnly, fun p => (k.att p).trans (h.att p)⟩

theorem WritesOnly.of_pair {α : Type} {p : α × State} {a : α} (h : p = (a, t)) (k : WritesOnly s p.2) : WritesOnly s t := by
  subst h; exact k

theorem WritesOnly.of_keeps {m : Nat} (k : Keeps m s t) (h5 : m.testBit 5 = false := by rfl) (h9 : m.testBit 9 = false := by rfl) :
    WritesOnly s t := ⟨.of_keeps k h5 h9, fun p => by rw [(HearthsKept.of_keeps k h9).hearth]⟩

end

theorem translate_looksOnly (r : Reader) (ctx va : Nat) (write : Bool) (s : State) : LooksOnly s (translate r ctx va write s).2 :=
  ⟨translate_readsOnly .., translate_quiet ..⟩

theorem vprobe_looksOnly (r : Reader) (ctx : Nat) (write : Bool) (l : List (Nat × Nat)) (s : State) :
    LooksOnly s (vprobe r ctx write l s).2 := by
  induction l generalizing s with
  | nil => exact .refl s
  | cons x l ih =>
    have htrans := translate_looksOnly r ctx x.1 write s
    unfold vprobe
    split
    · exact .of_pair ‹_› htrans
    · exact (LooksOnly.of_pair ‹_› htrans).trans (ih _)

theorem probeAll_looksOnly (r : Reader) (ctx : Nat) (l : List (Nat × List Byte)) (s : State) :
    LooksOnly s (probeAll r ctx l s).2 := by
  induction l generalizing s with
  | nil => exact .refl s
  | cons x l ih =>
    have hprobe := vprobe_looksOnly r ctx true (pieces x.1 x.2.length) s
    unfold probeAll
    split
    · exact .of_pair ‹_› hprobe
    · exact (LooksOnly.of_pair ‹_› hprobe).trans (ih _)

theorem writePieces_writesOnly (r : Reader) (ctx : Nat) (l : List (Nat × Nat)) (bs : List Byte) (s : State) :
    WritesOnly s (writePieces r ctx l bs s).2 := by
  induction l generalizing bs s with
  | nil => exact .refl s
  | cons x l ih =>
    have htrans := (translate_looksOnly r ctx x.1 true s).writesOnly
    unfold writePieces
    split
    · exact .of_pair ‹_› htrans
    · next pa s1 heq =>
      have hput : WritesOnly s (physWrite pa (bs.take x.2) (countAccess true pa x.2 s1)).2 :=
        ((WritesOnly.of_pair heq htrans).trans (.of_keeps (countAccess_keeps ..))).trans (.of_keeps (physWrite_keeps ..))
      split
      · exact (WritesOnly.of_pair ‹_› hput).trans (.of_keeps (noteUnmapped_keeps ..))
      · exact (WritesOnly.of_pair ‹_› hput).trans (ih ..)

theorem writeAll_writesOnly (r : Reader) (ctx : Nat) (l : List (Nat × List Byte)) (s : State) :
    WritesOnly s (writeAll r ctx l s).2 := by
  induction l generalizing s with
  | nil => exact .refl s
  | cons x l ih =>
    have hwrite : WritesOnly s (vwrite r ctx x.1 x.2 s).2 := writePieces_writesOnly ..
    unfold writeAll
    split
    · exact .of_pair ‹_› hwrite
    · exact (WritesOnly.of_pair ‹_› hwrite).trans (ih _)

theorem writeTokens_writesOnly (c : AtJob) (ws : Nat → List (Nat × List Byte)) (n k : Nat) (s : State) :
    WritesOnly s (writeTokens c ws n k s).2.2 := by
  induction n generalizing k s with
  | zero => exact .refl s
  | succ n ih =>
    have hwrite := writeAll_writesOnly c.unit c.ctx (ws k) s
    unfold writeTokens
    split
    · exact .of_pair ‹_› hwrite
    · exact (WritesOnly.of_pair ‹_› hwrite).trans (ih ..)

theorem scrambleToken_writesOnly (c : AtJob) (ws : List (Nat × List Byte)) (s : State) : WritesOnly s (scrambleToken c ws s) :=
  (WritesOnly.of_keeps (fresh_keeps s)).trans (writeAll_writesOnly ..)

/-- Tokens that no fault stops are all written. -/
theorem writeTokens_count {c : AtJob} {ws : Nat → List (Nat × List Byte)} {n k : Nat} {s : State}
    (h : (writeTokens c ws n k s).2.1 = none) : (writeTokens c ws n k s).1 = k + n := by
  induction n generalizing k s with
  | zero => rfl
  | succ n ih =>
    unfold writeTokens at h ⊢
    split at h
    · cases h
    · exact (ih h).trans (by omega)

/-! ### The same writes on both sides -/

/-- Check bytes written anew change nothing else of the memory. -/
theorem setChecks_eq (c co n : Nat) (m : Mem) : ∃ k, setChecks c co n m = { m with check := k } := by
  refine List.foldlRecOn (motive := fun x : Mem => ∃ k, x = { m with check := k }) (List.range n) _ ⟨m.check, rfl⟩ ?_
  rintro x ⟨k, rfl⟩ i _
  exact ⟨_, rfl⟩

/-- Bytes written in a channel change nothing but its data and check bytes. -/
theorem putDram_eq (c co : Nat) (bs : List Byte) (s : State) : ∃ k,
    putDram c co bs s = { s with mem := { s.mem with dram := s.mem.dram.writeN (dramKey c co) bs, check := k } } := by
  obtain ⟨k, hk⟩ := setChecks_eq c co (ceilDiv (co % 8 + bs.length) 8) { s.mem with dram := s.mem.dram.writeN (dramKey c co) bs }
  exact ⟨k, congrArg (fun m => { s with mem := m }) hk⟩

theorem Alike.putLoc {s t : State} (h : Alike s t) (l : Loc) (b : Byte) : Alike (putLoc l b s) (putLoc l b t) := by
  cases l with
  | dram c co =>
    obtain ⟨ks, hs⟩ := putDram_eq c co [b] s
    obtain ⟨kt, ht⟩ := putDram_eq c co [b] t
    unfold Machine.putLoc
    dsimp only
    rw [hs, ht]
    exact ⟨h.img, h.free, congrArg (Store.writeN · (dramKey c co) [b]) h.dram, h.shared, h.port, h.copy, h.chan, h.hearth⟩
  | shared o => exact ⟨h.img, h.free, h.dram, congrArg (Store.write · o b) h.shared, h.port, h.copy, h.chan, h.hearth⟩
  | host a => exact ⟨h.img, h.free, h.dram, h.shared, h.port, h.copy, h.chan, h.hearth⟩
  | fire p o => exact h

theorem Alike.physWrite {s t : State} (h : Alike s t) (a : Nat) (bs : List Byte) :
    SameAnswer (physWrite a bs s) (physWrite a bs t) := by
  induction bs generalizing a s t with
  | nil => exact .of_alike h
  | cons b bs ih =>
    unfold Machine.physWrite
    rw [h.locate]
    cases s.locate a with
    | error c => exact .of_alike h
    | ok l => exact ih (h.putLoc l b) _

theorem Alike.writePieces {s t : State} (h : Alike s t) (r : Reader) (ctx : Nat) (l : List (Nat × Nat)) (bs : List Byte) :
    SameAnswer (writePieces r ctx l bs s) (writePieces r ctx l bs t) := by
  induction l generalizing bs s t with
  | nil => exact .of_alike h
  | cons x l ih =>
    obtain ⟨pa, s1, t1, hs, ht, h1⟩ := (h.translate r ctx x.1 true).exists_eq
    unfold Machine.writePieces
    rw [hs, ht]
    cases pa with
    | none => exact .of_alike h1
    | some pa =>
      obtain ⟨res, s2, t2, hs2, ht2, h2⟩ := ((h1.countAccess true pa x.2).physWrite pa (bs.take x.2)).exists_eq
      dsimp only
      rw [hs2, ht2]
      cases res with
      | error c => exact .of_alike (h2.around (noteUnmapped_alike ..) (noteUnmapped_alike ..))
      | ok _ => exact ih h2 _

theorem Alike.writeAll {s t : State} (h : Alike s t) (r : Reader) (ctx : Nat) (l : List (Nat × List Byte)) :
    SameAnswer (writeAll r ctx l s) (writeAll r ctx l t) := by
  induction l generalizing s t with
  | nil => exact .of_alike h
  | cons x l ih =>
    have hwrite : SameAnswer (vwrite r ctx x.1 x.2 s) (vwrite r ctx x.1 x.2 t) := h.writePieces ..
    obtain ⟨res, s1, t1, hs, ht, h1⟩ := hwrite.exists_eq
    unfold Machine.writeAll
    rw [hs, ht]
    cases res with
    | error c => exact .of_alike h1
    | ok _ => exact ih h1

theorem Alike.vprobe {s t : State} (h : Alike s t) (r : Reader) (ctx : Nat) (write : Bool) (l : List (Nat × Nat)) :
    SameAnswer (vprobe r ctx write l s) (vprobe r ctx write l t) := by
  induction l generalizing s t with
  | nil => exact .of_alike h
  | cons x l ih =>
    obtain ⟨pa, s1, t1, hs, ht, h1⟩ := (h.translate r ctx x.1 write).exists_eq
    unfold Machine.vprobe
    rw [hs, ht]
    cases pa with
    | none => exact .of_alike h1
    | some _ => exact ih h1

theorem Alike.probeAll {s t : State} (h : Alike s t) (r : Reader) (ctx : Nat) (l : List (Nat × List Byte)) :
    SameAnswer (probeAll r ctx l s) (probeAll r ctx l t) := by
  induction l generalizing s t with
  | nil => exact .of_alike h
  | cons x l ih =>
    obtain ⟨ok, s1, t1, hs, ht, h1⟩ := (h.vprobe r ctx true (pieces x.1 x.2.length)).exists_eq
    unfold Machine.probeAll
    rw [hs, ht]
    cases ok with
    | false => exact .of_alike h1
    | true => exact ih h1

/-- Two runs over tokens that the same fault, or none, stops, and that leave states alike. -/
structure SameTokens (x y : Nat × Option FaultClass × State) : Prop where
  fault : y.2.1 = x.2.1
  alike : Alike x.2.2 y.2.2

theorem Alike.writeTokens {s t : State} (h : Alike s t) (c : AtJob) (ws : Nat → List (Nat × List Byte)) (n k : Nat) :
    SameTokens (writeTokens c ws n k s) (writeTokens c ws n k t) := by
  induction n generalizing k s t with
  | zero => exact ⟨rfl, h⟩
  | succ n ih =>
    obtain ⟨res, s1, t1, hs, ht, h1⟩ := (h.writeAll c.unit c.ctx (ws k)).exists_eq
    unfold Machine.writeTokens
    rw [hs, ht]
    cases res with
    | error f => exact ⟨rfl, h1⟩
    | ok _ => exact ih h1 _

end Sys2Proof.Machine
end

section
/-! The APPEND phase writes every token or is abandoned (R153, R154, R158, R161). -/
namespace Sys2Proof.Machine

/-! ### The tokens of a part and their writes -/

/-- The destination rows of the group that an APPEND names. -/
def appendRows (q : Part4) (s : State) : List Nat :=
  groupRows (s.groupOf q.job.q.pricking (atPass (atJobOf q s).e)).1 (s.groupOf q.job.q.pricking (atPass (atJobOf q s).e)).2

/-- The tokens that an APPEND writes. -/
def appendTokens (q : Part4) (s : State) : Tokens :=
  tokensOf (atJobOf q s) (s.groupOf q.job.q.pricking (atPass (atJobOf q s).e)).1 (appendRows q s)

/-- The writes of each token of an APPEND. -/
def appendWrites (q : Part4) (s : State) : Nat → List (Nat × List Byte) :=
  tokenWrites (atJobOf q s) (s.hearth q.phys) (s.groupOf q.job.q.pricking (atPass (atJobOf q s).e)).1 (appendRows q s) (appendTokens q s)

/-- Every destination of an APPEND translated (R154 step 1). -/
def appendProbe (q : Part4) (s : State) : Bool × State :=
  probeAll (atJobOf q s).unit (atJobOf q s).ctx ((List.range (appendTokens q s).count).flatMap (appendWrites q s)) s

/-- The tokens of an APPEND written in order. -/
def appendWritten (q : Part4) (s : State) : Nat × Option FaultClass × State :=
  writeTokens (atJobOf q s) (appendWrites q s) (appendTokens q s).count 0 (appendProbe q s).2

/-- A token's position lies beyond the capacity. -/
def pastCapacity (q : Part4) (s : State) (t : Nat) : Bool := decide (atKblocks (atJobOf q s).e * 128 ≤ (appendTokens q s).pos t)

theorem appendPhase_eq (q : Part4) (s : State) : appendPhase q s =
    ⟨(appendTokens q s).count, (List.range (appendTokens q s).count).any (pastCapacity q s), (appendProbe q s).1,
      (appendWritten q s).2.1, (appendWritten q s).2.2⟩ := rfl

/-! ### The phase depends on what reads see -/

/-- Two APPEND phases of the same tokens with the same outcome, that leave states alike. -/
structure SamePhase (a b : AppendPhase) : Prop where
  tokens : b.tokens = a.tokens
  past   : b.past = a.past
  reach  : b.reach = a.reach
  fault  : b.fault = a.fault
  after  : Alike a.after b.after

theorem tokenWrites_congr {x y : Hearth} (h : y.byte = x.byte) (c : AtJob) (g : Entry) (rows : List Nat) (tk : Tokens) :
    tokenWrites c y g rows tk = tokenWrites c x g rows tk := by
  unfold tokenWrites tokenElems
  rw [h]

section
variable {s t : State} (h : Alike s t) (q : Part4)
include h

theorem Alike.appendRows : appendRows q t = appendRows q s := by
  unfold Machine.appendRows
  rw [h.atJobOf, groupOf_congr h.img]

theorem Alike.appendTokens : appendTokens q t = appendTokens q s := by
  unfold Machine.appendTokens
  rw [h.atJobOf, groupOf_congr h.img, h.appendRows]

theorem Alike.appendWrites : appendWrites q t = appendWrites q s := by
  unfold Machine.appendWrites
  rw [h.atJobOf, groupOf_congr h.img, h.appendRows, h.appendTokens, tokenWrites_congr (h.byte q.phys)]

theorem Alike.appendProbe : SameAnswer (appendProbe q s) (appendProbe q t) := by
  unfold Machine.appendProbe
  rw [h.atJobOf, h.appendTokens, h.appendWrites]
  exact h.probeAll ..

theorem Alike.appendWritten : SameTokens (appendWritten q s) (appendWritten q t) := by
  unfold Machine.appendWritten
  rw [h.atJobOf, h.appendTokens, h.appendWrites]
  exact (h.appendProbe q).alike.writeTokens ..

/-- The phase runs the same in states that every read sees alike. -/
theorem Alike.appendPhase : SamePhase (appendPhase q s) (appendPhase q t) := by
  have hpast : pastCapacity q t = pastCapacity q s := by
    unfold pastCapacity
    rw [h.atJobOf, h.appendTokens]
  have htokens := h.appendTokens q
  refine ⟨congrArg Tokens.count htokens, ?_, (h.appendProbe q).answer, (h.appendWritten q).fault, (h.appendWritten q).alike⟩
  rw [appendPhase_eq, appendPhase_eq, htokens, hpast]

end

/-! ### What the phase leaves before its end -/

theorem appendProbe_looksOnly (q : Part4) (s : State) : LooksOnly s (appendProbe q s).2 := probeAll_looksOnly ..

theorem appendPhase_writesOnly (q : Part4) (s : State) : WritesOnly s (appendPhase q s).after :=
  (appendProbe_looksOnly q s).writesOnly.trans (writeTokens_writesOnly ..)

/-! ### The ways the phase ends -/

section
variable {q : Part4} {s : State}

/-- The end of the writes of an APPEND, from how many tokens they wrote, what stopped them and the state after them. -/
def appendEnd (q : Part4) (s : State) (w : Nat × Option FaultClass × State) : State :=
  let v := bumpAtt q.phys 4 w.1 w.2.2
  match w.2.1 with
  | none => partEnd q.hoop q.step q.pos v
  | some f =>
    appendFault q f ((appendTokens q s).lowest w.1) (scrambleToken (atJobOf q s) (appendWrites q s w.1) (bumpAtt q.phys 5 1 v))

/-- A position beyond the capacity stops the phase before it writes. -/
theorem appendRun_of_past (h : (List.range (appendTokens q s).count).any (pastCapacity q s) = true) :
    ∃ pos, appendRun q none s = appendFault q .attendCapacity pos s := by
  unfold appendRun
  dsimp only
  split
  · exact ⟨_, rfl⟩
  · next hnone =>
    obtain ⟨t, ht, hpast⟩ := List.any_eq_true.1 h
    exact absurd hpast (List.find?_eq_none.1 hnone t ht)

/-- With every position within the capacity the phase writes, where every destination translates. -/
theorem appendRun_of_within (h : (List.range (appendTokens q s).count).any (pastCapacity q s) = false) : appendRun q none s =
    if (appendProbe q s).1 then appendEnd q s (appendWritten q s)
    else appendFault q .translationFault ((appendTokens q s).lowest 0) (appendProbe q s).2 := by
  have hnone := List.find?_eq_none.2 (List.any_eq_false.1 h)
  unfold appendRun appendEnd appendWritten appendProbe appendWrites
  unfold pastCapacity appendTokens appendRows at *
  dsimp only
  rw [hnone]
  dsimp only
  split
  · next u hprobe => rw [hprobe]; rfl
  · next u hprobe =>
    rw [hprobe]
    dsimp only
    split
    · next f _ hfault => rw [hfault]; rfl
    · next hcause => cases hcause
    · next hfault _ => rw [hfault]; rfl

/-- A phase that nothing stops has written all its tokens. -/
theorem appendRun_of_written (hp : (appendPhase q s).past = false) (hr : (appendPhase q s).reach = true)
    (hf : (appendPhase q s).fault = none) : appendRun q none s =
      partEnd q.hoop q.step q.pos (bumpAtt q.phys 4 (appendPhase q s).tokens (appendPhase q s).after) := by
  have hf' : (appendWritten q s).2.1 = none := hf
  have hcount : (appendWritten q s).1 = (appendPhase q s).tokens := (writeTokens_count hf).trans (Nat.zero_add _)
  rw [← hcount]
  refine ((appendRun_of_within hp).trans (if_pos hr)).trans ?_
  unfold appendEnd
  rw [hf']; rfl

/-- A phase that a write stops is abandoned after what writes leave (R154 step 3). -/
theorem appendRun_of_fault {f : FaultClass} (hp : (appendPhase q s).past = false) (hr : (appendPhase q s).reach = true)
    (hf : (appendPhase q s).fault = some f) : ∃ pos u, appendRun q none s = appendFault q f pos u ∧ ReadsOnly s u := by
  have hf' : (appendWritten q s).2.1 = some f := hf
  have hend := (appendRun_of_within hp).trans (if_pos hr)
  unfold appendEnd at hend
  rw [hf'] at hend
  exact ⟨_, _, hend, (((appendPhase_writesOnly q s).toReadsOnly.trans (bumpAtt_readsOnly ..)).trans (bumpAtt_readsOnly ..)).trans
    (scrambleToken_writesOnly ..).toReadsOnly⟩

/-- A phase stopped before it writes is abandoned, by a fault that calls for no retest (R318). -/
theorem appendRun_of_stopped (h : (appendPhase q s).past = true ∨ (appendPhase q s).reach = false) :
    ∃ cls pos u, appendRun q none s = appendFault q cls pos u ∧ retestClass cls = false ∧ LooksOnly s u := by
  cases hp : (appendPhase q s).past with
  | true =>
    obtain ⟨pos, hend⟩ := appendRun_of_past hp
    exact ⟨.attendCapacity, pos, s, hend, rfl, .refl s⟩
  | false =>
    have hr : ¬(appendProbe q s).1 = true := by
      rw [Bool.not_eq_true]
      exact h.resolve_left (by rw [hp]; decide)
    exact ⟨.translationFault, _, _, (appendRun_of_within hp).trans (if_neg hr), rfl, appendProbe_looksOnly q s⟩

end

/-! ### An abandoned phase (R154, R158) -/

/-- An abandoned phase counted and recorded, before the consequences for its hearth and its step. -/
def appendNoted (q : Part4) (cls : FaultClass) (pos : Nat) (s : State) : State :=
  let s := bumpHearth q.phys 1 1 s
  let s := if isCheck cls then bumpHearth q.phys 3 1 s else s
  let s := if cls = .attendCapacity then bumpAtt q.phys 6 1 s else s
  partRecordAt q cls 0 false pos s

section
variable {q : Part4} {cls : FaultClass} {s t : State}

theorem appendNoted_booked (q : Part4) (cls : FaultClass) (pos : Nat) (s : State) :
    Booked q.phys (Pi.single 1 1 + Pi.single 3 (if isCheck cls then 1 else 0)) s (appendNoted q cls pos s) := by
  have hcheck (u : State) : Booked q.phys (Pi.single 3 (if isCheck cls then 1 else 0)) u
      (if isCheck cls then bumpHearth q.phys 3 1 u else u) := by
    split
    · exact bumpHearth_booked ..
    · exact (Booked.refl q.phys u).congr fun w => by rw [Pi.single_zero]
  have hcapacity (u : State) : Booked q.phys 0 u (if cls = .attendCapacity then bumpAtt q.phys 6 1 u else u) :=
    (ReadsOnly.ite (bumpAtt_readsOnly ..) (.refl u)).booked q.phys
  have hrecord (u : State) : Booked q.phys 0 u (partRecordAt q cls 0 false pos u) := .of_keeps (partRecordAt_keeps ..)
  exact (((bumpHearth_booked ..).trans (hcheck _)).trans (hcapacity _)).trans (hrecord _)

theorem appendNoted_mem (q : Part4) (cls : FaultClass) (pos : Nat) (s : State) : (appendNoted q cls pos s).mem = s.mem := by
  unfold appendNoted
  dsimp only
  rw [(partRecordAt_keeps ..).mem rfl]
  split <;> split <;> rfl

/-- A fault that calls for no retest has no consequence for its hearth. -/
theorem noteHearthFault_of_untested (h : retestClass cls = false) : noteHearthFault q cls s = s :=
  if_pos (by rw [h]; rfl)

/-- A fault that calls for no retest leaves hearths and memory. -/
theorem faultPart_of_untested (h : retestClass cls = false) : HearthsKept s (faultPart q cls s) ∧ Quiet s (faultPart q cls s) := by
  unfold faultPart
  rw [noteHearthFault_of_untested h]
  dsimp only
  split
  · exact ⟨partFault_hearths .., partFault_quiet ..⟩
  · exact ⟨.refl s, .refl s⟩

/-- A phase abandoned after bookkeeping that counts nothing as abandoned counts once. -/
theorem appendFault_counted {n : Nat → Nat} {pos : Nat} (h : Booked q.phys n s t) (hn : n 1 = 0)
    (hcore : ((appendFault q cls pos t).hearth q.phys).core = ((appendNoted q cls pos t).hearth q.phys).core) :
    Counted q.phys 1 1 s (appendFault q cls pos t) := by
  have hgrown := (h.trans (appendNoted_booked q cls pos t)).grown.trans (.of_ctr (congrArg Prod.snd hcore))
  simpa [hn] using hgrown.counted 1

/-- A phase that stops before it writes is counted and keeps the bytes of memory. -/
theorem appendFault_of_untested {n : Nat → Nat} {pos : Nat} (h : Booked q.phys n s t) (hn : n 1 = 0)
    (hcls : retestClass cls = false) : Counted q.phys 1 1 s (appendFault q cls pos t) ∧
      (appendFault q cls pos t).mem.dram = t.mem.dram ∧ (appendFault q cls pos t).mem.shared = t.mem.shared := by
  obtain ⟨hhearths, hquiet⟩ := faultPart_of_untested (q := q) (s := appendNoted q cls pos t) hcls
  exact ⟨appendFault_counted h hn (congrArg Hearth.core (hhearths.hearth q.phys)), hquiet.dram.trans (by rw [appendNoted_mem]),
    hquiet.shared.trans (by rw [appendNoted_mem])⟩

theorem appendFault_openPart (q : Part4) (cls : FaultClass) (pos : Nat) (s : State) :
    (appendFault q cls pos s).openPart q.hoop q.step q.pos = none := faultPart_openPart ..

end

/-! ### The command APPEND_DONE -/

theorem exec_appendDone {hoop : BitVec 4} {step : BitVec 20} {pos : BitVec 3} {q : Part4} {s : State} (fixed : Corrected)
    (hq : s.part4 [kAttend] hoop.toNat step.toNat pos.toNat = some q) (happ : isAppend q s = true) (hgroup : groupedPart q s = true) :
    exec (.appendDone hoop step pos none fixed) s = .next (appendRun q none (countFixed q.phys fixed s)) := by
  change execAppendDone hoop step pos none fixed s = _
  rw [execAppendDone, hq]
  exact congrArg _ (if_neg (by rw [happ, hgroup]; decide))

/-- The APPEND phase writes every token or is abandoned. -/
theorem appendsWriteTheirTokens : AppendsWriteTheirTokens := by
  intro hoop step pos fixed q s hq happ hgroup a
  have hat := partAt_of_part4 pos.isLt hq
  have hunits : OnlyUnits workUnits s (appendRun q none (countFixed q.phys fixed s)) :=
    ((countFixed_keeps ..).up.trans (appendRun_keeps ..)).units _ rfl
  rw [exec_appendDone fixed hq happ hgroup, ← hat.hoop, ← hat.step, ← hat.pos]
  have hfixed := countFixed_booked q.phys fixed s
  have htwin := countFixed_twin q.phys fixed s
  generalize countFixed q.phys fixed s = t at hunits hfixed htwin ⊢
  have hbooks {u : State} (h : ReadsOnly t u) := hfixed.trans (h.booked q.phys)
  have hphase : SamePhase a (appendPhase q t) := htwin.appendPhase q
  refine ⟨fun hp hr hf => ?_, fun hstop => ?_, fun hp hr hf halone => ?_⟩
  · have hend := appendRun_of_written (hphase.past.trans hp) (hphase.reach.trans hr) (hphase.fault.trans hf)
    rw [hphase.tokens] at hend
    rw [hend] at hunits ⊢
    have hafter := appendPhase_writesOnly q t
    have hreads := hafter.toReadsOnly.trans (bumpAtt_readsOnly q.phys 4 a.tokens (appendPhase q t).after)
    have hkept := partEnd_hearths q.hoop q.step q.pos (bumpAtt q.phys 4 a.tokens (appendPhase q t).after)
    have hquiet := partEnd_quiet q.hoop q.step q.pos (bumpAtt q.phys 4 a.tokens (appendPhase q t).after)
    refine ⟨_, rfl, hunits, partEnd_openPart _, ?_, ?_, hquiet.dram.trans hphase.after.dram,
      hquiet.shared.trans hphase.after.shared, fun p => ?_⟩
    · have hgrown := (hbooks hreads).grown.trans (.of_ctr (congrArg Hearth.ctr (hkept.hearth q.phys)))
      simpa using hgrown.counted 1
    · rw [AttCounted, hquiet.att, bumpAtt, updHearth_self, get_bump_self, hafter.att, htwin.att, Nat.mod_mod]
    · have hbox := Hearth.sameBox_of_box (congrArg Prod.fst (hreads.core p))
      have hface := htwin.hearth p
      rw [hkept.hearth, hbox.frames, hbox.pageMap]
      exact ⟨congrArg Prod.fst hface, congrArg (fun x => x.2.1) hface⟩
  · rw [← hphase.past, ← hphase.reach] at hstop
    obtain ⟨cls, item, u, hend, hcls, hlooks⟩ := appendRun_of_stopped hstop
    rw [hend] at hunits ⊢
    obtain ⟨hcount, hdram, hshared⟩ := appendFault_of_untested (pos := item) (hbooks hlooks.toReadsOnly) (by simp) hcls
    exact ⟨_, rfl, hunits, appendFault_openPart .., hcount, (hdram.trans hlooks.dram).trans htwin.dram,
      (hshared.trans hlooks.shared).trans htwin.shared⟩
  · obtain ⟨f, hf⟩ := Option.ne_none_iff_exists'.1 hf
    obtain ⟨item, u, hend, hreads⟩ :=
      appendRun_of_fault (hphase.past.trans hp) (hphase.reach.trans hr) (hphase.fault.trans hf)
    rw [hend] at hunits ⊢
    have hbooked := hbooks hreads
    have hstand := hbooked.toPartsStand.trans (appendNoted_booked q f item u).toPartsStand
    have hcore := faultPart_core (hat.toSeated.stands hstand) (hstand.alone halone) f
    exact ⟨_, rfl, hunits, appendFault_openPart .., appendFault_counted hbooked (by simp) hcore⟩

/-- Settles O28: a run that answers bytes exchanges and counts them, an append writes its tokens in order, and both close the part. -/
theorem attentionCommitsWholeOrNot : Obligations.AttentionCommitsWholeOrNot :=
  ⟨attentionRunsWholeOrNot, appendsWriteTheirTokens⟩

end Sys2Proof.Machine
end

section
/-! What an error of memory and a counted access leave of translation: its counters, its caches and its tables (R198, R211, R219). -/
namespace Sys2Proof.Machine

/-! ### What a walk reads and counts -/

/-- A translation counter of a half (R198). -/
def State.xlatCount (s : State) (h : Half) (w : Nat) : Nat := Tab.get 0 (s.half h).xlatCtr w

/-- A half without what a report and a damper's counters change of it. -/
def HalfUnit.unreported (u : HalfUnit) : HalfUnit :=
  { u with dampCtr := [], fgCtr := [], table := [], bufs := [], pendq := [], lost := 0 }

/-- Translation counters, caches, memories, knots and ring pages are the same. -/
structure XlatKept (s t : State) : Prop where
  ctr    : ∀ h, (t.half h).xlatCtr = (s.half h).xlatCtr
  cache  : ∀ u, t.cache u = s.cache u
  dram   : t.mem.dram = s.mem.dram
  shared : t.mem.shared = s.mem.shared
  knots  : t.seq.knots = s.seq.knots
  rings  : t.host.rings = s.host.rings

section
variable {s t u : State}

theorem XlatKept.refl (s : State) : XlatKept s s := ⟨fun _ => rfl, fun _ => rfl, rfl, rfl, rfl, rfl⟩

theorem XlatKept.trans (h : XlatKept s t) (k : XlatKept t u) : XlatKept s u :=
  ⟨fun x => (k.ctr x).trans (h.ctr x), fun x => (k.cache x).trans (h.cache x), k.dram.trans h.dram, k.shared.trans h.shared,
    k.knots.trans h.knots, k.rings.trans h.rings⟩

theorem XlatKept.ite {c : Prop} [Decidable c] (h : XlatKept s t) (k : XlatKept s u) : XlatKept s (if c then t else u) := by
  split <;> assumption

theorem XlatKept.forEach {α : Type} {l : List α} {f : α → State → State} (hf : ∀ a t, XlatKept t (f a t)) (s : State) :
    XlatKept s (forEach l f s) := forEach_invariant (P := XlatKept s) (fun a t h => h.trans (hf a t)) l s (.refl s)

theorem XlatKept.count (h : XlatKept s t) (x : Half) (w : Nat) : t.xlatCount x w = s.xlatCount x w := by
  unfold State.xlatCount; rw [h.ctr]

theorem cache_congr (hseq : t.seq = s.seq) (hmem : t.mem = s.mem) (u : CacheUnit) : t.cache u = s.cache u := by
  unfold State.cache State.hearth; rw [hseq, hmem]

/-- What changes neither stores nor hoops nor the host interface, and of the halves only what reports change. -/
theorem XlatKept.of_halves {m : Nat} (k : Keeps m s t) (hhalf : ∀ h, (t.half h).unreported = (s.half h).unreported)
    (h4 : m.testBit 4 = false := by rfl) (h9 : m.testBit 9 = false := by rfl) (h10 : m.testBit 10 = false := by rfl) : XlatKept s t :=
  ⟨fun h => (congrArg HalfUnit.xlatCtr (hhalf h) : _), cache_congr (k.seq h9) (k.mem h10), by rw [k.mem h10], by rw [k.mem h10],
    by rw [k.seq h9], by rw [k.host h4]⟩

end

/-! ### Updates and reports -/

theorem updChan_xlatKept (c : Nat) (f : Channel → Channel) (s : State) : XlatKept s (updChan c f s) :=
  ⟨fun h => by cases h <;> rfl, fun u => by cases u <;> rfl, rfl, rfl, rfl, rfl⟩

theorem updDamper_xlatKept (g : Nat) (f : Damper → Damper) (s : State) : XlatKept s (updDamper g f s) :=
  ⟨fun h => by cases h <;> rfl, fun u => by cases u <;> rfl, rfl, rfl, rfl, rfl⟩

theorem updHoop_xlatKept (n : Nat) (f : HoopUnit → HoopUnit) (s : State) : XlatKept s (updHoop n f s) :=
  ⟨fun h => by cases h <;> rfl, fun u => by cases u <;> rfl, rfl, rfl, rfl, rfl⟩

theorem bumpDamp_xlatKept (h : Half) (w k : Nat) (s : State) : XlatKept s (bumpDamp h w k s) :=
  .of_halves (bumpDamp_keeps ..) (HalvesKept.updHalf (obs := HalfUnit.unreported) h
    (fun u => { u with dampCtr := bump u.dampCtr w k }) s fun _ => rfl).half

theorem HalvesKept.ite {α : Type} {obs : HalfUnit → α} {s t u : State} {c : Prop} [Decidable c] (h : HalvesKept obs s t)
    (k : HalvesKept obs s u) : HalvesKept obs s (if c then t else u) := by split <;> assumption

theorem queueRecord_reported (r : FaultRec) (s : State) : HalvesKept HalfUnit.unreported s (queueRecord r s) :=
  .ite (.updHalf _ _ s fun _ => rfl) (.ite (.updHalf _ _ s fun _ => rfl) (.updHalf _ _ s fun _ => rfl))

theorem setEntry_reported (key : FaultKey) (c : Option Coalesce) (s : State) : HalvesKept HalfUnit.unreported s (setEntry key c s) :=
  .updHalf key.half _ s fun _ => rfl

theorem bumpFg_reported (h : Half) (w k : Nat) (s : State) : HalvesKept HalfUnit.unreported s (bumpFg h w k s) := .updHalf h _ s fun _ => rfl

theorem coalesceExpire_reported (c : Coalesce) (s : State) : HalvesKept HalfUnit.unreported s (coalesceExpire c s) :=
  (queueRecord_reported ..).trans (setEntry_reported ..)

theorem repeatExpire_reported (c : Coalesce) (s : State) : HalvesKept HalfUnit.unreported s (repeatExpire c s) :=
  .ite (setEntry_reported ..) ((queueRecord_reported ..).trans (setEntry_reported ..))

theorem settleKey_reported (key : FaultKey) (n : Nat) (s : State) : HalvesKept HalfUnit.unreported s (settleKey key n s) := by
  induction n generalizing s with
  | zero => exact .refl s
  | succ n ih =>
    unfold settleKey
    split
    · exact .refl s
    · exact .ite (.ite ((repeatExpire_reported ..).trans (ih _)) (.refl s))
        (.ite ((coalesceExpire_reported ..).trans (ih _)) (.refl s))

theorem gather_reported (r : FaultRec) (s : State) : HalvesKept HalfUnit.unreported s (gather r s) := by
  unfold gather
  extract_lets s1 r1 s2
  have h2 : HalvesKept HalfUnit.unreported s s2 := (settleKey_reported ..).trans (bumpFg_reported ..)
  split
  · exact h2.trans ((HalvesKept.ite (.refl s2) (bumpFg_reported ..)).trans (setEntry_reported ..))
  · exact h2.trans (.ite (setEntry_reported ..) (.updHalf _ _ s2 fun _ => rfl))

/-- The report of a class that latches nothing. -/
theorem report_xlatKept {r : FaultRec} (h : severity r.key.cls ≠ 2) (s : State) : XlatKept s (report r s) := by
  rw [report_of_severity_ne h]; exact .of_halves (gather_keeps ..) (gather_reported r s).half

/-! ### Uncorrectable errors (R211, R219, R273) -/

theorem breachOwner_xlatKept (g : Nat) (x : Nat × Nat × Nat) (s : State) : XlatKept s (breachOwner g x s) := by
  obtain ⟨r, hcls, hcase⟩ := breachOwner_cases g x s
  have hreport (t : State) : XlatKept t (report r t) := report_xlatKept (by rw [hcls]; decide) t
  obtain ⟨-, heq⟩ | ⟨-, heq⟩ := hcase <;> rw [heq]
  · exact (bumpDamp_xlatKept ..).trans (hreport _)
  · exact ((bumpDamp_xlatKept ..).trans (updHoop_xlatKept ..)).trans (hreport _)

theorem reshed_xlatKept (g : Nat) (s : State) : XlatKept s (reshed g s) := by
  by_cases hfull : 256 ≤ (s.damper g).capacity
  · rw [reshed_of_full hfull]; exact updDamper_xlatKept ..
  · rw [reshed_of_reduced (Nat.not_le.1 hfull)]
    exact (updDamper_xlatKept ..).trans (.forEach (breachOwner_xlatKept g) _)

theorem lowerCapacity_xlatKept (g cap : Nat) (s : State) : XlatKept s (lowerCapacity g cap s) := by
  by_cases h : damperExists g = true ∧ cap < (s.damper g).capacity
  · rw [lowerCapacity_of_falls h.1 h.2]
    exact ((updDamper_xlatKept ..).trans (bumpDamp_xlatKept ..)).trans (reshed_xlatKept ..)
  · rw [lowerCapacity_of_stays h]; exact .refl s

theorem loseChannel_xlatKept (c : Nat) (s : State) : XlatKept s (loseChannel c s) := by
  unfold loseChannel
  extract_lets s1 s2 f s3
  have h2 : XlatKept s s2 := (updChan_xlatKept ..).trans (.forEach (fun _ _ => updChan_xlatKept ..) s1)
  have h3 : XlatKept s2 s3 := report_xlatKept (show severity .dramChannelLost ≠ 2 by decide) s2
  exact .ite (.refl s) ((h2.trans h3).trans (.forEach (fun _ _ => lowerCapacity_xlatKept ..) s3))

theorem dramUncorrectable_xlatKept (c : Nat) (s : State) : XlatKept s (dramUncorrectable c s) := by
  unfold dramUncorrectable
  extract_lets s1 recent s2 s3
  have h2 : XlatKept s s2 := (updChan_xlatKept ..).trans (updChan_xlatKept ..)
  have h3 : XlatKept s2 s3 := report_xlatKept (show severity .dramUncorrectable ≠ 2 by decide) s2
  exact .ite ((h2.trans h3).trans (loseChannel_xlatKept ..)) (h2.trans h3)

theorem eccFaultAt_xlatKept (a : Nat) (s : State) : XlatKept s (eccFaultAt a s) := by
  unfold eccFaultAt
  split
  · exact dramUncorrectable_xlatKept ..
  · exact report_xlatKept (show severity .storeUncorrectable ≠ 2 by decide) s
  · exact .refl s

/-! ### Accesses -/

theorem touchBlock_xlatKept (c block : Nat) (s : State) : XlatKept s (touchBlock c block s) :=
  .ite (updChan_xlatKept ..) ((updChan_xlatKept ..).trans (updChan_xlatKept ..))

theorem countAccess_xlatKept (write : Bool) (a n : Nat) (s : State) : XlatKept s (countAccess write a n s) :=
  .forEach (fun _ _ => ((updChan_xlatKept ..).trans (touchBlock_xlatKept ..)).trans (updChan_xlatKept ..)) s

theorem countReads_xlatKept (l : List (Nat × Nat)) (s : State) : XlatKept s (countReads l s) := by
  induction l generalizing s with
  | nil => exact .refl s
  | cons p l ih => exact (countAccess_xlatKept ..).trans (ih _)

theorem fresh_xlatKept (s : State) : XlatKept s (fresh s).2 :=
  .of_halves (fresh_keeps s) fun h => by rw [(fresh_keeps s).half]

/-- A counted correction changes nothing that a read sees. -/
theorem eccFixedAt_alike (a : Nat) (s : State) : Alike s (eccFixedAt a s) := by
  unfold eccFixedAt
  split
  · exact bumpChan_alike ..
  · exact .refl s

theorem eccFixedAt_xlatKept (a : Nat) (s : State) : XlatKept s (eccFixedAt a s) := by
  unfold eccFixedAt
  split
  · exact updChan_xlatKept ..
  · exact .refl s

end Sys2Proof.Machine
end

section
/-! A walk ends in a leaf that its unit's cache holds, or faults (R183, R185, R198, R211). -/
namespace Sys2Proof.Machine

/-! ### Counters and caches -/

theorem bumpXlat_xlatCount_self (h : Half) (w k : Nat) (s : State) :
    (bumpXlat h w k s).xlatCount h w = (s.xlatCount h w + k) % 2 ^ 64 := by
  rw [State.xlatCount, bumpXlat, updHalf_self]; exact get_bump_self ..

theorem bumpXlat_xlatCount_ne (h k : Half) {v w : Nat} (n : Nat) (s : State) (hv : v ≠ w) :
    (bumpXlat h w n s).xlatCount k v = s.xlatCount k v := by
  unfold State.xlatCount bumpXlat
  cases h <;> cases k
  case west.west | east.east => exact get_bump_ne _ _ hv
  case west.east | east.west => rfl

theorem bumpXlat_cache (h : Half) (w k : Nat) (s : State) (u : CacheUnit) : (bumpXlat h w k s).cache u = s.cache u :=
  cache_congr (updHalf_seq ..) (updHalf_mem ..) u

theorem setCache_cache_self (u : CacheUnit) (c : List Leaf) (s : State) : (setCache u c s).cache u = c := by
  cases u with
  | hearth p => exact congrArg Hearth.cache (updHearth_self ..)
  | port n => exact Tab.get_set_self ..
  | copyEngine => rfl

theorem setCache_xlatCount (u : CacheUnit) (c : List Leaf) (s : State) (h : Half) (w : Nat) :
    (setCache u c s).xlatCount h w = s.xlatCount h w := by cases u <;> cases h <;> rfl

/-- A leaf placed in a cache is in it, also where it replaces another. -/
theorem mem_cacheInsert (u : CacheUnit) (l : Leaf) (s : State) : l ∈ (cacheInsert u l s).cache u := by
  unfold cacheInsert
  dsimp only
  split
  · rw [setCache_cache_self]; exact List.mem_append_right _ List.mem_cons_self
  · next hfull =>
    have hpos : 0 < cacheSize u := by cases u <;> exact Nat.succ_pos _
    rw [setCache_cache_self]
    exact List.mem_set ((Nat.mod_lt _ hpos).trans_le (Nat.not_lt.1 hfull)) l

theorem cacheInsert_xlatCount (u : CacheUnit) (l : Leaf) (s : State) (h : Half) (w : Nat) :
    (cacheInsert u l s).xlatCount h w = s.xlatCount h w := by
  unfold cacheInsert
  dsimp only
  split
  · exact setCache_xlatCount ..
  · exact (setCache_xlatCount ..).trans ((fresh_xlatKept s).count ..)

theorem cacheInsert_knots (u : CacheUnit) (l : Leaf) (s : State) : (cacheInsert u l s).seq.knots = s.seq.knots := by
  unfold cacheInsert
  dsimp only
  split <;> cases u <;> rfl

/-- No leaf of a cache is for an address once those that are have left it. -/
theorem findLeaf_evicted (c : List Leaf) (ctx va : Nat) :
    findLeaf (c.filter fun l => !(findLeaf [l] ctx va).isSome) ctx va = none := by
  refine List.find?_eq_none.2 fun l hl hmatch => ?_
  have hmiss := (List.mem_filter.1 hl).2
  have hhit : findLeaf [l] ctx va = some l := List.find?_cons_of_pos hmatch
  rw [hhit] at hmiss
  cases hmiss

/-! ### The walk itself -/

/-- A walk depends on the image, the next free value and what physical reads answer. -/
theorem walkPath_congr {s t : State} (himg : t.img = s.img) (hfree : t.freeCtr = s.freeCtr)
    (hbytes : ∀ salt a n, t.physBytes salt a n = s.physBytes salt a n) (ctx va : Nat) : t.walkPath ctx va = s.walkPath ctx va := by
  have hread : t.walkRead = s.walkRead := by
    funext hoop a
    unfold State.walkRead State.windowGrants
    rw [himg, hfree, hbytes]
  unfold State.walkPath
  rw [himg, hread]

/-- What a cache holds changes no physical read. -/
theorem setCache_physBytes (u : CacheUnit) (c : List Leaf) (s : State) (salt a n : Nat) :
    (setCache u c s).physBytes salt a n = s.physBytes salt a n := by
  have hloc (b : Nat) : (setCache u c s).locate b = s.locate b := by cases u <;> rfl
  have hbyte : (setCache u c s).locByte salt = s.locByte salt := by
    funext l
    cases l with
    | fire p o =>
      have hbox := Hearth.sameBox_of_box (congrArg Prod.fst ((setCache_readsOnly u c s).core p))
      exact congrFun hbox.byte o
    | dram | shared | host => cases u <;> rfl
  unfold State.physBytes
  simp only [hloc, hbyte]

theorem setCache_walkPath (u : CacheUnit) (c : List Leaf) (s : State) (ctx va : Nat) :
    (setCache u c s).walkPath ctx va = s.walkPath ctx va :=
  walkPath_congr (setCache_readsOnly u c s).img (by cases u <;> rfl) (setCache_physBytes u c s) ctx va

/-- Counting a walk and its table reads. -/
theorem countWalk_xlatKept (r : Reader) (ctx va : Nat) (s : State) :
    XlatKept (bumpXlat (s.readerHalf r) 1 1 (fresh s).2) (countWalk r ctx va s) := .forEach (fun _ _ => countAccess_xlatKept ..) _

theorem grant_congr {s t : State} (h : t.img = s.img) (l : Leaf) (va : Nat) (write : Bool) : t.grant l va write = s.grant l va write := by
  unfold State.grant State.windowGrants; rw [h]

/-- The walk does not grant the access: no leaf, or one that its context or its rights refuse. -/
def State.walkFails (s : State) (ctx va : Nat) (write : Bool) : Prop :=
  s.walk ctx va = none ∨ ∃ l, s.walk ctx va = some l ∧ s.grant l va write = none

section
variable {u : CacheUnit} {ctx va : Nat} {write : Bool} {s : State}

theorem walkFor_of_fails (h : s.walkFails ctx va write) (r : Reader) : walkFor r ctx va write s =
    (none, bumpXlat (s.readerHalf r) 2 1 (countWalk r ctx va s)) := by
  have hgrant (l : Leaf) : (countWalk r ctx va s).grant l va write = s.grant l va write :=
    grant_congr ((countWalk_keeps ..).img rfl) ..
  unfold walkFor
  dsimp only
  obtain hnone | ⟨l, hl, hdeny⟩ := h
  · rw [hnone]
  · rw [hl]; dsimp only; rw [hgrant, hdeny]

theorem walkFor_of_leaf {l : Leaf} (hl : s.walk ctx va = some l) (hgrant : s.grant l va write ≠ none) :
    (walkFor (.unit u) ctx va write s).2 = cacheInsert u l (countWalk (.unit u) ctx va s) := by
  obtain ⟨pa, hpa⟩ := Option.ne_none_iff_exists'.1 hgrant
  have hpa' : (countWalk (.unit u) ctx va s).grant l va write = some pa :=
    (grant_congr ((countWalk_keeps ..).img rfl) ..).trans hpa
  unfold walkFor
  dsimp only
  rw [hl]
  dsimp only
  rw [hpa']

end

theorem countWalk_xlatCount_walks (r : Reader) (ctx va : Nat) (s : State) :
    (countWalk r ctx va s).xlatCount (s.readerHalf r) 1 = (s.xlatCount (s.readerHalf r) 1 + 1) % 2 ^ 64 := by
  rw [(countWalk_xlatKept ..).count, bumpXlat_xlatCount_self, (fresh_xlatKept s).count]

theorem countWalk_xlatCount_ne (r : Reader) (ctx va : Nat) (s : State) (h : Half) {w : Nat} (hw : w ≠ 1) :
    (countWalk r ctx va s).xlatCount h w = s.xlatCount h w := by
  rw [(countWalk_xlatKept ..).count, bumpXlat_xlatCount_ne _ _ _ _ hw, (fresh_xlatKept s).count]

theorem countWalk_cache (r : Reader) (ctx va : Nat) (s : State) (u : CacheUnit) : (countWalk r ctx va s).cache u = s.cache u := by
  rw [(countWalk_xlatKept ..).cache, bumpXlat_cache, (fresh_xlatKept s).cache]

/-! ### TRANSLATION_WALK (R183, R185, R198, R211) -/

/-- A unit's lookup that misses: its leaves of the address have left the cache, and the lookup is counted. -/
def lookedUp (u : CacheUnit) (ctx va : Nat) (s : State) : State :=
  bumpXlat (s.readerHalf (.unit u)) 0 1 (setCache u ((s.cache u).filter fun l => !(findLeaf [l] ctx va).isSome) s)

theorem readerHalf_congr {s t : State} (h : t.dev = s.dev) (r : Reader) : t.readerHalf r = s.readerHalf r := by
  unfold State.readerHalf; rw [h]

section
variable (u : CacheUnit) (ctx va : Nat) (s : State)

theorem lookedUp_aside : Aside s (lookedUp u ctx va s) := (setCache_aside ..).trans (bumpXlat_aside ..)

theorem lookedUp_quiet : Quiet s (lookedUp u ctx va s) := (setCache_quiet ..).trans (bumpXlat_quiet ..)

theorem lookedUp_readsOnly : ReadsOnly s (lookedUp u ctx va s) := (setCache_readsOnly ..).trans (bumpXlat_readsOnly ..)

theorem lookedUp_knots : (lookedUp u ctx va s).seq.knots = s.seq.knots := by
  unfold lookedUp bumpXlat; rw [updHalf_seq]; cases u <;> rfl

theorem lookedUp_walkPath : (lookedUp u ctx va s).walkPath ctx va = s.walkPath ctx va :=
  ((bumpXlat_alike ..).walkPath ctx va).trans (setCache_walkPath ..)

theorem lookedUp_lookups : (lookedUp u ctx va s).xlatCount (s.readerHalf (.unit u)) 0 =
    (s.xlatCount (s.readerHalf (.unit u)) 0 + 1) % 2 ^ 64 := by
  rw [lookedUp, bumpXlat_xlatCount_self, setCache_xlatCount]

theorem lookedUp_xlatCount_ne (h : Half) {w : Nat} (hw : w ≠ 0) : (lookedUp u ctx va s).xlatCount h w = s.xlatCount h w := by
  rw [lookedUp, bumpXlat_xlatCount_ne _ _ _ _ hw, setCache_xlatCount]

theorem lookedUp_misses : findLeaf ((lookedUp u ctx va s).cache u) ctx va = none := by
  rw [lookedUp, bumpXlat_cache, setCache_cache_self]; exact findLeaf_evicted ..

end

/-- A table read that meets an uncorrectable error stops the walk there: it counts as a walk and as a fault of one. -/
def walkStopped (u : CacheUnit) (ctx va level : Nat) (s : State) : State :=
  let h := s.readerHalf (.unit u)
  let s := lookedUp u ctx va s
  bumpXlat h 2 1 (bumpXlat h 1 1 (forEach ((s.walkReads ctx va).take (level + 1)) (fun a => countAccess false a 8) s))

theorem translationWalk_of_stopped {u : CacheUnit} {ctx va level : Nat} {s : State} (write : Bool)
    (h : level < (s.walkReads ctx va).length) :
    ∃ a, translationWalk u ctx va write level .uncorrectable s = eccFaultAt a (walkStopped u ctx va level s) := by
  have hreads : (lookedUp u ctx va s).walkReads ctx va = s.walkReads ctx va := congrArg Prod.snd (lookedUp_walkPath ..)
  have hhalf : ∀ c, (setCache u c s).readerHalf (.unit u) = s.readerHalf (.unit u) := fun c =>
    readerHalf_congr ((setCache_aside u c s).dev) _
  have hat : ((lookedUp u ctx va s).walkReads ctx va)[level]? = some (s.walkReads ctx va)[level] := by
    rw [hreads]; exact List.getElem?_eq_getElem h
  refine ⟨(s.walkReads ctx va)[level], ?_⟩
  unfold translationWalk walkStopped
  dsimp only
  rw [hhalf]
  rw [lookedUp] at hat
  rw [hat]
  rfl

/-- A walk that no uncorrectable error stops ends on the page tables, after what no read sees. -/
theorem translationWalk_of_readable {u : CacheUnit} {ctx va level : Nat} {ecc : Ecc} {s : State} (write : Bool)
    (h : ¬(ecc = .uncorrectable ∧ level < (s.walkReads ctx va).length)) :
    ∃ t, translationWalk u ctx va write level ecc s = (walkFor (.unit u) ctx va write t).2
      ∧ Alike (lookedUp u ctx va s) t ∧ XlatKept (lookedUp u ctx va s) t ∧ t.dev = s.dev := by
  have hreads : (lookedUp u ctx va s).walkReads ctx va = s.walkReads ctx va := congrArg Prod.snd (lookedUp_walkPath ..)
  have hhalf : ∀ c, (setCache u c s).readerHalf (.unit u) = s.readerHalf (.unit u) := fun c =>
    readerHalf_congr ((setCache_aside u c s).dev) _
  have hdev : (lookedUp u ctx va s).dev = s.dev := (lookedUp_aside ..).dev
  unfold translationWalk
  dsimp only
  rw [hhalf]
  rw [lookedUp] at *
  split
  · next a hat => exact absurd ⟨rfl, by rw [← hreads]; exact (List.getElem?_eq_some_iff.1 hat).1⟩ h
  · next a _ => exact ⟨_, rfl, eccFixedAt_alike .., eccFixedAt_xlatKept .., ((eccFixedAt_keeps ..).dev rfl).trans hdev⟩
  · exact ⟨_, rfl, .refl _, .refl _, hdev⟩

/-- What every walk leaves: a lookup and a walk counted, memories and knots the same. -/
structure Walked (h : Half) (s t : State) : Prop where
  looks  : t.xlatCount h 0 = (s.xlatCount h 0 + 1) % 2 ^ 64
  walks  : t.xlatCount h 1 = (s.xlatCount h 1 + 1) % 2 ^ 64
  dram   : t.mem.dram = s.mem.dram
  shared : t.mem.shared = s.mem.shared
  knots  : t.seq.knots = s.seq.knots

/-- A walk that fails: its unit's cache has no leaf of the address, and the failure is counted. -/
structure WalkFailed (u : CacheUnit) (ctx va : Nat) (s t : State) : Prop extends Walked (s.readerHalf (.unit u)) s t where
  misses : findLeaf (t.cache u) ctx va = none
  faults : t.xlatCount (s.readerHalf (.unit u)) 2 = (s.xlatCount (s.readerHalf (.unit u)) 2 + 1) % 2 ^ 64

/-- A walk that ends in a leaf: its unit's cache holds it, and no failure is counted. -/
structure WalkFilled (u : CacheUnit) (l : Leaf) (s t : State) : Prop extends Walked (s.readerHalf (.unit u)) s t where
  holds  : l ∈ t.cache u
  faults : t.xlatCount (s.readerHalf (.unit u)) 2 = s.xlatCount (s.readerHalf (.unit u)) 2

section
variable {u : CacheUnit} {ctx va : Nat} {s t : State}

theorem walkStopped_failed (level a : Nat) : WalkFailed u ctx va s (eccFaultAt a (walkStopped u ctx va level s)) := by
  have hecc := eccFaultAt_xlatKept a (walkStopped u ctx va level s)
  unfold walkStopped at hecc ⊢
  dsimp only at hecc ⊢
  generalize hv : forEach _ _ (lookedUp u ctx va s) = v at hecc ⊢
  have hcount : XlatKept (lookedUp u ctx va s) v := hv ▸ .forEach (fun _ _ => countAccess_xlatKept ..) _
  have hbump (w : Nat) (x : State) := bumpXlat_quiet (s.readerHalf (.unit u)) w 1 x
  refine ⟨⟨?_, ?_, ?_, ?_, ?_⟩, ?_, ?_⟩
  · rw [hecc.count, bumpXlat_xlatCount_ne _ _ _ _ (by decide), bumpXlat_xlatCount_ne _ _ _ _ (by decide), hcount.count, lookedUp_lookups]
  · rw [hecc.count, bumpXlat_xlatCount_ne _ _ _ _ (by decide), bumpXlat_xlatCount_self, hcount.count,
      lookedUp_xlatCount_ne _ _ _ _ _ (by decide)]
  · rw [hecc.dram, (hbump 2 _).dram, (hbump 1 _).dram, hcount.dram, (lookedUp_quiet ..).dram]
  · rw [hecc.shared, (hbump 2 _).shared, (hbump 1 _).shared, hcount.shared, (lookedUp_quiet ..).shared]
  · rw [hecc.knots, bumpXlat, updHalf_seq, bumpXlat, updHalf_seq, hcount.knots, lookedUp_knots]
  · rw [hecc.cache, bumpXlat_cache, bumpXlat_cache, hcount.cache]; exact lookedUp_misses ..
  · rw [hecc.count, bumpXlat_xlatCount_self, bumpXlat_xlatCount_ne _ _ _ _ (by decide), hcount.count,
      lookedUp_xlatCount_ne _ _ _ _ _ (by decide)]

variable (hkept : XlatKept (lookedUp u ctx va s) t) (hdev : t.dev = s.dev)
include hkept hdev

/-- The lookup and the walk, counted on the page tables of a state that the lookup led to. -/
theorem countWalk_walked : Walked (s.readerHalf (.unit u)) s (countWalk (.unit u) ctx va t) := by
  have hhalf : t.readerHalf (.unit u) = s.readerHalf (.unit u) := readerHalf_congr hdev _
  refine ⟨?_, ?_, ?_, ?_, ?_⟩
  · rw [countWalk_xlatCount_ne _ _ _ _ _ (by decide), hkept.count, lookedUp_lookups]
  · rw [← hhalf, countWalk_xlatCount_walks, hkept.count, lookedUp_xlatCount_ne _ _ _ _ _ (by decide)]
  · rw [(countWalk_quiet ..).dram, hkept.dram, (lookedUp_quiet ..).dram]
  · rw [(countWalk_quiet ..).shared, hkept.shared, (lookedUp_quiet ..).shared]
  · rw [(countWalk_keeps ..).seq rfl, hkept.knots, lookedUp_knots]

theorem walkFor_failed {write : Bool} (h : t.walkFails ctx va write) :
    WalkFailed u ctx va s (walkFor (.unit u) ctx va write t).2 := by
  have hhalf : t.readerHalf (.unit u) = s.readerHalf (.unit u) := readerHalf_congr hdev _
  have hwalk := countWalk_walked hkept hdev
  have hquiet := bumpXlat_quiet (s.readerHalf (.unit u)) 2 1 (countWalk (.unit u) ctx va t)
  rw [walkFor_of_fails h, hhalf]
  refine ⟨⟨?_, ?_, hquiet.dram.trans hwalk.dram, hquiet.shared.trans hwalk.shared, ?_⟩, ?_, ?_⟩
  · rw [bumpXlat_xlatCount_ne _ _ _ _ (by decide), hwalk.looks]
  · rw [bumpXlat_xlatCount_ne _ _ _ _ (by decide), hwalk.walks]
  · rw [bumpXlat, updHalf_seq, hwalk.knots]
  · rw [bumpXlat_cache, countWalk_cache, hkept.cache]; exact lookedUp_misses ..
  · rw [bumpXlat_xlatCount_self, countWalk_xlatCount_ne _ _ _ _ _ (by decide), hkept.count,
      lookedUp_xlatCount_ne _ _ _ _ _ (by decide)]

theorem walkFor_filled {write : Bool} {l : Leaf} (hl : t.walk ctx va = some l) (hgrant : t.grant l va write ≠ none) :
    WalkFilled u l s (walkFor (.unit u) ctx va write t).2 := by
  have hwalk := countWalk_walked hkept hdev
  have hquiet := cacheInsert_quiet u l (countWalk (.unit u) ctx va t)
  rw [walkFor_of_leaf hl hgrant]
  refine ⟨⟨?_, ?_, hquiet.dram.trans hwalk.dram, hquiet.shared.trans hwalk.shared, ?_⟩, mem_cacheInsert .., ?_⟩
  · rw [cacheInsert_xlatCount, hwalk.looks]
  · rw [cacheInsert_xlatCount, hwalk.walks]
  · rw [cacheInsert_knots, hwalk.knots]
  · rw [cacheInsert_xlatCount, countWalk_xlatCount_ne _ _ _ _ _ (by decide), hkept.count,
      lookedUp_xlatCount_ne _ _ _ _ _ (by decide)]

end

theorem walksEndInALeafOrAFault : WalksEndInALeafOrAFault := by
  intro u ctx va write level ecc s h walk failed
  have hexec : exec (.translationWalk u ctx va write level ecc) s =
      .next (if s.unitWalks u then translationWalk u ctx.toNat va.toNat write level.toNat ecc s else s) := rfl
  refine ⟨fun hclosed => by rw [hexec, hclosed]; rfl, fun hopen => ?_⟩
  refine ⟨translationWalk u ctx.toNat va.toNat write level.toNat ecc s, by rw [hexec, hopen]; rfl, (translationWalk_keeps ..).units _ rfl, ?_⟩
  by_cases hstop : ecc = .uncorrectable ∧ level.toNat < (s.walkReads ctx.toNat va.toNat).length
  · obtain ⟨rfl, hlevel⟩ := hstop
    obtain ⟨a, heq⟩ := translationWalk_of_stopped (u := u) write hlevel
    have hend : WalkFailed u ctx.toNat va.toNat s _ := heq ▸ walkStopped_failed level.toNat a
    exact ⟨hend.dram, hend.shared, hend.knots, hend.looks, hend.walks, fun _ => ⟨hend.misses, hend.faults⟩,
      fun hok => absurd (.inl ⟨rfl, hlevel⟩) hok⟩
  · obtain ⟨t, heq, halike, hkept, hdev⟩ := translationWalk_of_readable (u := u) write hstop
    have hwalk : t.walk ctx.toNat va.toNat = walk := congrArg Prod.fst ((halike.walkPath ..).trans (lookedUp_walkPath ..))
    have hgrant (l : Leaf) : t.grant l va.toNat write = s.grant l va.toNat write :=
      grant_congr (halike.img.trans (lookedUp_readsOnly ..).img) ..
    have hfails : failed ↔ t.walkFails ctx.toNat va.toNat write := by
      unfold State.walkFails
      simp only [hwalk, hgrant, failed, hstop, false_or]
    rw [heq]
    by_cases hfail : t.walkFails ctx.toNat va.toNat write
    · have hend := walkFor_failed hkept hdev hfail
      exact ⟨hend.dram, hend.shared, hend.knots, hend.looks, hend.walks, fun _ => ⟨hend.misses, hend.faults⟩,
        fun hok => absurd (hfails.2 hfail) hok⟩
    · rw [State.walkFails, not_or] at hfail
      obtain ⟨l, hl⟩ := Option.ne_none_iff_exists'.1 hfail.1
      have hend := walkFor_filled hkept hdev hl fun hdeny => hfail.2 ⟨l, hl, hdeny⟩
      have hno : ¬failed := by rw [hfails, State.walkFails, not_or]; exact hfail
      refine ⟨hend.dram, hend.shared, hend.knots, hend.looks, hend.walks, fun hbad => absurd hbad hno, fun _ => ⟨hend.faults, ?_⟩⟩
      intro l' hl'
      rw [← hwalk, hl] at hl'
      cases hl'; exact hend.holds

end Sys2Proof.Machine
end

section
/-! Bytes at physical addresses (R177, R201, R202): which cells addresses reach, and writes of byte strings to them. -/
namespace Sys2Proof.Machine

/-! ### The physical map -/

/-- The image's tables, and of every channel the density and whether it is LOST: the physical map is the same (R177, R201, R219). -/
structure MapKept (s t : State) : Prop where
  entry   : t.img.entry = s.img.entry
  lost    : ∀ c, ((t.chan c).st == .lost) = ((s.chan c).st == .lost)
  density : ∀ c, (t.chan c).density = (s.chan c).density

section
variable {s t u : State}

theorem MapKept.refl (s : State) : MapKept s s := ⟨rfl, fun _ => rfl, fun _ => rfl⟩

theorem MapKept.trans (h : MapKept s t) (k : MapKept t u) : MapKept s u :=
  ⟨k.entry.trans h.entry, fun c => (k.lost c).trans (h.lost c), fun c => (k.density c).trans (h.density c)⟩

theorem MapKept.ite {c : Prop} [Decidable c] (h : MapKept s t) (k : MapKept s u) : MapKept s (if c then t else u) := by
  split <;> assumption

theorem MapKept.of_chans (himg : t.img = s.img) (hchans : t.mem.channels = s.mem.channels) : MapKept s t := by
  have hchan (c : Nat) : t.chan c = s.chan c := by unfold State.chan; rw [hchans]
  exact ⟨by rw [himg], fun c => by rw [hchan], fun c => by rw [hchan]⟩

theorem MapKept.of_keeps {m : Nat} (k : Keeps m s t) (h5 : m.testBit 5 = false := by rfl) (h10 : m.testBit 10 = false := by rfl) :
    MapKept s t := .of_chans (k.img h5) (by rw [k.mem h10])

theorem MapKept.forEach {α : Type} {l : List α} {f : α → State → State} (hf : ∀ a t, MapKept t (f a t)) (s : State) :
    MapKept s (forEach l f s) := forEach_invariant (P := MapKept s) (fun a t h => h.trans (hf a t)) l s (.refl s)

theorem MapKept.updChan (c : Nat) {f : Channel → Channel} (s : State) (hst : ∀ x, ((f x).st == .lost) = (x.st == .lost))
    (hdensity : ∀ x, (f x).density = x.density) : MapKept s (updChan c f s) := by
  have hchan (k : Nat) : (Machine.updChan c f s).chan k = if k = c then f (s.chan k) else s.chan k := by
    split
    · next hk => rw [hk, updChan_self]
    · next hk => rw [updChan_ne _ _ _ hk]
  refine ⟨rfl, fun k => ?_, fun k => ?_⟩ <;> rw [hchan] <;> split
  · exact hst _
  · rfl
  · exact hdensity _
  · rfl

theorem MapKept.locate (h : MapKept s t) (a : Nat) : t.locate a = s.locate a := by
  have hset : t.setOf a = s.setOf a := by unfold State.setOf; simp only [h.entry, h.density]
  unfold State.locate State.hostBus State.setChans
  simp only [hset, h.entry, h.lost]

theorem MapKept.cellAt (h : MapKept s t) (a : Nat) : cellAt t a = cellAt s a := by
  unfold Sys2Proof.cellAt; rw [h.locate]

end

theorem bumpChan_mapKept (c w k : Nat) (s : State) : MapKept s (bumpChan c w k s) := .updChan c s (fun _ => rfl) fun _ => rfl

theorem touchBlock_mapKept (c block : Nat) (s : State) : MapKept s (touchBlock c block s) :=
  .ite (bumpChan_mapKept ..)
    ((MapKept.updChan c (f := fun x => { x with openRows := x.openRows.set (dramRow (64 * block)).2.2.1 ((dramRow (64 * block)).2.2.2 + 1) })
      s (fun _ => rfl) fun _ => rfl).trans (bumpChan_mapKept ..))

/-- An access wakes a sleeping channel, and leaves a LOST one lost (R214, R219). -/
theorem woken_lost (now : Nat) (x : Channel) : ((x.woken now).st == .lost) = (x.st == .lost) := by
  unfold Channel.woken
  cases x.st <;> rfl

theorem accessBlock_mapKept (write : Bool) (e : Nat × Nat) (s : State) : MapKept s (accessBlock write e s) := by
  rw [accessBlock_eq]
  exact ((MapKept.updChan e.1 s (woken_lost s.hp) fun _ => rfl).trans (touchBlock_mapKept ..)).trans (bumpChan_mapKept ..)

theorem countAccess_mapKept (write : Bool) (a n : Nat) (s : State) : MapKept s (countAccess write a n s) :=
  .forEach (fun e t => accessBlock_mapKept write e t) s

theorem countChannels_mapKept (fixed : List (BitVec 5)) (s : State) : MapKept s (countChannels fixed s) :=
  .forEach (fun _ _ => bumpChan_mapKept ..) s

theorem bumpXlat_mapKept (h : Half) (w k : Nat) (s : State) : MapKept s (bumpXlat h w k s) := .of_keeps (bumpXlat_keeps ..)

theorem fresh_mapKept (s : State) : MapKept s (fresh s).2 := .of_keeps (fresh_keeps s)

theorem setCache_mapKept (u : CacheUnit) (c : List Leaf) (s : State) : MapKept s (setCache u c s) := by
  cases u <;> exact .of_chans rfl rfl

theorem cacheInsert_mapKept (u : CacheUnit) (l : Leaf) (s : State) : MapKept s (cacheInsert u l s) :=
  .ite (setCache_mapKept ..) ((fresh_mapKept s).trans (setCache_mapKept ..))

theorem countWalk_mapKept (r : Reader) (ctx va : Nat) (s : State) : MapKept s (countWalk r ctx va s) :=
  ((fresh_mapKept s).trans (bumpXlat_mapKept ..)).trans (.forEach (fun _ _ => countAccess_mapKept ..) _)

theorem walkFor_mapKept (r : Reader) (ctx va : Nat) (write : Bool) (s : State) : MapKept s (walkFor r ctx va write s).2 := by
  have hwalk := countWalk_mapKept r ctx va s
  unfold walkFor
  dsimp only
  split
  · exact hwalk.trans (bumpXlat_mapKept ..)
  · split
    · exact hwalk.trans (bumpXlat_mapKept ..)
    · split
      · exact hwalk.trans (cacheInsert_mapKept ..)
      · exact hwalk

theorem translate_mapKept (r : Reader) (ctx va : Nat) (write : Bool) (s : State) : MapKept s (translate r ctx va write s).2 := by
  unfold translate
  split
  · exact walkFor_mapKept ..
  · split
    · split
      · exact .refl s
      · exact bumpXlat_mapKept ..
    · exact (bumpXlat_mapKept ..).trans (walkFor_mapKept ..)

theorem putLoc_mapKept (l : Loc) (b : Byte) (s : State) : MapKept s (putLoc l b s) := by
  cases l with
  | dram c co =>
    obtain ⟨k, hput⟩ := putDram_eq c co [b] s
    unfold putLoc
    dsimp only
    rw [hput]
    exact .of_chans rfl rfl
  | shared | host | fire => exact .of_chans rfl rfl

/-! ### Cells -/

section
variable {s t u : State}

/-- A cell of the device's own memory holds what DRAM or the shared stores hold. -/
theorem cellByte_congr (hdram : t.mem.dram = s.mem.dram) (hshared : t.mem.shared = s.mem.shared) {k : Nat × Nat} (hk : k.1 < 2) :
    cellByte t k = cellByte s k := by
  match k, hk with
  | (0, _), _ => exact congrArg (Store.read · _) hdram
  | (1, _), _ => exact congrArg (Store.read · _) hshared

theorem locate_of_cellAt {a : Nat} {k : Nat × Nat} (h : cellAt s a = some k) : ∃ l, s.locate a = .ok l := by
  unfold cellAt at h
  cases hl : s.locate a with
  | ok l => exact ⟨l, rfl⟩
  | error c => rw [hl] at h; cases h

theorem locByte_of_cellAt {a : Nat} {l : Loc} {k : Nat × Nat} (hl : s.locate a = .ok l) (h : cellAt s a = some k) (hk : k.1 < 2)
    (salt : Nat) : s.locByte salt l = cellByte s k := by
  unfold cellAt at h
  rw [hl] at h
  cases l <;> cases h
  case dram | shared => rfl
  case host => exact absurd hk (by simp)

theorem putLoc_host {a : Nat} {l : Loc} {k : Nat × Nat} (hl : s.locate a = .ok l) (h : cellAt s a = some k) (hk : k.1 < 2)
    (b : Byte) : (putLoc l b s).host = s.host := by
  unfold cellAt at h
  rw [hl] at h
  cases l <;> cases h
  case dram c co =>
    exact (putDram_keeps c co [b] s).host rfl
  case shared => rfl
  case host => exact absurd hk (by simp)

/-- One byte put at a cell of the device's own memory changes that cell alone. -/
theorem putLoc_cellByte (hok : s.Ok) {a : Nat} {l : Loc} {k : Nat × Nat} (hl : s.locate a = .ok l) (h : cellAt s a = some k)
    (hk : k.1 < 2) (b : Byte) : cellByte (putLoc l b s) k = b
      ∧ ∀ j : Nat × Nat, j.1 < 2 → j ≠ k → cellByte (putLoc l b s) j = cellByte s j := by
  obtain ⟨hdram, hshared, -⟩ := hok.mem
  unfold cellAt at h
  rw [hl] at h
  cases l with
  | dram c co =>
    cases h
    obtain ⟨x, hput⟩ := putDram_eq c co [b] s
    unfold putLoc
    dsimp only
    rw [hput]
    refine ⟨Store.read_write_self _ _ _ hdram, fun j hj hne => ?_⟩
    match j, hj with
    | (0, y), _ => exact Store.read_write_ne _ _ hdram fun heq => hne (by rw [heq])
    | (1, _), _ => rfl
  | shared o =>
    cases h
    refine ⟨Store.read_write_self _ _ _ hshared, fun j hj hne => ?_⟩
    match j, hj with
    | (0, _), _ => rfl
    | (1, y), _ => exact Store.read_write_ne _ _ hshared fun heq => hne (by rw [heq])
  | host b => cases h; exact absurd hk (by simp)
  | fire p o => cases h

end

end Sys2Proof.Machine
end

section
/-! Byte strings moved to cells of the device's own memory (R177): one after another, and around what leaves the memory. -/
namespace Sys2Proof
open Machine

section
variable {s t u : State}
variable {addr : Nat → Nat} {n : Nat}

theorem Plain.congr (h : Plain addr n s) (k : MapKept s t) : Plain addr n t := by
  unfold Plain at h ⊢; simp only [k.cellAt]; exact h

theorem Plain.cell (h : Plain addr n s) {i : Nat} (hi : i < n) {k : Nat × Nat} (hk : cellAt s (addr i) = some k) : k.1 < 2 := by
  obtain ⟨k', hk', hlt⟩ := h.1 i hi
  rw [hk] at hk'
  cases hk'; exact hlt

theorem Plain.take {m : Nat} (h : Plain addr (m + n) s) : Plain addr m s :=
  ⟨fun i hi => h.1 i (by omega), fun i j hi hj => h.2 i j (by omega) (by omega)⟩

theorem Plain.drop {m : Nat} (h : Plain addr (m + n) s) : Plain (fun i => addr (m + i)) n s :=
  ⟨fun i hi => h.1 (m + i) (by omega), fun i j hi hj heq => by have := h.2 (m + i) (m + j) (by omega) (by omega) heq; omega⟩

theorem Plain.of_eq {f : Nat → Nat} (h : Plain addr n s) (hf : ∀ i, i < n → f i = addr i) : Plain f n s := by
  refine ⟨fun i hi => by rw [hf i hi]; exact h.1 i hi, fun i j hi hj => ?_⟩
  rw [hf i hi, hf j hj]; exact h.2 i j hi hj

theorem BytesMoved.of_eq {f : Nat → Nat} {bs : List Byte} (h : BytesMoved addr bs s t) (hf : ∀ i, i < bs.length → f i = addr i) :
    BytesMoved f bs s t := by
  refine ⟨fun i hi => by rw [hf i hi]; exact h.1 i hi, fun k hk hout => h.2 k hk fun i hi => ?_⟩
  rw [← hf i hi]; exact hout i hi

/-- Bytes move the same from a state that an earlier one led to with the same map and memories. -/
theorem BytesMoved.before {bs : List Byte} (hmap : MapKept s t) (hdram : t.mem.dram = s.mem.dram)
    (hshared : t.mem.shared = s.mem.shared) (h : BytesMoved addr bs t u) : BytesMoved addr bs s u := by
  unfold BytesMoved at h ⊢
  simp only [hmap.cellAt] at h
  exact ⟨h.1, fun k hk hout => (h.2 k hk hout).trans (cellByte_congr hdram hshared hk)⟩

theorem BytesMoved.after {bs : List Byte} (hplain : Plain addr bs.length s) (h : BytesMoved addr bs s t)
    (hdram : u.mem.dram = t.mem.dram) (hshared : u.mem.shared = t.mem.shared) : BytesMoved addr bs s u :=
  ⟨fun i hi k hk => (cellByte_congr hdram hshared (hplain.cell hi hk)).trans (h.1 i hi k hk),
    fun k hk hout => (cellByte_congr hdram hshared hk).trans (h.2 k hk hout)⟩

theorem BytesMoved.nil (addr : Nat → Nat) (s : State) : BytesMoved addr [] s s := ⟨fun i hi => absurd hi (Nat.not_lt_zero i), fun _ _ _ => rfl⟩

/-- Two strings moved one after the other, to cells that are all different, are one string moved. -/
theorem BytesMoved.append {xs ys : List Byte} (hplain : Plain addr (xs.length + ys.length) s) (hmap : MapKept s t)
    (hx : BytesMoved addr xs s t) (hy : BytesMoved (fun i => addr (xs.length + i)) ys t u) : BytesMoved addr (xs ++ ys) s u := by
  obtain ⟨hyin, hyout⟩ := hy
  simp only [hmap.cellAt] at hyin hyout
  refine ⟨fun i hi k hk => ?_, fun k hk hout => ?_⟩
  · rw [List.length_append] at hi
    by_cases hlt : i < xs.length
    · have hstay : ∀ j, j < ys.length → cellAt s (addr (xs.length + j)) ≠ some k := fun j hj heq => by
        have := hplain.2 i (xs.length + j) hi (by omega) (hk.trans heq.symm)
        omega
      rw [hyout k (hplain.cell hi hk) hstay, hx.1 i hlt k hk, List.getD_append _ _ _ _ hlt]
    · have hge : xs.length ≤ i := Nat.not_lt.1 hlt
      have hat : cellAt s (addr (xs.length + (i - xs.length))) = some k := by rwa [Nat.add_sub_cancel' hge]
      rw [hyin (i - xs.length) (by omega) k hat, List.getD_append_right _ _ _ _ hge]
  · rw [hyout k hk fun j hj => hout (xs.length + j) (by rw [List.length_append]; omega)]
    exact hx.2 k hk fun i hi => hout i (by rw [List.length_append]; omega)

end

end Sys2Proof
end

section
/-! Writes and reads at physical addresses (R177), and accesses inside one page, which reach the bytes that their address translates to
(R181). -/
namespace Sys2Proof.Machine

/-! ### Physical writes and reads -/

theorem physWrite_mapKept (a : Nat) (bs : List Byte) (s : State) : MapKept s (physWrite a bs s).2 := by
  induction bs generalizing a s with
  | nil => exact .refl s
  | cons b bs ih =>
    unfold physWrite
    split
    · exact .refl s
    · exact (putLoc_mapKept ..).trans (ih _ _)

/-- A byte string written to cells of the device's own memory stands there, host memory is as it was, and nothing faults. -/
theorem physWrite_moved {a : Nat} {bs : List Byte} {s : State} (hok : s.Ok) (h : Plain (a + ·) bs.length s) :
    (physWrite a bs s).1 = .ok () ∧ BytesMoved (a + ·) bs s (physWrite a bs s).2 ∧ (physWrite a bs s).2.host = s.host := by
  induction bs generalizing a s with
  | nil => exact ⟨rfl, BytesMoved.nil _ s, rfl⟩
  | cons b bs ih =>
    rw [List.length_cons, Nat.add_comm bs.length 1] at h
    obtain ⟨k, hk, hlt⟩ := h.1 0 (by omega)
    obtain ⟨l, hl⟩ := locate_of_cellAt hk
    obtain ⟨hself, hother⟩ := putLoc_cellByte hok hl hk hlt b
    have hstep : physWrite a (b :: bs) s = physWrite (a + 1) bs (putLoc l b s) := by
      have hl0 : s.locate a = .ok l := hl
      rw [physWrite, hl0]
    have hmap := putLoc_mapKept l b s
    have hone : BytesMoved (a + ·) [b] s (putLoc l b s) := by
      refine ⟨fun i hi j hj => ?_, fun j hj hout => hother j hj fun heq => hout 0 (by simp) (by rw [heq]; exact hk)⟩
      obtain rfl : i = 0 := Nat.lt_one_iff.1 hi
      rw [hk] at hj
      cases hj; exact hself
    have hrest : Plain (a + 1 + ·) bs.length (putLoc l b s) :=
      (Plain.drop h).congr hmap |>.of_eq fun i _ => Nat.add_assoc a 1 i
    obtain ⟨hres, hmoved, hhost⟩ := ih ((putLoc_keeps l b s).ok hok) hrest
    rw [hstep]
    exact ⟨hres, BytesMoved.append (xs := [b]) h hmap hone (hmoved.of_eq fun i _ => (Nat.add_assoc a 1 i).symm),
      hhost.trans (putLoc_host hl hk hlt b)⟩

/-- Physical bytes read at cells of the device's own memory. -/
theorem physBytes_of_plain {a n : Nat} {s : State} (h : Plain (a + ·) n s) (salt : Nat) :
    s.physBytes salt a n = .ok ((List.range n).map fun i => cellByte s ((cellAt s (a + i)).getD (0, 0))) := by
  have hbyte : ∀ i ∈ List.range n, (s.locate (a + i)).map (s.locByte salt)
      = pure (cellByte s ((cellAt s (a + i)).getD (0, 0))) := fun i hi => by
    obtain ⟨k, hk, hlt⟩ := h.1 i (List.mem_range.1 hi)
    obtain ⟨l, hl⟩ := locate_of_cellAt hk
    rw [hl, hk]
    exact congrArg Except.ok (locByte_of_cellAt hl hk hlt salt)
  unfold State.physBytes
  generalize List.range n = l at hbyte ⊢
  induction l with
  | nil => rfl
  | cons i l ih =>
    rw [List.mapM_cons, hbyte i List.mem_cons_self, ih fun j hj => hbyte j (List.mem_cons_of_mem _ hj)]
    rfl

/-! ### Accesses inside one page -/

/-- A range inside one page is one piece. -/
theorem pieces_of_page {va n : Nat} (hva : va < 2 ^ 48) (hn : n ≠ 0) (hpage : va % 65536 + n ≤ 65536) : pieces va n = [(va, n)] := by
  have hone : (n - 1 + va % 65536) / 65536 + 1 = 1 := by omega
  have hend : min (va + n) ((va / 65536 + 0 + 1) * 65536) - va = n := by omega
  rw [pieces, if_neg hn, hone]
  simp only [List.range_one, List.map_cons, List.map_nil, if_true, hend, Nat.mod_eq_of_lt hva]

section
variable {r : Reader} {ctx va pa : Nat} {bs : List Byte} {s : State} (hva : va < 2 ^ 48) (hpage : va % 65536 + bs.length ≤ 65536)
  (hne : bs ≠ []) (hplain : Plain (pa + ·) bs.length s)
include hva hpage hne hplain

theorem vwrite_of_page (hok : s.Ok) (htrans : (translate r ctx va true s).1 = some pa) :
    (vwrite r ctx va bs s).1 = .ok () ∧ BytesMoved (pa + ·) bs s (vwrite r ctx va bs s).2 := by
  have hpair : translate r ctx va true s = (some pa, (translate r ctx va true s).2) := Prod.ext htrans rfl
  have hlen : bs.length ≠ 0 := fun h => hne (List.length_eq_zero_iff.1 h)
  have hmap := (translate_mapKept r ctx va true s).trans (countAccess_mapKept true pa bs.length _)
  have hquiet := (translate_quiet r ctx va true s).trans (countAccess_quiet true pa bs.length _)
  have hkok := (countAccess_keeps true pa bs.length _).ok ((translate_keeps r ctx va true s).ok hok)
  obtain ⟨hres, hmoved, -⟩ := physWrite_moved hkok (hplain.congr hmap)
  have hwrite : vwrite r ctx va bs s = physWrite pa bs (countAccess true pa bs.length (translate r ctx va true s).2) := by
    rw [vwrite, pieces_of_page hva hlen hpage, writePieces, hpair]
    dsimp only
    rw [List.take_length]
    generalize physWrite pa bs _ = x at hres ⊢
    obtain ⟨res, u⟩ := x
    obtain rfl : res = .ok () := hres
    rfl
  rw [hwrite]
  exact ⟨hres, hmoved.before hmap hquiet.dram hquiet.shared⟩

theorem vread_of_page (htrans : (translate r ctx va false s).1 = some pa) :
    (vread r ctx va bs.length s).1 = .ok ((List.range bs.length).map fun i => cellByte s ((cellAt s (pa + i)).getD (0, 0))) := by
  have hpair : translate r ctx va false s = (some pa, (translate r ctx va false s).2) := Prod.ext htrans rfl
  have hlen : bs.length ≠ 0 := fun h => hne (List.length_eq_zero_iff.1 h)
  have hmap := (translate_mapKept r ctx va false s).trans (fresh_mapKept _)
  have hquiet := (translate_quiet r ctx va false s).trans (.of_keeps (fresh_keeps _))
  have hbytes := physBytes_of_plain (hplain.congr hmap) (fresh (translate r ctx va false s).2).1
  have hsame : (List.range bs.length).map (fun i => cellByte (fresh (translate r ctx va false s).2).2
        ((cellAt (fresh (translate r ctx va false s).2).2 (pa + i)).getD (0, 0)))
      = (List.range bs.length).map fun i => cellByte s ((cellAt s (pa + i)).getD (0, 0)) :=
    List.map_congr_left fun i hi => by
      obtain ⟨k, hk, hlt⟩ := hplain.1 i (List.mem_range.1 hi)
      rw [hmap.cellAt, hk]
      exact cellByte_congr hquiet.dram hquiet.shared hlt
  rw [vread, pieces_of_page hva hlen hpage, readPieces, hpair]
  dsimp only
  rw [hbytes, hsame]
  simp only [readPieces, List.append_nil]

end

theorem accessesReachTheirBytes : AccessesReachTheirBytes := fun _ _ _ _ _ _ hok hva hpage hne hplain =>
  ⟨vwrite_of_page hva hpage hne hplain hok, vread_of_page hva hpage hne hplain⟩

/-- Settles O32: a walk fills its unit's cache or leaves no leaf of the address, and an access inside a page is a physical one. -/
theorem walksFillTheCache : Obligations.WalksFillTheCache := ⟨walksEndInALeafOrAFault, accessesReachTheirBytes⟩

end Sys2Proof.Machine
end

section
/-! A final reply (R34, R41, R43): what it leaves of its ring page and of host memory. -/
namespace Sys2Proof.Machine

/-- The state is ready for a final reply: ring pages, the address of the status block and the time are the same, and of host memory
only a range may differ. -/
structure ReplyReady (base n : Nat) (s u : State) : Prop where
  rings       : u.host.rings = s.host.rings
  statusBlock : u.host.statusBlock = s.host.statusBlock
  time        : u.time = s.time
  wf          : s.host.mem.wf = true → u.host.mem.wf = true
  read        : s.host.mem.wf = true → ∀ a, Apart a base n → u.host.mem.read a = s.host.mem.read a

section
variable {base n : Nat} {s t u : State}

theorem ReplyReady.of_host (hhost : u.host = s.host) (htime : u.time = s.time) : ReplyReady base n s u :=
  ⟨by rw [hhost], by rw [hhost], htime, fun h => by rw [hhost]; exact h, fun _ _ _ => by rw [hhost]⟩

theorem ReplyReady.of_keeps {m : Nat} (k : Keeps m s u) (h0 : m.testBit 0 = false := by rfl) (h4 : m.testBit 4 = false := by rfl) :
    ReplyReady base n s u := .of_host (k.host h4) (k.time h0)

theorem ReplyReady.trans (h : ReplyReady base n s t) (k : ReplyReady base n t u) : ReplyReady base n s u :=
  ⟨k.rings.trans h.rings, k.statusBlock.trans h.statusBlock, k.time.trans h.time, fun hwf => k.wf (h.wf hwf),
    fun hwf a ha => (k.read (h.wf hwf) a ha).trans (h.read hwf a ha)⟩

theorem hostWrite_replyReady (a : Nat) (bs : List Byte) (s : State) : ReplyReady a bs.length s (hostWrite a bs s) :=
  ⟨rfl, rfl, rfl, fun hwf => Store.writeN_wf _ _ _ hwf, fun hwf _ ha => Store.read_writeN_out _ _ _ _ hwf ha⟩

/-- The record of a final reply that is the next of its ring. -/
def finalRecord (k : Tagged) (status : Nat) (eff detail : Word) (s : State) : List Byte :=
  wordsBytes (recordWords k.tag status k.op 1 k.ring ((s.ring k.ring).tail.toNat / (s.ring k.ring).records % 2 == 0) k.ctx k.hoop
    eff s.time.ts detail)

theorem finalRecord_length (k : Tagged) (status : Nat) (eff detail : Word) (s : State) :
    (finalRecord k status eff detail s).length = 32 := wordsBytes_length _

section
variable (h : ReplyReady base n s u) (k : Tagged) (status : Nat) (eff detail : Word)
include h

/-- A final reply writes its record to the next slot, and the new tail to the ring's word of the status block. -/
theorem ReplyReady.replyFinal_hostMem : (replyFinal k status eff detail u).host.mem =
    (u.host.mem.writeN (slotOf k.ring s) (finalRecord k status eff detail s)).writeN (tailWord k.ring s)
      (toLE 8 ((s.ring k.ring).tail + 1).toNat) := by
  have hring : u.ring k.ring = s.ring k.ring := ring_of_rings h.rings _
  have hword : u.host.statusBlock.toNat + (0x48 + 16 * k.ring) = tailWord k.ring s := by
    rw [h.statusBlock]; exact (Nat.add_assoc ..).symm
  have hmem : (replyFinal k status eff detail u).host.mem = (writeReply k 1 status eff detail u).host.mem := updRing_host_mem ..
  rw [hmem, writeReply_hostMem, hring, hword, State.now, h.time]
  rfl

theorem ReplyReady.finalReply : FinalReply k status eff detail s (replyFinal k status eff detail u) := by
  have hring (m : Nat) : u.ring m = s.ring m := ring_of_rings h.rings m
  refine ⟨?_, fun m hm => ?_, fun hwf hapart => ?_⟩
  · rw [replyFinal_ring, if_pos rfl, hring]
  · rw [replyFinal_ring, if_neg hm, hring]
  · have hwfu := h.wf hwf
    rw [h.replyFinal_hostMem,
      Store.readN_writeN_out _ _ _ _ _ (Store.writeN_wf _ _ _ hwfu) (by rw [toLE_length]; exact hapart),
      Store.readN_writeN_self hwfu (finalRecord_length ..)]
    rfl

/-- What lies apart from a final reply is read as before it. -/
theorem ReplyReady.read_replyFinal (hwf : s.host.mem.wf = true) {a : Nat} (hslot : Apart a (slotOf k.ring s) 32)
    (htail : Apart a (tailWord k.ring s) 8) : (replyFinal k status eff detail u).host.mem.read a = u.host.mem.read a := by
  have hwfu := h.wf hwf
  rw [h.replyFinal_hostMem,
    Store.read_writeN_out _ _ _ _ (Store.writeN_wf _ _ _ hwfu) (by rw [toLE_length]; exact htail),
    Store.read_writeN_out _ _ _ _ hwfu (by rw [finalRecord_length]; exact hslot)]

theorem ReplyReady.onlyFinalReply : OnlyFinalReply k.ring base n s (replyFinal k status eff detail u) :=
  fun hwf a hslot htail ha => (h.read_replyFinal k status eff detail hwf hslot htail).trans (h.read hwf a ha)

theorem ReplyReady.readN_replyFinal (hwf : s.host.mem.wf = true) {a m : Nat} (hslot : ApartRange a m (slotOf k.ring s) 32)
    (htail : ApartRange a m (tailWord k.ring s) 8) :
    (replyFinal k status eff detail u).host.mem.readN a m = u.host.mem.readN a m := by
  refine Store.readN_congr fun j hlow hhigh => h.read_replyFinal k status eff detail hwf ?_ ?_
  · unfold ApartRange at hslot; unfold Apart; omega
  · unfold ApartRange at htail; unfold Apart; omega

end
end

end Sys2Proof.Machine
end

section
/-! The end of a copy (R189, R192, R211, R221): it is no longer under way, its final reply, and the memory that it leaves. -/
namespace Sys2Proof.Machine

/-! ### Bytes over physical pieces -/

theorem putLoc_rings (l : Loc) (b : Byte) (s : State) : (putLoc l b s).host.rings = s.host.rings := by
  cases l with
  | dram c co => exact congrArg HostIf.rings ((putDram_keeps c co [b] s).host rfl)
  | shared | host | fire => rfl

theorem physWrite_rings (a : Nat) (bs : List Byte) (s : State) : (physWrite a bs s).2.host.rings = s.host.rings := by
  induction bs generalizing a s with
  | nil => rfl
  | cons b bs ih =>
    unfold physWrite
    split
    · rfl
    · exact (ih ..).trans (putLoc_rings ..)

theorem writePhysPieces_rings (l : List (Nat × Nat)) (bs : List Byte) (s : State) :
    (writePhysPieces l bs s).2.host.rings = s.host.rings := by
  induction l generalizing bs s with
  | nil => rfl
  | cons p l ih =>
    have hput : (physWrite p.1 (bs.take p.2) (countAccess true p.1 (min p.2 bs.length) s)).2.host.rings = s.host.rings :=
      (physWrite_rings ..).trans (countAccess_xlatKept ..).rings
    unfold writePhysPieces
    split
    · next heq => rw [heq] at hput; exact hput
    · next heq =>
      rw [heq] at hput
      split
      · exact hput
      · exact (ih ..).trans hput

/-- Bytes written over pieces in cells of the device's own memory stand there, and nothing faults (R192). -/
theorem writePhysPieces_moved {l : List (Nat × Nat)} {bs : List Byte} {s : State} (hok : s.Ok)
    (hlen : bs.length = (l.map (·.2)).sum) (h : Plain (pieceAddr l) bs.length s) :
    (writePhysPieces l bs s).1 = none ∧ BytesMoved (pieceAddr l) bs s (writePhysPieces l bs s).2
      ∧ (writePhysPieces l bs s).2.host = s.host := by
  induction l generalizing bs s with
  | nil =>
    obtain rfl : bs = [] := List.length_eq_zero_iff.1 hlen
    exact ⟨rfl, BytesMoved.nil _ s, rfl⟩
  | cons p l ih =>
    obtain ⟨pa, n⟩ := p
    have hsplit : bs.length = (bs.take n).length + (bs.drop n).length := by
      rw [← List.length_append, List.take_append_drop]
    have htake : (bs.take n).length = min n bs.length := List.length_take
    rw [hsplit] at h
    have hhead : ∀ i, i < (bs.take n).length → pa + i = pieceAddr ((pa, n) :: l) i := fun i hi =>
      (if_pos (by omega)).symm
    have hmap : MapKept s (countAccess true pa (min n bs.length) s) := countAccess_mapKept ..
    have hquiet := countAccess_quiet true pa (min n bs.length) s
    have hkept := (countAccess_keeps true pa (min n bs.length) s)
    obtain ⟨hres, hmoved, hhost⟩ := physWrite_moved (hkept.ok hok) ((Plain.take h).of_eq hhead |>.congr hmap)
    have hput := hmap.trans (physWrite_mapKept pa (bs.take n) _)
    have hokput := (physWrite_keeps pa (bs.take n) _).ok (hkept.ok hok)
    have hfirst := (hmoved.before hmap hquiet.dram hquiet.shared).of_eq fun i hi => (hhead i hi).symm
    have hhost' := hhost.trans (hkept.host rfl)
    unfold writePhysPieces
    generalize physWrite pa (bs.take n) (countAccess true pa (min n bs.length) s) = w at hres hput hokput hfirst hhost' ⊢
    obtain ⟨res, t⟩ := w
    obtain rfl : res = .ok () := hres
    dsimp only at hput hokput hfirst hhost' ⊢
    by_cases hend : bs.length ≤ n
    · rw [if_pos hend]
      rw [List.take_of_length_le hend] at hfirst
      exact ⟨rfl, hfirst, hhost'⟩
    · have htail : ∀ i, i < (bs.drop n).length → pieceAddr l i = pieceAddr ((pa, n) :: l) ((bs.take n).length + i) := fun i _ => by
        have hn : (bs.take n).length = n := by omega
        rw [hn, pieceAddr, if_neg (by omega), Nat.add_sub_cancel_left]
      have hrest : (bs.drop n).length = (l.map (·.2)).sum := by
        rw [List.map_cons, List.sum_cons] at hlen
        rw [List.length_drop]
        omega
      obtain ⟨hnone, hlast, hhost2⟩ := ih hokput hrest ((Plain.drop h).of_eq htail |>.congr hput)
      rw [if_neg hend]
      have hall := hfirst.append h hput (hlast.of_eq fun i hi => (htail i hi).symm)
      rw [List.take_append_drop] at hall
      exact ⟨hnone, hall, hhost2.trans hhost'⟩

/-- What physical reads answer depends on the map, the memories and the fireboxes. -/
theorem readPhysPieces_congr {s t : State} (hmap : MapKept s t) (hdram : t.mem.dram = s.mem.dram)
    (hshared : t.mem.shared = s.mem.shared) (hseq : t.seq = s.seq) (salt : Nat) (l : List (Nat × Nat)) :
    readPhysPieces t salt l = readPhysPieces s salt l := by
  have hbyte : t.locByte salt = s.locByte salt := by
    funext x
    cases x with
    | dram c co => exact congrArg (Store.read · _) hdram
    | shared o => exact congrArg (Store.read · _) hshared
    | host b => rfl
    | fire p o => unfold State.locByte State.hearth; rw [hseq]
  induction l with
  | nil => rfl
  | cons p l ih =>
    unfold readPhysPieces State.physBytes
    simp only [hmap.locate, hbyte, ih]

theorem length_of_mapM_ok {α β ε : Type} {f : α → Except ε β} {l : List α} {r : List β} (h : l.mapM f = .ok r) :
    r.length = l.length := by
  induction l generalizing r with
  | nil => cases h; rfl
  | cons a l ih =>
    rw [List.mapM_cons] at h
    cases ha : f a with
    | error e => rw [ha] at h; cases h
    | ok b =>
      cases hl : l.mapM f with
      | error e => rw [ha, hl] at h; cases h
      | ok bs =>
        rw [ha, hl] at h
        cases h
        rw [List.length_cons, List.length_cons, ih hl]

theorem length_of_readPhysPieces {s : State} {salt : Nat} {l : List (Nat × Nat)} {bs : List Byte}
    (h : readPhysPieces s salt l = .ok bs) : bs.length = (l.map (·.2)).sum := by
  induction l generalizing bs with
  | nil => cases h; rfl
  | cons p l ih =>
    unfold readPhysPieces at h
    cases ha : s.physBytes salt p.1 p.2 with
    | error e => rw [ha] at h; cases h
    | ok a =>
      cases hb : readPhysPieces s salt l with
      | error e => rw [ha, hb] at h; cases h
      | ok b =>
        rw [ha, hb] at h
        cases h
        have hlen : a.length = p.2 := (length_of_mapM_ok ha).trans List.length_range
        rw [List.length_append, hlen, ih hb, List.map_cons, List.sum_cons]

theorem slice_length (bs : List Byte) (off n : Nat) : (slice bs off n).length = n := by
  unfold slice
  dsimp only
  have hle : ((bs.drop off).take n).length ≤ n := List.length_take_le ..
  rw [List.length_append, List.length_replicate]
  omega

/-! ### The end of a copy -/

/-- A copy that ends, no longer under way, with its corrected errors counted. -/
def copyLeft (c : Copy) (fixed : List (BitVec 5)) (s : State) : State := (fresh (countChannels fixed (dropCopy c s))).2

/-- The parts of a copy's packet that its final reply echoes. -/
def copyTag (c : Copy) : Tagged := ⟨c.ring, c.tag, if c.isIn then 0x60 else 0x61, c.ctx, c.hoop⟩

section
variable {c : Copy} {fixed : List (BitVec 5)} {s : State}

theorem copyLeft_keeps (c : Copy) (fixed : List (BitVec 5)) (s : State) : Keeps 0x10420 s (copyLeft c fixed s) :=
  ((dropCopy_keeps c s).up.trans (countChannels_keeps fixed _).up).trans (fresh_keeps _).up

theorem copyLeft_img : (copyLeft c fixed s).img = Image.unawait (c.ring, c.tag) { s.img with copies := s.img.copies.erase c } :=
  ((fresh_keeps _).img rfl).trans ((countChannels_keeps fixed _).img rfl)

theorem copyLeft_mapKept : MapKept s (copyLeft c fixed s) := by
  have hdrop : MapKept s (dropCopy c s) := ⟨rfl, fun _ => rfl, fun _ => rfl⟩
  exact (hdrop.trans (countChannels_mapKept ..)).trans (fresh_mapKept _)

theorem copyLeft_quiet : Quiet s (copyLeft c fixed s) :=
  ((Quiet.of_keeps (dropCopy_keeps c s)).trans (.forEach (fun _ _ => updChan_quiet ..) _)).trans (.of_keeps (fresh_keeps _))

/-- A copy that a ring and tag name. -/
theorem copyDone_of_find {ring tag : Nat} (hfind : s.img.copies.find? (fun c => c.ring == ring && c.tag == tag) = some c)
    (data : List Byte) (stop : Option Nat) : copyDone ring tag data stop fixed s =
      match (if c.isIn then .ok (slice data 0 c.bytes) else readPhysPieces s s.freeCtr c.pages) with
      | .error _ => replyFinal (copyTag c) stFaultAddress 0 0 (copyLeft c fixed s)
      | .ok bs => copyFinish c (copyTag c) stop bs
          (if c.isIn then copyLeft c fixed s else countReads c.pages (copyLeft c fixed s)) := by
  have hmatch := List.find?_some hfind
  simp only [Bool.and_eq_true, beq_iff_eq] at hmatch
  obtain ⟨rfl, rfl⟩ := hmatch
  have hread : readPhysPieces (copyLeft c fixed s) (fresh (countChannels fixed (dropCopy c s))).1 c.pages
      = readPhysPieces s s.freeCtr c.pages := by
    have hsalt : (fresh (countChannels fixed (dropCopy c s))).1 = s.freeCtr := (countChannels_keeps fixed _).freeCtr rfl
    rw [hsalt]
    exact readPhysPieces_congr copyLeft_mapKept copyLeft_quiet.dram copyLeft_quiet.shared ((copyLeft_keeps ..).seq rfl) _ _
  unfold copyDone
  rw [hfind]
  dsimp only
  rw [← copyLeft, hread]
  rfl

end

/-- What the end of a copy leaves of the image, its ring page, and for a copy out of the device's memory. -/
structure CopyEnded (c : Copy) (s t : State) : Prop where
  img         : t.img = s.img
  outstanding : (t.ring c.ring).outstanding = (s.ring c.ring).outstanding - 1
  tail        : (t.ring c.ring).tail = (s.ring c.ring).tail + 1
  memory      : c.isIn = false → t.mem.dram = s.mem.dram ∧ t.mem.shared = s.mem.shared

theorem replyFinal_copyEnded (c : Copy) (status : Nat) (eff detail : Word) (s : State) :
    CopyEnded c s (replyFinal (copyTag c) status eff detail s) := by
  have hring := replyFinal_ring (copyTag c) status eff detail s c.ring
  have hkeeps := replyFinal_keeps (copyTag c) status eff detail s
  rw [if_pos (show c.ring = (copyTag c).ring from rfl)] at hring
  exact ⟨hkeeps.img rfl, by rw [hring], by rw [hring], fun _ => ⟨by rw [hkeeps.mem rfl], by rw [hkeeps.mem rfl]⟩⟩

section
variable {c : Copy} {s t u : State}

theorem CopyEnded.before (h : CopyEnded c t u) (himg : t.img = s.img) (hrings : t.host.rings = s.host.rings)
    (hmem : c.isIn = false → t.mem.dram = s.mem.dram ∧ t.mem.shared = s.mem.shared) : CopyEnded c s u := by
  have hring := ring_of_rings hrings c.ring
  exact ⟨h.img.trans himg, by rw [h.outstanding, hring], by rw [h.tail, hring], fun hout =>
    ⟨(h.memory hout).1.trans (hmem hout).1, (h.memory hout).2.trans (hmem hout).2⟩⟩

theorem CopyEnded.after (h : CopyEnded c s t) (himg : u.img = t.img) (hrings : u.host.rings = t.host.rings) (hmem : u.mem = t.mem) :
    CopyEnded c s u := by
  have hring := ring_of_rings hrings c.ring
  exact ⟨himg.trans h.img, by rw [hring]; exact h.outstanding, by rw [hring]; exact h.tail, fun hout => by
    rw [hmem]; exact h.memory hout⟩

end

theorem copyRecord_rings (c : Copy) (bs : List Byte) (s : State) : (copyRecord c bs s).host.rings = s.host.rings := by
  unfold copyRecord
  split
  · exact recordEntry_rings ..
  · rfl

theorem copyPut_rings (c : Copy) (out : List Byte) (s : State) : (copyPut c out s).2.host.rings = s.host.rings := by
  unfold copyPut
  split
  · exact writePhysPieces_rings ..
  · rfl

theorem copyEcc_xlatKept (c : Copy) (stop : Option Nat) (s : State) : XlatKept s (copyEcc c stop s) :=
  .ite (eccFaultAt_xlatKept ..) (.refl s)

theorem copyFinish_copyEnded (c : Copy) (stop : Option Nat) (bs : List Byte) (s : State) :
    CopyEnded c s (copyFinish c (copyTag c) stop bs s) := by
  unfold copyFinish
  extract_lets p q st
  have hp : Keeps 0x10000 s p.2 := copyTail_keeps ..
  have hput : Keeps 0x410 p.2 q.2 := copyPut_keeps ..
  have hputRings : q.2.host.rings = p.2.host.rings := copyPut_rings ..
  have hputOut : c.isIn = false → q.2.mem = p.2.mem := fun hout => by
    have hwrite : q = (none, hostWrite c.host.toNat (bs.take (c.moved stop) ++ p.1) p.2) := if_neg (by rw [hout]; decide)
    rw [hwrite]; rfl
  have hecc := copyEcc_xlatKept c stop q.2
  have heccImg : (copyEcc c stop q.2).img = q.2.img := (copyEcc_keeps ..).img rfl
  clear_value q p
  refine CopyEnded.after ?_ ((copyRecord_keeps ..).img rfl) (copyRecord_rings ..) ((copyRecord_keeps ..).mem rfl)
  refine (replyFinal_copyEnded c st 0 0 _).before ?_ ?_ fun hout => ?_
  · exact heccImg.trans ((hput.img rfl).trans (hp.img rfl))
  · exact hecc.rings.trans (hputRings.trans (by rw [hp.host rfl]))
  · have hmem := (hputOut hout).trans (hp.mem rfl)
    exact ⟨hecc.dram.trans (by rw [hmem]), hecc.shared.trans (by rw [hmem])⟩

theorem copyDone_copyEnded {ring tag : Nat} {c : Copy} {s : State}
    (hfind : s.img.copies.find? (fun c => c.ring == ring && c.tag == tag) = some c) (data : List Byte) (stop : Option Nat)
    (fixed : List (BitVec 5)) : CopyEnded c (copyLeft c fixed s) (copyDone ring tag data stop fixed s) := by
  rw [copyDone_of_find hfind]
  split
  · exact replyFinal_copyEnded ..
  · split
    · exact copyFinish_copyEnded ..
    · have hreads := countReads_xlatKept c.pages (copyLeft c fixed s)
      exact (copyFinish_copyEnded ..).before ((countReads_keeps ..).img rfl) hreads.rings fun _ => ⟨hreads.dram, hreads.shared⟩

/-! ### A copy that nothing stops (R192) -/

theorem copyFinish_of_whole (c : Copy) {bs : List Byte} (hlen : bs.length = c.bytes) (s : State) :
    copyFinish c (copyTag c) none bs s = copyRecord c bs
      (replyFinal (copyTag c) (if (copyPut c bs s).1.isSome then stFaultAddress else stOk) 0 0 (copyPut c bs s).2) := by
  have htake : bs.take (c.moved none) = bs := List.take_of_length_le (le_of_eq hlen)
  unfold copyFinish
  rw [htake]
  simp [copyTail, copyEcc]

section
variable {c : Copy} {ring tag : Nat} {s : State}
  (hfind : s.img.copies.find? (fun c => c.ring == ring && c.tag == tag) = some c) (hsum : (c.pages.map (·.2)).sum = c.bytes)
include hfind

section
include hsum

/-- A copy in puts the host's bytes at its pieces, and its reply says so. -/
theorem copyDone_in (hin : c.isIn = true) (hok : s.Ok) (data : List Byte) (fixed : List (BitVec 5))
    (hplain : Plain (pieceAddr c.pages) c.bytes s) :
    BytesMoved (pieceAddr c.pages) (slice data 0 c.bytes) s (copyDone ring tag data none fixed s)
      ∧ (s.rec_.mode ≠ .record → ∃ u, copyDone ring tag data none fixed s = replyFinal (copyTag c) 0 0 0 u ∧ ReplyReady 0 0 s u) := by
  have hlen := slice_length data 0 c.bytes
  have hkeeps := copyLeft_keeps c fixed s
  have hmap : MapKept s (copyLeft c fixed s) := copyLeft_mapKept
  have hquiet : Quiet s (copyLeft c fixed s) := copyLeft_quiet
  have hdone : copyDone ring tag data none fixed s
      = copyFinish c (copyTag c) none (slice data 0 c.bytes) (copyLeft c fixed s) := by
    rw [copyDone_of_find hfind, if_pos hin, if_pos hin]
  have hput : copyPut c (slice data 0 c.bytes) (copyLeft c fixed s)
      = writePhysPieces c.pages (slice data 0 c.bytes) (copyLeft c fixed s) := if_pos hin
  rw [hdone, copyFinish_of_whole c hlen, hput]
  generalize slice data 0 c.bytes = bs at hlen ⊢
  rw [← hlen] at hplain
  obtain ⟨hnone, hmoved, hhost⟩ := writePhysPieces_moved (hkeeps.ok hok) (hlen.trans hsum.symm) (hplain.congr hmap)
  have hwrite := writePhysPieces_keeps c.pages bs (copyLeft c fixed s)
  have hmode : (writePhysPieces c.pages bs (copyLeft c fixed s)).2.rec_.mode = s.rec_.mode :=
    congrArg Recorder.mode ((hwrite.rec_ rfl).trans (hkeeps.rec_ rfl))
  have htime := (hwrite.time rfl).trans (hkeeps.time rfl)
  have hhost' := hhost.trans (hkeeps.host rfl)
  rw [hnone]
  generalize (writePhysPieces c.pages bs (copyLeft c fixed s)).2 = u at hmoved hmode htime hhost' ⊢
  have hmem (status : Nat) : (copyRecord c bs (replyFinal (copyTag c) status 0 0 u)).mem = u.mem :=
    ((copyRecord_keeps ..).mem rfl).trans ((replyFinal_keeps ..).mem rfl)
  refine ⟨(hmoved.before hmap hquiet.dram hquiet.shared).after hplain (by rw [hmem]) (by rw [hmem]), fun hrec => ⟨u, ?_, .of_host hhost' htime⟩⟩
  have hoff : (replyFinal (copyTag c) 0 0 0 u).rec_.mode ≠ .record := by
    rw [(replyFinal_keeps ..).rec_ rfl, hmode]; exact hrec
  exact (if_pos hin).trans (recordEntryAt_of_not_recording hoff ..)

/-- A copy out puts the bytes of its pieces in host memory, and its reply says so. -/
theorem copyDone_out (hout : c.isIn = false) {bs : List Byte} (hread : readPhysPieces s s.freeCtr c.pages = .ok bs)
    (data : List Byte) (fixed : List (BitVec 5)) : ∃ u, copyDone ring tag data none fixed s = replyFinal (copyTag c) 0 0 0 u
      ∧ ReplyReady c.host.toNat c.bytes s u ∧ (s.host.mem.wf = true → u.host.mem.readN c.host.toNat c.bytes = bs) := by
  have hnotIn : ¬c.isIn = true := by rw [hout]; decide
  have hlen : bs.length = c.bytes := (length_of_readPhysPieces hread).trans hsum
  have hkeeps : Keeps 0x10420 s (countReads c.pages (copyLeft c fixed s)) :=
    (copyLeft_keeps c fixed s).trans (countReads_keeps ..).up
  have hdone : copyDone ring tag data none fixed s
      = copyFinish c (copyTag c) none bs (countReads c.pages (copyLeft c fixed s)) := by
    rw [copyDone_of_find hfind, if_neg hnotIn, if_neg hnotIn, hread]
  have hput (t : State) : copyPut c bs t = (none, hostWrite c.host.toNat bs t) := if_neg hnotIn
  refine ⟨hostWrite c.host.toNat bs (countReads c.pages (copyLeft c fixed s)), ?_, ?_, fun hwf => ?_⟩
  · rw [hdone, copyFinish_of_whole c hlen, hput]
    exact if_neg hnotIn
  · have hwrite := hostWrite_replyReady c.host.toNat bs (countReads c.pages (copyLeft c fixed s))
    rw [hlen] at hwrite
    exact (ReplyReady.of_keeps hkeeps).trans hwrite
  · have hhost := hkeeps.host rfl
    exact Store.readN_writeN_self (by rw [hhost]; exact hwf) hlen _

end

/-- A copy out whose pieces cannot be read ends with ST_FAULT_ADDRESS. -/
theorem copyDone_fault (hout : c.isIn = false) {f : FaultClass} (hread : readPhysPieces s s.freeCtr c.pages = .error f)
    (data : List Byte) (fixed : List (BitVec 5)) : ∃ u, copyDone ring tag data none fixed s = replyFinal (copyTag c) 0x001B 0 0 u
      ∧ ReplyReady 0 0 s u := by
  have hnotIn : ¬c.isIn = true := by rw [hout]; decide
  refine ⟨copyLeft c fixed s, ?_, .of_keeps (copyLeft_keeps ..)⟩
  rw [copyDone_of_find hfind, if_neg hnotIn, hread]
  rfl

end

/-- What the end of a copy that nothing stops leaves. -/
theorem copyMoved_of_whole {c : Copy} {tag : Nat} {s : State}
    (hfind : s.img.copies.find? (fun x => x.ring == c.ring && x.tag == tag) = some c) (hsum : (c.pages.map (·.2)).sum = c.bytes)
    (hok : s.Ok) (data : List Byte) (fixed : List (BitVec 5)) : CopyMoved c c.ring data s (copyDone c.ring tag data none fixed s) := by
  refine ⟨fun hin hplain => ?_, fun hout bs hread => ?_, fun hout f hread => ?_⟩
  · obtain ⟨hmoved, hreply⟩ := copyDone_in hfind hsum hin hok data fixed hplain
    refine ⟨hmoved, fun hrec => ?_⟩
    obtain ⟨u, heq, hready⟩ := hreply hrec
    rw [heq]
    exact ⟨hready.finalReply (copyTag c) 0 0 0, hready.onlyFinalReply (copyTag c) 0 0 0⟩
  · obtain ⟨u, heq, hready, hbytes⟩ := copyDone_out hfind hsum hout hread data fixed
    rw [heq]
    refine ⟨hready.finalReply (copyTag c) 0 0 0, hready.onlyFinalReply (copyTag c) 0 0 0, fun hslot htail => ?_⟩
    have hwf := hok.host.1
    rw [hready.readN_replyFinal (copyTag c) 0 0 0 hwf hslot htail, hbytes hwf]
  · obtain ⟨u, heq, hready⟩ := copyDone_fault hfind hout hread data fixed
    rw [heq]
    exact ⟨hready.finalReply (copyTag c) 0x001B 0 0, hready.onlyFinalReply (copyTag c) 0x001B 0 0⟩

end Sys2Proof.Machine
end

section
/-! The completion of invalidations (R186, R187, R192), and what copies and invalidations end with. -/
namespace Sys2Proof.Machine

/-- An invalidation of a packet that completes: it is no longer in flight, counted, and its knot posted where one was asked for. -/
def invalSettled (n ring tag hoop : Nat) (knot : Option Nat) (s : State) : State :=
  let s := bumpXlat (s.hoopHome hoop) 3 1 { s with img := { s.img with invals := s.img.invals.eraseIdx n } }
  let s := match knot with
    | some k => setKnot k (Config.freePick s.freeCtr) (fresh s).2
    | none => s
  { s with img := s.img.unawait (ring, tag) }

section
variable {n ring tag hoop : Nat} {knot : Option Nat} {v : Inval} {s : State}

theorem invalidationComplete_of_awaited (hv : s.img.invals[n]? = some v) (hwait : v.awaits ≠ []) : invalidationComplete n s = s := by
  unfold invalidationComplete
  rw [hv]
  exact if_pos (by simpa using hwait)

theorem invalidationComplete_of_packet (hv : s.img.invals[n]? = some v) (hfree : v.awaits = []) (hby : v.by_ = .packet ring tag hoop knot) :
    invalidationComplete n s = replyFinal ⟨ring, tag, 0x62, v.ctx, hoop⟩ stOk 0 0 (invalSettled n ring tag hoop knot s) := by
  unfold invalidationComplete invalSettled
  rw [hv]
  dsimp only
  rw [hfree, hby]
  rfl

theorem invalidationComplete_of_step {step : Nat} (hv : s.img.invals[n]? = some v) (hfree : v.awaits = []) (hby : v.by_ = .step hoop step) :
    ∃ u, invalidationComplete n s = partEnd hoop step 0 u := by
  unfold invalidationComplete
  rw [hv]
  dsimp only
  rw [hfree, hby]
  exact ⟨_, rfl⟩

theorem invalSettled_host (n ring tag hoop : Nat) (knot : Option Nat) (s : State) : (invalSettled n ring tag hoop knot s).host = s.host := by
  unfold invalSettled
  cases knot <;> exact updHalf_host ..

theorem invalSettled_time (n ring tag hoop : Nat) (knot : Option Nat) (s : State) : (invalSettled n ring tag hoop knot s).time = s.time := by
  unfold invalSettled
  cases knot <;> exact updHalf_time ..

theorem invalSettled_img (n ring tag hoop : Nat) (knot : Option Nat) (s : State) :
    (invalSettled n ring tag hoop knot s).img = Image.unawait (ring, tag) { s.img with invals := s.img.invals.eraseIdx n } := by
  unfold invalSettled
  cases knot <;> exact congrArg (Image.unawait (ring, tag)) (updHalf_img ..)

theorem invalSettled_seq (n ring tag hoop : Nat) (knot : Option Nat) (s : State) : (invalSettled n ring tag hoop knot s).seq =
    { s.seq with knots := (match knot with
        | some k => s.seq.knots.set k (BitVec.ofNat 32 (Config.freePick s.freeCtr))
        | none => s.seq.knots) } := by
  unfold invalSettled bumpXlat
  cases s.hoopHome hoop <;> cases knot <;> rfl

theorem invalSettled_invalidations (n ring tag hoop : Nat) (knot : Option Nat) (s : State) :
    (invalSettled n ring tag hoop knot s).xlatCount (s.hoopHome hoop) 3 = (s.xlatCount (s.hoopHome hoop) 3 + 1) % 2 ^ 64 := by
  have hbump := bumpXlat_xlatCount_self (s.hoopHome hoop) 3 1 { s with img := { s.img with invals := s.img.invals.eraseIdx n } }
  unfold invalSettled
  generalize s.hoopHome hoop = h at hbump ⊢
  cases knot <;> cases h <;> exact hbump

end

/-- The completion of a packet's invalidation. -/
theorem invalidationComplete_packet {n ring tag hoop : Nat} {knot : Option Nat} {v : Inval} {s : State} (hv : s.img.invals[n]? = some v)
    (hfree : v.awaits = []) (hby : v.by_ = .packet ring tag hoop knot) :
    let t := invalidationComplete n s
    t.img = Image.unawait (ring, tag) { s.img with invals := s.img.invals.eraseIdx n }
      ∧ FinalReply ⟨ring, tag, 0x62, v.ctx, hoop⟩ 0 0 0 s t ∧ OnlyFinalReply ring 0 0 s t
      ∧ (∀ k, knot ≠ some k → t.knot k = s.knot k)
      ∧ (∀ k, knot = some k → t.knot k = BitVec.ofNat 32 (Config.freePick s.freeCtr))
      ∧ t.seq = { s.seq with knots := t.seq.knots }
      ∧ Tab.get 0 (t.half (s.hoopHome hoop)).xlatCtr 3 = (Tab.get 0 (s.half (s.hoopHome hoop)).xlatCtr 3 + 1) % 2 ^ 64 := by
  intro t
  have heq : t = replyFinal ⟨ring, tag, 0x62, v.ctx, hoop⟩ stOk 0 0 (invalSettled n ring tag hoop knot s) :=
    invalidationComplete_of_packet hv hfree hby
  have hkeeps := replyFinal_keeps ⟨ring, tag, 0x62, v.ctx, hoop⟩ stOk 0 0 (invalSettled n ring tag hoop knot s)
  have hready : ReplyReady 0 0 s (invalSettled n ring tag hoop knot s) := .of_host (invalSettled_host ..) (invalSettled_time ..)
  have hseq := (congrArg State.seq heq).trans ((hkeeps.seq rfl).trans (invalSettled_seq n ring tag hoop knot s))
  have hknot (k : Nat) : t.knot k = Tab.get 0 t.seq.knots k := rfl
  refine ⟨?_, ?_, ?_, fun k hk => ?_, fun k hk => ?_, by rw [hseq], ?_⟩
  · rw [heq, hkeeps.img rfl]; exact invalSettled_img ..
  · rw [heq]; exact hready.finalReply ..
  · rw [heq]; exact hready.onlyFinalReply ⟨ring, tag, 0x62, v.ctx, hoop⟩ stOk 0 0
  · rw [hknot, hseq]
    cases knot with
    | none => rfl
    | some j => exact Tab.get_set_ne _ _ _ fun hkj => hk (by rw [hkj])
  · rw [hknot, hseq, hk]
    exact Tab.get_set_self ..
  · rw [heq, hkeeps.half]; exact invalSettled_invalidations ..

/-- Settles O20: copies and invalidations leave the image, move their bytes or post their knot, and then pay their final reply. -/
theorem copiesAndInvalidationsEnd : Obligations.CopiesAndInvalidationsEnd := by
  refine ⟨fun ring tag data stop fixed c s hfind => ?_, fun n v s hv hwait => ?_, fun n v s hv hfree => ?_⟩
  · have hmatch := List.find?_some hfind
    simp only [Bool.and_eq_true, beq_iff_eq] at hmatch
    have hend := copyDone_copyEnded hfind data stop fixed
    have hleft := copyLeft_keeps c fixed s
    have hring := ring_of_rings (congrArg HostIf.rings (hleft.host rfl)) c.ring
    rw [← hmatch.1] at hend hfind ⊢
    have hquiet : Quiet s (copyLeft c fixed s) := copyLeft_quiet
    refine ⟨copyDone c.ring tag.toNat data stop fixed s, by rw [hmatch.1]; rfl, (copyDone_keeps ..).units _ rfl,
      hend.img.trans copyLeft_img, by rw [hend.outstanding, hring], by rw [hend.tail, hring], fun hout => ?_, fun hstop hok hsum => ?_⟩
    · obtain ⟨hdram, hshared⟩ := hend.memory hout
      exact ⟨hdram.trans hquiet.dram, hshared.trans hquiet.shared⟩
    · subst hstop
      exact copyMoved_of_whole hfind hsum hok data fixed
  · exact congrArg Host.Outcome.next (invalidationComplete_of_awaited hv hwait)
  · refine ⟨invalidationComplete n s, rfl, (invalidationComplete_keeps ..).units _ rfl, fun ring tag hoop knot hby =>
      invalidationComplete_packet hv hfree hby, fun hoop step hby => ?_⟩
    obtain ⟨u, heq⟩ := invalidationComplete_of_step hv hfree hby
    rw [heq]; exact partEnd_openPart u

end Sys2Proof.Machine
end

section
/-! Reductions of integer codes (R343): the sum is limited to the format, and the greatest or least value is one of the codes. -/
namespace Sys2Proof.Machine

theorem toRat_ofRat (x : Rat) : (FVal.ofRat x).toRat = x := by
  by_cases h : x < 0 <;> simp [FVal.ofRat, FVal.toRat, h]

theorem ofRat_lt_ofRat (x y : Rat) : (FVal.ofRat x).lt (.ofRat y) = decide (x < y) := by
  have hx := toRat_ofRat x
  have hy := toRat_ofRat y
  unfold FVal.ofRat at hx hy ⊢
  exact congrArg₂ (fun a b : Rat => decide (a < b)) hx hy

/-- The code kept of two: the second where its key is greater. -/
def keepGreater (key : Nat → Int) (a c : Nat) : Nat := if key a < key c then c else a

theorem keepGreater_foldl (key : Nat → Int) (a : Nat) (codes : List Nat) :
    codes.foldl (keepGreater key) a ∈ a :: codes ∧ ∀ c ∈ a :: codes, key c ≤ key (codes.foldl (keepGreater key) a) := by
  induction codes generalizing a with
  | nil => simp
  | cons c codes ih =>
    obtain ⟨hmem, hmax⟩ := ih (keepGreater key a c)
    have htwo : keepGreater key a c = a ∨ keepGreater key a c = c := by unfold keepGreater; split <;> simp
    have hge : key a ≤ key (keepGreater key a c) ∧ key c ≤ key (keepGreater key a c) := by unfold keepGreater; split <;> omega
    rw [List.foldl_cons]
    have hkept := hmax _ List.mem_cons_self
    refine ⟨?_, fun k hk => ?_⟩
    · rcases List.mem_cons.1 hmem with h | h
      · rw [h]; rcases htwo with h | h <;> rw [h] <;> simp
      · exact List.mem_cons_of_mem _ (List.mem_cons_of_mem _ h)
    · rcases List.mem_cons.1 hk with rfl | hk
      · exact hge.1.trans hkept
      · rcases List.mem_cons.1 hk with rfl | hk
        · exact hge.2.trans hkept
        · exact hmax k (List.mem_cons_of_mem _ hk)

/-- What a reduction to the greatest or the least value goes by. -/
def extremeKey (fmt : Nat) (least : Bool) (c : Nat) : Int := if least then -intRaw fmt c else intRaw fmt c

theorem extremeOf_of_int {fmt : Nat} (hint : fmtInt fmt = true) (least : Bool) (codes : List Nat) :
    extremeOf fmt least codes = codes.foldl (keepGreater (extremeKey fmt least)) (codes.headD 0) := by
  have hnan (c : Nat) : (FVal.ofRat (intRaw fmt c : Rat) == FVal.nan) = false := rfl
  have hstep : (fun a c => if (if least then (FVal.ofRat (intRaw fmt c : Rat)).lt (.ofRat (intRaw fmt a : Rat))
      else (FVal.ofRat (intRaw fmt a : Rat)).lt (.ofRat (intRaw fmt c : Rat))) = true then c else a)
      = keepGreater (extremeKey fmt least) := by
    funext a c
    unfold keepGreater extremeKey
    cases least <;> simp [ofRat_lt_ofRat]
  unfold extremeOf
  simp only [hint, if_true, hnan]
  rw [hstep, if_neg (by simp)]

theorem extremeOf_spec {fmt : Nat} (hint : fmtInt fmt = true) (least : Bool) {codes : List Nat} (hne : codes ≠ []) :
    extremeOf fmt least codes ∈ codes ∧ ∀ c ∈ codes, extremeKey fmt least c ≤ extremeKey fmt least (extremeOf fmt least codes) := by
  rw [extremeOf_of_int hint]
  obtain ⟨c, rest, rfl⟩ := List.exists_cons_of_ne_nil hne
  obtain ⟨hmem, hmax⟩ := keepGreater_foldl (extremeKey fmt least) c (c :: rest)
  refine ⟨?_, fun k hk => hmax k (List.mem_cons_of_mem _ hk)⟩
  rcases List.mem_cons.1 hmem with h | h
  · rw [List.headD_cons, h]; exact List.mem_cons_self
  · exact h

theorem sumOf_of_int {fmt : Nat} (hint : fmtInt fmt = true) (codes : List Nat) :
    sumOf fmt codes = (intCode fmt (saturate (intRange fmt) ((codes.map (intRaw fmt)).foldl (· + ·) 0)).1,
      (saturate (intRange fmt) ((codes.map (intRaw fmt)).foldl (· + ·) 0)).2) := by
  unfold sumOf
  rw [if_pos hint]

theorem saturate_of_mem {r : Int × Int} {v : Int} (hlow : r.1 ≤ v) (hhigh : v ≤ r.2) : saturate r v = (v, false) := by
  rw [saturate, if_neg (by omega), if_neg (by omega)]

theorem saturate_of_lt {r : Int × Int} {v : Int} (h : v < r.1) : saturate r v = (r.1, true) := if_pos h

theorem saturate_of_gt {r : Int × Int} {v : Int} (h : r.2 < v) (hr : r.1 ≤ r.2) : saturate r v = (r.2, true) := by
  rw [saturate, if_neg (by omega), if_pos h]

/-- The part of O30 about reductions of integer codes. -/
theorem reductionsLimitTheirSums : ReductionsLimitTheirSums := by
  intro fmt codes hint hne
  have hsum := sumOf_of_int hint codes
  refine ⟨fun hlow hhigh => ?_, fun hlt => ?_, fun hgt hr => ?_, ?_, ?_⟩
  · rw [saturate_of_mem hlow hhigh] at hsum; exact hsum
  · rw [saturate_of_lt hlt] at hsum; exact hsum
  · rw [saturate_of_gt hgt hr] at hsum; exact hsum
  · obtain ⟨hmem, hmax⟩ := extremeOf_spec hint false hne
    exact ⟨hmem, List.forall_mem_map.2 hmax⟩
  · obtain ⟨hmem, hmax⟩ := extremeOf_spec hint true hne
    exact ⟨hmem, List.forall_mem_map.2 fun c hc => neg_le_neg_iff.1 (hmax c hc)⟩

end Sys2Proof.Machine
end

section
/-! The handover of a RESULT step (R289): what the end of a part leaves of the handovers that await their record, and what a step
hands over. -/
namespace Sys2Proof.Machine

/-! ### Handovers that stand -/

/-- Every handover of `s` stands in `t`, the job's end that it has learnt apart. -/
structure HandsStand (s t : State) : Prop where
  stand : ∀ x ∈ s.out.hands, ∃ e, { x with ended := e } ∈ t.out.hands

section
variable {s t u : State}

theorem HandsStand.refl (s : State) : HandsStand s s := ⟨fun x hx => ⟨x.ended, hx⟩⟩

theorem HandsStand.of_eq (h : t.out.hands = s.out.hands) : HandsStand s t := ⟨fun x hx => ⟨x.ended, h ▸ hx⟩⟩

theorem HandsStand.of_keeps {m : Nat} (h : Keeps m s t) (h12 : m.testBit 12 = false := by rfl) : HandsStand s t :=
  .of_eq (by rw [h.out h12])

theorem HandsStand.trans (h : HandsStand s t) (k : HandsStand t u) : HandsStand s u :=
  ⟨fun x hx =>
    have ⟨_, he⟩ := h.stand x hx
    have ⟨e, he⟩ := k.stand _ he
    ⟨e, he⟩⟩

theorem HandsStand.ite {c : Prop} [Decidable c] (h : HandsStand s t) (k : HandsStand s u) : HandsStand s (if c then t else u) := by
  split <;> assumption

theorem HandsStand.of_pair {α : Type} {p : α × State} {a : α} (h : p = (a, t)) (k : HandsStand s p.2) : HandsStand s t := by
  subst h; exact k

theorem HandsStand.forEach {α : Type} {l : List α} {f : α → State → State} (hf : ∀ a t, HandsStand t (f a t)) (s : State) :
    HandsStand s (forEach l f s) := forEach_invariant (P := HandsStand s) (fun a t h => h.trans (hf a t)) l s (.refl s)

end

/-! ### Records of the output writer -/

theorem countRecord_hands (r : OutRec) (s : State) : HandsStand s (countRecord r s) := .ite (.of_eq rfl) (.of_eq rfl)

theorem loseRecord_hands (main : Bool) (r : OutRec) (s : State) : HandsStand s (loseRecord main r s) := by
  unfold loseRecord
  extract_lets s1 s2 full out s3 base
  have h2 : HandsStand s s2 := .of_eq rfl
  have h3 : HandsStand s s3 := h2.trans (.ite (.of_eq rfl) (.of_eq rfl))
  exact .ite h2 (h3.trans (.of_keeps (report_keeps ..)))

theorem emitRecord_hands (main : Bool) (r : OutRec) (s : State) : HandsStand s (emitRecord main r s) := by
  unfold emitRecord
  extract_lets s1 s2 st lost bus bs s3
  have h2 : HandsStand s s2 := (countRecord_hands r s).trans (.of_eq rfl)
  split
  extract_lets s4 s5 out s6
  have h3 : HandsStand s2 s3 := .ite (.refl s2) (.of_keeps (hostWrite_keeps ..))
  have h4 : HandsStand s2 s4 := h3.trans (.of_keeps (pushRecord_keeps ..))
  have h5 : HandsStand s2 s5 := h4.trans (.of_eq rfl)
  clear_value s5
  have h6 : HandsStand s5 s6 := .ite (.of_eq rfl) (.of_eq rfl)
  exact h2.trans (.ite (loseRecord_hands ..) ((h5.trans h6).trans (.of_keeps (recordEntry_keeps ..))))

theorem takeSeq_hands (main : Bool) (n : Nat) (s : State) : (takeSeq main n s).2.out.hands = s.out.hands := by
  cases main <;> rfl

theorem holdRecord_hands (n cause : Nat) (s : State) : HandsStand s (holdRecord n cause s) := by
  unfold holdRecord
  split
  next q s1 heq => exact (HandsStand.of_pair heq (.of_eq (takeSeq_hands ..))).trans (emitRecord_hands ..)

/-! ### Ends of parts and jobs -/

theorem holdForStep_hands (hoop : Nat) (q : QJob) (args : Option (List Word)) (n : Nat) (s : State) :
    HandsStand s (holdForStep hoop q args n s) := by
  unfold holdForStep
  cases args with
  | none => exact holdRecord_hands ..
  | some a => exact (HandsStand.of_keeps (readFrames_keeps ..)).trans (holdRecord_hands ..)

theorem sealHands_hands (hoop : Nat) (q : QJob) (status : Nat) (s : State) : HandsStand s (sealHands hoop q status s) := by
  refine ⟨fun x hx => ?_⟩
  have hmem := List.mem_map_of_mem (f := fun x : Handover =>
    if x.hoop = hoop ∧ x.ring = q.ring ∧ x.tag = q.tag ∧ x.ended.isNone then { x with ended := some (status == stJobDone) } else x) hx
  split at hmem
  · exact ⟨_, hmem⟩
  · exact ⟨x.ended, hmem⟩

theorem closeJob_hands (hoop : Nat) (q : QJob) (args : Option (List Word)) (next status eff charge : Nat) (s : State) :
    HandsStand s (closeJob hoop q args next status eff charge s) := by
  have hholds : HandsStand s (if holdsAfter status then jobHolds hoop q args next s else s) :=
    .ite (.forEach (fun _ _ => holdForStep_hands ..) s) (.refl s)
  exact (hholds.trans (sealHands_hands ..)).trans (.of_keeps (finalReply_keeps ..))

theorem admitJob_hands (hoop : Nat) (q : QJob) (s : State) : HandsStand s (admitJob hoop q s) := by
  unfold admitJob
  extract_lets img s1 h s2 rec s3 s4 ticks st j
  have h2 : HandsStand s s2 := .of_eq rfl
  have h3 : HandsStand s2 s3 := by
    refine .ite ?_ (.of_keeps (recordEntry_keeps ..))
    split
    · exact .of_eq rfl
    · exact .refl s2
  have h4 : HandsStand s s4 := (h2.trans h3).trans (.of_keeps (bumpDamp_keeps ..))
  exact .ite (h4.trans (closeJob_hands ..)) (h4.trans (.of_keeps (updHoop_keeps ..)))

theorem tryAdmit_hands (hoop : Nat) (s : State) : HandsStand s (tryAdmit hoop s) := by
  unfold tryAdmit
  generalize (s.hoop hoop).queue.length + 1 = n
  induction n generalizing s with
  | zero => exact .refl s
  | succ n ih =>
    unfold admitUpTo
    refine .ite (.refl s) ?_
    split
    · exact .refl s
    · exact (admitJob_hands ..).trans (ih _)

theorem endJob_hands (hoop status eff : Nat) (s : State) : HandsStand s (endJob hoop status eff s) := by
  unfold endJob
  split
  · exact .refl s
  · exact (((closeJob_hands ..).trans (.of_keeps (updHoop_keeps ..))).trans (.of_keeps (holdRounds_keeps ..))).trans (tryAdmit_hands ..)

theorem settleJob_hands (hoop : Nat) (s : State) : HandsStand s (settleJob hoop s) := by
  unfold settleJob
  split
  · exact .refl s
  · refine .ite (.refl s) ?_
    split
    · exact .ite (endJob_hands ..) (.refl s)
    · exact endJob_hands ..
    all_goals exact .refl s

theorem stepEnd_hands (hoop n : Nat) (faulted : Bool) (s : State) : HandsStand s (stepEnd hoop n faulted s) := by
  unfold stepEnd
  split
  · exact .refl s
  · exact ((HandsStand.of_keeps (updJob_keeps ..)).trans
      (.ite ((HandsStand.of_keeps (applyPost_keeps ..)).trans (.of_keeps (applyPost_keeps ..))) (.refl _))).trans (settleJob_hands ..)

theorem partEnd_hands (hoop n pos : Nat) (s : State) : HandsStand s (partEnd hoop n pos s) := by
  unfold partEnd
  extract_lets s1
  have h1 : HandsStand s s1 := .of_keeps (updJob_keeps ..)
  split
  · exact h1.trans (.ite (stepEnd_hands ..) (.refl s1))
  · exact h1

/-! ### The handover -/

theorem harmless_congr {s t : State} (h : t.dev = s.dev) : t.harmless = s.harmless := by unfold State.harmless; rw [h]

section
variable {hoop step : Nat} {j : Job} {r : Released} {s : State}

theorem handoverFault_openPart (cls : FaultClass) (s : State) : (handoverFault hoop step j cls s).openPart hoop step 0 = none := by
  unfold handoverFault
  extract_lets h base u
  split
  · exact partFault_openPart u
  · assumption

/-- A RESULT step's handover ends its part, whatever its reads answer. -/
theorem resultHandover_openPart (hopen : s.openPart hoop step 0 = some (j, r)) (hkind : stepKind (s.stepAt j.q.pricking step) = kResult) :
    (resultHandover hoop step s).openPart hoop step 0 = none := by
  unfold resultHandover
  rw [hopen]
  dsimp only
  rw [if_neg (not_not.2 hkind)]
  split
  · exact handoverFault_openPart ..
  · split
    · exact handoverFault_openPart ..
    · exact partEnd_openPart _

/-- What a RESULT step reads: its payload. -/
def resultPayload (hoop step : Nat) (j : Job) (s : State) : Except FaultClass (List Byte) × State :=
  let e := s.stepAt j.q.pricking step
  let d := s.descUnit j.q.pricking (stepDesc e)
  vread (.walker (s.hoopHome hoop)) j.q.ctx (relocated e j.args (rsSrc d)) (rsBytes d) s

/-- What a RESULT step reads: its frame records. -/
def resultFrames (hoop step : Nat) (j : Job) (s : State) : List (List Byte) × State :=
  let d := s.descUnit j.q.pricking (stepDesc (s.stepAt j.q.pricking step))
  readFrames (s.hoopHome hoop) j.q.ctx d j.args (List.range (rsFrames d)) (resultPayload hoop step j s).2

theorem resultFrames_dev : (resultFrames hoop step j s).2.dev = s.dev :=
  ((readFrames_keeps ..).dev rfl).trans ((vread_keeps ..).dev rfl)

/-- What was read is handed to the output writer, outside the harmless state. -/
theorem resultHandover_handed {bytes : List Byte} (hopen : s.openPart hoop step 0 = some (j, r))
    (hkind : stepKind (s.stepAt j.q.pricking step) = kResult) (hread : (resultPayload hoop step j s).1 = .ok bytes)
    (hframes : ∀ x ∈ (resultFrames hoop step j s).1, x ≠ []) (hharm : s.harmless = false) :
    ∃ x ∈ (resultHandover hoop step s).out.hands,
      x.stream = rsStream (s.descUnit j.q.pricking (stepDesc (s.stepAt j.q.pricking step))) ∧ x.hoop = hoop ∧ x.step = step
        ∧ x.payload = bytes ∧ x.records = (resultFrames hoop step j s).1 ∧ x.west = none ∧ x.east = none := by
  have hpair : resultPayload hoop step j s = (.ok bytes, (resultPayload hoop step j s).2) := Prod.ext hread rfl
  have hfull : (resultFrames hoop step j s).1.any List.isEmpty = false := by
    simpa [List.any_eq_false] using hframes
  have hrun : ∃ u x, resultHandover hoop step s = partEnd hoop step 0 u ∧ x ∈ u.out.hands
      ∧ x.stream = rsStream (s.descUnit j.q.pricking (stepDesc (s.stepAt j.q.pricking step))) ∧ x.hoop = hoop ∧ x.step = step
      ∧ x.payload = bytes ∧ x.records = (resultFrames hoop step j s).1 ∧ x.west = none ∧ x.east = none := by
    have hdev := resultFrames_dev (hoop := hoop) (step := step) (j := j) (s := s)
    unfold resultHandover
    unfold resultFrames at hfull hdev ⊢
    unfold resultPayload at hpair hfull hdev ⊢
    rw [hopen]
    dsimp only at hpair hfull hdev ⊢
    rw [if_neg (not_not.2 hkind), hpair]
    dsimp only
    rw [if_neg (by rw [hfull]; decide), harmless_congr (((takeSeq_keeps ..).dev rfl).trans hdev), hharm]
    exact ⟨_, _, rfl, List.mem_append_right _ (List.mem_singleton_self _), rfl, rfl, rfl, rfl, rfl, rfl, rfl⟩
  obtain ⟨u, x, heq, hx, hstream, hhoop, hstep, hpayload, hrecords, hwest, heast⟩ := hrun
  obtain ⟨e, he⟩ := (partEnd_hands hoop step 0 u).stand x hx
  exact ⟨{ x with ended := e }, heq ▸ he, hstream, hhoop, hstep, hpayload, hrecords, hwest, heast⟩

end

/-- The part of O30 about RESULT steps. -/
theorem resultsAreHandedOver : ResultsAreHandedOver := by
  intro hoop step j r s hopen hkind
  exact ⟨resultHandover hoop.toNat step.toNat s, rfl, (resultHandover_keeps ..).units _ rfl, resultHandover_openPart hopen hkind,
    fun bytes hread hframes hharm => resultHandover_handed hopen hkind hread hframes hharm⟩

end Sys2Proof.Machine
end

section
/-! The end of a collective that every member has joined (R340, R342, R343). -/
namespace Sys2Proof.Machine

theorem countChannels_alike (fixed : List (BitVec 5)) (s : State) : Alike s (countChannels fixed s) :=
  forEach_invariant (P := Alike s) (fun _ _ h => h.trans (bumpChan_alike ..)) _ _ (.refl s)

/-- Two runs of an operation with the same two answers, that leave states alike. -/
structure SameAnswers {α β : Type} (x y : α × β × State) : Prop where
  first  : y.1 = x.1
  second : y.2.1 = x.2.1
  alike  : Alike x.2.2 y.2.2

theorem SameAnswers.of_alike {α β : Type} {a : α} {b : β} {s t : State} (h : Alike s t) : SameAnswers (a, b, s) (a, b, t) := ⟨rfl, rfl, h⟩

theorem SameAnswers.exists_eq {α β : Type} {x y : α × β × State} (h : SameAnswers x y) :
    ∃ a b s t, x = (a, b, s) ∧ y = (a, b, t) ∧ Alike s t :=
  ⟨x.1, x.2.1, x.2.2, y.2.2, rfl, Prod.ext h.first (Prod.ext h.second rfl), h.alike⟩

/-! ### Writes of a result -/

section
variable {s t : State} (h : Alike s t)
include h

theorem Alike.vread (r : Reader) (ctx va n : Nat) : SameAnswer (vread r ctx va n s) (vread r ctx va n t) := h.readPieces ..

theorem Alike.vwrite (r : Reader) (ctx va : Nat) (bs : List Byte) : SameAnswer (vwrite r ctx va bs s) (vwrite r ctx va bs t) :=
  h.writePieces ..

theorem Alike.flightPages (k : Half) (ctx : Nat) (rest : List (Nat × Nat)) : Alike (flightPages k ctx rest s) (flightPages k ctx rest t) := by
  have hsalt : (Machine.fresh t).1 = (Machine.fresh s).1 := h.free
  unfold Machine.flightPages
  dsimp only
  rw [hsalt]
  refine h.fresh.forEach fun _ _ _ h => ?_
  exact (h.vwrite ..).alike

end

theorem Alike.writePages {s t : State} (h : Alike s t) (k : Half) (ctx : Nat) (l : List (Nat × Nat)) (bs : List Byte) :
    SameAnswers (writePages k ctx l bs s) (writePages k ctx l bs t) := by
  induction l generalizing bs s t with
  | nil => exact .of_alike h
  | cons p l ih =>
    obtain ⟨res, s1, t1, hs, ht, h1⟩ := (h.vwrite (.walker k) ctx p.1 (bs.take p.2)).exists_eq
    unfold Machine.writePages
    rw [hs, ht]
    cases res with
    | error f => exact .of_alike h1
    | ok _ => exact ih h1 _

theorem Alike.writeResult {s t : State} (h : Alike s t) (c : Coll) (k : Half) (bs : List Byte) :
    SameAnswer (writeResult c k bs none s) (writeResult c k bs none t) := by
  obtain ⟨rest, err, s1, t1, hs, ht, h1⟩ :=
    (h.writePages k c.job.q.ctx (pieces (relocated c.st c.job.args (clDst c.desc)) bs.length) (bs.take bs.length)).exists_eq
  unfold Machine.writeResult
  dsimp only
  rw [hs, ht]
  cases err with
  | some f => exact .of_alike (h1.flightPages ..)
  | none => exact .of_alike h1

/-! ### The run of a collective -/

/-- Two runs of a collective with the same answers, that leave states alike. -/
structure SameColl (x y : CollRun) : Prop where
  own   : y.own = x.own
  wrote : y.wrote = x.wrote
  sats  : y.sats = x.sats
  after : Alike x.after y.after

/-- What a collective reads of its own contribution. -/
def collOwn (c : Coll) (s : State) : Except FaultClass (List Byte) × State :=
  if collSends s.topo c.desc && clOp c.desc != 4 then
    vread (.walker (s.hoopHome c.hoop)) c.job.q.ctx (relocated c.st c.job.args (clSrc c.desc)) (collBytes c.desc) s
  else (.ok [], s)

section
variable {c : Coll} {xs : List Contribution} {s t : State}

theorem Alike.collOwn (h : Alike s t) (hlink : t.link = s.link) : SameAnswer (collOwn c s) (collOwn c t) := by
  unfold Machine.collOwn State.topo
  rw [hlink, hoopHome_congr h.img]
  split
  · exact h.vread ..
  · exact .of_alike h

theorem Alike.collRun (h : Alike s t) (hlink : t.link = s.link) : SameColl (collRun c xs s) (collRun c xs t) := by
  have hown := h.collOwn (c := c) hlink
  unfold Machine.collOwn State.topo at hown
  unfold Sys2Proof.collRun State.topo
  rw [hlink, hoopHome_congr h.img] at hown ⊢
  dsimp only
  obtain ⟨own, s1, t1, hs, ht, h1⟩ := hown.exists_eq
  rw [hs, ht]
  have hwrite := h1.writeResult c (s.hoopHome c.hoop) 
  exact ⟨rfl, (hwrite _).answer, rfl, (hwrite _).alike⟩

theorem collRun_after_keeps : Keeps 0x10790 s (collRun c xs s).after := by
  refine Keeps.trans ?_ (writeResult_keeps ..)
  split
  · exact (vread_keeps ..).up
  · exact .refl s

/-- The messages that a collective used leave the inbox. -/
def collTaken (xs : List Contribution) (s : State) : State :=
  { s with link := { s.link with inbox := xs.foldl (fun l x => l.erase x) s.link.inbox } }

theorem runCollective_of_unread {f : FaultClass} (quiet : Bool) (hown : (collRun c xs s).own = .error f) :
    ∃ u, u.link = s.link ∧ runCollective c xs none quiet s = collStop c f (lowLink (s.hoopHome c.hoop)) 0 u := by
  have hpair : collOwn c s = (.error f, (collOwn c s).2) := Prod.ext hown rfl
  refine ⟨(collOwn c s).2, ?_, ?_⟩
  · unfold collOwn
    split
    · exact (vread_keeps ..).link rfl
    · rfl
  · unfold collOwn at hpair ⊢
    unfold runCollective
    dsimp only
    rw [hpair]

theorem runCollective_of_read {bs : List Byte} (quiet : Bool) (hown : (collRun c xs s).own = .ok bs) :
    runCollective c xs none quiet s = match (collRun c xs s).wrote with
      | .error f => collStop c f (lowLink (s.hoopHome c.hoop)) 0 (collTaken xs (collRun c xs s).after)
      | .ok () => partEnd c.hoop c.step 0 (bumpSys 2 (collRun c xs s).sats (bumpSys 0 1 (collTaken xs (collRun c xs s).after))) := by
  have hpair : collOwn c s = (.ok bs, (collOwn c s).2) := Prod.ext hown rfl
  unfold collOwn at hpair
  unfold Sys2Proof.collRun runCollective
  dsimp only
  rw [hpair]
  simp only [Option.map_none, Except.toOption, Option.getD_some]
  generalize Machine.writeResult c _ _ none _ = w
  obtain ⟨_ | _, u⟩ := w <;> rfl

theorem collStop_openPart (f : FaultClass) (link cause : Nat) (s : State) : (collStop c f link cause s).openPart c.hoop c.step 0 = none := by
  unfold collStop
  extract_lets base u v
  split
  · exact partFault_openPart v
  · assumption

theorem collStop_faults (f : FaultClass) (link cause : Nat) (s : State) :
    Tab.get 0 (collStop c f link cause s).link.ctr 1 = (Tab.get 0 s.link.ctr 1 + 1) % 2 ^ 64 := by
  unfold collStop
  extract_lets base u v
  have hu : u.link = s.link := (report_keeps ..).link rfl
  have hv : Tab.get 0 v.link.ctr 1 = (Tab.get 0 s.link.ctr 1 + 1) % 2 ^ 64 := by rw [← hu]; exact get_bump_self ..
  split
  · rw [(partFault_keeps ..).link rfl]; exact hv
  · exact hv

end

/-! ### The command -/

theorem dropStale_of_fresh {c : Coll} {s : State} (h : ∀ x ∈ s.link.inbox, c.stale s x = false) (k : Half) (n : Nat) :
    dropStale c k n s = s := by
  cases n with
  | zero => rfl
  | succ n =>
    unfold dropStale
    split
    · rfl
    · next x hx => rw [if_neg (by rw [h x (List.mem_of_find?_eq_some hx)]; decide)]

theorem coll_hoop_step {c : Coll} {s : State} {hoop step : Nat} (h : s.coll hoop step = some c) : c.hoop = hoop ∧ c.step = step := by
  unfold State.coll at h
  simp only [Option.bind_eq_bind, Option.bind_eq_some_iff, guard] at h
  obtain ⟨_, _, _, _, hc⟩ := h
  cases hc
  exact ⟨rfl, rfl⟩

theorem collectiveDone_of_joined {c : Coll} {xs : List Contribution} {s : State} {hoop step : Nat} (hcoll : s.coll hoop step = some c)
    (hxs : s.gathered c (s.hoopHome hoop) = some xs) (hjoined : s.collJoined c = true)
    (hfresh : clOp c.desc = 5 → ∀ x ∈ s.link.inbox, c.stale s x = false) (fixed : List (BitVec 5)) :
    collectiveDone hoop step none fixed s = runCollective c xs none false (countChannels fixed s) := by
  have hkept : (if clOp c.desc = 5 then dropStale c (s.hoopHome hoop) s.link.inbox.length s else s) = s := by
    split
    · exact dropStale_of_fresh (hfresh ‹_›) ..
    · rfl
  unfold collectiveDone
  rw [hcoll]
  dsimp only
  rw [hkept, hxs]
  dsimp only
  rw [hjoined]
  rfl

/-- What the end of a collective that reduced leaves: its part ended, the two counters advanced, the messages taken, memory as before. -/
theorem collEnded (c : Coll) (xs : List Contribution) (sats : Nat) {s u : State} (hlink : u.link = s.link) :
    let t := partEnd c.hoop c.step 0 (bumpSys 2 sats (bumpSys 0 1 (collTaken xs u)))
    Tab.get 0 t.link.ctr 0 = (Tab.get 0 s.link.ctr 0 + 1) % 2 ^ 64
      ∧ Tab.get 0 t.link.ctr 2 % 2 ^ 64 = (Tab.get 0 s.link.ctr 2 + sats) % 2 ^ 64
      ∧ t.link.inbox = xs.foldl (fun l x => l.erase x) s.link.inbox ∧ t.mem.dram = u.mem.dram ∧ t.mem.shared = u.mem.shared := by
  intro t
  have hend : t.link = _ := (partEnd_keeps c.hoop c.step 0 (bumpSys 2 sats (bumpSys 0 1 (collTaken xs u)))).link rfl
  have hquiet := partEnd_quiet c.hoop c.step 0 (bumpSys 2 sats (bumpSys 0 1 (collTaken xs u)))
  have hctr : t.link.ctr = bump (bump s.link.ctr 0 1) 2 sats := by rw [hend, ← hlink]; rfl
  refine ⟨?_, ?_, by rw [hend, ← hlink]; rfl, hquiet.dram, hquiet.shared⟩
  · rw [hctr, get_bump_ne _ _ (by decide), get_bump_self]
  · rw [hctr, get_bump_self, get_bump_ne _ _ (by decide), Nat.mod_mod]

/-- The part of O30 about collectives. -/
theorem collectivesReduce : CollectivesReduce := by
  intro hoop step fixed c xs s hcoll hxs hjoined hfresh
  have hdone := collectiveDone_of_joined hcoll hxs hjoined hfresh fixed
  have hlink : (countChannels fixed s).link = s.link := (countChannels_keeps ..).link rfl
  have hsame := (countChannels_alike fixed s).collRun (c := c) (xs := xs) hlink
  have hunits := (collectiveDone_keeps hoop.toNat step.toNat none fixed s).units (.link :: workUnits) rfl
  have hafter : (collRun c xs (countChannels fixed s)).after.link = s.link := (collRun_after_keeps.link rfl).trans hlink
  obtain ⟨hhoop, hstep⟩ := coll_hoop_step hcoll
  rw [← hhoop, ← hstep]
  refine ⟨fun ⟨bs, hown⟩ hwrote => ⟨_, rfl, hunits, ?_⟩, fun hfault => ⟨_, rfl, hunits, ?_⟩⟩ <;> rw [hdone]
  · rw [runCollective_of_read false (hsame.own.trans hown), hsame.wrote, hwrote, hsame.sats, ← hsame.after.dram, ← hsame.after.shared]
    exact ⟨partEnd_openPart _, collEnded c xs (collRun c xs s).sats hafter⟩
  · rcases hfault with ⟨f, hown⟩ | ⟨⟨bs, hown⟩, f, hwrote⟩
    · obtain ⟨u, hu, hrun⟩ := runCollective_of_unread false (hsame.own.trans hown)
      rw [hrun]
      exact ⟨collStop_openPart .., by rw [collStop_faults, hu, hlink]⟩
    · rw [runCollective_of_read false (hsame.own.trans hown), hsame.wrote, hwrote]
      refine ⟨collStop_openPart .., ?_⟩
      rw [collStop_faults, ← hafter]
      rfl

end Sys2Proof.Machine
end

section
/-! Rows of packed elements, bit by bit (R104): what an element of a row is, and what a row holds. -/
namespace Sys2Proof.Machine

theorem ofLE_testBit (l : List Byte) (i : Nat) : (ofLE l).testBit i = (l.getD (i / 8) 0).getLsbD (i % 8) := by
  induction l generalizing i with
  | nil => simp [ofLE]
  | cons b l ih =>
    have hsum : ofLE (b :: l) = 2 ^ 8 * ofLE l + b.toNat := Nat.add_comm ..
    rw [hsum, Nat.testBit_two_pow_mul_add _ b.isLt]
    split
    · next h =>
      rw [Nat.div_eq_of_lt h, Nat.mod_eq_of_lt h]
      rfl
    · next h =>
      have hdiv : i / 8 = (i - 8) / 8 + 1 := by omega
      have hmod : i % 8 = (i - 8) % 8 := by omega
      rw [ih, hdiv, hmod, List.getD_cons_succ]

theorem toLE_bit (n v k j : Nat) (hk : k < n) (hj : j < 8) : ((toLE n v).getD k 0).getLsbD j = v.testBit (8 * k + j) := by
  induction n generalizing v k with
  | zero => exact absurd hk (Nat.not_lt_zero k)
  | succ n ih =>
    rw [toLE]
    cases k with
    | zero => rw [List.getD_cons_zero, BitVec.getLsbD_ofNat, Nat.mul_zero, Nat.zero_add, decide_eq_true hj, Bool.true_and]
    | succ k =>
      have hdiv : v / 256 = v / 2 ^ 8 := rfl
      rw [List.getD_cons_succ, ih _ _ (by omega), hdiv, Nat.testBit_div_two_pow]
      congr 1; omega

theorem ceilDiv_eight (a : Nat) : ceilDiv a 8 = (a + 7) / 8 := rfl

/-- The bits of an element are those of the row from its place on. -/
theorem elemRead_testBit (rd : Nat → Byte) (base w k i : Nat) : (elemRead rd base w k).testBit i =
    (decide (i < w) && (rd (base + (k * w + i) / 8)).getLsbD ((k * w + i) % 8)) := by
  unfold elemRead elemSpan
  dsimp only
  rw [Nat.testBit_mod_two_pow, Nat.testBit_shiftRight, ofLE_testBit, ceilDiv_eight]
  by_cases hi : i < w
  · have hspan : (k * w % 8 + i) / 8 < (k * w % 8 + w + 7) / 8 := by omega
    have hplace : base + k * w / 8 + (k * w % 8 + i) / 8 = base + (k * w + i) / 8 := by omega
    have hbit : (k * w % 8 + i) % 8 = (k * w + i) % 8 := by omega
    rw [List.getD_eq_getElem?_getD, List.getElem?_map, List.getElem?_range hspan, hbit, ← hplace]
    rfl
  · simp [hi]

theorem place_lt_packedBytes {n w k i : Nat} (hk : k < n) (hi : i < w) : (k * w + i) / 8 < packedBytes n w := by
  have hrow : (k + 1) * w ≤ n * w := Nat.mul_le_mul_right w hk
  rw [packedBytes, ceilDiv_eight]
  rw [Nat.add_mul, Nat.one_mul] at hrow
  omega

/-- An element of a row depends on the row's bytes alone. -/
theorem elemRead_congr {rd rd' : Nat → Byte} {base base' n w k : Nat} (hk : k < n)
    (h : ∀ i, i < packedBytes n w → rd (base + i) = rd' (base' + i)) : elemRead rd base w k = elemRead rd' base' w k := by
  refine Nat.eq_of_testBit_eq fun i => ?_
  rw [elemRead_testBit, elemRead_testBit]
  by_cases hi : i < w
  · rw [h _ (place_lt_packedBytes hk hi)]
  · simp [hi]

theorem elemRead_mod (rd : Nat → Byte) (base w k : Nat) : elemRead rd base w k % 2 ^ w = elemRead rd base w k := Nat.mod_mod ..

theorem packed_testBit {w i : Nat} (hi : i < w) (es : List Nat) (k : Nat) :
    (es.foldr (fun e acc => e % 2 ^ w + acc * 2 ^ w) 0).testBit (k * w + i) = (es.getD k 0).testBit i := by
  induction es generalizing k with
  | nil => simp
  | cons e es ih =>
    rw [List.foldr_cons, Nat.add_comm, Nat.mul_comm, Nat.testBit_two_pow_mul_add _ (Nat.mod_lt _ (Nat.two_pow_pos w))]
    cases k with
    | zero => simp [hi]
    | succ k =>
      have hplace : (k + 1) * w + i = k * w + i + w := by rw [Nat.add_mul, Nat.one_mul]; omega
      rw [hplace, if_neg (by omega), Nat.add_sub_cancel, ih, List.getD_cons_succ]

theorem packElems_length (w : Nat) (es : List Nat) : (packElems w es).length = packedBytes es.length w := toLE_length ..

/-- An element of a packed row is the code packed there, in the bits of its format. -/
theorem elemRead_packElems {w k : Nat} {es : List Nat} (hk : k < es.length) :
    elemRead (fun i => (packElems w es).getD i 0) 0 w k = es.getD k 0 % 2 ^ w := by
  refine Nat.eq_of_testBit_eq fun i => ?_
  rw [elemRead_testBit, Nat.testBit_mod_two_pow]
  by_cases hi : i < w
  · rw [Nat.zero_add, packElems, toLE_bit _ _ _ _ (place_lt_packedBytes hk hi) (Nat.mod_lt _ (by decide)), Nat.div_add_mod, packed_testBit hi]
  · simp [hi]

end Sys2Proof.Machine
end

section
/-! Reads at the ends of a transfer (R188): what they see, what they leave, and what they give of a firebox. -/
namespace Sys2Proof.Machine

/-! ### What reads see -/

theorem bumpCmp_alike (h : Half) (w k : Nat) (s : State) : Alike s (bumpCmp h w k s) := .of_keeps (bumpCmp_keeps ..)

section
variable {s t : State} (h : Alike s t)
include h

theorem Alike.bytes (p : Nat) : (t.hearth p).bytes = (s.hearth p).bytes := by
  funext a n; unfold Hearth.bytes; rw [h.byte]

theorem Alike.endRead (q : Part4) (x : End) (a n : Nat) : SameAnswer (endRead q x a n s) (endRead q x a n t) := by
  unfold Machine.endRead
  rw [h.bytes]
  split
  · exact .of_alike h
  · exact h.vread ..

end

theorem Alike.readGroups {s t : State} (h : Alike s t) (q : Part4) (x : End) (w : Nat) (l : List (Nat × Nat)) :
    SameAnswer (readGroups q x w l s) (readGroups q x w l t) := by
  induction l generalizing s t with
  | nil => exact .of_alike h
  | cons g l ih =>
    obtain ⟨res, s1, t1, hs, ht, h1⟩ := (h.endRead q x g.1 (packedBytes g.2 w)).exists_eq
    unfold Machine.readGroups
    rw [hs, ht]
    cases res with
    | error f => exact .of_alike h1
    | ok bs =>
      obtain ⟨rest, s2, t2, hs2, ht2, h2⟩ := (ih h1).exists_eq
      dsimp only
      rw [hs2, ht2]
      cases rest <;> exact .of_alike h2

theorem Alike.readPositions {s t : State} (h : Alike s t) (q : Part4) (x : End) (w ch : Nat) (l : List (Nat × Nat)) :
    SameAnswers (readPositions q x w ch l s) (readPositions q x w ch l t) := by
  induction l generalizing s t with
  | nil => exact .of_alike h
  | cons p l ih =>
    obtain ⟨res, s1, t1, hs, ht, h1⟩ := (h.readGroups q x w (groupsAt x w ch p.1 p.2)).exists_eq
    unfold Machine.readPositions
    rw [hs, ht]
    cases res with
    | error f => exact .of_alike h1
    | ok es =>
      obtain ⟨rest, f, s2, t2, hs2, ht2, h2⟩ := (ih h1).exists_eq
      dsimp only
      rw [hs2, ht2]
      exact .of_alike h2

theorem Alike.readBlocks {s t : State} (h : Alike s t) (q : Part4) (x : End) (fmt mode : Nat) (l : List (Nat × Nat × Nat))
    (m : Tab (List Nat)) : SameAnswers (readBlocks q x fmt mode l m s) (readBlocks q x fmt mode l m t) := by
  induction l generalizing m s t with
  | nil => exact .of_alike h
  | cons b l ih =>
    obtain ⟨res, s1, t1, hs, ht, h1⟩ := (h.endRead q x (blockAddr x mode b.2.2 b.1 b.2.1) (cmpBytes mode)).exists_eq
    unfold Machine.readBlocks
    rw [hs, ht]
    cases res with
    | error f => exact .of_alike h1
    | ok bs =>
      have h2 := h1.around (bumpCmp_alike q.half 1 1 s1) (bumpCmp_alike q.half 1 1 t1)
      dsimp only
      cases decodeBlock fmt mode bs with
      | none => exact .of_alike h2
      | some vs => exact ih h2 _

theorem Alike.readRect {s t : State} (h : Alike s t) (q : Part4) (d : Entry) (x : End) (rows : List Nat) :
    SameAnswers (readRect q d x rows s) (readRect q d x rows t) := by
  unfold Machine.readRect
  extract_lets w ps bys bxs blocks
  split
  · exact h.readPositions ..
  · obtain ⟨m, f, s1, t1, hs, ht, h1⟩ := (h.readBlocks q x (tfFmt d) (tfCmode d) blocks []).exists_eq
    rw [hs, ht]
    exact .of_alike h1

theorem Alike.moveOf {s t : State} (h : Alike s t) (q : Part4) : SameAnswer (moveOf q s) (moveOf q t) := by
  unfold Machine.moveOf
  rw [stepAt_congr h.img, descUnit_congr h.img]
  extract_lets st d x y rows
  obtain ⟨codes, f, s1, t1, hs, ht, h1⟩ := (h.readRect q d x rows).exists_eq
  rw [hs, ht]
  exact .of_alike h1

/-! ### What reads leave -/

theorem LooksOnly.of_keeps {m : Nat} {s t : State} (k : Keeps m s t) (h5 : m.testBit 5 = false := by rfl) (h9 : m.testBit 9 = false := by rfl)
    (h10 : m.testBit 10 = false := by rfl) : LooksOnly s t := ⟨.of_keeps k h5 h9, .of_keeps k h9 h10⟩

theorem endRead_looksOnly (q : Part4) (x : End) (a n : Nat) (s : State) : LooksOnly s (endRead q x a n s).2 := by
  unfold endRead
  split
  · exact .refl s
  · exact ⟨vread_readsOnly .., vread_quiet ..⟩

theorem readGroups_looksOnly (q : Part4) (x : End) (w : Nat) (l : List (Nat × Nat)) (s : State) : LooksOnly s (readGroups q x w l s).2 := by
  induction l generalizing s with
  | nil => exact .refl s
  | cons g l ih =>
    have hread := endRead_looksOnly q x g.1 (packedBytes g.2 w) s
    unfold readGroups
    split
    · exact .of_pair ‹_› hread
    · next bs s1 heq =>
      have hrest := (LooksOnly.of_pair heq hread).trans (ih s1)
      dsimp only
      split <;> exact .of_pair ‹_› hrest

theorem readPositions_looksOnly (q : Part4) (x : End) (w ch : Nat) (l : List (Nat × Nat)) (s : State) :
    LooksOnly s (readPositions q x w ch l s).2.2 := by
  induction l generalizing s with
  | nil => exact .refl s
  | cons p l ih =>
    have hread := readGroups_looksOnly q x w (groupsAt x w ch p.1 p.2) s
    unfold readPositions
    split
    · exact .of_pair ‹_› hread
    · exact (LooksOnly.of_pair ‹_› hread).trans (ih _)

theorem readBlocks_looksOnly (q : Part4) (x : End) (fmt mode : Nat) (l : List (Nat × Nat × Nat)) (m : Tab (List Nat)) (s : State) :
    LooksOnly s (readBlocks q x fmt mode l m s).2.2 := by
  induction l generalizing m s with
  | nil => exact .refl s
  | cons b l ih =>
    have hread := endRead_looksOnly q x (blockAddr x mode b.2.2 b.1 b.2.1) (cmpBytes mode) s
    unfold readBlocks
    split
    · exact .of_pair ‹_› hread
    · next bs s1 heq =>
      have hcount : LooksOnly s (bumpCmp q.half 1 1 s1) := (LooksOnly.of_pair heq hread).trans (.of_keeps (bumpCmp_keeps ..))
      dsimp only
      split
      · exact hcount
      · exact hcount.trans (ih _ _)

theorem readRect_looksOnly (q : Part4) (d : Entry) (x : End) (rows : List Nat) (s : State) : LooksOnly s (readRect q d x rows s).2.2 := by
  unfold readRect
  extract_lets w ps bys bxs blocks
  split
  · exact readPositions_looksOnly ..
  · exact readBlocks_looksOnly ..

theorem moveOf_looksOnly (q : Part4) (s : State) : LooksOnly s (moveOf q s).2 := readRect_looksOnly ..

theorem LooksOnly.sameBox {s t : State} (h : LooksOnly s t) (p : Nat) : (s.hearth p).SameBox (t.hearth p) :=
  Hearth.sameBox_of_box (congrArg Prod.fst (h.core p))

end Sys2Proof.Machine
end

section
/-! Writes at the ends of a transfer (R188, R189): what they see, what they leave of page maps, and what they put in a firebox. -/
namespace Sys2Proof.Machine

/-! ### What writes see -/

theorem Hearth.write_cache (x : Hearth) (off : Nat) (bs : List Byte) : (x.write off bs).cache = x.cache := by
  induction bs generalizing x off with
  | nil => rfl
  | cons b t ih => exact (ih ..).trans rfl

section
variable {s t : State} (h : Alike s t)
include h

theorem Alike.pieceFault (ps : List (Nat × Nat)) : t.pieceFault ps = s.pieceFault ps := by
  unfold State.pieceFault
  simp only [h.locate]

theorem Alike.transPieces (r : Reader) (ctx : Nat) (write : Bool) (l : List (Nat × Nat)) :
    SameAnswer (transPieces r ctx write l s) (transPieces r ctx write l t) := by
  induction l generalizing s t with
  | nil => exact .of_alike h
  | cons x l ih =>
    obtain ⟨pa, s1, t1, hs, ht, h1⟩ := (h.translate r ctx x.1 write).exists_eq
    unfold Machine.transPieces
    rw [hs, ht]
    cases pa with
    | none => exact .of_alike h1
    | some pa =>
      obtain ⟨rest, s2, t2, hs2, ht2, h2⟩ := (ih h1).exists_eq
      dsimp only
      rw [hs2, ht2]
      cases rest <;> exact .of_alike h2

theorem Alike.vwriteWhole (r : Reader) (ctx va : Nat) (bs : List Byte) :
    SameAnswer (vwriteWhole r ctx va bs s) (vwriteWhole r ctx va bs t) := by
  obtain ⟨ps, s1, t1, hs, ht, h1⟩ := (h.transPieces r ctx true (pieces va bs.length)).exists_eq
  unfold Machine.vwriteWhole
  rw [hs, ht]
  cases ps with
  | none => exact .of_alike h1
  | some ps =>
    dsimp only
    rw [h1.pieceFault]
    cases s1.pieceFault ps with
    | some f => exact .of_alike (h1.around (noteUnmapped_alike ..) (noteUnmapped_alike ..))
    | none => exact h1.vwrite ..

theorem Alike.endWrite (q : Part4) (x : End) (a : Nat) (bs : List Byte) : SameAnswer (endWrite q x a bs s) (endWrite q x a bs t) := by
  unfold Machine.endWrite
  split
  · have hface := h.hearth q.phys
    have hbox : ((s.hearth q.phys).write a bs).SameBox ((t.hearth q.phys).write a bs) :=
      Hearth.SameBox.write ⟨congrArg Prod.fst hface, congrArg (fun f => f.2.1) hface⟩ a bs
    refine .of_alike (h.updHearth q.phys (Prod.ext hbox.frames (Prod.ext hbox.pageMap ?_)))
    exact (Hearth.write_cache ..).trans ((congrArg (fun f => f.2.2) hface).trans (Hearth.write_cache ..).symm)
  · exact h.vwrite ..

theorem Alike.unitWrite (q : Part4) (x : End) (u : Unit_) : SameAnswer (unitWrite q x u s) (unitWrite q x u t) := by
  unfold Machine.unitWrite
  split
  · exact h.vwriteWhole ..
  · exact h.endWrite ..

end

/-- The counters of a unit written. -/
def unitCounted (q : Part4) (mode : Nat) (u : Unit_) (s : State) : State :=
  countBlock q.half mode u.block (bumpXlat q.half 4 u.bytes.length s)

theorem unitCounted_keeps (q : Part4) (mode : Nat) (u : Unit_) (s : State) : Keeps 0x180 s (unitCounted q mode u s) :=
  (bumpXlat_keeps ..).trans (countBlock_keeps ..)

theorem Alike.writeList {s t : State} (h : Alike s t) (q : Part4) (x : End) (mode : Nat) (us : List Unit_) (n : Nat) :
    SameAnswers (writeList q x mode us n s) (writeList q x mode us n t) := by
  induction us generalizing n s t with
  | nil => exact .of_alike h
  | cons u us ih =>
    obtain ⟨res, s1, t1, hs, ht, h1⟩ := (h.unitWrite q x u).exists_eq
    unfold Machine.writeList
    rw [hs, ht]
    cases res with
    | error f => exact .of_alike h1
    | ok _ => exact ih (h1.around (.of_keeps (unitCounted_keeps q mode u s1)) (.of_keeps (unitCounted_keeps q mode u t1))) _

/-! ### What writes leave -/

/-- The page map of every hearth is the same. -/
structure PageMapsKept (s t : State) : Prop where
  pageMap : ∀ p, (t.hearth p).pageMap = (s.hearth p).pageMap

section
variable {s t u : State}

theorem PageMapsKept.refl (s : State) : PageMapsKept s s := ⟨fun _ => rfl⟩

theorem PageMapsKept.trans (h : PageMapsKept s t) (k : PageMapsKept t u) : PageMapsKept s u :=
  ⟨fun p => (k.pageMap p).trans (h.pageMap p)⟩

theorem PageMapsKept.of_pair {α : Type} {p : α × State} {a : α} (h : p = (a, t)) (k : PageMapsKept s p.2) : PageMapsKept s t := by
  subst h; exact k

theorem PageMapsKept.of_readsOnly (h : ReadsOnly s t) : PageMapsKept s t := ⟨fun p => congrArg (fun c => c.1.2.1) (h.core p)⟩

theorem PageMapsKept.of_keeps {m : Nat} (k : Keeps m s t) (h9 : m.testBit 9 = false := by rfl) : PageMapsKept s t :=
  ⟨fun p => by rw [(HearthsKept.of_keeps k h9).hearth]⟩

end

theorem vwrite_pageMapsKept (r : Reader) (ctx va : Nat) (bs : List Byte) (s : State) : PageMapsKept s (vwrite r ctx va bs s).2 :=
  .of_readsOnly (writePieces_writesOnly ..).toReadsOnly

theorem transPieces_readsOnly (r : Reader) (ctx : Nat) (write : Bool) (l : List (Nat × Nat)) (s : State) :
    ReadsOnly s (transPieces r ctx write l s).2 := by
  induction l generalizing s with
  | nil => exact .refl s
  | cons x l ih =>
    have htrans := translate_readsOnly r ctx x.1 write s
    unfold transPieces
    split
    · exact .of_pair ‹_› htrans
    · have hrest := (ReadsOnly.of_pair ‹_› htrans).trans (ih _)
      split <;> exact .of_pair ‹_› hrest

theorem vwriteWhole_pageMapsKept (r : Reader) (ctx va : Nat) (bs : List Byte) (s : State) :
    PageMapsKept s (vwriteWhole r ctx va bs s).2 := by
  have htrans := PageMapsKept.of_readsOnly (transPieces_readsOnly r ctx true (pieces va bs.length) s)
  unfold vwriteWhole
  split
  · exact .of_pair ‹_› htrans
  · have h1 := PageMapsKept.of_pair ‹_› htrans
    split
    · exact h1.trans (.of_keeps (noteUnmapped_keeps ..))
    · exact h1.trans (vwrite_pageMapsKept ..)

theorem updHearth_write_pageMapsKept (p a : Nat) (bs : List Byte) (s : State) :
    PageMapsKept s (updHearth p (fun h => h.write a bs) s) := by
  refine ⟨fun k => ?_⟩
  by_cases hk : k = p
  · rw [hk, updHearth_self, Hearth.write_pageMap]
  · rw [updHearth_ne _ _ _ hk]

theorem unitWrite_pageMapsKept (q : Part4) (x : End) (u : Unit_) (s : State) : PageMapsKept s (unitWrite q x u s).2 := by
  unfold unitWrite endWrite
  split
  · exact vwriteWhole_pageMapsKept ..
  · split
    · exact updHearth_write_pageMapsKept ..
    · exact vwrite_pageMapsKept ..

theorem writeList_pageMapsKept (q : Part4) (x : End) (mode : Nat) (us : List Unit_) (n : Nat) (s : State) :
    PageMapsKept s (writeList q x mode us n s).2.2 := by
  induction us generalizing n s with
  | nil => exact .refl s
  | cons u us ih =>
    have hwrite := unitWrite_pageMapsKept q x u s
    unfold writeList
    split
    · exact .of_pair ‹_› hwrite
    · next s1 heq =>
      exact ((PageMapsKept.of_pair heq hwrite).trans (.of_keeps (unitCounted_keeps q mode u s1))).trans (ih ..)

/-! ### What writes put in a firebox -/

/-- A firebox after units of writing, in order. -/
def Hearth.withUnits (x : Hearth) (us : List Unit_) : Hearth := us.foldl (fun x u => x.write u.addr u.bytes) x

theorem writeList_of_box {q : Part4} {x : End} (hbox : x.box = true) (mode : Nat) (us : List Unit_) (n : Nat) (s : State) :
    (writeList q x mode us n s).2.1 = none ∧ (writeList q x mode us n s).2.2.mem = s.mem
      ∧ (writeList q x mode us n s).2.2.hearth q.phys = (s.hearth q.phys).withUnits us := by
  induction us generalizing n s with
  | nil => exact ⟨rfl, rfl, rfl⟩
  | cons u us ih =>
    have hwrite : unitWrite q x u s = (.ok (), updHearth q.phys (fun h => h.write u.addr u.bytes) s) := by
      rw [unitWrite, endWrite, hbox, Bool.not_true, Bool.and_false]
      rfl
    have hcount := unitCounted_keeps q mode u (updHearth q.phys (fun h => h.write u.addr u.bytes) s)
    obtain ⟨herr, hmem, hhearth⟩ := ih (n + 1) (unitCounted q mode u (updHearth q.phys (fun h => h.write u.addr u.bytes) s))
    unfold writeList
    rw [hwrite]
    refine ⟨herr, hmem.trans (hcount.mem rfl), hhearth.trans ?_⟩
    rw [(HearthsKept.of_keeps hcount rfl).hearth, updHearth_self]
    rfl

section
variable {x : Hearth} (hwf : x.frames.wf = true) (hinj : x.MapInjective)
include hwf hinj

theorem Hearth.byte_withUnits_out {a : Nat} {us : List Unit_} (ha : ∀ u ∈ us, Apart a u.addr u.bytes.length) :
    (x.withUnits us).byte a = x.byte a := by
  induction us generalizing x with
  | nil => rfl
  | cons u us ih =>
    exact (ih (write_wf _ _ _ hwf) (hinj.congr (write_pageMap ..)) fun v hv => ha v (List.mem_cons_of_mem _ hv)).trans
      (byte_write_out hwf hinj _ (ha u List.mem_cons_self))

/-- Units that do not meet stand whole. -/
theorem Hearth.bytes_withUnits {us : List Unit_} (hapart : UnitsApart us) {u : Unit_} (hu : u ∈ us) :
    (x.withUnits us).bytes u.addr u.bytes.length = u.bytes := by
  induction us generalizing x with
  | nil => cases hu
  | cons v us ih =>
    have hwf' := write_wf x v.addr v.bytes hwf
    have hinj' : (x.write v.addr v.bytes).MapInjective := hinj.congr (write_pageMap ..)
    obtain ⟨hhead, htail⟩ := List.pairwise_cons.1 hapart
    rcases List.mem_cons.1 hu with rfl | hu
    · refine Eq.trans (List.map_congr_left fun i hi => ?_) (bytes_write hwf hinj u.addr u.bytes)
      refine byte_withUnits_out hwf' hinj' fun v hv => ?_
      have hrange := hhead v hv
      have hlt := List.mem_range.1 hi
      unfold ApartRange at hrange
      unfold Apart
      omega
    · exact ih hwf' hinj' htail hu

end

end Sys2Proof.Machine
end

section
/-! From firebox to firebox: the elements that a transfer reads and the units of writing that hold them (R124, R125, R188). -/
namespace Sys2Proof.Machine

/-! ### Groups of a position -/

theorem getElem?_flatMap_of_length {α β : Type} {f : α → List β} {n : Nat} {l : List α} (h : ∀ a ∈ l, (f a).length = n) (i : Nat)
    {j : Nat} (hj : j < n) : (l.flatMap f)[i * n + j]? = l[i]?.bind fun a => (f a)[j]? := by
  induction l generalizing i with
  | nil => rfl
  | cons a l ih =>
    have ha := h a List.mem_cons_self
    rw [List.flatMap_cons]
    cases i with
    | zero =>
      rw [Nat.zero_mul, Nat.zero_add, List.getElem?_append_left (by omega)]
      rfl
    | succ i =>
      have hplace : (i + 1) * n + j = n + (i * n + j) := by rw [Nat.add_mul, Nat.one_mul]; omega
      rw [hplace, List.getElem?_append_right (by omega), ha, Nat.add_sub_cancel_left, ih (fun b hb => h b (List.mem_cons_of_mem _ hb)),
        List.getElem?_cons_succ]

/-- Elements of a packed group of an end. -/
def groupSize (x : End) (ch : Nat) : Nat := if x.lay = 2 then ch else blockOf x.lay

section
variable {x : End} {w ch y xx c : Nat}

theorem groupSize_pos (hc : c < ch) : 0 < groupSize x ch := by
  unfold groupSize blockOf
  split_ifs <;> omega

theorem snd_of_mem_groupsAt {g : Nat × Nat} (hg : g ∈ groupsAt x w ch y xx) : g.2 = groupSize x ch := by
  unfold groupsAt at hg
  unfold groupSize
  split at hg
  · rw [if_pos ‹_›, List.mem_singleton.1 hg]
  · rw [if_neg ‹_›]
    obtain ⟨b, -, rfl⟩ := List.mem_map.1 hg
    rfl

theorem elemPlace_snd (hc : c < ch) : (elemPlace x w y xx c).2 = c % groupSize x ch := by
  unfold elemPlace groupSize
  split
  · exact (Nat.mod_eq_of_lt hc).symm
  · rfl

/-- The group of an element stands where the element's place says. -/
theorem groupsAt_getElem? (hc : c < ch) :
    (groupsAt x w ch y xx)[c / groupSize x ch]? = some ((elemPlace x w y xx c).1, groupSize x ch) := by
  have hpos := groupSize_pos (x := x) hc
  unfold groupsAt elemPlace
  unfold groupSize at hpos ⊢
  split_ifs at hpos ⊢ with hlay
  · rw [Nat.div_eq_of_lt hc]
    rfl
  · have hlt : c / blockOf x.lay < ceilDiv ch (blockOf x.lay) := by
      rw [ceilDiv, if_neg (by omega), Nat.div_lt_iff_lt_mul hpos]
      have hdiv := Nat.lt_div_mul_add (a := ch + blockOf x.lay - 1) hpos
      omega
    rw [List.getElem?_map, List.getElem?_range hlt]
    rfl

end

/-! ### Reads of a firebox -/

/-- The codes of a packed group. -/
def groupCodes (rd : Nat → Byte) (w : Nat) (g : Nat × Nat) : List Nat := (List.range g.2).map fun i => elemRead rd g.1 w i

/-- The codes of a position. -/
def posCodes (rd : Nat → Byte) (x : End) (w ch : Nat) (p : Nat × Nat) : List Nat :=
  ((groupsAt x w ch p.1 p.2).flatMap (groupCodes rd w)).take ch

theorem posCodes_getElem? (rd : Nat → Byte) (x : End) (w : Nat) {ch : Nat} (y xx : Nat) {c : Nat} (hc : c < ch) :
    (posCodes rd x w ch (y, xx))[c]? = some (elemRead rd (elemPlace x w y xx c).1 w (elemPlace x w y xx c).2) := by
  have hmod : c % groupSize x ch < groupSize x ch := Nat.mod_lt _ (groupSize_pos hc)
  have hlen : ∀ g ∈ groupsAt x w ch y xx, (groupCodes rd w g).length = groupSize x ch := fun g hg => by
    rw [groupCodes, List.length_map, List.length_range, snd_of_mem_groupsAt hg]
  have hplace := getElem?_flatMap_of_length hlen (c / groupSize x ch) hmod
  rw [Nat.mul_comm, Nat.div_add_mod, groupsAt_getElem? hc, Option.bind_some, groupCodes, List.getElem?_map,
    List.getElem?_range hmod] at hplace
  rw [posCodes, List.getElem?_take_of_lt hc, hplace, elemPlace_snd hc]
  rfl

theorem Hearth.bytes_getD (x : Hearth) (a : Nat) {n i : Nat} (hi : i < n) : (x.bytes a n).getD i 0 = x.byte (a + i) := by
  rw [List.getD_eq_getElem?_getD, Hearth.bytes, List.getElem?_map, List.getElem?_range hi]
  rfl

section
variable {q : Part4} {x : End} (hbox : x.box = true)
include hbox

theorem readGroups_of_box (w : Nat) (l : List (Nat × Nat)) (s : State) :
    readGroups q x w l s = (.ok (l.flatMap (groupCodes (s.hearth q.phys).byte w)), s) := by
  induction l with
  | nil => rfl
  | cons g l ih =>
    have hread : endRead q x g.1 (packedBytes g.2 w) s = (.ok ((s.hearth q.phys).bytes g.1 (packedBytes g.2 w)), s) := by
      rw [endRead, if_pos hbox]
    have hcodes : ((List.range g.2).map fun i => elemRead (fun k => ((s.hearth q.phys).bytes g.1 (packedBytes g.2 w)).getD k 0) 0 w i)
        = groupCodes (s.hearth q.phys).byte w g := List.map_congr_left fun i hi =>
      elemRead_congr (List.mem_range.1 hi) fun k hk => by rw [Nat.zero_add, Hearth.bytes_getD _ _ hk]
    unfold readGroups
    rw [hread]
    dsimp only
    rw [ih, hcodes]
    rfl

theorem readPositions_of_box (w ch : Nat) (l : List (Nat × Nat)) (s : State) :
    readPositions q x w ch l s = (l.map (posCodes (s.hearth q.phys).byte x w ch), none, s) := by
  induction l with
  | nil => rfl
  | cons p l ih =>
    unfold readPositions
    rw [readGroups_of_box hbox]
    dsimp only
    rw [ih]
    rfl

end

/-- The positions of a rectangle in row-major order. -/
def rectPositions (d : Entry) (rows : List Nat) : List (Nat × Nat) :=
  rows.flatMap fun y => (List.range (tfW d)).map fun xx => (tfY d + y, tfX d + xx)

theorem rectPositions_getElem? (d : Entry) {rows : List Nat} {i xx : Nat} (hi : i < rows.length) (hxx : xx < tfW d) :
    (rectPositions d rows)[i * tfW d + xx]? = some (tfY d + rows.getD i 0, tfX d + xx) := by
  have hrow : rows[i]? = some (rows.getD i 0) := by rw [List.getD_eq_getElem _ _ hi, List.getElem?_eq_getElem hi]
  rw [rectPositions, getElem?_flatMap_of_length (fun a _ => by rw [List.length_map, List.length_range]) i hxx, hrow, Option.bind_some,
    List.getElem?_map, List.getElem?_range hxx]
  rfl

theorem readRect_of_box {q : Part4} {x : End} (hbox : x.box = true) (hlay : x.lay ≠ 3) (d : Entry) (rows : List Nat) (s : State) :
    readRect q d x rows s =
      ((rectPositions d rows).map (posCodes (s.hearth q.phys).byte x (fmtWidth (tfFmt d)) (tfCh d)), none, s) := by
  unfold readRect
  dsimp only
  rw [if_pos hlay]
  exact readPositions_of_box hbox ..

/-! ### Units that hold an element -/

/-- A unit holds a code at an element's place. -/
structure HoldsCode (w : Nat) (place : Nat × Nat) (v : Nat) (u : Unit_) : Prop where
  addr : u.addr = place.1
  row  : ∃ es : List Nat, u.bytes = packElems w es ∧ es[place.2]? = some v

theorem exists_writeUnits {d : Entry} (x : End) (y xx : Nat) {c v : Nat} {es : List Nat} (hc : c < tfCh d) (hv : es[c]? = some v) :
    ∃ u ∈ writeUnits d x y xx es, HoldsCode (fmtWidth (tfFmt d)) (elemPlace x (fmtWidth (tfFmt d)) y xx c) v u := by
  have hgroup := groupsAt_getElem? (x := x) (w := fmtWidth (tfFmt d)) (y := y) (xx := xx) hc
  have hmod : c % groupSize x (tfCh d) < groupSize x (tfCh d) := Nat.mod_lt _ (groupSize_pos hc)
  have hlt := (List.getElem?_eq_some_iff.1 hgroup).1
  have hgetD : (groupsAt x (fmtWidth (tfFmt d)) (tfCh d) y xx).getD (c / groupSize x (tfCh d)) (0, 0)
      = ((elemPlace x (fmtWidth (tfFmt d)) y xx c).1, groupSize x (tfCh d)) := by
    rw [List.getD_eq_getElem?_getD, hgroup]; rfl
  have hpart : ((es.drop (c / groupSize x (tfCh d) * groupSize x (tfCh d))).take (groupSize x (tfCh d)))[c % groupSize x (tfCh d)]?
      = some v := by
    rw [List.getElem?_take_of_lt hmod, List.getElem?_drop, Nat.mul_comm, Nat.div_add_mod, hv]
  refine ⟨_, List.mem_map_of_mem (List.mem_range.2 hlt), ?_, _, rfl, ?_⟩
  · rw [hgetD]
  · rw [hgetD, elemPlace_snd hc, List.getElem?_append_left (List.getElem?_eq_some_iff.1 hpart).1]
    exact hpart

/-- Every code of a rectangle is held by a unit of an uncompressed firebox end. -/
theorem exists_destUnits {d : Entry} {x : End} (hbox : x.box = true) (hlay : x.lay ≠ 3) (rows : List Nat) {codes : List (List Nat)}
    {i xx c v : Nat} {es : List Nat} (hxx : xx < tfW d) (hc : c < tfCh d) (hes : codes[i * tfW d + xx]? = some es)
    (hv : es[c]? = some v) :
    ∃ u ∈ destUnits d x rows codes, HoldsCode (fmtWidth (tfFmt d)) (elemPlace x (fmtWidth (tfFmt d)) i xx c) v u := by
  have hlt := (List.getElem?_eq_some_iff.1 hes).1
  have hgetD : codes.getD (i * tfW d + xx) [] = es := by rw [List.getD_eq_getElem?_getD, hes]; rfl
  have hrow : (i * tfW d + xx) / tfW d = i := by
    rw [Nat.mul_comm, Nat.mul_add_div (by omega), Nat.div_eq_of_lt hxx, Nat.add_zero]
  have hcol : (i * tfW d + xx) % tfW d = xx := by rw [Nat.mul_comm, Nat.mul_add_mod, Nat.mod_eq_of_lt hxx]
  obtain ⟨u, hu, hholds⟩ := exists_writeUnits x i xx hc hv
  refine ⟨u, ?_, hholds⟩
  unfold destUnits
  dsimp only
  rw [if_neg hlay, hbox, if_neg (by simp)]
  refine List.mem_flatMap.2 ⟨i * tfW d + xx, List.mem_range.2 hlt, ?_⟩
  rw [hgetD, hrow, hcol, Nat.zero_add]
  exact hu

theorem HoldsCode.elemRead_eq {w v : Nat} {place : Nat × Nat} {u : Unit_} (h : HoldsCode w place v u) {x : Hearth}
    (hstands : x.bytes u.addr u.bytes.length = u.bytes) : elemRead x.byte place.1 w place.2 = v % 2 ^ w := by
  obtain ⟨haddr, es, hbytes, hv⟩ := h
  have hlt := (List.getElem?_eq_some_iff.1 hv).1
  have hrow : elemRead x.byte place.1 w place.2 = elemRead (fun i => (packElems w es).getD i 0) 0 w place.2 :=
    elemRead_congr hlt fun i hi => by
      have hlen : i < u.bytes.length := by rw [hbytes, packElems_length]; exact hi
      rw [Nat.zero_add, ← haddr, ← hbytes, ← Hearth.bytes_getD x u.addr hlen, hstands]
  rw [hrow, elemRead_packElems hlt, List.getD_eq_getElem?_getD, hv]
  rfl

end Sys2Proof.Machine
end

section
/-! The end of a transfer (R188, R189, R191). -/
namespace Sys2Proof.Machine

/-! ### What an engine moves -/

section
variable {q : Part4} {s : State}

/-- Every element of a rectangle moved from firebox to firebox is held by a unit at its place of the destination. -/
theorem exists_moveOf_unit {i xx c : Nat}
    (hsrc : (moveOf q s).1.src.box = true) (hdst : (moveOf q s).1.dst.box = true) (hlay : (moveOf q s).1.src.lay ≠ 3)
    (hlay' : (moveOf q s).1.dst.lay ≠ 3) (hi : i < (moveOf q s).1.rows.length) :
    let d := s.descUnit q.job.q.pricking (stepDesc (s.stepAt q.job.q.pricking q.step))
    let w := fmtWidth (tfFmt d)
    let from_ := elemPlace (moveOf q s).1.src w (tfY d + (moveOf q s).1.rows.getD i 0) (tfX d + xx) c
    xx < tfW d → c < tfCh d → ∃ u ∈ (moveOf q s).1.us,
      HoldsCode w (elemPlace (moveOf q s).1.dst w i xx c) (elemRead (s.hearth q.phys).byte from_.1 w from_.2) u := by
  intro d w from_ hxx hc
  have hcodes : (readRect q d (moveOf q s).1.src (moveOf q s).1.rows s).1 = (rectPositions d (moveOf q s).1.rows).map
      (posCodes (s.hearth q.phys).byte (moveOf q s).1.src w (tfCh d)) := by rw [readRect_of_box hsrc hlay]
  have hunits : (moveOf q s).1.us =
      destUnits d (moveOf q s).1.dst (moveOf q s).1.rows (readRect q d (moveOf q s).1.src (moveOf q s).1.rows s).1 := rfl
  rw [hunits, hcodes]
  refine exists_destUnits hdst hlay' _ hxx hc ?_ (posCodes_getElem? _ _ _ _ _ hc)
  rw [List.getElem?_map, rectPositions_getElem? d hi hxx]
  rfl

end

/-! ### The command -/

theorem part4_place {kinds : List Nat} {hoop step pos : Nat} {q : Part4} {s : State} (h : s.part4 kinds hoop step pos = some q) :
    q.hoop = hoop ∧ q.step = step ∧ q.pos = pos := by
  obtain ⟨j, r, -, -, -, rfl⟩ := part4_eq_some_iff.1 h
  exact ⟨rfl, rfl, rfl⟩

/-- What a transfer writes: the units acknowledged, the fault that stopped them, and the state after. -/
def transferWrites (q : Part4) (s : State) : Nat × Option FaultClass × State :=
  let d := s.descUnit q.job.q.pricking (stepDesc (s.stepAt q.job.q.pricking q.step))
  writeList q (moveOf q s).1.dst (tfCmode d) (moveOf q s).1.us 0 (moveOf q s).2

section
variable {q : Part4} {s t : State}

theorem Alike.transferWrites (h : Alike s t) : SameAnswers (transferWrites q s) (transferWrites q t) := by
  have hmove := h.moveOf q
  unfold Machine.transferWrites
  rw [stepAt_congr h.img, descUnit_congr h.img, hmove.answer]
  exact hmove.alike.writeList ..

theorem transferRun_of_done (hsrc : (moveOf q s).1.srcF = none) (hwrite : (transferWrites q s).2.1 = none) :
    transferRun q none s = partEnd q.hoop q.step q.pos (transferWrites q s).2.2 := by
  have hpair : transferWrites q s = ((transferWrites q s).1, none, (transferWrites q s).2.2) :=
    Prod.ext rfl (Prod.ext hwrite rfl)
  unfold transferWrites at hpair ⊢
  unfold transferRun transferRest
  dsimp only at hpair ⊢
  rw [hsrc]
  dsimp only
  rw [hpair]

theorem transferFault_openPart (cls : FaultClass) (s : State) : (transferFault q cls s).openPart q.hoop q.step q.pos = none :=
  faultPart_openPart ..

theorem transferRun_of_fault (h : (moveOf q s).1.srcF ≠ none ∨ (transferWrites q s).2.1 ≠ none) :
    (transferRun q none s).openPart q.hoop q.step q.pos = none := by
  unfold transferRun transferRest
  dsimp only
  cases hsrc : (moveOf q s).1.srcF with
  | some f => exact transferFault_openPart ..
  | none =>
    have hwrite := h.resolve_left (not_not.2 hsrc)
    obtain ⟨f, hf⟩ := Option.ne_none_iff_exists'.1 hwrite
    have hpair : transferWrites q s = ((transferWrites q s).1, some f, (transferWrites q s).2.2) :=
      Prod.ext rfl (Prod.ext hf rfl)
    unfold transferWrites at hpair
    dsimp only at hpair ⊢
    rw [hpair]
    exact transferFault_openPart ..

theorem transferDone_of_part {hoop step pos : Nat} (h : s.part4 [kTransfer] hoop step pos = some q) (fixed : Corrected) :
    transferDone hoop step pos none fixed s = transferRun q none (countFixed q.phys fixed s) := by
  unfold transferDone
  rw [h]

end

/-! ### What a transfer leaves -/

/-- Memory and fireboxes as after the writes, page maps as before them. -/
structure Transferred (q : Part4) (s t : State) : Prop where
  dram    : t.mem.dram = (transferWrites q s).2.2.mem.dram
  shared  : t.mem.shared = (transferWrites q s).2.2.mem.shared
  frames  : ∀ p, (t.hearth p).frames = ((transferWrites q s).2.2.hearth p).frames
  pageMap : ∀ p, (t.hearth p).pageMap = (s.hearth p).pageMap

section
variable {q : Part4} {s t : State}

theorem transferWrites_pageMapsKept : PageMapsKept s (transferWrites q s).2.2 :=
  (PageMapsKept.of_readsOnly (moveOf_looksOnly q s).toReadsOnly).trans (writeList_pageMapsKept ..)

theorem transferRun_transferred (h : Alike s t) (hsrc : (moveOf q s).1.srcF = none) (hwrite : (transferWrites q s).2.1 = none) :
    Transferred q s (transferRun q none t) := by
  have hsame := h.transferWrites (q := q)
  have hrun := transferRun_of_done (q := q) (s := t) ((congrArg Move.srcF (h.moveOf q).answer).trans hsrc) (hsame.second.trans hwrite)
  have hquiet := partEnd_quiet q.hoop q.step q.pos (transferWrites q t).2.2
  have hhearths := partEnd_hearths q.hoop q.step q.pos (transferWrites q t).2.2
  rw [hrun]
  refine ⟨hquiet.dram.trans hsame.alike.dram, hquiet.shared.trans hsame.alike.shared, fun p => ?_, fun p => ?_⟩
  · rw [hhearths.hearth]
    exact congrArg Prod.fst (hsame.alike.hearth p)
  · rw [hhearths.hearth]
    exact (congrArg (fun f => f.2.1) (hsame.alike.hearth p)).trans (transferWrites_pageMapsKept.pageMap p)

theorem Hearth.SameBox.withUnits {x y : Hearth} (h : x.SameBox y) (us : List Unit_) : (x.withUnits us).SameBox (y.withUnits us) := by
  induction us generalizing x y with
  | nil => exact h
  | cons u us ih => exact ih (h.write ..)

theorem Hearth.withUnits_pageMap (x : Hearth) (us : List Unit_) : (x.withUnits us).pageMap = x.pageMap := by
  induction us generalizing x with
  | nil => rfl
  | cons u us ih => exact (ih _).trans (write_pageMap ..)

/-- A firebox destination after a transfer: its units written in order, other memory as before. -/
theorem Transferred.box (h : Transferred q s t) (hdst : (moveOf q s).1.dst.box = true) :
    t.mem.dram = s.mem.dram ∧ t.mem.shared = s.mem.shared
      ∧ ((s.hearth q.phys).withUnits (moveOf q s).1.us).SameBox (t.hearth q.phys) := by
  have hlook := moveOf_looksOnly q s
  obtain ⟨-, hmem, hhearth⟩ := writeList_of_box (q := q) hdst
    (tfCmode (s.descUnit q.job.q.pricking (stepDesc (s.stepAt q.job.q.pricking q.step)))) (moveOf q s).1.us 0 (moveOf q s).2
  refine ⟨?_, ?_, ?_, ?_⟩
  · exact h.dram.trans ((congrArg Mem.dram hmem).trans hlook.dram)
  · exact h.shared.trans ((congrArg Mem.shared hmem).trans hlook.shared)
  · exact (h.frames q.phys).trans ((congrArg Hearth.frames hhearth).trans ((hlook.sameBox q.phys).withUnits _).frames)
  · exact (h.pageMap q.phys).trans (Hearth.withUnits_pageMap ..).symm

/-- Units that do not meet stand whole in a firebox destination, and every other byte is as before. -/
theorem Transferred.units (h : Transferred q s t) (hdst : (moveOf q s).1.dst.box = true) (hwf : (s.hearth q.phys).frames.wf = true)
    (hinj : (s.hearth q.phys).MapInjective) (hapart : UnitsApart (moveOf q s).1.us) :
    (∀ u ∈ (moveOf q s).1.us, (t.hearth q.phys).bytes u.addr u.bytes.length = u.bytes)
      ∧ ∀ a, (∀ u ∈ (moveOf q s).1.us, Apart a u.addr u.bytes.length) → (t.hearth q.phys).byte a = (s.hearth q.phys).byte a := by
  obtain ⟨-, -, hbox⟩ := h.box hdst
  refine ⟨fun u hu => ?_, fun a ha => ?_⟩
  · unfold Hearth.bytes
    rw [hbox.byte]
    exact Hearth.bytes_withUnits hwf hinj hapart hu
  · rw [hbox.byte]
    exact Hearth.byte_withUnits_out hwf hinj ha

end

/-- The part of O30 about TRANSFER parts. -/
theorem transfersMoveTheirRectangle : TransfersMoveTheirRectangle := by
  intro hoop step pos fixed q s hpart d m w x wd
  have hdone := transferDone_of_part hpart fixed
  have halike := countFixed_alike q.phys fixed s
  have hunits := (transferDone_keeps hoop.toNat step.toNat pos.toNat none fixed s).units workUnits rfl
  obtain ⟨hhoop, hstep, hpos⟩ := part4_place hpart
  rw [← hhoop, ← hstep, ← hpos]
  refine ⟨fun hsrc hwrite => ⟨_, rfl, hunits, ?_⟩, fun hfault => ⟨_, rfl, hunits, ?_⟩⟩ <;> rw [hdone]
  · have hmoved := transferRun_transferred halike hsrc hwrite
    have hrun := transferRun_of_done ((congrArg Move.srcF (halike.moveOf q).answer).trans hsrc)
      ((halike.transferWrites (q := q)).second.trans hwrite)
    refine ⟨?_, hmoved.dram, hmoved.shared, fun p => ⟨hmoved.frames p, hmoved.pageMap p⟩, fun hdst hwf hinj hapart => ?_⟩
    · rw [hrun]; exact partEnd_openPart _
    · obtain ⟨hdram, hshared, -⟩ := hmoved.box hdst
      obtain ⟨hstand, hframe⟩ := hmoved.units hdst hwf (Hearth.mapInjective_iff.2 hinj) hapart
      refine ⟨hdram, hshared, hstand, hframe, fun hsrc hlay hlay' i xx c hi hxx hc => ?_⟩
      obtain ⟨u, hu, hholds⟩ := exists_moveOf_unit hsrc hdst hlay hlay' hi hxx hc
      exact (hholds.elemRead_eq (hstand u hu)).trans (elemRead_mod ..)
  · refine transferRun_of_fault (hfault.imp ?_ ?_)
    · rw [(halike.moveOf q).answer]; exact id
    · rw [(halike.transferWrites (q := q)).second]; exact id

/-- Settles O30, one theorem for each of its parts. -/
theorem transfersHandoversAndCollectivesEnd : Obligations.TransfersHandoversAndCollectivesEnd :=
  ⟨transfersMoveTheirRectangle, resultsAreHandedOver, collectivesReduce, reductionsLimitTheirSums⟩

end Sys2Proof.Machine
end

section
/-! Memory channels: what updates, reports and falls of capacity leave of them, and the counter of the reports that a half gathers
(R211, R219, R273, R316, R325). -/
namespace Sys2Proof.Machine

/-! ### One channel (R220, R221) -/

/-- No channel but `c` differs. -/
structure OtherChansKept (c : Nat) (s t : State) : Prop where
  chan : ∀ k, k ≠ c → t.chan k = s.chan k

theorem chan_of_mem {s t : State} (h : t.mem = s.mem) (c : Nat) : t.chan c = s.chan c := by
  unfold State.chan; rw [h]

theorem OtherChansKept.trans {c : Nat} {s t u : State} (h : OtherChansKept c s t) (k : OtherChansKept c t u) :
    OtherChansKept c s u := ⟨fun n hn => (k.chan n hn).trans (h.chan n hn)⟩

theorem OtherChansKept.ite {c : Nat} {s t u : State} {p : Prop} [Decidable p] (h : OtherChansKept c s t)
    (k : OtherChansKept c s u) : OtherChansKept c s (if p then t else u) := by split <;> assumption

theorem updChan_others (c : Nat) (f : Channel → Channel) (s : State) : OtherChansKept c s (updChan c f s) :=
  ⟨fun _ hk => updChan_ne _ _ _ hk⟩

theorem bumpChan_others (c w k : Nat) (s : State) : OtherChansKept c s (bumpChan c w k s) := updChan_others ..

@[simp] theorem updChan_half (c : Nat) (f : Channel → Channel) (s : State) (h : Half) : (updChan c f s).half h = s.half h := by
  cases h <;> rfl

@[simp] theorem bumpChan_chan (c w k : Nat) (s : State) :
    (bumpChan c w k s).chan c = { s.chan c with ctr := bump (s.chan c).ctr w k } := updChan_self ..

@[simp] theorem bumpChan_dram (c w k : Nat) (s : State) : (bumpChan c w k s).mem.dram = s.mem.dram := rfl

/-- A channel after a row access of a block: a hit, or an activate that leaves the row open (R209). -/
def Channel.touched (block : Nat) (x : Channel) : Channel :=
  let (_, _, b, row) := dramRow (64 * block)
  if Tab.get 0 x.openRows b = row + 1 then { x with ctr := bump x.ctr 2 1 }
  else { x with openRows := x.openRows.set b (row + 1), ctr := bump x.ctr 3 1 }

theorem touchBlock_chan (c block : Nat) (s : State) : (touchBlock c block s).chan c = (s.chan c).touched block := by
  unfold touchBlock Channel.touched
  dsimp only
  split <;> simp

theorem touchBlock_others (c block : Nat) (s : State) : OtherChansKept c s (touchBlock c block s) :=
  .ite (bumpChan_others ..) ((updChan_others ..).trans (bumpChan_others ..))

/-- A row access changes the open rows and the counters of rows alone. -/
theorem Channel.touched_eq (block : Nat) (x : Channel) :
    x.touched block = { x with openRows := (x.touched block).openRows, ctr := (x.touched block).ctr } := by
  unfold touched
  dsimp only
  split <;> rfl

theorem Channel.touched_ctr {w : Nat} (h2 : w ≠ 2) (h3 : w ≠ 3) (block : Nat) (x : Channel) :
    Tab.get 0 (x.touched block).ctr w = Tab.get 0 x.ctr w := by
  unfold touched
  dsimp only
  split
  · exact get_bump_ne _ _ h2
  · exact get_bump_ne _ _ h3

theorem Channel.touched_queue (block : Nat) (x : Channel) : (x.touched block).queue = x.queue := by rw [touched_eq]
theorem Channel.touched_scrubAt (block : Nat) (x : Channel) : (x.touched block).scrubAt = x.scrubAt := by rw [touched_eq]
theorem Channel.touched_density (block : Nat) (x : Channel) : (x.touched block).density = x.density := by rw [touched_eq]
theorem Channel.touched_badTimes (block : Nat) (x : Channel) : (x.touched block).badTimes = x.badTimes := by rw [touched_eq]

/-! ### Sets of channels (R201) -/

theorem setOfChan_of_img {s t : State} (h : t.img = s.img) (c : Nat) : t.setOfChan c = s.setOfChan c := by
  unfold State.setOfChan State.setChans; rw [h]

theorem setMates_of_img {s t : State} (h : t.img = s.img) (c : Nat) : t.setMates c = s.setMates c := by
  unfold State.setMates State.setChans; rw [setOfChan_of_img h, h]

/-! ### Reports (R316, R325) -/

/-- A fireguard counter of a half. -/
def State.fgCount (s : State) (h : Half) (w : Nat) : Nat := Tab.get 0 (s.half h).fgCtr w

theorem HalvesKept.fgCount {s t : State} (h : HalvesKept HalfUnit.fgCtr s t) (k : Half) (w : Nat) : t.fgCount k w = s.fgCount k w :=
  congrArg (Tab.get 0 · w) (h.half k)

theorem updHalf_fgCount (h k : Half) (w : Nat) (f : HalfUnit → HalfUnit) (s : State) (hf : ∀ u, (f u).fgCtr = u.fgCtr) :
    (updHalf h f s).fgCount k w = s.fgCount k w := (HalvesKept.updHalf h f s hf).fgCount k w

theorem queueRecord_fgCtr (r : FaultRec) (s : State) : HalvesKept HalfUnit.fgCtr s (queueRecord r s) :=
  .ite (.updHalf _ _ s fun _ => rfl) (.ite (.updHalf _ _ s fun _ => rfl) (.updHalf _ _ s fun _ => rfl))

theorem setEntry_fgCtr (key : FaultKey) (c : Option Coalesce) (s : State) : HalvesKept HalfUnit.fgCtr s (setEntry key c s) :=
  .updHalf key.half _ s fun _ => rfl

theorem coalesceExpire_fgCtr (c : Coalesce) (s : State) : HalvesKept HalfUnit.fgCtr s (coalesceExpire c s) :=
  (queueRecord_fgCtr ..).trans (setEntry_fgCtr ..)

theorem repeatExpire_fgCtr (c : Coalesce) (s : State) : HalvesKept HalfUnit.fgCtr s (repeatExpire c s) :=
  .ite (setEntry_fgCtr ..) ((queueRecord_fgCtr ..).trans (setEntry_fgCtr ..))

theorem settleKey_fgCtr (key : FaultKey) (n : Nat) (s : State) : HalvesKept HalfUnit.fgCtr s (settleKey key n s) := by
  induction n generalizing s with
  | zero => exact .refl s
  | succ n ih =>
    unfold settleKey
    split
    · exact .refl s
    · exact .ite (.ite ((repeatExpire_fgCtr ..).trans (ih _)) (.refl s)) (.ite ((coalesceExpire_fgCtr ..).trans (ih _)) (.refl s))

theorem bumpFg_fgCount_self (h : Half) (w k : Nat) (s : State) :
    (bumpFg h w k s).fgCount h w = (s.fgCount h w + k) % 2 ^ 64 := by
  rw [State.fgCount, bumpFg, updHalf_self]; exact get_bump_self ..

theorem bumpFg_fgCount_ne (h : Half) {v w : Nat} (k : Nat) (s : State) (hv : v ≠ w) :
    (bumpFg h w k s).fgCount h v = s.fgCount h v := by
  rw [State.fgCount, bumpFg, updHalf_self]; exact get_bump_ne _ _ hv

/-- A report gathered counts one in REPORTS of its half; the count of followers is another. -/
theorem gather_fgCount (r : FaultRec) (s : State) :
    (gather r s).fgCount r.key.half 0 = (s.fgCount r.key.half 0 + 1) % 2 ^ 64 := by
  unfold gather
  extract_lets s1 r1 s2
  have h2 : s2.fgCount r.key.half 0 = (s.fgCount r.key.half 0 + 1) % 2 ^ 64 := by
    rw [← (settleKey_fgCtr r.key 3 s).fgCount r.key.half 0]
    exact bumpFg_fgCount_self ..
  split
  · refine ((setEntry_fgCtr ..).fgCount ..).trans (.trans ?_ h2)
    split
    · rfl
    · exact bumpFg_fgCount_ne _ _ _ (by decide)
  · split
    · exact ((setEntry_fgCtr ..).fgCount ..).trans h2
    · refine .trans ?_ h2
      exact updHalf_fgCount _ _ _ _ _ fun _ => rfl

theorem report_fgCount {r : FaultRec} (h : severity r.key.cls ≠ 2) (s : State) :
    (report r s).fgCount r.key.half 0 = (s.fgCount r.key.half 0 + 1) % 2 ^ 64 := by
  rw [report_of_severity_ne h]; exact gather_fgCount ..

theorem report_mem (r : FaultRec) (s : State) : (report r s).mem = s.mem := (report_keeps r s).mem rfl

@[simp] theorem report_chan (r : FaultRec) (s : State) (c : Nat) : (report r s).chan c = s.chan c := chan_of_mem (report_mem r s) c

/-! ### A fall of capacity (R273) -/

theorem lowerCapacity_onlyDamper (g cap : Nat) (s : State) : OnlyDamper g s (lowerCapacity g cap s) := by
  by_cases h : damperExists g = true ∧ cap < (s.damper g).capacity
  · rw [lowerCapacity_of_falls h.1 h.2]
    exact (capacityFell_onlyDamper ..).trans (reshed_onlyDamper ..)
  · rw [lowerCapacity_of_stays h]; exact .of_mem rfl

theorem OnlyDamper.chan {g : Nat} {s t : State} (h : OnlyDamper g s t) (c : Nat) : t.chan c = s.chan c := by
  unfold State.chan; rw [h.mem]

theorem lowerCapacity_zero_capacity {g : Nat} (hg : damperExists g = true) (s : State) :
    ((lowerCapacity g 0 s).damper g).capacity = 0 := by
  by_cases h : 0 < (s.damper g).capacity
  · rw [lowerCapacity_of_falls hg h, reshed_damper, capacityFell_damper]
  · rw [lowerCapacity_of_stays fun hf => h hf.2]; exact Nat.eq_zero_of_not_pos h

/-- A capacity of 0 stays 0, whichever damper's falls. -/
theorem lowerCapacity_keeps_zero {g : Nat} (k : Nat) {s : State} (h : (s.damper g).capacity = 0) :
    ((lowerCapacity k 0 s).damper g).capacity = 0 := by
  by_cases hk : g = k
  · subst hk
    rwa [lowerCapacity_of_stays fun hf => absurd hf.2 (by omega)]
  · rwa [(lowerCapacity_onlyDamper k 0 s).other g hk]

/-! ### A fold that leaves the state -/

theorem forEach_of_fixed {α : Type} {f : α → State → State} {l : List α} {s : State} (h : ∀ a ∈ l, f a s = s) :
    forEach l f s = s := by
  induction l with
  | nil => rfl
  | cons a l ih =>
    have htail := ih fun b hb => h b (List.mem_cons_of_mem a hb)
    rw [forEach, List.foldl_cons, h a List.mem_cons_self]
    exact htail

/-! ### Lost channels (R219) -/

/-- The record of a loss: the channel, and its set. -/
def lossRecord (c : Nat) (s : State) : FaultRec :=
  { faultOf (halfOfChan c) ukChannel c .dramChannelLost with d0 := w64 ((s.setOfChan c).getD 31) }

/-- A channel is LOST and its set's requests have faulted; nothing is reported yet. -/
def lostQueues (c : Nat) (s : State) : State :=
  forEach (s.setMates c) loseQueue (updChan c (fun x => { x with st := .lost }) s)

theorem lostQueues_keeps (c : Nat) (s : State) : Keeps 0x400 s (lostQueues c s) :=
  (updChan_keeps ..).trans (forEach_keeps _ _ _ loseQueue_keeps)

theorem loseChannel_of_lost {c : Nat} {s : State} (h : (s.chan c).st = .lost) : loseChannel c s = s := if_pos h

theorem loseChannel_of_up {c : Nat} {s : State} (h : (s.chan c).st ≠ .lost) :
    loseChannel c s = forEach (s.setMates c) (fun d => lowerCapacity (damperOfChan d) 0)
      (report (lossRecord c s) (lostQueues c s)) := by
  have hlost : (lostQueues c s).img = s.img := (lostQueues_keeps c s).img rfl
  have himg : (report (lossRecord c s) (lostQueues c s)).img = s.img := ((report_keeps ..).img rfl).trans hlost
  have hrecord : lossRecord c (lostQueues c s) = lossRecord c s := by unfold lossRecord; rw [setOfChan_of_img hlost]
  have hraw : loseChannel c s = forEach ((report (lossRecord c (lostQueues c s)) (lostQueues c s)).setMates c)
      (fun d => lowerCapacity (damperOfChan d) 0) (report (lossRecord c (lostQueues c s)) (lostQueues c s)) := if_neg h
  rw [hraw, hrecord, setMates_of_img himg]

/-- After a loss the channels stand as their queues faulted: the report and the dampers' fall leave them. -/
theorem loseChannel_chan {c : Nat} {s : State} (h : (s.chan c).st ≠ .lost) (d : Nat) :
    (loseChannel c s).chan d = (lostQueues c s).chan d := by
  rw [loseChannel_of_up h]
  exact forEach_invariant (P := fun t => t.chan d = (lostQueues c s).chan d)
    (fun a t ht => ((lowerCapacity_onlyDamper (damperOfChan a) 0 t).chan d).trans ht) _ _ (report_chan ..)

/-- A channel whose requests have all faulted. -/
structure Channel.Emptied (x : Channel) : Prop where
  queue     : x.queue = []
  stretched : x.stretched = []
  done      : x.done = []

theorem loseQueue_emptied (c : Nat) (s : State) : ((loseQueue c s).chan c).Emptied := by
  unfold loseQueue
  rw [updChan_self]
  exact ⟨rfl, rfl, rfl⟩

theorem loseQueue_ne {c d : Nat} (h : d ≠ c) (s : State) : (loseQueue c s).chan d = s.chan d := updChan_ne _ _ _ h

/-- What holds of a channel, and of the same channel with its requests faulted, a fold of `loseQueue` keeps. -/
theorem forEach_loseQueue_invariant {d : Nat} {P : Channel → Prop}
    (hP : ∀ s : State, P (s.chan d) → P ((loseQueue d s).chan d)) (l : List Nat) (s : State) (h : P (s.chan d)) :
    P ((forEach l loseQueue s).chan d) := by
  refine forEach_invariant (P := fun t => P (t.chan d)) (fun a t ht => ?_) l s h
  by_cases ha : d = a
  · subst ha; exact hP t ht
  · rwa [loseQueue_ne ha]

theorem lostQueues_st (c : Nat) (s : State) : ((lostQueues c s).chan c).st = .lost := by
  refine forEach_loseQueue_invariant (P := fun x => x.st = .lost) (fun t ht => ?_) _ _ (by rw [updChan_self])
  unfold loseQueue
  rwa [updChan_self]

theorem lostQueues_emptied {c d : Nat} {s : State} (hd : d ∈ s.setMates c) : ((lostQueues c s).chan d).Emptied := by
  refine forEach_establishes (P := fun t => (t.chan d).Emptied) (fun a t ht => ?_) (loseQueue_emptied d) hd _
  by_cases ha : d = a
  · subst ha; exact loseQueue_emptied d t
  · rwa [loseQueue_ne ha]

/-- A request that waited has its fault among the replies, or waits still in a channel that the loss does not concern. -/
theorem lostQueues_answers {c d : Nat} {s : State} {q : Queued} (hq : q ∈ (s.chan d).queue) :
    lostAnswer q.req q.no ∈ ((lostQueues c s).chan d).replies ∨ q ∈ ((lostQueues c s).chan d).queue := by
  refine forEach_loseQueue_invariant (P := fun x => lostAnswer q.req q.no ∈ x.replies ∨ q ∈ x.queue) (fun t ht => ?_) _ _ (.inr ?_)
  · left
    unfold loseQueue
    rw [updChan_self]
    obtain hr | hw := ht
    · exact List.mem_append_left _ (List.mem_append_left _ (List.mem_append_left _ hr))
    · exact List.mem_append_left _ (List.mem_append_right _ (List.mem_map_of_mem hw))
  · by_cases hd : d = c
    · rw [hd, updChan_self]; exact hd ▸ hq
    · rwa [updChan_ne _ _ _ hd]

theorem loseChannel_capacity {c d : Nat} {s : State} (h : (s.chan c).st ≠ .lost) (hd : d ∈ s.setMates c)
    (hg : damperExists (damperOfChan d) = true) : ((loseChannel c s).damper (damperOfChan d)).capacity = 0 := by
  rw [loseChannel_of_up h]
  exact forEach_establishes (P := fun t => (t.damper (damperOfChan d)).capacity = 0)
    (fun a _ ht => lowerCapacity_keeps_zero (damperOfChan a) ht) (fun t => lowerCapacity_zero_capacity hg t) hd _

theorem loseQueue_damper (c : Nat) (s : State) (g : Nat) : (loseQueue c s).damper g = s.damper g := rfl

theorem lostQueues_damper (c : Nat) (s : State) (g : Nat) : (lostQueues c s).damper g = s.damper g :=
  forEach_invariant (P := fun t => t.damper g = s.damper g) (fun a t ht => (loseQueue_damper a t g).trans ht) _ _ rfl

/-- Where the set's dampers have no capacity left, a loss is the only report. -/
theorem loseChannel_fgCount {c : Nat} {s : State} (h : (s.chan c).st ≠ .lost)
    (hcap : ∀ d ∈ s.setMates c, (s.damper (damperOfChan d)).capacity = 0) :
    (loseChannel c s).fgCount (halfOfChan c) 0 = (s.fgCount (halfOfChan c) 0 + 1) % 2 ^ 64 := by
  have hstays : ∀ d ∈ s.setMates c, lowerCapacity (damperOfChan d) 0 (report (lossRecord c s) (lostQueues c s))
      = report (lossRecord c s) (lostQueues c s) := by
    intro d hd
    refine lowerCapacity_of_stays fun hf => ?_
    rw [damper_of_mem (report_mem ..), lostQueues_damper, hcap d hd] at hf
    exact absurd hf.2 (by decide)
  have hhalves : HalvesKept HalfUnit.fgCtr s (lostQueues c s) := .of_keeps (lostQueues_keeps c s)
  rw [loseChannel_of_up h, forEach_of_fixed hstays, ← hhalves.fgCount]
  exact report_fgCount (r := lossRecord c s) (show severity .dramChannelLost ≠ 2 by decide) _

end Sys2Proof.Machine
end

section
/-! A memory controller takes requests in, answers them and serves one (R204 to R208, R211, R219, R221). -/
namespace Sys2Proof.Machine

/-! ### Requests that enter a queue (R206) -/

/-- A channel without the requests that wait for service or for an entry. -/
def Channel.beyondQueue (x : Channel) : Channel := { x with queue := [], stretched := [], arrived := 0 }

theorem enterQueue_beyondQueue (hp : Nat) (x : Channel) (r : DramReq) : (enterQueue hp x r).beyondQueue = x.beyondQueue := by
  unfold enterQueue
  generalize (if r.write then 32 else 64) = entries
  split
  · rfl
  · split <;> rfl

theorem foldl_enterQueue_beyondQueue (hp : Nat) (l : List DramReq) (x : Channel) :
    (l.foldl (enterQueue hp) x).beyondQueue = x.beyondQueue := by
  induction l generalizing x with
  | nil => rfl
  | cons r l ih => exact (ih _).trans (enterQueue_beyondQueue ..)

theorem Channel.reenter_beyondQueue (hp : Nat) (x : Channel) : (x.reenter hp).beyondQueue = x.beyondQueue :=
  foldl_enterQueue_beyondQueue ..

/-! ### The request that goes next (R204, R206 to R208) -/

/-- A request may go where it waits, is of the kind served, and comes after none that waits. -/
theorem Channel.mem_ready_iff {x : Channel} {write : Bool} {q : Queued} :
    q ∈ x.ready write ↔ q ∈ x.queue ∧ q.req.write = write ∧ ∀ p ∈ x.queue, q.after p = false := by
  rw [ready, kind, List.mem_filter, List.mem_filter]
  simp [and_assoc]

theorem mem_of_pickRequest {rowHitFirst : Bool} {hp : Nat} {x : Channel} {l : List Queued} {q : Queued}
    (h : pickRequest rowHitFirst hp x l = some q) : q ∈ l := by
  unfold pickRequest at h
  split at h
  · split at h
    · next hold => cases h; exact List.mem_of_find?_eq_some hold
    · split at h
      · next hhit => cases h; exact List.mem_of_find?_eq_some hhit
      · exact List.mem_of_head? h
  · obtain ⟨b, -, hb⟩ := List.exists_of_findSome?_eq_some h
    exact List.mem_of_find?_eq_some hb

/-- The request that the scheduler of a channel serves next. -/
def State.nextRequest (s : State) (c : Nat) : Option Queued :=
  pickRequest (s.half (halfOfChan c)).rowHitFirst s.hp (s.chan c) ((s.chan c).ready ((s.chan c).drains s.hp))

/-! ### Answers (R204) -/

/-- The answers that have left a channel with this row, and those that wait for an earlier one of their source. -/
def Channel.answers (x : Channel) : List Served := x.replies ++ x.done

theorem mem_insertServed {d a : Served} {l : List Served} : a ∈ insertServed d l ↔ a = d ∨ a ∈ l := by
  induction l with
  | nil => simp [insertServed]
  | cons e l ih =>
    unfold insertServed
    split
    · simp
    · simp [ih, or_left_comm]

theorem mem_answers_sendReplies {x : Channel} {a : Served} (h : a ∈ x.answers) : a ∈ (sendReplies x).answers := by
  obtain hr | hd := List.mem_append.1 h
  · exact List.mem_append_left _ (List.mem_append_left _ hr)
  · by_cases ho : x.inOrder a = true
    · exact List.mem_append_left _ (List.mem_append_right _ (List.mem_filter.2 ⟨hd, ho⟩))
    · exact List.mem_append_right _ (List.mem_filter.2 ⟨hd, by simpa using ho⟩)

/-! ### What an ECC error leaves (R211, R219) -/

/-- An error has moved only the counters of errors, and no answer is lost. -/
structure Channel.ErrorNoted (x y : Channel) : Prop where
  ctr     : ∀ w, w ≠ 6 → w ≠ 7 → Tab.get 0 y.ctr w = Tab.get 0 x.ctr w
  answers : ∀ a ∈ x.answers, a ∈ y.answers

/-- Each channel has at most noted an error. -/
structure ErrorsNoted (s t : State) : Prop where
  chan : ∀ c, (s.chan c).ErrorNoted (t.chan c)

theorem Channel.ErrorNoted.of_eq {x y : Channel} (hctr : y.ctr = x.ctr) (hreplies : y.replies = x.replies) (hdone : y.done = x.done) :
    x.ErrorNoted y := ⟨fun _ _ _ => by rw [hctr], fun a ha => by rw [Channel.answers, hreplies, hdone]; exact ha⟩

section
variable {s t u : State}

theorem ErrorsNoted.of_chan (h : ∀ c, t.chan c = s.chan c) : ErrorsNoted s t :=
  ⟨fun c => .of_eq (by rw [h]) (by rw [h]) (by rw [h])⟩

theorem ErrorsNoted.refl (s : State) : ErrorsNoted s s := .of_chan fun _ => rfl

theorem ErrorsNoted.trans (h : ErrorsNoted s t) (k : ErrorsNoted t u) : ErrorsNoted s u :=
  ⟨fun c => ⟨fun w h6 h7 => ((k.chan c).ctr w h6 h7).trans ((h.chan c).ctr w h6 h7),
    fun a ha => (k.chan c).answers a ((h.chan c).answers a ha)⟩⟩

theorem ErrorsNoted.ite {p : Prop} [Decidable p] (h : ErrorsNoted s t) (k : ErrorsNoted s u) :
    ErrorsNoted s (if p then t else u) := by split <;> assumption

theorem ErrorsNoted.updChan (c : Nat) (f : Channel → Channel) (s : State) (hf : (s.chan c).ErrorNoted (f (s.chan c))) :
    ErrorsNoted s (updChan c f s) := by
  refine ⟨fun k => ?_⟩
  by_cases hk : k = c
  · subst hk; rwa [updChan_self]
  · rw [updChan_ne _ _ _ hk]; exact .of_eq rfl rfl rfl

end

theorem bumpChan_errorsNoted (c : Nat) {w : Nat} (k : Nat) (s : State) (hw : w = 6 ∨ w = 7) : ErrorsNoted s (bumpChan c w k s) :=
  .updChan c _ s ⟨fun v h6 h7 => get_bump_ne _ _ (by omega), fun _ => id⟩

theorem loseQueue_errorsNoted (c : Nat) (s : State) : ErrorsNoted s (loseQueue c s) :=
  .updChan c _ s ⟨fun _ _ _ => rfl, fun _ ha =>
    List.mem_append_left _ (List.mem_append_left _ (List.mem_append_left _ ha))⟩

theorem loseChannel_errorsNoted (c : Nat) (s : State) : ErrorsNoted s (loseChannel c s) := by
  by_cases h : (s.chan c).st = .lost
  · rw [loseChannel_of_lost h]; exact .refl s
  · have hqueues : ErrorsNoted s (lostQueues c s) :=
      forEach_invariant (P := ErrorsNoted s) (fun a t ht => ht.trans (loseQueue_errorsNoted a t)) _ _
        (.updChan c _ s (.of_eq rfl rfl rfl))
    exact hqueues.trans (.of_chan (loseChannel_chan h))

theorem dramUncorrectable_errorsNoted (c : Nat) (s : State) : ErrorsNoted s (dramUncorrectable c s) := by
  unfold dramUncorrectable
  extract_lets s1 recent s2 s3
  have h2 : ErrorsNoted s s2 := (bumpChan_errorsNoted c 1 s (.inr rfl)).trans (.updChan c _ s1 (.of_eq rfl rfl rfl))
  have h3 : ErrorsNoted s s3 := h2.trans (.of_chan (report_chan _ s2))
  exact .ite (h3.trans (loseChannel_errorsNoted ..)) h3

theorem readEcc_errorsNoted (c : Nat) (e : Ecc) (s : State) : ErrorsNoted s (readEcc c e s) :=
  match e with
  | .clean => .refl s
  | .corrected => bumpChan_errorsNoted c 1 s (.inl rfl)
  | .uncorrectable => dramUncorrectable_errorsNoted c s

theorem readEcc_xlatKept (c : Nat) (e : Ecc) (s : State) : XlatKept s (readEcc c e s) :=
  match e with
  | .clean => .refl s
  | .corrected => updChan_xlatKept ..
  | .uncorrectable => dramUncorrectable_xlatKept c s

/-- Only an uncorrectable error can lose a channel and its queue. -/
theorem readEcc_queue {e : Ecc} (h : e ≠ .uncorrectable) (c : Nat) (s : State) :
    ((readEcc c e s).chan c).queue = (s.chan c).queue := by
  cases e with
  | clean => rfl
  | corrected => exact (congrArg Channel.queue (bumpChan_chan c 6 1 s) : _)
  | uncorrectable => exact absurd rfl h

/-! ### A request that writes (R205) -/

/-- The bytes that a request leaves in its block. -/
def mergedBlock (c : Nat) (r : DramReq) (m : Store) : List Byte :=
  mergeBytes r.enables (m.readN (dramKey c (64 * r.block.toNat)) 64) r.data

theorem mergedBlock_length (c : Nat) (r : DramReq) (m : Store) : (mergedBlock c r m).length = 64 := by
  simp [mergedBlock, mergeBytes]

/-- A request that writes changes its block and check bytes alone. -/
theorem putRequest_eq (c : Nat) (r : DramReq) (s : State) : ∃ k, putRequest c r s = { s with mem := { s.mem with
    dram := s.mem.dram.writeN (dramKey c (64 * r.block.toNat)) (mergedBlock c r s.mem.dram), check := k } } :=
  putDram_eq ..

theorem putRequest_chan (c : Nat) (r : DramReq) (s : State) (k : Nat) : (putRequest c r s).chan k = s.chan k := by
  obtain ⟨check, h⟩ := putRequest_eq c r s
  unfold State.chan
  rw [h]

theorem putRequest_shared (c : Nat) (r : DramReq) (s : State) : (putRequest c r s).mem.shared = s.mem.shared := by
  obtain ⟨check, h⟩ := putRequest_eq c r s
  rw [h]

theorem putRequest_dram (c : Nat) (r : DramReq) (s : State) :
    (putRequest c r s).mem.dram = s.mem.dram.writeN (dramKey c (64 * r.block.toNat)) (mergedBlock c r s.mem.dram) := by
  obtain ⟨check, h⟩ := putRequest_eq c r s
  rw [h]

/-- The read that a write of part of a block makes first. -/
def readBefore (c : Nat) (r : DramReq) (e : Ecc) (s : State) : State := if reqFull r then s else readEcc c e s

theorem readBefore_errorsNoted (c : Nat) (r : DramReq) (e : Ecc) (s : State) : ErrorsNoted s (readBefore c r e s) :=
  .ite (.refl s) (readEcc_errorsNoted ..)

theorem readBefore_xlatKept (c : Nat) (r : DramReq) (e : Ecc) (s : State) : XlatKept s (readBefore c r e s) :=
  .ite (.refl s) (readEcc_xlatKept ..)

theorem readBefore_queue {e : Ecc} (h : e ≠ .uncorrectable) (c : Nat) (r : DramReq) (s : State) :
    ((readBefore c r e s).chan c).queue = (s.chan c).queue := by
  unfold readBefore
  split
  · rfl
  · exact readEcc_queue h c s

theorem serveWrite_of_stopped {r : DramReq} {e : Ecc} (hpart : reqFull r = false) (he : e = .uncorrectable) (c : Nat) (s : State) :
    serveWrite c r e s = readBefore c r e (bumpChan c 1 1 s) := by
  unfold serveWrite readBefore
  simp only [hpart, he, if_true, Bool.false_eq_true, if_false]

theorem serveWrite_of_written {r : DramReq} {e : Ecc} (h : reqFull r = true ∨ e ≠ .uncorrectable) (c : Nat) (s : State) :
    serveWrite c r e s = putRequest c r (readBefore c r e (bumpChan c 1 1 s)) := by
  unfold serveWrite readBefore
  dsimp only
  by_cases hfull : reqFull r = true
  · rw [if_pos hfull, if_pos hfull]
  · rw [if_neg hfull, if_neg hfull, if_neg (h.resolve_left hfull)]

/-- A write is stopped by its own read, or its bytes are put in the array. -/
theorem serveWrite_stops_or_writes (r : DramReq) (e : Ecc) :
    (reqFull r = false ∧ e = .uncorrectable) ∨ (reqFull r = true ∨ e ≠ .uncorrectable) := by
  by_cases he : e = .uncorrectable
  · cases hfull : reqFull r
    · exact .inl ⟨rfl, he⟩
    · exact .inr (.inl rfl)
  · exact .inr (.inr he)

theorem serveWrite_chan (c : Nat) (r : DramReq) (e : Ecc) (s : State) (k : Nat) :
    (serveWrite c r e s).chan k = (readBefore c r e (bumpChan c 1 1 s)).chan k := by
  obtain ⟨hpart, he⟩ | h := serveWrite_stops_or_writes r e
  · rw [serveWrite_of_stopped hpart he]
  · rw [serveWrite_of_written h, putRequest_chan]

/-! ### A request served (R205, R211, R221) -/

/-- A channel that has served a request with a counter: the count has moved by one, no answer is lost, and no request has left
unless by an uncorrectable error. -/
structure Channel.Serves (e : Ecc) (w : Nat) (x y : Channel) : Prop where
  count   : Tab.get 0 y.ctr w = (Tab.get 0 x.ctr w + 1) % 2 ^ 64
  answers : ∀ a ∈ x.answers, a ∈ y.answers
  queue   : e ≠ .uncorrectable → y.queue = x.queue

/-- What a controller does besides counting the request may note an error. -/
theorem Channel.Serves.of_errorNoted {e : Ecc} {w : Nat} {x y : Channel} (h6 : w ≠ 6) (h7 : w ≠ 7)
    (h : Channel.ErrorNoted { x with ctr := bump x.ctr w 1 } y) (hqueue : e ≠ .uncorrectable → y.queue = x.queue) : x.Serves e w y :=
  ⟨(h.ctr w h6 h7).trans (get_bump_self ..), h.answers, hqueue⟩

theorem serveWrite_serves (c : Nat) (r : DramReq) (e : Ecc) (s : State) :
    (s.chan c).Serves e 1 ((serveWrite c r e s).chan c) := by
  have hnoted := (readBefore_errorsNoted c r e (bumpChan c 1 1 s)).chan c
  rw [bumpChan_chan] at hnoted
  rw [serveWrite_chan]
  refine .of_errorNoted (by decide) (by decide) hnoted fun he => ?_
  rw [readBefore_queue he, bumpChan_chan]

theorem serveRead_serves (c : Nat) (e : Ecc) (ns : Nat) (s : State) : (s.chan c).Serves e 0 ((serveRead c e ns s).chan c) := by
  have hcounted : ErrorsNoted (bumpChan c 0 1 s) (serveRead c e ns s) :=
    (ErrorsNoted.updChan c _ _ (.of_eq rfl rfl rfl)).trans (readEcc_errorsNoted ..)
  have hnoted := hcounted.chan c
  rw [bumpChan_chan] at hnoted
  refine .of_errorNoted (by decide) (by decide) hnoted fun he => ?_
  unfold serveRead
  rw [readEcc_queue he, updChan_self, bumpChan_chan]

theorem serveRead_xlatKept (c : Nat) (e : Ecc) (ns : Nat) (s : State) : XlatKept s (serveRead c e ns s) :=
  ((updChan_xlatKept ..).trans (updChan_xlatKept ..)).trans (readEcc_xlatKept ..)

theorem serveWrite_dram_of_stopped {r : DramReq} {e : Ecc} (hpart : reqFull r = false) (he : e = .uncorrectable) (c : Nat) (s : State) :
    (serveWrite c r e s).mem.dram = s.mem.dram := by
  rw [serveWrite_of_stopped hpart he]; exact (readBefore_xlatKept ..).dram

theorem serveWrite_dram_of_written {r : DramReq} {e : Ecc} (h : reqFull r = true ∨ e ≠ .uncorrectable) (c : Nat) (s : State) :
    (serveWrite c r e s).mem.dram = s.mem.dram.writeN (dramKey c (64 * r.block.toNat)) (mergedBlock c r s.mem.dram) := by
  have hdram : (readBefore c r e (bumpChan c 1 1 s)).mem.dram = s.mem.dram := (readBefore_xlatKept ..).dram
  rw [serveWrite_of_written h, putRequest_dram, hdram]

theorem serveWrite_shared (c : Nat) (r : DramReq) (e : Ecc) (s : State) : (serveWrite c r e s).mem.shared = s.mem.shared := by
  have hshared : (readBefore c r e (bumpChan c 1 1 s)).mem.shared = s.mem.shared := (readBefore_xlatKept ..).shared
  obtain ⟨hpart, he⟩ | h := serveWrite_stops_or_writes r e
  · rw [serveWrite_of_stopped hpart he, hshared]
  · rw [serveWrite_of_written h, putRequest_shared, hshared]

/-! ### A request that leaves its queue (R206) -/

/-- A channel whose request has left the queue to be served; stretched handshakes have tried for the entry. -/
def Channel.without (hp : Nat) (q : Queued) (drain : Bool) (x : Channel) : Channel :=
  Channel.reenter hp { x with draining := drain, queue := x.queue.erase q }

/-- A request leaves its channel's queue, and the time is noted where none waits now (R214). -/
def leaveQueue (c : Nat) (q : Queued) (drain : Bool) (s : State) : State :=
  let s := updChan c (Channel.without s.hp q drain) s
  if (s.chan c).queue.isEmpty then updChan c (fun x => { x with emptyAt := s.hp }) s else s

theorem leaveQueue_chan (c : Nat) (q : Queued) (drain : Bool) (s : State) :
    ∃ since, (leaveQueue c q drain s).chan c = { (s.chan c).without s.hp q drain with emptyAt := since } := by
  unfold leaveQueue
  dsimp only
  split
  · exact ⟨s.hp, by rw [updChan_self, updChan_self]; rfl⟩
  · exact ⟨_, updChan_self ..⟩

theorem leaveQueue_xlatKept (c : Nat) (q : Queued) (drain : Bool) (s : State) : XlatKept s (leaveQueue c q drain s) :=
  .ite ((updChan_xlatKept ..).trans (updChan_xlatKept ..)) (updChan_xlatKept ..)

theorem Channel.without_beyondQueue (hp : Nat) (q : Queued) (drain : Bool) (x : Channel) :
    (x.without hp q drain).beyondQueue = Channel.beyondQueue { x with draining := drain } := reenter_beyondQueue ..

theorem Channel.without_ctr (hp : Nat) (q : Queued) (drain : Bool) (x : Channel) : (x.without hp q drain).ctr = x.ctr :=
  (congrArg Channel.ctr (x.without_beyondQueue hp q drain) : _)

theorem leaveQueue_ctr (c : Nat) (q : Queued) (drain : Bool) (s : State) : ((leaveQueue c q drain s).chan c).ctr = (s.chan c).ctr := by
  obtain ⟨since, h⟩ := leaveQueue_chan c q drain s
  rw [h]; exact Channel.without_ctr ..

theorem leaveQueue_queue (c : Nat) (q : Queued) (drain : Bool) (s : State) :
    ((leaveQueue c q drain s).chan c).queue = ((s.chan c).without s.hp q drain).queue := by
  obtain ⟨since, h⟩ := leaveQueue_chan c q drain s
  rw [h]

theorem serveOne_of_none {c : Nat} {s : State} (h : s.nextRequest c = none) (e : Ecc) (ns : Nat) :
    serveOne c e ns s = updChan c (fun x => { x with draining := (s.chan c).drains s.hp }) s := by
  unfold State.nextRequest at h
  simp only [serveOne, h]

theorem serveOne_of_some {c : Nat} {s : State} {q : Queued} (h : s.nextRequest c = some q) (e : Ecc) (ns : Nat) :
    serveOne c e ns s = serveRequest c q e ns (leaveQueue c q ((s.chan c).drains s.hp) s) := by
  unfold State.nextRequest at h
  simp only [serveOne, h]
  rfl

/-! ### A request answered (R204, R207, R209) -/

/-- What a request gets back from a state. -/
def State.servedAs (s : State) (c : Nat) (q : Queued) (e : Ecc) : Served :=
  ⟨q.req.source, q.req.write, q.no, s.answerOf c q.req e⟩

theorem servedAs_of_dram {s t : State} (h : t.mem.dram = s.mem.dram) (c : Nat) (q : Queued) (e : Ecc) :
    t.servedAs c q e = s.servedAs c q e := by
  unfold State.servedAs State.answerOf; rw [h]

/-- A channel with the answer of a request it serves, sent or kept back for an earlier one. -/
def Channel.answering (d : Served) (bank : Nat) (x : Channel) : Channel :=
  sendReplies { x with done := insertServed d x.done, lastBank := bank }

theorem Channel.mem_answers_answering (d : Served) (bank : Nat) (x : Channel) : d ∈ (x.answering d bank).answers :=
  mem_answers_sendReplies (List.mem_append_right _ (mem_insertServed.2 (.inl rfl)))

/-- A row access of a request's block, and its answer. -/
def answerRequest (c : Nat) (q : Queued) (e : Ecc) (s : State) : State :=
  updChan c (Channel.answering (s.servedAs c q e) (reqBankRow q.req).1) (touchBlock c q.req.block.toNat s)

theorem answerRequest_xlatKept (c : Nat) (q : Queued) (e : Ecc) (s : State) : XlatKept s (answerRequest c q e s) :=
  (touchBlock_xlatKept ..).trans (updChan_xlatKept ..)

theorem answerRequest_chan (c : Nat) (q : Queued) (e : Ecc) (s : State) : (answerRequest c q e s).chan c =
    Channel.answering (s.servedAs c q e) (reqBankRow q.req).1 ((s.chan c).touched q.req.block.toNat) := by
  unfold answerRequest
  rw [updChan_self, touchBlock_chan]

theorem answerRequest_ctr {w : Nat} (h2 : w ≠ 2) (h3 : w ≠ 3) (c : Nat) (q : Queued) (e : Ecc) (s : State) :
    Tab.get 0 ((answerRequest c q e s).chan c).ctr w = Tab.get 0 (s.chan c).ctr w := by
  rw [answerRequest_chan]; exact Channel.touched_ctr h2 h3 ..

theorem answerRequest_queue (c : Nat) (q : Queued) (e : Ecc) (s : State) :
    ((answerRequest c q e s).chan c).queue = (s.chan c).queue := by
  rw [answerRequest_chan]; exact Channel.touched_queue ..

theorem serveRequest_of_write {q : Queued} (h : q.req.write = true) (c : Nat) (e : Ecc) (ns : Nat) (s : State) :
    serveRequest c q e ns s = serveWrite c q.req e (answerRequest c q e s) := if_pos h

theorem serveRequest_of_read {q : Queued} (h : q.req.write = false) (c : Nat) (e : Ecc) (ns : Nat) (s : State) :
    serveRequest c q e ns s = serveRead c e ns (answerRequest c q e s) := if_neg (by rw [h]; exact Bool.false_ne_true)

/-- The counter of a request's kind (R221). -/
def Queued.counter (q : Queued) : Nat := if q.req.write then 1 else 0

/-- A request served counts as its kind and keeps the answer that it was given. -/
theorem serveRequest_serves (c : Nat) (q : Queued) (e : Ecc) (ns : Nat) (s : State) :
    ((answerRequest c q e s).chan c).Serves e q.counter ((serveRequest c q e ns s).chan c) := by
  unfold Queued.counter
  cases h : q.req.write with
  | false => rw [serveRequest_of_read h]; exact serveRead_serves ..
  | true => rw [serveRequest_of_write h]; exact serveWrite_serves ..

theorem serveRequest_shared (c : Nat) (q : Queued) (e : Ecc) (ns : Nat) (s : State) :
    (serveRequest c q e ns s).mem.shared = s.mem.shared := by
  refine .trans ?_ (answerRequest_xlatKept c q e s).shared
  cases h : q.req.write with
  | false => rw [serveRequest_of_read h]; exact (serveRead_xlatKept ..).shared
  | true => rw [serveRequest_of_write h]; exact serveWrite_shared ..

/-! ### One request of a channel served -/

section
variable {c : Nat} {s : State} {q : Queued}

theorem answered_dram (c : Nat) (q : Queued) (drain : Bool) (e : Ecc) (s : State) :
    (answerRequest c q e (leaveQueue c q drain s)).mem.dram = s.mem.dram :=
  (answerRequest_xlatKept ..).dram.trans (leaveQueue_xlatKept ..).dram

theorem serveOne_shared (c : Nat) (e : Ecc) (ns : Nat) (s : State) : (serveOne c e ns s).mem.shared = s.mem.shared := by
  cases h : s.nextRequest c with
  | none => rw [serveOne_of_none h]; rfl
  | some q => rw [serveOne_of_some h, serveRequest_shared]; exact (leaveQueue_xlatKept ..).shared

section
variable (h : s.nextRequest c = some q) (e : Ecc) (ns : Nat)
include h

theorem nextRequest_mem : q ∈ (s.chan c).queue ∧ ∀ p ∈ (s.chan c).queue, q.after p = false := by
  obtain ⟨hq, -, horder⟩ := Channel.mem_ready_iff.1 (mem_of_pickRequest h)
  exact ⟨hq, horder⟩

theorem serveOne_count :
    Tab.get 0 ((serveOne c e ns s).chan c).ctr q.counter = (Tab.get 0 (s.chan c).ctr q.counter + 1) % 2 ^ 64 := by
  have hlow : q.counter < 2 := by unfold Queued.counter; split <;> decide
  rw [serveOne_of_some h, (serveRequest_serves ..).count, answerRequest_ctr (by omega) (by omega), leaveQueue_ctr]

theorem serveOne_answers : s.servedAs c q e ∈ ((serveOne c e ns s).chan c).answers := by
  rw [serveOne_of_some h, ← servedAs_of_dram (leaveQueue_xlatKept c q ((s.chan c).drains s.hp) s).dram]
  refine (serveRequest_serves ..).answers _ ?_
  rw [answerRequest_chan]
  exact Channel.mem_answers_answering ..

theorem serveOne_queue (he : e ≠ .uncorrectable) :
    ((serveOne c e ns s).chan c).queue = ((s.chan c).without s.hp q ((s.chan c).drains s.hp)).queue := by
  rw [serveOne_of_some h, (serveRequest_serves ..).queue he, answerRequest_queue, leaveQueue_queue]

theorem serveOne_dram_of_read (hread : q.req.write = false) : (serveOne c e ns s).mem.dram = s.mem.dram := by
  rw [serveOne_of_some h, serveRequest_of_read hread, (serveRead_xlatKept ..).dram, answered_dram]

variable (hwrite : q.req.write = true)
include hwrite

theorem serveOne_dram_of_stopped (hpart : reqFull q.req = false) (he : e = .uncorrectable) :
    (serveOne c e ns s).mem.dram = s.mem.dram := by
  rw [serveOne_of_some h, serveRequest_of_write hwrite, serveWrite_dram_of_stopped hpart he, answered_dram]

theorem serveOne_dram_of_written (hgo : reqFull q.req = true ∨ e ≠ .uncorrectable) : (serveOne c e ns s).mem.dram =
    s.mem.dram.writeN (dramKey c (64 * q.req.block.toNat)) (mergedBlock c q.req s.mem.dram) := by
  rw [serveOne_of_some h, serveRequest_of_write hwrite, serveWrite_dram_of_written hgo, answered_dram]

end
end

/-! ### The row DRAM_REQUEST (R204 to R208, R219; log 22) -/

theorem setLost_of_st {s t : State} (himg : t.img = s.img) (hst : ∀ d, (t.chan d).st = (s.chan d).st) (c : Nat) :
    t.setLost c = s.setLost c := by
  unfold State.setLost; simp only [setMates_of_img himg, hst]

/-- The replies of the row before are gone. -/
def clearReplies (c : Nat) (s : State) : State := updChan c (fun x => { x with replies := [] }) s

theorem clearReplies_setLost (c : Nat) (s : State) : (clearReplies c s).setLost c = s.setLost c := by
  refine setLost_of_st (s := s) (t := clearReplies c s) rfl (fun d => ?_) c
  unfold clearReplies
  by_cases hd : d = c
  · rw [hd, updChan_self]
  · rw [updChan_ne _ _ _ hd]

/-- The requests of a row have come to a channel. -/
def takeArrivals (c : Nat) (arrivals : List DramReq) (s : State) : State :=
  updChan c (fun x => arrivals.foldl (enterQueue s.hp) x) (clearReplies c s)

theorem clearReplies_chan (c : Nat) (s : State) : (clearReplies c s).chan c = { s.chan c with replies := [] } := updChan_self ..

theorem takeArrivals_chan (c : Nat) (arrivals : List DramReq) (s : State) : (takeArrivals c arrivals s).chan c =
    arrivals.foldl (enterQueue s.hp) { s.chan c with replies := [] } := by
  unfold takeArrivals
  rw [updChan_self, clearReplies_chan]

section
variable {c : Nat} {s : State} (arrivals : List DramReq) (e : Ecc) (ns : Nat)

theorem dramRequest_of_setLost (h : s.setLost c = true) : dramRequest c arrivals e ns s =
    updChan c (fun x => { x with replies := arrivals.map fun r => lostAnswer r (s.chan c).arrived }) (clearReplies c s) := by
  have hlost : (clearReplies c s).setLost c = true := (clearReplies_setLost c s).trans h
  have hraw : dramRequest c arrivals e ns s = updChan c
    (fun x => { x with replies := arrivals.map fun r => lostAnswer r ((clearReplies c s).chan c).arrived }) (clearReplies c s) :=
    if_pos hlost
  rw [hraw, clearReplies_chan]

variable (h : s.setLost c = false)
include h

theorem dramRequest_of_down (hst : (s.chan c).st = .off ∨ (s.chan c).st = .training) :
    dramRequest c arrivals e ns s = clearReplies c s := by
  have hlost : ¬(clearReplies c s).setLost c = true := by rw [clearReplies_setLost, h]; exact Bool.false_ne_true
  refine (if_neg hlost).trans (if_pos ?_)
  change ((clearReplies c s).chan c).st = .off ∨ ((clearReplies c s).chan c).st = .training
  rwa [clearReplies_chan]

theorem dramRequest_of_up (hoff : (s.chan c).st ≠ .off) (htraining : (s.chan c).st ≠ .training) :
    dramRequest c arrivals e ns s =
      if (s.chan c).st = .active then serveOne c e ns (takeArrivals c arrivals s) else takeArrivals c arrivals s := by
  have hlost : ¬(clearReplies c s).setLost c = true := by rw [clearReplies_setLost, h]; exact Bool.false_ne_true
  have hup : ¬(((clearReplies c s).chan c).st = .off ∨ ((clearReplies c s).chan c).st = .training) := by
    rw [clearReplies_chan]; exact not_or.2 ⟨hoff, htraining⟩
  have hraw : dramRequest c arrivals e ns s = if ((clearReplies c s).chan c).st = .active then
      serveOne c e ns (takeArrivals c arrivals s) else takeArrivals c arrivals s := (if_neg hlost).trans (if_neg hup)
  rw [hraw, clearReplies_chan]

end

theorem dramRequest_shared (c : Nat) (arrivals : List DramReq) (e : Ecc) (ns : Nat) (s : State) :
    (dramRequest c arrivals e ns s).mem.shared = s.mem.shared := by
  unfold dramRequest
  dsimp only
  split
  · rfl
  · split
    · rfl
    · split
      · exact serveOne_shared ..
      · rfl

theorem takeArrivals_half (c : Nat) (arrivals : List DramReq) (s : State) (h : Half) :
    (takeArrivals c arrivals s).half h = s.half h := (updChan_half ..).trans (updChan_half ..)

/-- Settles O35: `dramRequest` by the channel's state, and the request that `serveOne` serves by its kind. -/
theorem channelsServeOneRequest : Obligations.ChannelsServeOneRequest := by
  intro ch arrivals ecc ns s c x y drain serves
  have hunits : OnlyUnits [.dev, .host, .west, .east, .seq, .mem] s (dramRequest c arrivals ecc ns.toNat s) :=
    (dramRequest_keeps ..).units _ rfl
  have hchan : (takeArrivals c arrivals s).chan c = y := takeArrivals_chan c arrivals s
  have hnext : (takeArrivals c arrivals s).nextRequest c = serves := by
    unfold State.nextRequest
    rw [hchan, takeArrivals_half]
    rfl
  have hctr (w : Nat) : Tab.get 0 y.ctr w = Tab.get 0 x.ctr w :=
    congrArg (Tab.get 0 · w) (congrArg Channel.ctr (foldl_enterQueue_beyondQueue s.time.hp arrivals x) : _)
  refine ⟨_, rfl, hunits, dramRequest_shared .., fun hlost => ?_, fun hlost hst => ?_, fun hlost hoff htraining => ?_⟩
  · rw [dramRequest_of_setLost _ _ _ hlost]
    exact ⟨rfl, by rw [updChan_self, clearReplies_chan]; rfl⟩
  · rw [dramRequest_of_down _ _ _ hlost hst]
    exact ⟨clearReplies_chan c s, rfl⟩
  rw [dramRequest_of_up _ _ _ hlost hoff htraining]
  refine ⟨fun hst => ?_, fun hst hnone => ?_, fun q hst hq => ?_⟩
  · rw [if_neg hst]
    exact ⟨hchan, rfl⟩
  · rw [if_pos hst, serveOne_of_none (hnext.trans hnone)]
    exact ⟨by rw [updChan_self, hchan]; rfl, rfl⟩
  · rw [if_pos hst]
    have hsome := hnext.trans hq
    obtain ⟨hmem, horder⟩ := nextRequest_mem hsome
    have hcount := serveOne_count hsome ecc ns.toNat
    have hqueue := serveOne_queue hsome ecc ns.toNat
    rw [hchan] at hmem horder hcount hqueue
    rw [hctr, Queued.counter] at hcount
    refine ⟨hmem, horder, hqueue, serveOne_answers hsome ecc ns.toNat, fun hread => ?_, fun hwrite => ?_⟩
    · rw [hread] at hcount
      exact ⟨serveOne_dram_of_read hsome ecc ns.toNat hread, hcount⟩
    · rw [hwrite] at hcount
      refine ⟨hcount, fun hpart he => serveOne_dram_of_stopped hsome ecc ns.toNat hwrite hpart he, fun hwf hgo => ?_⟩
      have hlen := mergedBlock_length c q.req (takeArrivals c arrivals s).mem.dram
      rw [serveOne_dram_of_written hsome ecc ns.toNat hwrite hgo]
      exact ⟨Store.readN_writeN_self hwf hlen _, fun b hb => Store.read_writeN_out _ _ _ _ hwf (by rwa [hlen])⟩

end Sys2Proof.Machine
end

section
/-! What a channel does for itself: self-refresh, refresh, drift tracking and ZQ calibration, temperature, scrubbing, the loss of its
lock, and changes of frequency (R211 to R219; log 22). -/
namespace Sys2Proof.Machine

/-! ### Work that falls due at an instant (log 3) -/

/-- Time moves to a due instant, and a channel notes the time. -/
def noteDue (c due : Nat) (f : Nat → Channel → Channel) (s : State) : State :=
  updChan c (f (advanceTo due s).hp) (advanceTo due s)

section
variable (c due : Nat) (f : Nat → Channel → Channel) (s : State)

theorem noteDue_hp : (noteDue c due f s).time.hp = max s.time.hp due := advanceTo_hp due s

theorem noteDue_chan : (noteDue c due f s).chan c = f (noteDue c due f s).time.hp (s.chan c) := by
  unfold noteDue
  rw [updChan_self, chan_of_mem ((advanceTo_keeps due s).mem rfl)]
  rfl

theorem noteDue_dram : (noteDue c due f s).mem.dram = s.mem.dram :=
  (congrArg Mem.dram ((advanceTo_keeps due s).mem rfl) : (advanceTo due s).mem.dram = s.mem.dram)

theorem noteDue_keeps : Keeps 0x401 s (noteDue c due f s) := updChan_after_advanceTo_keeps ..

theorem noteDue_half (h : Half) : (noteDue c due f s).half h = s.half h := (noteDue_keeps c due f s).half rfl rfl h

end

theorem chanUp_congr {s t : State} {c : Nat} (h : t.chan c = s.chan c) : t.chanUp c = s.chanUp c := by
  unfold State.chanUp; rw [h]

/-! ### Self-refresh (R214, R215) -/

/-- The idle time has passed, and a channel's rows are precharged for the entry command. -/
def precharge (c : Nat) (s : State) : State :=
  noteDue c ((s.chan c).emptyAt + usHp (s.half (halfOfChan c)).srIdle) (fun _ x => { x with openRows := [] }) s

section
variable {c : Nat} {s : State}

theorem selfRefreshEntry_of_busy (winner : Option DramReq)
    (h : (s.chan c).st ≠ .active ∨ (s.chan c).queue ≠ [] ∨ (s.half (halfOfChan c)).srIdle = 0) :
    selfRefreshEntry c winner s = s := by
  refine if_pos (h.imp_right (Or.imp_left fun hq => ?_))
  simpa using hq

section
variable {winner : Option DramReq} (hst : (s.chan c).st = .active) (hqueue : (s.chan c).queue = [])
  (hidle : (s.half (halfOfChan c)).srIdle ≠ 0)
include hst hqueue hidle

theorem selfRefreshEntry_of_idle :
    selfRefreshEntry c winner s = match winner.filter (s.chan c).holds with
      | some r => bumpChan c 5 1 (updChan c (fun x => enterQueue (precharge c s).hp x r) (precharge c s))
      | none => bumpChan c 4 1 (updChan c (fun x => { x with st := .selfRefresh }) (precharge c s)) := by
  refine if_neg ?_
  simp [hst, hqueue, hidle]

/-- No request wins: the channel sleeps. -/
theorem selfRefreshEntry_of_unopposed (h : winner.filter (s.chan c).holds = none) :
    selfRefreshEntry c winner s = bumpChan c 4 1 (updChan c (fun x => { x with st := .selfRefresh }) (precharge c s)) := by
  rw [selfRefreshEntry_of_idle hst hqueue hidle, h]

/-- A request wins: it waits in the queue of the channel, which stays awake. -/
theorem selfRefreshEntry_of_won {r : DramReq} (h : winner.filter (s.chan c).holds = some r) :
    selfRefreshEntry c winner s =
      bumpChan c 5 1 (updChan c (fun x => enterQueue (precharge c s).hp x r) (precharge c s)) := by
  rw [selfRefreshEntry_of_idle hst hqueue hidle, h]

end
end

theorem enterQueue_ctr (hp : Nat) (x : Channel) (r : DramReq) : (enterQueue hp x r).ctr = x.ctr :=
  (congrArg Channel.ctr (enterQueue_beyondQueue hp x r) : _)

/-- Self-refresh, drift tracking and ZQ calibration. -/
theorem channelsSleepAndTrack : ChannelsSleepAndTrack := by
  intro ch s c x idle
  have hdown (hup : s.chanUp c = false) : ¬s.chanUp c = true := by rw [hup]; exact Bool.false_ne_true
  refine ⟨fun winner hst hqueue hidle => ?_, fun winner hbusy => congrArg Host.Outcome.next (selfRefreshEntry_of_busy winner hbusy),
    fun hst => congrArg Host.Outcome.next (if_neg hst),
    fun hup => ⟨congrArg Host.Outcome.next (if_neg (hdown hup)), congrArg Host.Outcome.next (if_neg (hdown hup))⟩,
    fun hst => ?_, fun hup => ⟨?_, ?_⟩⟩
  · have hunits : OnlyUnits [.time, .mem] s (selfRefreshEntry c winner s) := (selfRefreshEntry_keeps ..).units _ rfl
    have hdram : (precharge c s).mem.dram = s.mem.dram := noteDue_dram ..
    have hhp : (precharge c s).time.hp = max s.time.hp (x.emptyAt + usHp idle) := noteDue_hp ..
    have hchan : (precharge c s).chan c = { x with openRows := [] } := noteDue_chan ..
    refine ⟨selfRefreshEntry c winner s, rfl, hunits, ?_⟩
    cases hwin : winner.filter x.holds with
    | none =>
      rw [selfRefreshEntry_of_unopposed hst hqueue hidle hwin]
      refine ⟨hdram, hhp, ?_⟩
      rw [bumpChan_chan, updChan_self, hchan]
    | some r =>
      rw [selfRefreshEntry_of_won hst hqueue hidle hwin]
      refine ⟨hdram, hhp, ?_⟩
      rw [bumpChan_chan, updChan_self, hchan, enterQueue_ctr]
      rfl
  · exact ⟨updChan c (fun x => { x with st := .active, emptyAt := s.hp }) s, congrArg Host.Outcome.next (if_pos hst),
      (updChan_keeps ..).units _ rfl, rfl, updChan_self ..⟩
  · exact ⟨noteDue c (x.driftAt + usHp 256) (fun now x => { x with driftAt := now }) s, congrArg Host.Outcome.next (if_pos hup),
      (noteDue_keeps ..).units _ rfl, noteDue_dram .., noteDue_hp .., noteDue_chan ..⟩
  · exact ⟨noteDue c (x.zqAt + usHp 32000) (fun now x => { x with zqAt := now }) s, congrArg Host.Outcome.next (if_pos hup),
      (noteDue_keeps ..).units _ rfl, noteDue_dram .., noteDue_hp .., noteDue_chan ..⟩

/-! ### Refresh (R212) -/

/-- A channel whose bank pair has been refreshed. -/
def Channel.refreshed (p now : Nat) (x : Channel) : Channel :=
  { x with openRows := (x.openRows.set (Config.bankPair p 0 % 16) 0).set (Config.bankPair p 1 % 16) 0,
           refreshAt := x.refreshAt.set p now }

/-- A refresh leaves no row of its pair open. -/
theorem Channel.refreshed_openRows (p now : Nat) (x : Channel) :
    Tab.get 0 (x.refreshed p now).openRows (Config.bankPair p 0 % 16) = 0
      ∧ Tab.get 0 (x.refreshed p now).openRows (Config.bankPair p 1 % 16) = 0 := by
  unfold refreshed
  refine ⟨?_, Tab.get_set_self ..⟩
  rw [Tab.get_set, Tab.get_set_self, ite_self]

theorem dramRefresh_of_active {c : Nat} {s : State} (h : (s.chan c).st = .active) (p : Nat) :
    dramRefresh c p s = noteDue c (Tab.get 0 (s.chan c).refreshAt p + refreshEvery (s.chan c).refRate) (Channel.refreshed p) s :=
  if_neg (not_not.2 h)

theorem dramRefresh_of_inactive {c : Nat} {s : State} (h : (s.chan c).st ≠ .active) (p : Nat) : dramRefresh c p s = s := if_pos h

/-! ### Temperature (R212) -/

/-- The temperature has been read, and its refresh rate is in force. -/
def temperatureRead (c rate : Nat) (s : State) : State :=
  noteDue c ((s.chan c).mr4At + usHp 1000) (fun now x => { x with refRate := rate, mr4At := now }) s

theorem mr4Read_of_down {c : Nat} {s : State} (h : s.chanUp c = false) (rate : Nat) : mr4Read c rate s = s :=
  if_pos (by rw [h]; rfl)

theorem mr4Read_of_up {c : Nat} {s : State} (h : s.chanUp c = true) (rate : Nat) :
    mr4Read c rate s = let u := temperatureRead c rate s
      if rate == 3 && (match (u.chan c).tempAt with | none => true | some t => decide (t + usHp 100000 ≤ u.hp)) then
        report (faultOf (halfOfChan c) ukChannel c .dramTemp) (updChan c (fun x => { x with tempAt := some u.hp }) u)
      else u := by
  refine (if_neg (by rw [h]; exact Bool.false_ne_true)).trans ?_
  rfl

/-- A temperature in a lower band is not reported. -/
theorem mr4Read_of_cool {c rate : Nat} {s : State} (h : s.chanUp c = true) (hrate : rate ≠ 3) :
    mr4Read c rate s = temperatureRead c rate s := by
  rw [mr4Read_of_up h]
  exact if_neg (by simp [hrate])

/-- The first temperature above the highest band is reported. -/
theorem mr4Read_of_hot {c : Nat} {s : State} (h : s.chanUp c = true) (hfirst : (s.chan c).tempAt = none) :
    mr4Read c 3 s = report (faultOf (halfOfChan c) ukChannel c .dramTemp)
      (updChan c (fun x => { x with tempAt := some (temperatureRead c 3 s).hp }) (temperatureRead c 3 s)) := by
  have htemp : ((temperatureRead c 3 s).chan c).tempAt = none := by
    unfold temperatureRead; rw [noteDue_chan]; exact hfirst
  rw [mr4Read_of_up h]
  exact if_pos (by rw [htemp]; rfl)

theorem mr4Read_cases {c : Nat} {s : State} (h : s.chanUp c = true) (rate : Nat) :
    mr4Read c rate s = temperatureRead c rate s
      ∨ mr4Read c rate s = report (faultOf (halfOfChan c) ukChannel c .dramTemp)
        (updChan c (fun x => { x with tempAt := some (temperatureRead c rate s).hp }) (temperatureRead c rate s)) := by
  rw [mr4Read_of_up h]
  exact (ite_eq_or_eq ..).symm

theorem temperatureRead_dram (c rate : Nat) (s : State) : (temperatureRead c rate s).mem.dram = s.mem.dram := noteDue_dram ..

theorem temperatureRead_hp (c rate : Nat) (s : State) :
    (temperatureRead c rate s).time.hp = max s.time.hp ((s.chan c).mr4At + usHp 1000) := noteDue_hp ..

theorem mr4Read_dram {c : Nat} {s : State} (h : s.chanUp c = true) (rate : Nat) :
    (mr4Read c rate s).mem.dram = s.mem.dram := by
  obtain hread | hread := mr4Read_cases h rate <;> rw [hread]
  · exact temperatureRead_dram ..
  · rw [report_mem, updChan_mem_dram, temperatureRead_dram]

theorem mr4Read_hp {c : Nat} {s : State} (h : s.chanUp c = true) (rate : Nat) :
    (mr4Read c rate s).time.hp = max s.time.hp ((s.chan c).mr4At + usHp 1000) := by
  obtain hread | hread := mr4Read_cases h rate <;> rw [hread]
  · exact temperatureRead_hp ..
  · rw [(report_keeps ..).time rfl, updChan_time, temperatureRead_hp]

theorem temperatureRead_chan (c rate : Nat) (s : State) : (temperatureRead c rate s).chan c =
    { s.chan c with refRate := rate, mr4At := (temperatureRead c rate s).time.hp } := noteDue_chan ..

theorem temperatureRead_half (c rate : Nat) (s : State) (h : Half) : (temperatureRead c rate s).half h = s.half h := noteDue_half ..

theorem mr4Read_hot_chan {c : Nat} {s : State} (h : s.chanUp c = true) (hfirst : (s.chan c).tempAt = none) :
    (mr4Read c 3 s).chan c = { s.chan c with refRate := 3, mr4At := (mr4Read c 3 s).time.hp,
                                             tempAt := some (mr4Read c 3 s).time.hp } := by
  have htime : (mr4Read c 3 s).time.hp = (temperatureRead c 3 s).time.hp := by
    rw [mr4Read_hp h, temperatureRead_hp]
  rw [htime, mr4Read_of_hot h hfirst, report_chan, updChan_self, temperatureRead_chan, State.hp]

theorem mr4Read_hot_fgCount {c : Nat} {s : State} (h : s.chanUp c = true) (hfirst : (s.chan c).tempAt = none) :
    (mr4Read c 3 s).fgCount (halfOfChan c) 0 = (s.fgCount (halfOfChan c) 0 + 1) % 2 ^ 64 := by
  have hcount : (updChan c (fun x => { x with tempAt := some (temperatureRead c 3 s).hp }) (temperatureRead c 3 s)).fgCount
      (halfOfChan c) 0 = s.fgCount (halfOfChan c) 0 := by
    unfold State.fgCount
    rw [updChan_half, temperatureRead_half]
  rw [mr4Read_of_hot h hfirst, ← hcount]
  exact report_fgCount (r := faultOf (halfOfChan c) ukChannel c .dramTemp) (show severity .dramTemp ≠ 2 by decide) _

/-! ### Scrubbing (R211) -/

/-- A block has been read by the scrubber, which goes to the next one. -/
def scrubRead (c : Nat) (s : State) : State :=
  updChan c (fun x => { x with scrubAt := (x.scrubAt + 1) % max 1 (dataBytes x.density / 64) })
    (bumpChan c 0 1 (touchBlock c (s.chan c).scrubAt s))

theorem patrolScrub_of_active {c : Nat} {s : State} (h : (s.chan c).st = .active) (e : Ecc) :
    patrolScrub c e s = if e = .corrected then bumpChan c 6 1 (bumpChan c 1 1 (scrubRead c s)) else scrubRead c s :=
  if_neg (not_not.2 h)

theorem patrolScrub_of_inactive {c : Nat} {s : State} (h : (s.chan c).st ≠ .active) (e : Ecc) : patrolScrub c e s = s := if_pos h

/-- The scrubber's read counts among the reads of its channel, beside the row access. -/
theorem scrubRead_chan (c : Nat) (s : State) : (scrubRead c s).chan c =
    { (s.chan c).touched (s.chan c).scrubAt with
      ctr := bump ((s.chan c).touched (s.chan c).scrubAt).ctr 0 1
      scrubAt := ((s.chan c).scrubAt + 1) % max 1 (dataBytes (s.chan c).density / 64) } := by
  unfold scrubRead
  rw [updChan_self, bumpChan_chan, touchBlock_chan]
  dsimp only
  rw [Channel.touched_scrubAt, Channel.touched_density]

theorem scrubRead_dram (c : Nat) (s : State) : (scrubRead c s).mem.dram = s.mem.dram := by
  unfold scrubRead
  rw [updChan_mem_dram, bumpChan_dram, (touchBlock_quiet ..).dram]

theorem scrubRead_ctr {w : Nat} (h0 : w ≠ 0) (h2 : w ≠ 2) (h3 : w ≠ 3) (c : Nat) (s : State) :
    Tab.get 0 ((scrubRead c s).chan c).ctr w = Tab.get 0 (s.chan c).ctr w := by
  rw [scrubRead_chan]
  exact (get_bump_ne _ _ h0).trans (Channel.touched_ctr h2 h3 ..)

theorem scrubRead_reads (c : Nat) (s : State) :
    Tab.get 0 ((scrubRead c s).chan c).ctr 0 = (Tab.get 0 (s.chan c).ctr 0 + 1) % 2 ^ 64 := by
  rw [scrubRead_chan]
  dsimp only
  rw [get_bump_self, Channel.touched_ctr (by decide) (by decide)]

/-- A corrected block is written back: one correction and one write more. -/
def writeBack (c : Nat) (s : State) : State := bumpChan c 6 1 (bumpChan c 1 1 s)

theorem writeBack_chan (c : Nat) (s : State) :
    (writeBack c s).chan c = { s.chan c with ctr := bump (bump (s.chan c).ctr 1 1) 6 1 } := by
  unfold writeBack
  rw [bumpChan_chan, bumpChan_chan]

theorem writeBack_ctr {w : Nat} (h1 : w ≠ 1) (h6 : w ≠ 6) (c : Nat) (s : State) :
    Tab.get 0 ((writeBack c s).chan c).ctr w = Tab.get 0 (s.chan c).ctr w := by
  rw [writeBack_chan]
  exact (get_bump_ne _ _ h6).trans (get_bump_ne _ _ h1)

theorem writeBack_corrections (c : Nat) (s : State) :
    Tab.get 0 ((writeBack c s).chan c).ctr 6 = (Tab.get 0 (s.chan c).ctr 6 + 1) % 2 ^ 64 := by
  rw [writeBack_chan, ← get_bump_ne (s.chan c).ctr (v := 6) (w := 1) 1 (by decide)]
  exact get_bump_self ..

theorem writeBack_writes (c : Nat) (s : State) :
    Tab.get 0 ((writeBack c s).chan c).ctr 1 = (Tab.get 0 (s.chan c).ctr 1 + 1) % 2 ^ 64 := by
  rw [writeBack_chan]
  exact (get_bump_ne _ _ (by decide)).trans (get_bump_self ..)

theorem patrolScrub_of_clean {c : Nat} {s : State} (h : (s.chan c).st = .active) {e : Ecc} (he : e ≠ .corrected) :
    patrolScrub c e s = scrubRead c s := (patrolScrub_of_active h e).trans (if_neg he)

theorem patrolScrub_of_corrected {c : Nat} {s : State} (h : (s.chan c).st = .active) :
    patrolScrub c .corrected s = writeBack c (scrubRead c s) := (patrolScrub_of_active h _).trans (if_pos rfl)

/-- What a scrub leaves, whether it has written back or not. -/
structure Scrubbed (c : Nat) (s t : State) : Prop where
  dram     : t.mem.dram = s.mem.dram
  reads    : Tab.get 0 (t.chan c).ctr 0 = (Tab.get 0 (s.chan c).ctr 0 + 1) % 2 ^ 64
  scrubAt  : (t.chan c).scrubAt = ((s.chan c).scrubAt + 1) % max 1 (dataBytes (s.chan c).density / 64)
  badTimes : (t.chan c).badTimes = (s.chan c).badTimes
  bad      : Tab.get 0 (t.chan c).ctr 7 = Tab.get 0 (s.chan c).ctr 7

theorem scrubRead_scrubbed (c : Nat) (s : State) : Scrubbed c s (scrubRead c s) where
  dram := scrubRead_dram c s
  reads := scrubRead_reads c s
  scrubAt := by rw [scrubRead_chan]
  badTimes := by rw [scrubRead_chan]; exact Channel.touched_badTimes ..
  bad := scrubRead_ctr (by decide) (by decide) (by decide) c s

theorem Scrubbed.writeBack {c : Nat} {s t : State} (h : Scrubbed c s t) : Scrubbed c s (writeBack c t) where
  dram := h.dram
  reads := (writeBack_ctr (by decide) (by decide) c t).trans h.reads
  scrubAt := by rw [writeBack_chan]; exact h.scrubAt
  badTimes := by rw [writeBack_chan]; exact h.badTimes
  bad := (writeBack_ctr (by decide) (by decide) c t).trans h.bad

theorem patrolScrub_scrubbed {c : Nat} {s : State} (h : (s.chan c).st = .active) (e : Ecc) : Scrubbed c s (patrolScrub c e s) := by
  by_cases he : e = .corrected
  · rw [he, patrolScrub_of_corrected h]; exact (scrubRead_scrubbed c s).writeBack
  · rw [patrolScrub_of_clean h he]; exact scrubRead_scrubbed c s

theorem patrolScrub_corrects {c : Nat} {s : State} (h : (s.chan c).st = .active) :
    Tab.get 0 ((patrolScrub c .corrected s).chan c).ctr 6 = (Tab.get 0 (s.chan c).ctr 6 + 1) % 2 ^ 64
      ∧ Tab.get 0 ((patrolScrub c .corrected s).chan c).ctr 1 = (Tab.get 0 (s.chan c).ctr 1 + 1) % 2 ^ 64 := by
  rw [patrolScrub_of_corrected h, writeBack_corrections, writeBack_writes]
  rw [scrubRead_ctr (by decide) (by decide) (by decide), scrubRead_ctr (by decide) (by decide) (by decide)]
  exact ⟨rfl, rfl⟩

/-! ### Changes of frequency (R216, R217) -/

theorem serveRequest_others {e : Ecc} (h : e ≠ .uncorrectable) (c : Nat) (q : Queued) (ns : Nat) (s : State) :
    OtherChansKept c s (serveRequest c q e ns s) := by
  have hanswer : OtherChansKept c s (answerRequest c q e s) := (touchBlock_others ..).trans (updChan_others ..)
  have hecc (t : State) : OtherChansKept c t (readEcc c e t) := by
    cases e with
    | clean => exact ⟨fun _ _ => rfl⟩
    | corrected => exact bumpChan_others ..
    | uncorrectable => exact absurd rfl h
  refine hanswer.trans ?_
  cases hkind : q.req.write with
  | false =>
    rw [serveRequest_of_read hkind]
    exact ((bumpChan_others ..).trans (updChan_others ..)).trans (hecc _)
  | true =>
    have hbefore (t : State) : OtherChansKept c t (readBefore c q.req e t) := .ite ⟨fun _ _ => rfl⟩ (hecc t)
    rw [serveRequest_of_write hkind]
    refine ⟨fun k hk => ?_⟩
    rw [serveWrite_chan]
    exact ((bumpChan_others ..).trans (hbefore _)).chan k hk

theorem leaveQueue_others (c : Nat) (q : Queued) (drain : Bool) (s : State) : OtherChansKept c s (leaveQueue c q drain s) :=
  .ite ((updChan_others ..).trans (updChan_others ..)) (updChan_others ..)

theorem serveOne_others {e : Ecc} (h : e ≠ .uncorrectable) (c ns : Nat) (s : State) : OtherChansKept c s (serveOne c e ns s) := by
  cases hnext : s.nextRequest c with
  | none => rw [serveOne_of_none hnext]; exact updChan_others ..
  | some q => rw [serveOne_of_some hnext]; exact (leaveQueue_others ..).trans (serveRequest_others h ..)

theorem drainQueue_others (c n : Nat) (s : State) : OtherChansKept c s (drainQueue c n s) := by
  induction n generalizing s with
  | zero => exact ⟨fun _ _ => rfl⟩
  | succ n ih =>
    unfold drainQueue
    exact .ite ⟨fun _ _ => rfl⟩ ((serveOne_others (by decide) ..).trans (ih _))

/-- One channel's part of a frequency change. -/
def moveChannel (fsp c : Nat) (s : State) : State :=
  if (s.chan c).fsp = fsp ∨ !s.chanUp c then s
  else
    let s := drainQueue c 96 s
    let s := if (s.chan c).st = .selfRefresh then s else bumpChan c 4 1 s
    updChan c (fun x => { x with fsp := fsp, st := .active, openRows := [], emptyAt := s.hp }) s

theorem moveChannel_others (fsp c : Nat) (s : State) : OtherChansKept c s (moveChannel fsp c s) :=
  .ite ⟨fun _ _ => rfl⟩ (((drainQueue_others ..).trans (.ite ⟨fun _ _ => rfl⟩ (bumpChan_others ..))).trans (updChan_others ..))

theorem frequencyChange_eq (h : Half) (fsp : Nat) (s : State) : frequencyChange h fsp s = forEach (chansOf h) (moveChannel fsp) s := rfl

theorem mem_chansOf_iff {h : Half} {k : Nat} : k ∈ chansOf h ↔ k / 16 = h.idx := by
  unfold chansOf
  rw [List.mem_map]
  constructor
  · rintro ⟨i, hi, rfl⟩
    have := List.mem_range.1 hi
    omega
  · intro hk
    exact ⟨k % 16, List.mem_range.2 (Nat.mod_lt _ (by decide)), by omega⟩

theorem chansOf_nodup (h : Half) : (chansOf h).Nodup := by cases h <;> decide

/-- A channel that a fold does not name stands. -/
theorem forEach_chan_of_notMem {f : Nat → State → State} (hf : ∀ c s, OtherChansKept c s (f c s)) {l : List Nat} {k : Nat}
    (hk : k ∉ l) (s : State) : (forEach l f s).chan k = s.chan k := by
  induction l generalizing s with
  | nil => rfl
  | cons a l ih =>
    have hne : k ≠ a := fun h => hk (h ▸ List.mem_cons_self)
    have hl : k ∉ l := fun h => hk (List.mem_cons_of_mem a h)
    exact (ih hl (f a s)).trans ((hf a s).chan k hne)

/-- A channel that a fold names once ends as its own update leaves it, made on a state where it stands as before. -/
theorem forEach_chan_of_mem {f : Nat → State → State} (hf : ∀ c s, OtherChansKept c s (f c s)) {l : List Nat} (hnodup : l.Nodup)
    {k : Nat} (hk : k ∈ l) (s : State) : ∃ t, t.chan k = s.chan k ∧ (forEach l f s).chan k = (f k t).chan k := by
  induction l generalizing s with
  | nil => exact absurd hk List.not_mem_nil
  | cons a l ih =>
    obtain ⟨hal, hl⟩ := List.nodup_cons.1 hnodup
    by_cases ha : k = a
    · subst ha
      exact ⟨s, rfl, forEach_chan_of_notMem hf hal (f k s)⟩
    · obtain ⟨t, ht, hrun⟩ := ih hl ((List.mem_cons.1 hk).resolve_left ha) (f a s)
      exact ⟨t, ht.trans ((hf a s).chan k ha), hrun⟩

theorem moveChannel_of_stays {fsp c : Nat} {s : State} (h : s.chanUp c = false ∨ (s.chan c).fsp = fsp) : moveChannel fsp c s = s :=
  if_pos (h.symm.imp_right fun hup => by rw [hup]; rfl)

theorem moveChannel_of_moves {fsp c : Nat} {s : State} (hup : s.chanUp c = true) (hfsp : (s.chan c).fsp ≠ fsp) :
    ((moveChannel fsp c s).chan c).fsp = fsp ∧ ((moveChannel fsp c s).chan c).st = .active
      ∧ ((moveChannel fsp c s).chan c).openRows = [] := by
  have hgo : ¬((s.chan c).fsp = fsp ∨ (!s.chanUp c) = true) := by simp [hup, hfsp]
  unfold moveChannel
  dsimp only
  rw [if_neg hgo, updChan_self]
  exact ⟨rfl, rfl, rfl⟩

/-- The channels of a half move to the set point, the others stand. -/
theorem frequencyChange_chans (h : Half) (fsp : Nat) (s : State) (k : Nat) :
    let t := frequencyChange h fsp s
    (k / 16 ≠ h.idx → t.chan k = s.chan k)
      ∧ (k / 16 = h.idx → s.chanUp k = false ∨ (s.chan k).fsp = fsp → t.chan k = s.chan k)
      ∧ (k / 16 = h.idx → s.chanUp k = true → (s.chan k).fsp ≠ fsp →
          (t.chan k).fsp = fsp ∧ (t.chan k).st = .active ∧ (t.chan k).openRows = []) := by
  rw [frequencyChange_eq]
  have hown (hk : k / 16 = h.idx) : ∃ u, u.chan k = s.chan k
      ∧ (forEach (chansOf h) (moveChannel fsp) s).chan k = (moveChannel fsp k u).chan k :=
    forEach_chan_of_mem (moveChannel_others fsp) (chansOf_nodup h) (mem_chansOf_iff.2 hk) s
  refine ⟨fun hk => forEach_chan_of_notMem (moveChannel_others fsp) (fun hm => hk (mem_chansOf_iff.1 hm)) s,
    fun hk hstays => ?_, fun hk hup hfsp => ?_⟩
  · obtain ⟨u, hu, hrun⟩ := hown hk
    rw [← hu, ← chanUp_congr hu] at hstays
    rw [hrun, moveChannel_of_stays hstays, hu]
  · obtain ⟨u, hu, hrun⟩ := hown hk
    rw [← chanUp_congr hu] at hup
    rw [← hu] at hfsp
    rw [hrun]
    exact moveChannel_of_moves hup hfsp

/-! ### Loss of lock (R219) -/

theorem loseChannel_answers {c d : Nat} {s : State} (h : (s.chan c).st ≠ .lost) (hd : d ∈ s.setMates c) {q : Queued}
    (hq : q ∈ (s.chan d).queue) : lostAnswer q.req q.no ∈ ((loseChannel c s).chan d).replies := by
  rw [loseChannel_chan h]
  refine (lostQueues_answers hq).resolve_right fun hw => ?_
  rw [(lostQueues_emptied hd).queue] at hw
  exact absurd hw List.not_mem_nil

/-! ### The rows -/

/-- Refresh, temperature, scrubbing, lock loss and frequency changes. -/
theorem channelsRefreshScrubAndFail : ChannelsRefreshScrubAndFail := by
  intro ch s c h x
  refine ⟨fun pair hst => ?_, fun rate hup => ?_, fun ecc hst => ?_, fun hst => ?_, fun hinactive hawake => ?_, fun hst => ?_,
    fun hup rate => congrArg Host.Outcome.next (mr4Read_of_down hup _), fun half hno => ?_, fun half hmay => ?_⟩
  · have hunits : OnlyUnits [.time, .mem] s (dramRefresh c pair.toNat s) := (dramRefresh_keeps ..).units _ rfl
    have hchan : (dramRefresh c pair.toNat s).chan c = x.refreshed pair.toNat (dramRefresh c pair.toNat s).time.hp := by
      rw [dramRefresh_of_active hst]; exact noteDue_chan ..
    have hrows := Channel.refreshed_openRows pair.toNat (dramRefresh c pair.toNat s).time.hp x
    rw [← hchan] at hrows
    refine ⟨dramRefresh c pair.toNat s, rfl, hunits, ?_, ?_, ?_, hrows⟩
    · rw [dramRefresh_of_active hst]; exact noteDue_dram ..
    · rw [dramRefresh_of_active hst]; exact noteDue_hp ..
    · rw [hchan]; rfl
  · have hunits : OnlyUnits [.time, .dev, .host, .west, .east, .mem] s (mr4Read c rate.toNat s) := (mr4Read_keeps ..).units _ rfl
    refine ⟨mr4Read c rate.toNat s, rfl, hunits, mr4Read_dram hup _, mr4Read_hp hup _, fun hrate => ?_, ?_⟩
    · rw [mr4Read_of_cool hup fun hn => hrate (BitVec.eq_of_toNat_eq hn)]
      exact ⟨temperatureRead_chan .., temperatureRead_half ..⟩
    · rintro rfl hfirst
      exact ⟨mr4Read_hot_chan hup hfirst, mr4Read_hot_fgCount hup hfirst⟩
  · obtain ⟨hdram, hreads, hat, htimes, hbad⟩ := patrolScrub_scrubbed hst ecc
    refine ⟨patrolScrub c ecc s, rfl, (patrolScrub_keeps ..).units _ rfl, hdram, hreads, hat, htimes, hbad, ?_⟩
    rintro rfl
    exact patrolScrub_corrects hst
  · have hup : x.st ≠ .lost := by rintro hlost; rw [hlost] at hst; simp at hst
    refine ⟨loseChannel c s, congrArg Host.Outcome.next (if_pos hst), (loseChannel_keeps ..).units _ rfl,
      (loseChannel_xlatKept c s).dram, ?_,
      fun d hd => ?_, fun hcap => loseChannel_fgCount hup hcap⟩
    · rw [loseChannel_chan hup]; exact lostQueues_st c s
    · obtain ⟨hqueue, hstretched, hdone⟩ := lostQueues_emptied hd
      rw [← loseChannel_chan hup d] at hqueue hstretched hdone
      exact ⟨hqueue, hstretched, hdone, fun q hq => loseChannel_answers hup hd hq, fun hg => loseChannel_capacity hup hd hg⟩
  · exact congrArg Host.Outcome.next (if_neg (not_or.2 ⟨hinactive, hawake⟩))
  · exact ⟨fun _ => congrArg Host.Outcome.next (dramRefresh_of_inactive hst _),
      fun _ => congrArg Host.Outcome.next (patrolScrub_of_inactive hst _)⟩
  · exact congrArg Host.Outcome.next (if_neg (by rw [hno]; exact Bool.false_ne_true))
  · exact ⟨frequencyChange half (s.half half).dramFsp s, congrArg Host.Outcome.next (if_pos hmay),
      (frequencyChange_keeps ..).units _ rfl, fun k _ => frequencyChange_chans half (s.half half).dramFsp s k⟩

/-- Settles O36, one theorem for each of its parts. -/
theorem channelsKeepThemselves : Obligations.ChannelsKeepThemselves :=
  ⟨channelsSleepAndTrack, channelsRefreshScrubAndFail⟩

end Sys2Proof.Machine
end

section
/-! The intake's tables: what a change of a key, a port or a decoder leaves, the relations of the intake's obligations, the settings
of a key, and the end of a frame (R222 to R243, R316). -/
namespace Sys2Proof.Machine

theorem intake_of_up {f : State → State} {s : State} (h : s.intakeUp = true) : intake f s = .next (f s) := by simp [intake, h]

/-! ### Keys of a port -/

theorem keyOf_div {n i : Nat} (h : i < 16) : keyOf n i / 16 = n := by unfold keyOf; omega
/-- A selector of the instruction lies within the port's keys. -/
@[simp] theorem keyOf_sel_div (n : Nat) (sel : BitVec 4) : keyOf n sel.toNat / 16 = n := keyOf_div sel.isLt

/-! ### Tables of the intake -/

section
variable {s t : State}

theorem key_of_keys (h : t.intake.keys = s.intake.keys) (k : Nat) : t.key k = s.key k := by unfold State.key; rw [h]
theorem port_of_ports (h : t.intake.ports = s.intake.ports) (n : Nat) : t.port n = s.port n := by unfold State.port; rw [h]
theorem dec_of_decoders (h : t.intake.decoders = s.intake.decoders) (d : Nat) : t.dec d = s.dec d := by unfold State.dec; rw [h]

theorem key_of_intake (h : t.intake = s.intake) (k : Nat) : t.key k = s.key k := key_of_keys (congrArg Intake.keys h) k
theorem port_of_intake (h : t.intake = s.intake) (n : Nat) : t.port n = s.port n := port_of_ports (congrArg Intake.ports h) n
theorem dec_of_intake (h : t.intake = s.intake) (d : Nat) : t.dec d = s.dec d := dec_of_decoders (congrArg Intake.decoders h) d

end

@[simp] theorem updPort_key (n : Nat) (f : Port → Port) (s : State) (k : Nat) : (updPort n f s).key k = s.key k := rfl
@[simp] theorem updDec_key (d : Nat) (f : Decoder → Decoder) (s : State) (k : Nat) : (updDec d f s).key k = s.key k := rfl
@[simp] theorem updKey_port (k : Nat) (f : Key → Key) (s : State) (n : Nat) : (updKey k f s).port n = s.port n := rfl
@[simp] theorem updKey_dec (k : Nat) (f : Key → Key) (s : State) (d : Nat) : (updKey k f s).dec d = s.dec d := rfl
@[simp] theorem updPort_dec (n : Nat) (f : Port → Port) (s : State) (d : Nat) : (updPort n f s).dec d = s.dec d := rfl
@[simp] theorem updKey_half (k : Nat) (f : Key → Key) (s : State) (h : Half) : (updKey k f s).half h = s.half h := by cases h <;> rfl

theorem report_intake (r : FaultRec) (s : State) : (report r s).intake = s.intake := (report_keeps r s).intake rfl
theorem postEvent_intake (code ctx hoop : Nat) (eff detail : Word) (s : State) :
    (postEvent code ctx hoop eff detail s).intake = s.intake := (postEvent_keeps ..).intake rfl

@[simp] theorem report_key (r : FaultRec) (s : State) (k : Nat) : (report r s).key k = s.key k := key_of_intake (report_intake r s) k
@[simp] theorem report_port (r : FaultRec) (s : State) (n : Nat) : (report r s).port n = s.port n :=
  port_of_intake (report_intake r s) n
@[simp] theorem report_dec (r : FaultRec) (s : State) (d : Nat) : (report r s).dec d = s.dec d := dec_of_intake (report_intake r s) d
end Sys2Proof.Machine

namespace Sys2Proof
open Machine

/-! ### One port and its keys -/

section
variable {n : Nat} {s t u : State}

theorem OnlyPort.refl (n : Nat) (s : State) : OnlyPort n s s := ⟨fun _ _ => rfl, fun _ _ => rfl, rfl⟩

theorem OnlyPort.trans (h : OnlyPort n s t) (k : OnlyPort n t u) : OnlyPort n s u :=
  ⟨fun m hm => (k.1 m hm).trans (h.1 m hm), fun j hj => (k.2.1 j hj).trans (h.2.1 j hj), k.2.2.trans h.2.2⟩

theorem OnlyPort.of_intake (n : Nat) (h : t.intake = s.intake) : OnlyPort n s t :=
  ⟨fun m _ => port_of_intake h m, fun k _ => key_of_intake h k, congrArg Intake.decoders h⟩

theorem OnlyPort.updPort (n : Nat) (f : Port → Port) (s : State) : OnlyPort n s (updPort n f s) :=
  ⟨fun _ hm => updPort_ne _ _ _ hm, fun _ _ => rfl, rfl⟩

theorem OnlyPort.updKey {k : Nat} (hk : k / 16 = n) (f : Key → Key) (s : State) : OnlyPort n s (updKey k f s) :=
  ⟨fun _ _ => rfl, fun j hj => updKey_ne _ _ _ (by rintro rfl; exact hj hk), rfl⟩

/-- An operation on one key after another of the port. -/
theorem OnlyPort.forEach_keys {l : List Nat} {f : Nat → State → State} (hl : ∀ i ∈ l, i < 16)
    (hf : ∀ i s, i < 16 → OnlyPort n s (f (keyOf n i) s)) (s : State) : OnlyPort n s (forEach l (fun i => f (keyOf n i)) s) := by
  induction l generalizing s with
  | nil => exact .refl n s
  | cons i l ih => exact (hf i s (hl i (by simp))).trans (ih (fun j hj => hl j (by simp [hj])) _)

end

/-! ### Counters of a port (R255) -/

/-- A counter of a port. -/
def Machine.State.portCount (s : State) (n w : Nat) : Nat := Tab.get 0 (s.port n).ctr w

theorem portCounts_iff {n w : Nat} {s t : State} :
    PortCounts n w s t ↔ t.portCount n w = (s.portCount n w + 1) % 2 ^ 64 := .rfl

theorem portCount_of_ctr {s t : State} {n : Nat} (h : (t.port n).ctr = (s.port n).ctr) (w : Nat) :
    t.portCount n w = s.portCount n w := congrArg (Tab.get 0 · w) h

theorem bumpPort_portCount_self (n w k : Nat) (s : State) :
    (bumpPort n w k s).portCount n w = (s.portCount n w + k) % 2 ^ 64 := by
  rw [State.portCount, bumpPort, updPort_self]; exact get_bump_self ..

theorem bumpPort_portCount_ne (n k : Nat) {v w : Nat} (h : v ≠ w) (s : State) :
    (bumpPort n w k s).portCount n v = s.portCount n v := by
  rw [State.portCount, bumpPort, updPort_self]; exact get_bump_ne _ _ h

/-- One more in a counter that the states around the count agree on. -/
theorem PortCounts.around {n w : Nat} {s s' t' t : State} (h : PortCounts n w s' t') (hs : s'.portCount n w = s.portCount n w)
    (ht : t.portCount n w = t'.portCount n w) : PortCounts n w s t :=
  portCounts_iff.2 (ht.trans ((portCounts_iff.1 h).trans (by rw [hs])))

theorem bumpPort_counts (n w : Nat) (s : State) : PortCounts n w s (bumpPort n w 1 s) := bumpPort_portCount_self n w 1 s

/-! ### Reports of the intake (R316, R325) -/

/-- One more report in a counter that the states around the report agree on. -/
theorem Reports.around {h : Half} {s s' t' t : State} (hr : Reports h s' t') (hs : HalvesKept HalfUnit.fgCtr s s')
    (ht : HalvesKept HalfUnit.fgCtr t' t) : Reports h s t := by
  unfold Reports at hr ⊢
  rw [ht.half h, ← hs.half h, hr]

theorem report_reports {r : FaultRec} (h : severity r.key.cls ≠ 2) (s : State) : Reports r.key.half s (report r s) :=
  report_fgCount h s

end Sys2Proof

namespace Sys2Proof.Machine

/-! ### The settings of a key (R238, R250) -/

section
variable {s t : State}

/-- Two states in whose image, device and changed keys nothing differs that the settings of keys and decoders are read from. -/
structure SameSettings (s t : State) : Prop where
  dev  : t.dev = s.dev
  img  : t.img = s.img
  held : ∀ k, (t.key k).heldRoute = (s.key k).heldRoute

theorem routeOf_congr (himg : t.img = s.img) {k : Nat} (hheld : (t.key k).heldRoute = (s.key k).heldRoute) :
    t.routeOf k = s.routeOf k := by unfold State.routeOf; rw [hheld, himg]

theorem recipeOf_congr (himg : t.img = s.img) {k : Nat} (hheld : (t.key k).heldRoute = (s.key k).heldRoute) :
    t.recipeOf k = s.recipeOf k := by unfold State.recipeOf; rw [hheld, himg]

theorem tableOwner_congr (hdev : t.dev = s.dev) (himg : t.img = s.img) (k : Nat) : t.tableOwner k = s.tableOwner k := by
  unfold State.tableOwner; rw [hdev, himg]

theorem decOwner_congr (hdev : t.dev = s.dev) (himg : t.img = s.img) {k : Nat}
    (hheld : (t.key k).heldRoute = (s.key k).heldRoute) : t.decOwner k = s.decOwner k := by
  unfold State.decOwner; rw [hheld, tableOwner_congr hdev himg]

theorem mismatched_congr (h : SameSettings s t) (n i : Nat) (serial : Word) :
    t.mismatched n i serial = s.mismatched n i serial := by
  unfold State.mismatched; rw [routeOf_congr h.img (h.held _), h.dev]

theorem sensor_congr {k : Nat} (hlink : (t.port (k / 16)).link = (s.port (k / 16)).link)
    (hid : (t.port (k / 16)).identity = (s.port (k / 16)).identity) (hlidar : (t.key k).lidar = (s.key k).lidar) :
    t.sensor k = s.sensor k := by simp only [State.sensor, hlink, hid, hlidar]

theorem portMismatch_congr (h : SameSettings s t) {n : Nat} (hlink : (t.port n).link = (s.port n).link)
    (hid : (t.port n).identity = (s.port n).identity) (hlidar : ∀ k, (t.key k).lidar = (s.key k).lidar) :
    t.portMismatch n = s.portMismatch n := by
  unfold State.portMismatch
  rw [Bool.eq_iff_iff, List.any_eq_true, List.any_eq_true]
  refine exists_congr fun i => and_congr_right fun hi => ?_
  have hdiv : keyOf n i / 16 = n := keyOf_div (List.mem_range.1 hi)
  rw [sensor_congr (by rw [hdiv, hlink]) (by rw [hdiv, hid]) (hlidar _)]
  simp only [mismatched_congr h]

theorem stray_congr (hdev : t.dev = s.dev) (himg : t.img = s.img) (hrec : t.rec_ = s.rec_) {k : Nat}
    (hheld : (t.key k).heldRoute = (s.key k).heldRoute) : t.stray k = s.stray k := by
  unfold State.stray; rw [hrec, decOwner_congr hdev himg hheld]

theorem controlOk_congr (hdev : t.dev = s.dev) (hhalf : ∀ h, (t.half h).pathOk = (s.half h).pathOk) : t.controlOk = s.controlOk := by
  unfold State.controlOk; rw [hdev, hhalf]

end

/-! ### Frame ends (R240 to R243) -/

/-- What a frame's end makes of its key and of the frame. -/
def closedFrame (k extra : Nat) (x : Key) (f : Frame) : Key × Frame :=
  match f.fed with
  | some r => closeFed x f r
  | none => if f.decoded then (x, { f with flags := f.flags ||| extra }) else closeLive (k / 16) x f extra

/-- An end changes no field of its key but the counter and the time of the frame before. -/
theorem closedFrame_key (k extra : Nat) (x : Key) (f : Frame) :
    (closedFrame k extra x f).1 = { x with prevCtr := (closedFrame k extra x f).1.prevCtr,
                                           prevTime := (closedFrame k extra x f).1.prevTime } := by
  unfold closedFrame
  split
  · unfold closeFed
    dsimp only
    split <;> split <;> rfl
  · split <;> rfl

theorem closeFrame_of_none {k : Nat} {s : State} (h : (s.key k).frame = none) (extra : Nat) : closeFrame k extra s = s := by
  unfold closeFrame; rw [h]

theorem closeFrame_of_open {k : Nat} {s : State} {f : Frame} (h : (s.key k).frame = some f) (extra : Nat) :
    closeFrame k extra s = updKey k (fun _ => { (closedFrame k extra (s.key k) f).1 with
      frame := none, closed := (closedFrame k extra (s.key k) f).1.closed ++ [(closedFrame k extra (s.key k) f).2] }) s := by
  unfold closeFrame; rw [h]; rfl

theorem closeFrame_ne (k extra : Nat) (s : State) {j : Nat} (h : j ≠ k) : (closeFrame k extra s).key j = s.key j := by
  cases hf : (s.key k).frame with
  | none => rw [closeFrame_of_none hf]
  | some f => rw [closeFrame_of_open hf, updKey_ne _ _ _ h]

/-- The key whose frame has closed: the frame, if any, waits behind those closed before. -/
theorem closeFrame_key (k extra : Nat) (s : State) :
    ∃ ctr time, (closeFrame k extra s).key k = { s.key k with
      frame := none, prevCtr := ctr, prevTime := time,
      closed := (s.key k).closed ++ (s.key k).frame.toList.map fun f => (closedFrame k extra (s.key k) f).2 } := by
  cases hf : (s.key k).frame with
  | none =>
    refine ⟨(s.key k).prevCtr, (s.key k).prevTime, ?_⟩
    rw [closeFrame_of_none hf]
    generalize s.key k = x at hf
    cases x
    cases hf
    simp
  | some f =>
    refine ⟨(closedFrame k extra (s.key k) f).1.prevCtr, (closedFrame k extra (s.key k) f).1.prevTime, ?_⟩
    rw [closeFrame_of_open hf, updKey_self, closedFrame_key]
    rfl

theorem closeFrame_ports (k extra : Nat) (s : State) : (closeFrame k extra s).intake.ports = s.intake.ports := by
  cases hf : (s.key k).frame with
  | none => rw [closeFrame_of_none hf]
  | some f => rw [closeFrame_of_open hf]; rfl

theorem closeFrame_decoders (k extra : Nat) (s : State) : (closeFrame k extra s).intake.decoders = s.intake.decoders := by
  cases hf : (s.key k).frame with
  | none => rw [closeFrame_of_none hf]
  | some f => rw [closeFrame_of_open hf]; rfl

@[simp] theorem closeFrame_port (k extra : Nat) (s : State) (n : Nat) : (closeFrame k extra s).port n = s.port n :=
  port_of_ports (closeFrame_ports ..) n

@[simp] theorem closeFrame_frame (k extra : Nat) (s : State) : ((closeFrame k extra s).key k).frame = none := by
  obtain ⟨_, _, h⟩ := closeFrame_key k extra s; rw [h]

/-- A frame that closes joins those that await their completion. -/
theorem closeFrame_closed_length {k : Nat} {s : State} {f : Frame} (h : (s.key k).frame = some f) (extra : Nat) :
    ((closeFrame k extra s).key k).closed.length = (s.key k).closed.length + 1 := by
  obtain ⟨_, _, hk⟩ := closeFrame_key k extra s
  rw [hk, h]; simp

theorem closeFrame_onlyPort {k n : Nat} (hk : k / 16 = n) (extra : Nat) (s : State) : OnlyPort n s (closeFrame k extra s) :=
  ⟨fun m _ => closeFrame_port k extra s m, fun j hj => closeFrame_ne _ _ _ (by rintro rfl; exact hj hk), closeFrame_decoders ..⟩

end Sys2Proof.Machine
end

section
/-! Stalled keys and failed paths, and a record of one half left in the other half's table (R21, R248, R316). -/
namespace Sys2Proof.Machine

/-! ### The tick grid (R67) -/

theorem tickFrom_bounds {t : Time} (h : 0 < t.tickHp) (hp : Nat) : hp ≤ t.tickFrom hp ∧ t.tickFrom hp < hp + t.tickHp := by
  unfold Time.tickFrom ceilDiv
  rw [if_neg h.ne']
  split
  case isTrue hle =>
    have hdiv := Nat.div_add_mod (t.nextTick - hp) t.tickHp
    have hlt := Nat.mod_lt (t.nextTick - hp) h
    rw [Nat.mul_comm] at hdiv
    omega
  case isFalse hlt =>
    have hdiv := Nat.div_add_mod (hp - t.nextTick + t.tickHp - 1) t.tickHp
    have hmod := Nat.mod_lt (hp - t.nextTick + t.tickHp - 1) h
    rw [Nat.mul_comm] at hdiv
    omega

/-! ### Stalls (R248) -/

theorem intakeStall_of_stalled {n sel : Nat} {s : State} (h : (s.key (keyOf n sel)).stalled = true) : intakeStall n sel s = s := by
  unfold intakeStall
  dsimp only
  split
  · rfl
  · exact if_pos (.inr (.inr (.inr h)))

/-- The state at the tick, with the key marked. -/
def stallMarked (k past : Nat) (s : State) : State :=
  updKey k (fun x => { x with stalled := true }) (advanceTo (s.time.tickFrom past) s)

/-- The report of a stall, made in the state in which the key is marked. -/
def stallRecord (n sel ctx : Nat) (s : State) : FaultRec :=
  { faultOf s.dev.leader ukPort n .intakeStall with ctx := ctx, d0 := w64 (n + at_ 5 sel) }

theorem intakeStall_of_due {n sel since : Nat} {s : State} (himage : s.dev.imageValid = true)
    (hroute : routeValid (s.routeOf (keyOf n sel)) = true) (hlimit : routeStall (s.routeOf (keyOf n sel)) ≠ 0)
    (hlast : (s.key (keyOf n sel)).lastStart = some since) (hstalled : (s.key (keyOf n sel)).stalled = false) :
    let marked := stallMarked (keyOf n sel) (since + routeStall (s.routeOf (keyOf n sel)) * s.time.tickHp) s
    intakeStall n sel s = report (stallRecord n sel (routeCtx (s.routeOf (keyOf n sel))) marked) marked := by
  unfold intakeStall
  simp only [hlast, himage, hroute, hstalled, hlimit, Bool.not_true, Bool.false_eq_true, or_self, if_false]
  rfl

/-- A key that is not yet stalled is marked and reported at the tick. -/
theorem stallIsRecorded (port : BitVec 5) (sel : BitVec 4) (at_ : Nat) (s : State) (hup : s.intakeUp = true) :
    let k := keyOf port.toNat sel.toNat
    let r := s.routeOf k
    let past := at_ + routeStall r * s.time.tickHp
    s.dev.imageValid = true → routeValid r = true → routeStall r ≠ 0 → (s.key k).lastStart = some at_ →
    ((s.key k).stalled = true → exec (.intakeStall port sel) s = .next s)
    ∧ ((s.key k).stalled = false →
      ∃ t, exec (.intakeStall port sel) s = .next t ∧ OnlyUnits [.time, .dev, .host, .west, .east, .intake] s t
        ∧ t.time.hp = max s.time.hp (s.time.tickFrom past)
        ∧ (0 < s.time.tickHp → past ≤ s.time.tickFrom past ∧ s.time.tickFrom past < past + s.time.tickHp)
        ∧ t.key k = { s.key k with stalled := true } ∧ (∀ j, j ≠ k → t.key j = s.key j) ∧ Reports s.dev.leader s t) := by
  intro k r past himage hroute hlimit hlast
  have hexec : exec (.intakeStall port sel) s = .next (intakeStall port.toNat sel.toNat s) := intake_of_up hup
  refine ⟨fun hst => hexec.trans (congrArg _ (intakeStall_of_stalled hst)), fun hst => ?_⟩
  have heq := intakeStall_of_due himage hroute hlimit hlast hst
  have hleader : (stallMarked k past s).dev = s.dev := (advanceTo_keeps ..).dev rfl
  have hkey (j : Nat) : (stallMarked k past s).key j = (updKey k (fun x => { x with stalled := true }) s).key j := by
    have hadv := (advanceTo_keeps (s.time.tickFrom past) s).intake rfl
    unfold stallMarked
    by_cases hj : j = k
    · rw [hj, updKey_self, updKey_self, key_of_intake hadv]
    · rw [updKey_ne _ _ _ hj, updKey_ne _ _ _ hj, key_of_intake hadv]
  refine ⟨_, hexec, (intakeStall_keeps ..).units _ rfl, ?_, fun h => tickFrom_bounds h past, ?_, fun j hj => ?_, ?_⟩
  · rw [heq, (report_keeps ..).time rfl]
    exact advanceTo_hp ..
  · rw [heq, report_key, hkey, updKey_self]
  · rw [heq, report_key, hkey, updKey_ne _ _ _ hj]
  · rw [heq, ← hleader]
    refine (report_reports (r := stallRecord ..) (show severity .intakeStall ≠ 2 by decide) _).around ?_ (.refl _)
    exact (HalvesKept.of_keeps (advanceTo_keeps ..)).trans (.of_keeps (updKey_keeps ..))

/-! ### Failed paths (R21) -/

/-- The report of a path that has failed. -/
def pathRecord (h : Half) : FaultRec := faultOf h ukPath h.idx .pathDown

theorem pathFailed_of_down {h : Half} {s : State} (hp : (s.half h).pathOk = false) : pathFailed h s = s := by
  simp [pathFailed, hp]

theorem pathFailed_of_up {h : Half} {s : State} (hp : (s.half h).pathOk = true) :
    pathFailed h s = report (pathRecord h) (updHalf h (fun u => { u with pathOk := false }) s) := by
  simp [pathFailed, hp, pathRecord]

/-- Every entry of a key in its half's table holds a record of that half, as `gather` enters them. -/
def RecordsAtHome (key : FaultKey) (s : State) : Prop :=
  ∀ c ∈ (s.half key.half).table, c.key = key → c.record.key.half = key.half

/-- The other half stands, and the records of a key stay with its half. -/
structure HomeKept (key : FaultKey) (s t : State) : Prop where
  other : t.half key.half.other = s.half key.half.other
  home  : RecordsAtHome key s → RecordsAtHome key t

theorem HomeKept.refl (key : FaultKey) (s : State) : HomeKept key s s := ⟨rfl, id⟩

theorem HomeKept.trans {key : FaultKey} {s t u : State} (h : HomeKept key s t) (k : HomeKept key t u) : HomeKept key s u :=
  ⟨k.other.trans h.other, fun hs => k.home (h.home hs)⟩

theorem HomeKept.updHalf (key : FaultKey) (f : HalfUnit → HalfUnit) (s : State) (hf : ∀ u, (f u).table = u.table) :
    HomeKept key s (updHalf key.half f s) := by
  refine ⟨updHalf_other .., fun hs => ?_⟩
  unfold RecordsAtHome
  rw [updHalf_self, hf]
  exact hs

theorem queueRecord_homeKept {r : FaultRec} {key : FaultKey} (h : r.key.half = key.half) (s : State) :
    HomeKept key s (queueRecord r s) := by
  unfold queueRecord
  rw [h]
  dsimp only
  split
  · exact .updHalf _ _ s fun _ => rfl
  · split
    · exact .updHalf _ _ s fun _ => rfl
    · exact .updHalf _ _ s fun _ => rfl

theorem setEntry_homeKept {key : FaultKey} {c : Option Coalesce} (hc : ∀ x, c = some x → x.record.key.half = key.half) (s : State) :
    HomeKept key s (setEntry key c s) := by
  refine ⟨updHalf_other .., fun hs x hx hkey => ?_⟩
  rw [setEntry, updHalf_self] at hx
  cases c with
  | none => exact hs x (List.mem_filter.1 hx).1 hkey
  | some y =>
    rcases List.mem_append.1 hx with hx | hx
    · exact hs x (List.mem_filter.1 hx).1 hkey
    · cases List.mem_singleton.1 hx
      exact hc x rfl

theorem findEntry_mem {key : FaultKey} {s : State} {c : Coalesce} (h : findEntry key s = some c) :
    c ∈ (s.half key.half).table ∧ c.key = key := ⟨List.mem_of_find?_eq_some h, by simpa using List.find?_some h⟩

theorem settleKey_homeKept {key : FaultKey} (n : Nat) {s : State} (h : RecordsAtHome key s) : HomeKept key s (settleKey key n s) := by
  induction n generalizing s with
  | zero => exact .refl ..
  | succ n ih =>
    unfold settleKey
    split
    · exact .refl ..
    · next c hc =>
      obtain ⟨hmem, hkey⟩ := findEntry_mem hc
      have hhome : c.record.key.half = key.half := h c hmem hkey
      have hexpire : HomeKept key s (coalesceExpire c s) := by
        unfold coalesceExpire
        rw [hkey]
        refine (queueRecord_homeKept (by exact hhome) _).trans (setEntry_homeKept ?_ _)
        rintro _ ⟨⟩; exact hhome
      have hrepeat : HomeKept key s (repeatExpire c s) := by
        unfold repeatExpire
        rw [hkey]
        split
        · exact setEntry_homeKept (by simp) _
        · refine (queueRecord_homeKept (by exact hhome) _).trans (setEntry_homeKept ?_ _)
          rintro _ ⟨⟩; exact hhome
      split
      · split
        · exact hrepeat.trans (ih (hrepeat.home h))
        · exact .refl ..
      · split
        · exact hexpire.trans (ih (hexpire.home h))
        · exact .refl ..

/-- A report leaves the other half where its key's records are of its own half. -/
theorem gather_other {r : FaultRec} {s : State} (h : RecordsAtHome r.key s) :
    (gather r s).half r.key.half.other = s.half r.key.half.other := by
  unfold gather
  extract_lets s1 r1 s2
  have h2 : s2.half r.key.half.other = s.half r.key.half.other :=
    (updHalf_other ..).trans (settleKey_homeKept 3 h).other
  split
  · refine (updHalf_other ..).trans (.trans ?_ h2)
    split
    · rfl
    · exact updHalf_other ..
  · refine .trans ?_ h2
    split
    · exact updHalf_other ..
    · exact updHalf_other ..

/-- A path that fails is marked and reported once; the other half stands where the reports of the path, if one is being coalesced,
are of the path's own half. -/
theorem failedPathIsRecorded (half : Half) (s : State) (hup : s.intakeUp = true) :
    ((s.half half).pathOk = false → exec (.pathFailed half) s = .next s)
    ∧ ((s.half half).pathOk = true →
      ∃ t, exec (.pathFailed half) s = .next t ∧ OnlyUnits [.dev, .host, .west, .east] s t
        ∧ (t.half half).pathOk = false ∧ Reports half s t
        ∧ (RecordsAtHome (pathRecord half).key s → t.half half.other = s.half half.other)) := by
  have hexec : exec (.pathFailed half) s = .next (pathFailed half s) := intake_of_up hup
  refine ⟨fun hp => hexec.trans (congrArg _ (pathFailed_of_down hp)), fun hp => ?_⟩
  have hsev : severity (pathRecord half).key.cls ≠ 2 := show severity .pathDown ≠ 2 by decide
  have hmarked : HalvesKept HalfUnit.fgCtr s (updHalf half (fun u => { u with pathOk := false }) s) := .updHalf _ _ _ fun _ => rfl
  refine ⟨_, hexec, (pathFailed_keeps ..).units _ rfl, ?_, ?_, fun hhome => ?_⟩ <;> rw [pathFailed_of_up hp]
  · have haside := (report_aside hsev (updHalf half (fun u => { u with pathOk := false }) s)).half half
    rw [updHalf_self] at haside
    exact congrArg HalfUnit.pathOk haside
  · exact (report_reports hsev _).around hmarked (.refl _)
  · rw [report_of_severity_ne hsev]
    refine (gather_other (r := pathRecord half) ?_).trans (updHalf_other ..)
    exact (HomeKept.updHalf (pathRecord half).key (fun u => { u with pathOk := false }) s fun _ => rfl).home hhome

/-- The west's entry for its path holds a record of the east, and its first 8 µs have ended. -/
def strayRecord : State :=
  let s := updHalf .west (fun u => { u with table := [⟨(pathRecord .west).key, pathRecord .east, 0, false, 0⟩] }) Tests.up
  { s with time := { s.time with hp := 1000 } }

/-- Refutes O42: a coalescing entry keeps its key and its record apart, so that in `strayRecord` the entry for the west's path holds a
record of the east. The path's failure ends the entry's interval and queues that record in the east, where the statement has the
other half unchanged. The parts that hold are `stallIsRecorded` and `failedPathIsRecorded`. -/
theorem not_stallsAndFailedPathsAreRecorded : ¬ Obligations.StallsAndFailedPathsAreRecorded := by
  rintro ⟨-, hpath⟩
  obtain ⟨t, hexec, -, -, hother, -⟩ := (hpath .west strayRecord (by decide +kernel)).2 (by decide +kernel)
  rw [show exec (.pathFailed .west) strayRecord = .next (pathFailed .west strayRecord) from intake_of_up (by decide +kernel)] at hexec
  cases hexec
  exact absurd (congrArg (fun u => u.bufs.length) hother) (by decide +kernel)

end Sys2Proof.Machine
end

section
/-! The links of sensor ports, lidar sensors that are lost, and the discovery of cameras (R223 to R225, R229). -/
namespace Sys2Proof.Machine

/-! ### Links (R223, R229) -/

theorem partnerDetected_of_down {n : Nat} {s : State} (hn : n < 24) (hl : (s.port n).link = 0) :
    partnerDetected n s = updPort n (fun p => { p with link := 1, gear := 0 }) s := if_pos ⟨hn, hl⟩

theorem linkTrained_of_training {n gear : Nat} {s : State} (hn : n < 24) (hl : (s.port n).link = 1) (h1 : 1 ≤ gear) (h5 : gear ≤ 5) :
    linkTrained n gear s = updPort n (fun p => { p with link := 2, gear := gear }) s := if_pos ⟨hn, hl, h1, h5⟩

theorem networkUp_of_network {n : Nat} (hn : 24 ≤ n) (s : State) :
    networkUp n s = updPort n (fun p => { p with link := 2 }) s := if_pos hn

/-! ### Lock loss (R225) -/

/-- The frames of selectors of a port closed, truncated. -/
def closeFrames (n : Nat) (l : List Nat) (s : State) : State := forEach l (fun i => closeFrame (keyOf n i) ffTrunc) s

theorem closeFrames_onlyPort (n : Nat) {l : List Nat} (hl : ∀ i ∈ l, i < 16) (s : State) : OnlyPort n s (closeFrames n l s) :=
  .forEach_keys (f := fun k => closeFrame k ffTrunc) hl (fun _ s hi => closeFrame_onlyPort (keyOf_div hi) _ s) s

theorem closeFrames_ports (n : Nat) (l : List Nat) (s : State) : (closeFrames n l s).intake.ports = s.intake.ports :=
  forEach_invariant (P := fun u => u.intake.ports = s.intake.ports) (fun _ _ h => (closeFrame_ports ..).trans h) l s rfl

/-- No key whose frame has closed opens one in the ends of the others. -/
theorem closeFrames_frame (n : Nat) {l : List Nat} {i : Nat} (hi : i ∈ l) (s : State) :
    ((closeFrames n l s).key (keyOf n i)).frame = none := by
  refine forEach_establishes (P := fun u => (u.key (keyOf n i)).frame = none) (f := fun i => closeFrame (keyOf n i) ffTrunc)
    (fun j u h => ?_) (fun u => closeFrame_frame ..) hi s
  by_cases hj : keyOf n i = keyOf n j
  · rw [hj]; exact closeFrame_frame ..
  · rw [closeFrame_ne _ _ _ hj]; exact h

theorem postEvents_intake {α : Type} (l : List α) (detail : α → Word) (code : Nat) (s : State) :
    (forEach l (fun a => postEvent code 0 0 0 (detail a)) s).intake = s.intake :=
  forEach_invariant (P := fun u => u.intake = s.intake) (fun _ _ h => (postEvent_intake ..).trans h) l s rfl

theorem report_if_intake (c : Prop) [Decidable c] (r : FaultRec) (s : State) :
    (if c then report r s else s).intake = s.intake := by
  split
  · exact report_intake ..
  · rfl

theorem postEvents_dev {α : Type} (l : List α) (detail : α → Word) (code : Nat) (s : State) :
    (forEach l (fun a => postEvent code 0 0 0 (detail a)) s).dev = s.dev :=
  forEach_invariant (P := fun u => u.dev = s.dev) (fun _ _ h => ((postEvent_keeps ..).dev rfl).trans h) l s rfl

theorem report_if_dev (c : Prop) [Decidable c] {r : FaultRec} (h : severity r.key.cls ≠ 2) (s : State) :
    (if c then report r s else s).dev = s.dev := by
  split
  · exact (report_aside h s).dev
  · rfl

theorem lockLoss_intake {n : Nat} {s : State} (hn : n < 24) (hl : (s.port n).link ≠ 0) :
    (lockLoss n s).intake
      = (updPort n (fun p => { p with link := 1, gear := 0, found := [], mismatch := false })
          (closeFrames n (List.range 16) s)).intake := by
  unfold lockLoss
  rw [if_neg (by simp [hn, hl])]
  exact postEvents_intake (s.port n).found (fun vc => sensorDetail n vc (wordAt (s.port n).identity 16)) 0x02 _

theorem lockLossRestartsThePort (port : BitVec 5) (s : State) (hup : s.intakeUp = true) (hn : port.toNat < 24)
    (hl : (s.port port.toNat).link ≠ 0) :
    ∃ t, exec (.aphyLockLoss port) s = .next t ∧ OnlyUnits [.host, .intake] s t
      ∧ t.port port.toNat = { s.port port.toNat with link := 1, gear := 0, found := [], mismatch := false }
      ∧ OnlyPort port.toNat s t ∧ ∀ i, i < 16 → (t.key (keyOf port.toNat i)).frame = none := by
  have hin := lockLoss_intake hn hl
  refine ⟨_, (intake_of_up hup : exec (.aphyLockLoss port) s = _), (lockLoss_keeps ..).units _ rfl, ?_, ?_, fun i hi => ?_⟩
  · rw [port_of_intake hin, updPort_self, port_of_ports (closeFrames_ports ..)]
  · exact ((closeFrames_onlyPort _ (fun _ => List.mem_range.1) s).trans (.updPort ..)).trans (.of_intake _ hin)
  · rw [key_of_intake hin, updPort_key]; exact closeFrames_frame _ (List.mem_range.2 hi) s

/-! ### Lidar sensors lost (R229) -/

/-- The key of a sensor that is lost: its frame has closed and its sensor is gone. -/
def loseSensor (k : Nat) (s : State) : State := updKey k (fun x => { x with lidar := none }) (closeFrame k ffTrunc s)

theorem loseSensor_keeps (k : Nat) (s : State) : Keeps 0x800 s (loseSensor k s) :=
  (closeFrame_keeps ..).trans (updKey_keeps ..)

@[simp] theorem loseSensor_port (k : Nat) (s : State) (n : Nat) : (loseSensor k s).port n = s.port n := closeFrame_port ..

theorem loseSensor_ne (k : Nat) (s : State) {j : Nat} (h : j ≠ k) : (loseSensor k s).key j = s.key j :=
  (updKey_ne _ _ _ h).trans (closeFrame_ne _ _ _ h)

theorem loseSensor_lidar (k : Nat) (s : State) : ((loseSensor k s).key k).lidar = none := congrArg Key.lidar (updKey_self ..)

theorem loseSensor_frame (k : Nat) (s : State) : ((loseSensor k s).key k).frame = none :=
  (congrArg Key.frame (updKey_self ..)).trans (closeFrame_frame ..)

theorem loseSensor_onlyPort {k n : Nat} (hk : k / 16 = n) (s : State) : OnlyPort n s (loseSensor k s) :=
  (closeFrame_onlyPort hk ..).trans (.updKey hk ..)

theorem lidarLost_of_absent {k : Nat} {s : State} (h : (s.key k).lidar = none) : lidarLost k s = s := by
  unfold lidarLost; rw [h]

theorem lidarLost_intake {k : Nat} {s : State} (h : (s.key k).lidar ≠ none) :
    (lidarLost k s).intake
      = (updPort (k / 16) (fun p => { p with mismatch := (loseSensor k s).portMismatch (k / 16) }) (loseSensor k s)).intake := by
  obtain ⟨serial, hs⟩ := Option.ne_none_iff_exists'.1 h
  unfold lidarLost
  rw [hs]
  exact postEvent_intake ..

theorem lidarLost_ne (k : Nat) (s : State) {j : Nat} (hj : j ≠ k) : (lidarLost k s).key j = s.key j := by
  by_cases h : (s.key k).lidar = none
  · rw [lidarLost_of_absent h]
  · rw [key_of_intake (lidarLost_intake h), updPort_key, loseSensor_ne _ _ hj]

theorem lidarLost_lidar (k : Nat) (s : State) : ((lidarLost k s).key k).lidar = none := by
  by_cases h : (s.key k).lidar = none
  · rw [lidarLost_of_absent h, h]
  · rw [key_of_intake (lidarLost_intake h), updPort_key, loseSensor_lidar]

theorem lidarLost_frame {k : Nat} {s : State} (h : (s.key k).lidar ≠ none) : ((lidarLost k s).key k).frame = none := by
  rw [key_of_intake (lidarLost_intake h), updPort_key, loseSensor_frame]

theorem lidarLost_onlyPort {k n : Nat} (hk : k / 16 = n) (s : State) : OnlyPort n s (lidarLost k s) := by
  by_cases h : (s.key k).lidar = none
  · rw [lidarLost_of_absent h]; exact .refl ..
  · subst hk
    exact ((loseSensor_onlyPort rfl s).trans (.updPort ..)).trans (.of_intake _ (lidarLost_intake h))

theorem lidarLost_link (k n : Nat) (s : State) : ((lidarLost k s).port n).link = (s.port n).link := by
  by_cases h : (s.key k).lidar = none
  · rw [lidarLost_of_absent h]
  · rw [port_of_intake (lidarLost_intake h)]
    by_cases hn : n = k / 16
    · subst hn; rw [updPort_self, loseSensor_port]
    · rw [updPort_ne _ _ _ hn, loseSensor_port]

/-- The mismatch of the port is that of the sensors left. -/
theorem lidarLost_port {k : Nat} {s : State} (h : (s.key k).lidar ≠ none) :
    (lidarLost k s).port (k / 16) = { s.port (k / 16) with mismatch := (lidarLost k s).portMismatch (k / 16) } := by
  have hin := lidarLost_intake h
  have hlost := lidarLost_keeps k s
  have hlose := loseSensor_keeps k s
  have hmismatch : (lidarLost k s).portMismatch (k / 16) = (loseSensor k s).portMismatch (k / 16) := by
    refine portMismatch_congr ⟨(hlost.dev rfl).trans (hlose.dev rfl).symm, (hlost.img rfl).trans (hlose.img rfl).symm,
      fun j => ?_⟩ ?_ ?_ fun j => ?_
    · rw [key_of_intake hin, updPort_key]
    · rw [port_of_intake hin, updPort_self]
    · rw [port_of_intake hin, updPort_self]
    · rw [key_of_intake hin, updPort_key]
  rw [hmismatch, port_of_intake hin, updPort_self, loseSensor_port]

theorem lidarSilence_of_present {n sel : Nat} {s : State} (hn : 24 ≤ n) (h : (s.key (keyOf n sel)).lidar ≠ none) :
    lidarSilence n sel s
      = lidarLost (keyOf n sel) (advanceTo ((s.key (keyOf n sel)).lidarAt + usHp 100000) s) :=
  if_pos ⟨hn, Option.isSome_iff_ne_none.2 h⟩

/-- The sensors of selectors of a port lost. -/
def loseSensors (n : Nat) (l : List Nat) (s : State) : State := forEach l (fun i => lidarLost (keyOf n i)) s

theorem loseSensors_onlyPort (n : Nat) {l : List Nat} (hl : ∀ i ∈ l, i < 16) (s : State) : OnlyPort n s (loseSensors n l s) :=
  .forEach_keys (f := lidarLost) hl (fun _ s hi => lidarLost_onlyPort (keyOf_div hi) s) s

theorem loseSensors_link (n m : Nat) (l : List Nat) (s : State) : ((loseSensors n l s).port m).link = (s.port m).link :=
  forEach_invariant (P := fun u => (u.port m).link = (s.port m).link) (fun _ _ h => (lidarLost_link ..).trans h) l s rfl

theorem loseSensors_lidar (n : Nat) {l : List Nat} {i : Nat} (hi : i ∈ l) (s : State) :
    ((loseSensors n l s).key (keyOf n i)).lidar = none := by
  refine forEach_establishes (P := fun u => (u.key (keyOf n i)).lidar = none) (f := fun i => lidarLost (keyOf n i))
    (fun j u h => ?_) (fun u => lidarLost_lidar ..) hi s
  by_cases hj : keyOf n i = keyOf n j
  · rw [hj]; exact lidarLost_lidar ..
  · rw [lidarLost_ne _ _ hj]; exact h

/-- The frame of a sensor that was there has closed. -/
theorem loseSensors_frame (n : Nat) {l : List Nat} {i : Nat} (hi : i ∈ l) {s : State} (h : (s.key (keyOf n i)).lidar ≠ none) :
    ((loseSensors n l s).key (keyOf n i)).frame = none := by
  have hinv : ((loseSensors n l s).key (keyOf n i)).lidar ≠ none ∨ ((loseSensors n l s).key (keyOf n i)).frame = none := by
    refine forEach_invariant (P := fun u => (u.key (keyOf n i)).lidar ≠ none ∨ (u.key (keyOf n i)).frame = none)
      (fun j u hu => ?_) l s (.inl h)
    by_cases hj : keyOf n i = keyOf n j
    · rw [← hj]
      by_cases hlidar : (u.key (keyOf n i)).lidar = none
      · rw [lidarLost_of_absent hlidar]; exact hu
      · exact .inr (lidarLost_frame hlidar)
    · rw [lidarLost_ne _ _ hj]; exact hu
  exact hinv.resolve_left fun hne => hne (loseSensors_lidar n hi s)

theorem networkDown_of_network {n : Nat} (hn : 24 ≤ n) (s : State) :
    networkDown n s = loseSensors n (List.range 16) (updPort n (fun p => { p with link := 0 }) s) := if_neg (Nat.not_lt.2 hn)

theorem networkDownLosesTheSensors (port : BitVec 5) (s : State) (hup : s.intakeUp = true) (hn : 24 ≤ port.toNat) :
    ∃ t, exec (.networkLinkDown port) s = .next t ∧ OnlyUnits [.host, .intake] s t
      ∧ (t.port port.toNat).link = 0 ∧ OnlyPort port.toNat s t
      ∧ ∀ i, i < 16 → (t.key (keyOf port.toNat i)).lidar = none
          ∧ ((s.key (keyOf port.toNat i)).lidar ≠ none → (t.key (keyOf port.toNat i)).frame = none) := by
  refine ⟨_, (intake_of_up hup : exec (.networkLinkDown port) s = _), (networkDown_keeps ..).units _ rfl, ?_, ?_, fun i hi => ?_⟩ <;>
    rw [networkDown_of_network hn]
  · rw [loseSensors_link, updPort_self]
  · exact (OnlyPort.updPort ..).trans (loseSensors_onlyPort _ (fun _ => List.mem_range.1) _)
  · exact ⟨loseSensors_lidar _ (List.mem_range.2 hi) _, fun h => loseSensors_frame _ (List.mem_range.2 hi) h⟩

theorem lidarSilenceLosesTheSensor (port : BitVec 5) (sel : BitVec 4) (s : State) (hup : s.intakeUp = true) (hn : 24 ≤ port.toNat)
    (hlidar : (s.key (keyOf port.toNat sel.toNat)).lidar ≠ none) :
    ∃ t, exec (.lidarSilence port sel) s = .next t ∧ OnlyUnits [.time, .host, .intake] s t ∧ OnlyPort port.toNat s t
      ∧ t.time.hp = max s.time.hp ((s.key (keyOf port.toNat sel.toNat)).lidarAt + usHp 100000)
      ∧ (t.key (keyOf port.toNat sel.toNat)).lidar = none ∧ (t.key (keyOf port.toNat sel.toNat)).frame = none
      ∧ t.port port.toNat = { s.port port.toNat with mismatch := t.portMismatch port.toNat }
      ∧ ∀ k, k ≠ keyOf port.toNat sel.toNat → t.key k = s.key k := by
  have hk : keyOf port.toNat sel.toNat / 16 = port.toNat := keyOf_sel_div ..
  have hexec : exec (.lidarSilence port sel) s = .next (lidarSilence port.toNat sel.toNat s) := intake_of_up hup
  rw [lidarSilence_of_present hn hlidar] at hexec
  generalize hhp : (s.key (keyOf port.toNat sel.toNat)).lidarAt + usHp 100000 = hp at hexec ⊢
  generalize keyOf port.toNat sel.toNat = k at hexec hk hlidar ⊢
  have hu : (advanceTo hp s).intake = s.intake := (advanceTo_keeps hp s).intake rfl
  have hpresent : ((advanceTo hp s).key k).lidar ≠ none := by rwa [key_of_intake hu]
  have hlost := lidarLost_keeps k (advanceTo hp s)
  have hkeeps : Keeps 0x811 s (lidarLost k (advanceTo hp s)) := (advanceTo_keeps hp s).up.trans hlost.up
  refine ⟨_, hexec, hkeeps.units _ rfl, ?_, ?_, lidarLost_lidar .., lidarLost_frame hpresent, ?_, fun j hj => ?_⟩
  · exact (OnlyPort.of_intake _ hu).trans (lidarLost_onlyPort hk _)
  · rw [hlost.time rfl]; exact advanceTo_hp ..
  · rw [← hk, lidarLost_port hpresent, port_of_intake hu]
  · rw [lidarLost_ne _ _ hj, key_of_intake hu]

theorem portsComeAndGo : PortsComeAndGo := by
  intro port s hup n p
  refine ⟨fun hn hl => ?_, fun gear hn hl h1 h5 => ?_, fun hn => ?_, fun hn hl => lockLossRestartsThePort port s hup hn hl,
    fun hn => networkDownLosesTheSensors port s hup hn, fun sel hn hl => lidarSilenceLosesTheSensor port sel s hup hn hl⟩
  case refine_1 =>
    refine ⟨_, (intake_of_up hup : exec (.aphyPartnerDetected port) s = _), (partnerDetected_keeps ..).units _ rfl, ?_⟩
    rw [partnerDetected_of_down hn hl]
    exact ⟨updPort_self .., .updPort .., rfl⟩
  case refine_2 =>
    refine ⟨_, (intake_of_up hup : exec (.aphyLinkTrained port gear) s = _), (linkTrained_keeps ..).units _ rfl, ?_⟩
    rw [linkTrained_of_training hn hl h1 h5]
    exact ⟨updPort_self .., .updPort .., rfl⟩
  case refine_3 =>
    refine ⟨_, (intake_of_up hup : exec (.networkLinkUp port) s = _), (networkUp_keeps ..).units _ rfl, ?_⟩
    rw [networkUp_of_network hn]
    exact ⟨updPort_self .., .updPort .., rfl⟩

/-! ### Discovery of cameras (R223, R224) -/

/-- A key whose next frame carries RESYNC. -/
def Key.resynced (x : Key) : Key := { x with resync := true, prevCtr := none, prevTime := none }

/-- The keys of selectors of a port resynchronised. -/
def resyncKeys (n : Nat) (l : List Nat) (s : State) : State := forEach l (fun i => setResync (keyOf n i)) s

theorem resyncKeys_keeps (n : Nat) (l : List Nat) (s : State) : Keeps 0x800 s (resyncKeys n l s) :=
  forEach_keeps _ _ _ fun _ _ => setResync_keeps ..

theorem setResync_key (k j : Nat) (s : State) : (setResync k s).key j = if j = k then (s.key k).resynced else s.key j := by
  split
  case isTrue h => rw [h]; exact updKey_self ..
  case isFalse h => exact updKey_ne _ _ _ h

theorem setResync_resynced (k j : Nat) (s : State) : ((setResync k s).key j).resynced = (s.key j).resynced := by
  rw [setResync_key]
  split
  case isTrue h => rw [h]; rfl
  case isFalse => rfl

theorem resyncKeys_resynced (n j : Nat) (l : List Nat) (s : State) : ((resyncKeys n l s).key j).resynced = (s.key j).resynced :=
  forEach_invariant (P := fun u => (u.key j).resynced = (s.key j).resynced)
    (fun _ _ h => (setResync_resynced ..).trans h) l s rfl

theorem resyncKeys_key (n : Nat) {l : List Nat} {i : Nat} (hi : i ∈ l) (s : State) :
    (resyncKeys n l s).key (keyOf n i) = (s.key (keyOf n i)).resynced := by
  rw [← resyncKeys_resynced n (keyOf n i) l s]
  refine forEach_establishes (P := fun u => u.key (keyOf n i) = (u.key (keyOf n i)).resynced) (f := fun i => setResync (keyOf n i))
    (fun j u h => ?_) (fun u => ?_) hi s
  · rw [setResync_key]
    split
    · rfl
    · exact h
  · rw [setResync_key, if_pos rfl]; rfl

theorem resyncKeys_heldRoute (n j : Nat) (l : List Nat) (s : State) :
    ((resyncKeys n l s).key j).heldRoute = (s.key j).heldRoute := by
  have h := congrArg Key.heldRoute (resyncKeys_resynced n j l s)
  exact h

theorem resyncKeys_ports (n : Nat) (l : List Nat) (s : State) : (resyncKeys n l s).intake.ports = s.intake.ports :=
  forEach_invariant (P := fun u => u.intake.ports = s.intake.ports) (f := fun i => setResync (keyOf n i)) (fun _ _ h => h) l s rfl

theorem resyncKeys_onlyPort (n : Nat) {l : List Nat} (hl : ∀ i ∈ l, i < 16) (s : State) : OnlyPort n s (resyncKeys n l s) :=
  .forEach_keys (f := setResync) hl (fun _ s hi => .updKey (keyOf_div hi) _ s) s

theorem discoveryDone_of_absent {n : Nat} {s : State} (h : 24 ≤ n ∨ (s.port n).link ≠ 2) (identity : List Byte) (acked : Nat) :
    discoveryDone n identity acked s = s := by
  refine if_pos ?_
  rcases h with h | h
  · simp [Nat.not_lt.2 h]
  · simp [h]

/-- The writes that a discovery sends. -/
def State.discoveryScript (s : State) (n : Nat) (identity : List Byte) : List (Nat × List Byte) :=
  if identityOk (slice identity 0 256) = true then s.portScript n else []

/-- The port with the writes that have gone out. -/
def scriptSent (n : Nat) (identity : List Byte) (acked : Nat) (s : State) : State :=
  updPort n (fun p => { p with script := (s.discoveryScript n identity).take (acked + 1) }) s

/-- The port started again after a discovery that failed. -/
def discoveryFailed (n : Nat) (identity : List Byte) (acked : Nat) (s : State) : State :=
  updPort n (fun p => { p with link := 0, gear := 0 }) (scriptSent n identity acked s)

/-- A serial that some route of a port refuses. -/
def State.refusesSerial (s : State) (n : Nat) (serial : Word) : Bool := (List.range 16).any fun i => s.mismatched n i serial

/-- The port READY after a discovery, its keys resynchronised. -/
def discoveryReady (n : Nat) (identity : List Byte) (acked : Nat) (s : State) : State :=
  let b := slice identity 0 256
  resyncKeys n (List.range 16) (updPort n (fun p => { p with link := 3, identity := b, found := identityChannels b, seen := 0,
                                                             mismatch := s.refusesSerial n (wordAt b 16) }) (scriptSent n identity acked s))

theorem discoveryDone_of_failed {n : Nat} {s : State} {identity : List Byte} {acked : Nat} (hn : n < 24) (hl : (s.port n).link = 2)
    (hbad : identityOk (slice identity 0 256) = false ∨ acked < (s.discoveryScript n identity).length) :
    discoveryDone n identity acked s
      = report (faultOf s.dev.leader ukPort n .cameraSetup) (discoveryFailed n identity acked s) := by
  have hcond : (!identityOk (slice identity 0 256) || decide (acked < (s.discoveryScript n identity).length)) = true := by
    rcases hbad with h | h
    · simp [h]
    · simp [h]
  unfold discoveryDone
  rw [if_neg (by simp [hn, hl])]
  exact if_pos hcond

theorem discoveryDone_of_good {n : Nat} {s : State} {identity : List Byte} {acked : Nat} (hn : n < 24) (hl : (s.port n).link = 2)
    (hid : identityOk (slice identity 0 256) = true) (hack : (s.discoveryScript n identity).length ≤ acked) :
    (discoveryDone n identity acked s).intake = (discoveryReady n identity acked s).intake
    ∧ (discoveryDone n identity acked s).dev = (discoveryReady n identity acked s).dev := by
  have hcond : ¬(!identityOk (slice identity 0 256) || decide (acked < (s.discoveryScript n identity).length)) = true := by
    simp [hid, hack]
  unfold discoveryDone
  rw [if_neg (by simp [hn, hl])]
  constructor
  · exact (congrArg State.intake (if_neg hcond)).trans ((postEvents_intake ..).trans (report_if_intake ..))
  · exact (congrArg State.dev (if_neg hcond)).trans
      ((postEvents_dev ..).trans (report_if_dev _ (show severity .sensorMismatch ≠ 2 by decide) _))

section
variable {n : Nat} {identity : List Byte} {acked : Nat} {s : State}

theorem discoveryScript_of_ok (h : identityOk (slice identity 0 256) = true) :
    s.discoveryScript n identity = s.portScript n := if_pos h

theorem discoveryFailed_port :
    (discoveryFailed n identity acked s).port n
      = { s.port n with link := 0, gear := 0, script := (s.discoveryScript n identity).take (acked + 1) } := by
  rw [discoveryFailed, updPort_self, scriptSent, updPort_self]

theorem discoveryReady_port :
    (discoveryReady n identity acked s).port n
      = { s.port n with link := 3, identity := slice identity 0 256, found := identityChannels (slice identity 0 256), seen := 0,
                        script := (s.discoveryScript n identity).take (acked + 1),
                        mismatch := s.refusesSerial n (wordAt (slice identity 0 256) 16) } := by
  rw [discoveryReady, port_of_ports (resyncKeys_ports ..), updPort_self, scriptSent, updPort_self]

theorem discoveryReady_keeps : Keeps 0x800 s (discoveryReady n identity acked s) :=
  ((updPort_keeps ..).trans (updPort_keeps ..)).trans (resyncKeys_keeps ..)

theorem discoveryReady_settings : SameSettings s (discoveryReady n identity acked s) :=
  ⟨discoveryReady_keeps.dev rfl, discoveryReady_keeps.img rfl, fun _ => resyncKeys_heldRoute ..⟩

/-- The sensor of every key of a READY camera port is the discovered one. -/
theorem portMismatch_of_ready {t : State} (hn : n < 24) {b : List Byte} (hlink : (t.port n).link = 3)
    (hid : (t.port n).identity = b) : t.portMismatch n = t.refusesSerial n (wordAt b 16) := by
  unfold State.portMismatch State.refusesSerial
  rw [Bool.eq_iff_iff, List.any_eq_true, List.any_eq_true]
  refine exists_congr fun i => and_congr_right fun hi => ?_
  have hsensor : t.sensor (keyOf n i) = some (wordAt b 16) := by
    simp only [State.sensor, keyOf_div (List.mem_range.1 hi), hn, hlink, hid, if_true]
  rw [hsensor]

theorem refusesSerial_congr {t : State} (h : SameSettings s t) (n : Nat) (serial : Word) :
    t.refusesSerial n serial = s.refusesSerial n serial := by simp only [State.refusesSerial, mismatched_congr h]

end

theorem failedDiscoveryStartsAgain (port : BitVec 5) (identity : List Byte) (acked : Nat) (s : State) (hup : s.intakeUp = true)
    (hn : port.toNat < 24) (hl : (s.port port.toNat).link = 2)
    (hbad : identityOk (slice identity 0 256) = false ∨ acked < (s.portScript port.toNat).length) :
    ∃ t, exec (.cameraDiscoveryDone port identity acked) s = .next t ∧ OnlyUnits [.dev, .host, .west, .east, .intake] s t
      ∧ OnlyPort port.toNat s t ∧ Reports s.dev.leader s t
      ∧ t.port port.toNat = { s.port port.toNat with
          link := 0, gear := 0,
          script := if identityOk (slice identity 0 256) = true then (s.portScript port.toNat).take (acked + 1) else [] } := by
  have hbad' : identityOk (slice identity 0 256) = false ∨ acked < (s.discoveryScript port.toNat identity).length := by
    cases hid : identityOk (slice identity 0 256)
    · exact .inl rfl
    · rw [discoveryScript_of_ok hid]; exact .inr (hbad.resolve_left (by simp [hid]))
  refine ⟨_, (intake_of_up hup : exec (.cameraDiscoveryDone port identity acked) s = _), (discoveryDone_keeps ..).units _ rfl, ?_⟩
  rw [discoveryDone_of_failed hn hl hbad']
  refine ⟨?_, ?_, ?_⟩
  · exact ((OnlyPort.updPort ..).trans (.updPort ..)).trans (.of_intake _ (report_intake ..))
  · exact (report_reports (r := faultOf ..) (show severity .cameraSetup ≠ 2 by decide) _).around
      ((HalvesKept.of_keeps (updPort_keeps ..)).trans (.of_keeps (updPort_keeps ..))) (.refl _)
  · rw [report_port, discoveryFailed_port]
    unfold State.discoveryScript
    split <;> rfl

theorem goodDiscoveryMakesReady (port : BitVec 5) (identity : List Byte) (acked : Nat) (s : State) (hup : s.intakeUp = true)
    (hn : port.toNat < 24) (hl : (s.port port.toNat).link = 2) (hid : identityOk (slice identity 0 256) = true)
    (hack : (s.portScript port.toNat).length ≤ acked) :
    ∃ t, exec (.cameraDiscoveryDone port identity acked) s = .next t ∧ OnlyUnits [.dev, .host, .west, .east, .intake] s t
      ∧ OnlyPort port.toNat s t
      ∧ t.port port.toNat = { s.port port.toNat with
          link := 3, identity := slice identity 0 256, found := identityChannels (slice identity 0 256), seen := 0,
          script := s.portScript port.toNat,
          mismatch := s.refusesSerial port.toNat (wordAt (slice identity 0 256) 16) }
      ∧ (t.port port.toNat).mismatch = t.portMismatch port.toNat
      ∧ ∀ i, i < 16 → t.key (keyOf port.toNat i) = (s.key (keyOf port.toNat i)).resynced := by
  rw [← discoveryScript_of_ok hid] at hack
  obtain ⟨hin, hdev⟩ := discoveryDone_of_good hn hl hid hack
  have hport := (port_of_intake hin port.toNat).trans discoveryReady_port
  rw [List.take_of_length_le (Nat.le_succ_of_le hack), discoveryScript_of_ok hid] at hport
  refine ⟨_, (intake_of_up hup : exec (.cameraDiscoveryDone port identity acked) s = _), (discoveryDone_keeps ..).units _ rfl, ?_,
    hport, ?_, fun i hi => ?_⟩
  · exact (((OnlyPort.updPort ..).trans (.updPort ..)).trans (resyncKeys_onlyPort _ (fun _ => List.mem_range.1) _)).trans
      (.of_intake _ hin)
  · have hsame : SameSettings s (discoveryDone port.toNat identity acked s) :=
      ⟨hdev.trans discoveryReady_settings.dev, (discoveryDone_keeps ..).img rfl,
        fun k => (congrArg Key.heldRoute (key_of_intake hin k)).trans (discoveryReady_settings.held k)⟩
    rw [portMismatch_of_ready hn (congrArg Port.link hport) (congrArg Port.identity hport), refusesSerial_congr hsame]
    exact congrArg Port.mismatch hport
  · rw [key_of_intake hin]; exact resyncKeys_key _ (List.mem_range.2 hi) _

theorem camerasAreDiscovered : CamerasAreDiscovered := by
  intro port identity acked s hup n b script
  refine ⟨fun h => ?_, fun hn hl hbad => failedDiscoveryStartsAgain port identity acked s hup hn hl hbad,
    fun hn hl hid hack => goodDiscoveryMakesReady port identity acked s hup hn hl hid hack⟩
  exact (intake_of_up hup).trans (congrArg _ (discoveryDone_of_absent h identity acked))

/-- Settles O37. -/
theorem portsAndCamerasComeAndGo : Obligations.PortsAndCamerasComeAndGo := ⟨portsComeAndGo, camerasAreDiscovered⟩

end Sys2Proof.Machine
end

section
/-! Frame rings set and committed (R233, R236, R237, R239). -/
namespace Sys2Proof.Machine

/-! ### SET_FRAME_RING (R233) -/

/-- The key that SET_FRAME_RING names. -/
def ringKey (pkt : List Word) : Nat := 16 * ((pkt.getD 1 0).toNat % 32) + (pkt.getD 1 0).toNat / 32 % 2048

/-- The buffers that SET_FRAME_RING names. -/
def ringBufs (pkt : List Word) : List Nat := (pkt.drop 2).map (·.toNat)

/-- The checks of SET_FRAME_RING before its buffers are translated. -/
def FrameRingOk (pkt : List Word) (ctx : Nat) (s : State) : Prop :=
  (pkt.getD 1 0).toNat / 32 % 2048 < 16 ∧ (pkt.getD 1 0).toNat / 65536 % 32 = pkt.length - 2 ∧ s.dev.imageValid = true
  ∧ routeValid (s.img.entry 10 (ringKey pkt)) = true ∧ routeCtx (s.img.entry 10 (ringKey pkt)) = ctx
  ∧ (∀ b ∈ ringBufs pkt, b % 64 = 0)
  ∧ s.pendingElsewhere ((pkt.getD 1 0).toNat % 32) ((pkt.getD 1 0).toNat / 32 % 2048) ctx = false
  ∧ (s.key (ringKey pkt)).commitOwed = false

/-- The translation of the buffers that SET_FRAME_RING names. -/
def ringProbe (pkt : List Word) (ctx : Nat) (s : State) : Bool × State :=
  probeBuffers ((pkt.getD 1 0).toNat % 32) ctx (rcpBytes (s.img.entry 12 (routeRecipe (s.img.entry 10 (ringKey pkt))))) (ringBufs pkt) s

theorem frameRingOk_congr {s t : State} (hdev : t.dev = s.dev) (himg : t.img = s.img) (hkey : ∀ k, t.key k = s.key k)
    (pkt : List Word) (ctx : Nat) : FrameRingOk pkt ctx t ↔ FrameRingOk pkt ctx s := by
  unfold FrameRingOk State.pendingElsewhere
  simp only [hdev, himg, hkey]

/-- The parts of the parameter word of SET_FRAME_RING. -/
theorem ringWord_parts (w : Word) :
    fld w 4 0 = w.toNat % 32 ∧ fld w 15 5 = w.toNat / 32 % 2048 ∧ fld w 20 16 = w.toNat / 65536 % 32 :=
  ⟨fld_low .., fld_eq .., fld_eq ..⟩

/-- The key that SET_FRAME_RING looks at, where its selector is in range. -/
theorem keyOf_ringWord {pkt : List Word} (h : (pkt.getD 1 0).toNat / 32 % 2048 < 16) :
    keyOf (fld (pkt.getD 1 0) 4 0) (fld (pkt.getD 1 0) 15 5 % 16) = ringKey pkt := by
  obtain ⟨hport, hsel, -⟩ := ringWord_parts (pkt.getD 1 0)
  rw [hport, hsel, Nat.mod_eq_of_lt h]; rfl

theorem setFrameRing_of_good {pkt : List Word} {t : Tagged} {s : State} (h : FrameRingOk pkt t.ctx s) :
    setFrameRing pkt t s = if (ringProbe pkt t.ctx s).1 = true then
        answer t stOk 0 0 (updKey (ringKey pkt) (fun x => { x with pending := some (t.ctx, ringBufs pkt) }) (ringProbe pkt t.ctx s).2)
      else answer t stFaultAddress 0 0 (ringProbe pkt t.ctx s).2 := by
  obtain ⟨hsel, hcount, himage, hroute, hctx, haligned, helse, howed⟩ := h
  obtain ⟨hfport, hfsel, hfcount⟩ := ringWord_parts (pkt.getD 1 0)
  unfold setFrameRing
  dsimp only
  rw [keyOf_ringWord hsel]
  refine (if_neg ?param).trans ((if_neg ?aligned).trans ((if_neg ?busy).trans ?probe))
  case param =>
    rw [hfsel, hfcount, himage, hroute]
    rintro (h | h | h | h)
    · omega
    · exact h hcount
    · exact absurd h (by decide)
    · exact h hctx
  case aligned =>
    rw [List.any_eq_true]
    rintro ⟨b, hb, hne⟩
    exact absurd hne (by rw [haligned b hb]; decide)
  case busy => rw [hfport, hfsel, helse, howed]; decide
  case probe =>
    rw [hfport]
    unfold ringProbe ringBufs
    generalize probeBuffers _ _ _ _ _ = p
    obtain ⟨_ | _, u⟩ := p <;> rfl

theorem setFrameRing_of_bad {pkt : List Word} {t : Tagged} {s : State} (h : ¬FrameRingOk pkt t.ctx s) :
    setFrameRing pkt t s = answer t stBadParam 0 0 s := by
  obtain ⟨hfport, hfsel, hfcount⟩ := ringWord_parts (pkt.getD 1 0)
  unfold setFrameRing
  dsimp only
  refine ite_eq_left_iff.2 fun hparam => ite_eq_left_iff.2 fun hbufs => ite_eq_left_iff.2 fun hbusy => absurd ?_ h
  rw [hfsel, hfcount] at hparam
  obtain ⟨hsel, hparam⟩ := not_or.1 hparam
  obtain ⟨hcount, hparam⟩ := not_or.1 hparam
  obtain ⟨himage, hctx⟩ := not_or.1 hparam
  have hkey := keyOf_ringWord (pkt := pkt) (by omega)
  rw [← hfsel, hkey, Bool.not_eq_true, Bool.not_eq_false', Bool.and_eq_true] at himage
  rw [← hfsel, hkey] at hctx
  rw [hkey, hfport, hfsel, Bool.not_eq_true, Bool.or_eq_false_iff] at hbusy
  refine ⟨by omega, not_not.1 hcount, himage.1, himage.2, not_not.1 hctx, fun b hb => ?_, hbusy.1, hbusy.2⟩
  exact not_not.1 fun hne => hbufs (List.any_eq_true.2 ⟨b, hb, bne_iff_ne.2 hne⟩)

theorem ringProbe_keeps (pkt : List Word) (ctx : Nat) (s : State) : Keeps 0x10780 s (ringProbe pkt ctx s).2 := probeBuffers_keeps ..

section
variable {ring : BitVec 5} {pkt : List Word} {s : State}

theorem taken_intake (ring : BitVec 5) (pkt : List Word) (s : State) : (taken ring pkt s).intake = s.intake :=
  (taken_keeps ..).intake rfl

theorem frameRingOk_taken (ctx : Nat) : FrameRingOk pkt ctx (taken ring pkt s) ↔ FrameRingOk pkt ctx s :=
  frameRingOk_congr (taken_dev ..) (taken_img ..) (key_of_intake (taken_intake ..)) _ _

theorem ringProbe_taken (ctx : Nat) : ringProbe pkt ctx (taken ring pkt s)
    = probeBuffers ((pkt.getD 1 0).toNat % 32) ctx (rcpBytes (s.img.entry 12 (routeRecipe (s.img.entry 10 (ringKey pkt)))))
        (ringBufs pkt) (taken ring pkt s) := by
  unfold ringProbe; rw [taken_img]

/-- A packet refused or answered after work that leaves the host interface and the time. -/
theorem answer_after {u : State} (h : Admitted 0x30 ring pkt s) (hhost : u.host = (taken ring pkt s).host)
    (htime : u.time = s.time) (status : Nat) (eff detail : Word) :
    HostKept ring s (answer (tagOf ring pkt) status eff detail u)
    ∧ Sys2Proof.Answered ring pkt 1 0 (decide (0x10 ≤ status)) s (answer (tagOf ring pkt) status eff detail u)
    ∧ (s.host.mem.wf = true → SingleReply ring pkt status eff detail s (answer (tagOf ring pkt) status eff detail u)) :=
  ⟨RingsAndMem.kept (hostKept_of_host (taken_hostKept ring pkt s) hhost) (answer_ringsAndMem ..),
   answered_answer (packetWf_length h.1) (fun n => ring_of_rings (congrArg HostIf.rings hhost) n) status eff detail,
   fun hwf => singleReply_answer hhost (congrArg Time.ts htime) hwf status eff detail⟩

theorem setFrameRing_taken (h : Admitted 0x30 ring pkt s) :
    exec (.setFrameRing ring pkt) s = .next (setFrameRing pkt (tagOf ring pkt) (taken ring pkt s)) := packet_of_admitted h

theorem frameRingIsRefused (h : Admitted 0x30 ring pkt s) (hbad : ¬FrameRingOk pkt (headOf pkt).ctx s) :
    ∃ t, exec (.setFrameRing ring pkt) s = .next t ∧ Turned 0x0013 ring pkt s t :=
  packet_turned h (by decide) (setFrameRing_of_bad (t := tagOf ring pkt) fun hok => hbad ((frameRingOk_taken _).1 hok))

theorem frameRingIsProbed (h : Admitted 0x30 ring pkt s) (hok : FrameRingOk pkt (headOf pkt).ctx s) :
    ∃ t, exec (.setFrameRing ring pkt) s = .next t
      ∧ OnlyUnits [.host, .west, .east, .seq, .mem, .intake, .recorder, .free] s t ∧ HostKept ring s t
      ∧ ((ringProbe pkt (headOf pkt).ctx (taken ring pkt s)).1 = false → t.intake = s.intake ∧ Sys2Proof.Answered ring pkt 1 0 true s t
          ∧ (s.host.mem.wf = true → SingleReply ring pkt 0x001B 0 0 s t))
      ∧ ((ringProbe pkt (headOf pkt).ctx (taken ring pkt s)).1 = true → Sys2Proof.Answered ring pkt 1 0 false s t
          ∧ (s.host.mem.wf = true → SingleReply ring pkt 0 0 0 s t)
          ∧ t.key (ringKey pkt) = { s.key (ringKey pkt) with pending := some ((headOf pkt).ctx, ringBufs pkt) }
          ∧ ∀ j, j ≠ ringKey pkt → t.key j = s.key j) := by
  have hgood := setFrameRing_of_good (t := tagOf ring pkt) ((frameRingOk_taken (ring := ring) (s := s) _).2 hok)
  have hunits : OnlyUnits [.host, .west, .east, .seq, .mem, .intake, .recorder, .free] s
      (setFrameRing pkt (tagOf ring pkt) (taken ring pkt s)) :=
    ((taken_keeps ring pkt s).up.trans ((setFrameRing_keeps ..).up (m := 0x18F90))).units _ rfl
  have hp := ringProbe_keeps pkt (headOf pkt).ctx (taken ring pkt s)
  have hkeys (j : Nat) : (ringProbe pkt (headOf pkt).ctx (taken ring pkt s)).2.key j = s.key j :=
    (key_of_intake (hp.intake rfl) j).trans (key_of_intake (taken_intake ..) j)
  refine ⟨_, setFrameRing_taken h, hunits, ?_⟩
  cases hreach : (ringProbe pkt (headOf pkt).ctx (taken ring pkt s)).1
  case false =>
    have heq := hgood.trans (if_neg (by rw [show (tagOf ring pkt).ctx = (headOf pkt).ctx from rfl, hreach]; decide))
    obtain ⟨hhost, hans, hreply⟩ := answer_after h (hp.host rfl) ((hp.time rfl).trans (taken_time ..)) stFaultAddress 0 0
    rw [heq]
    refine ⟨hhost, fun _ => ⟨?_, hans, hreply⟩, nofun⟩
    exact ((answer_keeps ..).intake rfl).trans ((hp.intake rfl).trans (taken_intake ..))
  case true =>
    have heq := hgood.trans (if_pos hreach)
    obtain ⟨hhost, hans, hreply⟩ := answer_after (u := updKey (ringKey pkt)
      (fun x => { x with pending := some ((headOf pkt).ctx, ringBufs pkt) }) _) h (hp.host rfl)
      ((hp.time rfl).trans (taken_time ..)) stOk 0 0
    rw [heq]
    refine ⟨hhost, nofun, fun _ => ⟨hans, hreply, ?_, fun j hj => ?_⟩⟩
    · rw [key_of_intake ((answer_keeps ..).intake rfl), updKey_self]
      exact congrArg (fun x : Key => { x with pending := some ((headOf pkt).ctx, ringBufs pkt) }) (hkeys _)
    · rw [key_of_intake ((answer_keeps ..).intake rfl), updKey_ne _ _ _ hj]
      exact hkeys j

end

/-! ### What a recording leaves of a replay (R365, R367) -/

/-- The mode and the entries that a replay feeds are the same. -/
structure ReplayKept (s t : State) : Prop where
  mode    : t.rec_.mode = s.rec_.mode
  fed     : t.rec_.fed = s.rec_.fed
  effects : t.rec_.effects = s.rec_.effects

theorem ReplayKept.of_rec {s t : State} (h : t.rec_ = s.rec_) : ReplayKept s t := by constructor <;> rw [h]

theorem ReplayKept.trans {s t u : State} (h : ReplayKept s t) (k : ReplayKept t u) : ReplayKept s u :=
  ⟨k.mode.trans h.mode, k.fed.trans h.fed, k.effects.trans h.effects⟩

theorem recordEntryAt_replayKept (g : Gate) (kind : Nat) (digest : Bool) (body : List Byte) (s : State) :
    ReplayKept s (recordEntryAt g kind digest body s) := by
  unfold recordEntryAt
  dsimp only
  split
  · exact .of_rec rfl
  · split
    · exact ⟨rfl, rfl, rfl⟩
    · split
      · exact ⟨rfl, rfl, rfl⟩
      · split
        · exact ⟨rfl, rfl, rfl⟩
        · exact ⟨rfl, rfl, rfl⟩

theorem taken_replayKept (ring : BitVec 5) (pkt : List Word) (s : State) : ReplayKept s (taken ring pkt s) := by
  unfold taken fetch
  dsimp only
  refine ReplayKept.trans ?_ (recordEntryAt_replayKept ..)
  split
  · exact ⟨rfl, rfl, rfl⟩
  · exact ⟨rfl, rfl, rfl⟩

/-! ### COMMIT_ROUTES (R236, R237, R239) -/

section
variable {s t : State}

/-- A commit waits on its key's sensor and decoder, the leader's path and what a replay has left. -/
theorem commitWaits_congr (hset : SameSettings s t) (hrec : ReplayKept s t) (hports : t.intake.ports = s.intake.ports) {k : Nat}
    (hlidar : (t.key k).lidar = (s.key k).lidar) (hpath : t.controlOk = s.controlOk) (g : Tagged) :
    t.commitWaits k g = s.commitWaits k g := by
  have howner := decOwner_congr hset.dev hset.img (hset.held k)
  unfold State.commitWaits State.sourcePresent State.framesToFeed State.commitNamed
  rw [howner, hpath, hlidar, port_of_ports hports, hrec.mode, hrec.fed, hrec.effects]

end

/-- The first key of a port with a pending ring of the context, and the ring. -/
def State.pendingRing (s : State) (port ctx : Nat) : Option (Nat × List Nat) :=
  (List.range 16).findSome? fun i => (s.key (keyOf port i)).pending.bind fun p =>
    if p.1 = ctx then some (keyOf port i, p.2) else none

/-- A key of a port holds no pending ring of a context. -/
theorem pendingOf_eq_none {s : State} {k ctx : Nat} (h : ¬∃ b, (s.key k).pending = some (ctx, b)) :
    ((s.key k).pending.bind fun p => if p.1 = ctx then some (k, p.2) else none) = none := by
  cases hp : (s.key k).pending with
  | none => rfl
  | some p =>
    obtain ⟨c, b⟩ := p
    refine if_neg ?_
    rintro rfl
    exact h ⟨b, hp⟩

theorem pendingRing_eq_none {s : State} {port ctx : Nat}
    (h : ∀ i, i < 16 → ¬∃ b, (s.key (keyOf port i)).pending = some (ctx, b)) : s.pendingRing port ctx = none :=
  List.findSome?_eq_none_iff.2 fun i hi => pendingOf_eq_none (h i (List.mem_range.1 hi))

/-- The lowest selector's ring is the one that commits (R237). -/
theorem pendingRing_eq_some {s : State} {port ctx i : Nat} {bufs : List Nat} (hi : i < 16)
    (hp : (s.key (keyOf port i)).pending = some (ctx, bufs))
    (hlow : ∀ j, j < i → ¬∃ b, (s.key (keyOf port j)).pending = some (ctx, b)) :
    s.pendingRing port ctx = some (keyOf port i, bufs) := by
  have hsplit : List.range 16 = List.range i ++ i :: (List.range (15 - i)).map fun j => i + (j + 1) := by
    rw [show 16 = i + ((15 - i) + 1) by omega, List.range_add, List.range_succ_eq_map]
    simp
  refine List.findSome?_eq_some_iff.2 ⟨_, i, _, hsplit, ?_, fun j hj => pendingOf_eq_none (hlow j (List.mem_range.1 hj))⟩
  rw [hp]
  exact if_pos rfl

theorem pendingRing_congr {s t : State} (h : ∀ k, t.key k = s.key k) (port ctx : Nat) :
    t.pendingRing port ctx = s.pendingRing port ctx := by
  unfold State.pendingRing; simp only [h]

section
variable {ring : BitVec 5} {pkt : List Word} {s : State}

theorem accepted_keeps (ring : BitVec 5) (pkt : List Word) (first : Word) (s : State) : Keeps 0x8010 s (accepted ring pkt first s) :=
  (taken_keeps ring pkt s).trans (accept_keeps ..).up

/-- A state in which a packet has been accepted: only the host interface and the recorder have changed, the latter not for a
replay. -/
structure PacketOut (s u : State) : Prop where
  keeps  : Keeps 0x8010 s u
  replay : ReplayKept s u

theorem PacketOut.key {u : State} (h : PacketOut s u) (k : Nat) : u.key k = s.key k := key_of_intake (h.keeps.intake rfl) k

theorem accepted_out (ring : BitVec 5) (pkt : List Word) (first : Word) (s : State) : PacketOut s (accepted ring pkt first s) where
  keeps := accepted_keeps ..
  replay := (taken_replayKept ring pkt s).trans (.of_rec ((accept_keeps (tagOf ring pkt) first (taken ring pkt s)).rec_ rfl))

/-- The port of COMMIT_ROUTES. -/
def commitPort (pkt : List Word) : Nat := (pkt.getD 1 0).toNat % 32

end

/-! ### The control write of a commit (R20) -/

theorem controlWrite_of_up {s : State} (h : s.controlOk = true) : controlWrite s = s := if_pos h

theorem controlWrite_of_down {s : State} (h : s.controlOk = false) : controlWrite s =
    updHalf s.dev.leader.other (fun u => { u with ctrlDropped := satAdd 0xFFFF u.ctrlDropped 1 }) s := if_neg (by rw [h]; decide)

@[simp] theorem controlWrite_host (s : State) : (controlWrite s).host = s.host := by
  unfold controlWrite; split <;> simp
@[simp] theorem controlWrite_rec_ (s : State) : (controlWrite s).rec_ = s.rec_ := by
  unfold controlWrite; split <;> simp
@[simp] theorem controlWrite_intake (s : State) : (controlWrite s).intake = s.intake := by
  unfold controlWrite; split <;> simp

theorem half_other_other (h : Half) : h.other.other = h := by cases h <;> rfl

/-- A half whose control write was dropped. -/
def HalfUnit.dropsControl (u : HalfUnit) : HalfUnit := { u with ctrlDropped := min 0xFFFF (u.ctrlDropped + 1) }

/-- A dropped control write counts in the half that does not lead, and the leading half stands. -/
theorem controlWrite_half (s : State) : (controlWrite s).half s.dev.leader = s.half s.dev.leader
    ∧ (controlWrite s).half s.dev.leader.other
      = if s.controlOk = true then s.half s.dev.leader.other else (s.half s.dev.leader.other).dropsControl := by
  cases h : s.controlOk
  · rw [controlWrite_of_down h, updHalf_self]
    refine ⟨?_, rfl⟩
    have hother := updHalf_other s.dev.leader.other (fun u => { u with ctrlDropped := satAdd 0xFFFF u.ctrlDropped 1 }) s
    rwa [half_other_other] at hother
  · rw [controlWrite_of_up h]
    exact ⟨rfl, rfl⟩

theorem controlWrite_pathOk (s : State) : HalvesKept HalfUnit.pathOk s (controlWrite s) := by
  unfold controlWrite
  split
  · exact .refl s
  · exact .updHalf _ _ s fun _ => rfl

/-- The control write of a commit, its ring no longer pending. -/
def commitSent (k : Nat) (u : State) : State := controlWrite (updKey k (fun x => { x with pending := none }) u)

section
variable {s u : State}

theorem commitSent_keeps (k : Nat) (u : State) : Keeps 0x980 u (commitSent k u) :=
  (updKey_keeps ..).up.trans (controlWrite_keeps ..).up

theorem commitSent_host (k : Nat) (u : State) : (commitSent k u).host = u.host := controlWrite_host _
theorem commitSent_rec (k : Nat) (u : State) : (commitSent k u).rec_ = u.rec_ := controlWrite_rec_ _

theorem commitSent_ports (k : Nat) (u : State) : (commitSent k u).intake.ports = u.intake.ports := by
  rw [commitSent, controlWrite_intake, updKey_intake_ports]

theorem commitSent_self (k : Nat) (u : State) : (commitSent k u).key k = { u.key k with pending := none } := by
  rw [commitSent, key_of_intake (controlWrite_intake _), updKey_self]

theorem commitSent_ne {k j : Nat} (h : j ≠ k) (u : State) : (commitSent k u).key j = u.key j := by
  rw [commitSent, key_of_intake (controlWrite_intake _), updKey_ne _ _ _ h]

theorem commitSent_pathOk (k : Nat) (u : State) : HalvesKept HalfUnit.pathOk u (commitSent k u) :=
  (HalvesKept.of_keeps (updKey_keeps ..)).trans (controlWrite_pathOk _)

theorem commitSent_halves (h : PacketOut s u) (k : Nat) : (commitSent k u).half s.dev.leader = s.half s.dev.leader
    ∧ (commitSent k u).half s.dev.leader.other
      = if s.controlOk = true then s.half s.dev.leader.other else (s.half s.dev.leader.other).dropsControl := by
  have hv : Keeps 0x8810 s (updKey k (fun x => { x with pending := none }) u) := h.keeps.up.trans (updKey_keeps ..).up
  have hhalf := hv.half rfl rfl
  have hcontrol := controlOk_congr (hv.dev rfl) fun x => congrArg HalfUnit.pathOk (hhalf x)
  have hsent := controlWrite_half (updKey k (fun x => { x with pending := none }) u)
  rw [hv.dev rfl, hcontrol, hhalf, hhalf] at hsent
  exact hsent

theorem commitSent_waits (h : PacketOut s u) (k : Nat) (g : Tagged) : (commitSent k u).commitWaits k g = s.commitWaits k g := by
  have hk := commitSent_keeps k u
  have hpath : HalvesKept HalfUnit.pathOk s (commitSent k u) := (HalvesKept.of_keeps h.keeps).trans (commitSent_pathOk k u)
  refine commitWaits_congr ⟨hpath.dev, (hk.img rfl).trans (h.keeps.img rfl), fun j => ?_⟩
    (h.replay.trans (.of_rec (commitSent_rec k u))) ((commitSent_ports k u).trans (congrArg Intake.ports (h.keeps.intake rfl))) ?_
    (controlOk_congr hpath.dev hpath.half) g
  · by_cases hj : j = k
    · rw [hj, commitSent_self, h.key]
    · rw [commitSent_ne hj, h.key]
  · rw [commitSent_self, h.key]

/-! ### What a commit leaves (R236, R239) -/

/-- The commit that COMMIT_ROUTES leaves waiting, with the packets fetched until then. -/
def commitOf (g : Tagged) (fetches : Nat) : Commit := ⟨g.ring, g.tag, g.ctx, g.hoop, fetches⟩

/-- A commit that waits for the key's next frame start. -/
def commitWaiting (g : Tagged) (k : Nat) (bufs : List Nat) (u : State) : State :=
  updKey k (fun x => { x with commit := some (commitOf g u.rec_.fetches, bufs) }) (commitSent k u)

/-- A ring in force without a frame start. -/
def ringTaken (ctx k : Nat) (bufs : List Nat) (u : State) : State := takeRing k ctx bufs (commitSent k u)

/-- A commit that ends at once: its ring in force, and its final reply. -/
def commitEnded (g : Tagged) (k : Nat) (bufs : List Nat) (u : State) : State :=
  replyFinal g stOk 0 (w64 (k % 16 + 64)) (ringTaken g.ctx k bufs u)

theorem commitRoutes_of_pending {pkt : List Word} {g : Tagged} {v : State} (hout : PacketOut s (accept g 0 v)) :
    commitRoutes pkt g v =
      match s.pendingRing (commitPort pkt) g.ctx with
      | none => replyFinal g stOk 0 (w64 16) (accept g 0 v)
      | some (k, bufs) =>
        if s.commitWaits k g = true then commitWaiting g k bufs (accept g 0 v) else commitEnded g k bufs (accept g 0 v) := by
  rw [← pendingRing_congr hout.key]
  unfold commitRoutes
  dsimp only
  rw [show fld (pkt.getD 1 0) 4 0 = commitPort pkt from fld_low ..]
  generalize accept g 0 v = u at hout
  change (match u.pendingRing (commitPort pkt) g.ctx with
    | none => _
    | some (k, bufs) => _) = _
  cases u.pendingRing (commitPort pkt) g.ctx with
  | none => rfl
  | some p =>
    obtain ⟨k, bufs⟩ := p
    refine if_congr (by rw [← commitSent_waits hout]; rfl) ?_ rfl
    rw [commitWaiting, ← commitSent_rec k u]
    rfl

theorem RingsAndMem.of_host {t : State} (h : t.host = s.host) : RingsAndMem s t := by
  unfold RingsAndMem; rw [h]

/-- What COMMIT_ROUTES leaves whether or not its commit waits. -/
structure CommitTaken (k : Nat) (u t : State) : Prop where
  keeps  : Keeps 0x990 u t
  host   : RingsAndMem u t
  others : ∀ j, j ≠ k → t.key j = u.key j
  halves : ∀ h, t.half h = (commitSent k u).half h

theorem commitWaiting_taken (g : Tagged) (k : Nat) (bufs : List Nat) (u : State) : CommitTaken k u (commitWaiting g k bufs u) where
  keeps := (commitSent_keeps k u).up.trans (updKey_keeps ..).up
  host := .of_host (commitSent_host k u)
  others _ hj := (updKey_ne _ _ _ hj).trans (commitSent_ne hj u)
  halves _ := updKey_half ..

theorem ringTaken_keeps (ctx k : Nat) (bufs : List Nat) (u : State) : Keeps 0x980 u (ringTaken ctx k bufs u) :=
  (commitSent_keeps k u).trans (takeRing_keeps ..).up

theorem ringTaken_host (ctx k : Nat) (bufs : List Nat) (u : State) : (ringTaken ctx k bufs u).host = u.host := commitSent_host k u

theorem ringTaken_ne {k j : Nat} (h : j ≠ k) (ctx : Nat) (bufs : List Nat) (u : State) :
    (ringTaken ctx k bufs u).key j = u.key j := (updKey_ne _ _ _ h).trans (commitSent_ne h u)

theorem ringTaken_self (ctx k : Nat) (bufs : List Nat) (u : State) : (ringTaken ctx k bufs u).key k =
    { u.key k with pending := none, ring := bufs, ringCtx := ctx, ringGen := ((u.key k).ringGen + 1) % 65536, since := 0 } := by
  rw [ringTaken, takeRing, updKey_self, commitSent_self]

theorem commitEnded_key (g : Tagged) (k : Nat) (bufs : List Nat) (u : State) (j : Nat) :
    (commitEnded g k bufs u).key j = (ringTaken g.ctx k bufs u).key j := key_of_intake ((replyFinal_keeps ..).intake rfl) j

theorem commitEnded_taken (g : Tagged) (k : Nat) (bufs : List Nat) (u : State) : CommitTaken k u (commitEnded g k bufs u) where
  keeps := (ringTaken_keeps g.ctx k bufs u).up.trans (replyFinal_keeps ..).up
  host := RingsAndMem.trans (.of_host (ringTaken_host ..)) (replyFinal_ringsAndMem ..)
  others _ hj := (commitEnded_key ..).trans (ringTaken_ne hj ..)
  halves h := ((replyFinal_keeps ..).half rfl rfl h).trans (updKey_half ..)

theorem commitWaiting_self (g : Tagged) (k : Nat) (bufs : List Nat) (u : State) : (commitWaiting g k bufs u).key k =
    { u.key k with pending := none, commit := some (commitOf g (commitWaiting g k bufs u).rec_.fetches, bufs) } := by
  have hfetches : (commitWaiting g k bufs u).rec_ = u.rec_ := commitSent_rec k u
  rw [hfetches, commitWaiting, updKey_self, commitSent_self]

end

section
variable {ring : BitVec 5} {pkt : List Word} {s : State}

/-- The two replies of an accepted packet, whatever else but the host interface and the time changed between them. -/
theorem twoReplies_after {u : State} (hhost : u.host = (accepted ring pkt 0 s).host) (htime : u.time = s.time)
    (hwf : s.host.mem.wf = true) (status : Nat) (eff detail : Word) :
    TwoReplies ring pkt 0 status eff detail 0 [] s (replyFinal (tagOf ring pkt) status eff detail u) := by
  have hat : AtRecord ring 1 s u := (accepted_atRecord ring pkt 0 s).of_host (by rw [hhost]) (by rw [hhost])
    (by rw [htime, accepted_time])
  have hring : ∀ n, u.ring n = (accepted ring pkt 0 s).ring n := fun n => ring_of_rings (congrArg HostIf.rings hhost) n
  have hmem : (replyFinal (tagOf ring pkt) status eff detail u).host.mem
      = (replyFinal (tagOf ring pkt) status eff detail (accepted ring pkt 0 s)).host.mem := by
    rw [hat.replyFinal_mem, (accepted_atRecord ring pkt 0 s).replyFinal_mem, hhost, replyFinal_ring, replyFinal_ring, hring]
  have htwo := twoReplies_final (ring := ring) (pkt := pkt) hwf 0 status eff detail 0 []
  rw [hostWrite_nil] at htwo
  unfold TwoReplies at htwo ⊢
  rwa [hmem]

theorem commitIsDiscarded (h : Admitted 0x31 ring pkt s)
    (hnone : ∀ i, i < 16 → ¬∃ b, (s.key (keyOf (commitPort pkt) i)).pending = some ((headOf pkt).ctx, b)) :
    ∃ t, exec (.commitRoutes ring pkt) s = .next t ∧ AcceptedAndEnded 0 0 0 16 ring pkt s t := by
  refine ⟨_, (packet_of_admitted h : exec (.commitRoutes ring pkt) s = _), ?_⟩
  rw [commitRoutes_of_pending (g := tagOf ring pkt) (accepted_out ring pkt 0 s), show (tagOf ring pkt).ctx = (headOf pkt).ctx from rfl,
    pendingRing_eq_none hnone]
  exact acceptedAndEnded_final (packetWf_length h.1) 0 stOk 0 (w64 16)

/-- The state after COMMIT_ROUTES of a pending ring. -/
def ringCommitted (ring : BitVec 5) (pkt : List Word) (k : Nat) (bufs : List Nat) (s : State) : State :=
  if s.commitWaits k (tagOf ring pkt) = true then commitWaiting (tagOf ring pkt) k bufs (accepted ring pkt 0 s)
  else commitEnded (tagOf ring pkt) k bufs (accepted ring pkt 0 s)

theorem commitIsTaken (h : Admitted 0x31 ring pkt s) {i : Nat} {bufs : List Nat} (hi : i < 16)
    (hp : (s.key (keyOf (commitPort pkt) i)).pending = some ((headOf pkt).ctx, bufs))
    (hlow : ∀ j, j < i → ¬∃ b, (s.key (keyOf (commitPort pkt) j)).pending = some ((headOf pkt).ctx, b)) :
    exec (.commitRoutes ring pkt) s = .next (ringCommitted ring pkt (keyOf (commitPort pkt) i) bufs s) := by
  refine (packet_of_admitted h : exec (.commitRoutes ring pkt) s = _).trans (congrArg _ ?_)
  rw [commitRoutes_of_pending (g := tagOf ring pkt) (accepted_out ring pkt 0 s), show (tagOf ring pkt).ctx = (headOf pkt).ctx from rfl,
    pendingRing_eq_some hi hp hlow]
  rfl

theorem ringCommitted_taken (k : Nat) (bufs : List Nat) :
    CommitTaken k (accepted ring pkt 0 s) (ringCommitted ring pkt k bufs s) := by
  unfold ringCommitted
  split
  · exact commitWaiting_taken ..
  · exact commitEnded_taken ..

theorem ringCommitted_of_waits {k : Nat} (hlen : (headOf pkt).length = pkt.length)
    (hwaits : s.commitWaits k (tagOf ring pkt) = true) (bufs : List Nat) :
    Sys2Proof.Answered ring pkt 1 1 false s (ringCommitted ring pkt k bufs s)
    ∧ (ringCommitted ring pkt k bufs s).key k = { s.key k with
        pending := none, commit := some (commitOf (tagOf ring pkt) (ringCommitted ring pkt k bufs s).rec_.fetches, bufs) } := by
  rw [ringCommitted, if_pos hwaits]
  refine ⟨answered_accept hlen 0 fun n => ring_of_rings (congrArg HostIf.rings (commitSent_host k _)) n, ?_⟩
  rw [commitWaiting_self, (accepted_out ring pkt 0 s).key]

theorem ringCommitted_of_ends {k : Nat} (hlen : (headOf pkt).length = pkt.length)
    (hwaits : s.commitWaits k (tagOf ring pkt) = false) (bufs : List Nat) :
    Sys2Proof.Answered ring pkt 2 0 false s (ringCommitted ring pkt k bufs s)
    ∧ (s.host.mem.wf = true → TwoReplies ring pkt 0 0 0 (BitVec.ofNat 64 (k % 16 + 64)) 0 [] s (ringCommitted ring pkt k bufs s))
    ∧ (ringCommitted ring pkt k bufs s).key k = { s.key k with
        pending := none, ring := bufs, ringCtx := (headOf pkt).ctx, ringGen := ((s.key k).ringGen + 1) % 65536, since := 0 } := by
  rw [ringCommitted, if_neg (by rw [hwaits]; decide)]
  have hhost := ringTaken_host (headOf pkt).ctx k bufs (accepted ring pkt 0 s)
  refine ⟨?_, fun hwf => ?_, ?_⟩
  · exact answered_final hlen (fun n => ring_of_rings (congrArg HostIf.rings hhost) n) stOk 0 (w64 (k % 16 + 64))
  · exact twoReplies_after hhost (((ringTaken_keeps ..).time rfl).trans (accepted_time ..)) hwf stOk 0 (w64 (k % 16 + 64))
  · rw [commitEnded_key, ringTaken_self, (accepted_out ring pkt 0 s).key]
    rfl

theorem commitsWaitForAFrame (h : Admitted 0x31 ring pkt s) {i : Nat} {bufs : List Nat} (hi : i < 16)
    (hp : (s.key (keyOf (commitPort pkt) i)).pending = some ((headOf pkt).ctx, bufs))
    (hlow : ∀ j, j < i → ¬∃ b, (s.key (keyOf (commitPort pkt) j)).pending = some ((headOf pkt).ctx, b)) :
    ∃ t, exec (.commitRoutes ring pkt) s = .next t ∧ OnlyUnits [.host, .west, .east, .intake, .recorder] s t
      ∧ HostKept ring s t ∧ (∀ j, j ≠ keyOf (commitPort pkt) i → t.key j = s.key j)
      ∧ t.half s.dev.leader = s.half s.dev.leader
      ∧ t.half s.dev.leader.other
        = (if s.controlOk = true then s.half s.dev.leader.other else (s.half s.dev.leader.other).dropsControl)
      ∧ t = ringCommitted ring pkt (keyOf (commitPort pkt) i) bufs s := by
  have hexec := commitIsTaken h hi hp hlow
  have hout := accepted_out ring pkt 0 s
  have htaken := ringCommitted_taken (ring := ring) (pkt := pkt) (s := s) (keyOf (commitPort pkt) i) bufs
  generalize keyOf (commitPort pkt) i = k at hexec htaken ⊢
  obtain ⟨hleader, hother⟩ := commitSent_halves hout k
  have hkeeps : Keeps 0x8990 s (ringCommitted ring pkt k bufs s) := hout.keeps.up.trans htaken.keeps.up
  exact ⟨_, hexec, hkeeps.units _ rfl, RingsAndMem.kept (accepted_hostKept ring pkt 0 s) htaken.host,
    fun j hj => (htaken.others j hj).trans (hout.key j), (htaken.halves _).trans hleader, (htaken.halves _).trans hother, rfl⟩

end

/-- Settles O15, one theorem for each of its cases. -/
theorem frameRingsWaitForAFrame : Obligations.FrameRingsWaitForAFrame := by
  intro ring pkt s
  refine ⟨fun h => ?_, fun h => ⟨fun hnone => commitIsDiscarded h hnone, fun i bufs hi hp hlow => ?_⟩⟩
  · intro w port sel k route bufs ok reach
    refine ⟨fun hbad => frameRingIsRefused h hbad, fun hok => ?_⟩
    obtain ⟨t, hexec, hunits, hhost, hmiss, hhit⟩ := frameRingIsProbed h hok
    rw [ringProbe_taken] at hmiss hhit
    exact ⟨t, hexec, hunits, hhost, hmiss, hhit⟩
  · obtain ⟨t, hexec, hunits, hhost, hothers, hleader, hother, rfl⟩ := commitsWaitForAFrame h hi hp hlow
    exact ⟨_, hexec, hunits, hhost, hothers, hleader, hother, fun hwaits => ringCommitted_of_waits (packetWf_length h.1) hwaits bufs,
      fun hends => ringCommitted_of_ends (packetWf_length h.1) hends bufs⟩

end Sys2Proof.Machine
end

section
/-! What a unit's reads and writes in a context leave: the halves but for their counters of translations, the knots and the ring
pages (R62, R181 to R187). -/
namespace Sys2Proof.Machine

/-- A half without its counters of translations. -/
def HalfUnit.accessed (u : HalfUnit) : HalfUnit := { u with xlatCtr := [] }

/-- Knots and ring pages are the same, and the halves but for their counters of translations. -/
structure AccessKept (s t : State) : Prop extends HalvesKept HalfUnit.accessed s t where
  knots : t.seq.knots = s.seq.knots
  rings : t.host.rings = s.host.rings

section
variable {s t u : State}

theorem AccessKept.refl (s : State) : AccessKept s s := ⟨.refl s, rfl, rfl⟩

theorem AccessKept.trans (h : AccessKept s t) (k : AccessKept t u) : AccessKept s u :=
  ⟨h.toHalvesKept.trans k.toHalvesKept, k.knots.trans h.knots, k.rings.trans h.rings⟩

theorem AccessKept.of_eq (hdev : t.dev = s.dev) (hwest : t.west = s.west) (heast : t.east = s.east)
    (hknots : t.seq.knots = s.seq.knots) (hrings : t.host.rings = s.host.rings) : AccessKept s t :=
  ⟨.of_eq hdev hwest heast, hknots, hrings⟩

theorem AccessKept.of_keeps {m : Nat} (k : Keeps m s t) (h3 : m.testBit 3 = false := by rfl) (h4 : m.testBit 4 = false := by rfl)
    (h7 : m.testBit 7 = false := by rfl) (h8 : m.testBit 8 = false := by rfl) (h9 : m.testBit 9 = false := by rfl) :
    AccessKept s t := .of_eq (k.dev h3) (k.west h7) (k.east h8) (congrArg Seq.knots (k.seq h9)) (congrArg HostIf.rings (k.host h4))

theorem AccessKept.ite {c : Prop} [Decidable c] (h : AccessKept s t) (k : AccessKept s u) : AccessKept s (if c then t else u) := by
  split <;> assumption

theorem AccessKept.of_pair {α : Type} {p : α × State} {a : α} (h : p = (a, t)) (k : AccessKept s p.2) : AccessKept s t := by
  subst h; exact k

theorem AccessKept.forEach {α : Type} {l : List α} {f : α → State → State} (hf : ∀ a t, AccessKept t (f a t)) (s : State) :
    AccessKept s (forEach l f s) := forEach_invariant (P := AccessKept s) (fun a t h => h.trans (hf a t)) l s (.refl s)

theorem AccessKept.fgCtr (h : AccessKept s t) : HalvesKept HalfUnit.fgCtr s t :=
  ⟨h.dev, fun x => (congrArg HalfUnit.fgCtr (h.half x) : _)⟩

theorem AccessKept.pathOk (h : AccessKept s t) : HalvesKept HalfUnit.pathOk s t :=
  ⟨h.dev, fun x => (congrArg HalfUnit.pathOk (h.half x) : _)⟩

end

theorem bumpXlat_accessKept (h : Half) (w k : Nat) (s : State) : AccessKept s (bumpXlat h w k s) :=
  ⟨.updHalf h _ s fun _ => rfl, congrArg Seq.knots (updHalf_seq ..), congrArg HostIf.rings (updHalf_host ..)⟩

theorem setCache_accessKept (u : CacheUnit) (c : List Leaf) (s : State) : AccessKept s (setCache u c s) := by
  cases u <;> exact .of_eq rfl rfl rfl rfl rfl

theorem fresh_accessKept (s : State) : AccessKept s (fresh s).2 := .of_keeps (fresh_keeps s)

theorem cacheInsert_accessKept (u : CacheUnit) (l : Leaf) (s : State) : AccessKept s (cacheInsert u l s) :=
  .ite (setCache_accessKept ..) ((fresh_accessKept s).trans (setCache_accessKept ..))

theorem countAccess_accessKept (write : Bool) (a n : Nat) (s : State) : AccessKept s (countAccess write a n s) :=
  .of_keeps (countAccess_keeps ..)

theorem countWalk_accessKept (r : Reader) (ctx va : Nat) (s : State) : AccessKept s (countWalk r ctx va s) :=
  ((fresh_accessKept s).trans (bumpXlat_accessKept ..)).trans (.forEach (fun _ _ => countAccess_accessKept ..) _)

theorem walkFor_accessKept (r : Reader) (ctx va : Nat) (write : Bool) (s : State) : AccessKept s (walkFor r ctx va write s).2 := by
  have hwalk := countWalk_accessKept r ctx va s
  unfold walkFor
  dsimp only
  split
  · exact hwalk.trans (bumpXlat_accessKept ..)
  · split
    · exact hwalk.trans (bumpXlat_accessKept ..)
    · split
      · exact hwalk.trans (cacheInsert_accessKept ..)
      · exact hwalk

theorem translate_accessKept (r : Reader) (ctx va : Nat) (write : Bool) (s : State) : AccessKept s (translate r ctx va write s).2 := by
  unfold translate
  split
  · exact walkFor_accessKept ..
  · split
    · split
      · exact .refl s
      · exact bumpXlat_accessKept ..
    · exact (bumpXlat_accessKept ..).trans (walkFor_accessKept ..)

theorem noteUnmapped_accessKept (r : Reader) (c : FaultClass) (s : State) : AccessKept s (noteUnmapped r c s) :=
  .ite (bumpXlat_accessKept ..) (.refl s)

theorem readPieces_accessKept (r : Reader) (ctx : Nat) (l : List (Nat × Nat)) (s : State) : AccessKept s (readPieces r ctx l s).2 := by
  induction l generalizing s with
  | nil => exact .refl s
  | cons x l ih =>
    unfold readPieces
    have htrans := translate_accessKept r ctx x.1 false s
    split
    · exact .of_pair ‹_› htrans
    · next pa s1 heq =>
      have h2 : AccessKept s (fresh s1).2 := (AccessKept.of_pair heq htrans).trans (fresh_accessKept s1)
      dsimp only
      split
      · exact h2.trans (noteUnmapped_accessKept ..)
      · have hrest := (h2.trans (countAccess_accessKept ..)).trans (ih (countAccess false pa x.2 (fresh s1).2))
        split
        · exact .of_pair ‹_› hrest
        · exact .of_pair ‹_› hrest

theorem vread_accessKept (r : Reader) (ctx va n : Nat) (s : State) : AccessKept s (vread r ctx va n s).2 := readPieces_accessKept ..

theorem putLoc_accessKept (l : Loc) (b : Byte) (s : State) : AccessKept s (putLoc l b s) := by
  cases l with
  | dram c co => exact .of_keeps (putDram_keeps c co [b] s)
  | shared | host | fire => exact .of_eq rfl rfl rfl rfl rfl

theorem physWrite_accessKept (a : Nat) (bs : List Byte) (s : State) : AccessKept s (physWrite a bs s).2 := by
  induction bs generalizing a s with
  | nil => exact .refl s
  | cons b bs ih =>
    unfold physWrite
    split
    · exact .refl s
    · exact (putLoc_accessKept ..).trans (ih ..)

theorem writePieces_accessKept (r : Reader) (ctx : Nat) (l : List (Nat × Nat)) (bs : List Byte) (s : State) :
    AccessKept s (writePieces r ctx l bs s).2 := by
  induction l generalizing bs s with
  | nil => exact .refl s
  | cons x l ih =>
    unfold writePieces
    have htrans := translate_accessKept r ctx x.1 true s
    split
    · exact .of_pair ‹_› htrans
    · next pa s1 heq =>
      have hput := ((AccessKept.of_pair heq htrans).trans (countAccess_accessKept true pa x.2 s1)).trans
        (physWrite_accessKept pa (bs.take x.2) _)
      split
      · next hres => exact (AccessKept.of_pair hres hput).trans (noteUnmapped_accessKept ..)
      · next hres => exact (AccessKept.of_pair hres hput).trans (ih ..)

theorem vwrite_accessKept (r : Reader) (ctx va : Nat) (bs : List Byte) (s : State) : AccessKept s (vwrite r ctx va bs s).2 :=
  writePieces_accessKept ..

end Sys2Proof.Machine
end

section
/-! Frames that complete: the record, the counters, the knot and the replies that waited (R234, R235, R239, R242, R255). -/
namespace Sys2Proof.Machine

/-! ### A write into a frame buffer (R235) -/

/-- The write of a frame's bytes through its port's cache. -/
def portWrite (k ctx va : Nat) (bs : List Byte) (s : State) : Except FaultClass Unit × State :=
  vwrite (.unit (.port (BitVec.ofNat 5 (k / 16)))) ctx va bs s

theorem bufWrite_eq (k ctx va : Nat) (bs : List Byte) (s : State) :
    bufWrite k ctx va bs s = ((portWrite k ctx va bs s).1.isOk,
      if (portWrite k ctx va bs s).1.isOk = true then bumpPort (k / 16) 7 bs.length (portWrite k ctx va bs s).2
      else (portWrite k ctx va bs s).2) := by
  unfold bufWrite portWrite
  generalize vwrite _ ctx va bs s = p
  obtain ⟨_ | _, u⟩ := p <;> rfl

theorem bufWrite_accessKept (k ctx va : Nat) (bs : List Byte) (s : State) : AccessKept s (bufWrite k ctx va bs s).2 := by
  rw [bufWrite_eq]
  exact .ite ((vwrite_accessKept ..).trans (.of_keeps (bumpPort_keeps ..))) (vwrite_accessKept ..)

theorem portWrite_intake (k ctx va : Nat) (bs : List Byte) (s : State) : (portWrite k ctx va bs s).2.intake = s.intake :=
  (vwrite_keeps ..).intake rfl

/-- A write counts its bytes in the port, and leaves the rest of the intake. -/
theorem bufWrite_intake (k ctx va : Nat) (bs : List Byte) (s : State) :
    (bufWrite k ctx va bs s).2.intake
      = if (portWrite k ctx va bs s).1.isOk = true then (bumpPort (k / 16) 7 bs.length s).intake else s.intake := by
  rw [bufWrite_eq]
  split
  · unfold bumpPort updPort; rw [portWrite_intake]
  · exact portWrite_intake ..

theorem bufWrite_keys (k ctx va : Nat) (bs : List Byte) (s : State) :
    (bufWrite k ctx va bs s).2.intake.keys = s.intake.keys := by
  rw [bufWrite_intake]; split <;> rfl

theorem bufWrite_decoders (k ctx va : Nat) (bs : List Byte) (s : State) :
    (bufWrite k ctx va bs s).2.intake.decoders = s.intake.decoders := by
  rw [bufWrite_intake]; split <;> rfl

/-- BYTES_WRITTEN is the one counter that a write changes. -/
theorem bufWrite_portCount (k ctx va : Nat) (bs : List Byte) (s : State) (n : Nat) {w : Nat} (hw : w ≠ 7) :
    (bufWrite k ctx va bs s).2.portCount n w = s.portCount n w := by
  have h := bufWrite_intake k ctx va bs s
  by_cases hok : (portWrite k ctx va bs s).1.isOk = true
  · rw [if_pos hok] at h
    rw [State.portCount, port_of_intake h]
    by_cases hn : n = k / 16
    · rw [hn]; exact bumpPort_portCount_ne _ _ hw s
    · rw [bumpPort, updPort_ne _ _ _ hn]; rfl
  · rw [if_neg hok] at h
    rw [State.portCount, port_of_intake h]; rfl

theorem bufWrite_mem (k ctx va : Nat) (bs : List Byte) (s : State) :
    (bufWrite k ctx va bs s).2.mem = (portWrite k ctx va bs s).2.mem := by
  rw [bufWrite_eq]
  dsimp only
  split <;> rfl

/-! ### The steps of a completion (R235, R239) -/

/-- The frame whose device memory reported an uncorrectable error. -/
def Frame.faulted (f : Frame) (ecc : Ecc) : Frame :=
  if ecc = .uncorrectable ∧ f.fed.isNone then { f with flags := f.flags ||| ffWrite } else f

/-- The frame whose record was written, or could not be. -/
def Frame.recorded (f : Frame) (ok : Bool) : Frame := if ok ∨ f.fed.isSome then f else { f with flags := f.flags ||| ffWrite }

/-- The write of a frame's COMPLETE record. -/
def recordWrite (k : Nat) (f : Frame) (s : State) : Bool × State :=
  bufWrite k f.ctx (f.buffer + (rcpBytes f.recipe - 64)) (f.complete s.now) s

/-- FRAMES, and E2E_FAIL with its report where a check failed. -/
def countFrame (k : Nat) (f : Frame) (s : State) : State :=
  let s := bumpPort (k / 16) 1 1 s
  if f.flags &&& (2047 - ffResync) = 0 then s
  else report { faultOf s.dev.leader ukPort (k / 16) .e2eFail with
    ctx := f.ctx, d0 := w64 (k / 16 + at_ 5 (k % 16)), d1 := w64 f.flags, frame := f.counter.getD 0 } (bumpPort (k / 16) 2 1 s)

/-- The knot of a frame, and the runs that it calls for. -/
def postFrame (k : Nat) (f : Frame) (rec_ : List Byte) (s : State) : State :=
  match f.knot with
  | none => s
  | some v => pilotRuns k f rec_ (setKnot (routeKnot f.route) v s)

theorem finishFrame_eq (k : Nat) (ecc : Ecc) (f : Frame) (s : State) :
    finishFrame k ecc f s
      = let f0 := f.faulted ecc
        let f1 := f0.recorded (recordWrite k f0 s).1
        (f1, postFrame k f1 (f0.complete s.now)
          (recordFrame k f1 (f0.complete s.now) (countFrame k f1 (recordWrite k f0 s).2))) := by
  unfold finishFrame
  dsimp only
  rw [show (if ecc = .uncorrectable ∧ f.fed.isNone then { f with flags := f.flags ||| ffWrite } else f) = f.faulted ecc from rfl]
  generalize hf0 : f.faulted ecc = f0
  rw [show bufWrite k f0.ctx (f0.buffer + (rcpBytes f0.recipe - 64)) (f0.complete s.now) s = recordWrite k f0 s from rfl]
  generalize recordWrite k f0 s = p
  obtain ⟨ok, u⟩ := p
  dsimp only
  rw [show (if ok ∨ f0.fed.isSome then f0 else { f0 with flags := f0.flags ||| ffWrite }) = f0.recorded ok from rfl]
  generalize f0.recorded ok = f1
  unfold postFrame
  cases f1.knot <;> rfl

/-- Only flags were added to a frame. -/
structure Frame.Flagged (f g : Frame) : Prop where
  eq    : g = { f with flags := g.flags }
  flags : ∃ m, g.flags = f.flags ||| m

theorem Frame.Flagged.refl (f : Frame) : f.Flagged f := ⟨rfl, 0, (Nat.or_zero _).symm⟩

theorem Frame.Flagged.trans {f g h : Frame} (a : f.Flagged g) (b : g.Flagged h) : f.Flagged h := by
  obtain ⟨heq, m, hm⟩ := a
  obtain ⟨heq', m', hm'⟩ := b
  refine ⟨heq'.trans ?_, m ||| m', ?_⟩
  · rw [heq]
  · rw [hm', hm, Nat.or_assoc]

theorem Frame.Flagged.ite {f g h : Frame} {c : Prop} [Decidable c] (a : f.Flagged g) (b : f.Flagged h) :
    f.Flagged (if c then g else h) := by split <;> assumption

theorem Frame.flagged_or (f : Frame) (m : Nat) : f.Flagged { f with flags := f.flags ||| m } := ⟨rfl, m, rfl⟩

theorem Frame.faulted_flagged (f : Frame) (ecc : Ecc) : f.Flagged (f.faulted ecc) := .ite (f.flagged_or _) (.refl f)
theorem Frame.recorded_flagged (f : Frame) (ok : Bool) : f.Flagged (f.recorded ok) := .ite (.refl f) (f.flagged_or _)

/-- A flag that was set stays set. -/
theorem Frame.Flagged.mask_ne_zero {f g : Frame} (h : f.Flagged g) {c : Nat} (hf : f.flags &&& c ≠ 0) : g.flags &&& c ≠ 0 := by
  obtain ⟨m, hm⟩ := h.flags
  rw [hm, Nat.and_or_distrib_right]
  exact fun h0 => hf (Nat.or_eq_zero_iff.1 h0).1

/-! ### What each step leaves -/

section
variable (k : Nat) (f : Frame) (rec_ : List Byte) (s : State)

theorem countFrame_aside : Aside s (countFrame k f s) := by
  unfold countFrame
  dsimp only
  split
  · exact .of_keeps (bumpPort_keeps ..)
  · exact ((Aside.of_keeps (bumpPort_keeps ..)).trans (.of_keeps (bumpPort_keeps ..))).trans
      (report_aside (show severity .e2eFail ≠ 2 by decide) _)

theorem countFrame_keeps : Keeps 0x998 s (countFrame k f s) := by
  unfold countFrame
  dsimp only
  split
  · exact (bumpPort_keeps ..).up
  · exact ((bumpPort_keeps ..).up.trans (bumpPort_keeps ..).up).trans (report_keeps ..).up

theorem countFrame_keys : (countFrame k f s).intake.keys = s.intake.keys := by
  unfold countFrame
  dsimp only
  split
  · rfl
  · rw [report_intake]; rfl

theorem countFrame_counts : PortCounts (k / 16) 1 s (countFrame k f s) := by
  unfold countFrame
  dsimp only
  split
  · exact bumpPort_counts ..
  · refine (bumpPort_counts (k / 16) 1 s).around rfl ?_
    rw [State.portCount, report_port]
    exact bumpPort_portCount_ne _ _ (by decide) _

theorem countFrame_fails {f : Frame} (h : f.flags &&& 1535 ≠ 0) (s : State) : PortCounts (k / 16) 2 s (countFrame k f s) := by
  have h' : ¬f.flags &&& (2047 - ffResync) = 0 := h
  unfold countFrame
  dsimp only
  rw [if_neg h']
  refine (bumpPort_counts (k / 16) 2 (bumpPort (k / 16) 1 1 s)).around (bumpPort_portCount_ne _ _ (by decide) _) ?_
  rw [State.portCount, report_port]
  rfl

theorem recordFrame_rings : (recordFrame k f rec_ s).host.rings = s.host.rings := by
  unfold recordFrame
  dsimp only
  split
  · exact recordEntryAt_rings ..
  · rfl

theorem fallbackHolds_aside (prog : Nat) (frame : List Byte) (s : State) : Aside s (fallbackHolds prog frame s) := by
  refine .forEach (fun n t => ?_) s
  have hseq := takeSeq_aside false n t
  generalize takeSeq false n t = p at hseq ⊢
  exact hseq.trans (emitRecord_aside ..)

theorem pilotDue_aside (prog : Nat) (h : Half) : Aside s (pilotDue k prog f rec_ h s) := .of_keeps (pilotDue_keeps ..)

theorem replaceRuns_aside : Aside s (replaceRuns k s) :=
  ((Aside.of_keeps (updPilot_keeps ..)).trans (.of_keeps (updPilot_keeps ..))).trans (.forEach (fun _ _ => fallbackHolds_aside ..) _)

theorem pilotRuns_aside : Aside s (pilotRuns k f rec_ s) := by
  unfold pilotRuns
  split
  · exact .refl s
  · next i _ =>
    have hwest := (replaceRuns_aside k s).trans
      (.ite (c := f.pilotW = true) (pilotDue_aside k f rec_ (replaceRuns k s) i .west) (.refl _))
    exact .ite (.refl s) (.ite (hwest.trans (pilotDue_aside ..)) hwest)

theorem postFrame_rings : (postFrame k f rec_ s).host.rings = s.host.rings := by
  unfold postFrame
  split
  · rfl
  · exact (pilotRuns_aside ..).rings

theorem postFrame_mem : (postFrame k f rec_ s).mem = s.mem := by
  unfold postFrame
  split
  · rfl
  · exact (pilotRuns_keeps ..).mem rfl

theorem postFrame_intake : (postFrame k f rec_ s).intake = s.intake := by
  unfold postFrame
  split
  · rfl
  · exact (pilotRuns_keeps ..).intake rfl

theorem postFrame_knot_self {v : Nat} (h : f.knot = some v) :
    (postFrame k f rec_ s).knot (routeKnot f.route) = BitVec.ofNat 32 v := by
  unfold postFrame
  rw [h]
  exact (congrArg (fun q : Seq => Tab.get 0 q.knots (routeKnot f.route)) ((pilotRuns_keeps ..).seq rfl)).trans (setKnot_self ..)

theorem postFrame_knot_other {q : Nat} (h : f.knot = none ∨ q ≠ routeKnot f.route) : (postFrame k f rec_ s).knot q = s.knot q := by
  unfold postFrame
  split
  · rfl
  · next hk =>
    exact (congrArg (fun x : Seq => Tab.get 0 x.knots q) ((pilotRuns_keeps ..).seq rfl)).trans
      (setKnot_ne _ _ _ (h.resolve_left (by simp [hk])))

end

/-! ### A routed frame completes -/

/-- What the completion of a routed frame leaves before the answers that waited for it. -/
structure Finished (k : Nat) (ecc : Ecc) (f g : Frame) (s t : State) : Prop where
  flagged : f.Flagged g
  keys    : t.intake.keys = s.intake.keys
  frames  : PortCounts (k / 16) 1 s t
  fails   : f.flags &&& 1535 ≠ 0 → PortCounts (k / 16) 2 s t
  rings   : t.host.rings = s.host.rings
  mem     : t.mem = (portWrite k (f.faulted ecc).ctx ((f.faulted ecc).buffer + (rcpBytes (f.faulted ecc).recipe - 64))
              ((f.faulted ecc).complete s.now) s).2.mem
  posted  : ∀ v, f.knot = some v → t.knot (routeKnot f.route) = BitVec.ofNat 32 v
  knots   : ∀ q, f.knot = none ∨ q ≠ routeKnot f.route → t.knot q = s.knot q

theorem finishFrame_finished (k : Nat) (ecc : Ecc) (f : Frame) (s : State) :
    Finished k ecc f (finishFrame k ecc f s).1 s (finishFrame k ecc f s).2 := by
  rw [finishFrame_eq]
  dsimp only
  set f0 := f.faulted ecc with hf0
  set p := recordWrite k f0 s with hp
  set f1 := f0.recorded p.1
  set u := countFrame k f1 p.2 with hu
  set v := recordFrame k f1 (f0.complete s.now) u with hv
  have hflag : f.Flagged f1 := (f.faulted_flagged ecc).trans (f0.recorded_flagged _)
  have hknot : f1.knot = f.knot := by rw [hflag.eq]
  have hroute : f1.route = f.route := by rw [hflag.eq]
  have hv' : Keeps 0x8010 u v := recordFrame_keeps ..
  have hwrite : AccessKept s p.2 := bufWrite_accessKept ..
  have hvseq : v.seq.knots = s.seq.knots := by
    rw [hv'.seq rfl, (countFrame_keeps ..).seq rfl]; exact hwrite.knots
  have hvknot (q : Nat) : v.knot q = s.knot q := congrArg (Tab.get 0 · q) hvseq
  have hcount (w : Nat) (hw : w ≠ 7) : p.2.portCount (k / 16) w = s.portCount (k / 16) w := bufWrite_portCount _ _ _ _ _ _ hw
  have hpost (w : Nat) : (postFrame k f1 (f0.complete s.now) v).portCount (k / 16) w = u.portCount (k / 16) w := by
    rw [State.portCount, port_of_intake (postFrame_intake ..), port_of_intake (hv'.intake rfl)]; rfl
  refine ⟨hflag, ?_, ?_, fun hf => ?_, ?_, ?_, fun x hx => ?_, fun q hq => ?_⟩
  · rw [postFrame_intake, hv'.intake rfl, countFrame_keys]
    exact bufWrite_keys ..
  · exact (countFrame_counts k f1 p.2).around (hcount 1 (by decide)) (hpost 1)
  · exact (countFrame_fails k (hflag.mask_ne_zero hf) p.2).around (hcount 2 (by decide)) (hpost 2)
  · rw [postFrame_rings, recordFrame_rings, (countFrame_aside ..).rings, hwrite.rings]
  · rw [postFrame_mem, hv'.mem rfl, (countFrame_keeps ..).mem rfl]
    exact bufWrite_mem ..
  · rw [← hroute]; exact postFrame_knot_self _ _ _ _ (hknot.trans hx)
  · rw [postFrame_knot_other _ _ _ _ (by rw [hknot, hroute]; exact hq), hvknot]

/-! ### The answers that waited (R239) -/

theorem recordEffect_rings (k : Nat) (f : Frame) (agreed : Bool) (ring tag number : Nat) (s : State) :
    (recordEffect k f agreed ring tag number s).host.rings = s.host.rings := recordEntry_rings ..

/-- The reply that a waiting commit gets. -/
def commitNotice (k : Nat) (f : Frame) (s : State) : State :=
  match f.commit with
  | some c => recordEffect k f false c.ring c.tag 0 (commitReply c (w64 (f.counter.getD 0 + at_ 32 (f.seq.toNat % 2 ^ 32)))
      (k % 16 + bitTo 7 (f.flags &&& (2047 - ffResync) != 0)) s)
  | none => s

theorem frameNotices_rings (k : Nat) (f : Frame) (s : State) :
    (frameNotices k f s).host.rings = (commitNotice k f s).host.rings := by
  unfold frameNotices commitNotice
  dsimp only
  split
  · exact (recordEffect_rings ..).trans ((postEvent_rings ..).trans rfl)
  · rfl

theorem frameNotices_ring {f : Frame} {c : Commit} (h : f.commit = some c) (k : Nat) (s : State) :
    ((frameNotices k f s).ring c.ring).outstanding = (s.ring c.ring).outstanding - 1
    ∧ ((frameNotices k f s).ring c.ring).tail = (s.ring c.ring).tail + 1 := by
  have hrings := frameNotices_rings k f s
  unfold commitNotice at hrings
  rw [h] at hrings
  dsimp only at hrings
  rw [recordEffect_rings] at hrings
  have hring := ring_of_rings hrings c.ring
  rw [hring, commitReply, replyFinal_ring, if_pos rfl]
  exact ⟨rfl, rfl⟩

/-! ### FRAME_COMPLETE (R235 step 4) -/

/-- The key without its oldest closed frame. -/
def takeClosed (k : Nat) (rest : List Frame) (s : State) : State := updKey k (fun x => { x with closed := rest }) s

theorem frameComplete_of_closed {k : Nat} {s : State} {f : Frame} {rest : List Frame} (h : (s.key k).closed = f :: rest) (ecc : Ecc) :
    frameComplete k ecc s
      = if f.routed = true then
          frameNotices k (finishFrame k ecc (f.resolve k) (takeClosed k rest s)).1 (finishFrame k ecc (f.resolve k) (takeClosed k rest s)).2
        else frameNotices k (f.resolve k) (takeClosed k rest s) := by
  unfold frameComplete
  rw [h]
  dsimp only
  rw [show (f.resolve k).routed = f.routed from rfl]
  cases f.routed <;> rfl

theorem takeClosed_ne {k j : Nat} (h : j ≠ k) (rest : List Frame) (s : State) : (takeClosed k rest s).key j = s.key j :=
  updKey_ne _ _ _ h

theorem complete_length (f : Frame) (ended : Word) : (f.complete ended).length = 64 := by
  have hrecord (w0 w1 w2 w3 w4 w5 w6 : Word) (p : Nat) : (recordBytes [w0, w1, w2, w3, w4, w5, w6] p).length = 64 := by
    simp only [recordBytes, List.length_append, wordsBytes_length, toLE_length, List.length_cons, List.length_nil]
  unfold Frame.complete
  split
  · exact hrecord ..
  · exact hrecord ..

/-- The frame that the statement completes is the model's. -/
theorem Frame.faulted_resolve (f : Frame) (k : Nat) (ecc : Ecc) :
    (f.resolve k).faulted ecc = if ecc = .uncorrectable ∧ f.fed = none then { f.resolve k with flags := (f.resolve k).flags ||| 128 }
      else f.resolve k := by
  unfold Frame.faulted
  exact if_congr (by rw [Option.isNone_iff_eq_none]; rfl) rfl rfl

/-- A record written through a port's cache, where its 64 bytes lie (R234). -/
theorem recordMoves {port : BitVec 5} {s t : State} {k ctx va pa : Nat} (hk : BitVec.ofNat 5 (k / 16) = port) {bs : List Byte}
    (hlen : bs.length = 64) (hva : va < 2 ^ 48) (hpage : va % 65536 + 64 ≤ 65536) (hok : s.Ok)
    (htrans : (translate (.unit (.port port)) ctx va true s).1 = some pa) (hplain : Plain (pa + ·) 64 s)
    (ht : t.mem = (portWrite k ctx va bs s).2.mem) : BytesMoved (pa + ·) bs s t := by
  have hne : bs ≠ [] := fun h => by rw [h] at hlen; cases hlen
  rw [← hlen] at hpage hplain
  have hmoved := (vwrite_of_page hva hpage hne hplain hok htrans).2
  unfold portWrite at ht
  rw [hk] at ht
  exact hmoved.after hplain (by rw [ht]) (by rw [ht])

section
variable {k : Nat} {s : State} {f : Frame} {rest : List Frame} {ecc : Ecc}

theorem takeClosed_alike (k : Nat) (rest : List Frame) (s : State) : Alike s (takeClosed k rest s) := .of_keeps (updKey_keeps ..)

theorem takeClosed_portCount (k : Nat) (rest : List Frame) (s : State) (n w : Nat) :
    (takeClosed k rest s).portCount n w = s.portCount n w := portCount_of_ctr (congrArg Port.ctr (updKey_port ..)) w

/-- What FRAME_COMPLETE leaves of its key, and the answer to the commit that waited for the frame (R239). -/
structure Completed (k : Nat) (f : Frame) (rest : List Frame) (s t : State) : Prop where
  self   : t.key k = { s.key k with closed := rest }
  others : ∀ j, j ≠ k → t.key j = s.key j
  reply  : ∀ c, f.commit = some c → (t.ring c.ring).outstanding = (s.ring c.ring).outstanding - 1
             ∧ (t.ring c.ring).tail = (s.ring c.ring).tail + 1

theorem unroutedCompletes (h : (s.key k).closed = f :: rest) (hrouted : f.routed = false) :
    Completed k f rest s (frameComplete k ecc s) ∧ (frameComplete k ecc s).mem = s.mem ∧ (frameComplete k ecc s).seq = s.seq
    ∧ (frameComplete k ecc s).intake.ports = s.intake.ports := by
  rw [frameComplete_of_closed h ecc, hrouted, if_neg (by decide)]
  have htake : Keeps 0x800 s (takeClosed k rest s) := updKey_keeps ..
  have hnote := frameNotices_keeps k (f.resolve k) (takeClosed k rest s)
  have hkey (j : Nat) := key_of_intake (hnote.intake rfl) j
  refine ⟨⟨(hkey k).trans (updKey_self ..), fun j hj => (hkey j).trans (takeClosed_ne hj ..), fun c hc => ?_⟩, ?_, ?_, ?_⟩
  · exact frameNotices_ring (f := f.resolve k) hc k (takeClosed k rest s)
  · exact (hnote.mem rfl).trans (htake.mem rfl)
  · exact (hnote.seq rfl).trans (htake.seq rfl)
  · rw [hnote.intake rfl, takeClosed, updKey_intake_ports]

/-- What the completion of a routed frame leaves. -/
structure RoutedCompleted (k : Nat) (ecc : Ecc) (f : Frame) (s t : State) : Prop where
  frames : PortCounts (k / 16) 1 s t
  fails  : f.flags &&& 1535 ≠ 0 → PortCounts (k / 16) 2 s t
  posted : ∀ v, f.knot = some v → t.knot (routeKnot f.route) = BitVec.ofNat 32 v
  knots  : ∀ q, f.knot = none ∨ q ≠ routeKnot f.route → t.knot q = s.knot q
  mem    : t.mem = (portWrite k f.ctx (f.buffer + (rcpBytes f.recipe - 64)) (((f.resolve k).faulted ecc).complete s.now)
             (takeClosed k rest s)).2.mem

theorem routedCompletes (h : (s.key k).closed = f :: rest) (hrouted : f.routed = true) :
    Completed k f rest s (frameComplete k ecc s) ∧ RoutedCompleted (rest := rest) k ecc f s (frameComplete k ecc s) := by
  rw [frameComplete_of_closed h ecc, hrouted, if_pos rfl]
  have hfin := finishFrame_finished k ecc (f.resolve k) (takeClosed k rest s)
  generalize finishFrame k ecc (f.resolve k) (takeClosed k rest s) = p at hfin ⊢
  obtain ⟨g, u⟩ := p
  obtain ⟨hflagged, hkeys, hframes, hfails, hrings, hmem, hposted, hknots⟩ := hfin
  dsimp only at hflagged hkeys hframes hfails hrings hmem hposted hknots ⊢
  have hnote := frameNotices_keeps k g u
  have hkey (j : Nat) := (key_of_intake (hnote.intake rfl) j).trans (key_of_keys hkeys j)
  have hcount (w : Nat) : (frameNotices k g u).portCount (k / 16) w = u.portCount (k / 16) w :=
    portCount_of_ctr (congrArg Port.ctr (port_of_intake (hnote.intake rfl) _)) w
  have hknot (q : Nat) : (frameNotices k g u).knot q = u.knot q := congrArg (fun x : Seq => Tab.get 0 x.knots q) (hnote.seq rfl)
  have hfaulted := (f.resolve k).faulted_flagged ecc
  have hctx : ((f.resolve k).faulted ecc).ctx = f.ctx := by rw [hfaulted.eq]; rfl
  have hbuffer : ((f.resolve k).faulted ecc).buffer = f.buffer := by rw [hfaulted.eq]; rfl
  have hrecipe : ((f.resolve k).faulted ecc).recipe = f.recipe := by rw [hfaulted.eq]; rfl
  constructor
  · refine ⟨(hkey k).trans (updKey_self ..), fun j hj => (hkey j).trans (takeClosed_ne hj ..), fun c hc => ?_⟩
    have hcommit : g.commit = some c := by rw [hflagged.eq]; exact hc
    have hnotice := frameNotices_ring hcommit k u
    rw [ring_of_rings hrings c.ring] at hnotice
    exact hnotice
  · refine ⟨hframes.around (takeClosed_portCount ..) (hcount 1), fun hf => (hfails hf).around (takeClosed_portCount ..) (hcount 2),
      fun v hv => (hknot _).trans (hposted v hv), fun q hq => (hknot q).trans (hknots q hq), ?_⟩
    rw [hnote.mem rfl, hmem, hctx, hbuffer, hrecipe]
    rfl

end

/-- Settles O39. -/
theorem framesComplete : Obligations.FramesComplete := by
  intro port sel ecc s hup k
  have hexec : exec (.frameComplete port sel ecc) s = .next (frameComplete k ecc s) := intake_of_up hup
  have hdiv : k / 16 = port.toNat := keyOf_sel_div ..
  have hport : BitVec.ofNat 5 (k / 16) = port := by rw [hdiv, BitVec.ofNat_toNat, BitVec.setWidth_eq]
  have hunits := (frameComplete_keeps k ecc s).units [.dev, .host, .west, .east, .seq, .mem, .intake, .out, .recorder, .free] rfl
  clear_value k
  refine ⟨fun hnone => hexec.trans (congrArg _ ?_), ?_⟩
  · unfold frameComplete; rw [hnone]
  · intro f rest h g done va
    rw [show done = (f.resolve k).faulted ecc from (f.faulted_resolve k ecc).symm]
    refine ⟨_, hexec, hunits, ?_⟩
    cases hrouted : f.routed with
    | false =>
      obtain ⟨⟨hself, hothers, hreply⟩, hmem, hseq, hports⟩ := unroutedCompletes (ecc := ecc) h hrouted
      exact ⟨hself, hothers, nofun, nofun, hreply, fun _ => ⟨hmem, hseq, hports⟩,
        fun q _ => congrArg (fun x : Seq => Tab.get 0 x.knots q) hseq⟩
    | true =>
      obtain ⟨⟨hself, hothers, hreply⟩, hframes, hfails, hposted, hknots, hmem⟩ := routedCompletes (ecc := ecc) h hrouted
      rw [hdiv] at hframes hfails
      refine ⟨hself, hothers, fun _ => ⟨hframes, hfails, hposted⟩, fun _ hok _ hva hpage pa htrans hplain => ?_, hreply, nofun,
        fun q hq => hknots q (hq.resolve_left (by simp))⟩
      have htake : Keeps 0x800 s (takeClosed k rest s) := updKey_keeps ..
      have hmap : MapKept s (takeClosed k rest s) := .of_keeps htake
      have htrans' := ((takeClosed_alike k rest s).translate (.unit (.port port)) f.ctx va true).answer.trans htrans
      exact (recordMoves hport (complete_length ..) hva hpage (htake.ok hok) htrans' (hplain.congr hmap) hmem).before hmap rfl rfl

end Sys2Proof.Machine
end

section
/-! Work on the open frame of a key: flags set, bytes written into its buffer and its pilot copy (R235, R241, R242, R244 to R247). -/
namespace Sys2Proof.Machine

/-! ### The frame and its key -/

/-- A frame to which flags `m` and `b` bytes were added; its pilot copy and its held line are free. -/
structure Frame.Filled (m b : Nat) (f g : Frame) : Prop where
  eq : g = { f with flags := f.flags ||| m, bytes := f.bytes + b, pilotBytes := g.pilotBytes, pilotW := g.pilotW, pilotE := g.pilotE,
                    held := g.held }

theorem Frame.Filled.refl (f : Frame) : f.Filled 0 0 f := ⟨by rw [Nat.or_zero]; rfl⟩

theorem Frame.Filled.trans {m b m' b' : Nat} {f g h : Frame} (a : f.Filled m b g) (c : g.Filled m' b' h) :
    f.Filled (m ||| m') (b + b') h := by
  refine ⟨c.eq.trans ?_⟩
  rw [a.eq, ← Nat.or_assoc, ← Nat.add_assoc]

theorem Frame.Filled.still {f g : Frame} (h : g = { f with pilotBytes := g.pilotBytes, pilotW := g.pilotW, pilotE := g.pilotE,
                                                           held := g.held }) : f.Filled 0 0 g := ⟨by rw [Nat.or_zero]; exact h⟩

theorem Frame.filled_or (f : Frame) (m : Nat) : f.Filled m 0 { f with flags := f.flags ||| m } := ⟨rfl⟩

/-- Work on the open frame of key `k` that adds flags `m` and `b` bytes: of the intake nothing else has changed but BYTES_WRITTEN of
the port. -/
structure FrameWork (k m b : Nat) (s t : State) : Prop where
  others   : ∀ j, j ≠ k → t.key j = s.key j
  decoders : t.intake.decoders = s.intake.decoders
  counts   : ∀ n w, w ≠ 7 → t.portCount n w = s.portCount n w
  key      : t.key k = { s.key k with frame := (t.key k).frame }
  closed   : (s.key k).frame = none → (t.key k).frame = none
  opened   : ∀ f, (s.key k).frame = some f → ∃ g, (t.key k).frame = some g ∧ f.Filled m b g

section
variable {k m b m' b' : Nat} {s t u : State}

theorem FrameWork.of_keys (hkeys : t.intake.keys = s.intake.keys) (hdec : t.intake.decoders = s.intake.decoders)
    (hcount : ∀ n w, w ≠ 7 → t.portCount n w = s.portCount n w) : FrameWork k 0 0 s t where
  others j _ := key_of_keys hkeys j
  decoders := hdec
  counts := hcount
  key := by rw [key_of_keys hkeys]
  closed h := by rw [key_of_keys hkeys]; exact h
  opened f h := ⟨f, by rw [key_of_keys hkeys]; exact h, .refl f⟩

theorem FrameWork.of_intake (h : t.intake = s.intake) : FrameWork k 0 0 s t :=
  .of_keys (congrArg Intake.keys h) (congrArg Intake.decoders h)
    fun n w _ => portCount_of_ctr (congrArg Port.ctr (port_of_intake h n)) w

theorem FrameWork.refl (k : Nat) (s : State) : FrameWork k 0 0 s s := .of_intake rfl

theorem FrameWork.trans (h : FrameWork k m b s t) (w : FrameWork k m' b' t u) : FrameWork k (m ||| m') (b + b') s u where
  others j hj := (w.others j hj).trans (h.others j hj)
  decoders := w.decoders.trans h.decoders
  counts n c hc := (w.counts n c hc).trans (h.counts n c hc)
  key := by rw [w.key, h.key]
  closed hs := w.closed (h.closed hs)
  opened f hf := by
    obtain ⟨g, hg, hfg⟩ := h.opened f hf
    obtain ⟨x, hx, hgx⟩ := w.opened g hg
    exact ⟨x, hx, hfg.trans hgx⟩

/-- Work that adds neither flags nor bytes, before other work. -/
theorem FrameWork.before (h : FrameWork k 0 0 s t) (w : FrameWork k m b t u) : FrameWork k m b s u := by
  have hw := h.trans w
  rwa [Nat.zero_or, Nat.zero_add] at hw

theorem updFrame_frame (k : Nat) (g : Frame → Frame) (s : State) : ((updFrame k g s).key k).frame = (s.key k).frame.map g :=
  congrArg Key.frame (updKey_self ..)

theorem updFrame_work {g : Frame → Frame} (hg : ∀ f, Frame.Filled m b f (g f)) (s : State) : FrameWork k m b s (updFrame k g s) where
  others j hj := updKey_ne _ _ _ hj
  decoders := rfl
  counts _ _ _ := rfl
  key := by rw [updFrame, updKey_self]
  closed h := by rw [updFrame_frame, h]; rfl
  opened f hf := ⟨g f, by rw [updFrame_frame, hf]; rfl, hg f⟩

theorem setFlag_work (k m : Nat) (s : State) : FrameWork k m 0 s (setFlag k m s) := updFrame_work (fun f => f.filled_or m) s

/-! ### Bytes written (R235) -/

/-- The port through whose cache a key's frames are written. -/
def keyPort (k : Nat) : BitVec 5 := BitVec.ofNat 5 (k / 16)

theorem putBytes_cons (port : BitVec 5) (f : Frame) (w : Nat × List Byte) (l : List (Nat × List Byte)) (s : State) :
    putBytes port f (w :: l) s
      = let r := vwrite (.unit (.port port)) f.ctx (f.buffer + w.1) w.2 s
        (r.1.isOk && (putBytes port f l r.2).1, (putBytes port f l r.2).2) := by
  conv_lhs => unfold putBytes
  dsimp only
  generalize vwrite _ _ _ _ s = r
  obtain ⟨_ | _, v⟩ := r <;> rfl

/-- Writes of bytes look at a frame's context and buffer alone. -/
theorem putBytes_congr {f g : Frame} (hctx : g.ctx = f.ctx) (hbuffer : g.buffer = f.buffer) (port : BitVec 5)
    (l : List (Nat × List Byte)) (s : State) : putBytes port g l s = putBytes port f l s := by
  induction l generalizing s with
  | nil => rfl
  | cons w l ih => rw [putBytes_cons, putBytes_cons, hctx, hbuffer]; simp only [ih]

theorem Alike.putBytes (h : Alike s t) (port : BitVec 5) (f : Frame) (l : List (Nat × List Byte)) :
    SameAnswer (putBytes port f l s) (putBytes port f l t) := by
  induction l generalizing s t with
  | nil => exact .of_alike h
  | cons w l ih =>
    obtain ⟨a, u, v, hu, hv, huv⟩ := (h.vwrite (.unit (.port port)) f.ctx (f.buffer + w.1) w.2).exists_eq
    rw [putBytes_cons, putBytes_cons, hu, hv]
    exact ⟨congrArg (a.isOk && ·) (ih huv).answer, (ih huv).alike⟩

/-- WRITE_FAULT where a write did not go through. -/
def faultMask (ok : Bool) : Nat := if ok then 0 else ffWrite

theorem faultMask_and (a b : Bool) : faultMask a ||| faultMask b = faultMask (a && b) := by cases a <;> cases b <;> rfl

theorem faultMask_testBit (ok : Bool) : (faultMask ok).testBit 7 = !ok := by cases ok <;> rfl

theorem bufWrite_alike (k ctx va : Nat) (bs : List Byte) (s : State) :
    Alike (portWrite k ctx va bs s).2 (bufWrite k ctx va bs s).2 := by
  rw [bufWrite_eq]
  dsimp only
  split
  · exact .of_keeps (bumpPort_keeps ..)
  · exact .refl _

theorem bufFlag_eq (k : Nat) (f : Frame) (off : Nat) (bs : List Byte) (s : State) :
    bufFlag k f off bs s = if (portWrite k f.ctx (f.buffer + off) bs s).1.isOk = true then (bufWrite k f.ctx (f.buffer + off) bs s).2
      else setFlag k ffWrite (bufWrite k f.ctx (f.buffer + off) bs s).2 := by
  unfold bufFlag
  dsimp only
  rw [show (bufWrite k f.ctx (f.buffer + off) bs s).1 = (portWrite k f.ctx (f.buffer + off) bs s).1.isOk by rw [bufWrite_eq]]

theorem bufFlag_alike (k : Nat) (f : Frame) (off : Nat) (bs : List Byte) (s : State) :
    Alike (portWrite k f.ctx (f.buffer + off) bs s).2 (bufFlag k f off bs s) := by
  rw [bufFlag_eq]
  split
  · exact bufWrite_alike ..
  · exact (bufWrite_alike ..).trans (.of_keeps (setFlag_keeps ..))

theorem bufWrite_work (k ctx va : Nat) (bs : List Byte) (s : State) : FrameWork k 0 0 s (bufWrite k ctx va bs s).2 :=
  .of_keys (bufWrite_keys ..) (bufWrite_decoders ..) fun n _ hw => bufWrite_portCount _ _ _ _ _ n hw

theorem bufFlag_work (k : Nat) (f : Frame) (off : Nat) (bs : List Byte) (s : State) :
    FrameWork k (faultMask (portWrite k f.ctx (f.buffer + off) bs s).1.isOk) 0 s (bufFlag k f off bs s) := by
  rw [bufFlag_eq]
  cases (portWrite k f.ctx (f.buffer + off) bs s).1.isOk
  · exact (bufWrite_work ..).before (setFlag_work ..)
  · exact bufWrite_work ..

/-- Frame bytes put one after another do to memory what the writes alone do, and mark the frame where one fails. -/
theorem forEach_bufFlag (k : Nat) (f : Frame) (l : List (Nat × List Byte)) (h : Alike s t) :
    Alike (putBytes (keyPort k) f l s).2 (forEach l (fun w => bufFlag k f w.1 w.2) t)
    ∧ FrameWork k (faultMask (putBytes (keyPort k) f l s).1) 0 t (forEach l (fun w => bufFlag k f w.1 w.2) t) := by
  induction l generalizing s t with
  | nil => exact ⟨h, .refl k t⟩
  | cons w l ih =>
    have hw : SameAnswer (portWrite k f.ctx (f.buffer + w.1) w.2 s) (portWrite k f.ctx (f.buffer + w.1) w.2 t) := h.vwrite ..
    have hwork := bufFlag_work k f w.1 w.2 t
    rw [hw.answer] at hwork
    obtain ⟨halike, hrest⟩ := ih (hw.alike.trans (bufFlag_alike k f w.1 w.2 t))
    rw [putBytes_cons]
    refine ⟨halike, ?_⟩
    have htrans := hwork.trans hrest
    rw [faultMask_and] at htrans
    exact htrans

/-! ### The main tensor (R21, R242) -/

/-- Work of which no read and no path tells. -/
structure FrameQuiet (k m b : Nat) (s t : State) : Prop extends FrameWork k m b s t where
  alike : Alike s t
  path  : ∀ h, (t.half h).pathOk = (s.half h).pathOk

theorem FrameQuiet.of_keeps {x : Nat} (h : FrameWork k m b s t) (hk : Keeps x s t) (h5 : x.testBit 5 = false := by rfl)
    (h7 : x.testBit 7 = false := by rfl) (h8 : x.testBit 8 = false := by rfl) (h9 : x.testBit 9 = false := by rfl)
    (h10 : x.testBit 10 = false := by rfl) (h16 : x.testBit 16 = false := by rfl) : FrameQuiet k m b s t :=
  ⟨h, .of_keeps hk h5 h9 h10 h16, fun x => congrArg HalfUnit.pathOk (hk.half h7 h8 x)⟩

theorem FrameQuiet.refl (k : Nat) (s : State) : FrameQuiet k 0 0 s s := ⟨.refl k s, .refl s, fun _ => rfl⟩

theorem FrameQuiet.trans (h : FrameQuiet k m b s t) (w : FrameQuiet k m' b' t u) : FrameQuiet k (m ||| m') (b + b') s u :=
  ⟨h.toFrameWork.trans w.toFrameWork, h.alike.trans w.alike, fun x => (w.path x).trans (h.path x)⟩

theorem FrameQuiet.after (w : FrameQuiet k m b s t) (h : FrameQuiet k 0 0 t u) : FrameQuiet k m b s u := by
  have hw := w.trans h
  rwa [Nat.or_zero, Nat.add_zero] at hw

theorem updFrame_quiet {g : Frame → Frame} (hg : ∀ f, Frame.Filled m b f (g f)) (s : State) : FrameQuiet k m b s (updFrame k g s) :=
  .of_keeps (updFrame_work hg s) (updFrame_keeps ..)

theorem setFlag_quiet (k m : Nat) (s : State) : FrameQuiet k m 0 s (setFlag k m s) := .of_keeps (setFlag_work ..) (setFlag_keeps ..)

/-- The path of a context's half stands. -/
def State.pathUp (s : State) (ctx : Nat) : Bool := (s.half (s.ctxHalf ctx)).pathOk

theorem pathUp_congr (himg : t.img = s.img) (hpath : ∀ h, (t.half h).pathOk = (s.half h).pathOk) (ctx : Nat) :
    t.pathUp ctx = s.pathUp ctx := by
  have hhalf : t.ctxHalf ctx = s.ctxHalf ctx := by
    unfold State.ctxHalf State.hoopHome State.hoopEntry; rw [himg]
  unfold State.pathUp
  rw [hhalf, hpath]

/-- Work that writes bytes `l` of frame `f`: memory is what the writes make it, and one that fails is flagged; with the path down
nothing is written, and the flag says so. -/
structure FrameWrite (k : Nat) (f : Frame) (l : List (Nat × List Byte)) (m b : Nat) (s t : State) : Prop extends
    FrameWork k m b s t where
  put  : s.pathUp f.ctx = true → Alike (putBytes (keyPort k) f l s).2 t ∧ m.testBit 7 = !(putBytes (keyPort k) f l s).1
  down : s.pathUp f.ctx = false → Alike s t ∧ ((∃ w ∈ l, w.2 ≠ []) → m.testBit 8 = true)

theorem FrameQuiet.write {f : Frame} {l : List (Nat × List Byte)} (h : FrameQuiet k m b s t) (hm : m.testBit 7 = false)
    (w : FrameWrite k f l m' b' t u) : FrameWrite k f l (m ||| m') (b + b') s u := by
  have hpath := pathUp_congr h.alike.img h.path f.ctx
  have hbytes := h.alike.putBytes (keyPort k) f l
  refine ⟨h.toFrameWork.trans w.toFrameWork, fun hup => ?_, fun hdown => ?_⟩
  · obtain ⟨halike, hbit⟩ := w.put (hpath.trans hup)
    refine ⟨hbytes.alike.trans halike, ?_⟩
    rw [Nat.testBit_or, hm, hbit, hbytes.answer, Bool.false_or]
  · obtain ⟨halike, hbit⟩ := w.down (hpath.trans hdown)
    exact ⟨h.alike.trans halike, fun hne => by rw [Nat.testBit_or, hbit hne, Bool.or_true]⟩

theorem FrameWrite.quiet {f : Frame} {l : List (Nat × List Byte)} (w : FrameWrite k f l m b s t) (h : FrameQuiet k m' b' t u)
    (hm : m'.testBit 7 = false) : FrameWrite k f l (m ||| m') (b + b') s u := by
  refine ⟨w.toFrameWork.trans h.toFrameWork, fun hup => ?_, fun hdown => ?_⟩
  · obtain ⟨halike, hbit⟩ := w.put hup
    exact ⟨halike.trans h.alike, by rw [Nat.testBit_or, hm, hbit, Bool.or_false]⟩
  · obtain ⟨halike, hbit⟩ := w.down hdown
    exact ⟨halike.trans h.alike, fun hne => by rw [Nat.testBit_or, hbit hne, Bool.true_or]⟩

theorem FrameWrite.after {f : Frame} {l : List (Nat × List Byte)} (w : FrameWrite k f l m b s t) (h : FrameQuiet k 0 0 t u) :
    FrameWrite k f l m b s u := by
  have hw := w.quiet h rfl
  rwa [Nat.or_zero, Nat.add_zero] at hw

/-- Quiet work writes nothing. -/
theorem FrameQuiet.noBytes (h : FrameQuiet k m b s t) (hm : m.testBit 7 = false) (f : Frame) : FrameWrite k f [] m b s t :=
  ⟨h.toFrameWork, fun _ => ⟨h.alike, hm⟩, fun _ => ⟨h.alike, by simp⟩⟩

theorem FrameWrite.congr {f g : Frame} {l : List (Nat × List Byte)} (w : FrameWrite k f l m b s t) (hctx : g.ctx = f.ctx)
    (hbuffer : g.buffer = f.buffer) : FrameWrite k g l m b s t := by
  refine ⟨w.toFrameWork, fun hup => ?_, fun hdown => ?_⟩
  · rw [putBytes_congr hctx hbuffer]
    rw [hctx] at hup
    exact w.put hup
  · rw [hctx] at hdown
    exact w.down hdown

/-- The flags that the writes of the main tensor add. -/
def mainMask (k : Nat) (f : Frame) (l : List (Nat × List Byte)) (s : State) : Nat :=
  if s.pathUp f.ctx = true then faultMask (putBytes (keyPort k) f l s).1 else ffPath

theorem mainWrite_write (k : Nat) (f : Frame) (l : List (Nat × List Byte)) (s : State) :
    FrameWrite k f l (mainMask k f l s) 0 s (mainWrite k f l s) := by
  unfold mainWrite mainMask
  rw [show (s.half (s.ctxHalf f.ctx)).pathOk = s.pathUp f.ctx from rfl]
  cases hup : s.pathUp f.ctx with
  | true =>
    obtain ⟨halike, hwork⟩ := forEach_bufFlag k f l (.refl s)
    exact ⟨hwork, fun _ => ⟨halike, faultMask_testBit _⟩, by simp [hup]⟩
  | false =>
    have h := setFlag_quiet k ffPath s
    exact ⟨h.toFrameWork, by simp [hup], fun _ => ⟨h.alike, fun _ => by rw [if_neg (by decide)]; decide⟩⟩

/-! ### Pilot copies (R247) -/

theorem localWrite_quiet (k : Nat) (h : Half) (off : Nat) (bs : List Byte) (s : State) :
    FrameQuiet k 0 0 s (localWrite h off bs s) := by
  have hpath (x : Half) : (localWrite h off bs s).half x = s.half x := (localWrite_keeps ..).half rfl rfl x
  refine ⟨.of_intake ((localWrite_keeps ..).intake rfl), ?_, fun x => by rw [hpath]⟩
  cases h <;> exact ⟨rfl, rfl, rfl, rfl, rfl, rfl, fun _ => rfl, fun _ => rfl⟩

theorem FrameQuiet.ite {c : Prop} [Decidable c] (h : FrameQuiet k m b s t) (w : FrameQuiet k m b s u) :
    FrameQuiet k m b s (if c then t else u) := by split <;> assumption

theorem pilotWrite_quiet (k : Nat) (f : Frame) (off : Nat) (bs : List Byte) (s : State) :
    FrameQuiet k 0 0 s (pilotWrite k f off bs s) := by
  unfold pilotWrite
  refine .ite (.refl k s) ?_
  extract_lets base w e s1 s2
  have h1 : FrameQuiet k 0 0 s s1 := .ite (localWrite_quiet ..) (.refl k s)
  have h2 : FrameQuiet k 0 0 s1 s2 := .ite (localWrite_quiet ..) (.refl k s1)
  exact (h1.after h2).after (updFrame_quiet (fun _ => .still rfl) s2)

/-! ### Rows and copies (R241, R244 to R247) -/

/-- The writes of an output row of the main tensor. -/
def rowWrites (rc : Entry) (y : Nat) (px : Nat → Nat → List Nat) : List (Nat × List Byte) :=
  (List.range (tensorDims rc).2).flatMap fun x => positionWrites rc y x (codesOf rc px x)

theorem putRow_write (k : Nat) (f : Frame) (y : Nat) (px : Nat → Nat → List Nat) (s : State) :
    FrameWrite k f (rowWrites f.recipe y px) (mainMask k f (rowWrites f.recipe y px) s) 0 s (putRow k f y px s) := by
  have hwrites : ((List.range (tensorDims f.recipe).2).flatMap fun x =>
      positionWrites f.recipe y x (((List.range (tensorDims f.recipe).2).map (codesOf f.recipe px)).getD x []))
      = rowWrites f.recipe y px := by
    refine List.flatMap_congr fun x hx => ?_
    rw [List.getD_eq_getElem?_getD, List.getElem?_map, List.getElem?_range (List.mem_range.1 hx)]
    rfl
  unfold putRow
  dsimp only
  rw [hwrites]
  have hmain := mainWrite_write k f (rowWrites f.recipe y px) s
  split
  · exact hmain.after (pilotWrite_quiet ..)
  · exact hmain

/-- The bytes of a copied unit that still fit its frame's buffer. -/
def copyPart (f : Frame) (bs : List Byte) : List Byte := bs.take (rcpBytes f.recipe - 64 - f.bytes)

theorem putCopy_write (k : Nat) (f : Frame) (bs : List Byte) (pilot : Bool) (s : State) :
    ∃ m, FrameWrite k f [(f.bytes, copyPart f bs)] m (copyPart f bs).length s (putCopy k f bs pilot s) := by
  unfold putCopy
  extract_lets room part s1 copy s2
  have hpart : part = copyPart f bs := rfl
  have h1 : ∃ m, FrameWrite k f [(f.bytes, part)] m 0 s s1 := by
    unfold s1
    cases hempty : part.isEmpty with
    | false => exact ⟨_, mainWrite_write ..⟩
    | true =>
      rw [List.isEmpty_iff.1 hempty]
      exact ⟨0, .refl k s, fun _ => ⟨.refl s, rfl⟩, fun _ => ⟨.refl s, by simp⟩⟩
  obtain ⟨m, h1⟩ := h1
  have h2 : FrameQuiet k 0 0 s1 s2 := .ite (.refl k s1) (pilotWrite_quiet ..)
  have h3 : FrameQuiet k 0 part.length s2
      (updFrame k (fun f => { f with bytes := f.bytes + part.length, pilotBytes := f.pilotBytes + copy.length }) s2) :=
    updFrame_quiet (fun f => ⟨by rw [Nat.or_zero]⟩) s2
  rw [← hpart]
  have hall := (h1.after h2).quiet h3 rfl
  rw [Nat.or_zero, Nat.zero_add] at hall
  exact ⟨m, hall⟩

/-- A row of a camera image or a line of a copied one, where its bytes go (R244 to R246). -/
theorem putLine_write (k : Nat) (f : Frame) (dt : Nat) (line : List Byte) (s : State) :
    ∃ m, FrameWrite k f (lineWrites f line) m (if rcpOutMode f.recipe = 3 then (copyPart f line).length else 0) s
      (putLine k f dt line s) := by
  unfold putLine
  dsimp only
  by_cases hcopy : rcpOutMode f.recipe = 3
  · rw [if_pos hcopy, if_pos hcopy, show lineWrites f line = [(f.bytes, copyPart f line)] from if_pos hcopy]
    exact putCopy_write ..
  rw [if_neg hcopy, if_neg hcopy]
  by_cases hrow : rcpHeight f.recipe ≤ f.units
  · rw [if_pos hrow, show lineWrites f line = [] from (if_neg hcopy).trans (if_pos hrow)]
    exact ⟨0, (FrameQuiet.refl k s).noBytes rfl f⟩
  rw [if_neg hrow]
  set s1 := if line.length = lineBytes dt (rcpWidth f.recipe) then s else setFlag k ffSize s
  have h1 : ∃ m, FrameQuiet k m 0 s s1 ∧ m.testBit 7 = false := by
    unfold s1
    split
    · exact ⟨0, .refl k s, rfl⟩
    · exact ⟨ffSize, setFlag_quiet .., rfl⟩
  obtain ⟨m1, h1, hm1⟩ := h1
  have hlines : lineWrites f line = if rcpOutMode f.recipe = 2 then _ else _ := (if_neg hcopy).trans (if_neg hrow)
  by_cases hquad : rcpOutMode f.recipe = 2
  · rw [if_pos hquad] at hlines ⊢
    cases hheld : f.held with
    | none =>
      rw [hheld] at hlines
      rw [hlines]
      exact ⟨_, (h1.after (updFrame_quiet (fun _ => .still rfl) s1)).noBytes hm1 f⟩
    | some l0 =>
      rw [hheld] at hlines
      rw [hlines]
      exact ⟨_, (h1.write hm1 (putRow_write ..)).after (updFrame_quiet (fun _ => .still rfl) _)⟩
  · rw [if_neg hquad] at hlines ⊢
    rw [hlines]
    exact ⟨_, h1.write hm1 (putRow_write ..)⟩

/-- What the statements say of a frame's writes follows for the frame that the work leaves. -/
theorem FrameWrite.frameWritten {f g f' : Frame} {l : List (Nat × List Byte)} {port : BitVec 5} (w : FrameWrite k f l m b s t)
    (hport : keyPort k = port) (hflags : f'.flags = g.flags ||| m) (hctx : g.ctx = f.ctx) (hbuffer : g.buffer = f.buffer) :
    FrameWritten port g f' l s t := by
  have w := w.congr hctx hbuffer
  subst hport
  refine ⟨fun hup => ?_, fun hdown => ?_⟩
  · obtain ⟨halike, hbit⟩ := w.put hup
    refine ⟨halike.dram, halike.shared, fun hr => ?_, fun hr => ?_⟩
    · rw [hflags, Nat.testBit_or, hbit, hr]; exact Bool.or_true _
    · rw [hflags, Nat.testBit_or, hbit, hr]; exact Bool.or_false _
  · obtain ⟨halike, hbit⟩ := w.down hdown
    exact ⟨halike.dram, halike.shared, fun hne => by rw [hflags, Nat.testBit_or, hbit hne, Bool.or_true]⟩

end

end Sys2Proof.Machine
end

section
/-! Frame starts (R234 to R239): what each of their steps leaves of the key, its port and the decoders, and the frame that opens. -/
namespace Sys2Proof.Machine

/-! ### The settings taken at a start (R236, R238) -/

/-- What a change or a commit taken at a frame start leaves: the other keys, of key `k` its frames, its sequence and its sensor, of
every decoder all but the entry that was held, and of every port its link, its identity and its counters. -/
structure StartKept (k : Nat) (s t : State) : Prop where
  others : ∀ j, j ≠ k → t.key j = s.key j
  key    : t.key k = { s.key k with
             ring := (t.key k).ring, ringCtx := (t.key k).ringCtx, ringGen := (t.key k).ringGen, since := (t.key k).since,
             commit := (t.key k).commit, heldRoute := (t.key k).heldRoute, resync := (t.key k).resync,
             prevCtr := (t.key k).prevCtr, prevTime := (t.key k).prevTime }
  dec    : ∀ d, t.dec d = { s.dec d with held := (t.dec d).held }
  port   : ∀ n, t.port n = { s.port n with mismatch := (t.port n).mismatch }

section
variable {k : Nat} {s t u : State}

theorem StartKept.of_intake (h : t.intake = s.intake) : StartKept k s t where
  others j _ := key_of_intake h j
  key := by rw [key_of_intake h]
  dec d := by rw [dec_of_intake h]
  port n := by rw [port_of_intake h]

theorem StartKept.refl (k : Nat) (s : State) : StartKept k s s := .of_intake rfl

theorem StartKept.trans (h : StartKept k s t) (w : StartKept k t u) : StartKept k s u where
  others j hj := (w.others j hj).trans (h.others j hj)
  key := by rw [w.key, h.key]
  dec d := by rw [w.dec, h.dec]
  port n := by rw [w.port, h.port]

theorem StartKept.updKey (k : Nat) {f : Key → Key} (s : State) (hf : ∀ x, f x = { x with
      ring := (f x).ring, ringCtx := (f x).ringCtx, ringGen := (f x).ringGen, since := (f x).since, commit := (f x).commit,
      heldRoute := (f x).heldRoute, resync := (f x).resync, prevCtr := (f x).prevCtr, prevTime := (f x).prevTime }) :
    StartKept k s (updKey k f s) where
  others j hj := updKey_ne _ _ _ hj
  key := by rw [updKey_self]; exact hf _
  dec _ := rfl
  port _ := rfl

theorem StartKept.updDec (k d : Nat) {f : Decoder → Decoder} (s : State) (hf : ∀ x, f x = { x with held := (f x).held }) :
    StartKept k s (updDec d f s) where
  others _ _ := rfl
  key := rfl
  dec e := by
    by_cases he : e = d
    · rw [he, updDec_self]; exact hf _
    · rw [updDec_ne _ _ _ he]
  port _ := rfl

theorem StartKept.updPort (k n : Nat) {f : Port → Port} (s : State) (hf : ∀ x, f x = { x with mismatch := (f x).mismatch }) :
    StartKept k s (updPort n f s) where
  others _ _ := rfl
  key := rfl
  dec _ := rfl
  port m := by
    by_cases hm : m = n
    · rw [hm, updPort_self]; exact hf _
    · rw [updPort_ne _ _ _ hm]

theorem StartKept.ite {c : Prop} [Decidable c] (h : StartKept k s t) (w : StartKept k s u) : StartKept k s (if c then t else u) := by
  split <;> assumption

theorem StartKept.forEach {α : Type} {l : List α} {f : α → State → State} (hf : ∀ a t, StartKept k t (f a t)) (s : State) :
    StartKept k s (forEach l f s) := forEach_invariant (P := StartKept k s) (fun a t h => h.trans (hf a t)) l s (.refl k s)

theorem takeDecoders_startKept (k : Nat) (s : State) : StartKept k s (takeDecoders k s) :=
  .forEach (fun _ t => .ite (.updDec k _ t fun _ => rfl) (.refl k t)) s

theorem takeRing_startKept (k ctx : Nat) (bufs : List Nat) (s : State) : StartKept k s (takeRing k ctx bufs s) :=
  .updKey k s fun _ => rfl

theorem setResync_startKept (k : Nat) (s : State) : StartKept k s (setResync k s) := .updKey k s fun _ => rfl

/-- A change that is not due, or none, leaves all as it is. -/
theorem takeChange_of_none (h : (s.key k).heldRoute = none) (seq : Word) : takeChange k seq s = (none, s) := by
  unfold takeChange; rw [h]

theorem takeChange_of_early {seq : Word} (h : s.changeDue k seq = false) : takeChange k seq s = (none, s) := by
  unfold takeChange
  cases (s.key k).heldRoute with
  | none => rfl
  | some r => exact if_pos (by rw [h]; rfl)

/-- The key under a change that takes effect, with its ring or without. -/
def changeKey (k : Nat) (keep : Bool) (s : State) : State :=
  setResync k (updKey k (fun x => { x with heldRoute := none, ring := if keep then x.ring else [] }) (takeDecoders k s))

/-- A change that is due. -/
theorem takeChange_of_due {seq : Word} (hheld : (s.key k).heldRoute ≠ none) (hdue : s.changeDue k seq = true) :
    ∃ keep, (takeChange k seq s).2
      = updPort (k / 16) (fun p => { p with mismatch := (changeKey k keep s).portMismatch (k / 16) }) (changeKey k keep s) := by
  obtain ⟨r, hr⟩ := Option.ne_none_iff_exists'.1 hheld
  obtain ⟨old, rc, cls, owner⟩ := r
  unfold takeChange
  rw [hr]
  dsimp only
  rw [if_neg (by rw [hdue]; decide)]
  cases hmoved : routeValid old && (!routeValid (s.img.entry 10 k) || routeCtx (s.img.entry 10 k) != routeCtx old) with
  | true => exact ⟨false, rfl⟩
  | false => exact ⟨true, rfl⟩

theorem changeKey_startKept (k : Nat) (keep : Bool) (s : State) : StartKept k s (changeKey k keep s) :=
  ((takeDecoders_startKept k s).trans (.updKey k _ fun _ => rfl)).trans (setResync_startKept ..)

theorem changeKey_heldRoute (k : Nat) (keep : Bool) (s : State) : ((changeKey k keep s).key k).heldRoute = none := by
  rw [changeKey, setResync, updKey_self, updKey_self]

theorem takeChange_startKept (k : Nat) (seq : Word) (s : State) : StartKept k s (takeChange k seq s).2 := by
  by_cases hheld : (s.key k).heldRoute = none
  · rw [takeChange_of_none hheld]; exact .refl k s
  cases hdue : s.changeDue k seq with
  | false => rw [takeChange_of_early hdue]; exact .refl k s
  | true =>
    obtain ⟨keep, heq⟩ := takeChange_of_due hheld hdue
    rw [heq]
    exact (changeKey_startKept ..).trans (.updPort k _ _ fun _ => rfl)

theorem takeChange_heldRoute {seq : Word} (hdue : s.changeDue k seq = true) : ((takeChange k seq s).2.key k).heldRoute = none := by
  by_cases hheld : (s.key k).heldRoute = none
  · rw [takeChange_of_none hheld, hheld]
  · obtain ⟨keep, heq⟩ := takeChange_of_due hheld hdue
    rw [heq, updPort_key, changeKey_heldRoute]

theorem takeCommit_of_none (h : (s.key k).commit = none) (seq : Word) (o : Origin) : takeCommit k seq o s = (none, s) := by
  unfold takeCommit; rw [h]

theorem commitReply_intake (c : Commit) (eff : Word) (detail : Nat) (s : State) : (commitReply c eff detail s).intake = s.intake :=
  (commitReply_keeps ..).intake rfl

theorem takeCommit_startKept (k : Nat) (seq : Word) (o : Origin) (s : State) : StartKept k s (takeCommit k seq o s).2 := by
  unfold takeCommit
  split
  · exact .refl k s
  · next c bufs hc =>
    dsimp only
    have hgone : StartKept k s (Machine.updKey k (fun x => { x with commit := none }) s) := .updKey k s fun _ => rfl
    split
    · exact .refl k s
    · exact hgone.trans (takeRing_startKept ..)
    · exact hgone.trans (.of_intake (commitReply_intake ..))
    · exact (hgone.trans (takeRing_startKept ..)).trans (.of_intake (commitReply_intake ..))

theorem takeCommit_heldRoute (k : Nat) (seq : Word) (o : Origin) (s : State) :
    ((takeCommit k seq o s).2.key k).heldRoute = (s.key k).heldRoute := by
  unfold takeCommit
  split
  · rfl
  · dsimp only
    split
    · rfl
    · rw [takeRing, updKey_self, updKey_self]
    · rw [key_of_intake (commitReply_intake ..), updKey_self]
    · rw [key_of_intake (commitReply_intake ..), takeRing, updKey_self, updKey_self]

end

/-! ### The steps of a start -/

/-- The SEQ that a start gives its frame. -/
def startSeq (k : Nat) (o : Origin) (s : State) : Word := originSeq o (s.key k)

/-- The open frame closed, the start counted and marked. -/
def startMarked (k : Nat) (o : Origin) (s : State) : State :=
  bumpPort (k / 16) 0 1 (updPort (k / 16) (fun p => { p with seen := p.seen ||| 2 ^ (k % 16) })
    (updKey k (fun x => { x with seq := startSeq k o s, lastStart := some s.hp, stalled := false }) (closeFrame k ffTrunc s)))

/-- The changes that are due taken. -/
def startChanged (k : Nat) (o : Origin) (s : State) : State := (takeChange k (startSeq k o s) (startMarked k o s)).2

/-- The commit that is due taken: the settings of the frame are in force. -/
def startSettled (k : Nat) (o : Origin) (s : State) : State := (takeCommit k (startSeq k o s) o (startChanged k o s)).2

/-- The frame that opens. -/
def startFrame (k : Nat) (o : Origin) (s : State) : Frame :=
  openedFrame (startSettled k o s) k o (startSeq k o s) ((startSettled k o s).takesIn k o)
    (takeCommit k (startSeq k o s) o (startChanged k o s)).1 (takeChange k (startSeq k o s) (startMarked k o s)).1

/-- A routed frame opened, before its record is written. -/
def startRouted (k : Nat) (o : Origin) (s : State) : State :=
  updKey k (fun x => { x with frame := some (startFrame k o s), since := x.since + 1,
                              resync := if o = .live then false else x.resync }) (startSettled k o s)

/-- A frame opened that is not taken in. -/
def startUnrouted (k : Nat) (o : Origin) (s : State) : State :=
  bumpPort (k / 16) 3 1 (updKey k (fun x => { x with frame := some (startFrame k o s) }) (startSettled k o s))

section
variable {k : Nat} {o : Origin} {s : State}

/-- A start's SEQ is read before its key's frame closes. -/
theorem originSeq_closed (k : Nat) (o : Origin) (s : State) : originSeq o ((closeFrame k ffTrunc s).key k) = startSeq k o s := by
  obtain ⟨_, _, h⟩ := closeFrame_key k ffTrunc s
  unfold startSeq originSeq
  rw [h]

theorem beginFrame_eq (k : Nat) (o : Origin) (s : State) :
    beginFrame k o s = if (startFrame k o s).routed = true then writeFilling k (startFrame k o s) (startRouted k o s)
      else startUnrouted k o s := by
  have hhp : (closeFrame k ffTrunc s).hp = s.hp := congrArg Time.hp ((closeFrame_keeps ..).time rfl)
  unfold beginFrame
  dsimp only
  rw [originSeq_closed, hhp]
  rfl

theorem startMarked_keeps (k : Nat) (o : Origin) (s : State) : Keeps 0x800 s (startMarked k o s) :=
  (((closeFrame_keeps ..).trans (updKey_keeps ..)).trans (updPort_keeps ..)).trans (bumpPort_keeps ..)

theorem startChanged_keeps (k : Nat) (o : Origin) (s : State) : Keeps 0x800 s (startChanged k o s) :=
  (startMarked_keeps k o s).trans (takeChange_keeps ..)

theorem startSettled_keeps (k : Nat) (o : Origin) (s : State) : Keeps 0x810 s (startSettled k o s) :=
  (startChanged_keeps k o s).up.trans (takeCommit_keeps ..)

theorem startRouted_keeps (k : Nat) (o : Origin) (s : State) : Keeps 0x810 s (startRouted k o s) :=
  (startSettled_keeps k o s).trans (updKey_keeps ..).up

theorem startUnrouted_keeps (k : Nat) (o : Origin) (s : State) : Keeps 0x810 s (startUnrouted k o s) :=
  ((startSettled_keeps k o s).trans (updKey_keeps ..).up).trans (bumpPort_keeps ..).up

theorem startSettled_kept (k : Nat) (o : Origin) (s : State) : StartKept k (startMarked k o s) (startSettled k o s) :=
  (takeChange_startKept ..).trans (takeCommit_startKept ..)

/-! ### The key, the port and the decoders at the start -/

theorem startMarked_ne {j : Nat} (h : j ≠ k) : (startMarked k o s).key j = s.key j := by
  unfold startMarked bumpPort
  rw [updPort_key, updPort_key, updKey_ne _ _ _ h, closeFrame_ne _ _ _ h]

theorem startMarked_key : ∃ ctr time closed, (startMarked k o s).key k = { s.key k with
      seq := startSeq k o s, lastStart := some s.hp, stalled := false, frame := none, prevCtr := ctr, prevTime := time, closed := closed }
    ∧ closed = (s.key k).closed ++ (s.key k).frame.toList.map fun f => (closedFrame k ffTrunc (s.key k) f).2 := by
  obtain ⟨ctr, time, h⟩ := closeFrame_key k ffTrunc s
  refine ⟨ctr, time, _, ?_, rfl⟩
  have hself : (startMarked k o s).key k = { (closeFrame k ffTrunc s).key k with
      seq := startSeq k o s, lastStart := some s.hp, stalled := false } := by
    unfold startMarked bumpPort
    rw [updPort_key, updPort_key, updKey_self]
  rw [hself, h]

theorem startMarked_dec (d : Nat) : (startMarked k o s).dec d = s.dec d := by
  unfold startMarked bumpPort
  rw [updPort_dec, updPort_dec, updKey_dec, dec_of_decoders (closeFrame_decoders ..)]

theorem startMarked_port_ne {n : Nat} (h : n ≠ k / 16) : (startMarked k o s).port n = s.port n := by
  unfold startMarked bumpPort
  rw [updPort_ne _ _ _ h, updPort_ne _ _ _ h, updKey_port, closeFrame_port]

theorem startMarked_port : (startMarked k o s).port (k / 16)
    = { s.port (k / 16) with seen := (s.port (k / 16)).seen ||| 2 ^ (k % 16), ctr := bump (s.port (k / 16)).ctr 0 1 } := by
  unfold startMarked bumpPort
  rw [updPort_self, updPort_self, updKey_port, closeFrame_port]

theorem startMarked_heldRoute : ((startMarked k o s).key k).heldRoute = (s.key k).heldRoute := by
  obtain ⟨_, _, _, h, -⟩ := startMarked_key (k := k) (o := o) (s := s)
  rw [h]

theorem startMarked_commit : ((startMarked k o s).key k).commit = (s.key k).commit := by
  obtain ⟨_, _, _, h, -⟩ := startMarked_key (k := k) (o := o) (s := s)
  rw [h]

/-- The key once the settings are in force. -/
theorem startSettled_key : ((startSettled k o s).key k).seq = startSeq k o s ∧ ((startSettled k o s).key k).lastStart = some s.hp
    ∧ ((startSettled k o s).key k).stalled = false
    ∧ ((startSettled k o s).key k).closed
      = (s.key k).closed ++ (s.key k).frame.toList.map (fun f => (closedFrame k ffTrunc (s.key k) f).2)
    ∧ ((startSettled k o s).key k).lidar = (s.key k).lidar ∧ ((startSettled k o s).key k).lidarAt = (s.key k).lidarAt := by
  obtain ⟨_, _, _, h, hclosed⟩ := startMarked_key (k := k) (o := o) (s := s)
  rw [(startSettled_kept k o s).key, h, hclosed]
  exact ⟨rfl, rfl, rfl, rfl, rfl, rfl⟩

theorem startSettled_ne {j : Nat} (h : j ≠ k) : (startSettled k o s).key j = s.key j :=
  ((startSettled_kept k o s).others j h).trans (startMarked_ne h)

/-- A start changes no decoder but for the entry that it held. -/
theorem startSettled_dec (d : Nat) : (startSettled k o s).dec d = { s.dec d with held := ((startSettled k o s).dec d).held } := by
  rw [(startSettled_kept k o s).dec d, startMarked_dec]

theorem startSettled_portCount {w : Nat} (hw : w ≠ 0) (n : Nat) : (startSettled k o s).portCount n w = s.portCount n w := by
  rw [State.portCount, (startSettled_kept k o s).port]
  by_cases hn : n = k / 16
  · rw [hn, startMarked_port]; exact get_bump_ne _ _ hw
  · rw [startMarked_port_ne hn]; rfl

/-- The start is counted. -/
theorem startSettled_counts : PortCounts (k / 16) 0 s (startSettled k o s) := by
  rw [portCounts_iff, State.portCount, (startSettled_kept k o s).port, startMarked_port]
  exact get_bump_self ..

theorem startSettled_link : ((startSettled k o s).port (k / 16)).link = (s.port (k / 16)).link
    ∧ ((startSettled k o s).port (k / 16)).identity = (s.port (k / 16)).identity := by
  rw [(startSettled_kept k o s).port, startMarked_port]
  exact ⟨rfl, rfl⟩

/-! ### A start of a key without a change or a commit that waits -/

/-- With neither, the settings in force stay. -/
theorem startSettled_of_none (hheld : (s.key k).heldRoute = none) (hcommit : (s.key k).commit = none) :
    startSettled k o s = startMarked k o s := by
  have hchanged : startChanged k o s = startMarked k o s := by
    rw [startChanged, takeChange_of_none (startMarked_heldRoute.trans hheld)]
  rw [startSettled, hchanged, takeCommit_of_none (startMarked_commit.trans hcommit)]

theorem startFrame_takesIn (hheld : (s.key k).heldRoute = none) (hcommit : (s.key k).commit = none) :
    (startFrame k o s).routed = s.takesIn k o := by
  have hkeeps := startSettled_keeps k o s
  have hlink := startSettled_link (k := k) (o := o) (s := s)
  obtain ⟨-, -, -, -, hlidar, -⟩ := startSettled_key (k := k) (o := o) (s := s)
  have hheld' : ((startSettled k o s).key k).heldRoute = (s.key k).heldRoute := by
    rw [startSettled_of_none hheld hcommit, startMarked_heldRoute]
  have hring : ((startSettled k o s).key k).ring = (s.key k).ring ∧ ((startSettled k o s).key k).ringCtx = (s.key k).ringCtx := by
    rw [startSettled_of_none hheld hcommit]
    obtain ⟨_, _, _, h, -⟩ := startMarked_key (k := k) (o := o) (s := s)
    rw [h]
    exact ⟨rfl, rfl⟩
  have himg := hkeeps.img rfl
  have hdev := hkeeps.dev rfl
  show (startSettled k o s).takesIn k o = s.takesIn k o
  unfold State.takesIn
  dsimp only
  rw [routeOf_congr himg hheld', decOwner_congr hdev himg hheld', sensor_congr hlink.1 hlink.2 hlidar, hring.1, hring.2, hdev]

theorem startFrame_of_none (hheld : (s.key k).heldRoute = none) (hcommit : (s.key k).commit = none) :
    (startFrame k o s).route = s.routeOf k ∧ (startFrame k o s).recipe = s.recipeOf k
    ∧ ((startSettled k o s).key k).ring = (s.key k).ring ∧ ((startSettled k o s).key k).since = (s.key k).since := by
  have himg := (startSettled_keeps k o s).img rfl
  have hsettled := startSettled_of_none (o := o) hheld hcommit
  have hheld' : ((startSettled k o s).key k).heldRoute = (s.key k).heldRoute := by rw [hsettled, startMarked_heldRoute]
  refine ⟨routeOf_congr himg hheld', recipeOf_congr himg hheld', ?_⟩
  rw [hsettled]
  obtain ⟨_, _, _, h, -⟩ := startMarked_key (k := k) (o := o) (s := s)
  rw [h]
  exact ⟨rfl, rfl⟩

/-! ### A start that an agreed change waited for (R238) -/

/-- Whether a change is due does not depend on the intake. -/
theorem changeDue_congr {s t : State} (hdev : t.dev = s.dev) (hpath : ∀ h, (t.half h).pathOk = (s.half h).pathOk)
    (hrec : t.rec_ = s.rec_) (himg : t.img = s.img) (k : Nat) (seq : Word) : t.changeDue k seq = s.changeDue k seq := by
  unfold State.changeDue State.effectNamed
  rw [controlOk_congr hdev hpath, hrec, himg]

theorem startMarked_changeDue (seq : Word) : (startMarked k o s).changeDue k seq = s.changeDue k seq := by
  have h := startMarked_keeps k o s
  exact changeDue_congr (h.dev rfl) (fun x => congrArg HalfUnit.pathOk (h.half rfl rfl x)) (h.rec_ rfl) (h.img rfl) k seq

theorem startSettled_heldRoute (hdue : s.changeDue k (startSeq k o s) = true) :
    ((startSettled k o s).key k).heldRoute = none ∧ (startFrame k o s).route = s.img.entry 10 k := by
  have hheld : ((startSettled k o s).key k).heldRoute = none := by
    rw [startSettled, takeCommit_heldRoute]
    exact takeChange_heldRoute ((startMarked_changeDue _).trans hdue)
  have himg : (startSettled k o s).img = s.img := (startSettled_keeps k o s).img rfl
  refine ⟨hheld, ?_⟩
  show (startSettled k o s).routeOf k = _
  unfold State.routeOf
  rw [hheld, himg]

/-! ### The frame that a start leaves -/

/-- What a frame start leaves of its key, its port and the decoders; the frame may have been flagged by the write of its record. -/
structure Started (k : Nat) (o : Origin) (s t : State) : Prop where
  others : ∀ j, j ≠ k → t.key j = s.key j
  dec    : ∀ d, t.dec d = { s.dec d with held := ((startSettled k o s).dec d).held }
  counts : ∀ n w, w ≠ 0 → w ≠ 3 → w ≠ 7 → t.portCount n w = s.portCount n w
  start  : PortCounts (k / 16) 0 s t
  key    : t.key k = { (startSettled k o s).key k with
             frame := (t.key k).frame, since := (t.key k).since, resync := (t.key k).resync }

theorem startRouted_frame : ((startRouted k o s).key k).frame = some (startFrame k o s) := congrArg Key.frame (updKey_self ..)

theorem startUnrouted_frame : ((startUnrouted k o s).key k).frame = some (startFrame k o s) := by
  rw [startUnrouted, bumpPort, updPort_key, updKey_self]

/-- Frame bytes that go through change nothing of the open frame, and others set WRITE_FAULT alone. -/
theorem bufFlag_frame (k : Nat) (f : Frame) (off : Nat) (bs : List Byte) (s : State) :
    ((bufFlag k f off bs s).key k).frame
      = (s.key k).frame.map fun g => { g with flags := g.flags ||| faultMask (portWrite k f.ctx (f.buffer + off) bs s).1.isOk } := by
  rw [bufFlag_eq]
  cases (portWrite k f.ctx (f.buffer + off) bs s).1.isOk
  · rw [if_neg (by decide), setFlag, updFrame_frame, key_of_keys (bufWrite_keys ..)]
    rfl
  · rw [if_pos rfl, key_of_keys (bufWrite_keys ..)]
    cases (s.key k).frame with
    | none => rfl
    | some g => exact congrArg (fun m => some { g with flags := m }) (Nat.or_zero g.flags).symm

/-- A port's counter counts nothing in another counter of any port. -/
theorem bumpPort_portCount_other (m n i : Nat) {v w : Nat} (h : v ≠ w) (s : State) :
    (bumpPort n w i s).portCount m v = s.portCount m v := by
  by_cases hm : m = n
  · rw [hm]; exact bumpPort_portCount_ne n i h s
  · rw [State.portCount, bumpPort, updPort_ne _ _ _ hm]; rfl

/-- The write of a FILLING record. -/
def fillingWrites (k : Nat) (f : Frame) : List (Nat × List Byte) := [(rcpBytes f.recipe - 64, f.filling k)]

theorem putBytes_one (port : BitVec 5) (f : Frame) (a : Nat) (bs : List Byte) (s : State) :
    (putBytes port f [(a, bs)] s).1 = (vwrite (.unit (.port port)) f.ctx (f.buffer + a) bs s).1.isOk := by
  rw [putBytes_cons]
  exact Bool.and_true _

theorem writeFilling_frame (k : Nat) {f : Frame} {t : State} (h : Alike s t) (hf : (t.key k).frame = some f) :
    ((writeFilling k f t).key k).frame
      = some { f with flags := f.flags ||| faultMask (putBytes (keyPort k) f (fillingWrites k f) s).1 } := by
  have hw : SameAnswer (portWrite k f.ctx (f.buffer + (rcpBytes f.recipe - 64)) (f.filling k) s)
      (portWrite k f.ctx (f.buffer + (rcpBytes f.recipe - 64)) (f.filling k) t) := h.vwrite ..
  rw [writeFilling, bufFlag_frame, hf, fillingWrites, putBytes_one]
  exact congrArg (fun a : Except FaultClass Unit => some { f with flags := f.flags ||| faultMask a.isOk }) hw.answer

/-- The write of a routed frame's FILLING record does what it says to memory, and flags the frame where it fails. -/
theorem beginFrame_of_routed (h : (startFrame k o s).routed = true) :
    Started k o s (beginFrame k o s)
    ∧ Alike (putBytes (keyPort k) (startFrame k o s) (fillingWrites k (startFrame k o s)) s).2 (beginFrame k o s)
    ∧ ((beginFrame k o s).key k).frame = some { startFrame k o s with
        flags := faultMask (putBytes (keyPort k) (startFrame k o s) (fillingWrites k (startFrame k o s)) s).1 }
    ∧ ((beginFrame k o s).key k).since = ((startSettled k o s).key k).since + 1 := by
  rw [beginFrame_eq, if_pos h]
  have hopen : Alike s (startRouted k o s) := .of_keeps (startRouted_keeps k o s)
  have hself : (startRouted k o s).key k = { (startSettled k o s).key k with
      frame := some (startFrame k o s)
      since := ((startSettled k o s).key k).since + 1
      resync := if o = .live then false else ((startSettled k o s).key k).resync } := updKey_self ..
  obtain ⟨halike, hwork⟩ := forEach_bufFlag k (startFrame k o s) (fillingWrites k (startFrame k o s)) hopen
  have hframe := writeFilling_frame k hopen startRouted_frame
  rw [show (startFrame k o s).flags = 0 from rfl, Nat.zero_or] at hframe
  have hcount (n w : Nat) (hw : w ≠ 7) :
      (writeFilling k (startFrame k o s) (startRouted k o s)).portCount n w = (startSettled k o s).portCount n w :=
    hwork.counts n w hw
  have hkey : (writeFilling k (startFrame k o s) (startRouted k o s)).key k = { (startRouted k o s).key k with
      frame := ((writeFilling k (startFrame k o s) (startRouted k o s)).key k).frame } := hwork.key
  refine ⟨⟨fun j hj => ?_, fun d => ?_, fun n w h0 _ h7 => ?_, ?_, ?_⟩, halike, hframe, ?_⟩
  · exact (hwork.others j hj).trans ((updKey_ne _ _ _ hj).trans (startSettled_ne hj))
  · exact (dec_of_decoders hwork.decoders d).trans (startSettled_dec d)
  · exact (hcount n w h7).trans (startSettled_portCount h0 n)
  · rw [portCounts_iff, hcount _ _ (by decide)]
    exact startSettled_counts
  · rw [hkey, hself]
  · rw [hkey, hself]

theorem startUnrouted_portCount (n : Nat) {w : Nat} (h : w ≠ 3) :
    (startUnrouted k o s).portCount n w = (startSettled k o s).portCount n w :=
  bumpPort_portCount_other _ _ _ h _

theorem startUnrouted_counts : PortCounts (k / 16) 3 s (startUnrouted k o s) := by
  rw [portCounts_iff, startUnrouted, bumpPort_portCount_self]
  exact congrArg (fun x => (x + 1) % 2 ^ 64) (startSettled_portCount (by decide) _)

theorem startUnrouted_starts : PortCounts (k / 16) 0 s (startUnrouted k o s) :=
  portCounts_iff.2 ((startUnrouted_portCount _ (by decide)).trans (portCounts_iff.1 startSettled_counts))

/-- A frame that is not taken in opens without a record, and is counted. -/
theorem beginFrame_of_unrouted (h : (startFrame k o s).routed = false) :
    Started k o s (beginFrame k o s) ∧ Keeps 0x810 s (beginFrame k o s)
    ∧ ((beginFrame k o s).key k).frame = some (startFrame k o s) ∧ PortCounts (k / 16) 3 s (beginFrame k o s) := by
  rw [beginFrame_eq, if_neg (by rw [h]; decide)]
  have hself : (startUnrouted k o s).key k = { (startSettled k o s).key k with frame := some (startFrame k o s) } := by
    rw [startUnrouted, bumpPort, updPort_key, updKey_self]
  refine ⟨⟨fun j hj => ?_, fun d => ?_, fun n w h0 h3 _ => ?_, ?_, ?_⟩, startUnrouted_keeps .., startUnrouted_frame, ?_⟩
  · rw [startUnrouted, bumpPort, updPort_key, updKey_ne _ _ _ hj, startSettled_ne hj]
  · rw [startUnrouted, bumpPort, updPort_dec, updKey_dec]; exact startSettled_dec d
  · exact (startUnrouted_portCount n h3).trans (startSettled_portCount h0 n)
  · exact startUnrouted_starts
  · rw [hself]
  · exact startUnrouted_counts

end

end Sys2Proof.Machine
end

section
/-! Camera packets: what the receiver leaves of a packet, frame starts and ends, lines and embedded data (R222, R234 to R246). -/
namespace Sys2Proof.Machine

/-! ### The receiver (R222) -/

/-- A corrected header is counted. -/
def headerCounted (n : Nat) (header : Header) (s : State) : State := if header = .corrected then bumpPort n 4 1 s else s

/-- A packet whose header came through, counted and flagged for its CRC-16. -/
def received (k : Nat) (crcOk : Bool) (header : Header) (s : State) : State :=
  if crcOk then headerCounted (k / 16) header s else setFlag k ffLink (bumpPort (k / 16) 4 1 (headerCounted (k / 16) header s))

/-- A packet whose header did not come through. -/
def headerLost (k : Nat) (s : State) : State := setFlag k ffLink (bumpPort (k / 16) 4 1 s)

/-- The flag of a packet's CRC-16. -/
def crcMask (crcOk : Bool) : Nat := if crcOk then 0 else ffLink

section
variable {k n vc : Nat} {crcOk : Bool} {header : Header} {s : State}

theorem receivePacket_of_read (h : header ≠ .uncorrectable) : receivePacket k crcOk header s = (true, received k crcOk header s) := by
  cases header with
  | uncorrectable => exact absurd rfl h
  | good => rfl
  | corrected => rfl

theorem camFrameStart_of_read (hc : s.camReceives n = true) (h : header ≠ .uncorrectable) :
    camFrameStart n vc header s = liveStart (keyOf n vc) (received (keyOf n vc) true header s) := by
  unfold camFrameStart; rw [hc]; dsimp only; rw [receivePacket_of_read h]; rfl

theorem camFrameEnd_of_read (hc : s.camReceives n = true) (h : header ≠ .uncorrectable) :
    camFrameEnd n vc header s = closeFrame (keyOf n vc) 0 (received (keyOf n vc) true header s) := by
  unfold camFrameEnd; rw [hc]; dsimp only; rw [receivePacket_of_read h]; rfl

theorem longPacket_of_other {dt : Nat} {payload : List Byte} (hc : s.camReceives n = true) (hdt : dt ≠ 0x12)
    (h : header ≠ .uncorrectable) (hy : csiType dt = none) :
    longPacket n vc dt payload crcOk header s = bumpPort n 5 1 (received (keyOf n vc) crcOk header s) := by
  unfold longPacket
  rw [if_neg (by simp [hc, hdt])]
  dsimp only
  rw [receivePacket_of_read h]
  dsimp only
  rw [hy]

theorem longPacket_of_type {dt y : Nat} {payload : List Byte} (hc : s.camReceives n = true) (hdt : dt ≠ 0x12)
    (h : header ≠ .uncorrectable) (hy : csiType dt = some y) :
    longPacket n vc dt payload crcOk header s = imageLine (keyOf n vc) y payload (received (keyOf n vc) crcOk header s) := by
  unfold longPacket
  rw [if_neg (by simp [hc, hdt])]
  dsimp only
  rw [receivePacket_of_read h]
  dsimp only
  rw [hy]

theorem embeddedData_of_read {payload : List Byte} (hc : s.camReceives n = true) (h : header ≠ .uncorrectable) :
    embeddedData n vc payload crcOk header s
      = if ((received (keyOf n vc) crcOk header s).port n).link = 3 then
          embeddedLine (keyOf n vc) payload (received (keyOf n vc) crcOk header s)
        else received (keyOf n vc) crcOk header s := by
  unfold embeddedData; rw [hc]; dsimp only; rw [receivePacket_of_read h]; rfl

theorem headerCounted_keeps (n : Nat) (header : Header) (s : State) : Keeps 0x800 s (headerCounted n header s) := by
  unfold headerCounted; split
  · exact bumpPort_keeps ..
  · exact .refl _

theorem received_keeps (k : Nat) (crcOk : Bool) (header : Header) (s : State) : Keeps 0x800 s (received k crcOk header s) := by
  unfold received; split
  · exact headerCounted_keeps ..
  · exact ((headerCounted_keeps ..).trans (bumpPort_keeps ..)).trans (setFlag_keeps ..)

theorem headerCounted_keys : (headerCounted n header s).intake.keys = s.intake.keys := by unfold headerCounted; split <;> rfl

theorem headerCounted_port (m : Nat) :
    (headerCounted n header s).port m = { s.port m with ctr := ((headerCounted n header s).port m).ctr } := by
  unfold headerCounted
  split
  · by_cases hm : m = n
    · rw [hm, bumpPort, updPort_self]
    · rw [bumpPort, updPort_ne _ _ _ hm]
  · rfl

theorem headerCounted_portCount (m : Nat) {w : Nat} (hw : w ≠ 4) : (headerCounted n header s).portCount m w = s.portCount m w := by
  unfold headerCounted
  split
  · exact bumpPort_portCount_other _ _ _ hw _
  · rfl

/-- The receiver changes no other key, of its key the open frame's flags, and of ports their counters. -/
theorem received_ne {j : Nat} (h : j ≠ k) : (received k crcOk header s).key j = s.key j := by
  unfold received
  split
  · exact key_of_keys headerCounted_keys j
  · rw [setFlag, updFrame, updKey_ne _ _ _ h, bumpPort, updPort_key, key_of_keys headerCounted_keys]

theorem map_flags_zero (o : Option Frame) : (o.map fun f => { f with flags := f.flags ||| 0 }) = o := by
  cases o with
  | none => rfl
  | some f => exact congrArg (fun m => some { f with flags := m }) (Nat.or_zero f.flags)

theorem received_key : (received k crcOk header s).key k
    = { s.key k with frame := (s.key k).frame.map fun f => { f with flags := f.flags ||| crcMask crcOk } } := by
  unfold received
  cases crcOk with
  | true =>
    rw [if_pos rfl, key_of_keys headerCounted_keys]
    exact congrArg (fun o => { s.key k with frame := o }) (map_flags_zero _).symm
  | false =>
    rw [if_neg (by decide), setFlag, updFrame, updKey_self, bumpPort, updPort_key, key_of_keys headerCounted_keys]
    rfl

theorem received_frame {f : Frame} (h : (s.key k).frame = some f) :
    ((received k crcOk header s).key k).frame = some { f with flags := f.flags ||| crcMask crcOk } := by
  rw [received_key, h]; rfl

theorem received_port (m : Nat) : ∃ c, (received k crcOk header s).port m = { s.port m with ctr := c } := by
  unfold received
  split
  · exact ⟨_, headerCounted_port m⟩
  · rw [setFlag, updFrame, updKey_port, bumpPort]
    by_cases hm : m = k / 16
    · rw [hm, updPort_self, headerCounted_port]; exact ⟨_, rfl⟩
    · rw [updPort_ne _ _ _ hm, headerCounted_port]; exact ⟨_, rfl⟩

theorem received_portCount (m : Nat) {w : Nat} (hw : w ≠ 4) : (received k crcOk header s).portCount m w = s.portCount m w := by
  unfold received
  split
  · exact headerCounted_portCount m hw
  · exact (bumpPort_portCount_other _ _ _ hw _).trans (headerCounted_portCount m hw)

/-- A corrected header is counted, and so is a bad CRC-16. -/
theorem received_corrected : PortCounts (k / 16) 4 s (received k true .corrected s) := bumpPort_counts ..

theorem received_badCrc : PortCounts (k / 16) 4 s (received k false .good s) := bumpPort_counts ..

/-- A lost header: what `HeaderLost` asks. -/
theorem headerLost_of_exec {c : Instr} {k n : Nat} (hk : k / 16 = n) (h : exec c s = .next (headerLost k s)) : HeaderLost c n k s := by
  subst hk
  have hkeeps : Keeps 0x800 s (headerLost k s) := (bumpPort_keeps ..).trans (setFlag_keeps ..)
  refine ⟨_, h, hkeeps.units [.intake] rfl, (OnlyPort.updPort ..).trans (.updKey rfl ..), bumpPort_counts _ _ _, fun j hj => ?_, ?_⟩
  · exact updKey_ne _ _ _ hj
  · exact updKey_self ..

end

/-! ### Live starts (R235, R236, R238, R250) -/

section
variable {k : Nat} {s t : State}

theorem ownerLeaves_congr (hdev : t.dev = s.dev) (himg : t.img = s.img) (hrec : t.rec_ = s.rec_)
    (hpath : ∀ h, (t.half h).pathOk = (s.half h).pathOk) (hheld : (t.key k).heldRoute = (s.key k).heldRoute) :
    t.ownerLeaves k = s.ownerLeaves k := by
  unfold State.ownerLeaves; rw [hrec, hheld, tableOwner_congr hdev himg, controlOk_congr hdev hpath]

/-- Live frames of the key are taken in, or a change takes its owner away. -/
def State.startTaken (s : State) (k : Nat) : Prop := s.stray k = false ∨ s.ownerLeaves k = true

theorem startTaken_congr (hkeeps : Keeps 0x800 s t) (hheld : (t.key k).heldRoute = (s.key k).heldRoute) :
    t.startTaken k ↔ s.startTaken k := by
  have hpath (h : Half) : (t.half h).pathOk = (s.half h).pathOk := congrArg HalfUnit.pathOk (hkeeps.half rfl rfl h)
  unfold State.startTaken
  rw [stray_congr (hkeeps.dev rfl) (hkeeps.img rfl) (hkeeps.rec_ rfl) hheld,
    ownerLeaves_congr (hkeeps.dev rfl) (hkeeps.img rfl) (hkeeps.rec_ rfl) hpath hheld]

theorem liveStart_of_taken (h : s.startTaken k) : liveStart k s = beginFrame k .live s := by
  unfold liveStart
  rw [if_neg]
  rcases h with h | h <;> simp [h]

theorem liveStart_of_stray (h : ¬s.startTaken k) : liveStart k s = strayStart k s := by
  unfold liveStart
  unfold State.startTaken at h
  rw [if_pos]
  cases hs : s.stray k <;> cases ho : s.ownerLeaves k <;> simp [hs, ho] at h ⊢

theorem strayStart_counts (k : Nat) (s : State) :
    PortCounts (k / 16) 0 s (strayStart k s) ∧ PortCounts (k / 16) 3 s (strayStart k s) := by
  constructor
  · exact (bumpPort_counts (k / 16) 0 s).around rfl (bumpPort_portCount_ne _ _ (by decide) _)
  · exact (bumpPort_counts (k / 16) 3 _).around (bumpPort_portCount_ne _ _ (by decide) _) rfl

theorem strayStart_portCount (k : Nat) (s : State) (n : Nat) {w : Nat} (h0 : w ≠ 0) (h3 : w ≠ 3) :
    (strayStart k s).portCount n w = s.portCount n w :=
  (bumpPort_portCount_other _ _ _ h3 _).trans (bumpPort_portCount_other _ _ _ h0 _)

theorem strayStart_keys (k : Nat) (s : State) : (strayStart k s).intake.keys = s.intake.keys := rfl

end

/-! ### The frame that a start leaves -/

section
variable {k : Nat} {o : Origin} {s : State}

/-- Routed or not, a start leaves the frame that opens, flagged where its record could not be written. -/
theorem beginFrame_started (k : Nat) (o : Origin) (s : State) :
    Started k o s (beginFrame k o s) ∧ ∃ m, ((beginFrame k o s).key k).frame = some { startFrame k o s with flags := m } := by
  cases h : (startFrame k o s).routed with
  | true => obtain ⟨hstarted, -, hframe, -⟩ := beginFrame_of_routed h; exact ⟨hstarted, _, hframe⟩
  | false => obtain ⟨hstarted, -, hframe, -⟩ := beginFrame_of_unrouted h; exact ⟨hstarted, _, hframe⟩

/-- The key after a start. -/
theorem Started.key_facts {t : State} (h : Started k o s t) : (t.key k).seq = startSeq k o s ∧ (t.key k).lastStart = some s.hp
    ∧ (t.key k).stalled = false ∧ (t.key k).ring = ((startSettled k o s).key k).ring
    ∧ (t.key k).heldRoute = ((startSettled k o s).key k).heldRoute
    ∧ (t.key k).closed = (s.key k).closed ++ (s.key k).frame.toList.map (fun f => (closedFrame k ffTrunc (s.key k) f).2)
    ∧ (t.key k).lidar = (s.key k).lidar ∧ (t.key k).lidarAt = (s.key k).lidarAt := by
  obtain ⟨hseq, hlast, hstalled, hclosed, hlidar, hat⟩ := startSettled_key (k := k) (o := o) (s := s)
  rw [h.key]
  exact ⟨hseq, hlast, hstalled, rfl, rfl, hclosed, hlidar, hat⟩

theorem startFrame_start : (startFrame k o s).start = s.time.ts := congrArg Time.ts ((startSettled_keeps k o s).time rfl)

theorem startFrame_buffer : (startFrame k o s).buffer = ((startSettled k o s).key k).ring.getD
    (((startSettled k o s).key k).since % ((startSettled k o s).key k).ring.length) 0 := by
  show (if ((startSettled k o s).key k).ring.isEmpty = true then 0 else _) = _
  cases ((startSettled k o s).key k).ring <;> rfl

/-- The flags of a frame are no part of its FILLING record or of where it is written. -/
theorem fillingWrites_flags (k m : Nat) (f : Frame) : fillingWrites k { f with flags := m } = fillingWrites k f := rfl

end

end Sys2Proof.Machine
end

section
/-! Frame starts and ends of cameras (R222, R234, R236, R238; logs 24 and 25). -/
namespace Sys2Proof.Machine

/-! ### The frame that a live start opens -/

/-- What a live start leaves of the frame that it opens. -/
structure LiveOpened (k : Nat) (s t : State) (f : Frame) : Prop where
  frame    : (t.key k).frame = some f
  fresh    : f.seq = (s.key k).seq + 1 ∧ f.start = s.time.ts ∧ f.units = 0 ∧ f.counter = none
  settings : (s.key k).heldRoute = none → (s.key k).commit = none →
      (t.key k).ring = (s.key k).ring ∧ f.route = s.routeOf k ∧ f.recipe = s.recipeOf k ∧ f.routed = s.takesIn k .live
      ∧ (f.routed = true → f.buffer = (s.key k).ring.getD ((s.key k).since % (s.key k).ring.length) 0
          ∧ (t.key k).since = (s.key k).since + 1)
  change   : s.changeDue k ((s.key k).seq + 1) = true → (t.key k).heldRoute = none ∧ f.route = s.img.entry 10 k
  record   : f.routed = true → Alike (putBytes (keyPort k) f (fillingWrites k f) s).2 t
      ∧ f.flags.testBit 7 = !(putBytes (keyPort k) f (fillingWrites k f) s).1
  unrouted : f.routed = false → PortCounts (k / 16) 3 s t ∧ t.mem = s.mem

section
variable {k n : Nat} {header : Header} {s t u : State}

theorem beginFrame_opened (k : Nat) (s : State) : ∃ f, LiveOpened k s (beginFrame k .live s) f := by
  obtain ⟨hstarted, m, hframe⟩ := beginFrame_started k .live s
  obtain ⟨-, -, -, hring, hheld, -⟩ := hstarted.key_facts
  refine ⟨_, hframe, ⟨rfl, startFrame_start, rfl, rfl⟩, fun hh hc => ?_, fun hdue => ?_, fun hr => ?_, fun hr => ?_⟩
  · obtain ⟨hroute, hrecipe, hringS, hsince⟩ := startFrame_of_none (o := .live) hh hc
    refine ⟨hring.trans hringS, hroute, hrecipe, startFrame_takesIn hh hc, fun hr => ⟨?_, ?_⟩⟩
    · rw [← hringS, ← hsince]; exact startFrame_buffer
    · obtain ⟨-, -, -, h⟩ := beginFrame_of_routed (k := k) (o := .live) (s := s) hr
      rw [h, hsince]
  · obtain ⟨hnone, hroute⟩ := startSettled_heldRoute (o := .live) hdue
    exact ⟨hheld.trans hnone, hroute⟩
  · obtain ⟨-, halike, hf, -⟩ := beginFrame_of_routed (k := k) (o := .live) (s := s) hr
    rw [fillingWrites_flags, putBytes_congr rfl rfl]
    refine ⟨halike, ?_⟩
    rw [hframe] at hf
    rw [Option.some.inj hf]
    exact faultMask_testBit _
  · obtain ⟨-, hkeeps, -, hcount⟩ := beginFrame_of_unrouted (k := k) (o := .live) (s := s) hr
    exact ⟨hcount, hkeeps.mem rfl⟩

/-- What a counted header leaves as it was. -/
structure Counted (s u : State) : Prop where
  keeps  : Keeps 0x800 s u
  keys   : u.intake.keys = s.intake.keys
  port   : ∀ n, ∃ c, u.port n = { s.port n with ctr := c }
  counts : ∀ n w, w ≠ 4 → u.portCount n w = s.portCount n w

theorem headerCounted_counted (n : Nat) (header : Header) (s : State) : Counted s (headerCounted n header s) where
  keeps := headerCounted_keeps ..
  keys := headerCounted_keys
  port m := ⟨_, headerCounted_port m⟩
  counts m _ hw := headerCounted_portCount m hw

section
variable (h : Counted s u)
include h

theorem Counted.key (k : Nat) : u.key k = s.key k := key_of_keys h.keys k
theorem Counted.pathOk (x : Half) : (u.half x).pathOk = (s.half x).pathOk := congrArg HalfUnit.pathOk (h.keeps.half rfl rfl x)
theorem Counted.alike : Alike s u := .of_keeps h.keeps

theorem Counted.link (n : Nat) : (u.port n).link = (s.port n).link ∧ (u.port n).identity = (s.port n).identity := by
  obtain ⟨c, hc⟩ := h.port n
  rw [hc]
  exact ⟨rfl, rfl⟩

theorem Counted.takesIn (k : Nat) (o : Origin) : u.takesIn k o = s.takesIn k o := by
  have hheld : (u.key k).heldRoute = (s.key k).heldRoute := congrArg Key.heldRoute (h.key k)
  have hlink := h.link (k / 16)
  unfold State.takesIn
  dsimp only
  rw [routeOf_congr (h.keeps.img rfl) hheld, decOwner_congr (h.keeps.dev rfl) (h.keeps.img rfl) hheld,
    sensor_congr hlink.1 hlink.2 (congrArg Key.lidar (h.key k)), h.key, h.keeps.dev rfl]

theorem Counted.startTaken (k : Nat) : u.startTaken k ↔ s.startTaken k := startTaken_congr h.keeps (congrArg Key.heldRoute (h.key k))

/-- A start behind a counted header opens the frame that the state before it calls for. -/
theorem Counted.opened {f : Frame} (hf : LiveOpened k u t f) : LiveOpened k s t f := by
  have hkey := h.key k
  have himg := h.keeps.img rfl
  have hheld : (u.key k).heldRoute = (s.key k).heldRoute := congrArg Key.heldRoute hkey
  have hbytes := h.alike.putBytes (keyPort k) f (fillingWrites k f)
  obtain ⟨hseq, hstart, hunits, hctr⟩ := hf.fresh
  refine ⟨hf.frame, ⟨?_, ?_, hunits, hctr⟩, fun hh hc => ?_, fun hdue => ?_, fun hr => ?_, fun hr => ?_⟩
  · rw [hseq, hkey]
  · rw [hstart, h.keeps.time rfl]
  · have hset := hf.settings (by rw [hkey]; exact hh) (by rw [hkey]; exact hc)
    rwa [hkey, h.takesIn, routeOf_congr himg hheld, recipeOf_congr himg hheld] at hset
  · rw [← himg]
    refine hf.change ?_
    rw [hkey, changeDue_congr (h.keeps.dev rfl) h.pathOk (h.keeps.rec_ rfl) himg]
    exact hdue
  · obtain ⟨halike, hbit⟩ := hf.record hr
    exact ⟨hbytes.alike.trans halike, by rw [hbit, hbytes.answer]⟩
  · obtain ⟨hcount, hmem⟩ := hf.unrouted hr
    exact ⟨hcount.around (h.counts _ _ (by decide)) rfl, hmem.trans (h.keeps.mem rfl)⟩

end

end

/-! ### Frame starts -/

section
variable {port : BitVec 5} {vc : BitVec 4} {header : Header} {s : State}

theorem keyPort_keyOf (port : BitVec 5) (sel : BitVec 4) : keyPort (keyOf port.toNat sel.toNat) = port := by
  rw [keyPort, keyOf_sel_div, BitVec.ofNat_toNat, BitVec.setWidth_eq]

theorem received_of_crc (k : Nat) (header : Header) (s : State) :
    received k true header s = headerCounted (k / 16) header s := if_pos rfl

theorem exec_frameStart (hup : s.intakeUp = true) (hc : s.camReceives port.toNat = true) (h : header ≠ .uncorrectable) :
    exec (.frameStart port vc header) s = .next (liveStart (keyOf port.toNat vc.toNat) (headerCounted port.toNat header s)) := by
  rw [show exec (.frameStart port vc header) s = intake (camFrameStart port.toNat vc.toNat header) s from rfl, intake_of_up hup,
    camFrameStart_of_read hc h, received_of_crc, keyOf_sel_div]

theorem exec_frameEnd (hup : s.intakeUp = true) (hc : s.camReceives port.toNat = true) (h : header ≠ .uncorrectable) :
    exec (.frameEnd port vc header) s = .next (closeFrame (keyOf port.toNat vc.toNat) 0 (headerCounted port.toNat header s)) := by
  rw [show exec (.frameEnd port vc header) s = intake (camFrameEnd port.toNat vc.toNat header) s from rfl, intake_of_up hup,
    camFrameEnd_of_read hc h, received_of_crc, keyOf_sel_div]

theorem frameStart_headerLost (hup : s.intakeUp = true) (hc : s.camReceives port.toNat = true) :
    HeaderLost (.frameStart port vc .uncorrectable) port.toNat (keyOf port.toNat vc.toNat) s := by
  refine headerLost_of_exec (keyOf_sel_div ..) ?_
  rw [show exec (.frameStart port vc .uncorrectable) s = intake (camFrameStart port.toNat vc.toNat .uncorrectable) s from rfl,
    intake_of_up hup, camFrameStart, hc]
  rfl

theorem frameEnd_headerLost (hup : s.intakeUp = true) (hc : s.camReceives port.toNat = true) :
    HeaderLost (.frameEnd port vc .uncorrectable) port.toNat (keyOf port.toNat vc.toNat) s := by
  refine headerLost_of_exec (keyOf_sel_div ..) ?_
  rw [show exec (.frameEnd port vc .uncorrectable) s = intake (camFrameEnd port.toNat vc.toNat .uncorrectable) s from rfl,
    intake_of_up hup, camFrameEnd, hc]
  rfl

theorem headerCounted_corrected (n : Nat) (s : State) : PortCounts n 4 s (headerCounted n .corrected s) := bumpPort_counts ..

/-- A counted header stays counted behind what leaves the counter alone. -/
theorem corrected_counts {n : Nat} {t : State} (h : t.portCount n 4 = (headerCounted n header s).portCount n 4)
    (hh : header = .corrected) : PortCounts n 4 s t := by
  subst hh
  exact (headerCounted_corrected n s).around rfl h

theorem strayFrameStarts (hup : s.intakeUp = true) (hc : s.camReceives port.toNat = true) (h : header ≠ .uncorrectable)
    (hstray : ¬s.startTaken (keyOf port.toNat vc.toNat)) :
    ∃ t, exec (.frameStart port vc header) s = .next t ∧ OnlyUnits [.intake] s t
      ∧ t.intake.keys = s.intake.keys ∧ PortCounts port.toNat 0 s t ∧ PortCounts port.toNat 3 s t
      ∧ (header = .corrected → PortCounts port.toNat 4 s t) := by
  have hu := headerCounted_counted port.toNat header s
  obtain ⟨h0, h3⟩ := strayStart_counts (keyOf port.toNat vc.toNat) (headerCounted port.toNat header s)
  rw [keyOf_sel_div] at h0 h3
  refine ⟨_, exec_frameStart hup hc h, ?_⟩
  rw [liveStart_of_stray (mt (hu.startTaken _).1 hstray)]
  refine ⟨(hu.keeps.trans (strayStart_keeps ..)).units [.intake] rfl, ?_, ?_, ?_, ?_⟩
  · exact (strayStart_keys ..).trans hu.keys
  · exact h0.around (hu.counts _ _ (by decide)) rfl
  · exact h3.around (hu.counts _ _ (by decide)) rfl
  · exact corrected_counts (strayStart_portCount _ _ _ (by decide) (by decide))

theorem framesEnd (hup : s.intakeUp = true) (hc : s.camReceives port.toNat = true) (h : header ≠ .uncorrectable) :
    ∃ t, exec (.frameEnd port vc header) s = .next t ∧ OnlyUnits [.intake] s t
      ∧ (∀ j, j ≠ keyOf port.toNat vc.toNat → t.key j = s.key j) ∧ (header = .good → t.intake.ports = s.intake.ports)
      ∧ (header = .corrected → PortCounts port.toNat 4 s t) ∧ (t.key (keyOf port.toNat vc.toNat)).frame = none
      ∧ ∀ f, (s.key (keyOf port.toNat vc.toNat)).frame = some f →
        (t.key (keyOf port.toNat vc.toNat)).closed.length = (s.key (keyOf port.toNat vc.toNat)).closed.length + 1 := by
  have hu := headerCounted_counted port.toNat header s
  refine ⟨_, exec_frameEnd hup hc h, (hu.keeps.trans (closeFrame_keeps ..)).units [.intake] rfl, fun j hj => ?_, ?_, ?_,
    closeFrame_frame .., fun f hf => ?_⟩
  · rw [closeFrame_ne _ _ _ hj, hu.key]
  · rintro rfl
    exact closeFrame_ports ..
  · exact corrected_counts (portCount_of_ctr (congrArg Port.ctr (closeFrame_port ..)) 4)
  · rw [closeFrame_closed_length (f := f) (by rw [hu.key]; exact hf), hu.key]

/-- Frame starts and ends do as said. -/
theorem cameraFramesOpenAndClose : CameraFramesOpenAndClose := by
  intro port vc header s hup hc n k taken
  refine ⟨frameStart_headerLost hup hc, frameEnd_headerLost hup hc, strayFrameStarts hup hc, fun h htaken => ?_, framesEnd hup hc⟩
  have hu := headerCounted_counted n header s
  have hk : k / 16 = n := keyOf_sel_div ..
  have hlive := liveStart_of_taken ((hu.startTaken k).2 htaken)
  obtain ⟨hstarted, -⟩ := beginFrame_started k .live (headerCounted n header s)
  obtain ⟨hseq, hlast, hstalled, -, -, hclosed, -⟩ := hstarted.key_facts
  obtain ⟨f, hf⟩ := beginFrame_opened k (headerCounted n header s)
  have hf := hu.opened hf
  obtain ⟨hfseq, hfstart, hfunits, hfctr⟩ := hf.fresh
  refine ⟨_, f, exec_frameStart hup hc h, ?_⟩
  rw [hlive]
  refine ⟨(hu.keeps.up.trans (beginFrame_keeps k .live _)).units _ rfl, fun j hj => (hstarted.others j hj).trans (hu.key j), ?_, ?_,
    hf.frame, hfseq, hfstart, hfunits, hfctr, ?_, ?_, hstalled, fun old hold => ?_, hf.settings, fun r _ hmode hctl => ?_,
    fun hr _ w hw => ?_, fun hr _ => ?_, fun hr => ?_⟩
  · exact (hk ▸ hstarted.start).around (hu.counts _ _ (by decide)) rfl
  · exact corrected_counts (hstarted.counts _ _ (by decide) (by decide) (by decide))
  · rw [hseq, startSeq, hu.key]; rfl
  · rw [hlast, State.hp, hu.keeps.time rfl]
  · rw [hclosed, hu.key, hold]; simp
  · exact hf.change (by simp [State.changeDue, hctl, hmode])
  · have hbit := (hf.record hr).2
    rw [keyPort_keyOf] at hbit
    rw [hbit, ← hw]; rfl
  · have halike := (hf.record hr).1
    rw [keyPort_keyOf] at halike
    exact ⟨halike.dram, halike.shared⟩
  · have hun := hf.unrouted hr
    rwa [hk] at hun

end

end Sys2Proof.Machine
end

section
/-! Long packets and embedded data of cameras (R222, R235, R240, R244 to R246; log 24). -/
namespace Sys2Proof.Machine

/-! ### A packet received for an open frame -/

section
variable {k n : Nat} {crcOk : Bool} {header : Header} {s t u : State}

/-- The flag of a packet's CRC-16 is not WRITE_FAULT. -/
theorem crcMask_fault (crcOk : Bool) (m : Nat) : (m ||| crcMask crcOk).testBit 7 = m.testBit 7 := by
  rw [Nat.testBit_or, show (crcMask crcOk).testBit 7 = false by cases crcOk <;> rfl, Bool.or_false]

theorem crcMask_link (m m' : Nat) : (m ||| crcMask false ||| m').testBit 4 = true := by
  rw [Nat.testBit_or, Nat.testBit_or, show (crcMask false).testBit 4 = true from rfl, Bool.or_true, Bool.true_or]

/-- The writes of a frame look at no state but memory, the image and the paths. -/
theorem FrameWritten.of_alike {port : BitVec 5} {f g f' : Frame} {l : List (Nat × List Byte)} (halike : Alike s u)
    (hpath : ∀ h, (u.half h).pathOk = (s.half h).pathOk) (hctx : g.ctx = f.ctx) (hbuffer : g.buffer = f.buffer)
    (hflag : g.flags.testBit 7 = f.flags.testBit 7) (h : FrameWritten port g f' l u t) : FrameWritten port f f' l s t := by
  obtain ⟨hput, hdown⟩ := h
  have hup : u.pathUp g.ctx = s.pathUp f.ctx := by rw [hctx]; exact pathUp_congr halike.img hpath _
  have hbytes := halike.putBytes port f l
  rw [putBytes_congr hctx hbuffer] at hput
  refine ⟨fun h => ?_, fun h => ?_⟩
  · obtain ⟨hdram, hshared, hfault, hgood⟩ := hput (hup.trans h)
    refine ⟨hdram.trans hbytes.alike.dram, hshared.trans hbytes.alike.shared, fun hr => hfault (hbytes.answer.trans hr), fun hr => ?_⟩
    rw [hgood (hbytes.answer.trans hr), hflag]
  · obtain ⟨hdram, hshared, hne⟩ := hdown (hup.trans h)
    exact ⟨hdram.trans halike.dram, hshared.trans halike.shared, hne⟩

/-- A packet received is counted where its header was corrected, or else where its CRC-16 is bad. -/
theorem received_counts (hk : k / 16 = n) (ht : t.portCount n 4 = (received k crcOk header s).portCount n 4) :
    (header = .corrected → crcOk = true → PortCounts n 4 s t) ∧ (header = .good → crcOk = false → PortCounts n 4 s t) := by
  subst hk
  refine ⟨?_, ?_⟩
  · rintro rfl rfl; exact received_corrected.around rfl ht
  · rintro rfl rfl; exact received_badCrc.around rfl ht

end

/-! ### Lines (R235, R244 to R246) -/

/-- The open frame that has taken in a line. -/
def Frame.lined (f : Frame) (line : List Byte) : Frame :=
  { f with units := f.units + 1, crcState := line.foldl crc32cByte f.crcState,
           payload := if f.routed then f.payload ++ line else f.payload }

theorem lineWrites_flags (f : Frame) (m : Nat) (line : List Byte) : lineWrites { f with flags := m } line = lineWrites f line := rfl

/-- A line taken in behind its bytes. -/
theorem Frame.Filled.lined {m b : Nat} {f g : Frame} (h : f.Filled m b g) (line : List Byte) :
    (g.lined line).units = f.units + 1 ∧ (g.lined line).seq = f.seq
    ∧ (g.lined line).payload = (if f.routed then f.payload ++ line else f.payload)
    ∧ (g.lined line).crcState = line.foldl crc32cByte f.crcState ∧ (g.lined line).flags = f.flags ||| m
    ∧ (g.lined line).bytes = f.bytes + b := by
  rw [h.eq]
  exact ⟨rfl, rfl, rfl, rfl, rfl, rfl⟩

section
variable {k y : Nat} {line : List Byte} {s : State} {f : Frame}

theorem imageLine_of_open (h : (s.key k).frame = some f) :
    imageLine k y line s = updFrame k (·.lined line) (if f.routed then putLine k f y line s else s) := by
  unfold imageLine; rw [h]; rfl

/-- A line of a frame that is not routed only counts in it. -/
theorem imageLine_unrouted (h : (s.key k).frame = some f) (hr : f.routed = false) (y : Nat) (line : List Byte) :
    Keeps 0x800 s (imageLine k y line s) := by
  rw [imageLine_of_open h, hr]
  exact updFrame_keeps ..

/-- An image line in an open frame: what it leaves, the frame that takes it in, and the line's bytes. -/
theorem imageLine_lined (h : (s.key k).frame = some f) (y : Nat) (line : List Byte) :
    (∀ j, j ≠ k → (imageLine k y line s).key j = s.key j)
    ∧ (∀ n w, w ≠ 7 → (imageLine k y line s).portCount n w = s.portCount n w)
    ∧ ∃ m b g, ((imageLine k y line s).key k).frame = some (g.lined line) ∧ f.Filled m b g
      ∧ (f.routed = true → b = (if rcpOutMode f.recipe = 3 then (copyPart f line).length else 0)
          ∧ FrameWritten (keyPort k) f (g.lined line) (lineWrites f line) s (imageLine k y line s)) := by
  rw [imageLine_of_open h]
  cases hr : f.routed with
  | false =>
    rw [if_neg (by decide)]
    refine ⟨fun j hj => updKey_ne _ _ _ hj, fun _ _ _ => rfl, 0, 0, f, ?_, .refl f, by simp⟩
    rw [updFrame_frame, h]; rfl
  | true =>
    rw [if_pos rfl]
    obtain ⟨m, hw⟩ := putLine_write k f y line s
    obtain ⟨g, hg, hfilled⟩ := hw.opened f h
    refine ⟨fun j hj => (updKey_ne _ _ _ hj).trans (hw.others j hj), hw.counts, m, _, g, ?_, hfilled, fun _ => ⟨rfl, ?_⟩⟩
    · rw [updFrame_frame, hg]; rfl
    · obtain ⟨-, -, -, -, hflags, -⟩ := hfilled.lined line
      exact hw.frameWritten (f' := g.lined line) (g := f) rfl hflags rfl rfl

end

/-! ### Embedded data (R224, R240) -/

/-- The word of an identity block that places embedded data and its fields. -/
def embedWord (s : State) (n : Nat) : Word := wordAt (s.port n).identity 24

/-- The line stands where the identity block says. -/
def EmbedPlaced (w : Word) (f : Frame) : Prop := if w.getLsbD 48 = true then f.units = 0 ∧ f.embedded = none else f.units ≠ 0

/-- The line holds the fields that the identity block places in it. -/
def EmbedFits (w : Word) (line : List Byte) : Prop :=
  w.toNat % 2 ^ 16 + 4 ≤ line.length ∧ w.toNat / 2 ^ 16 % 2 ^ 16 + 8 ≤ line.length ∧ w.toNat / 2 ^ 32 % 2 ^ 16 + 4 ≤ line.length

/-- The open frame with its embedded data. -/
def Frame.embed (f : Frame) (w : Word) (line : List Byte) : Frame :=
  { f with embedded := some line, counter := some (ofLE (slice line (w.toNat % 2 ^ 16) 4)),
           time := some (wordAt line (w.toNat / 2 ^ 16 % 2 ^ 16)), crcRx := some (ofLE (slice line (w.toNat / 2 ^ 32 % 2 ^ 16) 4)) }

section
variable {k : Nat} {line : List Byte} {s : State} {f : Frame}

theorem embedPlaced_iff (w : Word) (f : Frame) :
    (if bitAt w 48 then f.units == 0 && f.embedded.isNone else f.units != 0) = true ↔ EmbedPlaced w f := by
  unfold EmbedPlaced
  rw [bitAt_eq]
  cases w.getLsbD 48 <;> simp

theorem embeddedLine_of_open (h : (s.key k).frame = some f) :
    (EmbedPlaced (embedWord s (k / 16)) f → EmbedFits (embedWord s (k / 16)) line →
      embeddedLine k line s = updFrame k (·.embed (embedWord s (k / 16)) line) s)
    ∧ (¬(EmbedPlaced (embedWord s (k / 16)) f ∧ EmbedFits (embedWord s (k / 16)) line) → embeddedLine k line s = s) := by
  unfold embeddedLine
  rw [h]
  dsimp only
  rw [show wordAt (s.port (k / 16)).identity 24 = embedWord s (k / 16) from rfl, fld_low, fld_eq, fld_eq, ← embedPlaced_iff]
  generalize embedWord s (k / 16) = w
  refine ⟨fun hp hf => ?_, fun hno => ?_⟩
  · obtain ⟨h1, h2, h3⟩ := hf
    rw [if_neg (by simp [hp]; omega)]
    rfl
  · rw [if_pos]
    unfold EmbedFits at hno
    simp only [Bool.or_eq_true, Bool.not_eq_true', decide_eq_true_eq]
    by_contra hcon
    simp only [not_or, not_lt, Bool.not_eq_false] at hcon
    obtain ⟨⟨⟨hplaced, hctr⟩, htime⟩, hcrc⟩ := hcon
    exact hno ⟨hplaced, hctr, htime, hcrc⟩

theorem embeddedLine_ne {j : Nat} (hj : j ≠ k) (line : List Byte) (s : State) : (embeddedLine k line s).key j = s.key j := by
  cases h : (s.key k).frame with
  | none => rw [embeddedLine, h]
  | some f =>
    obtain ⟨hplaced, hno⟩ := embeddedLine_of_open (line := line) h
    by_cases hall : EmbedPlaced (embedWord s (k / 16)) f ∧ EmbedFits (embedWord s (k / 16)) line
    · rw [hplaced hall.1 hall.2]; exact updKey_ne _ _ _ hj
    · rw [hno hall]

end

/-! ### The commands -/

section
variable {port : BitVec 5} {vc : BitVec 4} {dt : BitVec 6} {payload : List Byte} {crcOk : Bool} {header : Header} {s : State}

theorem exec_longPacket (hup : s.intakeUp = true) :
    exec (.csi2LongPacket port vc dt payload crcOk header) s
      = .next (longPacket port.toNat vc.toNat dt.toNat payload crcOk header s) := intake_of_up hup

theorem exec_embeddedData (hup : s.intakeUp = true) : exec (.embeddedData port vc payload crcOk header) s
    = .next (embeddedData port.toNat vc.toNat payload crcOk header s) := intake_of_up hup

theorem longPacket_headerLost (hup : s.intakeUp = true) (hc : s.camReceives port.toNat = true) (hdt : dt.toNat ≠ 0x12) :
    HeaderLost (.csi2LongPacket port vc dt payload crcOk .uncorrectable) port.toNat (keyOf port.toNat vc.toNat) s := by
  refine headerLost_of_exec (keyOf_sel_div ..) ?_
  rw [exec_longPacket hup, longPacket, if_neg (by simp [hc, hdt])]
  rfl

theorem embeddedData_headerLost (hup : s.intakeUp = true) (hc : s.camReceives port.toNat = true) :
    HeaderLost (.embeddedData port vc payload crcOk .uncorrectable) port.toNat (keyOf port.toNat vc.toNat) s := by
  refine headerLost_of_exec (keyOf_sel_div ..) ?_
  rw [exec_embeddedData hup, embeddedData, hc]
  rfl

/-- A packet of a type outside R222. -/
theorem otherTypesAreCounted (hup : s.intakeUp = true) (hc : s.camReceives port.toNat = true) (hdt : dt.toNat ≠ 0x12)
    (h : header ≠ .uncorrectable) (hy : csiType dt.toNat = none) :
    ∃ t, exec (.csi2LongPacket port vc dt payload crcOk header) s = .next t ∧ OnlyUnits [.intake] s t ∧ PortCounts port.toNat 5 s t
      ∧ (header = .corrected → crcOk = true → PortCounts port.toNat 4 s t)
      ∧ (header = .good → crcOk = false → PortCounts port.toNat 4 s t) := by
  refine ⟨_, (exec_longPacket hup).trans (congrArg _ (longPacket_of_other hc hdt h hy)),
    ((received_keeps ..).trans (bumpPort_keeps ..)).units [.intake] rfl, ?_, ?_⟩
  · exact (bumpPort_counts ..).around (received_portCount _ (by decide)) rfl
  · exact received_counts (keyOf_sel_div ..) (bumpPort_portCount_ne _ _ (by decide) _)

/-- Lines and embedded data do as said. -/
theorem cameraLinesAreTakenIn : CameraLinesAreTakenIn := by
  intro port vc payload crcOk header s hup hc n k
  have hk : k / 16 = n := keyOf_sel_div ..
  refine ⟨fun dt hdt => ⟨longPacket_headerLost hup hc hdt, otherTypesAreCounted hup hc hdt, fun f y h hy hf => ?_⟩,
    embeddedData_headerLost hup hc, fun f h hlink hf => ?_⟩
  · have hopen := received_frame (crcOk := crcOk) (header := header) hf
    obtain ⟨hothers, hcounts, m, b, g, hg, hfilled, hrouted⟩ := imageLine_lined hopen y payload
    have hkeeps := received_keeps k crcOk header s
    obtain ⟨hunits, hseq, hpayload, hcrcState, hflags, hadded⟩ := hfilled.lined payload
    refine ⟨_, g.lined payload, (exec_longPacket hup).trans (congrArg _ (longPacket_of_type hc hdt h hy)),
      (hkeeps.up.trans (imageLine_keeps ..)).units _ rfl, fun j hj => (hothers j hj).trans (received_ne hj), hg, ?_⟩
    obtain ⟨hcorr, hbad⟩ := received_counts hk (hcounts n 4 (by decide))
    refine ⟨hunits, hseq, hpayload, hcrcState, hcorr, hbad, fun hcrc => ?_, fun hr => ?_, fun hr => ?_⟩
    · subst hcrc
      rw [hflags]
      exact crcMask_link ..
    · have hquiet := hkeeps.trans (imageLine_unrouted hopen hr y payload)
      exact ⟨hquiet.mem rfl, hquiet.seq rfl⟩
    · obtain ⟨hbytes, hwritten⟩ := hrouted hr
      rw [keyPort_keyOf, lineWrites_flags] at hwritten
      have hpath (x : Half) : ((received k crcOk header s).half x).pathOk = (s.half x).pathOk :=
        congrArg HalfUnit.pathOk (hkeeps.half rfl rfl x)
      refine ⟨FrameWritten.of_alike (.of_keeps hkeeps) hpath ?_ ?_ ?_ hwritten, ?_⟩
      · rfl
      · rfl
      · exact crcMask_fault ..
      rw [hadded, hbytes]
      split
      · rfl
      · exact Nat.add_zero _
  · intro w placed fits
    have hopen := received_frame (crcOk := crcOk) (header := header) hf
    obtain ⟨c, hport⟩ := received_port (k := k) (crcOk := crcOk) (header := header) (s := s) n
    have hword : embedWord (received k crcOk header s) (k / 16) = w := by rw [embedWord, hk, hport]
    obtain ⟨hplaced, hno⟩ := embeddedLine_of_open (line := payload) hopen
    rw [hword] at hplaced hno
    have hexec : exec (.embeddedData port vc payload crcOk header) s = .next (embeddedLine k payload (received k crcOk header s)) := by
      rw [exec_embeddedData hup, embeddedData_of_read hc h, if_pos (by rw [hport]; exact hlink)]
    have hothers (j : Nat) (hj : j ≠ k) : (embeddedLine k payload (received k crcOk header s)).key j = s.key j :=
      (embeddedLine_ne hj ..).trans (received_ne hj)
    have hunits : OnlyUnits [.intake] s (embeddedLine k payload (received k crcOk header s)) :=
      ((received_keeps ..).trans (embeddedLine_keeps ..)).units _ rfl
    by_cases hall : placed ∧ fits
    · have heq := hplaced hall.1 hall.2
      refine ⟨_, Frame.embed { f with flags := f.flags ||| crcMask crcOk } w payload, hexec, hunits, hothers, ?_, rfl,
        fun _ _ => ⟨rfl, rfl, rfl, rfl⟩, fun hn => absurd hall hn⟩
      rw [heq, updFrame_frame, hopen]; rfl
    · have heq := hno hall
      refine ⟨_, { f with flags := f.flags ||| crcMask crcOk }, hexec, hunits, hothers, ?_, rfl, fun hp hf => absurd ⟨hp, hf⟩ hall,
        fun _ => rfl⟩
      rw [heq, hopen]

/-- Settles O38: the receiver's counts and flags come first, and a start, an end, a line or embedded data then works on the open frame
of its key alone. -/
theorem cameraFramesAreTakenIn : Obligations.CameraFramesAreTakenIn := ⟨cameraFramesOpenAndClose, cameraLinesAreTakenIn⟩

end

end Sys2Proof.Machine
end

section
/-! Lidar packets: the sensor found, a packet's data, packets of the first and of later rank (R226 to R229, R235, R241). -/
namespace Sys2Proof.Machine

/-! ### The sensor of a packet (R229) -/

/-- What the sensor's packet leaves of its key, and of the state that a frame start reads. -/
structure SensorFound (k : Nat) (s u : State) : Prop where
  keeps  : Keeps 0x990 s u
  path   : ∀ h, (u.half h).pathOk = (s.half h).pathOk
  others : ∀ j, j ≠ k → u.key j = s.key j
  counts : ∀ n w, u.portCount n w = s.portCount n w
  key    : u.key k = { s.key k with
             lidar := (u.key k).lidar, lidarAt := s.time.hp, resync := (u.key k).resync, prevCtr := (u.key k).prevCtr,
             prevTime := (u.key k).prevTime }
  found  : (u.key k).lidar ≠ none

section
variable {k : Nat} {serial : Word} {s : State}

theorem report_if_keeps (c : Prop) [Decidable c] {r : FaultRec} (h : severity r.key.cls ≠ 2) (s : State) :
    Keeps 0x180 s (if c then report r s else s) := by
  split
  · rw [report_of_severity_ne h]; exact gather_keeps ..
  · exact .refl _

theorem report_if_aside (c : Prop) [Decidable c] {r : FaultRec} (h : severity r.key.cls ≠ 2) (s : State) :
    Aside s (if c then report r s else s) := .ite (report_aside h s) (.refl s)

/-- The key that has heard from its sensor now. -/
def sensorHeard (k : Nat) (s : State) : State := updKey k (fun x => { x with lidarAt := s.hp }) s

/-- The key's sensor new, its next frame with RESYNC. -/
def sensorNew (k : Nat) (serial : Word) (s : State) : State :=
  updPort (k / 16) (fun p => { p with
      mismatch := p.mismatch || (sensorHeard k s).mismatched (k / 16) (k % 16) serial
      seen := p.seen &&& (65535 - 2 ^ (k % 16)) })
    (setResync k (updKey k (fun x => { x with lidar := some serial }) (sensorHeard k s)))

theorem lidarFound_of_known (h : (s.key k).lidar ≠ none) : lidarFound k serial s = sensorHeard k s := by
  have hlidar : ((sensorHeard k s).key k).lidar.isSome = true := by
    rw [sensorHeard, updKey_self]
    exact Option.isSome_iff_ne_none.2 h
  exact if_pos hlidar

theorem lidarFound_of_new (h : (s.key k).lidar = none) : ∃ u, lidarFound k serial s
      = postEvent 0x01 0 0 0 (sensorDetail (k / 16) (k % 16) serial) u
    ∧ Keeps 0x180 (sensorNew k serial s) u ∧ Aside (sensorNew k serial s) u ∧ u.intake = (sensorNew k serial s).intake := by
  have hlidar : ¬((sensorHeard k s).key k).lidar.isSome = true := by
    rw [sensorHeard, updKey_self]
    simp [h]
  have hcls : severity ({ faultOf (sensorNew k serial s).dev.leader ukPort (k / 16) .sensorMismatch with
    d0 := serial } : FaultRec).key.cls ≠ 2 := show severity .sensorMismatch ≠ 2 by decide
  exact ⟨_, if_neg hlidar, report_if_keeps _ hcls _, report_if_aside _ hcls _, report_if_intake ..⟩

theorem sensorNew_keeps (k : Nat) (serial : Word) (s : State) : Keeps 0x800 s (sensorNew k serial s) :=
  (((updKey_keeps ..).trans (updKey_keeps ..)).trans (setResync_keeps ..)).trans (updPort_keeps ..)

theorem sensorNew_key : (sensorNew k serial s).key k
    = { s.key k with lidar := some serial, lidarAt := s.hp, resync := true, prevCtr := none, prevTime := none } := by
  rw [sensorNew, updPort_key, setResync, updKey_self, updKey_self, sensorHeard, updKey_self]

theorem sensorNew_ne {j : Nat} (h : j ≠ k) : (sensorNew k serial s).key j = s.key j := by
  rw [sensorNew, updPort_key, setResync, updKey_ne _ _ _ h, updKey_ne _ _ _ h, sensorHeard, updKey_ne _ _ _ h]

theorem sensorNew_portCount (n w : Nat) : (sensorNew k serial s).portCount n w = s.portCount n w := by
  unfold State.portCount sensorNew
  by_cases hn : n = k / 16
  · rw [hn, updPort_self]; rfl
  · rw [updPort_ne _ _ _ hn]; rfl

theorem lidarFound_found (k : Nat) (serial : Word) (s : State) : SensorFound k s (lidarFound k serial s) := by
  by_cases h : (s.key k).lidar = none
  · obtain ⟨u, heq, hreport, haside, hu⟩ := lidarFound_of_new (serial := serial) h
    have hkeeps : Keeps 0x990 s (lidarFound k serial s) := by
      rw [heq]
      exact ((sensorNew_keeps k serial s).up.trans hreport.up).trans (postEvent_keeps ..).up
    have hin : (lidarFound k serial s).intake = (sensorNew k serial s).intake := by
      rw [heq, postEvent_intake, hu]
    have hkey : (lidarFound k serial s).key k = _ := (key_of_intake hin k).trans sensorNew_key
    refine ⟨hkeeps, fun x => ?_, fun j hj => (key_of_intake hin j).trans (sensorNew_ne hj), fun n w => ?_, ?_, ?_⟩
    · calc ((lidarFound k serial s).half x).pathOk
        _ = (u.half x).pathOk := by rw [heq]; exact congrArg HalfUnit.pathOk ((postEvent_keeps ..).half rfl rfl x)
        _ = ((sensorNew k serial s).half x).pathOk := (congrArg HalfUnit.pathOk (haside.half x) : _)
        _ = (s.half x).pathOk := congrArg HalfUnit.pathOk ((sensorNew_keeps k serial s).half rfl rfl x)
    · exact (portCount_of_ctr (congrArg Port.ctr (port_of_intake hin n)) w).trans (sensorNew_portCount n w)
    · rw [hkey]; rfl
    · rw [hkey]; exact Option.some_ne_none _
  · rw [lidarFound_of_known h]
    have hkey : (sensorHeard k s).key k = { s.key k with lidarAt := s.hp } := updKey_self ..
    refine ⟨(updKey_keeps ..).up, fun x => by rw [sensorHeard, updKey_half], fun j hj => updKey_ne _ _ _ hj, fun _ _ => rfl, ?_, ?_⟩
    · rw [hkey]; rfl
    · rw [hkey]; exact h

end

end Sys2Proof.Machine
end

section
/-! The data of a lidar packet in the open frame, and the packets that a key takes in (R226 to R229, R235, R241; log 24). -/
namespace Sys2Proof.Machine

/-! ### A packet's data (R241) -/

/-- What a packet adds to the flags of its frame. -/
def pointsMask (f : Frame) (p : List Byte) : Nat :=
  (if (crc32c (p.take 32 ++ ldPoints p)).toNat != ldCrc p then ffCrc else 0) ||| (if ldPacket p = f.nextPkt then 0 else ffOrder)
    ||| (if (ldTime p).toNat < f.lastTime.toNat then ffBack else 0)
    ||| (if f.routed ∧ rcpBytes f.recipe - 64 < f.bytes + ldBytes p then ffSize else 0)

/-- The open frame that has taken in a packet, before its points are written. -/
def Frame.packeted (f : Frame) (p : List Byte) : Frame :=
  { f with flags := f.flags ||| pointsMask f p
           crcRx := if f.flags &&& ffCrc = 0 then some (ldCrc p) else f.crcRx
           crcCalc := if f.flags &&& ffCrc = 0 then (crc32c (p.take 32 ++ ldPoints p)).toNat else f.crcCalc
           units := f.units + 1, nextPkt := ldPacket p + 1, lastTime := ldTime p
           payload := if f.routed then f.payload ++ p else f.payload }

section
variable {k : Nat} {p : List Byte} {s : State} {f : Frame}

theorem pointsMask_fault (f : Frame) (p : List Byte) : (pointsMask f p).testBit 7 = false := by
  unfold pointsMask
  simp only [Nat.testBit_or, Bool.or_eq_false_iff]
  refine ⟨⟨⟨?_, ?_⟩, ?_⟩, ?_⟩ <;> split <;> rfl

theorem pointsMask_crc (h : (crc32c (p.take 32 ++ ldPoints p)).toNat ≠ ldCrc p) : (pointsMask f p).testBit 0 = true := by
  unfold pointsMask
  rw [if_pos (by simpa using h), Nat.testBit_or, Nat.testBit_or, Nat.testBit_or, show ffCrc.testBit 0 = true from rfl]
  rfl

theorem pointsMask_order (h : ldPacket p ≠ f.nextPkt) : (pointsMask f p).testBit 5 = true := by
  unfold pointsMask
  rw [if_neg h, Nat.testBit_or, Nat.testBit_or, Nat.testBit_or, show ffOrder.testBit 5 = true from rfl, Bool.or_true]
  rfl

theorem pointsMask_back (h : (ldTime p).toNat < f.lastTime.toNat) : (pointsMask f p).testBit 2 = true := by
  unfold pointsMask
  rw [if_pos h, Nat.testBit_or, Nat.testBit_or, show ffBack.testBit 2 = true from rfl, Bool.or_true]
  rfl

/-- The key with its open frame replaced. -/
def openAs (k : Nat) (f : Frame) (s : State) : State := updKey k (fun x => { x with frame := some f }) s

theorem lidarData_of_open (h : (s.key k).frame = some f) : lidarData k p s
    = if f.routed then putCopy k (f.packeted p) (ldPoints p) (ldPacket p % pilotF f.recipe == 0) (openAs k (f.packeted p) s)
      else openAs k (f.packeted p) s := by
  have hflags : f.flags ||| pointsMask f p = f.flags ||| (if (crc32c (p.take 32 ++ ldPoints p)).toNat != ldCrc p then ffCrc else 0)
      ||| (if ldPacket p = f.nextPkt then 0 else ffOrder) ||| (if (ldTime p).toNat < f.lastTime.toNat then ffBack else 0)
      ||| (if f.routed ∧ rcpBytes f.recipe - 64 < f.bytes + ldBytes p then ffSize else 0) := by
    simp only [pointsMask, Nat.or_assoc]
  unfold lidarData
  rw [h, Frame.packeted, hflags]
  rfl

/-- What a packet's data leaves of its key, the frame behind it, and its points' bytes. -/
structure PacketTaken (k : Nat) (p : List Byte) (f : Frame) (s t : State) : Prop where
  others : ∀ j, j ≠ k → t.key j = s.key j
  key    : t.key k = { s.key k with frame := (t.key k).frame }
  frame  : ∃ m b g, (t.key k).frame = some g ∧ (f.packeted p).Filled m b g
      ∧ (f.routed = true → FrameWritten (keyPort k) f g [(f.bytes, copyPart f (ldPoints p))] s t)

theorem openAs_key : (openAs k f s).key k = { s.key k with frame := some f } := updKey_self ..

theorem lidarData_taken (h : (s.key k).frame = some f) (p : List Byte) : PacketTaken k p f s (lidarData k p s) := by
  rw [lidarData_of_open h]
  cases hr : f.routed with
  | false =>
    rw [if_neg (by decide)]
    refine ⟨fun j hj => updKey_ne _ _ _ hj, ?_, 0, 0, _, ?_, .refl _, by simp [hr]⟩
    · rw [openAs_key]
    · rw [openAs_key]
  | true =>
    rw [if_pos rfl]
    obtain ⟨m, hw⟩ := putCopy_write k (f.packeted p) (ldPoints p) (ldPacket p % pilotF f.recipe == 0) (openAs k (f.packeted p) s)
    obtain ⟨g, hg, hfilled⟩ := hw.opened (f.packeted p) (by rw [openAs_key])
    refine ⟨fun j hj => (hw.others j hj).trans (updKey_ne _ _ _ hj), ?_, m, _, g, hg, hfilled, fun _ => ?_⟩
    · rw [hw.key, openAs_key]
    · have hflags : g.flags = (f.packeted p).flags ||| m := congrArg Frame.flags hfilled.eq
      have hwritten := hw.frameWritten (f' := g) (g := f.packeted p) rfl hflags rfl rfl
      refine FrameWritten.of_alike (.of_keeps (updKey_keeps ..)) (fun x => congrArg HalfUnit.pathOk (updKey_half ..)) ?_ ?_ ?_
        hwritten
      · rfl
      · rfl
      · show (f.flags ||| pointsMask f p).testBit 7 = _
        rw [Nat.testBit_or, pointsMask_fault, Bool.or_false]

end

end Sys2Proof.Machine
end

section
/-! Lidar packets that match the classifier, and those that do not (R226 to R229, R241; log 24). -/
namespace Sys2Proof.Machine

/-! ### The end of a packet -/

/-- A packet that is its frame's last closes it. -/
def packetEnd (k : Nat) (p : List Byte) (s : State) : State := if ldLast p then closeFrame k 0 s else s

/-- What packets leave of a key but for its frames. -/
structure SameSensor (k : Nat) (s t : State) : Prop where
  others : ∀ j, j ≠ k → t.key j = s.key j
  lidar  : (t.key k).lidar = (s.key k).lidar
  heard  : (t.key k).lidarAt = (s.key k).lidarAt
  seq    : (t.key k).seq = (s.key k).seq

section
variable {k : Nat} {p : List Byte} {s t u : State} {f : Frame}

theorem SameSensor.trans (h : SameSensor k s t) (w : SameSensor k t u) : SameSensor k s u :=
  ⟨fun j hj => (w.others j hj).trans (h.others j hj), w.lidar.trans h.lidar, w.heard.trans h.heard, w.seq.trans h.seq⟩

theorem SameSensor.of_keys (k : Nat) (h : t.intake.keys = s.intake.keys) : SameSensor k s t := by
  have hkey := key_of_keys h
  exact ⟨fun j _ => hkey j, by rw [hkey], by rw [hkey], by rw [hkey]⟩

theorem SameSensor.updFrame (k : Nat) (g : Frame → Frame) (s : State) : SameSensor k s (updFrame k g s) := by
  have hkey : (Machine.updFrame k g s).key k = { s.key k with frame := (s.key k).frame.map g } := updKey_self ..
  exact ⟨fun j hj => updKey_ne _ _ _ hj, by rw [hkey], by rw [hkey], by rw [hkey]⟩

theorem PacketTaken.sameSensor (h : PacketTaken k p f s t) : SameSensor k s t :=
  ⟨h.others, by rw [h.key], by rw [h.key], by rw [h.key]⟩

theorem packetEnd_sameSensor (k : Nat) (p : List Byte) (s : State) : SameSensor k s (packetEnd k p s) := by
  unfold packetEnd
  split
  · obtain ⟨_, _, hkey⟩ := closeFrame_key k 0 s
    exact ⟨fun j hj => closeFrame_ne _ _ _ hj, by rw [hkey], by rw [hkey], by rw [hkey]⟩
  · exact .of_keys k rfl

theorem packetEnd_of_last (h : ldLast p = true) (s : State) : ((packetEnd k p s).key k).frame = none := by
  rw [packetEnd, if_pos h, closeFrame_frame]

theorem packetEnd_of_more (h : ldLast p = false) (s : State) : packetEnd k p s = s := if_neg (by rw [h]; decide)

/-! ### A first packet -/

/-- The key of a first packet's sensor. -/
def sensorTaken (k : Nat) (p : List Byte) (s : State) : State := updKey k (fun x => { x with lidar := some (ldSerial p) }) s

/-- A frame under its first packet's counter and time. -/
def Frame.headed (p : List Byte) (f : Frame) : Frame :=
  { f with counter := some (ldFrame p), time := some (ldTime p), lastTime := ldTime p }

/-- A first packet: its frame starts, takes the header and the data. -/
def firstPacket (k : Nat) (p : List Byte) (s : State) : State :=
  packetEnd k p (lidarData k p (updFrame k (Frame.headed p) (liveStart k (sensorTaken k p s))))

theorem sensorTaken_key : (sensorTaken k p s).key k = { s.key k with lidar := some (ldSerial p) } := updKey_self ..

theorem sensorTaken_startTaken (h : s.startTaken k) : (sensorTaken k p s).startTaken k := by
  refine (startTaken_congr (updKey_keeps ..) ?_).2 h
  rw [updKey_self]

theorem firstPacket_taken (h : s.startTaken k) : (∀ j, j ≠ k → (firstPacket k p s).key j = s.key j)
    ∧ ((firstPacket k p s).key k).lidar = some (ldSerial p) ∧ ((firstPacket k p s).key k).lidarAt = (s.key k).lidarAt
    ∧ ((firstPacket k p s).key k).seq = (s.key k).seq + 1
    ∧ (ldLast p = true → ((firstPacket k p s).key k).frame = none)
    ∧ (ldLast p = false → ∃ f, ((firstPacket k p s).key k).frame = some f ∧ f.counter = some (ldFrame p)
        ∧ f.time = some (ldTime p) ∧ f.units = 1) := by
  obtain ⟨hstarted, m, hframe⟩ := beginFrame_started k .live (sensorTaken k p s)
  obtain ⟨hseq, -, -, -, -, -, hlidar, hat⟩ := hstarted.key_facts
  rw [← liveStart_of_taken (sensorTaken_startTaken h)] at hstarted hframe hseq hlidar hat
  have hhead := SameSensor.updFrame k (Frame.headed p) (liveStart k (sensorTaken k p s))
  have hopen := (updFrame_frame k (Frame.headed p) (liveStart k (sensorTaken k p s))).trans (congrArg _ hframe)
  have hdata := lidarData_taken hopen p
  have hall := (hhead.trans hdata.sameSensor).trans (packetEnd_sameSensor k p _)
  refine ⟨fun j hj => ?_, ?_, ?_, ?_, fun hl => packetEnd_of_last hl _, fun hl => ?_⟩
  · exact (hall.others j hj).trans ((hstarted.others j hj).trans (updKey_ne _ _ _ hj))
  · exact hall.lidar.trans (by rw [hlidar, sensorTaken_key])
  · exact hall.heard.trans (by rw [hat, sensorTaken_key])
  · exact hall.seq.trans (by rw [hseq, startSeq, sensorTaken_key]; rfl)
  · obtain ⟨m', b, g, hg, hfilled, -⟩ := hdata.frame
    refine ⟨g, ?_, ?_, ?_, ?_⟩
    · rw [firstPacket, packetEnd_of_more hl]; exact hg
    · rw [hfilled.eq]; rfl
    · rw [hfilled.eq]; rfl
    · rw [hfilled.eq]; rfl

/-! ### A later packet -/

/-- A packet is of another FRAME, or of another sensor than the frame's. -/
def packetStrays (f : Frame) (p : List Byte) : Prop := f.counter ≠ some (ldFrame p) ∨ serialOk f.route (ldSerial p) = false

theorem lidarBody_of_none (h : (s.key k).frame = none) : lidarBody k p s = bumpPort (k / 16) 4 1 s := by
  unfold lidarBody; rw [h]

/-- The open frame marked for a packet of another FRAME or sensor. -/
def strayMarked (k : Nat) (p : List Byte) (f : Frame) (s : State) : State :=
  if f.counter ≠ some (ldFrame p) ∨ !serialOk f.route (ldSerial p) then setFlag k ffOrder s else s

theorem lidarBody_of_open (h : (s.key k).frame = some f) :
    lidarBody k p s = packetEnd k p (lidarData k p (strayMarked k p f s)) := by
  unfold lidarBody; rw [h]; rfl

/-- The mark: ORDER where the packet strays. -/
theorem strayMarked_marks (h : (s.key k).frame = some f) (p : List Byte) : ∃ m, FrameQuiet k m 0 s (strayMarked k p f s)
    ∧ SameSensor k s (strayMarked k p f s)
    ∧ ((strayMarked k p f s).key k).frame = some { f with flags := f.flags ||| m } ∧ m.testBit 7 = false
    ∧ (packetStrays f p → m.testBit 5 = true) := by
  unfold strayMarked packetStrays
  by_cases hs : f.counter ≠ some (ldFrame p) ∨ serialOk f.route (ldSerial p) = false
  · rw [if_pos (by simpa using hs)]
    refine ⟨ffOrder, setFlag_quiet .., .updFrame .., ?_, rfl, fun _ => rfl⟩
    rw [setFlag, updFrame_frame, h]; rfl
  · rw [if_neg (by simpa using hs)]
    refine ⟨0, .refl k s, .of_keys k rfl, ?_, rfl, fun h => absurd h hs⟩
    rw [h]
    exact congrArg (fun m => some { f with flags := m }) (Nat.or_zero f.flags).symm

/-- A packet behind the first: every check, and its points behind those before. -/
theorem lidarBody_taken (h : (s.key k).frame = some f) (p : List Byte) : SameSensor k s (lidarBody k p s)
    ∧ (ldLast p = true → ((lidarBody k p s).key k).frame = none)
    ∧ (ldLast p = false → ∃ f', ((lidarBody k p s).key k).frame = some f' ∧ f'.units = f.units + 1 ∧ f'.lastTime = ldTime p
        ∧ f'.nextPkt = ldPacket p + 1
        ∧ ((crc32c (p.take 32 ++ ldPoints p)).toNat ≠ ldCrc p → f'.flags.testBit 0 = true)
        ∧ (ldPacket p ≠ f.nextPkt ∨ packetStrays f p → f'.flags.testBit 5 = true)
        ∧ ((ldTime p).toNat < f.lastTime.toNat → f'.flags.testBit 2 = true)
        ∧ (f.routed = true → FrameWritten (keyPort k) f f' [(f.bytes, copyPart f (ldPoints p))] s (lidarBody k p s))) := by
  obtain ⟨m, hquiet, hsame, hopen, hm7, hm5⟩ := strayMarked_marks h p
  have hdata := lidarData_taken hopen p
  rw [lidarBody_of_open h]
  refine ⟨(hsame.trans hdata.sameSensor).trans (packetEnd_sameSensor k p _), fun hl => packetEnd_of_last hl _, fun hl => ?_⟩
  obtain ⟨m', b, g, hg, hfilled, hwritten⟩ := hdata.frame
  have hflags : g.flags = f.flags ||| m ||| pointsMask f p ||| m' := congrArg Frame.flags hfilled.eq
  rw [packetEnd_of_more hl]
  refine ⟨g, hg, ?_, ?_, ?_, fun hcrc => ?_, fun horder => ?_, fun hback => ?_, fun hr => ?_⟩
  · rw [hfilled.eq]; rfl
  · rw [hfilled.eq]; rfl
  · rw [hfilled.eq]; rfl
  · rw [hflags, Nat.testBit_or, Nat.testBit_or, pointsMask_crc hcrc, Bool.or_true]; rfl
  · rw [hflags, Nat.testBit_or, Nat.testBit_or, Nat.testBit_or]
    rcases horder with hne | hs
    · rw [pointsMask_order hne, Bool.or_true]; rfl
    · rw [hm5 hs, Bool.or_true]; rfl
  · rw [hflags, Nat.testBit_or, Nat.testBit_or, pointsMask_back hback, Bool.or_true]; rfl
  · refine FrameWritten.of_alike hquiet.alike hquiet.path ?_ ?_ ?_ (hwritten hr)
    · rfl
    · rfl
    · show (f.flags ||| m).testBit 7 = _
      rw [Nat.testBit_or, hm7, Bool.or_false]

end

/-! ### The classifier (R226, R227) -/

section
variable {k : Nat} {p : List Byte} {s : State}

/-- A packet is taken in for a key: live frames of the key are, or it is a first packet whose change takes the owner away. -/
def State.packetTaken (s : State) (k : Nat) (p : List Byte) : Prop :=
  s.stray k = false ∨ (ldFirst p = true ∧ s.ownerLeaves k = true)

theorem lidarAccept_of_stray (h : ¬(lidarFound k (ldSerial p) s).packetTaken k p) : lidarAccept k p s
    = if ldFirst p = true then strayStart k (lidarFound k (ldSerial p) s) else lidarFound k (ldSerial p) s := by
  have hcond : ((lidarFound k (ldSerial p) s).stray k && !(ldFirst p && (lidarFound k (ldSerial p) s).ownerLeaves k)) = true := by
    simpa [State.packetTaken, imp_iff_not_or] using h
  exact if_pos hcond

theorem lidarAccept_of_taken (h : (lidarFound k (ldSerial p) s).packetTaken k p) : lidarAccept k p s
    = if ldFirst p = true then firstPacket k p (lidarFound k (ldSerial p) s) else lidarBody k p (lidarFound k (ldSerial p) s) := by
  have hcond : ¬((lidarFound k (ldSerial p) s).stray k && !(ldFirst p && (lidarFound k (ldSerial p) s).ownerLeaves k)) = true := by
    simpa [State.packetTaken, or_iff_not_imp_left] using h
  exact if_neg hcond

theorem SensorFound.packetTaken {u : State} (h : SensorFound k s u) (p : List Byte) : u.packetTaken k p ↔ s.packetTaken k p := by
  have hheld : (u.key k).heldRoute = (s.key k).heldRoute := by rw [h.key]
  have hdev := h.keeps.dev rfl
  have himg := h.keeps.img rfl
  have hrec := h.keeps.rec_ rfl
  unfold State.packetTaken
  rw [stray_congr hdev himg hrec hheld, ownerLeaves_congr hdev himg hrec h.path hheld]

end

end Sys2Proof.Machine
end

section
/-! LIDAR_PACKET: what the parser and the classifier make of a packet (R226, R227; log 24). -/
namespace Sys2Proof.Machine

section
variable {n : Nat} {frame : List Byte} {s : State}

theorem lidarPacket_of_unmatched (hn : 24 ≤ n) (hl : (s.port n).link = 2) (hp : parseEther frame = .unmatched) :
    lidarPacket n frame s = bumpPort n 5 1 s := by
  unfold lidarPacket
  rw [if_neg (by simp [hn, hl]), hp]

/-- The open frames of selectors of a port flagged. -/
def flagKeys (n : Nat) (l : List Nat) (s : State) : State := forEach l (fun i => setFlag (keyOf n i) ffLink) s

theorem lidarPacket_of_badChecksum (hn : 24 ≤ n) (hl : (s.port n).link = 2) (hp : parseEther frame = .badChecksum) :
    lidarPacket n frame s = flagKeys n (List.range 16) (bumpPort n 4 1 s) := by
  unfold lidarPacket
  rw [if_neg (by simp [hn, hl]), hp]
  rfl

/-- The selector whose classifier entry a packet matches. -/
def State.lidarSel (s : State) (n : Nat) (p : NetPacket) : Option Nat :=
  (List.range 16).find? fun i => s.dev.imageValid && clsMatch (s.clsOf (keyOf n i) (ldFirst p.payload)) p

theorem lidarSel_lt {p : NetPacket} {i : Nat} (h : s.lidarSel n p = some i) : i < 16 :=
  List.mem_range.1 (List.mem_of_find?_eq_some h)

section
variable {p : NetPacket} {i : Nat} (hn : 24 ≤ n) (hl : (s.port n).link = 2) (hp : parseEther frame = .packet p)
include hn hl hp

theorem lidarPacket_of_noEntry (hi : s.lidarSel n p = none) : lidarPacket n frame s = bumpPort n 5 1 s := by
  unfold State.lidarSel at hi
  unfold lidarPacket
  rw [if_neg (by simp [hn, hl]), hp]
  dsimp only
  rw [hi]

theorem lidarPacket_of_entry (hi : s.lidarSel n p = some i) : lidarPacket n frame s
    = if !clsExpected (s.clsOf (keyOf n i) (ldFirst p.payload)) then bumpPort n 6 1 s
      else if !ldOk p.payload then bumpPort n 5 1 s else lidarAccept (keyOf n i) p.payload s := by
  unfold State.lidarSel at hi
  unfold lidarPacket
  rw [if_neg (by simp [hn, hl]), hp]
  dsimp only
  rw [hi]

end

/-! ### Frames flagged for a bad checksum -/

theorem flagKeys_keeps (n : Nat) (l : List Nat) (s : State) : Keeps 0x800 s (flagKeys n l s) :=
  forEach_keeps _ _ _ fun _ _ => setFlag_keeps ..

/-- A frame with the flag. -/
def Frame.linked (f : Frame) : Frame := { f with flags := f.flags ||| 16 }

theorem Frame.linked_linked (f : Frame) : f.linked.linked = f.linked :=
  congrArg (fun m => { f with flags := m }) ((Nat.or_assoc ..).trans (congrArg _ (Nat.or_self _)))

theorem setFlag_linked (k j : Nat) (s : State) :
    ((setFlag k ffLink s).key j).frame = if j = k then (s.key k).frame.map Frame.linked else (s.key j).frame := by
  split
  case isTrue h => rw [h]; exact updFrame_frame ..
  case isFalse h => rw [setFlag, updFrame, updKey_ne _ _ _ h]

theorem linked_map (o : Option Frame) : (o.map Frame.linked).map Frame.linked = o.map Frame.linked := by
  rw [Option.map_map]
  exact congrArg (o.map ·) (funext Frame.linked_linked)

/-- Up to the flag, no frame changes. -/
theorem flagKeys_frame (n j : Nat) (l : List Nat) (s : State) :
    ((flagKeys n l s).key j).frame.map Frame.linked = (s.key j).frame.map Frame.linked := by
  refine forEach_invariant (P := fun u => (u.key j).frame.map Frame.linked = (s.key j).frame.map Frame.linked)
    (f := fun i => setFlag (keyOf n i) ffLink) (fun i u h => ?_) l s rfl
  rw [setFlag_linked]
  split
  case isTrue hj => rw [linked_map, ← hj, h]
  case isFalse => exact h

theorem flagKeys_linked {l : List Nat} {i : Nat} (hi : i ∈ l) (n : Nat) (s : State) :
    ((flagKeys n l s).key (keyOf n i)).frame = (s.key (keyOf n i)).frame.map Frame.linked := by
  rw [← flagKeys_frame n (keyOf n i) l s]
  refine forEach_establishes (P := fun u => (u.key (keyOf n i)).frame = (u.key (keyOf n i)).frame.map Frame.linked)
    (f := fun i => setFlag (keyOf n i) ffLink) (fun j u h => ?_) (fun u => ?_) hi s
  · rw [setFlag_linked]
    split
    · rw [linked_map]
    · exact h
  · rw [setFlag_linked, if_pos rfl, linked_map]

theorem flagKeys_ports (n : Nat) (l : List Nat) (s : State) : (flagKeys n l s).intake.ports = s.intake.ports :=
  forEach_invariant (P := fun u => u.intake.ports = s.intake.ports) (f := fun i => setFlag (keyOf n i) ffLink) (fun _ _ h => h) l s rfl

theorem flagKeys_onlyPort (n : Nat) {l : List Nat} (hl : ∀ i ∈ l, i < 16) (s : State) : OnlyPort n s (flagKeys n l s) :=
  .forEach_keys (f := fun k => setFlag k ffLink) hl (fun _ s hi => .updKey (keyOf_div hi) _ s) s

end

/-! ### The packet that is taken in or not -/

section
variable {k : Nat} {p : List Byte} {s : State}

theorem packetTaken_of_first (h : s.packetTaken k p) : s.startTaken k := h.imp_right fun h => h.2

theorem lidarBody_sameSensor (k : Nat) (p : List Byte) (s : State) : SameSensor k s (lidarBody k p s) := by
  cases hopen : (s.key k).frame with
  | none => rw [lidarBody_of_none hopen]; exact .of_keys k rfl
  | some f => exact (lidarBody_taken hopen p).1

/-- An accepted packet changes no other key, and its key has heard from its sensor now. -/
theorem lidarAccept_heard (k : Nat) (p : List Byte) (s : State) : (∀ j, j ≠ k → (lidarAccept k p s).key j = s.key j)
    ∧ ((lidarAccept k p s).key k).lidar ≠ none ∧ ((lidarAccept k p s).key k).lidarAt = s.time.hp := by
  have hfound := lidarFound_found k (ldSerial p) s
  have hat : ((lidarFound k (ldSerial p) s).key k).lidarAt = s.time.hp := by rw [hfound.key]
  have hsame {t : State} (h : SameSensor k (lidarFound k (ldSerial p) s) t) :
      (∀ j, j ≠ k → t.key j = s.key j) ∧ (t.key k).lidar ≠ none ∧ (t.key k).lidarAt = s.time.hp :=
    ⟨fun j hj => (h.others j hj).trans (hfound.others j hj), h.lidar ▸ hfound.found, h.heard.trans hat⟩
  by_cases h : (lidarFound k (ldSerial p) s).packetTaken k p
  · rw [lidarAccept_of_taken h]
    split
    · obtain ⟨hothers, hlidar, hheard, -⟩ := firstPacket_taken (p := p) (packetTaken_of_first h)
      exact ⟨fun j hj => (hothers j hj).trans (hfound.others j hj), hlidar ▸ Option.some_ne_none _, hheard.trans hat⟩
    · exact hsame (lidarBody_sameSensor ..)
  · rw [lidarAccept_of_stray h]
    split
    · exact hsame (.of_keys k (strayStart_keys ..))
    · exact hsame (.of_keys k rfl)

/-- A packet that is not taken in leaves the key's frame, its sequence and memory. -/
theorem lidarAccept_strays (h : ¬s.packetTaken k p) : ((lidarAccept k p s).key k).frame = (s.key k).frame
    ∧ ((lidarAccept k p s).key k).seq = (s.key k).seq ∧ (lidarAccept k p s).mem = s.mem := by
  have hfound := lidarFound_found k (ldSerial p) s
  have hsame {t : State} (hkeys : t.intake.keys = (lidarFound k (ldSerial p) s).intake.keys)
      (hmem : t.mem = (lidarFound k (ldSerial p) s).mem) :
      (t.key k).frame = (s.key k).frame ∧ (t.key k).seq = (s.key k).seq ∧ t.mem = s.mem := by
    rw [key_of_keys hkeys, hmem, hfound.key]
    exact ⟨rfl, rfl, hfound.keeps.mem rfl⟩
  rw [lidarAccept_of_stray (mt (hfound.packetTaken p).1 h)]
  split
  · exact hsame (strayStart_keys ..) ((strayStart_keeps ..).mem rfl)
  · exact hsame rfl rfl

/-- A first packet that is taken in opens the next frame with its counter and time. -/
theorem lidarAccept_opens (h : s.packetTaken k p) (hf : ldFirst p = true) :
    ((lidarAccept k p s).key k).lidar = some (ldSerial p) ∧ ((lidarAccept k p s).key k).seq = (s.key k).seq + 1
    ∧ (ldLast p = true → ((lidarAccept k p s).key k).frame = none)
    ∧ (ldLast p = false → ∃ f, ((lidarAccept k p s).key k).frame = some f ∧ f.counter = some (ldFrame p)
        ∧ f.time = some (ldTime p) ∧ f.units = 1) := by
  have hfound := lidarFound_found k (ldSerial p) s
  have htaken := (hfound.packetTaken p).2 h
  obtain ⟨-, hlidar, -, hseq, hframe⟩ := firstPacket_taken (p := p) (packetTaken_of_first htaken)
  rw [lidarAccept_of_taken htaken, if_pos hf]
  exact ⟨hlidar, hseq.trans (by rw [hfound.key]), hframe⟩

theorem lidarAccept_later (h : s.packetTaken k p) (hf : ldFirst p = false) :
    lidarAccept k p s = lidarBody k p (lidarFound k (ldSerial p) s) := by
  rw [lidarAccept_of_taken (((lidarFound_found k (ldSerial p) s).packetTaken p).2 h), if_neg (by rw [hf]; decide)]

/-- The key's open frame stands under the sensor's packet. -/
theorem lidarFound_frame (k : Nat) (serial : Word) (s : State) : ((lidarFound k serial s).key k).frame = (s.key k).frame := by
  rw [(lidarFound_found k serial s).key]

end

/-- Settles O40: the sensor's packet leaves the key's settings and frames to what follows, and what follows works on the key alone. -/
theorem lidarPacketsAreClassified : Obligations.LidarPacketsAreClassified := by
  intro port frame s hup hn hl n
  have hexec : exec (.lidarPacket port frame) s = .next (lidarPacket n frame s) := intake_of_up hup
  have hcounted (w : Nat) : OnlyUnits [.intake] s (bumpPort n w 1 s) := (bumpPort_keeps ..).units _ rfl
  refine ⟨fun hp => ?_, fun hp => ?_, fun p hp => ?_⟩
  · rw [lidarPacket_of_unmatched hn hl hp] at hexec
    exact ⟨_, hexec, hcounted 5, rfl, bumpPort_counts ..⟩
  · rw [lidarPacket_of_badChecksum hn hl hp] at hexec
    refine ⟨_, hexec, ((bumpPort_keeps ..).trans (flagKeys_keeps ..)).units _ rfl,
      (OnlyPort.updPort ..).trans (flagKeys_onlyPort n (fun _ => List.mem_range.1) _), ?_, fun i hi => ?_⟩
    · exact (bumpPort_counts n 4 s).around rfl (portCount_of_ctr (congrArg Port.ctr (port_of_ports (flagKeys_ports ..) n)) 4)
    · exact flagKeys_linked (List.mem_range.2 hi) n _
  · intro b here
    refine ⟨fun hi => ?_, fun i hi => ?_⟩
    · rw [lidarPacket_of_noEntry hn hl hp hi] at hexec
      exact ⟨_, hexec, hcounted 5, rfl, bumpPort_counts ..⟩
    · have hk : keyOf n i / 16 = n := keyOf_div (lidarSel_lt hi)
      intro e k taken
      rw [lidarPacket_of_entry hn hl hp hi] at hexec
      refine ⟨fun he => ?_, fun he hok => ?_, fun he hok => ?_⟩
      · rw [show clsExpected _ = false from he] at hexec
        exact ⟨_, hexec, hcounted 6, rfl, bumpPort_counts ..⟩
      · rw [show clsExpected _ = true from he, show ldOk _ = false from hok] at hexec
        exact ⟨_, hexec, hcounted 5, rfl, bumpPort_counts ..⟩
      · rw [show clsExpected _ = true from he, show ldOk _ = true from hok] at hexec
        refine ⟨lidarAccept k b s, hexec, (lidarAccept_keeps k b s).units _ rfl, ?_⟩
        have hfound := lidarFound_found k (ldSerial b) s
        obtain ⟨hothers, hlidar, hat⟩ := lidarAccept_heard k b s
        refine ⟨hothers, hlidar, hat, lidarAccept_strays, lidarAccept_opens, fun htaken hf hnone => ?_, fun htaken hf f hopen => ?_⟩
        · have heq := lidarAccept_later htaken hf
          rw [lidarBody_of_none ((lidarFound_frame ..).trans hnone), hk] at heq
          rw [heq]
          exact ⟨(bumpPort_counts ..).around (hfound.counts ..) rfl, hfound.keeps.mem rfl⟩
        · have heq := lidarAccept_later htaken hf
          have hbody := lidarBody_taken ((lidarFound_frame k (ldSerial b) s).trans hopen) b
          rw [← heq] at hbody
          obtain ⟨-, hlast, hmore⟩ := hbody
          refine ⟨hlast, fun hl => ?_⟩
          obtain ⟨f', hf', hunits, htime, hnext, hcrc, horder, hback, hwritten⟩ := hmore hl
          refine ⟨f', hf', hunits, htime, hnext, hcrc, horder, hback, fun hr _ => ?_⟩
          have hport : keyPort k = port := by rw [keyPort, hk, BitVec.ofNat_toNat, BitVec.setWidth_eq]
          rw [hport] at hwritten
          exact FrameWritten.of_alike (.of_keeps hfound.keeps) hfound.path rfl rfl rfl (hwritten hr)

end Sys2Proof.Machine
end

section
/-! The decoders' reads, their counters and the order of samples (R249 to R253, R255). -/
namespace Sys2Proof.Machine

/-! ### Reads (R251) -/

/-- A counter of a decoder. -/
def State.decCount (s : State) (d w : Nat) : Nat := Tab.get 0 (s.dec d).ctr w

/-- What the reads of decoder `d` leave: of the decoder all but the bytes read, the sample's place and the counters of reads. -/
structure DecoderReads (d : Nat) (s t : State) : Prop where
  keeps  : Keeps 0x10F80 s t
  access : AccessKept s t
  keys   : t.intake.keys = s.intake.keys
  dec    : t.dec d = { s.dec d with entryAt := (t.dec d).entryAt, bits := (t.dec d).bits, ctr := (t.dec d).ctr }
  counts : ∀ w, w < 4 → t.decCount d w = s.decCount d w

section
variable {d : Nat} {s t u : State}

theorem DecoderReads.refl (d : Nat) (s : State) : DecoderReads d s s := ⟨.refl s, .refl s, rfl, rfl, fun _ _ => rfl⟩

theorem DecoderReads.trans (h : DecoderReads d s t) (k : DecoderReads d t u) : DecoderReads d s u :=
  ⟨h.keeps.trans k.keeps, h.access.trans k.access, k.keys.trans h.keys, by rw [k.dec, h.dec],
    fun w hw => (k.counts w hw).trans (h.counts w hw)⟩

theorem bumpDec_count_ne (d i : Nat) {v w : Nat} (h : v ≠ w) (s : State) : (bumpDec d w i s).decCount d v = s.decCount d v := by
  rw [State.decCount, bumpDec, updDec_self]; exact get_bump_ne _ _ h

theorem bumpDec_dec (d w i : Nat) (s : State) : (bumpDec d w i s).dec d = { s.dec d with ctr := bump (s.dec d).ctr w i } :=
  updDec_self ..

/-- Counts of reads, beyond the first four counters. -/
theorem DecoderReads.bump {w : Nat} (hw : 4 ≤ w) (i : Nat) (s : State) : DecoderReads d s (bumpDec d w i s) where
  keeps := (bumpDec_keeps ..).up
  access := .of_keeps (bumpDec_keeps ..)
  keys := rfl
  dec := by rw [bumpDec_dec]
  counts v hv := bumpDec_count_ne d i (by omega) s

theorem DecoderReads.updDec {f : Decoder → Decoder} (hf : ∀ x, f x = { x with entryAt := (f x).entryAt, bits := (f x).bits })
    (s : State) : DecoderReads d s (updDec d f s) := by
  have hself : (Machine.updDec d f s).dec d = f (s.dec d) := updDec_self ..
  have hctr : (f (s.dec d)).ctr = (s.dec d).ctr := (congrArg Decoder.ctr (hf (s.dec d))).trans rfl
  refine ⟨(updDec_keeps ..).up, .of_keeps (updDec_keeps ..), rfl, ?_, fun w _ => ?_⟩
  · rw [hself, hctr]; exact hf _
  · rw [State.decCount, hself, hctr]; rfl

theorem DecoderReads.vread (r : Reader) (ctx va n : Nat) (s : State) : DecoderReads d s (vread r ctx va n s).2 := by
  have hkeeps := vread_keeps r ctx va n s
  have hin := hkeeps.intake rfl
  refine ⟨hkeeps.up, vread_accessKept .., congrArg Intake.keys hin, ?_, fun w _ => ?_⟩
  · rw [dec_of_intake hin]
  · rw [State.decCount, dec_of_intake hin]; rfl

theorem decRead_reads (d va n : Nat) (s : State) : DecoderReads d s (decRead d va n s).2 := by
  have hread : DecoderReads d s _ := .vread (.unit (.port (BitVec.ofNat 5 (decPort (s.decEntry d))))) (decCtx (s.decEntry d)) va n s
  unfold decRead
  dsimp only
  generalize vread _ _ va n s = r at hread
  obtain ⟨_ | bs, u⟩ := r
  · exact hread
  · exact hread.trans (.bump (by decide) n u)

theorem readBits_reads (d : Nat) (e : Entry) (s : State) : DecoderReads d s (readBits d e s).2 := by
  unfold readBits
  dsimp only
  split
  · exact .refl d s
  · have hread := decRead_reads d (e.f 0 47 0) (e.f 1 31 0) s
    split
    · exact hread
    · split
      · exact hread.trans (.updDec (fun _ => rfl) _)
      · exact hread.trans (.bump (by decide) 1 _)

theorem openSample_reads (d : Nat) (s : State) : DecoderReads d s (openSample d s).2 := by
  unfold openSample
  extract_lets x o s1 r
  have hstart : DecoderReads d s s1 := (DecoderReads.updDec (f := fun x => { x with entryAt := o.1 }) (fun _ => rfl) s).trans
    (.bump (by decide) o.2 _)
  have hread : DecoderReads d s r.2 := hstart.trans (decRead_reads ..)
  split
  · exact hread
  · exact hread.trans (readBits_reads ..)

/-- Reads leave a decoder's entry in force. -/
theorem DecoderReads.decEntry (h : DecoderReads d s t) : t.decEntry d = s.decEntry d := by
  unfold State.decEntry
  rw [h.dec, h.keeps.img rfl]

theorem DecoderReads.key (h : DecoderReads d s t) (k : Nat) : t.key k = s.key k := key_of_keys h.keys k

end

/-! ### The next sample (R251) -/

section
variable {d : Nat} {s : State}

/-- The decoder at the next sample. -/
def sampleTaken (d : Nat) (s : State) : State := updDec d (fun x => { x with t := (s.dec d).t + 1, picture := 0, entry := [] }) s

theorem nextSample_eq (d : Nat) (s : State) : nextSample d s = if (s.dec d).t + 1 < (s.dec d).n then sampleTaken d s
    else setKnot (decDone ((sampleTaken d s).decEntry d)) (s.dec d).epoch
      (updDec d (fun x => { x with running := false }) (sampleTaken d s)) := rfl

theorem sampleTaken_dec : (sampleTaken d s).dec d = { s.dec d with t := (s.dec d).t + 1, picture := 0, entry := [] } := updDec_self ..

theorem nextSample_dec : (nextSample d s).dec d = { s.dec d with
    t := (s.dec d).t + 1, picture := 0, entry := []
    running := if (s.dec d).t + 1 < (s.dec d).n then (s.dec d).running else false } := by
  rw [nextSample_eq]
  split
  · exact sampleTaken_dec
  · exact (updDec_self ..).trans (by rw [sampleTaken_dec])

theorem nextSample_knot (h : (s.dec d).n ≤ (s.dec d).t + 1) :
    (nextSample d s).knot (decDone (s.decEntry d)) = BitVec.ofNat 32 (s.dec d).epoch := by
  have hentry : (sampleTaken d s).decEntry d = s.decEntry d := by
    unfold State.decEntry
    rw [sampleTaken_dec]
    rfl
  rw [nextSample_eq, if_neg (Nat.not_lt.2 h), hentry, setKnot_self]

/-- The next sample of a decoder that runs. -/
theorem nextSample_next {e : Entry} {x : Decoder} (hentry : s.decEntry d = e)
    (hx : (s.dec d).t = x.t ∧ (s.dec d).n = x.n ∧ (s.dec d).epoch = x.epoch) (hrun : (s.dec d).running = true) :
    NextSample d e x (nextSample d s) := by
  obtain ⟨ht, hn, hepoch⟩ := hx
  unfold NextSample
  rw [← ht, ← hn, ← hepoch, ← hentry]
  refine ⟨?_, ?_, fun hmore => ?_, fun hlast => ⟨?_, nextSample_knot hlast⟩⟩ <;> rw [nextSample_dec]
  · rw [if_pos hmore, hrun]
  · rw [if_neg (Nat.not_lt.2 hlast)]

theorem nextSample_keys : (nextSample d s).intake.keys = s.intake.keys := by
  rw [nextSample_eq]; split <;> rfl

end

/-! ### A sample skipped (R253) -/

section
variable {d : Nat} {s : State}

theorem skipSample_eq (d : Nat) (s : State) : ∃ r, skipSample d s = nextSample d (report r (bumpDec d 2 1 s))
    ∧ severity r.key.cls ≠ 2 ∧ r.key.half = s.dev.leader :=
  ⟨_, rfl, show severity .sampleSkipped ≠ 2 by decide, rfl⟩

/-- A skipped sample is counted and reported, and the next follows. -/
theorem skipSample_skips (d : Nat) (s : State) (hrun : (s.dec d).running = true) : (∀ j, (skipSample d s).key j = s.key j)
    ∧ NextSample d (s.decEntry d) (s.dec d) (skipSample d s) ∧ ((skipSample d s).dec d).delivered = (s.dec d).delivered
    ∧ Reports s.dev.leader s (skipSample d s) ∧ (skipSample d s).decCount d 2 = (s.decCount d 2 + 1) % 2 ^ 64 := by
  obtain ⟨r, heq, hcls, hhalf⟩ := skipSample_eq d s
  have hdec : (report r (bumpDec d 2 1 s)).dec d = { s.dec d with ctr := bump (s.dec d).ctr 2 1 } := by rw [report_dec, bumpDec_dec]
  have hentry : (report r (bumpDec d 2 1 s)).decEntry d = s.decEntry d := by
    unfold State.decEntry
    rw [hdec, (report_keeps ..).img rfl]
    rfl
  rw [heq]
  refine ⟨fun j => ?_, nextSample_next hentry ?_ ?_, ?_, ?_, ?_⟩
  · rw [key_of_keys nextSample_keys, report_key]; rfl
  · rw [hdec]; exact ⟨rfl, rfl, rfl⟩
  · rw [hdec]; exact hrun
  · rw [nextSample_dec, hdec]
  · have hnext (u : State) : HalvesKept HalfUnit.fgCtr u (nextSample d u) :=
      ⟨(nextSample_keeps d u).dev rfl, fun x => congrArg HalfUnit.fgCtr ((nextSample_keeps d u).half rfl rfl x)⟩
    rw [← hhalf]
    exact (report_reports hcls _).around
      ⟨(bumpDec_keeps ..).dev rfl, fun x => congrArg HalfUnit.fgCtr ((bumpDec_keeps ..).half rfl rfl x)⟩ (hnext _)
  · rw [State.decCount, nextSample_dec, hdec]
    exact get_bump_self ..

end

end Sys2Proof.Machine
end

section
/-! Epochs that start, and samples that are skipped (R251, R253). -/
namespace Sys2Proof.Machine

/-! ### Epochs (R251, R253) -/

section
variable {d : Nat} {s : State}

/-- A decoder in use with credit. -/
def State.decReady (s : State) (d : Nat) : Prop := s.decUsed d = true ∧ s.decCredit d = true

theorem epochStart_of_idle (h : ¬s.decReady d ∨ (s.dec d).running = true
      ∨ (s.dec d).ctrlBad = some (s.knot (decCredit (s.decEntry d)))) : epochStart d s = s := by
  refine if_pos ?_
  simp only [Bool.or_eq_true, Bool.not_eq_true', beq_iff_eq]
  rcases h with h | h | h
  · unfold State.decReady at h
    cases hu : s.decUsed d with
    | false => exact .inl (.inl (.inl rfl))
    | true => exact .inl (.inr (Bool.not_eq_true _ ▸ fun hc => h ⟨hu, hc⟩))
  · exact .inl (.inl (.inr h))
  · exact .inr h

/-- The decoder at the start of the epoch that a control block says. -/
def Decoder.started (b : List Byte) (x : Decoder) : Decoder :=
  { x with t := 0, epoch := fld (wordAt b 8) 31 0, running := true, seed := wordAt b 0, n := fld (wordAt b 8) 63 32,
           table := fld (wordAt b 16) 47 0, picture := 0, ctrlBad := none }

/-- The read of a decoder's control block. -/
def ctrlRead (d : Nat) (s : State) : Option (List Byte) × State := decRead d (decCtrl (s.decEntry d)) 64 s

section
variable (hready : s.decReady d) (hrun : (s.dec d).running = false)
    (hbad : (s.dec d).ctrlBad ≠ some (s.knot (decCredit (s.decEntry d))))
include hready hrun hbad

theorem epochStart_waits : ¬(!s.decUsed d || (s.dec d).running || !s.decCredit d
    || (s.dec d).ctrlBad == some (s.knot (decCredit (s.decEntry d)))) = true := by
  simp [hready.1, hready.2, hrun, hbad]

theorem epochStart_of_block {b : List Byte} (hr : (ctrlRead d s).1.filter ctrlOk = some b) :
    epochStart d s = bumpDec d 0 1 (updDec d (Decoder.started b) (ctrlRead d s).2) := by
  unfold epochStart
  dsimp only
  rw [if_neg (epochStart_waits hready hrun hbad)]
  unfold ctrlRead at hr ⊢
  generalize decRead d _ 64 s = r at hr ⊢
  rw [hr]
  rfl

theorem epochStart_of_noBlock (hr : (ctrlRead d s).1.filter ctrlOk = none) : ∃ r, epochStart d s
      = report r (updDec d (fun x => { x with ctrlBad := some (s.knot (decCredit (s.decEntry d))) }) (ctrlRead d s).2)
    ∧ severity r.key.cls ≠ 2 ∧ r.key.half = (ctrlRead d s).2.dev.leader := by
  unfold epochStart
  dsimp only
  rw [if_neg (epochStart_waits hready hrun hbad)]
  unfold ctrlRead at hr ⊢
  generalize decRead d _ 64 s = r at hr ⊢
  rw [hr]
  exact ⟨_, rfl, show severity .decodeCtrl ≠ 2 by decide, rfl⟩

theorem epochStart_keys (j : Nat) : (epochStart d s).key j = s.key j := by
  have hreads := decRead_reads d (decCtrl (s.decEntry d)) 64 s
  cases hr : (ctrlRead d s).1.filter ctrlOk with
  | none =>
    obtain ⟨r, heq, -, -⟩ := epochStart_of_noBlock hready hrun hbad hr
    rw [heq, report_key, updDec_key]
    exact hreads.key j
  | some b =>
    rw [epochStart_of_block hready hrun hbad hr, bumpDec, updDec_key, updDec_key]
    exact hreads.key j

/-- A usable control block starts its epoch. -/
theorem epochStart_starts {b : List Byte} (hr : (ctrlRead d s).1 = some b) (hok : ctrlOk b = true) :
    ((epochStart d s).dec d).running = true ∧ ((epochStart d s).dec d).t = 0 ∧ ((epochStart d s).dec d).picture = 0
    ∧ ((epochStart d s).dec d).epoch = (wordAt b 8).toNat % 2 ^ 32 ∧ ((epochStart d s).dec d).n = (wordAt b 8).toNat / 2 ^ 32
    ∧ ((epochStart d s).dec d).seed = wordAt b 0 ∧ ((epochStart d s).dec d).table = (wordAt b 16).toNat % 2 ^ 48
    ∧ (epochStart d s).decCount d 0 = (s.decCount d 0 + 1) % 2 ^ 64 := by
  have hreads := decRead_reads d (decCtrl (s.decEntry d)) 64 s
  have hfilter : (ctrlRead d s).1.filter ctrlOk = some b := by rw [hr, Option.filter_some, if_pos hok]
  have hdec : (epochStart d s).dec d = { Decoder.started b ((ctrlRead d s).2.dec d) with
      ctr := bump ((ctrlRead d s).2.dec d).ctr 0 1 } := by
    rw [epochStart_of_block hready hrun hbad hfilter, bumpDec_dec, updDec_self]
    rfl
  have hn : fld (wordAt b 8) 63 32 = (wordAt b 8).toNat / 2 ^ 32 := by
    have := (wordAt b 8).isLt
    rw [fld_eq]
    omega
  rw [State.decCount, hdec]
  refine ⟨rfl, rfl, rfl, fld_low .., hn, rfl, fld_low .., (get_bump_self ..).trans ?_⟩
  exact congrArg (fun x => (x + 1) % 2 ^ 64) (hreads.counts 0 (by decide))

/-- A control block that cannot be read or used leaves the decoder idle, with a report. -/
theorem epochStart_refuses (hno : ∀ b, (ctrlRead d s).1 = some b → ctrlOk b = false) :
    ((epochStart d s).dec d).running = false ∧ ((epochStart d s).dec d).ctrlBad = some (s.knot (decCredit (s.decEntry d)))
    ∧ Reports s.dev.leader s (epochStart d s) := by
  have hreads : DecoderReads d s (ctrlRead d s).2 := decRead_reads d (decCtrl (s.decEntry d)) 64 s
  have hfilter : (ctrlRead d s).1.filter ctrlOk = none := by
    cases h : (ctrlRead d s).1 with
    | none => rfl
    | some b => rw [Option.filter_some, if_neg (by rw [hno b h]; decide)]
  obtain ⟨r, heq, hcls, hhalf⟩ := epochStart_of_noBlock hready hrun hbad hfilter
  have hdec : (epochStart d s).dec d
      = { (ctrlRead d s).2.dec d with ctrlBad := some (s.knot (decCredit (s.decEntry d))) } := by
    rw [heq, report_dec, updDec_self]
  have hrunning : ((ctrlRead d s).2.dec d).running = false := by rw [hreads.dec]; exact hrun
  refine ⟨by rw [hdec]; exact hrunning, by rw [hdec], ?_⟩
  rw [hreads.access.dev] at hhalf
  rw [heq, ← hhalf]
  refine (report_reports hcls _).around (hreads.access.fgCtr.trans ?_) (.refl _)
  exact ⟨(updDec_keeps ..).dev rfl, fun x => congrArg HalfUnit.fgCtr ((updDec_keeps ..).half rfl rfl x)⟩

end

/-! ### The picture of a sample (R249, R251) -/

/-- The sample's entry for the next picture: read at its first picture, kept from then on. -/
def sampleFor (d : Nat) (s : State) : Option Entry × State :=
  if (s.dec d).picture = 0 then openSample d s else (some (s.dec d).entry, s)

/-- The next picture of a decoder's sample. -/
def nextPicture (d : Nat) (s : State) : Option (List Byte) :=
  (sampleFor d s).1.bind fun y => pictureAt y ((sampleFor d s).2.dec d).bits (s.dec d).picture

theorem sampleFor_reads (d : Nat) (s : State) : DecoderReads d s (sampleFor d s).2 := by
  unfold sampleFor
  split
  · exact openSample_reads d s
  · exact .refl d s

theorem decodedPicture_of_idle (h : ¬s.decReady d ∨ (s.dec d).running = false) : decodedPicture d s = s := by
  refine if_pos ?_
  simp only [Bool.or_eq_true, Bool.not_eq_true']
  rcases h with h | h
  · unfold State.decReady at h
    cases hu : s.decUsed d with
    | false => exact .inl (.inl rfl)
    | true => exact .inr (Bool.not_eq_true _ ▸ fun hc => h ⟨hu, hc⟩)
  · exact .inl (.inr h)

section
variable (hready : s.decReady d) (hrun : (s.dec d).running = true)
include hready hrun

theorem decodedPicture_of_ready : decodedPicture d s = match (sampleFor d s).1 with
    | none => skipSample d (sampleFor d s).2
    | some e => match pictureAt e ((sampleFor d s).2.dec d).bits (s.dec d).picture with
      | none => skipSample d (bumpDec d 5 1 (sampleFor d s).2)
      | some bs => deliverNext d e bs (sampleFor d s).2 := by
  unfold decodedPicture
  dsimp only
  rw [if_neg (by simp [hready.1, hready.2, hrun])]
  rfl

/-- A sample without a picture is skipped behind its reads. -/
theorem decodedPicture_of_none (h : nextPicture d s = none) :
    ∃ u, DecoderReads d s u ∧ decodedPicture d s = skipSample d u := by
  have hreads := sampleFor_reads d s
  rw [decodedPicture_of_ready hready hrun]
  unfold nextPicture at h
  generalize sampleFor d s = o at h hreads ⊢
  obtain ⟨_ | y, u⟩ := o
  · exact ⟨u, hreads, rfl⟩
  · refine ⟨bumpDec d 5 1 u, hreads.trans (.bump (by decide) 1 u), ?_⟩
    rw [Option.bind_some] at h
    dsimp only
    rw [h]

theorem decodedPicture_of_some {y : Entry} {bs : List Byte} (hy : (sampleFor d s).1 = some y) (h : nextPicture d s = some bs) :
    decodedPicture d s = deliverNext d y bs (sampleFor d s).2 := by
  rw [decodedPicture_of_ready hready hrun]
  unfold nextPicture at h
  rw [hy, Option.bind_some] at h
  rw [hy]
  dsimp only
  rw [h]

/-- A sample that cannot be read or decoded is skipped, with a report. -/
theorem decodedPicture_skips (h : nextPicture d s = none) : (∀ j, (decodedPicture d s).key j = s.key j)
    ∧ NextSample d (s.decEntry d) (s.dec d) (decodedPicture d s) ∧ ((decodedPicture d s).dec d).delivered = (s.dec d).delivered
    ∧ Reports s.dev.leader s (decodedPicture d s) ∧ (decodedPicture d s).decCount d 2 = (s.decCount d 2 + 1) % 2 ^ 64 := by
  obtain ⟨u, hreads, heq⟩ := decodedPicture_of_none hready hrun h
  obtain ⟨hkeys, hnext, hdelivered, hreport, hcount⟩ := skipSample_skips d u (by rw [hreads.dec]; exact hrun)
  rw [heq]
  refine ⟨fun j => (hkeys j).trans (hreads.key j), ?_, ?_, ?_, ?_⟩
  · rw [hreads.decEntry, hreads.dec] at hnext
    exact hnext
  · rw [hdelivered, hreads.dec]
  · rw [hreads.access.dev] at hreport
    exact hreport.around hreads.access.fgCtr (.refl _)
  · rw [hcount, hreads.counts 2 (by decide)]

end

end

end Sys2Proof.Machine
end

section
/-! A decoded picture delivered as one frame of its decoder's key (R238, R249 to R251). -/
namespace Sys2Proof.Machine

/-! ### The decoder's entry in force (R238) -/

section
variable {k d : Nat} {s t : State}

/-- The key of a decoder's entry. -/
def decKey (e : Entry) : Nat := keyOf (decPort e) (decSel e)

/-- The entry under which the next picture is delivered. -/
def State.entryNext (s : State) (d : Nat) : Entry :=
  if s.changeDue (decKey (s.decEntry d)) ((s.key (decKey (s.decEntry d))).seq + 1) = true then s.img.entry 14 d else s.decEntry d

theorem takeDecoder_eq (d : Nat) (s : State) : takeDecoder d s
    = if s.changeDue (decKey (s.decEntry d)) ((s.key (decKey (s.decEntry d))).seq + 1) = true then
        updDec d (fun x => { x with held := none }) s else s := rfl

theorem takeDecoder_keys : (takeDecoder d s).intake.keys = s.intake.keys := by rw [takeDecoder_eq]; split <;> rfl

theorem takeDecoder_dec : (takeDecoder d s).dec d = { s.dec d with held := ((takeDecoder d s).dec d).held } := by
  rw [takeDecoder_eq]
  split
  · rw [updDec_self]
  · rfl

theorem takeDecoder_decEntry (d : Nat) (s : State) : (takeDecoder d s).decEntry d = s.entryNext d := by
  rw [takeDecoder_eq, State.entryNext]
  split
  · unfold State.decEntry
    rw [updDec_self]
    rfl
  · rfl

/-- A change taken at a start leaves no decoder a held entry that it had not. -/
theorem takeDecoders_held (h : (s.dec d).held = none) (k : Nat) : ((takeDecoders k s).dec d).held = none := by
  refine forEach_invariant (P := fun u => (u.dec d).held = none) (fun e u hu => ?_) _ s h
  split
  · by_cases he : d = e
    · rw [he, updDec_self]
    · rw [updDec_ne _ _ _ he]; exact hu
  · exact hu

theorem takeChange_held (h : (s.dec d).held = none) (k : Nat) (seq : Word) : ((takeChange k seq s).2.dec d).held = none := by
  by_cases hheld : (s.key k).heldRoute = none
  · rw [takeChange_of_none hheld]; exact h
  cases hdue : s.changeDue k seq with
  | false => rw [takeChange_of_early hdue]; exact h
  | true =>
    obtain ⟨keep, heq⟩ := takeChange_of_due hheld hdue
    rw [heq, updPort_dec]
    exact takeDecoders_held h k

theorem takeCommit_dec (k : Nat) (seq : Word) (o : Origin) (s : State) (d : Nat) : (takeCommit k seq o s).2.dec d = s.dec d := by
  unfold takeCommit
  split
  · rfl
  · dsimp only
    split
    · rfl
    · rfl
    · exact dec_of_intake (commitReply_intake ..) d
    · exact dec_of_intake (commitReply_intake ..) d

theorem startSettled_held {o : Origin} (h : (s.dec d).held = none) : ((startSettled k o s).dec d).held = none := by
  rw [startSettled, takeCommit_dec]
  exact takeChange_held (by rw [startMarked_dec]; exact h) ..

theorem startSettled_dec_of_early {o : Origin} (h : s.changeDue k (startSeq k o s) = false) (d : Nat) :
    (startSettled k o s).dec d = s.dec d := by
  have hearly : (startMarked k o s).changeDue k (startSeq k o s) = false := (startMarked_changeDue _).trans h
  rw [startSettled, takeCommit_dec, startChanged, takeChange_of_early hearly]
  exact startMarked_dec d

/-- The entry under which a picture is delivered stays in force through the start of its frame. -/
theorem entryNext_started (u : State) (d t : Nat) :
    (startSettled (decKey (u.entryNext d)) (.decoder t) (takeDecoder d u)).decEntry d = u.entryNext d := by
  have himg : (startSettled (decKey (u.entryNext d)) (.decoder t) (takeDecoder d u)).img = u.img :=
    ((startSettled_keeps ..).img rfl).trans ((takeDecoder_keeps ..).img rfl)
  unfold State.decEntry
  rw [himg]
  cases hdue : u.changeDue (decKey (u.decEntry d)) ((u.key (decKey (u.decEntry d))).seq + 1) with
  | true =>
    have hnone : ((takeDecoder d u).dec d).held = none := by rw [takeDecoder_eq, if_pos hdue, updDec_self]
    rw [startSettled_held hnone, State.entryNext, if_pos hdue]
    rfl
  | false =>
    have hsame : takeDecoder d u = u := by rw [takeDecoder_eq, hdue]; rfl
    have hentry : u.entryNext d = u.decEntry d := by rw [State.entryNext, hdue]; rfl
    have hearly : u.changeDue (decKey (u.decEntry d)) (startSeq (decKey (u.decEntry d)) (.decoder t) u) = false := hdue
    rw [hentry, hsame, startSettled_dec_of_early hearly]
    rfl

end

/-! ### The picture written (R244, R249) -/

section
variable {k : Nat} {s : State}

theorem putRows_work (k : Nat) (f : Frame) (px : Nat → Nat → Nat → List Nat) (l : List Nat) (s : State) :
    ∃ m, FrameWork k m 0 s (forEach l (fun y => putRow k f y (px y)) s) := by
  induction l generalizing s with
  | nil => exact ⟨0, .refl k s⟩
  | cons y l ih =>
    obtain ⟨m, hrest⟩ := ih (putRow k f y (px y) s)
    exact ⟨_, (putRow_write k f y (px y) s).toFrameWork.trans hrest⟩

theorem putPicture_work (k : Nat) (f : Frame) (bs : List Byte) (s : State) : ∃ m, FrameWork k m 0 s (putPicture k f bs s) := by
  unfold putPicture
  extract_lets rc dt n s1 pic
  have hsize : ∃ m, FrameWork k m 0 s s1 := by
    unfold s1
    split
    · exact ⟨0, .refl k s⟩
    · exact ⟨ffSize, setFlag_work ..⟩
  obtain ⟨m, hsize⟩ := hsize
  obtain ⟨m', hrows⟩ := putRows_work k f
    (fun y _ x => pictureSamples dt (rcpWidth rc) (rcpHeight rc) pic y x) (List.range (tensorDims rc).1) s1
  exact ⟨_, hsize.trans hrows⟩

/-- The open frame's picture written where the frame is routed. -/
def pictureWritten (k : Nat) (bs : List Byte) (s : State) : State :=
  match (s.key k).frame with
  | some f => if f.routed then putPicture k f bs s else s
  | none => s

theorem pictureWritten_work (k : Nat) (bs : List Byte) (s : State) : ∃ m, FrameWork k m 0 s (pictureWritten k bs s) := by
  unfold pictureWritten
  split
  · split
    · exact putPicture_work ..
    · exact ⟨0, .refl k s⟩
  · exact ⟨0, .refl k s⟩

end

/-! ### Delivery (R250, R251) -/

/-- The frame of a picture: its counter, time and knot are the decoder's. -/
def Frame.pictured (e : Entry) (x : Decoder) (bs : List Byte) (f : Frame) : Frame :=
  { f with counter := some ((e.f 2 31 0 + x.picture) % 2 ^ 32), time := some (e.getD 3 0 + w64 (x.picture * e.f 2 63 32)),
           units := rcpHeight f.recipe, payload := bs, knot := some ((x.delivered + 1).toNat % 2 ^ 32) }

/-- The decoder that has delivered a picture. -/
def pictureCounted (d : Nat) (e : Entry) (x : Decoder) (s : State) : State :=
  bumpDec d 3 1 (updDec d (fun y => { y with delivered := x.delivered + 1, picture := y.picture + 1, entry := e }) s)

/-- The frame of a picture, closed. -/
def pictureFrame (k d : Nat) (e : Entry) (bs : List Byte) (s : State) : State :=
  closeFrame k 0 (pictureWritten k bs (updFrame k (Frame.pictured e (s.dec d) bs) (beginFrame k (.decoder (s.dec d).t) s)))

section
variable {k d : Nat} {e : Entry} {bs : List Byte} {s : State}

/-- The frame of a picture closes behind the frames of its key, and no decoder changes but for the entry that it held. -/
theorem pictureFrame_closes (k d : Nat) (e : Entry) (bs : List Byte) (s : State) :
    (∀ j, j ≠ k → (pictureFrame k d e bs s).key j = s.key j)
    ∧ (pictureFrame k d e bs s).dec d
      = { s.dec d with held := ((startSettled k (.decoder (s.dec d).t) s).dec d).held }
    ∧ ((pictureFrame k d e bs s).key k).frame = none
    ∧ ∃ f, ((pictureFrame k d e bs s).key k).closed.getLast? = some f ∧ f.decoded = true ∧ f.position = (s.dec d).t
      ∧ f.seq = (s.key k).seq + 1 ∧ f.counter = some ((e.f 2 31 0 + (s.dec d).picture) % 2 ^ 32)
      ∧ f.knot = some (((s.dec d).delivered + 1).toNat % 2 ^ 32) ∧ f.payload = bs := by
  obtain ⟨hstarted, m, hframe⟩ := beginFrame_started k (.decoder (s.dec d).t) s
  have hopen := (updFrame_frame k (Frame.pictured e (s.dec d) bs) (beginFrame k (.decoder (s.dec d).t) s)).trans (congrArg _ hframe)
  obtain ⟨m', hwork⟩ := pictureWritten_work k bs (updFrame k (Frame.pictured e (s.dec d) bs) (beginFrame k (.decoder (s.dec d).t) s))
  obtain ⟨g, hg, hfilled⟩ := hwork.opened _ hopen
  obtain ⟨_, _, hclosed⟩ := closeFrame_key k 0
    (pictureWritten k bs (updFrame k (Frame.pictured e (s.dec d) bs) (beginFrame k (.decoder (s.dec d).t) s)))
  have hdone (x : Key) : (closedFrame k 0 x g).2 = { g with flags := g.flags ||| 0 } := by
    unfold closedFrame
    rw [show g.fed = none by rw [hfilled.eq]; rfl]
    exact congrArg Prod.snd (if_pos (by rw [hfilled.eq]; rfl))
  refine ⟨fun j hj => ?_, ?_, closeFrame_frame .., { g with flags := g.flags ||| 0 }, ?_, ?_⟩
  · exact (closeFrame_ne _ _ _ hj).trans ((hwork.others j hj).trans ((updKey_ne _ _ _ hj).trans (hstarted.others j hj)))
  · exact (dec_of_decoders (closeFrame_decoders ..) d).trans ((dec_of_decoders hwork.decoders d).trans (hstarted.dec d))
  · rw [pictureFrame, hclosed, hg]
    simp [hdone]
  · rw [hfilled.eq]
    exact ⟨rfl, rfl, rfl, rfl, rfl, rfl⟩

end

end Sys2Proof.Machine
end

section
/-! The decoders' commands (R249 to R253). -/
namespace Sys2Proof.Machine

section
variable {d : Nat} {e : Entry} {bs : List Byte} {x : Decoder} {s v : State}

/-! ### A picture counted -/

theorem pictureCounted_dec : (pictureCounted d e x v).dec d = { v.dec d with
    delivered := x.delivered + 1, picture := (v.dec d).picture + 1, entry := e, ctr := bump (v.dec d).ctr 3 1 } := by
  rw [pictureCounted, bumpDec_dec, updDec_self]

theorem pictureCounted_keys : (pictureCounted d e x v).intake.keys = v.intake.keys := rfl

/-- The decoder that goes on behind a picture: to the next picture, or behind the sample's last to the next sample. -/
def pictureNext (d : Nat) (e : Entry) (x : Decoder) (s : State) : State :=
  if x.picture < e.f 0 54 49 then s else nextSample d (bumpDec d 1 1 s)

theorem pictureNext_keys : (pictureNext d e x s).intake.keys = s.intake.keys := by
  unfold pictureNext
  split
  · rfl
  · exact nextSample_keys

/-- What a delivered picture leaves of its decoder. -/
theorem pictureNext_delivers {te : Entry} (hdec : v.dec d = { x with held := (v.dec d).held }) (hrun : x.running = true)
    (hentry : v.decEntry d = te) :
    let t := pictureNext d e x (pictureCounted d e x v)
    (t.dec d).delivered = x.delivered + 1 ∧ t.decCount d 3 = (Tab.get 0 x.ctr 3 + 1) % 2 ^ 64
    ∧ (x.picture < e.f 0 54 49 → (t.dec d).t = x.t ∧ (t.dec d).picture = x.picture + 1 ∧ (t.dec d).running = true)
    ∧ (e.f 0 54 49 ≤ x.picture → NextSample d te x t ∧ t.decCount d 1 = (Tab.get 0 x.ctr 1 + 1) % 2 ^ 64) := by
  intro t
  have hcounted : (pictureCounted d e x v).dec d = { x with
      held := (v.dec d).held, delivered := x.delivered + 1, picture := x.picture + 1, entry := e, ctr := bump x.ctr 3 1 } := by
    rw [pictureCounted_dec, hdec]
  by_cases hmore : x.picture < e.f 0 54 49
  · have ht : t = pictureCounted d e x v := if_pos hmore
    rw [State.decCount, ht, hcounted]
    exact ⟨rfl, get_bump_self .., fun _ => ⟨rfl, rfl, hrun⟩, fun h => absurd hmore (Nat.not_lt.2 h)⟩
  · have ht : t = nextSample d (bumpDec d 1 1 (pictureCounted d e x v)) := if_neg hmore
    have hlast := (bumpDec_dec d 1 1 (pictureCounted d e x v)).trans (by rw [hcounted])
    have hsame : (bumpDec d 1 1 (pictureCounted d e x v)).decEntry d = te := by
      rw [← hentry, State.decEntry, State.decEntry, hlast]
      rfl
    have hnext := nextSample_next (x := x) hsame (by rw [hlast]; exact ⟨rfl, rfl, rfl⟩) (by rw [hlast]; exact hrun)
    rw [State.decCount, State.decCount, ht, nextSample_dec, hlast]
    refine ⟨rfl, ?_, fun h => absurd h hmore, fun _ => ⟨hnext, ?_⟩⟩
    · exact (get_bump_ne _ _ (by decide)).trans (get_bump_self ..)
    · exact (get_bump_self ..).trans (congrArg (fun c => (c + 1) % 2 ^ 64) (get_bump_ne _ _ (by decide)))

end

/-! ### A picture delivered -/

section
variable {d : Nat} {y : Entry} {bs : List Byte} {s u : State}

theorem pictureWritten_keeps (k : Nat) (bs : List Byte) (s : State) : Keeps 0x10F90 s (pictureWritten k bs s) := by
  unfold pictureWritten
  split
  · split
    · exact putPicture_keeps ..
    · exact .refl s
  · exact .refl s

theorem pictureFrame_img (k d : Nat) (e : Entry) (bs : List Byte) (s : State) : (pictureFrame k d e bs s).img = s.img :=
  ((closeFrame_keeps ..).img rfl).trans (((pictureWritten_keeps ..).img rfl).trans
    (((updFrame_keeps ..).img rfl).trans ((beginFrame_keeps ..).img rfl)))

theorem deliver_eq_next (d : Nat) (e : Entry) (bs : List Byte) (s : State) : deliver d e bs s
    = pictureNext d e (s.dec d) (pictureCounted d e (s.dec d) (pictureFrame (decKey (s.decEntry d)) d e bs s)) := rfl

theorem takeDecoder_used (d : Nat) (u : State) : (takeDecoder d u).decUsed d = (u.dev.imageValid && decValid (u.entryNext d)) := by
  rw [State.decUsed, takeDecoder_decEntry, (takeDecoder_keeps d u).dev rfl]

theorem deliverNext_eq (d : Nat) (y : Entry) (bs : List Byte) (u : State) : deliverNext d y bs u
    = if (takeDecoder d u).decUsed d then deliver d y bs (takeDecoder d u)
      else updDec d (fun x => { x with running := false }) (takeDecoder d u) := rfl

/-- Reads leave the entry under which the next picture is delivered. -/
theorem DecoderReads.entryNext (h : DecoderReads d s u) : u.entryNext d = s.entryNext d := by
  have himg := h.keeps.img rfl
  unfold State.entryNext
  rw [h.decEntry, h.key, changeDue_congr (h.keeps.dev rfl) (fun x => h.access.pathOk.half x) (h.keeps.rec_ rfl) himg, himg]

/-- An agreement that took the decoder out of use stops it. -/
theorem deliverNext_stops (hreads : DecoderReads d s u) (hvalid : decValid (s.entryNext d) = false) (y : Entry) (bs : List Byte) :
    (∀ j, (deliverNext d y bs u).key j = s.key j) ∧ ((deliverNext d y bs u).dec d).running = false
    ∧ ((deliverNext d y bs u).dec d).delivered = (s.dec d).delivered ∧ ((deliverNext d y bs u).dec d).t = (s.dec d).t := by
  have hused : ¬(takeDecoder d u).decUsed d = true := by
    rw [takeDecoder_used, hreads.entryNext, hvalid, Bool.and_false]
    decide
  rw [deliverNext_eq, if_neg hused, updDec_self, takeDecoder_dec, hreads.dec]
  exact ⟨fun j => (key_of_keys takeDecoder_keys j).trans (hreads.key j), rfl, rfl, rfl⟩

/-- A decoded picture is delivered as one frame of the decoder's key, and the decoder goes on. -/
theorem deliverNext_delivers (hreads : DecoderReads d s u) (himage : s.dev.imageValid = true)
    (hvalid : decValid (s.entryNext d) = true) (hrun : (s.dec d).running = true) (y : Entry) (bs : List Byte) :
    let t := deliverNext d y bs u
    let k := decKey (s.entryNext d)
    let x := s.dec d
    (∀ j, j ≠ k → t.key j = s.key j)
    ∧ (t.dec d).delivered = x.delivered + 1 ∧ t.decCount d 3 = (s.decCount d 3 + 1) % 2 ^ 64 ∧ (t.key k).frame = none
    ∧ (∃ f, (t.key k).closed.getLast? = some f ∧ f.decoded = true ∧ f.position = x.t ∧ f.seq = (s.key k).seq + 1
        ∧ f.counter = some ((y.f 2 31 0 + x.picture) % 2 ^ 32) ∧ f.knot = some ((x.delivered + 1).toNat % 2 ^ 32) ∧ f.payload = bs)
    ∧ (x.picture < y.f 0 54 49 → (t.dec d).t = x.t ∧ (t.dec d).picture = x.picture + 1 ∧ (t.dec d).running = true)
    ∧ (y.f 0 54 49 ≤ x.picture → NextSample d (s.entryNext d) x t ∧ t.decCount d 1 = (s.decCount d 1 + 1) % 2 ^ 64) := by
  intro t k x
  have hnext := hreads.entryNext
  have hentry := takeDecoder_decEntry d u
  have hused : (takeDecoder d u).decUsed d = true := by rw [takeDecoder_used, hnext, hvalid, hreads.keeps.dev rfl, himage]; rfl
  have ht : t = deliver d y bs (takeDecoder d u) := (deliverNext_eq ..).trans (if_pos hused)
  have htime : (takeDecoder d u).dec d = { x with
      held := ((takeDecoder d u).dec d).held, entryAt := (u.dec d).entryAt, bits := (u.dec d).bits, ctr := (u.dec d).ctr } := by
    rw [takeDecoder_dec, hreads.dec]
  rw [deliver_eq_next, hentry, hnext] at ht
  generalize hv : takeDecoder d u = v at ht hentry htime
  have hkeys (j : Nat) : v.key j = s.key j := by rw [← hv, key_of_keys takeDecoder_keys, hreads.key]
  obtain ⟨hothers, hdec, hclosed, f, hf, hdecoded, hposition, hseq, hcounter, hknot, hpayload⟩ := pictureFrame_closes k d y bs v
  have hsettled := entryNext_started u d (v.dec d).t
  have hframe : (pictureFrame k d y bs v).decEntry d = s.entryNext d := by
    rw [hnext, hv] at hsettled
    rw [← hsettled, State.decEntry, State.decEntry, pictureFrame_img, hdec, (startSettled_keeps ..).img rfl]
  obtain ⟨hdelivered, hcount, hmore, hlast⟩ := pictureNext_delivers (e := y) (x := v.dec d) (by rw [hdec])
    (by rw [htime]; exact hrun) hframe
  rw [← ht] at hdelivered hcount hmore hlast
  have htkeys (j : Nat) : t.key j = (pictureFrame k d y bs v).key j := by
    rw [ht]; exact key_of_keys (pictureNext_keys.trans pictureCounted_keys) j
  have hcounts (w : Nat) (hw : w < 4) : Tab.get 0 (v.dec d).ctr w = s.decCount d w := by
    rw [htime]; exact hreads.counts w hw
  rw [hcounts 3 (by decide)] at hcount
  rw [hcounts 1 (by decide)] at hlast
  rw [hkeys] at hseq
  rw [htime] at hdelivered hposition hcounter hknot hmore hlast
  refine ⟨fun j hj => (htkeys j).trans ((hothers j hj).trans (hkeys j)), hdelivered, hcount, by rw [htkeys]; exact hclosed,
    ⟨f, by rw [htkeys]; exact hf, hdecoded, hposition, hseq, hcounter, hknot, hpayload⟩, hmore, hlast⟩

end

/-- Settles O41: the reads leave the decoder's place, entry and credit, a skipped sample and a delivered picture then work on the
decoder and on its key alone, and the entry that an agreement brings stands through the start of the frame. -/
theorem decodersDeliverSamples : Obligations.DecodersDeliverSamples := by
  intro d s hup x e credit units
  have hepoch : exec (.decoderEpochStart d) s = .next (epochStart d.toNat s) := intake_of_up hup
  have hpicture : exec (.decodedPicture d) s = .next (decodedPicture d.toNat s) := intake_of_up hup
  have hunits : OnlyUnits units s (decodedPicture d.toNat s) := (decodedPicture_keeps ..).units _ rfl
  refine ⟨fun h => ?_, fun hready hrun hbad => ?_, fun h => ?_, fun hready hrun => ?_⟩
  · rw [hepoch, epochStart_of_idle h]
  · exact ⟨_, hepoch, (epochStart_keeps ..).units _ rfl, epochStart_keys hready hrun hbad,
      fun b hr hok => epochStart_starts hready hrun hbad hr hok, epochStart_refuses hready hrun hbad⟩
  · rw [hpicture, decodedPicture_of_idle h]
  · have hreads := sampleFor_reads d.toNat s
    intro o pic k e' k'
    refine ⟨fun hnone => ?_, fun hsome hvalid => ?_, fun y bs hy hbs hvalid => ?_⟩
    · obtain ⟨hkeys, hnext, hdelivered, hreport, hcount⟩ := decodedPicture_skips hready hrun hnone
      exact ⟨_, hpicture, hunits, hkeys, hnext, hdelivered, hreport, hcount⟩
    · obtain ⟨bs, hbs⟩ := Option.ne_none_iff_exists'.1 hsome
      obtain ⟨y, hy, -⟩ := Option.bind_eq_some_iff.1 hbs
      obtain ⟨hkeys, hstopped, hdelivered, ht⟩ := deliverNext_stops hreads hvalid y bs
      rw [← decodedPicture_of_some hready hrun hy hbs] at hkeys hstopped hdelivered ht
      exact ⟨_, hpicture, hunits, hkeys, hstopped, hdelivered, ht⟩
    · obtain ⟨hothers, hdelivered, hcount, hclosed, ⟨f, hf, hdecoded, hposition, hseq, hcounter, hknot, hpayload⟩, hmore, hlast⟩ :=
        deliverNext_delivers hreads (Bool.and_eq_true_iff.1 hready.1).1 hvalid hrun y bs
      rw [← decodedPicture_of_some hready hrun hy hbs] at hothers hdelivered hcount hclosed hf hmore hlast
      exact ⟨_, f, hpicture, hunits, hothers, hdelivered, hcount, hclosed, hf, hdecoded, hposition, hseq, hcounter, hknot, hpayload,
        hmore, hlast⟩

end Sys2Proof.Machine
end
